-- ==== Sys2Proof/Word.lean ====
section
/-! DEFINITION. Words of the machine and the one container used for sparse data: a list of (key, value) pairs with strictly rising keys. -/

namespace Sys2Proof

abbrev Byte := BitVec 8
abbrev Half := BitVec 16
/-- A lane register, an instruction word, a mask register. -/
abbrev Word := BitVec 32
/-- An s register, a program counter, a special register. -/
abbrev DWord := BitVec 64

/-- Sparse data by key, kept sorted with no key twice. -/
abbrev FMap (α : Type) := List (Nat × α)

namespace FMap
variable {α : Type}

def find : FMap α → Nat → Option α
  | [], _ => none
  | (k, v) :: r, n => if k = n then some v else if k < n then find r n else none

def has (m : FMap α) (k : Nat) : Bool := (m.find k).isSome

def ins : FMap α → Nat → α → FMap α
  | [], n, v => [(n, v)]
  | (k, w) :: r, n, v =>
    if k = n then (n, v) :: r else if k < n then (k, w) :: ins r n v else (n, v) :: (k, w) :: r

def del : FMap α → Nat → FMap α
  | [], _ => []
  | (k, w) :: r, n => if k = n then r else if k < n then (k, w) :: del r n else (k, w) :: r

/-- Change the value at a key that is present; an absent key stays absent. -/
def upd : FMap α → Nat → (α → α) → FMap α
  | [], _, _ => []
  | (k, w) :: r, n, f => if k = n then (k, f w) :: r else (k, w) :: upd r n f

def keys (m : FMap α) : List Nat := m.map Prod.fst
def vals (m : FMap α) : List α := m.map Prod.snd

/-- Strictly rising keys. -/
def sorted : FMap α → Bool
  | [] => true
  | [_] => true
  | (k, _) :: (k', v') :: r => decide (k < k') && sorted ((k', v') :: r)

end FMap

/-- The lanes 0 to 31, in ascending order. -/
def lanes32 : List Nat := List.range 32

/-- Bit l of a lane mask. -/
def Word.lane (m : Word) (l : Nat) : Bool := m.getLsbD l

/-- The lane mask with exactly the lanes of a list. -/
def laneMask (ls : List Nat) : Word := ls.foldl (fun m l => m ||| (BitVec.ofNat 32 (2 ^ l))) 0

/-- The lanes of a mask in ascending order. -/
def lanesOf (m : Word) : List Nat := lanes32.filter (fun l => m.getLsbD l)

def popcount {n : Nat} (x : BitVec n) : Nat := ((List.range n).filter (fun i => x.getLsbD i)).length

/-- ceil(a / b) for positive b (R13). -/
def ceilDiv' (a b : Nat) : Nat := (a + b - 1) / b

end Sys2Proof
end

