-- ==== Sys2Proof/Config.lean ====
section
/-! DEFINITION. What the spec leaves to the implementation or to standards it only names: constants without a body, so that nothing can be
proved of their values. `clocks`, `tagStart`, `l1Victim` and `groupPick` are applied to State.ownDraws. -/

namespace Sys2Proof.Config

/-- Core clocks that one step of the model takes (timing is left out; log 2). -/
opaque clocks : Nat → Nat

/-- Where the search for a free page-request tag starts (R120: which free tag is chosen is not architectural). -/
opaque tagStart : Nat → Nat

/-- The way of a full L1 set that a miss replaces, modulo the number of ways (R135). -/
opaque l1Victim : Nat → Nat

/-- Which entry of an ill-formed 64 KiB group translates, modulo 16 (R107). -/
opaque groupPick : Nat → Nat

/-- The plane of a chunk, modulo the number of up planes, where R337 divides by a sum of zero (PLANE_BW all zero). -/
opaque splitPick : (draw chunk : Nat) → Nat

/-- What PKDATA returns for m0, which names an issue group a parked pack does not have (R182, R400). -/
opaque pkMask : Nat → Word

/-- The byte at an address whose 64-byte line was written under one key and is read under another (R429): a function of the address, the two keys
and the line as it was written. -/
opaque foreignByte : (pa wrote reads : Nat) → (line : List Byte) → Byte

/-- Bytes 0 to 3 of the AES-256-CMAC of 8 bytes under the token key of a generation (R321). -/
opaque cmac : Nat → List Byte → Word

/-- SHA-384 (R406, R428). -/
opaque sha384 : List Byte → List Byte

/-- The byte at an offset of the page that holds a signed execution record, from the facts that R428 puts into it: their layout in the page and the two
signatures are not in the spec. -/
opaque recordByte : (facts : List Byte) → (off : Nat) → Byte

/-- SHA-384 of the firmware loaded at bring-up (R428): 0 supervisor, 1 emulation, 2 reduce blocks. -/
opaque firmwareDigest : Nat → List Byte

/-- Where a hart starts when it leaves reset (R427, R448 name firmware and no address). -/
opaque hartStart : Nat → DWord

/-- Whether a wrapped key blob unwraps (R430). -/
opaque unwraps : List Byte → Bool

/-- Whether the boot image in slot 0 or 1 passes R427. -/
opaque imageOk : Nat → Bool

end Sys2Proof.Config
end

