-- ==== Sys2Proof/Syntax.lean ====
section
/-! DEFINITION. Abstract syntax: every row of the opcode table is one constructor of Instr. Rows with a word encoding carry its fields
(R28 to R55), with their PFX and IMX words, which issue as one unit (R33); the other rows are steps of the package and carry the data
that comes with the step. -/

namespace Sys2Proof

/-- A 7-bit vector register field (R34). -/
abbrev VReg := BitVec 7

/-- The PFX word of a unit (R31). -/
structure Pfx where
  mr : BitVec 3
  mz : Bool
  rm : BitVec 3
  sat : Bool
  f4 : VReg
  deriving DecidableEq, Repr

/-- What an unprefixed instruction runs with: every field neutral (R31). -/
def Pfx.neutral : Pfx := { mr := 0, mz := false, rm := 7, sat := false, f4 := 0 }

def Pfx.mapF4 (f : VReg → VReg) (p : Pfx) : Pfx := { p with f4 := if p.f4 = 0 then 0 else f p.f4 }

/-- The immediate of an instruction that accepts IMX (R30): its own field, and the 21 bits of an IMX word before it. -/
structure Imm (n : Nat) where
  hi : Option (BitVec 21)
  lo : BitVec n
  deriving DecidableEq, Repr

/-- A collective chunk (R340, R341): sending rank, group, sequence number, CRC, chunk number, phase (0 up or around the ring, 1 down),
its plane, the bytes with their poison, the missing ranks it carries. -/
structure Chunk where
  src : Nat
  group : Nat
  seq : Word
  crc : Word
  idx : Nat
  phase : Nat
  plane : Nat
  bytes : List Byte
  psn : Bool
  missing : List Nat
  deriving DecidableEq, Repr

/-- What a remote package asks of the tensor range (R321 to R329). -/
inductive ReqKind where
  | read (off len : Nat)
  | write (off : Nat) (bytes : List Byte) (psn : Bool)
  /-- A TCOPY write with RED: R163's combining with element type `et` and operator `op`. -/
  | reduce (off et op : Nat) (bytes : List Byte) (psn : Bool)
  /-- An atomic of R329 or R330: OP code, 64-bit width, operand list, compare value or bound, poison of the operands, RED rather than ATOMR. -/
  | atom (off op : Nat) (w64 : Bool) (vals : List DWord) (cmp : DWord) (psn red : Bool)
  /-- A chunk of a collective, on VC 3 (R340). -/
  | chunk (ch : Chunk)
  deriving DecidableEq, Repr

/-- A tensor request as it travels on VC 1 (R316, R318, R321). -/
structure RemoteReq where
  pkg : Nat
  ctx : Nat
  seq : Nat
  plane : Nat
  token : DWord
  kind : ReqKind
  deriving DecidableEq, Repr

/-- A response on VC 2 (R315, R319, R329). -/
inductive RemoteResp where
  | old (v : DWord) (psn ok : Bool)
  | data (bytes : List Byte) (psn : Bool)
  | ack
  | gone
  | token
  deriving DecidableEq, Repr

/-- A control-space access from outside the packs: a host core, a supervisor core, or another package (R355). -/
inductive CtlOp where
  | load (n : Nat)
  | store (bytes : List Byte)
  | amo (op : Nat) (w64 : Bool) (v c : DWord)
  deriving DecidableEq, Repr

/-- Who makes such an access: another package, with its sequence number (R318), or a host core or supervisor core of this one (R97, R138). -/
inductive CtlSrc where
  | peer (pkg seq : Nat)
  | host (h : Nat)
  | sup (c : Nat)
  deriving DecidableEq, Repr

structure CtlReq where
  src : CtlSrc
  pa : Nat
  op : CtlOp
  deriving DecidableEq, Repr

/-- What passes between a home and its buddy (R356), beside the bytes that come with it: the offset of bytes of the buddy's home to hold here, or that the buddy
holds the oldest write of this package's home that it was sent. -/
inductive MirrorMsg where
  | hold (off : Nat)
  | held
  /-- The home has performed that request of a package, with this answer. -/
  | did (src seq : Nat) (r : RemoteResp)
  deriving DecidableEq, Repr

/-- A unit with power states of its own (R432, R434). -/
inductive PowerUnit where
  | core (c : Nat)
  | die (d : Nat)
  | port (p : Nat)
  deriving DecidableEq, Repr

/-- What a REGISTER_WRITE names: a class 0xC offset, or a CSR of a core's supervisor core, or 8 bytes of the scratchpad that it
reaches (R6, R397, R399). -/
inductive RegTarget where
  | mmio (off : Nat)
  | csr (c num : Nat)
  | spad (c off : Nat)
  deriving DecidableEq, Repr

/-- The operations and events of the opcode table. -/
inductive Instr where
  /-- NOP (R222): Advances lpc of the issue group by 4 and changes nothing else. -/
  | nop
  /-- BRA (R224): Every lane of the issue group branches to PC plus four times the signed word offset. -/
  | bra (o : BitVec 25)
  /-- BRC (R224): Each lane whose mask bit equals S branches; the other lanes fall through. -/
  | brc (m : BitVec 3) (k : BitVec 1) (o : BitVec 21)
  /-- BRX (R225): Each lane branches to the 64-bit target held in a register pair, after poison and alignment checks. -/
  | brx (a : VReg)
  /-- CALL (R192): Creates a new frame at the next depth, copies the arguments and sends the callees to a relative target. -/
  | call (dem argc retc : BitVec 4) (ab : VReg) (off : BitVec 32)
  /-- CALLX (R192): Creates a new frame at the next depth, copies the arguments and sends the callees to the byte target in an s register. -/
  | callx (dem argc retc : BitVec 4) (ab : VReg) (r : BitVec 5)
  /-- RET (R193): Copies the results to the caller frame and makes the lanes returned to the caller depth, or ends a handler. -/
  | ret
  /-- UNWIND (R195): Makes the lanes returned across one or more frames without copying any value. -/
  | unwind (n : BitVec 8)
  /-- RESIZE (R194): Grows or shrinks the issue group's frame to the given number of granules. -/
  | resize (n : BitVec 4)
  /-- YIELD (R212): Parks the issue group with a rejoin set of the other eligible lanes at its depth. -/
  | yield
  /-- EXIT (R223): Makes the issue group's lanes exited once their earlier instructions have completed. -/
  | exit
  /-- TRAP (R392): Raises TRAPI for the issue group with the immediate as detail. -/
  | trap (n : BitVec 18)
  /-- BKPT (R392): Raises BKPT for the issue group with the immediate as detail. -/
  | bkpt (n : BitVec 18)
  /-- SYSCALL (R392): Raises SYSCALL for the issue group, delivered to the supervisor core with the service number. -/
  | syscall (n : BitVec 18)
  /-- MACRO (R64): Runs a microprogram from the control store inline for the issue group with parameter registers remapped. -/
  | mprog (q : BitVec 7) (k : BitVec 6)
  /-- IADD (R238): Adds two registers per lane, wrapping, saturating or as 64-bit pairs. -/
  | iadd (p : Option Pfx) (d a b : VReg) (x : BitVec 4)
  /-- ISUB (R238): Subtracts two registers per lane, wrapping, saturating or as 64-bit pairs. -/
  | isub (p : Option Pfx) (d a b : VReg) (x : BitVec 4)
  /-- IADDI (R240): Adds a signed immediate to a register per lane, wrapping. -/
  | iaddi (p : Option Pfx) (d a : VReg) (i : Imm 11)
  /-- IMUL (R238): Multiplies two registers per lane, giving the low, high or wide product. -/
  | imul (p : Option Pfx) (d a b : VReg) (x : BitVec 4)
  /-- IMULI (R240): Multiplies a register by a signed immediate per lane, giving the low 32 bits. -/
  | imuli (p : Option Pfx) (d a : VReg) (i : Imm 11)
  /-- IMAD (R238): Multiplies two registers and adds the addend per lane, low or wide. -/
  | imad (p : Option Pfx) (d a b : VReg) (x : BitVec 4)
  /-- IMIN (R238): Writes the smaller of two registers per lane, signed or unsigned. -/
  | imin (p : Option Pfx) (d a b : VReg) (x : BitVec 4)
  /-- IMAX (R238): Writes the larger of two registers per lane, signed or unsigned. -/
  | imax (p : Option Pfx) (d a b : VReg) (x : BitVec 4)
  /-- IABS (R239): Writes the absolute value of a signed register per lane. -/
  | iabs (p : Option Pfx) (d a : VReg)
  /-- INEG (R239): Writes the negation of a register per lane. -/
  | ineg (p : Option Pfx) (d a : VReg)
  /-- NOT (R239): Writes the bitwise complement of a register per lane. -/
  | inot (p : Option Pfx) (d a : VReg)
  /-- POPC (R239): Writes the count of set bits of a register per lane. -/
  | popc (p : Option Pfx) (d a : VReg)
  /-- CLZ (R239): Writes the count of leading zero bits of a register per lane. -/
  | clz (p : Option Pfx) (d a : VReg)
  /-- CTZ (R239): Writes the count of trailing zero bits of a register per lane. -/
  | ctz (p : Option Pfx) (d a : VReg)
  /-- BREV (R239): Writes the bit-reversed register per lane. -/
  | brev (p : Option Pfx) (d a : VReg)
  /-- BSWAP (R239): Writes the byte-reversed register per lane. -/
  | bswap (p : Option Pfx) (d a : VReg)
  /-- ISAD (R238): Adds the absolute difference of two registers to the destination per lane. -/
  | isad (p : Option Pfx) (d a b : VReg) (x : BitVec 4)
  /-- SHL (R238): Shifts a register or pair left by a register count per lane. -/
  | shl (p : Option Pfx) (d a b : VReg) (x : BitVec 4)
  /-- SHR (R238): Shifts a register or pair right logically by a register count per lane. -/
  | shr (p : Option Pfx) (d a b : VReg) (x : BitVec 4)
  /-- SAR (R238): Shifts a register or pair right arithmetically by a register count per lane. -/
  | sar (p : Option Pfx) (d a b : VReg) (x : BitVec 4)
  /-- ROTL (R238): Rotates a register left by B mod 32 per lane. -/
  | rotl (p : Option Pfx) (d a b : VReg)
  /-- ROTR (R238): Rotates a register right by B mod 32 per lane. -/
  | rotr (p : Option Pfx) (d a b : VReg)
  /-- SHLI (R240): Shifts a register or pair left by an immediate count per lane. -/
  | shli (p : Option Pfx) (d a : VReg) (pr : BitVec 1) (n : BitVec 6)
  /-- SHRI (R240): Shifts a register or pair right logically by an immediate count per lane. -/
  | shri (p : Option Pfx) (d a : VReg) (pr : BitVec 1) (n : BitVec 6)
  /-- SARI (R240): Shifts a register or pair right arithmetically by an immediate count per lane. -/
  | sari (p : Option Pfx) (d a : VReg) (pr : BitVec 1) (n : BitVec 6)
  /-- AND (R238): Writes the bitwise AND of two registers per lane. -/
  | and (p : Option Pfx) (d a b : VReg)
  /-- OR (R238): Writes the bitwise OR of two registers per lane. -/
  | or (p : Option Pfx) (d a b : VReg)
  /-- XOR (R238): Writes the bitwise XOR of two registers per lane. -/
  | xor (p : Option Pfx) (d a b : VReg)
  /-- ANDN (R238): Writes A AND NOT B per lane. -/
  | andn (p : Option Pfx) (d a b : VReg)
  /-- ORN (R238): Writes A OR NOT B per lane. -/
  | orn (p : Option Pfx) (d a b : VReg)
  /-- XNOR (R238): Writes NOT (A XOR B) per lane. -/
  | xnor (p : Option Pfx) (d a b : VReg)
  /-- ANDI (R240): ANDs a register with a zero-extended immediate per lane. -/
  | andi (p : Option Pfx) (d a : VReg) (i : Imm 11)
  /-- ORI (R240): ORs a register with a zero-extended immediate per lane. -/
  | ori (p : Option Pfx) (d a : VReg) (i : Imm 11)
  /-- XORI (R240): XORs a register with a zero-extended immediate per lane. -/
  | xori (p : Option Pfx) (d a : VReg) (i : Imm 11)
  /-- BFX (R241): Extracts a bit field zero-extended per lane. -/
  | bfx (p : Option Pfx) (d a : VReg) (len : BitVec 6) (pos : BitVec 5)
  /-- BFXS (R241): Extracts a bit field sign-extended per lane. -/
  | bfxs (p : Option Pfx) (d a : VReg) (len : BitVec 6) (pos : BitVec 5)
  /-- BFI (R241): Inserts the low bits of A into a field of D per lane. -/
  | bfi (p : Option Pfx) (d a : VReg) (len : BitVec 6) (pos : BitVec 5)
  /-- ICMP (R242): Compares two registers per lane and writes one mask bit per lane. -/
  | icmp (p : Option Pfx) (m : BitVec 3) (c : BitVec 4) (a b : VReg) (x : BitVec 4)
  /-- ICMPI (R242): Compares a register with an immediate per lane and writes one mask bit per lane. -/
  | icmpi (p : Option Pfx) (m : BitVec 3) (c : BitVec 4) (a : VReg) (i : Imm 11)
  /-- SEL (R243): Selects A or B per lane by a mask bit, copying value, mark and tag. -/
  | sel (p : Option Pfx) (d a b : VReg) (m : BitVec 3)
  /-- MOV (R243): Copies a vector register per lane with its mark and tag. -/
  | mov (p : Option Pfx) (d a : VReg)
  /-- MOVS (R243): Copies the low 32 bits of an s register into every lane of a vector register. -/
  | movs (p : Option Pfx) (d : VReg) (a : BitVec 7)
  /-- MOVM (R243): Copies the 32-bit value of a mask register into each lane. -/
  | movm (p : Option Pfx) (d : VReg) (m : BitVec 3)
  /-- MVM (R243): Sets each lane's mask bit from bit l of its register lane. -/
  | mvm (p : Option Pfx) (m : BitVec 3) (a : VReg)
  /-- MOVI (R240): Writes a signed immediate to a register per lane. -/
  | movi (p : Option Pfx) (d : VReg) (i : Imm 18)
  /-- LEA (R238): Adds A and B shifted by an immediate per lane. -/
  | lea (p : Option Pfx) (d a b : VReg) (x : BitVec 4)
  /-- IDIV (R244): Divides signed registers per lane, rounding toward zero, with fixed results for zero and overflow. -/
  | idiv (p : Option Pfx) (d a b : VReg) (la : BitVec 4)
  /-- NDIV (R244): Divides unsigned registers per lane, with a fixed result for zero divisors. -/
  | ndiv (p : Option Pfx) (d a b : VReg) (la : BitVec 4)
  /-- SADD (R245): Adds two s registers once for the pack. -/
  | sadd (d a b : BitVec 7)
  /-- SADDI (R245): Adds a signed immediate to an s register once for the pack. -/
  | saddi (d a : BitVec 7) (i : Imm 11)
  /-- SSUB (R245): Subtracts two s registers once for the pack. -/
  | ssub (d a b : BitVec 7)
  /-- SMUL (R245): Multiplies two s registers, keeping the low 64 bits. -/
  | smul (d a b : BitVec 7)
  /-- SAND (R245): ANDs two s registers. -/
  | sand (d a b : BitVec 7)
  /-- SOR (R245): ORs two s registers. -/
  | sor (d a b : BitVec 7)
  /-- SXOR (R245): XORs two s registers. -/
  | sxor (d a b : BitVec 7)
  /-- SSHL (R245): Shifts an s register left by sB[5:0]. -/
  | sshl (d a b : BitVec 7)
  /-- SSHR (R245): Shifts an s register right logically by sB[5:0]. -/
  | sshr (d a b : BitVec 7)
  /-- SSAR (R245): Shifts an s register right arithmetically by sB[5:0]. -/
  | ssar (d a b : BitVec 7)
  /-- SCMP (R245): Compares two s registers and writes 1 or 0. -/
  | scmp (d a b : BitVec 7) (c : BitVec 4)
  /-- SMOVI (R245): Writes a sign-extended immediate to an s register. -/
  | smovi (d : BitVec 7) (i : Imm 18)
  /-- SMOV (R245): Copies an s register. -/
  | smov (d a : BitVec 7)
  /-- RDLANE (R245): Reads one lane of a vector register into an s register, zero-extended. -/
  | rdlane (d : BitVec 7) (a : VReg) (n : BitVec 7)
  /-- WRLANE (R245): Writes the low 32 bits of an s register into one lane of a vector register. -/
  | wrlane (d : VReg) (a n : BitVec 7)
  /-- SMASK (R245): Copies a mask register into an s register, zero-extended. -/
  | smask (d : BitVec 7) (m : BitVec 3)
  /-- MSET (R245): Sets all 32 bits of a mask register from an s register. -/
  | mset (m : BitVec 3) (a : BitVec 7)
  /-- SLD (R246): Loads one value for the pack into an s register. -/
  | sld (d a : BitVec 7) (w : BitVec 3) (i : Imm 4) (la : BitVec 4)
  /-- SST (R246): Stores the low bytes of an s register once for the pack. -/
  | sst (d a : BitVec 7) (w : BitVec 3) (i : Imm 4) (la : BitVec 4)
  /-- SBR (R226): Branches the whole issue group on a condition of an s register. -/
  | sbr (d c : BitVec 7) (i : Imm 11)
  /-- VANY (R233): Writes 1 to an s register when some lane's value is non-zero. -/
  | vany (d : BitVec 7) (a : VReg)
  /-- VALL (R233): Writes 1 to an s register when every lane's value is non-zero. -/
  | vall (d : BitVec 7) (a : VReg)
  /-- BALLOT (R233): Writes a mask of the lanes whose value is non-zero. -/
  | ballot (m : BitVec 3) (a : VReg)
  /-- VCOUNT (R233): Writes the number of lanes whose value is non-zero. -/
  | vcount (d : BitVec 7) (a : VReg)
  /-- WAITEV (R395): Returns and clears pending event classes, or waits for one up to a limit. -/
  | waitev (d : BitVec 7) (c : BitVec 8)
  /-- LDC (R145): Reads the workgroup's argument block copy into an s register. -/
  | ldc (d a : BitVec 7) (w : BitVec 3) (i : Imm 4) (la : BitVec 4)
  /-- SRD (R394): Reads a special register into an s register. -/
  | srd (d : BitVec 7) (r : BitVec 12)
  /-- SWR (R394): Writes an s register into the RW fields of a special register. -/
  | swr (d : BitVec 7) (r : BitVec 12)
  /-- FADD (R248): Adds floating-point values per lane and element with one rounding. -/
  | fadd (p : Option Pfx) (d a b : VReg) (t : BitVec 4)
  /-- FSUB (R248): Subtracts floating-point values per lane and element with one rounding. -/
  | fsub (p : Option Pfx) (d a b : VReg) (t : BitVec 4)
  /-- FMUL (R248): Multiplies floating-point values per lane and element with one rounding. -/
  | fmul (p : Option Pfx) (d a b : VReg) (t : BitVec 4)
  /-- FFMA (R248): Computes A times B plus the addend with one rounding. -/
  | ffma (p : Option Pfx) (d a b : VReg) (t : BitVec 4)
  /-- FMIN (R249): Writes the number-preferring minimum per element. -/
  | fmin (p : Option Pfx) (d a b : VReg) (t : BitVec 4)
  /-- FMAX (R249): Writes the number-preferring maximum per element. -/
  | fmax (p : Option Pfx) (d a b : VReg) (t : BitVec 4)
  /-- FMINP (R249): Writes the NaN-propagating minimum per element. -/
  | fminp (p : Option Pfx) (d a b : VReg) (t : BitVec 4)
  /-- FMAXP (R249): Writes the NaN-propagating maximum per element. -/
  | fmaxp (p : Option Pfx) (d a b : VReg) (t : BitVec 4)
  /-- FCMP (R250): Compares floating-point values and writes one mask bit per lane. -/
  | fcmp (p : Option Pfx) (m : BitVec 3) (c : BitVec 4) (a b : VReg) (x : BitVec 4)
  /-- FCLASS (R251): Writes a one-hot class code per element. -/
  | fclass (p : Option Pfx) (d a : VReg) (t : BitVec 4)
  /-- FRND (R252): Rounds each element to an integral value by the selected mode. -/
  | frnd (p : Option Pfx) (d a : VReg) (n : BitVec 7) (t : BitVec 4)
  /-- FSCALB (R253): Multiplies each element by a power of two from an integer register. -/
  | fscalb (p : Option Pfx) (d a b : VReg) (t : BitVec 4)
  /-- FABS (R254): Clears bit 31 of an f32 value per lane. -/
  | fabs (p : Option Pfx) (d a : VReg)
  /-- FNEG (R254): Inverts bit 31 of an f32 value per lane. -/
  | fneg (p : Option Pfx) (d a : VReg)
  /-- FNABS (R254): Sets bit 31 of an f32 value per lane. -/
  | fnabs (p : Option Pfx) (d a : VReg)
  /-- FCPSGN (R254): Combines A's magnitude bits with B's sign bit per lane. -/
  | fcpsgn (p : Option Pfx) (d a b : VReg)
  /-- FDOT2 (R255): Computes a two-element dot product plus an f32 addend with one rounding. -/
  | fdot2 (p : Option Pfx) (d a b : VReg) (t : BitVec 4)
  /-- FCLAMP (R249): Clamps each element between a lower bound and the upper bound C. -/
  | fclamp (p : Option Pfx) (d a b : VReg) (t : BitVec 4)
  /-- PACK (R256): Converts two f32 values into a packed narrow pair. -/
  | pack (p : Option Pfx) (d a b : VReg) (x : BitVec 4)
  /-- FDIV (R257): Divides f32 values per lane, correctly rounded. -/
  | fdiv (p : Option Pfx) (d a b : VReg) (la : BitVec 4)
  /-- FSQRT (R257): Takes the correctly rounded f32 square root per lane. -/
  | fsqrt (p : Option Pfx) (d a : VReg) (la : BitVec 4)
  /-- FEXP2 (R258): Computes 2 to the power x per lane. -/
  | fexp2 (p : Option Pfx) (d a : VReg) (la : BitVec 4)
  /-- FLOG2 (R258): Computes log2 x per lane. -/
  | flog2 (p : Option Pfx) (d a : VReg) (la : BitVec 4)
  /-- FSIN (R258): Computes sin x per lane. -/
  | fsin (p : Option Pfx) (d a : VReg) (la : BitVec 4)
  /-- FCOS (R258): Computes cos x per lane. -/
  | fcos (p : Option Pfx) (d a : VReg) (la : BitVec 4)
  /-- FRCP (R258): Computes 1/x per lane. -/
  | frcp (p : Option Pfx) (d a : VReg) (la : BitVec 4)
  /-- FRSQ (R258): Computes 1/sqrt x per lane. -/
  | frsq (p : Option Pfx) (d a : VReg) (la : BitVec 4)
  /-- FTANH (R258): Computes tanh x per lane. -/
  | ftanh (p : Option Pfx) (d a : VReg) (la : BitVec 4)
  /-- FSIGM (R258): Computes the logistic sigmoid of x per lane. -/
  | fsigm (p : Option Pfx) (d a : VReg) (la : BitVec 4)
  /-- CVTF (R260): Converts an integer or FP source to an FP format per lane. -/
  | cvtf (p : Option Pfx) (d a : VReg) (src : BitVec 4) (dst : BitVec 3) (la : BitVec 4)
  /-- CVTI (R261): Converts an FP source to an integer format per lane. -/
  | cvti (p : Option Pfx) (d a : VReg) (src dst : BitVec 3) (sat : BitVec 1) (la : BitVec 4)
  /-- QSCALE (R262): Forms a power-of-two block scale and its reciprocal from an f32 magnitude. -/
  | qscale (p : Option Pfx) (d a : VReg) (fmt : BitVec 3) (la : BitVec 4)
  /-- SHFL (R228): Moves values between lanes by an index register within a segment. -/
  | shfl (p : Option Pfx) (d a b : VReg) (seg : BitVec 2)
  /-- SHFLUP (R228): Takes each lane's value from the lane d below it within a segment. -/
  | shflup (p : Option Pfx) (d a : VReg) (seg : BitVec 2) (n : BitVec 5)
  /-- SHFLDN (R228): Takes each lane's value from the lane d above it within a segment. -/
  | shfldn (p : Option Pfx) (d a : VReg) (seg : BitVec 2) (n : BitVec 5)
  /-- SHFLX (R228): Takes each lane's value from lane l XOR x within a segment. -/
  | shflx (p : Option Pfx) (d a : VReg) (seg : BitVec 2) (n : BitVec 5)
  /-- QSWZ (R229): Permutes values within each quad by a pattern. -/
  | qswz (p : Option Pfx) (d a : VReg) (pat : BitVec 8)
  /-- REDUX (R230): Reduces the supplying lanes' values by a fixed tree and writes the result to every lane. -/
  | redux (p : Option Pfx) (d a : VReg) (k : BitVec 4)
  /-- SCAN (R231): Computes a serial inclusive or exclusive prefix over the supplying lanes. -/
  | scan (p : Option Pfx) (d a : VReg) (ex : BitVec 1) (k : BitVec 4)
  /-- MATCH (R232): Writes each lane a mask of the supplying lanes holding an equal value. -/
  | matchl (p : Option Pfx) (d a : VReg) (x : BitVec 1)
  /-- LD (R143): Loads a value per lane from a 64-bit virtual address. -/
  | ld (p : Option Pfx) (d a : VReg) (w : BitVec 3) (i : Imm 4) (la : BitVec 4)
  /-- LDS (R143): Loads a value per lane at a scratchpad-family offset. -/
  | lds (p : Option Pfx) (d a : VReg) (w : BitVec 3) (i : Imm 4) (la : BitVec 4)
  /-- LDX (R143): Loads a value per lane at a lane-private offset. -/
  | ldx (p : Option Pfx) (d a : VReg) (w : BitVec 3) (i : Imm 4) (la : BitVec 4)
  /-- ST (R143): Stores a value per lane to a 64-bit virtual address. -/
  | st (p : Option Pfx) (d a : VReg) (w : BitVec 3) (i : Imm 4) (la : BitVec 4)
  /-- STS (R143): Stores a value per lane at a scratchpad-family offset. -/
  | sts (p : Option Pfx) (d a : VReg) (w : BitVec 3) (i : Imm 4) (la : BitVec 4)
  /-- STX (R143): Stores a value per lane at a lane-private offset. -/
  | stx (p : Option Pfx) (d a : VReg) (w : BitVec 3) (i : Imm 4) (la : BitVec 4)
  /-- LDM (R144): Loads 1 to 8 consecutive words per lane into consecutive registers, restartable by count. -/
  | ldm (p : Option Pfx) (d a : VReg) (w : BitVec 3) (i : Imm 4) (la : BitVec 4)
  /-- STM (R144): Stores 1 to 8 consecutive registers per lane to consecutive words, restartable by count. -/
  | stm (p : Option Pfx) (d a : VReg) (w : BitVec 3) (i : Imm 4) (la : BitVec 4)
  /-- ATOM (R286): Performs an atomic read-modify-write per lane, in ascending lane order per location, returning the old value. -/
  | atom (d a b : VReg) (la : BitVec 4) (sm : BitVec 3) (hint : BitVec 2) (c : VReg) (width : BitVec 2) (scope : BitVec 3) (order : BitVec 2) (k : BitVec 4)
  /-- ATOMR (R329): Performs an atomic on tensor space, combining remote lanes into one request per location and rebuilding the results. -/
  | atomr (d a b : VReg) (la : BitVec 4) (sm : BitVec 3) (hint : BitVec 2) (c : VReg) (width : BitVec 2) (scope : BitVec 3) (order : BitVec 2) (k : BitVec 4)
  /-- RED (R295): Performs an atomic with no returned value, locally or at a remote home. -/
  | red (d a b : VReg) (la : BitVec 4) (sm : BitVec 3) (hint : BitVec 2) (c : VReg) (width : BitVec 2) (scope : BitVec 3) (order : BitVec 2) (k : BitVec 4)
  /-- BARINIT (R300): Initialises a barrier object's expected count and kind and resets its other fields. -/
  | barinit (a b : VReg)
  /-- BARARV (R301): Arrives at a barrier object with a count and writes whether it was refused. -/
  | bararv (m : BitVec 3) (a b : VReg)
  /-- BARAW (R300): Registers, arrives and, when counted, waits for the phase to complete. -/
  | baraw (m : BitVec 3) (a b : VReg)
  /-- BARWAIT (R300): Registers and waits until the object's phase changes, then observes it. -/
  | barwait (a : VReg)
  /-- BARTEST (R300): Registers and reports without waiting whether an unobserved completion exists. -/
  | bartest (m : BitVec 3) (a : VReg)
  /-- BAREXP (R300): Changes a barrier object's expected count, completing the phase when it equals the arrivals. -/
  | barexp (a b : VReg)
  /-- BARDROP (R300): Deregisters the pack and lowers the expected count. -/
  | bardrop (a b : VReg)
  /-- PSYNC (R306): Posts a membership mask and waits until every member has posted a matching mask. -/
  | psync (a : VReg)
  /-- FENCE (R310): Orders the lane's earlier and later accesses as kind sc, ar, acq or rel at a scope. -/
  | fence (scope : BitVec 3) (k : BitVec 2)
  /-- FENCE_LITE (R311): The light half of the asymmetric fence pair, costing one issue clock. -/
  | fenceLite (scope : BitVec 3)
  /-- FENCE_HEAVY (R311): Acts as sc and drains and serialises every core's store buffers in the scope. -/
  | fenceHeavy (scope : BitVec 3)
  /-- FENCE_TC (R312): Waits until the pack's earlier tensor-space transfers have ended before later control writes. -/
  | fenceTc (scope : BitVec 3)
  /-- FENCE_SHAPE (R313): Orders earlier control stores before later engine reads of shape and collective records. -/
  | fenceShape (scope : BitVec 3)
  /-- CCTL (R146): Writes back, invalidates, prefetches or zeroes the line of each active lane's address. -/
  | cctl (a : VReg) (w : BitVec 3) (i : Imm 4) (la : BitVec 4)
  /-- TCOPY (R157): Submits a copy described by a shape record between memory and a tile. -/
  | tcopy (tile : BitVec 8) (base bar : BitVec 5) (acq rel dig : BitVec 1) (la : BitVec 4) (shape : BitVec 12) (scope : BitVec 3) (rop : BitVec 4)
  /-- TSTAT (R169): Reads a tile's entry into an s register. -/
  | tstat (d : BitVec 7) (t : BitVec 8)
  /-- TREL (R170): Releases a tile to EMPTY or DRAINING, waiting while it is FILLING. -/
  | trel (t : BitVec 8)
  /-- STRM_FEEDA (R173): Appends a ready tile's positions to stream A as one reader. -/
  | strmFeeda (t : BitVec 8)
  /-- STRM_FEEDB (R173): Appends a ready tile's positions to stream B as one reader. -/
  | strmFeedb (t : BitVec 8)
  /-- STRM_REPLAY (R174): Makes the last n appended positions of the last fed stream pop k more times. -/
  | strmReplay (n : BitVec 6) (k : BitVec 7)
  /-- STRM_FLUSH (R175): Waits for earlier MMAs to pop and discards the remaining earlier positions of both streams. -/
  | strmFlush
  /-- COLL (R333): Submits a collective described by a collective record. -/
  | coll (base bar : BitVec 5) (la : BitVec 4) (rec : BitVec 16)
  /-- TRESUME (R179): Resumes a copy paused by pre-emption on a tile. -/
  | tresume (t : BitVec 8)
  /-- LAUNCH_GRID (R367): Submits a grid launch record to a queue and returns status and sequence. -/
  | launchGrid (r st : BitVec 5) (la : BitVec 4)
  /-- LAUNCH_NODE (R369): Decrements a task-graph node's dependence counter, enqueuing it when it reaches zero. -/
  | launchNode (r st : BitVec 5) (la : BitVec 4)
  /-- SHINV (R156): Invalidates the context's cached entries for a shape record and its continuation. -/
  | shinv (i : BitVec 12)
  /-- SHINV_ALL (R156): Invalidates every cached record entry of the context. -/
  | shinvAll
  /-- MMA (R272): Reads scales and queues a matrix multiply-accumulate entry on an accumulator tile. -/
  | mma (acc : BitVec 6) (ty kch : BitVec 3) (asc : VReg) (la : BitVec 4) (zf : BitVec 1) (bsel : BitVec 2) (bsc : BitVec 5)
  /-- ACCZ (R276): Zeroes an accumulator tile, clears its poison and sets its tag. -/
  | accz (acc : BitVec 6) (x : BitVec 1)
  /-- ACCRD (R276): Reads one column of an accumulator tile into a register per lane. -/
  | accrd (d : VReg) (acc col : BitVec 6) (x : BitVec 4)
  /-- ACCWR (R276): Writes one column of an accumulator tile from a register per lane. -/
  | accwr (a : VReg) (acc col : BitVec 6) (x : BitVec 4)
  /-- ACCOP_SCALE (R277): Multiplies each row's cells by the lane's f32 operand. -/
  | accopScale (a : VReg) (acc : BitVec 6)
  /-- ACCOP_ADDROW (R277): Adds the lane's operand to every cell of its row. -/
  | accopAddrow (a : VReg) (acc : BitVec 6)
  /-- ACCOP_ROWMAX (R277): Writes each row's maximum into the lane's register. -/
  | accopRowmax (d : VReg) (acc : BitVec 6)
  /-- ACCOP_ROWSUM (R277): Writes each row's exact sum rounded once into the lane's register. -/
  | accopRowsum (d : VReg) (acc : BitVec 6)
  /-- ACCOP_EXPS (R278): Replaces each cell with the shifted exponential exps(cell, c, v). -/
  | accopExps (a : VReg) (acc : BitVec 6) (c : BitVec 5)
  /-- ACCOP_MASKC (R277): Sets cells beyond the diagonal offset to minus infinity. -/
  | accopMaskc (acc : BitVec 6) (off : BitVec 8)
  /-- ACCMV_TOTILE (R279): Converts an accumulator tile into a scratchpad tile as its writer. -/
  | accmvTotile (t : BitVec 8) (acc : BitVec 6) (et : BitVec 3)
  /-- ACCMV_FROMTILE (R279): Loads an accumulator tile from a scratchpad tile as its reader. -/
  | accmvFromtile (t : BitVec 8) (acc : BitVec 6) (et : BitVec 3)
  /-- ACCMV_SAVE (R280): Writes an accumulator tile's raw cells, tag and poison into a tile in the save layout. -/
  | accmvSave (t : BitVec 8) (acc : BitVec 6)
  /-- ACCMV_LOAD (R280): Restores an accumulator tile's raw cells and tag from a tile in the save layout. -/
  | accmvLoad (t : BitVec 8) (acc : BitVec 6)
  /-- LANE_AGE_SATURATE (R211): A lane whose age reaches 256 takes precedence in issue selection at its depth. -/
  | laneAgeSaturate (c slot l : Nat)
  /-- BREAKPOINT (R441): A pack about to issue at a breakpoint address parks before the group issues and posts a mailbox event. -/
  | breakpoint (c slot : Nat)
  /-- MEMORY_ACCESS_COMPLETE (R143): A load's data are written to its destinations, or a store is accepted by its target. -/
  | memoryAccessComplete (c slot id : Nat)
  /-- ATOM_RESULT (R293): The old value of an accepted atomic returns and is written to D and mS. -/
  | atomResult (c slot id : Nat)
  /-- WALK_COMPLETE (R110): A page walk ends with a translation placed in the TLBs and A and D set, or with a fault. -/
  | walkComplete (ctx root va kind : Nat)
  /-- PRQ_ENTRY_POST (R119): A fault entry is written to the page request queue when it has room, advancing PRQ_TAIL and raising the interrupt. -/
  | prqEntryPost (f : Nat)
  /-- PRQ_HEAD_WRITE (R119): Software advances the consumer index, ignored if the count would exceed 256. -/
  | prqHeadWrite (f : Nat) (v : DWord)
  /-- PRQ_REPLY_RETRY (R120): A reply with RETRY releases the tag's lanes to replay, or resumes a paused copy. -/
  | prqReplyRetry (f tag : Nat)
  /-- PRQ_REPLY_FAIL (R120): A reply with FAIL makes the tag's lanes trap XLATE on replay, or fails a copy with ERR XLATE. -/
  | prqReplyFail (f tag : Nat)
  /-- XLT_INV_ALL (R114): Invalidates all TLB entries of the package. -/
  | xltInvAll (v : DWord)
  /-- XLT_INV_FUNC (R114): Invalidates the TLB entries of one function. -/
  | xltInvFunc (v : DWord)
  /-- XLT_INV_CTX (R114): Invalidates the TLB entries of one context. -/
  | xltInvCtx (v : DWord)
  /-- XLT_INV_CTX_PAGES (R114): Invalidates a context's entries for a range of pages from VA. -/
  | xltInvCtxPages (v : DWord)
  /-- XLT_INV_STAGE2_PAGES (R114): Invalidates a function's stage-2 entries for a range of GPA pages. -/
  | xltInvStage2Pages (v : DWord)
  /-- XLT_INV_NONGLOBAL (R114): Invalidates every non-G entry of a function. -/
  | xltInvNonglobal (v : DWord)
  /-- XLT_INV_DONE (R115): An invalidation completes once matching entries, accesses, transfers and walks are gone, and GO reads 0. -/
  | xltInvDone
  /-- LLC_CARVE_WRITE (R126): A change of carve size writes back or discards the affected ways and zeroes taken ways. -/
  | llcCarveWrite (v : DWord)
  /-- LLC_CARVE_DONE (R126): A carve change completes and BUSY returns to 0. -/
  | llcCarveDone
  /-- CSPWIN_WRITE (R127): Sets a context's chip scratchpad window, ignored when out of bounds or while the context is resident. -/
  | cspwinWrite (ctx : Nat) (v : DWord)
  /-- COPY_START (R149): An accepted copy begins on the first engine that becomes free, in acceptance order. -/
  | copyStart
  /-- TCOPY_ACCEPT (R161): A TCOPY is accepted once its record is read and checked and its tile gate passes, changing the tile state. -/
  | tcopyAccept (c slot : Nat)
  /-- BARRIER_ENGINE_ARRIVAL (R301): A copy engine's byte arrival is applied, held, or treated as an overrun at a barrier object. -/
  | barrierEngineArrival (id : Nat)
  /-- COPY_COMPLETE (R167): A copy's last byte and release are done, making the tile READY or the reader done. -/
  | copyComplete (id : Nat)
  /-- COPY_FAULT_PAUSE (R165): A copy meets a translation fault, pauses with a progress record and posts a page request. -/
  | copyFaultPause (id : Nat)
  /-- COPY_FAIL (R164): A copy that cannot deliver every byte records ERR, poisons or leaves undelivered bytes and arrives all bytes. -/
  | copyFail (id : Nat)
  /-- STREAM_FILL (R172): A stream buffer fetches a position's bytes from its tile when room frees. -/
  | streamFill (c : Nat) (b : Bool)
  /-- MMA_ENTRY_START (R273): The head MMA queue entry starts once the array is free and its positions are buffered, popping its positions. -/
  | mmaEntryStart (c : Nat)
  /-- MMA_ENTRY_COMPLETE (R283): An MMA entry's results are written to the accumulator tile. -/
  | mmaEntryComplete (c : Nat)
  /-- MX_GATE (R282): A matrix sub-array idle for MX_IDLE clocks is power-gated. -/
  | mxGate (c : Nat)
  /-- FRAME_GRANT (R199): Free pool granules are granted whole to the first waiting request by class order. -/
  | frameGrant (c : Nat)
  /-- FRAME_WAIT_EXPIRY (R200): A pack blocked on frames for FRAME_WAIT clocks starts the escape spill engine. -/
  | frameWaitExpiry (c slot : Nat)
  /-- ESCAPE_SPILL_START (R200): The escape spill engine starts when every resident pack is unable to issue and one is blocked on frames. -/
  | escapeSpillStart (c : Nat)
  /-- SPILL_COMPLETE (R198): A victim frame's last register and mark write is accepted, freeing its granules. -/
  | spillComplete (c : Nat)
  /-- REFILL_COMPLETE (R198): A refilled frame's last read is written into the register file and it becomes RESIDENT. -/
  | refillComplete (c slot : Nat)
  /-- RECORD_READBACK (R189): A frame record is read back from the call-record area in the background. -/
  | recordReadback (c slot : Nat)
  /-- TRAP_DELIVERY (R388): A trap is delivered to the in-pack handler with the fault record and a trap frame. -/
  | trapDelivery (c slot : Nat)
  /-- ESCALATION (R391): A trap is escalated: the pack parks and a trap queue entry is posted. -/
  | escalation (c slot : Nat)
  /-- PENDING_TRAP_DELIVERY (R384): A pending trap from a completed long-latency instruction is delivered after the previous delivery ends. -/
  | pendingTrapDelivery (c slot : Nat)
  /-- WAITEV_TIMEOUT (R395): A WAITEV whose limit passes without an event returns zero. -/
  | waitevTimeout (c slot : Nat)
  /-- PACK_AGED (R379): A ready pack not chosen for 256 issuing clocks becomes aged and takes precedence. -/
  | packAged (c slot : Nat)
  /-- TRQ_POP (R398): Reading TRQ pops one trap queue entry. -/
  | trqPop (c : Nat)
  /-- TRQX_READ (R398): Reading TRQX returns the next word of the held fault image. -/
  | trqxRead (c : Nat)
  /-- PARK (R399): Stops a pack's issue at the next instruction boundary. -/
  | park (c slot : Nat)
  /-- UNPARK (R399): Undoes PARK for a pack. -/
  | unpark (c slot : Nat)
  /-- RELEASE (R399): Returns the held fault's lanes to the issue rule. -/
  | release (c : Nat) (lanes : Word)
  /-- SIGNAL (R399): Sets EVPEND bit 0 of a pack. -/
  | signal (c slot : Nat)
  /-- ENDTRAP (R391): Ends an escalated delivery by applying its record's ACTION. -/
  | endtrap (c slot : Nat)
  /-- POST (R399): Posts the held fault image to its function's page request queue with a new tag. -/
  | post (c : Nat)
  /-- FAILX (R399): Makes the held fault's lanes trap XLATE when they replay. -/
  | failx (c : Nat) (lanes : Word)
  /-- KILL (R408): Kills the pack's context from the supervisor core. -/
  | kill (c slot : Nat)
  /-- PKDATA_READ (R400): Reads the item PKSEL selects in a parked pack, refilling a spilled frame if needed. -/
  | pkdataRead (c : Nat)
  /-- PKDATA_WRITE (R400): Writes the item PKSEL selects in a parked pack, or is refused. -/
  | pkdataWrite (c : Nat) (v : DWord)
  /-- SRDATA_READ (R401): Reads the special register SRSEL selects for the core or a parked pack. -/
  | srdataRead (c : Nat)
  /-- SRDATA_WRITE (R401): Writes the special register SRSEL selects, or is refused. -/
  | srdataWrite (c : Nat) (v : DWord)
  /-- INJECT (R402): Injects a SHINV word on behalf of a context from the supervisor core. -/
  | inject (c : Nat) (v : DWord)
  /-- EMDATA_READ (R405): Reads a word of an emulated entry's popped position and advances WORD. -/
  | emdataRead (c : Nat)
  /-- EMDATA_WRITE (R405): Writes a word of the staged e4m3 chunk and advances WORD. -/
  | emdataWrite (c : Nat) (v : DWord)
  /-- EMCTL_GO (R405): Drives the staged positions into the array with the waiting entry's scales, rows and poison. -/
  | emctlGo (c : Nat)
  /-- CSDATA_WRITE (R406): Stages a control-store word and advances WORD. -/
  | csdataWrite (c : Nat) (v : Word)
  /-- CSCTL_GO (R406): Commits the staged words to a microprogram slot, or rejects the image. -/
  | csctlGo (c : Nat) (len : BitVec 6)
  /-- CONTROL_STORE_INSTALL (R406): A commit installs once no lane of the core is inside the slot, and measures the image. -/
  | controlStoreInstall (c k : Nat)
  /-- CTX_PREEMPT (R409): Pre-empts every resident workgroup of a context and saves its state. -/
  | ctxPreempt (ctx : Nat)
  /-- CTX_RESTORE (R411): Restores a saved context to the cores and slots it was saved from. -/
  | ctxRestore (ctx : Nat)
  /-- CTX_KILL (R408): Kills a context through CTXCMD. -/
  | ctxKill (ctx : Nat)
  /-- CTXCFG_WRITE (R407): Sets or clears a context's EN and function, returning KILLED to IDLE. -/
  | ctxcfgWrite (ctx : Nat) (v : DWord)
  /-- LAUNCH_QTAIL_WRITE (R363): Advances a queue's producer index, ignored if the ring would overflow. -/
  | launchQtailWrite (q : Nat) (v : DWord)
  /-- QBASE_WRITE (R363): Enables or disables a launch queue, starting or stopping the reading of ring entries. -/
  | qbaseWrite (q : Nat) (v : DWord)
  /-- LAUNCH_ENTRY_READ (R366): The scheduler reads and checks a ring entry's record, accepting or rejecting the launch. -/
  | launchEntryRead (q : Nat)
  /-- NODE_RELEASE (R370): A completed node decrements its successors in list order, waiting for device slots. -/
  | nodeRelease (uid : Nat)
  /-- WORKGROUP_PLACE (R372): The global scheduler places the next workgroup on a fitting core and starts it. -/
  | workgroupPlace
  /-- PRIORITY_STARVATION (R371): A launch waiting 2^20 clocks blocks placement of lower classes until it places. -/
  | priorityStarvation (uid : Nat)
  /-- WORKGROUP_FINISH (R376): A finished workgroup frees its resources and its position is reported in order with PROGVA. -/
  | workgroupFinish (uid idx : Nat)
  /-- LAUNCH_COMPLETE (R377): A launch completes: writes are performed, DONEVA written, QDONE counted, successors released. -/
  | launchComplete (uid : Nat)
  /-- NODE_DISCARD (R423): A replayable node's provisional writes are dropped and it is re-queued. -/
  | nodeDiscard (uid : Nat)
  /-- REMOTE_REQUEST_INGRESS (R324): A target checks a remote tensor request's token and performs or refuses it. -/
  | remoteRequestIngress (r : RemoteReq)
  /-- REMOTE_RESPONSE (R329): A remote response arrives and the requester rebuilds and writes lane results or traps. -/
  | remoteResponse (id : Nat) (r : RemoteResp)
  /-- CONTROL_REQUEST (R355): A control-space coherence request is served at a line's home directory. -/
  | controlRequest (r : CtlReq)
  /-- MIRROR_UPDATE (R356): The buddy holds a home write in its mirror before the home performs it. -/
  | mirrorUpdate (m : MirrorMsg) (bytes : List Byte)
  /-- LOSS_NOTICE (R319): A loss notice for a peer arrives and the package declares it lost. -/
  | lossNotice (n : Nat)
  /-- FAB_LOSS_TO (R319): An unanswered request times out, is resent on the next plane, and on a second timeout the peer is declared lost. -/
  | fabLossTo (id : Nat)
  /-- PEER_CLR (R320): Clears the lost state of a package. -/
  | peerClr (v : DWord)
  /-- LINK_CRC_ERROR (R317): A flit failing its CRC or tag is resent, and after 16 failures the port goes down. -/
  | linkCrcError (port : Nat)
  /-- PORT_TRAINED (R431): A port trains and its VC keys are agreed, setting UP and ENC. -/
  | portTrained (port : Nat)
  /-- LINK_REKEY (R431): A link rekeys after 2^32 flits without loss of traffic. -/
  | linkRekey (port vc : Nat)
  /-- PORT_DISABLE (R317): System software holds a port down or releases it. -/
  | portDisable (port : Nat) (b : Bool)
  /-- MINT (R322): The security processor mints a grant token for a requester package and context. -/
  | mint (v : DWord)
  /-- ROLL (R322): Replaces the token key, invalidating earlier tokens, then mints. -/
  | roll (v : DWord)
  /-- COLL_ACCEPT (R333): A collective is accepted once its record is read and checked and fewer than 16 are in progress. -/
  | collAccept (c slot : Nat)
  /-- COLL_SPLIT (R337): Rank 0's plane split arrives at a member, which may then send chunks. -/
  | collSplit (id : Nat) (shares : List Nat)
  /-- COLL_CHUNK (R340): A collective chunk arrives and is accepted, held, dropped or found mismatched. -/
  | collChunk (pkg ctx rseq : Nat) (token : DWord) (ch : Chunk)
  /-- COLL_REDUCE_COMPLETE (R339): A reduce block finishes and writes its result for forwarding or to DST. -/
  | collReduceComplete (id k : Nat)
  /-- COLL_STEP_TIMEOUT (R341): A step not complete after TIMEOUT flushes with the missing ranks marked. -/
  | collStepTimeout (id k : Nat)
  /-- COLL_MISMATCH_NOTICE (R340): A mismatch notice arrives and the member ends its collective with MISMATCH. -/
  | collMismatchNotice (id : Nat)
  /-- COLL_END (R341): A collective ends with its status, HW fields, arrivals and any trap of the issuing pack. -/
  | collEnd (id : Nat)
  /-- PLANE_BW_WINDOW (R344): A window of 2^20 clocks ends and PLANE_BW takes its credited bytes. -/
  | planeBwWindow (credits : List Nat)
  /-- KLOAD (R430): Unwraps a key blob into a key slot once accesses using it are done. -/
  | kload (v : DWord)
  /-- KSLOT_ZERO (R430): Erases the key of a slot. -/
  | kslotZero (k : Nat)
  /-- EXREQ (R428): Writes a signed execution record for a context to an output page. -/
  | exreq (v : DWord)
  /-- LATTOL_WRITE (R433): Sets the latency tolerance, waking units deeper than the new allowed state. -/
  | lattolWrite (v : DWord)
  /-- C1_ENTRY (R432): An idle core for 256 clocks enters C1. -/
  | c1Entry (c : Nat)
  /-- C2_ENTRY (R432): An idle core enters C2 after writing back dirty L1 lines. -/
  | c2Entry (c : Nat)
  /-- C3_ENTRY (R432): A C-die with all cores in C2 and no channel access for 2^20 LLC clocks enters C3. -/
  | c3Entry (die : Nat)
  /-- WAKE (R434): A unit wakes on a placement, interrupt, access or LATTOL change. -/
  | wake (u : PowerUnit)
  /-- DBGDB_RING (R443): Ringing the doorbell makes the firmware perform the mailbox command. -/
  | dbgdbRing (c : Nat)
  /-- HALT (R444): Parks a pack through the debug mailbox. -/
  | halt (c slot : Nat)
  /-- RESUME (R444): Unparks or ends the trap of a pack through the debug mailbox. -/
  | resume (c slot : Nat)
  /-- STEP (R445): Issues one unit of a halted pack and halts it again. -/
  | step (c slot : Nat)
  /-- READ (R444): Reads a pack item through PKSEL and PKDATA from the mailbox. -/
  | read (c slot : Nat) (v : DWord)
  /-- WRITE (R444): Writes a pack item through PKSEL and PKDATA from the mailbox. -/
  | write (c slot : Nat) (v w : DWord)
  /-- SETBP (R444): Sets a breakpoint register from the mailbox. -/
  | setbp (c k : Nat) (v : DWord)
  /-- SETWP (R444): Sets a watchpoint register from the mailbox. -/
  | setwp (c k : Nat) (v : DWord)
  /-- PACKAGE_RESET (R448): Package reset starts the boot ROM and sets every reset value. -/
  | packageReset
  /-- BRINGUP_STAGE (R448): A bring-up stage completes and BOOTSTAT advances. -/
  | bringupStage (n pkg : Nat) (peers : List Nat)
  /-- REGISTER_WRITE (R6): A write to a register with no row of its own updates its RW and W1C fields. -/
  | registerWrite (t : RegTarget) (v : DWord)
  /-- LONG_LATENCY_COMPLETE (R39): A non-memory long-latency instruction completes: IDIV, NDIV, a special function or conversion, LDC, or LAUNCH. Its destination or status is written, and any SHADOW check or trap of it is raised. -/
  | longLatencyComplete (c slot id : Nat)
  /-- ACCUMULATOR_INSTRUCTION_COMPLETE (R268): An ACCZ, ACCRD, ACCWR, ACCOP or ACCMV completes on the accumulator-side unit. It writes its destination or tile, makes the tile READY or the reader done, or traps POISON, and so lets later instructions on that tile issue. -/
  | accumulatorInstructionComplete (c slot id : Nat)
  /-- IDLE_CLOCK (R380): A core clock in which the core starts no instruction adds 1 to exactly one IDLE counter, chosen by the oldest pack's cause. -/
  | idleClock (c : Nat)
  /-- COLL_CONTRIBUTION_READ (R339): A member's own contribution has been read from SRC. It decrements the step's launch counter, which may dispatch a reduce block or a sequencer move. -/
  | collContributionRead (id k : Nat)
  deriving DecidableEq, Repr

end Sys2Proof
end

