-- ==== Sys2Proof/WellFormed.lean ====
section
/-! DEFINITION. Which terms of Instr the encoding rules allow (R31, R32, R34 to R36, R42 to R55). Events have no encoding and are always well formed. -/

namespace Sys2Proof

/-- One register, or the even register of a pair. -/
def pw (wide : Bool) : Nat := if wide then 2 else 1

/-- A register field names a register, pair or quad that may be read (R34, R35). -/
def srcOk (r : VReg) (n : Nat) : Bool :=
  if n = 1 then decide (r.toNat ≤ 122)
  else r == 112 || decide (r.toNat % n = 0 ∧ r.toNat + n ≤ 112)

/-- A register field names a register, pair or quad that may be written (R34, R35). -/
def dstOk (r : VReg) (n : Nat) : Bool := decide (r.toNat % n = 0 ∧ r.toNat + n ≤ 112)

/-- A 7-bit field that names an s register, or a lane (R36, the map's 0x37 row). -/
def sOk (r : BitVec 7) : Bool := decide (r.toNat ≤ 31)

/-- A prefix that names F4 names a register that the addend's width allows (R31, R35). F4 = 0 is the neutral value. -/
def f4Ok (p : Option Pfx) (n : Nat) : Bool :=
  match p with
  | none => true
  | some q => q.f4 == 0 || srcOk q.f4 n

/-- Under IMX bits [17:11] of a W instruction's own immediate are zero (R30). -/
def wImmOk (i : Imm 18) : Bool := i.hi.isNone || decide (i.lo.toNat < 2048)

/-- The limits of CALL and CALLX (R43). -/
def callOk (dem argc retc : BitVec 4) (ab : VReg) : Bool :=
  decide (1 ≤ dem.toNat ∧ dem.toNat ≤ 14 ∧ argc.toNat ≤ 8 * dem.toNat ∧ retc.toNat ≤ 8 * dem.toNat ∧
    ab.toNat + argc.toNat ≤ 112 ∧ ab.toNat + retc.toNat ≤ 112 ∧ (argc = 0 ∧ retc = 0 → ab = 0))

/-- Registers of a memory width (R49). -/
def wRegs (w : BitVec 3) : Nat := if w == 6 then 4 else if w == 5 then 2 else 1

/-- LDM's limits (R144). -/
def ldmOk (d a : VReg) (w : BitVec 3) : Bool :=
  decide (d.toNat + w.toNat + 1 ≤ 112 ∧
    ¬ (a.toNat + 1 ≥ d.toNat ∧ a.toNat ≤ d.toNat + w.toNat)) && srcOk a 2

/-- The fields ATOM, ATOMR and RED share (R50, R284): which operands the operation takes, and their limits. -/
def atomFields (a b : VReg) (hint : BitVec 2) (c : VReg) (width : BitVec 2) (scope : BitVec 3) (k : BitVec 4) : Bool :=
  decide (k.toNat ≤ 13 ∧ scope.toNat ≤ 4 ∧ width.toNat ≤ 1 ∧ hint.toNat ≤ 2 ∧ (width.toNat = 1 → k.toNat < 11)) &&
  srcOk a 2 && (if k == 11 then b == 0 else srcOk b (pw (width == 1))) &&
  (if k == 10 || k == 11 || k == 12 then srcOk c (pw (width == 1)) else c == 0)

def atomOk (d a b : VReg) (sm : BitVec 3) (hint : BitVec 2) (c : VReg) (width : BitVec 2) (scope : BitVec 3) (k : BitVec 4) : Bool :=
  atomFields a b hint c width scope k && dstOk d (pw (width == 1)) && (if k == 12 then sm != 0 else sm == 0)

def redOk (a b : VReg) (sm : BitVec 3) (hint : BitVec 2) (c : VReg) (width : BitVec 2) (scope : BitVec 3) (order : BitVec 2) (k : BitVec 4) : Bool :=
  atomFields a b hint c width scope k && sm == 0 && !(decide (9 ≤ k.toNat ∧ k.toNat ≤ 12)) && (order == 0 || order == 2)

/-- Blocks of 128 k-elements a scaled MMA takes (R270). -/
def mmaNB (ty kch : BitVec 3) : Nat := (kch.toNat + 1) * (if ty == 2 then 4 else 2)

/-- MMA's limits (R54, R270). -/
def mmaOk (acc : BitVec 6) (ty kch : BitVec 3) (asc : VReg) (bsel : BitVec 2) (bsc : BitVec 5) : Bool :=
  decide (acc.toNat ≤ 47 ∧ ty.toNat ≤ 5) &&
  (if ty.toNat ≤ 2 then
     decide (asc.toNat + (mmaNB ty kch - 1 + bsel.toNat) / 2 ≤ 111 ∧ bsc.toNat + (mmaNB ty kch - 1 + bsel.toNat) / 4 ≤ 31)
   else asc == 0 && bsel == 0 && bsc == 0)

/-- Registers of a CVTF source and of a CVTI destination (R47). -/
def cvtfSrcN (src : BitVec 4) : Nat := if src == 8 || src == 9 then 2 else 1
def cvtiDstN (dst : BitVec 3) : Nat := if dst == 2 || dst == 3 then 2 else 1

/-- The prefix holds neutral values in every field its instruction does not accept (R31, R32). -/
def pfxOk (p : Option Pfx) (mask zero rm sat f4 : Bool) : Bool :=
  match p with
  | none => true
  | some q => q.rm != 5 && q.rm != 6 && (mask || q.mr == 0) && (!q.mz || (zero && q.mr != 0)) &&
      (rm || q.rm == 7) && (sat || !q.sat) && (f4 || q.f4 == 0)

/-- Each field holds a value from its row's range (R42). -/
def Instr.fieldsOk : Instr → Bool
  | .nop => true
  | .bra _ => true
  | .brc _ _ _ => true
  | .brx a => srcOk a 2
  | .call dem argc retc ab _ => callOk dem argc retc ab
  | .callx dem argc retc ab _ => callOk dem argc retc ab
  | .ret => true
  | .unwind _ => true
  | .resize n => decide (1 ≤ n.toNat ∧ n.toNat ≤ 14)
  | .yield => true
  | .exit => true
  | .trap _ => true
  | .bkpt _ => true
  | .syscall _ => true
  | .mprog q _ => decide (q.toNat ≤ 96)
  | .iadd _ d a b x => decide (x.toNat ≤ 3) && dstOk d (pw (x == 3)) && srcOk a (pw (x == 3)) && srcOk b (pw (x == 3))
  | .isub _ d a b x => decide (x.toNat ≤ 3) && dstOk d (pw (x == 3)) && srcOk a (pw (x == 3)) && srcOk b (pw (x == 3))
  | .iaddi _ d a _ => dstOk d 1 && srcOk a 1
  | .imul _ d a b x => decide (x.toNat ≤ 3) && dstOk d (pw (x == 3)) && srcOk a 1 && srcOk b 1
  | .imuli _ d a _ => dstOk d 1 && srcOk a 1
  | .imad p d a b x => decide (x.toNat ≤ 1) && dstOk d (pw (x == 1)) && srcOk a 1 && srcOk b 1 && f4Ok p (pw (x == 1))
  | .imin _ d a b x => decide (x.toNat ≤ 1) && dstOk d 1 && srcOk a 1 && srcOk b 1
  | .imax _ d a b x => decide (x.toNat ≤ 1) && dstOk d 1 && srcOk a 1 && srcOk b 1
  | .iabs _ d a => dstOk d 1 && srcOk a 1
  | .ineg _ d a => dstOk d 1 && srcOk a 1
  | .inot _ d a => dstOk d 1 && srcOk a 1
  | .popc _ d a => dstOk d 1 && srcOk a 1
  | .clz _ d a => dstOk d 1 && srcOk a 1
  | .ctz _ d a => dstOk d 1 && srcOk a 1
  | .brev _ d a => dstOk d 1 && srcOk a 1
  | .bswap _ d a => dstOk d 1 && srcOk a 1
  | .isad _ d a b x => decide (x.toNat ≤ 1) && dstOk d 1 && srcOk a 1 && srcOk b 1
  | .shl _ d a b x => decide (x.toNat ≤ 1) && dstOk d (pw (x == 1)) && srcOk a (pw (x == 1)) && srcOk b 1
  | .shr _ d a b x => decide (x.toNat ≤ 1) && dstOk d (pw (x == 1)) && srcOk a (pw (x == 1)) && srcOk b 1
  | .sar _ d a b x => decide (x.toNat ≤ 1) && dstOk d (pw (x == 1)) && srcOk a (pw (x == 1)) && srcOk b 1
  | .rotl _ d a b => dstOk d 1 && srcOk a 1 && srcOk b 1
  | .rotr _ d a b => dstOk d 1 && srcOk a 1 && srcOk b 1
  | .shli _ d a pr n => (pr == 1 || decide (n.toNat < 32)) && dstOk d (pw (pr == 1)) && srcOk a (pw (pr == 1))
  | .shri _ d a pr n => (pr == 1 || decide (n.toNat < 32)) && dstOk d (pw (pr == 1)) && srcOk a (pw (pr == 1))
  | .sari _ d a pr n => (pr == 1 || decide (n.toNat < 32)) && dstOk d (pw (pr == 1)) && srcOk a (pw (pr == 1))
  | .and _ d a b => dstOk d 1 && srcOk a 1 && srcOk b 1
  | .or _ d a b => dstOk d 1 && srcOk a 1 && srcOk b 1
  | .xor _ d a b => dstOk d 1 && srcOk a 1 && srcOk b 1
  | .andn _ d a b => dstOk d 1 && srcOk a 1 && srcOk b 1
  | .orn _ d a b => dstOk d 1 && srcOk a 1 && srcOk b 1
  | .xnor _ d a b => dstOk d 1 && srcOk a 1 && srcOk b 1
  | .andi _ d a _ => dstOk d 1 && srcOk a 1
  | .ori _ d a _ => dstOk d 1 && srcOk a 1
  | .xori _ d a _ => dstOk d 1 && srcOk a 1
  | .bfx _ d a len pos => decide (1 ≤ len.toNat ∧ len.toNat ≤ 32 ∧ pos.toNat + len.toNat ≤ 32) && dstOk d 1 && srcOk a 1
  | .bfxs _ d a len pos => decide (1 ≤ len.toNat ∧ len.toNat ≤ 32 ∧ pos.toNat + len.toNat ≤ 32) && dstOk d 1 && srcOk a 1
  | .bfi _ d a len pos => decide (1 ≤ len.toNat ∧ len.toNat ≤ 32 ∧ pos.toNat + len.toNat ≤ 32) && dstOk d 1 && srcOk a 1
  | .icmp _ m c a b x => m != 0 && decide (c.toNat ≤ 5 ∧ x.toNat ≤ 3) && srcOk a (pw (2 ≤ x.toNat)) && srcOk b (pw (2 ≤ x.toNat))
  | .icmpi _ m c a _ => m != 0 && decide (c.toNat ≤ 9) && srcOk a 1
  | .sel _ d a b _ => dstOk d 1 && srcOk a 1 && srcOk b 1
  | .mov _ d a => dstOk d 1 && srcOk a 1
  | .movs _ d a => dstOk d 1 && sOk a
  | .movm _ d _ => dstOk d 1
  | .mvm _ m a => m != 0 && srcOk a 1
  | .movi _ d i => dstOk d 1 && wImmOk i
  | .lea _ d a b _ => dstOk d 1 && srcOk a 1 && srcOk b 1
  | .idiv _ d a b _ => dstOk d 1 && srcOk a 1 && srcOk b 1
  | .ndiv _ d a b _ => dstOk d 1 && srcOk a 1 && srcOk b 1
  | .sadd d a b => sOk d && sOk a && sOk b
  | .saddi d a _ => sOk d && sOk a
  | .ssub d a b => sOk d && sOk a && sOk b
  | .smul d a b => sOk d && sOk a && sOk b
  | .sand d a b => sOk d && sOk a && sOk b
  | .sor d a b => sOk d && sOk a && sOk b
  | .sxor d a b => sOk d && sOk a && sOk b
  | .sshl d a b => sOk d && sOk a && sOk b
  | .sshr d a b => sOk d && sOk a && sOk b
  | .ssar d a b => sOk d && sOk a && sOk b
  | .scmp d a b c => sOk d && sOk a && sOk b && decide (c.toNat ≤ 9)
  | .smovi d i => sOk d && wImmOk i
  | .smov d a => sOk d && sOk a
  | .rdlane d a n => sOk d && srcOk a 1 && sOk n
  | .wrlane d a n => dstOk d 1 && sOk a && sOk n
  | .smask d _ => sOk d
  | .mset m a => m != 0 && sOk a
  | .sld d a w _ _ => sOk d && sOk a && decide (w.toNat ≤ 5)
  | .sst d a w _ _ => sOk d && sOk a && decide (w.toNat ≤ 5)
  | .sbr d c _ => sOk d && decide (c.toNat ≤ 5)
  | .vany d a => sOk d && srcOk a 1
  | .vall d a => sOk d && srcOk a 1
  | .ballot m a => m != 0 && srcOk a 1
  | .vcount d a => sOk d && srcOk a 1
  | .waitev d c => sOk d && c != 0
  | .ldc d a w _ _ => sOk d && sOk a && decide (w.toNat ≤ 5)
  | .srd d _ => sOk d
  | .swr d _ => sOk d
  | .fadd _ d a b t => decide (t.toNat ≤ 2) && dstOk d 1 && srcOk a 1 && srcOk b 1
  | .fsub _ d a b t => decide (t.toNat ≤ 2) && dstOk d 1 && srcOk a 1 && srcOk b 1
  | .fmul _ d a b t => decide (t.toNat ≤ 2) && dstOk d 1 && srcOk a 1 && srcOk b 1
  | .ffma p d a b t => decide (t.toNat ≤ 2) && dstOk d 1 && srcOk a 1 && srcOk b 1 && f4Ok p 1
  | .fmin _ d a b t => decide (t.toNat ≤ 2) && dstOk d 1 && srcOk a 1 && srcOk b 1
  | .fmax _ d a b t => decide (t.toNat ≤ 2) && dstOk d 1 && srcOk a 1 && srcOk b 1
  | .fminp _ d a b t => decide (t.toNat ≤ 2) && dstOk d 1 && srcOk a 1 && srcOk b 1
  | .fmaxp _ d a b t => decide (t.toNat ≤ 2) && dstOk d 1 && srcOk a 1 && srcOk b 1
  | .fcmp _ m c a b x => m != 0 && decide (c.toNat ≤ 7 ∧ x.toNat ≤ 2) && srcOk a 1 && srcOk b 1
  | .fclass _ d a t => decide (t.toNat ≤ 2) && dstOk d 1 && srcOk a 1
  | .frnd _ d a n t => decide (t.toNat ≤ 2 ∧ (n.toNat ≤ 4 ∨ n.toNat = 7)) && dstOk d 1 && srcOk a 1
  | .fscalb _ d a b t => decide (t.toNat ≤ 2) && dstOk d 1 && srcOk a 1 && srcOk b 1
  | .fabs _ d a => dstOk d 1 && srcOk a 1
  | .fneg _ d a => dstOk d 1 && srcOk a 1
  | .fnabs _ d a => dstOk d 1 && srcOk a 1
  | .fcpsgn _ d a b => dstOk d 1 && srcOk a 1 && srcOk b 1
  | .fdot2 p d a b t => decide (1 ≤ t.toNat ∧ t.toNat ≤ 2) && dstOk d 1 && srcOk a 1 && srcOk b 1 && f4Ok p 1
  | .fclamp p d a b t => decide (t.toNat ≤ 2) && dstOk d 1 && srcOk a 1 && srcOk b 1 && f4Ok p 1
  | .pack _ d a b x => decide (x.toNat ≤ 3) && dstOk d 1 && srcOk a 1 && srcOk b 1
  | .fdiv _ d a b _ => dstOk d 1 && srcOk a 1 && srcOk b 1
  | .fsqrt _ d a _ => dstOk d 1 && srcOk a 1
  | .fexp2 _ d a _ => dstOk d 1 && srcOk a 1
  | .flog2 _ d a _ => dstOk d 1 && srcOk a 1
  | .fsin _ d a _ => dstOk d 1 && srcOk a 1
  | .fcos _ d a _ => dstOk d 1 && srcOk a 1
  | .frcp _ d a _ => dstOk d 1 && srcOk a 1
  | .frsq _ d a _ => dstOk d 1 && srcOk a 1
  | .ftanh _ d a _ => dstOk d 1 && srcOk a 1
  | .fsigm _ d a _ => dstOk d 1 && srcOk a 1
  | .cvtf _ d a src dst _ => decide (src.toNat ≤ 13 ∧ dst.toNat ≤ 5 ∧ src.toNat ≠ dst.toNat) && dstOk d 1 && srcOk a (cvtfSrcN src)
  | .cvti _ d a src dst _ _ => decide (src.toNat ≤ 5) && dstOk d (cvtiDstN dst) && srcOk a 1
  | .qscale _ d a fmt _ => decide (3 ≤ fmt.toNat ∧ fmt.toNat ≤ 5) && dstOk d 1 && srcOk a 1
  | .shfl _ d a b _ => dstOk d 1 && srcOk a 1 && srcOk b 1
  | .shflup _ d a seg n => decide (n.toNat < 32 / 2 ^ seg.toNat) && dstOk d 1 && srcOk a 1
  | .shfldn _ d a seg n => decide (n.toNat < 32 / 2 ^ seg.toNat) && dstOk d 1 && srcOk a 1
  | .shflx _ d a seg n => decide (n.toNat < 32 / 2 ^ seg.toNat) && dstOk d 1 && srcOk a 1
  | .qswz _ d a _ => dstOk d 1 && srcOk a 1
  | .redux _ d a k => decide (k.toNat ≤ 10) && dstOk d 1 && srcOk a 1
  | .scan _ d a _ k => decide (k.toNat ≤ 10) && dstOk d 1 && srcOk a 1
  | .matchl _ d a x => dstOk d 1 && srcOk a (pw (x == 1))
  | .ld _ d a w _ _ => decide (w.toNat ≤ 6) && dstOk d (wRegs w) && srcOk a 2
  | .lds _ d a w _ _ => decide (w.toNat ≤ 6) && dstOk d (wRegs w) && srcOk a 1
  | .ldx _ d a w _ _ => decide (w.toNat ≤ 6) && dstOk d (wRegs w) && srcOk a 1
  | .st _ d a w _ _ => decide (w.toNat ≤ 6) && srcOk d (wRegs w) && srcOk a 2
  | .sts _ d a w _ _ => decide (w.toNat ≤ 6) && srcOk d (wRegs w) && srcOk a 1
  | .stx _ d a w _ _ => decide (w.toNat ≤ 6) && srcOk d (wRegs w) && srcOk a 1
  | .ldm _ d a w _ _ => ldmOk d a w && srcOk a 2
  | .stm _ d a w _ _ => decide (d.toNat + w.toNat + 1 ≤ 112) && srcOk a 2
  | .atom d a b _ sm hint c width scope _ k => atomOk d a b sm hint c width scope k
  | .atomr d a b _ sm hint c width scope _ k => atomOk d a b sm hint c width scope k && hint == 0 && scope == 4
  | .red d a b _ sm hint c width scope order k => d == 0 && redOk a b sm hint c width scope order k
  | .barinit a b => srcOk a 1 && srcOk b 1
  | .bararv m a b => m != 0 && srcOk a 1 && srcOk b 1
  | .baraw m a b => m != 0 && srcOk a 1 && srcOk b 1
  | .barwait a => srcOk a 1
  | .bartest m a => m != 0 && srcOk a 1
  | .barexp a b => srcOk a 1 && srcOk b 1
  | .bardrop a b => srcOk a 1 && srcOk b 1
  | .psync a => srcOk a 1
  | .fence scope _ => decide (scope.toNat ≤ 4)
  | .fenceLite scope => decide (scope.toNat ≤ 4)
  | .fenceHeavy scope => decide (scope.toNat ≤ 4)
  | .fenceTc scope => decide (scope.toNat ≤ 4)
  | .fenceShape scope => decide (scope.toNat ≤ 4)
  | .cctl a w _ _ => decide (w.toNat ≤ 5) && srcOk a 2
  | .tcopy _ _ _ _ _ _ _ _ scope rop => decide (scope.toNat ≤ 4 ∧ rop.toNat ≤ 3)
  | .tstat d _ => sOk d
  | .trel _ => true
  | .strmFeeda _ => true
  | .strmFeedb _ => true
  | .strmReplay n k => n != 0 && k != 0
  | .strmFlush => true
  | .coll _ _ _ _ => true
  | .tresume _ => true
  | .launchGrid r _ _ => r != 0
  | .launchNode r _ _ => r != 0
  | .shinv _ => true
  | .shinvAll => true
  | .mma acc ty kch asc _ _ bsel bsc => mmaOk acc ty kch asc bsel bsc
  | .accz acc _ => decide (acc.toNat ≤ 47)
  | .accrd d acc _ x => decide (acc.toNat ≤ 47) && decide (x.toNat ≤ 2) && dstOk d (pw (x == 2))
  | .accwr a acc _ x => decide (acc.toNat ≤ 47) && decide (x.toNat ≤ 2) && srcOk a (pw (x == 2))
  | .accopScale a acc => decide (acc.toNat ≤ 47) && srcOk a 1
  | .accopAddrow a acc => decide (acc.toNat ≤ 47) && srcOk a 1
  | .accopRowmax d acc => decide (acc.toNat ≤ 47) && dstOk d 1
  | .accopRowsum d acc => decide (acc.toNat ≤ 47) && dstOk d 1
  | .accopExps a acc _ => decide (acc.toNat ≤ 47) && srcOk a 1
  | .accopMaskc acc _ => decide (acc.toNat ≤ 47)
  | .accmvTotile _ acc et => decide (acc.toNat ≤ 47) && decide (et.toNat ≤ 4)
  | .accmvFromtile _ acc et => decide (acc.toNat ≤ 47) && decide (et.toNat ≤ 4)
  | .accmvSave _ acc => decide (acc.toNat ≤ 47)
  | .accmvLoad _ acc => decide (acc.toNat ≤ 47)
  | .laneAgeSaturate _ _ _ => true
  | .breakpoint _ _ => true
  | .memoryAccessComplete _ _ _ => true
  | .atomResult _ _ _ => true
  | .walkComplete _ _ _ _ => true
  | .prqEntryPost _ => true
  | .prqHeadWrite _ _ => true
  | .prqReplyRetry _ _ => true
  | .prqReplyFail _ _ => true
  | .xltInvAll _ => true
  | .xltInvFunc _ => true
  | .xltInvCtx _ => true
  | .xltInvCtxPages _ => true
  | .xltInvStage2Pages _ => true
  | .xltInvNonglobal _ => true
  | .xltInvDone => true
  | .llcCarveWrite _ => true
  | .llcCarveDone => true
  | .cspwinWrite _ _ => true
  | .copyStart => true
  | .tcopyAccept _ _ => true
  | .barrierEngineArrival _ => true
  | .copyComplete _ => true
  | .copyFaultPause _ => true
  | .copyFail _ => true
  | .streamFill _ _ => true
  | .mmaEntryStart _ => true
  | .mmaEntryComplete _ => true
  | .mxGate _ => true
  | .frameGrant _ => true
  | .frameWaitExpiry _ _ => true
  | .escapeSpillStart _ => true
  | .spillComplete _ => true
  | .refillComplete _ _ => true
  | .recordReadback _ _ => true
  | .trapDelivery _ _ => true
  | .escalation _ _ => true
  | .pendingTrapDelivery _ _ => true
  | .waitevTimeout _ _ => true
  | .packAged _ _ => true
  | .trqPop _ => true
  | .trqxRead _ => true
  | .park _ _ => true
  | .unpark _ _ => true
  | .release _ _ => true
  | .signal _ _ => true
  | .endtrap _ _ => true
  | .post _ => true
  | .failx _ _ => true
  | .kill _ _ => true
  | .pkdataRead _ => true
  | .pkdataWrite _ _ => true
  | .srdataRead _ => true
  | .srdataWrite _ _ => true
  | .inject _ _ => true
  | .emdataRead _ => true
  | .emdataWrite _ _ => true
  | .emctlGo _ => true
  | .csdataWrite _ _ => true
  | .csctlGo _ _ => true
  | .controlStoreInstall _ _ => true
  | .ctxPreempt _ => true
  | .ctxRestore _ => true
  | .ctxKill _ => true
  | .ctxcfgWrite _ _ => true
  | .launchQtailWrite _ _ => true
  | .qbaseWrite _ _ => true
  | .launchEntryRead _ => true
  | .nodeRelease _ => true
  | .workgroupPlace => true
  | .priorityStarvation _ => true
  | .workgroupFinish _ _ => true
  | .launchComplete _ => true
  | .nodeDiscard _ => true
  | .remoteRequestIngress _ => true
  | .remoteResponse _ _ => true
  | .controlRequest _ => true
  | .mirrorUpdate _ _ => true
  | .lossNotice _ => true
  | .fabLossTo _ => true
  | .peerClr _ => true
  | .linkCrcError _ => true
  | .portTrained _ => true
  | .linkRekey _ _ => true
  | .portDisable _ _ => true
  | .mint _ => true
  | .roll _ => true
  | .collAccept _ _ => true
  | .collSplit _ _ => true
  | .collChunk _ _ _ _ _ => true
  | .collReduceComplete _ _ => true
  | .collStepTimeout _ _ => true
  | .collMismatchNotice _ => true
  | .collEnd _ => true
  | .planeBwWindow _ => true
  | .kload _ => true
  | .kslotZero _ => true
  | .exreq _ => true
  | .lattolWrite _ => true
  | .c1Entry _ => true
  | .c2Entry _ => true
  | .c3Entry _ => true
  | .wake _ => true
  | .dbgdbRing _ => true
  | .halt _ _ => true
  | .resume _ _ => true
  | .step _ _ => true
  | .read _ _ _ => true
  | .write _ _ _ _ => true
  | .setbp _ _ _ => true
  | .setwp _ _ _ => true
  | .packageReset => true
  | .bringupStage _ _ _ => true
  | .registerWrite _ _ => true
  | .longLatencyComplete _ _ _ => true
  | .accumulatorInstructionComplete _ _ _ => true
  | .idleClock _ => true
  | .collContributionRead _ _ => true

/-- A PFX holds only fields its instruction accepts (R31, R32, the map of R42): the flags of pfxOk are, in order, mask, a masked destination for MZ, rm, sat, f4. -/
def Instr.prefixOk : Instr → Bool
  | .nop => true
  | .bra _ => true
  | .brc _ _ _ => true
  | .brx _ => true
  | .call _ _ _ _ _ => true
  | .callx _ _ _ _ _ => true
  | .ret => true
  | .unwind _ => true
  | .resize _ => true
  | .yield => true
  | .exit => true
  | .trap _ => true
  | .bkpt _ => true
  | .syscall _ => true
  | .mprog _ _ => true
  | .iadd p _ _ _ _ => pfxOk p true true false false false
  | .isub p _ _ _ _ => pfxOk p true true false false false
  | .iaddi p _ _ _ => pfxOk p true true false false false
  | .imul p _ _ _ _ => pfxOk p true true false false false
  | .imuli p _ _ _ => pfxOk p true true false false false
  | .imad p _ _ _ _ => pfxOk p true true false false true
  | .imin p _ _ _ _ => pfxOk p true true false false false
  | .imax p _ _ _ _ => pfxOk p true true false false false
  | .iabs p _ _ => pfxOk p true true false false false
  | .ineg p _ _ => pfxOk p true true false false false
  | .inot p _ _ => pfxOk p true true false false false
  | .popc p _ _ => pfxOk p true true false false false
  | .clz p _ _ => pfxOk p true true false false false
  | .ctz p _ _ => pfxOk p true true false false false
  | .brev p _ _ => pfxOk p true true false false false
  | .bswap p _ _ => pfxOk p true true false false false
  | .isad p _ _ _ _ => pfxOk p true true false false false
  | .shl p _ _ _ _ => pfxOk p true true false false false
  | .shr p _ _ _ _ => pfxOk p true true false false false
  | .sar p _ _ _ _ => pfxOk p true true false false false
  | .rotl p _ _ _ => pfxOk p true true false false false
  | .rotr p _ _ _ => pfxOk p true true false false false
  | .shli p _ _ _ _ => pfxOk p true true false false false
  | .shri p _ _ _ _ => pfxOk p true true false false false
  | .sari p _ _ _ _ => pfxOk p true true false false false
  | .and p _ _ _ => pfxOk p true true false false false
  | .or p _ _ _ => pfxOk p true true false false false
  | .xor p _ _ _ => pfxOk p true true false false false
  | .andn p _ _ _ => pfxOk p true true false false false
  | .orn p _ _ _ => pfxOk p true true false false false
  | .xnor p _ _ _ => pfxOk p true true false false false
  | .andi p _ _ _ => pfxOk p true true false false false
  | .ori p _ _ _ => pfxOk p true true false false false
  | .xori p _ _ _ => pfxOk p true true false false false
  | .bfx p _ _ _ _ => pfxOk p true true false false false
  | .bfxs p _ _ _ _ => pfxOk p true true false false false
  | .bfi p _ _ _ _ => pfxOk p true true false false false
  | .icmp p _ _ _ _ _ => pfxOk p true true false false false
  | .icmpi p _ _ _ _ => pfxOk p true true false false false
  | .sel p _ _ _ _ => pfxOk p true true false false false
  | .mov p _ _ => pfxOk p true true false false false
  | .movs p _ _ => pfxOk p true true false false false
  | .movm p _ _ => pfxOk p true true false false false
  | .mvm p _ _ => pfxOk p true true false false false
  | .movi p _ _ => pfxOk p true true false false false
  | .lea p _ _ _ _ => pfxOk p true true false false false
  | .idiv p _ _ _ _ => pfxOk p true true false false false
  | .ndiv p _ _ _ _ => pfxOk p true true false false false
  | .sadd _ _ _ => true
  | .saddi _ _ _ => true
  | .ssub _ _ _ => true
  | .smul _ _ _ => true
  | .sand _ _ _ => true
  | .sor _ _ _ => true
  | .sxor _ _ _ => true
  | .sshl _ _ _ => true
  | .sshr _ _ _ => true
  | .ssar _ _ _ => true
  | .scmp _ _ _ _ => true
  | .smovi _ _ => true
  | .smov _ _ => true
  | .rdlane _ _ _ => true
  | .wrlane _ _ _ => true
  | .smask _ _ => true
  | .mset _ _ => true
  | .sld _ _ _ _ _ => true
  | .sst _ _ _ _ _ => true
  | .sbr _ _ _ => true
  | .vany _ _ => true
  | .vall _ _ => true
  | .ballot _ _ => true
  | .vcount _ _ => true
  | .waitev _ _ => true
  | .ldc _ _ _ _ _ => true
  | .srd _ _ => true
  | .swr _ _ => true
  | .fadd p _ _ _ _ => pfxOk p true true true false false
  | .fsub p _ _ _ _ => pfxOk p true true true false false
  | .fmul p _ _ _ _ => pfxOk p true true true false false
  | .ffma p _ _ _ _ => pfxOk p true true true false true
  | .fmin p _ _ _ _ => pfxOk p true true false false false
  | .fmax p _ _ _ _ => pfxOk p true true false false false
  | .fminp p _ _ _ _ => pfxOk p true true false false false
  | .fmaxp p _ _ _ _ => pfxOk p true true false false false
  | .fcmp p _ _ _ _ _ => pfxOk p true true false false false
  | .fclass p _ _ _ => pfxOk p true true false false false
  | .frnd p _ _ _ _ => pfxOk p true true false false false
  | .fscalb p _ _ _ _ => pfxOk p true true true false false
  | .fabs p _ _ => pfxOk p true true false false false
  | .fneg p _ _ => pfxOk p true true false false false
  | .fnabs p _ _ => pfxOk p true true false false false
  | .fcpsgn p _ _ _ => pfxOk p true true false false false
  | .fdot2 p _ _ _ _ => pfxOk p true true true false true
  | .fclamp p _ _ _ _ => pfxOk p true true false false true
  | .pack p _ _ _ _ => pfxOk p true true true true false
  | .fdiv p _ _ _ _ => pfxOk p true true true false false
  | .fsqrt p _ _ _ => pfxOk p true true true false false
  | .fexp2 p _ _ _ => pfxOk p true true true false false
  | .flog2 p _ _ _ => pfxOk p true true true false false
  | .fsin p _ _ _ => pfxOk p true true true false false
  | .fcos p _ _ _ => pfxOk p true true true false false
  | .frcp p _ _ _ => pfxOk p true true true false false
  | .frsq p _ _ _ => pfxOk p true true true false false
  | .ftanh p _ _ _ => pfxOk p true true true false false
  | .fsigm p _ _ _ => pfxOk p true true true false false
  | .cvtf p _ _ _ _ _ => pfxOk p true true true true false
  | .cvti p _ _ _ _ _ _ => pfxOk p true true true false false
  | .qscale p _ _ _ _ => pfxOk p true true true true false
  | .shfl p _ _ _ _ => pfxOk p true true false false false
  | .shflup p _ _ _ _ => pfxOk p true true false false false
  | .shfldn p _ _ _ _ => pfxOk p true true false false false
  | .shflx p _ _ _ _ => pfxOk p true true false false false
  | .qswz p _ _ _ => pfxOk p true true false false false
  | .redux p _ _ _ => pfxOk p true true false false false
  | .scan p _ _ _ _ => pfxOk p true true false false false
  | .matchl p _ _ _ => pfxOk p true true false false false
  | .ld p _ _ _ _ _ => pfxOk p true true false false false
  | .lds p _ _ _ _ _ => pfxOk p true true false false false
  | .ldx p _ _ _ _ _ => pfxOk p true true false false false
  | .st p _ _ _ _ _ => pfxOk p true false false false false
  | .sts p _ _ _ _ _ => pfxOk p true false false false false
  | .stx p _ _ _ _ _ => pfxOk p true false false false false
  | .ldm p _ _ _ _ _ => pfxOk p true true false false false
  | .stm p _ _ _ _ _ => pfxOk p true false false false false
  | .atom _ _ _ _ _ _ _ _ _ _ _ => true
  | .atomr _ _ _ _ _ _ _ _ _ _ _ => true
  | .red _ _ _ _ _ _ _ _ _ _ _ => true
  | .barinit _ _ => true
  | .bararv _ _ _ => true
  | .baraw _ _ _ => true
  | .barwait _ => true
  | .bartest _ _ => true
  | .barexp _ _ => true
  | .bardrop _ _ => true
  | .psync _ => true
  | .fence _ _ => true
  | .fenceLite _ => true
  | .fenceHeavy _ => true
  | .fenceTc _ => true
  | .fenceShape _ => true
  | .cctl _ _ _ _ => true
  | .tcopy _ _ _ _ _ _ _ _ _ _ => true
  | .tstat _ _ => true
  | .trel _ => true
  | .strmFeeda _ => true
  | .strmFeedb _ => true
  | .strmReplay _ _ => true
  | .strmFlush => true
  | .coll _ _ _ _ => true
  | .tresume _ => true
  | .launchGrid _ _ _ => true
  | .launchNode _ _ _ => true
  | .shinv _ => true
  | .shinvAll => true
  | .mma _ _ _ _ _ _ _ _ => true
  | .accz _ _ => true
  | .accrd _ _ _ _ => true
  | .accwr _ _ _ _ => true
  | .accopScale _ _ => true
  | .accopAddrow _ _ => true
  | .accopRowmax _ _ => true
  | .accopRowsum _ _ => true
  | .accopExps _ _ _ => true
  | .accopMaskc _ _ => true
  | .accmvTotile _ _ _ => true
  | .accmvFromtile _ _ _ => true
  | .accmvSave _ _ => true
  | .accmvLoad _ _ => true
  | .laneAgeSaturate _ _ _ => true
  | .breakpoint _ _ => true
  | .memoryAccessComplete _ _ _ => true
  | .atomResult _ _ _ => true
  | .walkComplete _ _ _ _ => true
  | .prqEntryPost _ => true
  | .prqHeadWrite _ _ => true
  | .prqReplyRetry _ _ => true
  | .prqReplyFail _ _ => true
  | .xltInvAll _ => true
  | .xltInvFunc _ => true
  | .xltInvCtx _ => true
  | .xltInvCtxPages _ => true
  | .xltInvStage2Pages _ => true
  | .xltInvNonglobal _ => true
  | .xltInvDone => true
  | .llcCarveWrite _ => true
  | .llcCarveDone => true
  | .cspwinWrite _ _ => true
  | .copyStart => true
  | .tcopyAccept _ _ => true
  | .barrierEngineArrival _ => true
  | .copyComplete _ => true
  | .copyFaultPause _ => true
  | .copyFail _ => true
  | .streamFill _ _ => true
  | .mmaEntryStart _ => true
  | .mmaEntryComplete _ => true
  | .mxGate _ => true
  | .frameGrant _ => true
  | .frameWaitExpiry _ _ => true
  | .escapeSpillStart _ => true
  | .spillComplete _ => true
  | .refillComplete _ _ => true
  | .recordReadback _ _ => true
  | .trapDelivery _ _ => true
  | .escalation _ _ => true
  | .pendingTrapDelivery _ _ => true
  | .waitevTimeout _ _ => true
  | .packAged _ _ => true
  | .trqPop _ => true
  | .trqxRead _ => true
  | .park _ _ => true
  | .unpark _ _ => true
  | .release _ _ => true
  | .signal _ _ => true
  | .endtrap _ _ => true
  | .post _ => true
  | .failx _ _ => true
  | .kill _ _ => true
  | .pkdataRead _ => true
  | .pkdataWrite _ _ => true
  | .srdataRead _ => true
  | .srdataWrite _ _ => true
  | .inject _ _ => true
  | .emdataRead _ => true
  | .emdataWrite _ _ => true
  | .emctlGo _ => true
  | .csdataWrite _ _ => true
  | .csctlGo _ _ => true
  | .controlStoreInstall _ _ => true
  | .ctxPreempt _ => true
  | .ctxRestore _ => true
  | .ctxKill _ => true
  | .ctxcfgWrite _ _ => true
  | .launchQtailWrite _ _ => true
  | .qbaseWrite _ _ => true
  | .launchEntryRead _ => true
  | .nodeRelease _ => true
  | .workgroupPlace => true
  | .priorityStarvation _ => true
  | .workgroupFinish _ _ => true
  | .launchComplete _ => true
  | .nodeDiscard _ => true
  | .remoteRequestIngress _ => true
  | .remoteResponse _ _ => true
  | .controlRequest _ => true
  | .mirrorUpdate _ _ => true
  | .lossNotice _ => true
  | .fabLossTo _ => true
  | .peerClr _ => true
  | .linkCrcError _ => true
  | .portTrained _ => true
  | .linkRekey _ _ => true
  | .portDisable _ _ => true
  | .mint _ => true
  | .roll _ => true
  | .collAccept _ _ => true
  | .collSplit _ _ => true
  | .collChunk _ _ _ _ _ => true
  | .collReduceComplete _ _ => true
  | .collStepTimeout _ _ => true
  | .collMismatchNotice _ => true
  | .collEnd _ => true
  | .planeBwWindow _ => true
  | .kload _ => true
  | .kslotZero _ => true
  | .exreq _ => true
  | .lattolWrite _ => true
  | .c1Entry _ => true
  | .c2Entry _ => true
  | .c3Entry _ => true
  | .wake _ => true
  | .dbgdbRing _ => true
  | .halt _ _ => true
  | .resume _ _ => true
  | .step _ _ => true
  | .read _ _ _ => true
  | .write _ _ _ _ => true
  | .setbp _ _ _ => true
  | .setwp _ _ _ => true
  | .packageReset => true
  | .bringupStage _ _ _ => true
  | .registerWrite _ _ => true
  | .longLatencyComplete _ _ _ => true
  | .accumulatorInstructionComplete _ _ _ => true
  | .idleClock _ => true
  | .collContributionRead _ _ => true

/-- A legal encoding (R56): its fields and its prefix. -/
def Instr.wf (i : Instr) : Bool := i.fieldsOk && i.prefixOk

end Sys2Proof
end

