-- ==== Sys2Proof/Decode.lean ====
section
/-! DEFINITION. Words to instructions and back: the unit grammar of R30 to R33, the opcode map of R42, and what becomes of words that are no instruction (R56). -/

namespace Sys2Proof

/-- Bits [lo+len-1:lo] of a word. -/
def fld (w lo len : Nat) : BitVec len := BitVec.ofNat len (w / 2 ^ lo)

/-- A word from its major opcode and bits [24:0] (R28). -/
def wd (op r : Nat) : Nat := op * 33554432 + r

def pfxW : Option Pfx → List Nat
  | none => []
  | some p => [wd 126 (p.mr.toNat * 4194304 + p.mz.toNat * 2097152 + p.rm.toNat * 262144 + p.sat.toNat * 131072 + p.f4.toNat * 1024)]

def imxW : Option (BitVec 21) → List Nat
  | none => []
  | some h => [wd 127 h.toNat]

/-- The word at the head of a unit as a PFX, and the words after it (R31). -/
def takePfx : List Nat → Option Pfx × List Nat
  | [] => (none, [])
  | w :: r =>
    if w / 33554432 = 126 then
      (some ⟨fld w 22 3, w / 2097152 % 2 == 1, fld w 18 3, w / 131072 % 2 == 1, fld w 10 7⟩, r)
    else (none, w :: r)

/-- The word at the head as an IMX, and the words after it (R30). -/
def takeImx : List Nat → Option (BitVec 21) × List Nat
  | [] => (none, [])
  | w :: r => if w / 33554432 = 127 then (some (fld w 0 21), r) else (none, w :: r)

/-- The majors whose instructions have a second word (R28, R43, R50, R52, R54). -/
def twoWordOp (w : Nat) : Bool :=
  [5, 104, 105, 106, 112, 116, 118, 120].contains (w / 33554432)

/-- How many words the unit at the head of `ws` has: its prefixes, its word, its second word. -/
def unitLen (ws : List Nat) : Nat :=
  let r1 := (takePfx ws).2
  let r2 := (takeImx r1).2
  (ws.length - r2.length) + (match r2 with | [] => 1 | w :: _ => if twoWordOp w then 2 else 1)

/-- The words of an instruction (R28, R43, R50 to R55), least significant bit first in each word; events have none. -/
def encode : Instr → List Nat
  | .nop => [wd 1 (0)]
  | .bra o => [wd 2 (o.toNat)]
  | .brc m k o => [wd 3 (m.toNat * 4194304 + k.toNat * 2097152 + o.toNat)]
  | .brx a => [wd 4 (a.toNat * 2048)]
  | .call dem argc retc ab off => [wd 5 (dem.toNat * 2097152 + argc.toNat * 131072 + retc.toNat * 8192 + ab.toNat * 64), off.toNat]
  | .callx dem argc retc ab r => [wd 6 (dem.toNat * 2097152 + argc.toNat * 131072 + retc.toNat * 8192 + ab.toNat * 64 + r.toNat * 2)]
  | .ret => [wd 7 (0)]
  | .unwind n => [wd 8 (n.toNat)]
  | .resize n => [wd 9 (n.toNat)]
  | .yield => [wd 10 (0)]
  | .exit => [wd 11 (0)]
  | .trap n => [wd 12 (n.toNat)]
  | .bkpt n => [wd 13 (n.toNat)]
  | .syscall n => [wd 14 (n.toNat)]
  | .mprog q k => [wd 15 (q.toNat * 262144 + k.toNat)]
  | .iadd p d a b x => pfxW p ++ [wd 16 (d.toNat * 262144 + a.toNat * 2048 + b.toNat * 16 + x.toNat)]
  | .isub p d a b x => pfxW p ++ [wd 18 (d.toNat * 262144 + a.toNat * 2048 + b.toNat * 16 + x.toNat)]
  | .iaddi p d a i => pfxW p ++ (imxW i.hi ++ [wd 17 (d.toNat * 262144 + a.toNat * 2048 + i.lo.toNat)])
  | .imul p d a b x => pfxW p ++ [wd 19 (d.toNat * 262144 + a.toNat * 2048 + b.toNat * 16 + x.toNat)]
  | .imuli p d a i => pfxW p ++ (imxW i.hi ++ [wd 20 (d.toNat * 262144 + a.toNat * 2048 + i.lo.toNat)])
  | .imad p d a b x => pfxW p ++ [wd 21 (d.toNat * 262144 + a.toNat * 2048 + b.toNat * 16 + x.toNat)]
  | .imin p d a b x => pfxW p ++ [wd 22 (d.toNat * 262144 + a.toNat * 2048 + b.toNat * 16 + x.toNat)]
  | .imax p d a b x => pfxW p ++ [wd 23 (d.toNat * 262144 + a.toNat * 2048 + b.toNat * 16 + x.toNat)]
  | .iabs p d a => pfxW p ++ [wd 24 (d.toNat * 262144 + a.toNat * 2048)]
  | .ineg p d a => pfxW p ++ [wd 24 (d.toNat * 262144 + a.toNat * 2048 + 1)]
  | .inot p d a => pfxW p ++ [wd 24 (d.toNat * 262144 + a.toNat * 2048 + 2)]
  | .popc p d a => pfxW p ++ [wd 24 (d.toNat * 262144 + a.toNat * 2048 + 3)]
  | .clz p d a => pfxW p ++ [wd 24 (d.toNat * 262144 + a.toNat * 2048 + 4)]
  | .ctz p d a => pfxW p ++ [wd 24 (d.toNat * 262144 + a.toNat * 2048 + 5)]
  | .brev p d a => pfxW p ++ [wd 24 (d.toNat * 262144 + a.toNat * 2048 + 6)]
  | .bswap p d a => pfxW p ++ [wd 24 (d.toNat * 262144 + a.toNat * 2048 + 7)]
  | .isad p d a b x => pfxW p ++ [wd 25 (d.toNat * 262144 + a.toNat * 2048 + b.toNat * 16 + x.toNat)]
  | .shl p d a b x => pfxW p ++ [wd 26 (d.toNat * 262144 + a.toNat * 2048 + b.toNat * 16 + x.toNat)]
  | .shr p d a b x => pfxW p ++ [wd 27 (d.toNat * 262144 + a.toNat * 2048 + b.toNat * 16 + x.toNat)]
  | .sar p d a b x => pfxW p ++ [wd 28 (d.toNat * 262144 + a.toNat * 2048 + b.toNat * 16 + x.toNat)]
  | .rotl p d a b => pfxW p ++ [wd 29 (d.toNat * 262144 + a.toNat * 2048 + b.toNat * 16)]
  | .rotr p d a b => pfxW p ++ [wd 29 (d.toNat * 262144 + a.toNat * 2048 + b.toNat * 16 + 1)]
  | .shli p d a pr n => pfxW p ++ [wd 30 (d.toNat * 262144 + a.toNat * 2048 + pr.toNat * 64 + n.toNat)]
  | .shri p d a pr n => pfxW p ++ [wd 31 (d.toNat * 262144 + a.toNat * 2048 + pr.toNat * 64 + n.toNat)]
  | .sari p d a pr n => pfxW p ++ [wd 32 (d.toNat * 262144 + a.toNat * 2048 + pr.toNat * 64 + n.toNat)]
  | .and p d a b => pfxW p ++ [wd 33 (d.toNat * 262144 + a.toNat * 2048 + b.toNat * 16)]
  | .or p d a b => pfxW p ++ [wd 33 (d.toNat * 262144 + a.toNat * 2048 + b.toNat * 16 + 1)]
  | .xor p d a b => pfxW p ++ [wd 33 (d.toNat * 262144 + a.toNat * 2048 + b.toNat * 16 + 2)]
  | .andn p d a b => pfxW p ++ [wd 33 (d.toNat * 262144 + a.toNat * 2048 + b.toNat * 16 + 3)]
  | .orn p d a b => pfxW p ++ [wd 33 (d.toNat * 262144 + a.toNat * 2048 + b.toNat * 16 + 4)]
  | .xnor p d a b => pfxW p ++ [wd 33 (d.toNat * 262144 + a.toNat * 2048 + b.toNat * 16 + 5)]
  | .andi p d a i => pfxW p ++ (imxW i.hi ++ [wd 34 (d.toNat * 262144 + a.toNat * 2048 + i.lo.toNat)])
  | .ori p d a i => pfxW p ++ (imxW i.hi ++ [wd 35 (d.toNat * 262144 + a.toNat * 2048 + i.lo.toNat)])
  | .xori p d a i => pfxW p ++ (imxW i.hi ++ [wd 36 (d.toNat * 262144 + a.toNat * 2048 + i.lo.toNat)])
  | .bfx p d a len pos => pfxW p ++ [wd 37 (d.toNat * 262144 + a.toNat * 2048 + len.toNat * 32 + pos.toNat)]
  | .bfxs p d a len pos => pfxW p ++ [wd 38 (d.toNat * 262144 + a.toNat * 2048 + len.toNat * 32 + pos.toNat)]
  | .bfi p d a len pos => pfxW p ++ [wd 39 (d.toNat * 262144 + a.toNat * 2048 + len.toNat * 32 + pos.toNat)]
  | .icmp p m c a b x => pfxW p ++ [wd 40 (m.toNat * 4194304 + c.toNat * 262144 + a.toNat * 2048 + b.toNat * 16 + x.toNat)]
  | .icmpi p m c a i => pfxW p ++ (imxW i.hi ++ [wd 41 (m.toNat * 4194304 + c.toNat * 262144 + a.toNat * 2048 + i.lo.toNat)])
  | .sel p d a b m => pfxW p ++ [wd 42 (d.toNat * 262144 + a.toNat * 2048 + b.toNat * 16 + m.toNat)]
  | .mov p d a => pfxW p ++ [wd 43 (d.toNat * 262144 + a.toNat * 2048)]
  | .movs p d a => pfxW p ++ [wd 43 (d.toNat * 262144 + a.toNat * 2048 + 1)]
  | .movm p d m => pfxW p ++ [wd 43 (d.toNat * 262144 + m.toNat * 2048 + 2)]
  | .mvm p m a => pfxW p ++ [wd 43 (m.toNat * 262144 + a.toNat * 2048 + 3)]
  | .movi p d i => pfxW p ++ (imxW i.hi ++ [wd 44 (d.toNat * 262144 + i.lo.toNat)])
  | .lea p d a b x => pfxW p ++ [wd 45 (d.toNat * 262144 + a.toNat * 2048 + b.toNat * 16 + x.toNat)]
  | .idiv p d a b la => pfxW p ++ [wd 46 (d.toNat * 262144 + a.toNat * 2048 + b.toNat * 16 + la.toNat)]
  | .ndiv p d a b la => pfxW p ++ [wd 47 (d.toNat * 262144 + a.toNat * 2048 + b.toNat * 16 + la.toNat)]
  | .sadd d a b => [wd 48 (d.toNat * 262144 + a.toNat * 2048 + b.toNat * 16)]
  | .saddi d a i => imxW i.hi ++ [wd 49 (d.toNat * 262144 + a.toNat * 2048 + i.lo.toNat)]
  | .ssub d a b => [wd 50 (d.toNat * 262144 + a.toNat * 2048 + b.toNat * 16)]
  | .smul d a b => [wd 51 (d.toNat * 262144 + a.toNat * 2048 + b.toNat * 16)]
  | .sand d a b => [wd 52 (d.toNat * 262144 + a.toNat * 2048 + b.toNat * 16)]
  | .sor d a b => [wd 52 (d.toNat * 262144 + a.toNat * 2048 + b.toNat * 16 + 1)]
  | .sxor d a b => [wd 52 (d.toNat * 262144 + a.toNat * 2048 + b.toNat * 16 + 2)]
  | .sshl d a b => [wd 52 (d.toNat * 262144 + a.toNat * 2048 + b.toNat * 16 + 3)]
  | .sshr d a b => [wd 52 (d.toNat * 262144 + a.toNat * 2048 + b.toNat * 16 + 4)]
  | .ssar d a b => [wd 52 (d.toNat * 262144 + a.toNat * 2048 + b.toNat * 16 + 5)]
  | .scmp d a b c => [wd 53 (d.toNat * 262144 + a.toNat * 2048 + b.toNat * 16 + c.toNat)]
  | .smovi d i => imxW i.hi ++ [wd 54 (d.toNat * 262144 + i.lo.toNat)]
  | .smov d a => [wd 55 (d.toNat * 262144 + a.toNat * 2048)]
  | .rdlane d a n => [wd 55 (d.toNat * 262144 + a.toNat * 2048 + n.toNat * 16 + 1)]
  | .wrlane d a n => [wd 55 (d.toNat * 262144 + a.toNat * 2048 + n.toNat * 16 + 2)]
  | .smask d m => [wd 55 (d.toNat * 262144 + m.toNat * 2048 + 3)]
  | .mset m a => [wd 55 (m.toNat * 262144 + a.toNat * 2048 + 4)]
  | .sld d a w i la => imxW i.hi ++ [wd 56 (d.toNat * 262144 + a.toNat * 2048 + w.toNat * 256 + i.lo.toNat * 16 + la.toNat)]
  | .sst d a w i la => imxW i.hi ++ [wd 57 (d.toNat * 262144 + a.toNat * 2048 + w.toNat * 256 + i.lo.toNat * 16 + la.toNat)]
  | .sbr d c i => imxW i.hi ++ [wd 58 (d.toNat * 262144 + c.toNat * 2048 + i.lo.toNat)]
  | .vany d a => [wd 59 (d.toNat * 262144 + a.toNat * 2048)]
  | .vall d a => [wd 59 (d.toNat * 262144 + a.toNat * 2048 + 1)]
  | .ballot m a => [wd 59 (m.toNat * 262144 + a.toNat * 2048 + 2)]
  | .vcount d a => [wd 59 (d.toNat * 262144 + a.toNat * 2048 + 3)]
  | .waitev d c => [wd 60 (d.toNat * 262144 + c.toNat)]
  | .ldc d a w i la => imxW i.hi ++ [wd 61 (d.toNat * 262144 + a.toNat * 2048 + w.toNat * 256 + i.lo.toNat * 16 + la.toNat)]
  | .srd d r => [wd 62 (d.toNat * 262144 + r.toNat)]
  | .swr d r => [wd 63 (d.toNat * 262144 + r.toNat)]
  | .fadd p d a b t => pfxW p ++ [wd 64 (d.toNat * 262144 + a.toNat * 2048 + b.toNat * 16 + t.toNat)]
  | .fsub p d a b t => pfxW p ++ [wd 65 (d.toNat * 262144 + a.toNat * 2048 + b.toNat * 16 + t.toNat)]
  | .fmul p d a b t => pfxW p ++ [wd 66 (d.toNat * 262144 + a.toNat * 2048 + b.toNat * 16 + t.toNat)]
  | .ffma p d a b t => pfxW p ++ [wd 67 (d.toNat * 262144 + a.toNat * 2048 + b.toNat * 16 + t.toNat)]
  | .fmin p d a b t => pfxW p ++ [wd 68 (d.toNat * 262144 + a.toNat * 2048 + b.toNat * 16 + t.toNat)]
  | .fmax p d a b t => pfxW p ++ [wd 69 (d.toNat * 262144 + a.toNat * 2048 + b.toNat * 16 + t.toNat)]
  | .fminp p d a b t => pfxW p ++ [wd 70 (d.toNat * 262144 + a.toNat * 2048 + b.toNat * 16 + t.toNat)]
  | .fmaxp p d a b t => pfxW p ++ [wd 71 (d.toNat * 262144 + a.toNat * 2048 + b.toNat * 16 + t.toNat)]
  | .fcmp p m c a b x => pfxW p ++ [wd 72 (m.toNat * 4194304 + c.toNat * 262144 + a.toNat * 2048 + b.toNat * 16 + x.toNat)]
  | .fclass p d a t => pfxW p ++ [wd 73 (d.toNat * 262144 + a.toNat * 2048 + t.toNat)]
  | .frnd p d a n t => pfxW p ++ [wd 74 (d.toNat * 262144 + a.toNat * 2048 + n.toNat * 16 + t.toNat)]
  | .fscalb p d a b t => pfxW p ++ [wd 75 (d.toNat * 262144 + a.toNat * 2048 + b.toNat * 16 + t.toNat)]
  | .fabs p d a => pfxW p ++ [wd 76 (d.toNat * 262144 + a.toNat * 2048)]
  | .fneg p d a => pfxW p ++ [wd 76 (d.toNat * 262144 + a.toNat * 2048 + 1)]
  | .fnabs p d a => pfxW p ++ [wd 76 (d.toNat * 262144 + a.toNat * 2048 + 2)]
  | .fcpsgn p d a b => pfxW p ++ [wd 76 (d.toNat * 262144 + a.toNat * 2048 + b.toNat * 16 + 3)]
  | .fdot2 p d a b t => pfxW p ++ [wd 77 (d.toNat * 262144 + a.toNat * 2048 + b.toNat * 16 + t.toNat)]
  | .fclamp p d a b t => pfxW p ++ [wd 78 (d.toNat * 262144 + a.toNat * 2048 + b.toNat * 16 + t.toNat)]
  | .pack p d a b x => pfxW p ++ [wd 79 (d.toNat * 262144 + a.toNat * 2048 + b.toNat * 16 + x.toNat)]
  | .fdiv p d a b la => pfxW p ++ [wd 80 (d.toNat * 262144 + a.toNat * 2048 + b.toNat * 16 + la.toNat)]
  | .fsqrt p d a la => pfxW p ++ [wd 81 (d.toNat * 262144 + a.toNat * 2048 + la.toNat)]
  | .fexp2 p d a la => pfxW p ++ [wd 82 (d.toNat * 262144 + a.toNat * 2048 + la.toNat)]
  | .flog2 p d a la => pfxW p ++ [wd 82 (d.toNat * 262144 + a.toNat * 2048 + la.toNat + 16)]
  | .fsin p d a la => pfxW p ++ [wd 82 (d.toNat * 262144 + a.toNat * 2048 + la.toNat + 32)]
  | .fcos p d a la => pfxW p ++ [wd 82 (d.toNat * 262144 + a.toNat * 2048 + la.toNat + 48)]
  | .frcp p d a la => pfxW p ++ [wd 82 (d.toNat * 262144 + a.toNat * 2048 + la.toNat + 64)]
  | .frsq p d a la => pfxW p ++ [wd 82 (d.toNat * 262144 + a.toNat * 2048 + la.toNat + 80)]
  | .ftanh p d a la => pfxW p ++ [wd 82 (d.toNat * 262144 + a.toNat * 2048 + la.toNat + 96)]
  | .fsigm p d a la => pfxW p ++ [wd 82 (d.toNat * 262144 + a.toNat * 2048 + la.toNat + 112)]
  | .cvtf p d a src dst la => pfxW p ++ [wd 83 (d.toNat * 262144 + a.toNat * 2048 + src.toNat * 128 + dst.toNat * 16 + la.toNat)]
  | .cvti p d a src dst sat la => pfxW p ++ [wd 84 (d.toNat * 262144 + a.toNat * 2048 + src.toNat * 256 + dst.toNat * 32 + sat.toNat * 16 + la.toNat)]
  | .qscale p d a fmt la => pfxW p ++ [wd 85 (d.toNat * 262144 + a.toNat * 2048 + fmt.toNat * 16 + la.toNat)]
  | .shfl p d a b seg => pfxW p ++ [wd 88 (d.toNat * 262144 + a.toNat * 2048 + b.toNat * 16 + seg.toNat)]
  | .shflup p d a seg n => pfxW p ++ [wd 89 (d.toNat * 262144 + a.toNat * 2048 + seg.toNat * 32 + n.toNat)]
  | .shfldn p d a seg n => pfxW p ++ [wd 90 (d.toNat * 262144 + a.toNat * 2048 + seg.toNat * 32 + n.toNat)]
  | .shflx p d a seg n => pfxW p ++ [wd 91 (d.toNat * 262144 + a.toNat * 2048 + seg.toNat * 32 + n.toNat)]
  | .qswz p d a pat => pfxW p ++ [wd 92 (d.toNat * 262144 + a.toNat * 2048 + pat.toNat)]
  | .redux p d a k => pfxW p ++ [wd 93 (d.toNat * 262144 + a.toNat * 2048 + k.toNat)]
  | .scan p d a ex k => pfxW p ++ [wd 94 (d.toNat * 262144 + a.toNat * 2048 + ex.toNat * 16 + k.toNat)]
  | .matchl p d a x => pfxW p ++ [wd 95 (d.toNat * 262144 + a.toNat * 2048 + x.toNat)]
  | .ld p d a w i la => pfxW p ++ (imxW i.hi ++ [wd 96 (d.toNat * 262144 + a.toNat * 2048 + w.toNat * 256 + i.lo.toNat * 16 + la.toNat)])
  | .lds p d a w i la => pfxW p ++ (imxW i.hi ++ [wd 100 (d.toNat * 262144 + a.toNat * 2048 + w.toNat * 256 + i.lo.toNat * 16 + la.toNat)])
  | .ldx p d a w i la => pfxW p ++ (imxW i.hi ++ [wd 102 (d.toNat * 262144 + a.toNat * 2048 + w.toNat * 256 + i.lo.toNat * 16 + la.toNat)])
  | .st p d a w i la => pfxW p ++ (imxW i.hi ++ [wd 97 (d.toNat * 262144 + a.toNat * 2048 + w.toNat * 256 + i.lo.toNat * 16 + la.toNat)])
  | .sts p d a w i la => pfxW p ++ (imxW i.hi ++ [wd 101 (d.toNat * 262144 + a.toNat * 2048 + w.toNat * 256 + i.lo.toNat * 16 + la.toNat)])
  | .stx p d a w i la => pfxW p ++ (imxW i.hi ++ [wd 103 (d.toNat * 262144 + a.toNat * 2048 + w.toNat * 256 + i.lo.toNat * 16 + la.toNat)])
  | .ldm p d a w i la => pfxW p ++ (imxW i.hi ++ [wd 98 (d.toNat * 262144 + a.toNat * 2048 + w.toNat * 256 + i.lo.toNat * 16 + la.toNat)])
  | .stm p d a w i la => pfxW p ++ (imxW i.hi ++ [wd 99 (d.toNat * 262144 + a.toNat * 2048 + w.toNat * 256 + i.lo.toNat * 16 + la.toNat)])
  | .atom d a b la sm hint c width scope order k => [wd 104 (d.toNat * 262144 + a.toNat * 2048 + b.toNat * 16 + la.toNat), sm.toNat * 1048576 + hint.toNat * 262144 + c.toNat * 2048 + width.toNat * 512 + scope.toNat * 64 + order.toNat * 16 + k.toNat]
  | .atomr d a b la sm hint c width scope order k => [wd 105 (d.toNat * 262144 + a.toNat * 2048 + b.toNat * 16 + la.toNat), sm.toNat * 1048576 + hint.toNat * 262144 + c.toNat * 2048 + width.toNat * 512 + scope.toNat * 64 + order.toNat * 16 + k.toNat]
  | .red d a b la sm hint c width scope order k => [wd 106 (d.toNat * 262144 + a.toNat * 2048 + b.toNat * 16 + la.toNat), sm.toNat * 1048576 + hint.toNat * 262144 + c.toNat * 2048 + width.toNat * 512 + scope.toNat * 64 + order.toNat * 16 + k.toNat]
  | .barinit a b => [wd 107 (a.toNat * 2048 + b.toNat * 16)]
  | .bararv m a b => [wd 107 (m.toNat * 262144 + a.toNat * 2048 + b.toNat * 16 + 1)]
  | .baraw m a b => [wd 107 (m.toNat * 262144 + a.toNat * 2048 + b.toNat * 16 + 2)]
  | .barwait a => [wd 107 (a.toNat * 2048 + 3)]
  | .bartest m a => [wd 107 (m.toNat * 262144 + a.toNat * 2048 + 4)]
  | .barexp a b => [wd 107 (a.toNat * 2048 + b.toNat * 16 + 5)]
  | .bardrop a b => [wd 107 (a.toNat * 2048 + b.toNat * 16 + 6)]
  | .psync a => [wd 108 (a.toNat * 2048)]
  | .fence scope k => [wd 109 (scope.toNat * 262144 + k.toNat)]
  | .fenceLite scope => [wd 109 (scope.toNat * 262144 + 4)]
  | .fenceHeavy scope => [wd 109 (scope.toNat * 262144 + 5)]
  | .fenceTc scope => [wd 109 (scope.toNat * 262144 + 6)]
  | .fenceShape scope => [wd 109 (scope.toNat * 262144 + 7)]
  | .cctl a w i la => imxW i.hi ++ [wd 110 (a.toNat * 2048 + w.toNat * 256 + i.lo.toNat * 16 + la.toNat)]
  | .tcopy tile base bar acq rel dig la shape scope rop => [wd 112 (tile.toNat * 131072 + base.toNat * 4096 + bar.toNat * 128 + acq.toNat * 64 + rel.toNat * 32 + dig.toNat * 16 + la.toNat), shape.toNat * 1048576 + scope.toNat * 131072 + rop.toNat * 8192]
  | .tstat d t => [wd 113 (d.toNat * 262144 + t.toNat)]
  | .trel t => [wd 114 (t.toNat)]
  | .strmFeeda t => [wd 115 (t.toNat * 131072)]
  | .strmFeedb t => [wd 115 (t.toNat * 131072 + 1)]
  | .strmReplay n k => [wd 115 (n.toNat * 2048 + k.toNat * 16 + 2)]
  | .strmFlush => [wd 115 (3)]
  | .coll base bar la rec => [wd 116 (base.toNat * 1048576 + bar.toNat * 32768 + la.toNat), rec.toNat]
  | .tresume t => [wd 117 (t.toNat)]
  | .launchGrid r st la => [wd 118 (r.toNat * 1048576 + st.toNat * 32768 + la.toNat), 0]
  | .launchNode r st la => [wd 118 (r.toNat * 1048576 + st.toNat * 32768 + la.toNat), 1]
  | .shinv i => [wd 119 (i.toNat)]
  | .shinvAll => [wd 119 (4096)]
  | .mma acc ty kch asc la zf bsel bsc => [wd 120 (acc.toNat * 524288 + ty.toNat * 65536 + kch.toNat * 8192 + asc.toNat * 64 + la.toNat), zf.toNat * 128 + bsel.toNat * 32 + bsc.toNat]
  | .accz acc x => [wd 121 (acc.toNat * 4096 + x.toNat)]
  | .accrd d acc col x => [wd 122 (d.toNat * 262144 + acc.toNat * 4096 + col.toNat * 64 + x.toNat)]
  | .accwr a acc col x => [wd 123 (a.toNat * 262144 + acc.toNat * 4096 + col.toNat * 64 + x.toNat)]
  | .accopScale a acc => [wd 124 (a.toNat * 262144 + acc.toNat * 4096)]
  | .accopAddrow a acc => [wd 124 (a.toNat * 262144 + acc.toNat * 4096 + 5)]
  | .accopRowmax d acc => [wd 124 (d.toNat * 262144 + acc.toNat * 4096 + 1)]
  | .accopRowsum d acc => [wd 124 (d.toNat * 262144 + acc.toNat * 4096 + 2)]
  | .accopExps a acc c => [wd 124 (a.toNat * 262144 + acc.toNat * 4096 + c.toNat * 16 + 3)]
  | .accopMaskc acc off => [wd 124 (acc.toNat * 4096 + off.toNat * 16 + 4)]
  | .accmvTotile t acc et => [wd 125 (t.toNat * 131072 + acc.toNat * 2048 + et.toNat * 16)]
  | .accmvFromtile t acc et => [wd 125 (t.toNat * 131072 + acc.toNat * 2048 + et.toNat * 16 + 1)]
  | .accmvSave t acc => [wd 125 (t.toNat * 131072 + acc.toNat * 2048 + 2)]
  | .accmvLoad t acc => [wd 125 (t.toNat * 131072 + acc.toNat * 2048 + 3)]
  | .laneAgeSaturate _ _ _ => []
  | .breakpoint _ _ => []
  | .memoryAccessComplete _ _ _ => []
  | .atomResult _ _ _ => []
  | .walkComplete _ _ _ _ => []
  | .prqEntryPost _ => []
  | .prqHeadWrite _ _ => []
  | .prqReplyRetry _ _ => []
  | .prqReplyFail _ _ => []
  | .xltInvAll _ => []
  | .xltInvFunc _ => []
  | .xltInvCtx _ => []
  | .xltInvCtxPages _ => []
  | .xltInvStage2Pages _ => []
  | .xltInvNonglobal _ => []
  | .xltInvDone => []
  | .llcCarveWrite _ => []
  | .llcCarveDone => []
  | .cspwinWrite _ _ => []
  | .copyStart => []
  | .tcopyAccept _ _ => []
  | .barrierEngineArrival _ => []
  | .copyComplete _ => []
  | .copyFaultPause _ => []
  | .copyFail _ => []
  | .streamFill _ _ => []
  | .mmaEntryStart _ => []
  | .mmaEntryComplete _ => []
  | .mxGate _ => []
  | .frameGrant _ => []
  | .frameWaitExpiry _ _ => []
  | .escapeSpillStart _ => []
  | .spillComplete _ => []
  | .refillComplete _ _ => []
  | .recordReadback _ _ => []
  | .trapDelivery _ _ => []
  | .escalation _ _ => []
  | .pendingTrapDelivery _ _ => []
  | .waitevTimeout _ _ => []
  | .packAged _ _ => []
  | .trqPop _ => []
  | .trqxRead _ => []
  | .park _ _ => []
  | .unpark _ _ => []
  | .release _ _ => []
  | .signal _ _ => []
  | .endtrap _ _ => []
  | .post _ => []
  | .failx _ _ => []
  | .kill _ _ => []
  | .pkdataRead _ => []
  | .pkdataWrite _ _ => []
  | .srdataRead _ => []
  | .srdataWrite _ _ => []
  | .inject _ _ => []
  | .emdataRead _ => []
  | .emdataWrite _ _ => []
  | .emctlGo _ => []
  | .csdataWrite _ _ => []
  | .csctlGo _ _ => []
  | .controlStoreInstall _ _ => []
  | .ctxPreempt _ => []
  | .ctxRestore _ => []
  | .ctxKill _ => []
  | .ctxcfgWrite _ _ => []
  | .launchQtailWrite _ _ => []
  | .qbaseWrite _ _ => []
  | .launchEntryRead _ => []
  | .nodeRelease _ => []
  | .workgroupPlace => []
  | .priorityStarvation _ => []
  | .workgroupFinish _ _ => []
  | .launchComplete _ => []
  | .nodeDiscard _ => []
  | .remoteRequestIngress _ => []
  | .remoteResponse _ _ => []
  | .controlRequest _ => []
  | .mirrorUpdate _ _ => []
  | .lossNotice _ => []
  | .fabLossTo _ => []
  | .peerClr _ => []
  | .linkCrcError _ => []
  | .portTrained _ => []
  | .linkRekey _ _ => []
  | .portDisable _ _ => []
  | .mint _ => []
  | .roll _ => []
  | .collAccept _ _ => []
  | .collSplit _ _ => []
  | .collChunk _ _ _ _ _ => []
  | .collReduceComplete _ _ => []
  | .collStepTimeout _ _ => []
  | .collMismatchNotice _ => []
  | .collEnd _ => []
  | .planeBwWindow _ => []
  | .kload _ => []
  | .kslotZero _ => []
  | .exreq _ => []
  | .lattolWrite _ => []
  | .c1Entry _ => []
  | .c2Entry _ => []
  | .c3Entry _ => []
  | .wake _ => []
  | .dbgdbRing _ => []
  | .halt _ _ => []
  | .resume _ _ => []
  | .step _ _ => []
  | .read _ _ _ => []
  | .write _ _ _ _ => []
  | .setbp _ _ _ => []
  | .setwp _ _ _ => []
  | .packageReset => []
  | .bringupStage _ _ _ => []
  | .registerWrite _ _ => []
  | .longLatencyComplete _ _ _ => []
  | .accumulatorInstructionComplete _ _ _ => []
  | .idleClock _ => []
  | .collContributionRead _ _ => []

/-- What the map names for a word `w` with second word `v` under prefixes `p` and `h`: fields only, legality is checked after. -/
def candidate (p : Option Pfx) (h : Option (BitVec 21)) (w v : Nat) : Option Instr :=
  match w / 33554432 with
  | 1 => some (.nop)
  | 2 => some (.bra (fld w 0 25))
  | 3 => some (.brc (fld w 22 3) (fld w 21 1) (fld w 0 21))
  | 4 => some (.brx (fld w 11 7))
  | 5 => some (.call (fld w 21 4) (fld w 17 4) (fld w 13 4) (fld w 6 7) (fld v 0 32))
  | 6 => some (.callx (fld w 21 4) (fld w 17 4) (fld w 13 4) (fld w 6 7) (fld w 1 5))
  | 7 => some (.ret)
  | 8 => some (.unwind (fld w 0 8))
  | 9 => some (.resize (fld w 0 4))
  | 10 => some (.yield)
  | 11 => some (.exit)
  | 12 => some (.trap (fld w 0 18))
  | 13 => some (.bkpt (fld w 0 18))
  | 14 => some (.syscall (fld w 0 18))
  | 15 => some (.mprog (fld w 18 7) (fld w 0 6))
  | 16 => some (.iadd p (fld w 18 7) (fld w 11 7) (fld w 4 7) (fld w 0 4))
  | 17 => some (.iaddi p (fld w 18 7) (fld w 11 7) ⟨h, fld w 0 11⟩)
  | 18 => some (.isub p (fld w 18 7) (fld w 11 7) (fld w 4 7) (fld w 0 4))
  | 19 => some (.imul p (fld w 18 7) (fld w 11 7) (fld w 4 7) (fld w 0 4))
  | 20 => some (.imuli p (fld w 18 7) (fld w 11 7) ⟨h, fld w 0 11⟩)
  | 21 => some (.imad p (fld w 18 7) (fld w 11 7) (fld w 4 7) (fld w 0 4))
  | 22 => some (.imin p (fld w 18 7) (fld w 11 7) (fld w 4 7) (fld w 0 4))
  | 23 => some (.imax p (fld w 18 7) (fld w 11 7) (fld w 4 7) (fld w 0 4))
  | 24 => match w % 16 with
    | 0 => some (.iabs p (fld w 18 7) (fld w 11 7))
    | 1 => some (.ineg p (fld w 18 7) (fld w 11 7))
    | 2 => some (.inot p (fld w 18 7) (fld w 11 7))
    | 3 => some (.popc p (fld w 18 7) (fld w 11 7))
    | 4 => some (.clz p (fld w 18 7) (fld w 11 7))
    | 5 => some (.ctz p (fld w 18 7) (fld w 11 7))
    | 6 => some (.brev p (fld w 18 7) (fld w 11 7))
    | 7 => some (.bswap p (fld w 18 7) (fld w 11 7))
    | _ => none
  | 25 => some (.isad p (fld w 18 7) (fld w 11 7) (fld w 4 7) (fld w 0 4))
  | 26 => some (.shl p (fld w 18 7) (fld w 11 7) (fld w 4 7) (fld w 0 4))
  | 27 => some (.shr p (fld w 18 7) (fld w 11 7) (fld w 4 7) (fld w 0 4))
  | 28 => some (.sar p (fld w 18 7) (fld w 11 7) (fld w 4 7) (fld w 0 4))
  | 29 => match w % 16 with
    | 0 => some (.rotl p (fld w 18 7) (fld w 11 7) (fld w 4 7))
    | 1 => some (.rotr p (fld w 18 7) (fld w 11 7) (fld w 4 7))
    | _ => none
  | 30 => some (.shli p (fld w 18 7) (fld w 11 7) (fld w 6 1) (fld w 0 6))
  | 31 => some (.shri p (fld w 18 7) (fld w 11 7) (fld w 6 1) (fld w 0 6))
  | 32 => some (.sari p (fld w 18 7) (fld w 11 7) (fld w 6 1) (fld w 0 6))
  | 33 => match w % 16 with
    | 0 => some (.and p (fld w 18 7) (fld w 11 7) (fld w 4 7))
    | 1 => some (.or p (fld w 18 7) (fld w 11 7) (fld w 4 7))
    | 2 => some (.xor p (fld w 18 7) (fld w 11 7) (fld w 4 7))
    | 3 => some (.andn p (fld w 18 7) (fld w 11 7) (fld w 4 7))
    | 4 => some (.orn p (fld w 18 7) (fld w 11 7) (fld w 4 7))
    | 5 => some (.xnor p (fld w 18 7) (fld w 11 7) (fld w 4 7))
    | _ => none
  | 34 => some (.andi p (fld w 18 7) (fld w 11 7) ⟨h, fld w 0 11⟩)
  | 35 => some (.ori p (fld w 18 7) (fld w 11 7) ⟨h, fld w 0 11⟩)
  | 36 => some (.xori p (fld w 18 7) (fld w 11 7) ⟨h, fld w 0 11⟩)
  | 37 => some (.bfx p (fld w 18 7) (fld w 11 7) (fld w 5 6) (fld w 0 5))
  | 38 => some (.bfxs p (fld w 18 7) (fld w 11 7) (fld w 5 6) (fld w 0 5))
  | 39 => some (.bfi p (fld w 18 7) (fld w 11 7) (fld w 5 6) (fld w 0 5))
  | 40 => some (.icmp p (fld w 22 3) (fld w 18 4) (fld w 11 7) (fld w 4 7) (fld w 0 4))
  | 41 => some (.icmpi p (fld w 22 3) (fld w 18 4) (fld w 11 7) ⟨h, fld w 0 11⟩)
  | 42 => some (.sel p (fld w 18 7) (fld w 11 7) (fld w 4 7) (fld w 0 3))
  | 43 => match w % 16 with
    | 0 => some (.mov p (fld w 18 7) (fld w 11 7))
    | 1 => some (.movs p (fld w 18 7) (fld w 11 7))
    | 2 => some (.movm p (fld w 18 7) (fld w 11 3))
    | 3 => some (.mvm p (fld w 18 3) (fld w 11 7))
    | _ => none
  | 44 => some (.movi p (fld w 18 7) ⟨h, fld w 0 18⟩)
  | 45 => some (.lea p (fld w 18 7) (fld w 11 7) (fld w 4 7) (fld w 0 4))
  | 46 => some (.idiv p (fld w 18 7) (fld w 11 7) (fld w 4 7) (fld w 0 4))
  | 47 => some (.ndiv p (fld w 18 7) (fld w 11 7) (fld w 4 7) (fld w 0 4))
  | 48 => some (.sadd (fld w 18 7) (fld w 11 7) (fld w 4 7))
  | 49 => some (.saddi (fld w 18 7) (fld w 11 7) ⟨h, fld w 0 11⟩)
  | 50 => some (.ssub (fld w 18 7) (fld w 11 7) (fld w 4 7))
  | 51 => some (.smul (fld w 18 7) (fld w 11 7) (fld w 4 7))
  | 52 => match w % 16 with
    | 0 => some (.sand (fld w 18 7) (fld w 11 7) (fld w 4 7))
    | 1 => some (.sor (fld w 18 7) (fld w 11 7) (fld w 4 7))
    | 2 => some (.sxor (fld w 18 7) (fld w 11 7) (fld w 4 7))
    | 3 => some (.sshl (fld w 18 7) (fld w 11 7) (fld w 4 7))
    | 4 => some (.sshr (fld w 18 7) (fld w 11 7) (fld w 4 7))
    | 5 => some (.ssar (fld w 18 7) (fld w 11 7) (fld w 4 7))
    | _ => none
  | 53 => some (.scmp (fld w 18 7) (fld w 11 7) (fld w 4 7) (fld w 0 4))
  | 54 => some (.smovi (fld w 18 7) ⟨h, fld w 0 18⟩)
  | 55 => match w % 16 with
    | 0 => some (.smov (fld w 18 7) (fld w 11 7))
    | 1 => some (.rdlane (fld w 18 7) (fld w 11 7) (fld w 4 7))
    | 2 => some (.wrlane (fld w 18 7) (fld w 11 7) (fld w 4 7))
    | 3 => some (.smask (fld w 18 7) (fld w 11 3))
    | 4 => some (.mset (fld w 18 3) (fld w 11 7))
    | _ => none
  | 56 => some (.sld (fld w 18 7) (fld w 11 7) (fld w 8 3) ⟨h, fld w 4 4⟩ (fld w 0 4))
  | 57 => some (.sst (fld w 18 7) (fld w 11 7) (fld w 8 3) ⟨h, fld w 4 4⟩ (fld w 0 4))
  | 58 => some (.sbr (fld w 18 7) (fld w 11 7) ⟨h, fld w 0 11⟩)
  | 59 => match w % 16 with
    | 0 => some (.vany (fld w 18 7) (fld w 11 7))
    | 1 => some (.vall (fld w 18 7) (fld w 11 7))
    | 2 => some (.ballot (fld w 18 3) (fld w 11 7))
    | 3 => some (.vcount (fld w 18 7) (fld w 11 7))
    | _ => none
  | 60 => some (.waitev (fld w 18 7) (fld w 0 8))
  | 61 => some (.ldc (fld w 18 7) (fld w 11 7) (fld w 8 3) ⟨h, fld w 4 4⟩ (fld w 0 4))
  | 62 => some (.srd (fld w 18 7) (fld w 0 12))
  | 63 => some (.swr (fld w 18 7) (fld w 0 12))
  | 64 => some (.fadd p (fld w 18 7) (fld w 11 7) (fld w 4 7) (fld w 0 4))
  | 65 => some (.fsub p (fld w 18 7) (fld w 11 7) (fld w 4 7) (fld w 0 4))
  | 66 => some (.fmul p (fld w 18 7) (fld w 11 7) (fld w 4 7) (fld w 0 4))
  | 67 => some (.ffma p (fld w 18 7) (fld w 11 7) (fld w 4 7) (fld w 0 4))
  | 68 => some (.fmin p (fld w 18 7) (fld w 11 7) (fld w 4 7) (fld w 0 4))
  | 69 => some (.fmax p (fld w 18 7) (fld w 11 7) (fld w 4 7) (fld w 0 4))
  | 70 => some (.fminp p (fld w 18 7) (fld w 11 7) (fld w 4 7) (fld w 0 4))
  | 71 => some (.fmaxp p (fld w 18 7) (fld w 11 7) (fld w 4 7) (fld w 0 4))
  | 72 => some (.fcmp p (fld w 22 3) (fld w 18 4) (fld w 11 7) (fld w 4 7) (fld w 0 4))
  | 73 => some (.fclass p (fld w 18 7) (fld w 11 7) (fld w 0 4))
  | 74 => some (.frnd p (fld w 18 7) (fld w 11 7) (fld w 4 7) (fld w 0 4))
  | 75 => some (.fscalb p (fld w 18 7) (fld w 11 7) (fld w 4 7) (fld w 0 4))
  | 76 => match w % 16 with
    | 0 => some (.fabs p (fld w 18 7) (fld w 11 7))
    | 1 => some (.fneg p (fld w 18 7) (fld w 11 7))
    | 2 => some (.fnabs p (fld w 18 7) (fld w 11 7))
    | 3 => some (.fcpsgn p (fld w 18 7) (fld w 11 7) (fld w 4 7))
    | _ => none
  | 77 => some (.fdot2 p (fld w 18 7) (fld w 11 7) (fld w 4 7) (fld w 0 4))
  | 78 => some (.fclamp p (fld w 18 7) (fld w 11 7) (fld w 4 7) (fld w 0 4))
  | 79 => some (.pack p (fld w 18 7) (fld w 11 7) (fld w 4 7) (fld w 0 4))
  | 80 => some (.fdiv p (fld w 18 7) (fld w 11 7) (fld w 4 7) (fld w 0 4))
  | 81 => some (.fsqrt p (fld w 18 7) (fld w 11 7) (fld w 0 4))
  | 82 => match w / 16 % 8 with
    | 0 => some (.fexp2 p (fld w 18 7) (fld w 11 7) (fld w 0 4))
    | 1 => some (.flog2 p (fld w 18 7) (fld w 11 7) (fld w 0 4))
    | 2 => some (.fsin p (fld w 18 7) (fld w 11 7) (fld w 0 4))
    | 3 => some (.fcos p (fld w 18 7) (fld w 11 7) (fld w 0 4))
    | 4 => some (.frcp p (fld w 18 7) (fld w 11 7) (fld w 0 4))
    | 5 => some (.frsq p (fld w 18 7) (fld w 11 7) (fld w 0 4))
    | 6 => some (.ftanh p (fld w 18 7) (fld w 11 7) (fld w 0 4))
    | 7 => some (.fsigm p (fld w 18 7) (fld w 11 7) (fld w 0 4))
    | _ => none
  | 83 => some (.cvtf p (fld w 18 7) (fld w 11 7) (fld w 7 4) (fld w 4 3) (fld w 0 4))
  | 84 => some (.cvti p (fld w 18 7) (fld w 11 7) (fld w 8 3) (fld w 5 3) (fld w 4 1) (fld w 0 4))
  | 85 => some (.qscale p (fld w 18 7) (fld w 11 7) (fld w 4 3) (fld w 0 4))
  | 88 => some (.shfl p (fld w 18 7) (fld w 11 7) (fld w 4 7) (fld w 0 2))
  | 89 => some (.shflup p (fld w 18 7) (fld w 11 7) (fld w 5 2) (fld w 0 5))
  | 90 => some (.shfldn p (fld w 18 7) (fld w 11 7) (fld w 5 2) (fld w 0 5))
  | 91 => some (.shflx p (fld w 18 7) (fld w 11 7) (fld w 5 2) (fld w 0 5))
  | 92 => some (.qswz p (fld w 18 7) (fld w 11 7) (fld w 0 8))
  | 93 => some (.redux p (fld w 18 7) (fld w 11 7) (fld w 0 4))
  | 94 => some (.scan p (fld w 18 7) (fld w 11 7) (fld w 4 1) (fld w 0 4))
  | 95 => some (.matchl p (fld w 18 7) (fld w 11 7) (fld w 0 1))
  | 96 => some (.ld p (fld w 18 7) (fld w 11 7) (fld w 8 3) ⟨h, fld w 4 4⟩ (fld w 0 4))
  | 97 => some (.st p (fld w 18 7) (fld w 11 7) (fld w 8 3) ⟨h, fld w 4 4⟩ (fld w 0 4))
  | 98 => some (.ldm p (fld w 18 7) (fld w 11 7) (fld w 8 3) ⟨h, fld w 4 4⟩ (fld w 0 4))
  | 99 => some (.stm p (fld w 18 7) (fld w 11 7) (fld w 8 3) ⟨h, fld w 4 4⟩ (fld w 0 4))
  | 100 => some (.lds p (fld w 18 7) (fld w 11 7) (fld w 8 3) ⟨h, fld w 4 4⟩ (fld w 0 4))
  | 101 => some (.sts p (fld w 18 7) (fld w 11 7) (fld w 8 3) ⟨h, fld w 4 4⟩ (fld w 0 4))
  | 102 => some (.ldx p (fld w 18 7) (fld w 11 7) (fld w 8 3) ⟨h, fld w 4 4⟩ (fld w 0 4))
  | 103 => some (.stx p (fld w 18 7) (fld w 11 7) (fld w 8 3) ⟨h, fld w 4 4⟩ (fld w 0 4))
  | 104 => some (.atom (fld w 18 7) (fld w 11 7) (fld w 4 7) (fld w 0 4) (fld v 20 3) (fld v 18 2) (fld v 11 7) (fld v 9 2) (fld v 6 3) (fld v 4 2) (fld v 0 4))
  | 105 => some (.atomr (fld w 18 7) (fld w 11 7) (fld w 4 7) (fld w 0 4) (fld v 20 3) (fld v 18 2) (fld v 11 7) (fld v 9 2) (fld v 6 3) (fld v 4 2) (fld v 0 4))
  | 106 => some (.red (fld w 18 7) (fld w 11 7) (fld w 4 7) (fld w 0 4) (fld v 20 3) (fld v 18 2) (fld v 11 7) (fld v 9 2) (fld v 6 3) (fld v 4 2) (fld v 0 4))
  | 107 => match w % 16 with
    | 0 => some (.barinit (fld w 11 7) (fld w 4 7))
    | 1 => some (.bararv (fld w 18 3) (fld w 11 7) (fld w 4 7))
    | 2 => some (.baraw (fld w 18 3) (fld w 11 7) (fld w 4 7))
    | 3 => some (.barwait (fld w 11 7))
    | 4 => some (.bartest (fld w 18 3) (fld w 11 7))
    | 5 => some (.barexp (fld w 11 7) (fld w 4 7))
    | 6 => some (.bardrop (fld w 11 7) (fld w 4 7))
    | _ => none
  | 108 => some (.psync (fld w 11 7))
  | 109 => match w % 16 with
    | 4 => some (.fenceLite (fld w 18 3))
    | 5 => some (.fenceHeavy (fld w 18 3))
    | 6 => some (.fenceTc (fld w 18 3))
    | 7 => some (.fenceShape (fld w 18 3))
    | _ => some (.fence (fld w 18 3) (fld w 0 2))
  | 110 => some (.cctl (fld w 11 7) (fld w 8 3) ⟨h, fld w 4 4⟩ (fld w 0 4))
  | 112 => some (.tcopy (fld w 17 8) (fld w 12 5) (fld w 7 5) (fld w 6 1) (fld w 5 1) (fld w 4 1) (fld w 0 4) (fld v 20 12) (fld v 17 3) (fld v 13 4))
  | 113 => some (.tstat (fld w 18 7) (fld w 0 8))
  | 114 => some (.trel (fld w 0 8))
  | 115 => match w % 16 with
    | 0 => some (.strmFeeda (fld w 17 8))
    | 1 => some (.strmFeedb (fld w 17 8))
    | 2 => some (.strmReplay (fld w 11 6) (fld w 4 7))
    | 3 => some (.strmFlush)
    | _ => none
  | 116 => some (.coll (fld w 20 5) (fld w 15 5) (fld w 0 4) (fld v 0 16))
  | 117 => some (.tresume (fld w 0 8))
  | 118 => match v % 4 with
    | 0 => some (.launchGrid (fld w 20 5) (fld w 15 5) (fld w 0 4))
    | 1 => some (.launchNode (fld w 20 5) (fld w 15 5) (fld w 0 4))
    | _ => none
  | 119 => match w / 4096 % 2 with
    | 0 => some (.shinv (fld w 0 12))
    | 1 => some (.shinvAll)
    | _ => none
  | 120 => some (.mma (fld w 19 6) (fld w 16 3) (fld w 13 3) (fld w 6 7) (fld w 0 4) (fld v 7 1) (fld v 5 2) (fld v 0 5))
  | 121 => some (.accz (fld w 12 6) (fld w 0 1))
  | 122 => some (.accrd (fld w 18 7) (fld w 12 6) (fld w 6 6) (fld w 0 4))
  | 123 => some (.accwr (fld w 18 7) (fld w 12 6) (fld w 6 6) (fld w 0 4))
  | 124 => match w % 16 with
    | 0 => some (.accopScale (fld w 18 7) (fld w 12 6))
    | 5 => some (.accopAddrow (fld w 18 7) (fld w 12 6))
    | 1 => some (.accopRowmax (fld w 18 7) (fld w 12 6))
    | 2 => some (.accopRowsum (fld w 18 7) (fld w 12 6))
    | 3 => some (.accopExps (fld w 18 7) (fld w 12 6) (fld w 4 5))
    | 4 => some (.accopMaskc (fld w 12 6) (fld w 4 8))
    | _ => none
  | 125 => match w % 16 with
    | 0 => some (.accmvTotile (fld w 17 8) (fld w 11 6) (fld w 4 3))
    | 1 => some (.accmvFromtile (fld w 17 8) (fld w 11 6) (fld w 4 3))
    | 2 => some (.accmvSave (fld w 17 8) (fld w 11 6))
    | 3 => some (.accmvLoad (fld w 17 8) (fld w 11 6))
    | _ => none
  | _ => none

/-- Why words are not an instruction (R56). -/
inductive DecodeError where
  /-- No word of the unit is there. -/
  | empty
  /-- A major, function or code the map does not list. -/
  | unassigned
  /-- A reserved bit is set, or a prefix stands before an instruction that takes none. -/
  | reservedBit
  /-- A field holds a value its row does not allow, a register field breaks R34 to R36, or the prefix holds a field not accepted. -/
  | badField
  deriving DecidableEq, Repr

/-- The instruction at the head of a list of words. -/
def decode (ws : List Nat) : Except DecodeError Instr :=
  let (p, r1) := takePfx ws
  let (h, r2) := takeImx r1
  match r2 with
  | [] => .error .empty
  | w :: r3 =>
    match candidate p h w (r3.headD 0) with
    | none => .error .unassigned
    | some i =>
      if (encode i).isPrefixOf ws = false then .error .reservedBit
      else if i.wf then .ok i else .error .badField

/-- Words of an instruction (R33: a unit is indivisible). -/
def Instr.len (i : Instr) : Nat := (encode i).length

/-- A word's bytes, little-endian (R25). -/
def wordBytes (w : Nat) : List Byte := (List.range 4).map (fun k => BitVec.ofNat 8 (w / 256 ^ k))

/-- Little-endian bytes as a number. -/
def leNat : List Byte → Nat
  | [] => 0
  | b :: r => b.toNat + 256 * leNat r

/-- Bytes as whole words; a rest of fewer than four bytes is no word. -/
def wordsOf : List Byte → List Nat
  | a :: b :: c :: d :: r => leNat [a, b, c, d] :: wordsOf r
  | _ => []

/-- Decoding bytes as they stand in control space. -/
def decodeBytes (bs : List Byte) : Except DecodeError Instr := decode (wordsOf bs)

/-- The bytes of an instruction. -/
def encodeBytes (i : Instr) : List Byte := (encode i).flatMap wordBytes

/-- The words of a table word: bits [31:0] first (opcode_table.json), with zeros above `nbits` up to the longest unit. -/
def tableWords (nbits w : Nat) : List Nat :=
  let w := w % 2 ^ nbits
  [w % 4294967296, w / 4294967296 % 4294967296, 0, 0]

def decodeTableWord (nbits w : Nat) : Option Instr :=
  match decodeBytes ((tableWords nbits w).flatMap wordBytes) with
  | .ok i => some i
  | .error _ => none

end Sys2Proof
end

