-- ==== Sys2Proof/Machine/State.lean ====
section
/-! DEFINITION. The state of the whole package as plain data: every register, memory, queue and status the spec names, and the outside
world's inputs (agenda) and outputs (outbox). Fields named `own…` are the model's, not the spec's. -/

namespace Sys2Proof.Machine

/-! ## Lanes, frames and packs -/

/-- One lane of one vector register: value, poison mark (R137), initialisation tag (R84, R85). -/
structure VCell where
  val : Word := 0
  psn : Bool := false
  tag : Bool := false
  deriving DecidableEq, Repr

/-- Lane states (R208); the code of each is its position. -/
inductive LaneSt where
  | active | parked | waiting | returned | exited | helper
  deriving DecidableEq, Repr

/-- A translation fault image: the fields of a page request entry (R118). -/
structure FaultImg where
  va : DWord := 0
  gpa : DWord := 0
  lanes : Word := 0
  ctx : Nat := 0
  pack : Nat := 0
  core : Nat := 0
  kind : Nat := 0
  stage : Nat := 0
  level : Nat := 0
  cause : Nat := 0
  tag : Nat := 0
  deriving DecidableEq, Repr

/-- What ends a lane's wait (R116, R298, R306, R395). -/
inductive WaitWhy where
  | none
  /-- A translation fault, until it is released (R116, R120). -/
  | fault (img : FaultImg)
  /-- BARWAIT on the object at a core's array offset, with the phase parity waited for (R299) and the offset that named the object (R386). -/
  | barrier (core off : Nat) (phase : Bool) (f : Nat)
  | psync (mask : Word)
  | event
  deriving DecidableEq, Repr

structure Lane where
  /-- `lpc`; for a waiting or released lane its resume address (R116). -/
  pc : DWord := 0
  /-- Word index inside a microprogram (R64). -/
  k : Option Nat := none
  /-- Model's own: slot and parameter base of the microprogram it runs, as its MACRO named them (R64). -/
  mslot : Nat := 0
  mbase : Nat := 0
  depth : Nat := 0
  target : Nat := 0
  age : Nat := 0
  st : LaneSt := .exited
  /-- Replay address (R116), its word index, and whether the lane is released and replays next (R121). -/
  replay : DWord := 0
  replayK : Option Nat := none
  released : Bool := false
  /-- The fault answered FAIL: the lane traps XLATE when it replays (R120). -/
  failx : Option FaultImg := none
  /-- Transfer count of LDM and STM (R144). -/
  count : Nat := 0
  /-- Its CALL, CALLX or RESIZE waits for the deeper frame (R198). -/
  blocked : Bool := false
  /-- Rejoin set of a yield-parked lane (R212). -/
  rejoin : Word := 0
  why : WaitWhy := .none
  /-- A waiting lane that is a helper again when it is released (R116, R216). -/
  helps : Bool := false
  /-- Words of the unit a lane waits in at a barrier, for the fault record (R385). -/
  words : List Nat := []
  /-- Model's own: the step at which the unit it waits in issued (R384). -/
  ownAt : Nat := 0
  /-- Unit whose check the lane failed and that its re-execution has not passed yet (R264, R416). -/
  shadow : Option Nat := none
  deriving DecidableEq, Repr

/-- Frame states (R198). -/
inductive FrameSt where
  | resident | spilling | spilled | refilling
  deriving DecidableEq, Repr

/-- A frame with its record (R188) and its registers; cell 32 i + l is register i of lane l, and a cell not listed holds `fill` (R187). -/
structure Frame where
  rpc : DWord := 0
  cmask : Word := 0
  base : Nat := 0
  size : Nat := 1
  ab : Nat := 0
  retc : Nat := 0
  st : FrameSt := .resident
  /-- The record is among those held on chip (R189). -/
  onChip : Bool := true
  /-- Step of the last touch, for the choice of a victim (R202). -/
  touched : Nat := 0
  fill : VCell := {}
  cells : FMap VCell := []
  deriving DecidableEq, Repr

/-- A raised trap: what the fault record will say (R385, R386). -/
structure Trap where
  code : Nat := 0
  detail : Nat := 0
  lanes : Word := 0
  defer : Word := 0
  depth : Nat := 0
  replay : DWord := 0
  k : Option Nat := none
  words : List Nat := []
  va : DWord := 0
  info : List Byte := []
  cycle : DWord := 0
  /-- Raised at handler level (R391). -/
  hlvl : Bool := false
  /-- Model's own: the step at which its instruction issued, which orders pending traps (R384). -/
  ownOrd : Nat := 0
  deriving DecidableEq, Repr

/-- Frame requests by class (R199). -/
structure FrameReq where
  cls : Nat := 3
  /-- Granules asked for. -/
  n : Nat := 0
  /-- Depth of the frame to refill, for classes 1 and 4. -/
  depth : Nat := 0
  /-- Clock at which it began to wait (R200). -/
  since : Nat := 0
  /-- Model's own: the step at which it began to wait, which orders requests (R199). -/
  ownOrd : Nat := 0
  granted : Bool := false
  deriving DecidableEq, Repr

/-- A delivery in progress (R388, R391): its trap, the lanes of H as kept on chip, and the frame request that waits behind it. -/
structure Delivery where
  trap : Trap := {}
  kept : FMap Lane := []
  req : Option FrameReq := none
  deriving DecidableEq, Repr

/-- The unit that issues now (R33, R210): where, for which lanes, its words, and where its lanes go next. -/
structure Cur where
  core : Nat := 0
  slot : Nat := 0
  ig : Word := 0
  depth : Nat := 0
  /-- Address of the unit's first word, or of its MACRO (R64). -/
  pc : DWord := 0
  /-- Word index of the first word, inside a microprogram. -/
  k : Option Nat := none
  words : List Nat := []
  /-- Words of the image, and the MACRO's parameter base. -/
  mlen : Nat := 0
  mbase : Nat := 0
  /-- The instruction in flight whose stalled lanes go on (R129). -/
  resume : Option Nat := none
  /-- Model's own: the step at which it issued. -/
  ownAt : Nat := 0
  deriving DecidableEq, Repr

/-- What a long-latency instruction in flight still owes (R38 to R41). -/
structure Tok where
  id : Nat := 0
  /-- Instructions of the pack that may still issue before this one completes (R39). -/
  left : Nat := 0
  lanes : Word := 0
  /-- 0 load or store, 1 atomic, 2 arithmetic, LDC or LAUNCH, 3 accumulator, 4 TCOPY acceptance, 5 COLL acceptance, 6 remote atomic. -/
  kind : Nat := 0
  depth : Nat := 0
  wr : List Nat := []
  rd : List Nat := []
  sw : List Nat := []
  mw : List Nat := []
  acc : Option Nat := none
  /-- Tile that becomes READY (true) or loses a reader at completion (R268, R279). -/
  tile : Option (Nat × Bool) := none
  /-- A trap raised at completion (R41, R264). -/
  trap : Option Trap := none
  /-- The unit with its lanes that wait for the start of a cluster member (R129), and the scalar and mask registers they still read. -/
  pend : Option Cur := none
  sr : List Nat := []
  mr : List Nat := []
  deriving DecidableEq, Repr

/-- A TCOPY that has issued and is not accepted (R161). -/
structure TcopyReq where
  tok : Nat := 0
  lanes : Word := 0
  pc : DWord := 0
  k : Option Nat := none
  words : List Nat := []
  tile : Nat := 0
  shape : Nat := 0
  scope : Nat := 0
  rop : Nat := 0
  acq : Bool := false
  rel : Bool := false
  dig : Bool := false
  /-- Base override (R157) and barrier offset (R160), as read at issue. -/
  base : Option DWord := none
  bar : Option Nat := none
  /-- Once its tables have been read and checked (R154): the images of its record, and its targets with their tokens. -/
  seen : Bool := false
  img : List Byte := []
  ext : List Byte := []
  toks : List (Nat × DWord) := []
  ownAt : Nat := 0
  deriving DecidableEq, Repr

/-- A STRM.flush that has issued (R175): the group that waits in it, the step at which it issued, which parts the positions and MMAs before it from later
ones, and whether it has discarded its positions. -/
structure Flush where
  hlvl : Bool := false
  pc : DWord := 0
  k : Option Nat := none
  at_ : Nat := 0
  done : Bool := false
  deriving DecidableEq, Repr

/-- A COLL that has issued and is not accepted (R333). -/
structure CollReq where
  tok : Nat := 0
  lanes : Word := 0
  pc : DWord := 0
  k : Option Nat := none
  words : List Nat := []
  index : Nat := 0
  base : Option DWord := none
  bar : Option Nat := none
  ownAt : Nat := 0
  deriving DecidableEq, Repr

/-- A pack's registration on a barrier object (R300, R410). -/
structure BarReg where
  off : Nat := 0
  core : Nat := 0
  arr : Nat := 0
  obs : Bool := false
  deriving DecidableEq, Repr

structure Pack where
  wg : Nat := 0
  pkid : Nat := 0
  ctx : Nat := 0
  lanes : List Lane := List.replicate 32 {}
  /-- Frames of depth 0, 1, 2, … (R185). -/
  frames : List Frame := []
  /-- The trap frame and whether its first granule came from the reserve (R204). -/
  trapFrame : Option (Frame × Bool) := none
  /-- Runs of pool granules that the trap frame holds, in the order of its registers (R204). -/
  trapRuns : List (Nat × Nat) := []
  s : List DWord := List.replicate 32 0
  /-- m0 is not stored: it reads as the issue group (R182). -/
  m : List Word := List.replicate 8 0
  fpc : DWord := 0
  /-- The delivery the in-pack handler runs for (R388). -/
  handler : Option Delivery := none
  /-- The escalated delivery that awaits ENDTRAP (R391). -/
  svc : Option Delivery := none
  /-- Traps raised and not yet delivered, in order (R384). -/
  pending : List Trap := []
  /-- Lanes that execute a replayed instruction as the last act of a delivery (R384). -/
  lastAct : Word := 0
  toks : List Tok := []
  tcq : List TcopyReq := []
  flushes : List Flush := []
  collq : List CollReq := []
  /-- Stopped by PARK, HALT or a breakpoint (R399, R441, R444). -/
  park : Bool := false
  /-- Model's own: was it parked before pre-emption parked it (R409)? -/
  ownPark : Bool := false
  /-- One unit is issued under STEP (R445). -/
  stepping : Bool := false
  evicted : Bool := false
  evictAt : Nat := 0
  req : Option FrameReq := none
  bars : List BarReg := []
  evpend : Byte := 0
  /-- WAITEVs in progress, oldest first: lanes, result register, classes, deadline (R395). -/
  waitev : List (Word × Nat × Byte × Option Nat) := []
  spills : Nat := 0
  refills : Nat := 0
  evicts : Nat := 0
  /-- Traps delivered since workgroup start (R385 COUNT). -/
  traps : Nat := 0
  collStatus : DWord := 0
  /-- Issuing clocks of the core in which the ready pack was not chosen, and whether it is aged (R379). -/
  passed : Nat := 0
  aged : Bool := false
  lastIg : Word := 0
  /-- Mirrored-read sequence number (R425). -/
  recSeq : Nat := 0
  copySeq : Nat := 0
  /-- Model's own: why the group chosen last could not issue, as an idle cause of R380 (none: it could). -/
  ownStall : Option Nat := none
  /-- Model's own: the cause of the last attempt since its last issue that could not issue (R380). -/
  ownCause : Option Nat := none
  deriving DecidableEq, Repr

/-! ## Cores -/

/-- Tile states (R167). -/
inductive TileSt where
  | empty | filling | ready | draining
  deriving DecidableEq, Repr

/-- A tile table entry (R166, R169) with its barrier link (R160). -/
structure Tile where
  st : TileSt := .empty
  readers : Nat := 0
  err : Nat := 0
  paused : Bool := false
  psn : Bool := false
  /-- Size and offset in units of 256 bytes. -/
  size : Nat := 0
  off : Nat := 0
  link : Option Nat := none
  deriving DecidableEq, Repr

/-- An entry of an operand stream's queue (R172, R174, R180). -/
structure Pos where
  tile : Nat := 0
  /-- Position within the tile, and whether it is the feed's last. -/
  p : Nat := 0
  last : Bool := false
  /-- Model's own: which feed appended it. -/
  feed : Nat := 0
  /-- Model's own number of its replay group (0: none), and how often it is popped again (R174). -/
  gid : Nat := 0
  passes : Nat := 0
  /-- The bytes fetched ahead, with poison per 64-byte block (R172, R176). -/
  data : Option (List Byte × List Bool) := none
  deriving DecidableEq, Repr

structure Strm where
  q : List Pos := []
  deriving DecidableEq, Repr

/-- A queued MMA (R272). Scales by lane and block; poison by lane. -/
structure MmaEntry where
  wg : Nat := 0
  slot : Nat := 0
  acc : Nat := 0
  ty : Nat := 0
  kch : Nat := 1
  zf : Bool := false
  u : Word := 0
  sa : List (List Half) := []
  sb : List Half := []
  sp : Word := 0
  paired : Bool := false
  /-- Positions popped from A and B when it started (R273), and whether the emulation firmware has driven it (R275). -/
  popped : Option (List (List Byte × List Bool) × List (List Byte × List Bool)) := none
  emul : Bool := false
  /-- Model's own: the step at which it was queued (R175). -/
  ownAt : Nat := 0
  deriving DecidableEq, Repr

/-- An accumulator tile (R267): tag, 2,048 A48 cells by 64 r + c (unlisted ones zero), poisoned rows. -/
structure AccTile where
  int : Bool := false
  cells : FMap (BitVec 48) := []
  pmask : Word := 0
  deriving DecidableEq, Repr

/-- A trap queue entry (R398). -/
structure TrqE where
  slot : Nat := 0
  code : Nat := 0
  ctx : Nat := 0
  img : Option FaultImg := none
  deriving DecidableEq, Repr

/-- The escape spill engine's work (R200 to R202): the victim's slot and depth. -/
structure SpillJob where
  slot : Nat := 0
  depth : Nat := 0
  deriving DecidableEq, Repr

structure Core where
  lanemap : Half := 0xFFFF
  /-- Ways of the unified array that form the scratchpad (R131); none at package reset (log 8). -/
  split : Nat := 0
  /-- The core scratchpad by array offset, unlisted bytes zero, and its poisoned 64-byte blocks (R136). -/
  spad : FMap Byte := []
  spadPsn : FMap Unit := []
  /-- Engine arrivals held on barrier objects, by array offset: bytes in arrival order (R301). -/
  barHeld : FMap (List Nat) := []
  /-- The argument store by offset, and its poisoned 64-byte blocks (R145). -/
  args : FMap Byte := []
  argsPsn : FMap Unit := []
  tiles : FMap Tile := []
  strA : Strm := {}
  strB : Strm := {}
  /-- The stream last fed since the last flush (R174): true is B. -/
  lastFed : Option Bool := none
  mmaQ : List MmaEntry := []
  acc : FMap AccTile := []
  /-- The matrix unit's holder (R266, R374) and its power gate (R282). -/
  mxOwner : Option Nat := none
  mxGated : Bool := false
  mxIdle : Word := 4096
  mxWake : Word := 96
  mxUsed : Nat := 0
  /-- Staged e4m3 positions of the emulation (R405), by stream, position and word. -/
  emStage : FMap DWord := []
  /-- The control store: committed images (R64, R406), staged words, and a commit that waits to install. -/
  mprogs : FMap (List Nat) := []
  csStage : FMap Word := []
  csWait : FMap (List Nat) := []
  frameWait : DWord := 65536
  evsel : List DWord := List.replicate 16 0
  evcnt : List DWord := List.replicate 16 0
  idle : List DWord := List.replicate 8 0
  trq : List TrqE := []
  /-- The image of the last popped fault (R398) and the next word TRQX returns. -/
  trqHeld : Option TrqE := none
  trqxNext : Nat := 0
  /-- Custom CSRs by number (R399 to R406, R440), and the result of the last CSR read. -/
  csr : FMap DWord := []
  rdata : DWord := 0
  /-- A PKDATA access that waits for a refill: its order, and the value of a write (R400). -/
  pkWait : Option (Nat × Option DWord) := none
  spill : Option SpillJob := none
  /-- Power state: 0 running, 1 C1, 2 C2 (R432), and since when the entry condition holds. -/
  power : Nat := 0
  idleSince : Nat := 0
  /-- Debug mailbox: last sequence number answered, events posted (R443). -/
  mbxSeq : Option Word := none
  mbxEvents : Word := 0
  /-- Rings not yet served, and the pack a STEP of the mailbox runs on (R443, R445). -/
  mbxRing : Nat := 0
  mbxStep : Option Nat := none
  deriving DecidableEq, Repr

/-! ## Memory, translation -/

/-- A line in a core's L1 (R135, R136): its way, whether the core owns it (R138), what the line's home holds in place of its dirty bytes (by offset) and
of its poison bit, and a poison bit that only the L1's copy has (R413). The bytes themselves stand in `mem`, newest first. -/
structure L1Line where
  way : Nat := 0
  own : Bool := false
  home : FMap Byte := []
  homePsn : Bool := false
  psn : Bool := false
  deriving DecidableEq, Repr

/-- A byte written provisionally (R421): the launch, and the committed byte. -/
structure ProvByte where
  uid : Nat := 0
  committed : Byte := 0
  deriving DecidableEq, Repr

/-- A TLB entry (R108, R111, R112): the cluster whose TLBs hold it (10: the engines), tags, range and leaf. -/
structure TlbEntry where
  where_ : Nat := 0
  func : Nat := 0
  ctx : Nat := 0
  root : Nat := 0
  va : Nat := 0
  /-- log2 of the page size. -/
  size : Nat := 12
  pa : Nat := 0
  gpa : Nat := 0
  r : Bool := false
  w : Bool := false
  x : Bool := false
  oc : Nat := 0
  pin : Bool := false
  g : Bool := false
  d : Bool := false
  key : Nat := 0
  deriving DecidableEq, Repr

/-- A page request whose tag is pending (R119, R120), or an image waiting for room in the queue: who waits for it. -/
structure PrqWait where
  func : Nat := 0
  img : FaultImg := {}
  /-- The copy that paused on it, for engine kinds. -/
  copy : Option Nat := none
  coll : Option Nat := none
  /-- The launch queue whose ring entry waits for it (R366); 64 + uid stands for a node release. -/
  queue : Option Nat := none
  deriving DecidableEq, Repr

/-! ## Copies, fabric, collectives -/

/-- An accepted copy (R149 to R165, R178). -/
structure Copy where
  id : Nat := 0
  core : Nat := 0
  slot : Nat := 0
  wg : Nat := 0
  ctx : Nat := 0
  q : TcopyReq := {}
  /-- The accepted record image and its EXT image (R154). -/
  img : List Byte := []
  ext : List Byte := []
  /-- 0 accepted and waiting for an engine, 1 running, 2 paused, 3 all elements written, 4 failed. -/
  status : Nat := 0
  /-- CAUSE of R178. -/
  cause : Nat := 0
  acqDone : Bool := false
  /-- The next element in loop order. -/
  at_ : Nat := 0
  crc : DWord := 0
  /-- Bytes delivered or undelivered that have not arrived at the barrier object yet. -/
  owed : Nat := 0
  err : Nat := 0
  psn : Bool := false
  /-- Target packages of a replicated copy (R327), and outstanding remote requests. -/
  pkgs : List Nat := []
  waits : Nat := 0
  /-- Token for each target, as acceptance read it (R325 to R327). -/
  toks : List (Nat × DWord) := []
  deriving DecidableEq, Repr

/-- Who waits for a remote request's answer. -/
inductive RemWho where
  /-- A group of lanes of an ATOMR: token of the pack's instruction, destination depth and register, width, OP, lanes in order with their operands
  and poison, mask register, and the trap it raises when it is refused. -/
  | atomr (core slot tok depth d : Nat) (w64 : Bool) (op : Nat) (lanes : List Nat) (vals : List DWord) (psns : List Bool) (sm : Nat) (tr : Trap)
  | red (core slot wg uid : Nat)
  | copy (id pos : Nat)
  | coll (id : Nat)
  deriving DecidableEq, Repr

/-- An outstanding remote request (R318, R319). -/
structure Remote where
  target : Nat := 0
  req : RemoteReq
  who : RemWho
  sentAt : Nat := 0
  tries : Nat := 0
  /-- Sent again and not answered since; held back behind such a request to its line (R318). -/
  resent : Bool := false
  held : Bool := false
  /-- Not sent: no port was up (R317). -/
  noPort : Bool := false
  deriving DecidableEq, Repr

/-- A chunk that waits in the sending link (R339, R340): who sent it under which number and token, and whether its ingress is complete and acknowledged. -/
structure HeldChunk where
  pkg : Nat := 0
  seq : Nat := 0
  token : DWord := 0
  ch : Chunk
  acked : Bool := true
  deriving DecidableEq, Repr

/-- One step of one chunk of a collective (R339), under key 2 × chunk + phase. -/
structure CollStep where
  /-- Inputs still missing from the launch counter; 0 dispatches. -/
  need : Nat := 0
  /-- Chunks that have arrived, by the sender's position: their slot of STAGE. -/
  ins_ : FMap Nat := []
  /-- The member's own contribution, once read. -/
  own : Option (List Byte × Bool) := none
  missing : List Nat := []
  flushed : Bool := false
  done : Bool := false
  /-- Clock from which the timeout counts (R341). -/
  since : Option Nat := none
  deriving DecidableEq, Repr

/-- A collective in progress (R333 to R343). -/
structure Coll where
  id : Nat := 0
  core : Nat := 0
  slot : Nat := 0
  wg : Nat := 0
  ctx : Nat := 0
  lanes : Word := 0
  replay : DWord := 0
  k : Option Nat := none
  depth : Nat := 0
  words : List Nat := []
  index : Nat := 0
  img : List Byte := []
  base : Option DWord := none
  seq : Word := 0
  bar : Option Nat := none
  members : List Nat := []
  /-- Token for each member, by rank, as acceptance read it (R335). -/
  toks : List DWord := []
  rank : Nat := 0
  /-- The plane of each 64 KiB chunk of the output (R337), once the split is held. -/
  split : Option (List Nat) := none
  steps : FMap CollStep := []
  /-- Bytes written at DST that have not arrived at the barrier object yet (R336). -/
  owed : Nat := 0
  strag : Nat := 0
  map : List Nat := []
  /-- Causes met: bit n is status n of R341. -/
  causes : Nat := 0
  ended : Bool := false
  since : Nat := 0
  ownAt : Nat := 0
  deriving DecidableEq, Repr

/-- What the package sends to the outside. -/
inductive OutMsg where
  | request (target : Nat) (r : RemoteReq)
  | response (pkg seq : Nat) (r : RemoteResp)
  | lossNotice (plane n : Nat)
  | split (pkg group : Nat) (shares : List Nat)
  | mismatch (pkg group : Nat)
  | ctlData (src : CtlSrc) (pa : Nat) (bytes : List Byte)
  | mirror (pkg pa : Nat) (bytes : List Byte)
  /-- To the buddy: this home has performed that request of a package (R356). -/
  | mirrorDid (pkg src seq : Nat) (r : RemoteResp)
  | prqIrq (func : Nat)
  | queueIrq (q : Nat)
  | errorIrq
  | counterIrq (core : Nat)
  deriving DecidableEq, Repr

/-- An error of a floating-point unit or of its shadow at the next checked element of a lane (R263, R264), an input: the pipe that runs it, the element,
what the main unit gives where it is the one that errs, and what the shadow gives: sign, is it a NaN, key, and the result that is compared bit for bit. -/
structure ShadowIn where
  unit : Nat := 0
  element : Nat := 0
  main : Option DWord := none
  neg : Bool := false
  nan : Bool := false
  key : Half := 0
  exact : DWord := 0
  deriving DecidableEq, Repr

/-- An error of a memory, an input (R413): what it hits. -/
inductive HwError where
  /-- A corrected event of a protection level, 0 to 7 (R414). -/
  | corrected (level : Nat)
  /-- A line of HBM, or of LLC data. -/
  | line (llc : Bool) (pa ctx : Nat)
  | chip (off ctx : Nat)
  /-- LLC tags or the directory, with the contexts that hold the line. -/
  | tags (pa : Nat) (ctxs : List Nat)
  /-- A line of a core's L1, and a block of its scratchpad. -/
  | l1 (core pa ctx : Nat)
  | block (core off ctx : Nat)
  /-- A lane of a vector register of a frame. -/
  | reg (core slot depth r l : Nat)
  | acc (core tile row : Nat)
  /-- A 64-byte block of a buffered position of stream A or B. -/
  | stream (core : Nat) (b : Bool) (entry blk : Nat)
  /-- An entry of a TLB, or of the record cache. -/
  | entry (core : Nat) (tlb : Bool) (n : Nat)
  deriving DecidableEq, Repr

/-! ## Launches -/

/-- The fields of a launch record (R364). -/
structure LRec where
  entry : DWord := 0
  nx : Nat := 1
  ny : Nat := 1
  nz : Nat := 1
  lx : Nat := 32
  ly : Nat := 1
  lz : Nat := 1
  nlanes : Nat := 32
  spad : Nat := 0
  frame : Nat := 1
  psplit : Nat := 0
  clm1 : Nat := 0
  mx : Bool := false
  sninit : Bool := false
  paired : Bool := false
  replay : Bool := false
  rec_ : Bool := false
  serial : Bool := false
  irq : Bool := false
  cls : Nat := 0
  ntiles : Nat := 0
  argsize : Nat := 0
  queue : Nat := 0
  lpsize : Nat := 0
  fbsize : Nat := 0
  argva : DWord := 0
  tileva : DWord := 0
  lpbase : DWord := 0
  crbase : DWord := 0
  frbase : DWord := 0
  doneva : DWord := 0
  progva : DWord := 0
  deps : Nat := 0
  nsucc : Nat := 0
  retries : Nat := 0
  rbudget : Nat := 0
  succva : DWord := 0
  recva : DWord := 0
  /-- Some reserved bit is set. -/
  resv : Bool := false
  deriving DecidableEq, Repr

/-- A launch from acceptance to completion (R363 to R377, R421 to R426). -/
structure Launch where
  uid : Nat := 0
  ctx : Nat := 0
  queue : Nat := 0
  seq : Option Nat := none
  recVA : DWord := 0
  r : LRec := {}
  /-- The tile image: offset and size in bytes (R365). -/
  tiles : List (Nat × Nat) := []
  /-- The pack (core, slot) that submitted it, for EVPEND class 5 (R395). -/
  by_ : Option (Nat × Nat) := none
  devSlot : Bool := false
  next : Nat := 0
  lastCore : Option Nat := none
  /-- Core cluster chosen by the cluster being placed, and the cores its members took (R373). -/
  cluster : Option Nat := none
  finished : List Nat := []
  reported : Nat := 0
  status : Nat := 0
  since : Nat := 0
  retries : Nat := 0
  /-- Replay state of R422: 0 REPLAYABLE, 1 COMMITTED, 2 DISCARDING. -/
  rstate : Nat := 0
  /-- A rejected or killed launch waits only for its completion to be reported. -/
  ended : Bool := false
  /-- Its completion word is written (R377); it still counts in QDONE in its turn. -/
  wrote : Bool := false
  /-- Cores taken by the members of the cluster being placed (R373), and the successors' records (R370). -/
  clCores : List Nat := []
  succs : List Nat := []
  /-- Recording: next byte, OVF, replay mode, and entries read back (R425, R426). -/
  recUsed : Nat := 64
  recOvf : Bool := false
  deriving DecidableEq, Repr

/-- A resident workgroup (R368, R372 to R375). -/
structure Wg where
  uid : Nat := 0
  idx : Nat := 0
  ctx : Nat := 0
  core : Nat := 0
  slots : List Nat := []
  /-- First way and number of ways (R132), first tile entry, argument store offset and block size. -/
  way : Nat := 0
  ways : Nat := 0
  tile0 : Nat := 0
  arg0 : Nat := 0
  order : Nat := 0
  mx : Bool := false
  done : Bool := false
  deriving DecidableEq, Repr

/-- What the scheduler and the core keep of a saved workgroup beside its save block (R409 to R411). -/
structure SavedWg where
  wg : Wg := {}
  packs : FMap Pack := []
  tiles : FMap Tile := []
  copies : FMap Copy := []
  strA : Strm := {}
  strB : Strm := {}
  lastFed : Option Bool := none
  /-- Engine arrivals held on its barrier objects (R301), and the core's split. -/
  barHeld : FMap (List Nat) := []
  split : Nat := 0
  deriving DecidableEq, Repr

/-- A NODE_RELEASE in progress: successors still to decrement (R370). -/
structure Release where
  uid : Nat := 0
  ctx : Nat := 0
  vas : List Nat := []
  /-- The first successor is decremented to zero and waits for a device slot (R370). -/
  armed : Bool := false
  deriving DecidableEq, Repr

/-- A hart: the supervisor core of a compute core (RV64IMAC, R396) or a host core (RV64GC, R15). -/
structure Hart where
  /-- It runs; a hart held in reset does not (R427, R448). -/
  on : Bool := false
  pc : DWord := 0
  x : List DWord := List.replicate 32 0
  /-- Floating-point registers, of a host core. -/
  f : List DWord := List.replicate 32 0
  /-- Privilege mode: 3 M, 1 S, 0 U. -/
  priv : Nat := 3
  /-- It waits for an interrupt (WFI). -/
  wfi : Bool := false
  /-- Standard CSRs by number that are not zero. -/
  csr : FMap DWord := []
  /-- The line that a load-reserved has reserved. -/
  resv : Option Nat := none
  deriving DecidableEq, Repr

/-- Package debug and bring-up state (R427, R446, R448). -/
structure Boot where
  /-- Stage last completed; image slot used; both slots failed. -/
  stage : Nat := 0
  slot : Bool := false
  failed : Bool := false
  deriving DecidableEq, Repr

structure State where
  pkgId : Nat := 0
  /-- Core clocks since reset (R435). -/
  cycle : Nat := 0
  boot : Boot := {}
  /-- HBM: tensor range and control homes by physical address, unlisted bytes zero (R97, R448); poisoned 64-byte lines (R136);
  the key slot and generation a line was last written under, unlisted lines under slot 0 (R429). -/
  mem : List Host.Cell := []
  memPsn : FMap Unit := []
  lineKey : FMap Nat := []
  /-- The buddy's mirror held here, by offset (R18, R356). -/
  mirror : FMap Byte := []
  /-- Lines in the L1s, by 2^46 × core + line (R135). -/
  l1 : FMap L1Line := []
  prov : FMap ProvByte := []
  /-- Committed poison bit of a line written provisionally (R421). -/
  provPsn : FMap Bool := []
  chip : FMap Byte := []
  chipPsn : FMap Unit := []
  /-- Predictor counters of the home slices, by 4096 h + entry, and what the directory shows beside the L1s: host cores (1000 + h) and peer
  packages (2000 + n) that hold a line (R138, R355). -/
  predict : FMap Nat := []
  dir : FMap (List Nat) := []
  /-- Packages whose buddy has been declared lost while they were not: their homes stay without a mirror (R99). -/
  unmirrored : FMap Unit := []
  /-- Lines with a write that the buddy does not hold yet, oldest first, and requests from outside the package that wait for it (R355, R356). -/
  mirrorPend : List Nat := []
  ctlHeld : List CtlReq := []
  /-- Class 0xC registers by offset that differ from their reset value (R6, R7). -/
  regs : FMap DWord := []
  /-- Loaded key slots' generation is in `regs`; tokens minted before a ROLL are told apart by its count (R322). -/
  tokenKey : Nat := 0
  tlb : List TlbEntry := []
  /-- Page requests posted and pending by function and tag, faults that wait for room, and an invalidation in progress (R114 to R122). -/
  prq : List PrqWait := []
  prqHeld : List PrqWait := []
  /-- Queues (64 + uid: node releases) whose page request was answered FAIL. -/
  qFail : FMap Unit := []
  /-- Queues whose ring entry is a node that waits for a device slot, its DEPS at zero already (R363, R369). -/
  ringArmed : FMap Unit := []
  /-- Record cache: (ctx, kind, index) and the cached image (R155, R334). -/
  recCache : List ((Nat × Nat × Nat) × List Byte) := []
  cores : FMap Core := []
  /-- Harts that have run: the supervisor core of core c is hart c, host core h is hart 160 + h (R15, R20, R396). -/
  harts : FMap Hart := []
  packs : FMap Pack := []
  wgs : FMap Wg := []
  launches : FMap Launch := []
  /-- Launch order inside each queue, by queue (R363, R371): uids in sequence order. -/
  order : FMap (List Nat) := []
  saved : FMap SavedWg := []
  releases : List Release := []
  lastQueue : Nat := 0
  lastCore : Nat := 159
  starving : Option Nat := none
  copies : FMap Copy := []
  colls : FMap Coll := []
  collSeq : FMap Word := []
  /-- Chunks that wait for their collective, its split or a slot of STAGE, in the sending link (R339, R340). -/
  collHeld : List HeldChunk := []
  /-- Straggler chunks of a group, by 65,536 context + group, that came when none of its collectives was in progress (R340). -/
  strags : FMap Nat := []
  remotes : FMap Remote := []
  /-- Next sequence number by 2,048 VC + peer; answers given, by 2^64 (2,048 VC + package) + sequence number, and for control requests by the home they
name in place of the VC (R318, R356); peers declared lost (R319). -/
  sent : FMap Nat := []
  performed : FMap RemoteResp := []
  lost : FMap Unit := []
  members : FMap Unit := []
  portFails : FMap Nat := []
  /-- PLANE_BW.BYTES by port (R344). -/
  planeBw : FMap Nat := []
  diePower : List Nat := [0, 0]
  dieIdle : List Nat := [0, 0]
  /-- Measurement chains per context (R428): the launch chain of each context that is not 48 zero bytes, the chain of committed images, launches chained. -/
  chain : FMap (List Byte) := []
  micro : List Byte := List.replicate 48 0
  launched : FMap Nat := []
  /-- RETRIES and status of the last completed launch, by context (R428). -/
  lastDone : FMap (Nat × Nat) := []
  /-- Next identifier for workgroups, launches, copies, collectives, tokens and requests. -/
  nextId : Nat := 1
  /-- Inputs from outside: latent errors that the next read of a line, block, register or tile finds (R136, R413), and shadow failures that the
  next checked element meets (R264). -/
  latent : FMap Unit := []
  shadowErr : FMap ShadowIn := []
  /-- Errors of memories that are found now (R413). -/
  errors : List HwError := []
  outbox : List OutMsg := []
  agenda : List Instr := []
  cur : Option Cur := none
  /-- Model's own: steps taken. -/
  ownSteps : Nat := 0
  /-- Model's own: how many free values have been drawn. -/
  ownDraws : Nat := 0
  /-- Model's own: the core at which the next search for a ready pack starts. -/
  ownTurn : Nat := 0
  /-- Model's own: the hart at which the next search for one to run starts. -/
  ownHart : Nat := 0
  deriving DecidableEq, Repr

/-- The machine right after package reset: every core is there with its reset values, nothing is resident, and the boot ROM is about to run (R448). -/
def State.reset : State :=
  { cores := (List.range 160).map (fun c => (c, ({} : Core))) }

/-- Why a run stops. -/
inductive Fault where
  /-- A REGISTER_WRITE or a mailbox command names a class 0xC offset or a CSR number that no map of the spec has (R6 gives maps only for the
  listed ones). Raised by execRegisterWrite. Safe: the model stops where the spec gives no effect. -/
  | noSuchRegister (off : Nat)
  /-- An instruction word is executed while no unit is issuing: exec was called outside step. Safe: no program does this. -/
  | noUnit
  deriving DecidableEq, Repr

/-- Why an instruction has no meaning. -/
inductive Refusal where
  /-- The instruction of that mnemonic has no meaning yet. Raised by exec. Safe. -/
  | notModelled (mnemonic : String)
  deriving DecidableEq, Repr

end Sys2Proof.Machine
end

