-- ==== Sys2Proof/Machine/Basics.lean ====
section
/-! DEFINITION. Named operations over the state: cores, packs, lanes, frames and vector registers, bytes as numbers, and the raising of a trap. -/

namespace Sys2Proof.Machine

abbrev Out := Host.Outcome State Fault Refusal

/-! ## Numbers and bytes -/

/-- n little-endian bytes of a number (R4). -/
def leBytes (n v : Nat) : List Byte := (List.range n).map (fun k => BitVec.ofNat 8 (v / 256 ^ k))

/-- Bits [hi:lo] of a number (R3). -/
def bits (v hi lo : Nat) : Nat := v / 2 ^ lo % 2 ^ (hi + 1 - lo)

def bit (v n : Nat) : Bool := v / 2 ^ n % 2 == 1

/-- A w-bit field read as two's complement (R13). -/
def sgn (w v : Nat) : Int := if v % 2 ^ w < 2 ^ (w - 1) then (v % 2 ^ w : Nat) else (v % 2 ^ w : Nat) - (2 ^ w : Nat)

/-- An integer modulo 2^w. -/
def wrapTo (w : Nat) (v : Int) : Nat := (v % (2 ^ w : Nat)).toNat

def b2n (b : Bool) : Nat := if b then 1 else 0

/-- Replace bits [hi:lo] of a register value. -/
def setBits (v hi lo x : Nat) : Nat := v - bits v hi lo * 2 ^ lo + x % 2 ^ (hi + 1 - lo) * 2 ^ lo

/-- Saturating addition to an n-bit counter. -/
def satAdd (n v k : Nat) : Nat := min (v + k) (2 ^ n - 1)

/-- Change the n-th entry of a list whose missing entries count as `d` (State's registers, lanes and frames). -/
def setAt {α : Type} (d : α) : List α → Nat → α → List α
  | [], 0, x => [x]
  | [], n + 1, x => d :: setAt d [] n x
  | _ :: r, 0, x => x :: r
  | y :: r, n + 1, x => y :: setAt d r n x

/-- A byte range of a list of bytes as a little-endian number; bytes past the end count as zero. -/
def fieldOf (bs : List Byte) (hi lo : Nat) : Nat := bits (leNat bs) hi lo

/-! ## Cores and packs -/

def State.core (s : State) (c : Nat) : Core := (s.cores.find c).getD {}

def State.updCore (s : State) (c : Nat) (f : Core → Core) : State := { s with cores := s.cores.upd c f }

def packKey (c sl : Nat) : Nat := c * 48 + sl

def State.pack? (s : State) (c sl : Nat) : Option Pack := s.packs.find (packKey c sl)

def State.pack (s : State) (c sl : Nat) : Pack := (s.pack? c sl).getD {}

def State.updPack (s : State) (c sl : Nat) (f : Pack → Pack) : State := { s with packs := s.packs.upd (packKey c sl) f }

def State.wg (s : State) (n : Nat) : Wg := (s.wgs.find n).getD {}

def State.launch (s : State) (uid : Nat) : Launch := (s.launches.find uid).getD {}

/-- The launch record of a pack's workgroup. -/
def State.lrecOf (s : State) (p : Pack) : LRec := (s.launch (s.wg p.wg).uid).r

/-- Slots of core c that hold a pack, ascending. -/
def State.slotsOf (s : State) (c : Nat) : List Nat :=
  (s.packs.filter (fun kp => kp.1 / 48 == c)).map (fun kp => kp.1 % 48)

/-- Workgroups resident on core c. -/
def State.wgsOn (s : State) (c : Nat) : List (Nat × Wg) := s.wgs.filter (fun w => w.2.core == c)

def State.send (s : State) (m : OutMsg) : State := { s with outbox := s.outbox ++ [m] }

/-- A fresh identifier. -/
def State.fresh (s : State) : Nat × State := (s.nextId, { s with nextId := s.nextId + 1 })

/-- A draw of the free values of Config (log 2). -/
def State.draw (s : State) : Nat × State := (s.ownDraws, { s with ownDraws := s.ownDraws + 1 })

/-- Does a selector count an event of a context (R436)? -/
def evSelects (sel ev ctx : Nat) : Bool := ev != 0 && bits sel 7 0 == ev && bit sel 8 && (!bit sel 9 || bits sel 15 10 == ctx)

/-- Count an event in a core's event counters (R436 to R438); a counter that wraps with OVI set raises the counter interrupt. -/
def State.count (s : State) (c ev ctx n : Nat) : State :=
  let k := s.core c
  let sel := k.evcnt.zip k.evsel
  if sel.any (fun x => evSelects x.2.toNat ev ctx) then
    let wraps := sel.any (fun x => evSelects x.2.toNat ev ctx && bit x.2.toNat 16 && decide (x.1.toNat + n ≥ 2 ^ 64))
    let s := s.updCore c (fun k => { k with evcnt := (k.evcnt.zip k.evsel).map (fun x =>
      if evSelects x.2.toNat ev ctx then x.1 + BitVec.ofNat 64 n else x.1) })
    if wraps then s.send (.counterIrq c) else s
  else s

/-! ## Lanes -/

def Pack.lane (p : Pack) (l : Nat) : Lane := p.lanes.getD l {}

def Pack.updLane (p : Pack) (l : Nat) (f : Lane → Lane) : Pack :=
  { p with lanes := setAt {} p.lanes l (f (p.lane l)) }

def Pack.updLanes (p : Pack) (m : Word) (f : Lane → Lane) : Pack :=
  (lanesOf m).foldl (fun p l => p.updLane l f) p

/-- The lanes of a pack that satisfy a test. -/
def Pack.lanesWhere (p : Pack) (t : Lane → Bool) : Word := laneMask (lanes32.filter (fun l => t (p.lane l)))

/-- The lanes the handler runs for (R388): H of the delivery. -/
def Delivery.h (d : Delivery) : Word := d.trap.lanes ||| d.trap.defer

/-- May a lane be selected (R208, R209)? -/
def Pack.eligible (p : Pack) (l : Nat) : Bool :=
  let x := p.lane l
  (x.st == .active || x.st == .helper) && !x.blocked &&
    (match p.handler with
     | some d => d.h.lane l
     | none => true) && (p.lastAct == 0 || p.lastAct.lane l)

/-- The depth of the lanes of H is one above the stack (R388). -/
def Pack.selDepth (p : Pack) (l : Nat) : Nat :=
  match p.handler with
  | some _ => p.frames.length
  | none => (p.lane l).depth

/-- The selection key of a lane (R209): its address, its word index plus 1 inside a microprogram. A released lane has its replay address (R121). -/
def Pack.key (p : Pack) (l : Nat) : Nat × Nat :=
  let x := p.lane l
  if x.released then (x.replay.toNat, match x.replayK with | some k => k + 1 | none => 0)
  else (x.pc.toNat, match x.k with | some k => k + 1 | none => 0)

def keyLt (a b : Nat × Nat) : Bool := decide (a.1 < b.1) || (a.1 == b.1 && decide (a.2 < b.2))

/-- Exited lanes and the others. -/
def Pack.live (p : Pack) : Word := p.lanesWhere (fun x => x.st != .exited)

/-! ## Frames and vector registers -/

def Frame.cell (f : Frame) (r l : Nat) : VCell := (f.cells.find (32 * r + l)).getD f.fill

def Frame.setCell (f : Frame) (r l : Nat) (v : VCell) : Frame := { f with cells := f.cells.ins (32 * r + l) v }

/-- Drop the registers from r upward (R194). -/
def Frame.cut (f : Frame) (r : Nat) : Frame := { f with cells := f.cells.filter (fun c => decide (c.1 < 32 * r)) }

/-- What an added register holds (R84, R187): with the initialisation flag, the signalling NaN of its number and a tag; else zero. -/
def initCell (sninit : Bool) (r : Nat) : VCell := if sninit then { val := BitVec.ofNat 32 (0x7FA00000 + r), tag := true } else {}

/-- Registers lo to hi - 1 filled for all 32 lanes (R187). -/
def Frame.fillRegs (f : Frame) (sninit : Bool) (lo hi : Nat) : Frame :=
  if sninit then
    (List.range (hi - lo)).foldl (fun f i => lanes32.foldl (fun f l => f.setCell (lo + i) l (initCell true (lo + i))) f) f
  else f.cut lo

/-- The frame an issue group names registers in: the trap frame at handler level, else the frame at its depth (R185, R388). -/
def Pack.frameAt (p : Pack) (depth : Nat) : Frame :=
  match p.handler, p.trapFrame with
  | some _, some t => t.1
  | _, _ => p.frames.getD depth {}

def Pack.updFrameAt (p : Pack) (depth : Nat) (f : Frame → Frame) : Pack :=
  match p.handler, p.trapFrame with
  | some _, some t => { p with trapFrame := some (f t.1, t.2) }
  | _, _ => { p with frames := setAt {} p.frames depth (f (p.frames.getD depth {})) }

/-- Granules of the pool a pack's frames hold (R183, R198): a spilled or refilling frame holds what its state says, a trap frame all but a granule taken from the reserve. -/
def Pack.poolUse (p : Pack) : Nat :=
  (p.frames.map (fun f => if f.st == .spilled then 0 else f.size)).sum +
    (match p.trapFrame with | some (f, rsv) => if rsv then f.size - 1 else f.size | none => 0) +
    (match p.req with | some r => if r.granted then r.n else 0 | none => 0)

/-- Free pool granules of a core (R183, R206). -/
def State.poolFree (s : State) (c : Nat) : Nat :=
  480 - ((s.slotsOf c).map (fun sl => (s.pack c sl).poolUse)).sum

/-- Free granules of the trap reserve (R183, R206). -/
def State.rsvFree (s : State) (c : Nat) : Nat :=
  32 - ((s.slotsOf c).filter (fun sl => match (s.pack c sl).trapFrame with | some (_, r) => r | none => false)).length

/-- Number of packs of a workgroup of this launch (R366, R368): lanes per workgroup over lanes per pack. -/
def LRec.wl (r : LRec) : Nat := r.lx * r.ly * r.lz
def LRec.lpp (r : LRec) : Nat := if r.paired then 16 else 32
def LRec.packs (r : LRec) : Nat := r.wl / r.lpp
def LRec.wgs (r : LRec) : Nat := r.nx * r.ny * r.nz

/-- The pack's number q in its launch (R368). -/
def State.packNo (s : State) (p : Pack) : Nat := (s.wg p.wg).idx * (s.lrecOf p).packs + p.pkid

/-- Bytes of one pack's lane-private region (R368). -/
def LRec.rs (r : LRec) : Nat := (32 * (r.lpsize + r.fbsize) + 4095) / 4096 * 4096

def State.lpBase (s : State) (p : Pack) : Nat := (s.lrecOf p).lpbase.toNat + s.packNo p * (s.lrecOf p).rs
def State.crBase (s : State) (p : Pack) : Nat := (s.lrecOf p).crbase.toNat + 8192 * s.packNo p
def State.frBase (s : State) (p : Pack) : Nat := (s.lrecOf p).frbase.toNat + 256 * s.packNo p

/-- Byte o of lane l of the lane-private region (R103). -/
def State.lpVa (s : State) (p : Pack) (l o : Nat) : Nat := s.lpBase p + o / 4 * 128 + l * 4 + o % 4

/-- The computed registers, values 112 to 122 of a register field (R34, R215, R368). -/
def State.roReg (s : State) (p : Pack) (r l : Nat) : Nat :=
  let w := s.wg p.wg
  let q := s.lrecOf p
  let lid := if q.paired then l % 16 else l
  let i := p.pkid * q.lpp + lid
  let wx := w.idx % q.nx
  let wy := w.idx / q.nx % q.ny
  let wz := w.idx / (q.nx * q.ny)
  match r with
  | 113 => lid
  | 114 => lid / 4
  | 115 => p.pkid
  | 116 => wx
  | 117 => wy
  | 118 => wz
  | 119 => wx * q.lx + i % q.lx
  | 120 => wy * q.ly + i / q.lx % q.ly
  | 121 => wz * q.lz + i / (q.lx * q.ly)
  | 122 => w.idx % (q.clm1 + 1)
  | _ => 0

/-- A register lane as an instruction of lanes at `depth` reads it (R34, R185). -/
def State.readV (s : State) (p : Pack) (depth r l : Nat) : VCell :=
  if r ≤ 111 then (p.frameAt depth).cell r l else { val := BitVec.ofNat 32 (s.roReg p r l) }

/-- Write a register lane. -/
def Pack.writeV (p : Pack) (depth r l : Nat) (v : VCell) : Pack := p.updFrameAt depth (fun f => f.setCell r l v)

/-! ## Frames end (R186, R196, R216) -/

/-- Is the lane a helper, be it one that waits for its instruction's page (R116, R216)? -/
def Lane.isHelp (x : Lane) : Bool := x.st == .helper || (x.st == .waiting && x.helps)

/-- Helpers exit when every other lane has (R216). -/
def Pack.helpersOut (p : Pack) : Pack :=
  if p.lanes.all (fun x => x.st == .exited || x.isHelp) then
    p.updLanes (p.lanesWhere Lane.isHelp) (fun x => { x with st := .exited, age := 0 })
  else p

/-- Is every lane that entered the deepest frame done in it (R186)? -/
def Pack.topDone (p : Pack) : Bool :=
  match p.frames.getLast? with
  | none => false
  | some f =>
    let k := p.frames.length - 1
    (lanesOf f.cmask).all (fun l => let x := p.lane l; x.st == .exited || (x.st == .returned && decide (x.target < k)))

/-- Free the deepest frame: lanes returned to the depth below become active there, and what waited for it goes on (R186, R198). -/
def Pack.popFrame (p : Pack) : Pack :=
  let k := p.frames.length - 1
  { p with
    frames := p.frames.dropLast,
    req := (match p.req with | some r => if r.depth = k ∧ (r.cls = 1 ∨ r.cls = 4) then none else some r | none => none),
    lanes := p.lanes.map (fun x =>
      if x.st == .returned && x.target + 1 == k then { x with st := .active, depth := x.target, age := 0 }
      else if x.blocked && x.depth + 1 == k then { x with blocked := false }
      else x) }

/-- Free every frame that is done, deepest first; the first argument bounds the depth. -/
def Pack.reapN : Nat → Pack → Pack
  | 0, p => p
  | n + 1, p => if p.topDone then Pack.reapN n p.popFrame else p

def Pack.reap (p : Pack) : Pack := let q := p.helpersOut; Pack.reapN (q.frames.length) q

/-- The mask a lane has posted at a PSYNC, while it waits there. -/
def Lane.posted (x : Lane) : Option Word :=
  match x.st, x.why with
  | .waiting, .psync m => some m
  | _, _ => none

/-- A lane outside handlers: for a lane of H as kept for the end of the delivery (R388). -/
def Pack.thread (p : Pack) (l : Nat) : Lane :=
  match p.handler with
  | some d => (d.kept.find l).getD (p.lane l)
  | none => p.lane l

/-- Complete every PSYNC whose members have all posted its mask; an exited member counts as posted (R306). A lane of H that was kept waiting goes on later (R390). -/
def Pack.psyncSettle (p : Pack) : Pack :=
  let ok := fun (view : Nat → Lane) (m : Word) => (lanesOf m).all (fun k => (view k).st == .exited || (view k).posted == some m)
  let wake := fun (t : Word → Bool) (x : Lane) => match x.posted with
    | some m => if t m then { x with st := .active, why := .none, age := 0 } else x
    | none => x
  { p with
    lanes := p.lanes.map (wake (fun m => ok p.lane m || ok p.thread m)),
    handler := p.handler.map (fun d => { d with kept := d.kept.map (fun x => (x.1, wake (ok p.thread) x.2)) }) }

/-- End the wait of the lanes of `m` that satisfy a test, of those kept for the end of a delivery too (R390). -/
def Pack.wakeLanes (p : Pack) (m : Word) (t : Lane → Bool) : Pack :=
  let wake := fun (x : Lane) => if t x then { x with st := .active, why := .none, age := 0 } else x
  let p := p.updLanes m wake
  { p with handler := p.handler.map (fun d => { d with kept := d.kept.map (fun x => if m.lane x.1 then (x.1, wake x.2) else x) }) }

/-- Lanes that satisfy a test, now or as kept for the end of a delivery. -/
def Pack.anyWhere (p : Pack) (t : Lane → Bool) : Word :=
  p.lanesWhere t ||| (match p.handler with
    | some d => laneMask ((d.kept.filter (fun x => t x.2)).map Prod.fst)
    | none => 0)

/-- Lanes exit (R196, R223). -/
def Pack.exitLanes (p : Pack) (m : Word) : Pack :=
  (p.updLanes m (fun x => { x with st := .exited, why := .none, released := false, failx := none, blocked := false, rejoin := 0, age := 0, count := 0 })).psyncSettle.reap

/-! ## Scalar and mask registers -/

def Pack.sreg (p : Pack) (n : Nat) : DWord := p.s.getD n 0
def Pack.setS (p : Pack) (n : Nat) (v : DWord) : Pack := { p with s := setAt 0 p.s n v }

/-- A mask register; m0 reads as the issue group (R182). -/
def Pack.mreg (p : Pack) (ig : Word) (n : Nat) : Word := if n = 0 then ig else p.m.getD n 0

/-- Write lanes of a mask register; bits outside `lanes` keep their value. m0 takes no write. -/
def Pack.setM (p : Pack) (n : Nat) (lanes v : Word) : Pack :=
  if n = 0 then p else { p with m := setAt 0 p.m n ((p.m.getD n 0 &&& ~~~lanes) ||| (v &&& lanes)) }

/-! ## Raising traps -/

/-- The 32 bytes of a page request entry (R118). -/
def FaultImg.bytes (i : FaultImg) : List Byte :=
  leBytes 32 (i.va.toNat + i.gpa.toNat * 2 ^ 64 + i.lanes.toNat * 2 ^ 128 + i.ctx * 2 ^ 160 + i.pack * 2 ^ 166 + i.core * 2 ^ 172 +
    i.kind * 2 ^ 180 + i.stage * 2 ^ 183 + i.level * 2 ^ 184 + i.cause * 2 ^ 186 + i.tag * 2 ^ 192)

/-- One lane's trap while an instruction runs (R383). -/
structure LTrap where
  l : Nat
  code : Nat
  detail : Nat := 0
  va : DWord := 0
  info : List Byte := []
  deriving DecidableEq, Repr

/-- Trap codes (R382). -/
def tILLOP := 1
def tPRIV := 2
def tMISALIGN := 3
def tXLATE := 4
def tACCESS := 5
def tPOISON := 6
def tSNAN := 7
def tSHADOW := 8
def tPAIR := 9
def tPSYNC := 10
def tBAROVER := 11
def tFRAME := 12
def tTILE := 14
def tCOLL := 15
def tBKPT := 16
def tTRAPI := 17
def tSYSCALL := 18
def tWATCH := 19
def tDOUBLE := 20
def tLAUNCH := 21
def tSHARD := 22

/-- What orders traps of one instruction: the code (R383), and for SNAN_INIT the operand it names (R85). -/
def LTrap.rank (t : LTrap) : Nat := t.code * 8 + (if t.code = tSNAN then (t.info.headD 0).toNat else 0)

/-- The one trap an instruction raises from its lanes' traps: the lowest code, of SNAN_INIT the first operand; its lanes, and the others as DEFER (R85, R383). -/
def pickTrap (ts : List LTrap) : Option (LTrap × Word × Word) :=
  match ts.map LTrap.rank with
  | [] => none
  | c :: cs =>
    let rank := cs.foldl min c
    let mine := ts.filter (fun t => t.rank == rank)
    let ls := laneMask (mine.map LTrap.l)
    let rest := laneMask ((ts.map LTrap.l).filter (fun l => !ls.lane l))
    match mine.find? (fun t => mine.all (fun x => decide (t.l ≤ x.l))) with
    | some t => some (t, ls, rest)
    | none => none

/-- The depth that FRAME_DEPTH and a fault record show (R206, R385): that of the frame, or for a handler that of the lanes it runs for (log 38). -/
def Pack.shownDepth (p : Pack) (depth : Nat) : Nat :=
  match p.handler with
  | some d => d.trap.depth
  | none => depth

/-- The trap record of a unit (R385). -/
def mkTrap (s : State) (u : Cur) (t : LTrap) (lanes defer : Word) : Trap :=
  { code := t.code, detail := t.detail, lanes := lanes, defer := defer, depth := (s.pack u.core u.slot).shownDepth u.depth, replay := u.pc, k := u.k,
    words := u.words, va := t.va, info := t.info, cycle := BitVec.ofNat 64 s.cycle,
    hlvl := (s.pack u.core u.slot).handler.isSome, ownOrd := u.ownAt }

/-- A trap among those that wait, in the issue order of their instructions (R384). -/
def queueTrap (t : Trap) : List Trap → List Trap
  | [] => [t]
  | x :: r => if t.ownOrd < x.ownOrd then t :: x :: r else x :: queueTrap t r

/-- A trap joins the pack's pending traps (R384); its delivery is a step of its own. -/
def State.raise (s : State) (c sl : Nat) (t : Trap) : State :=
  s.updPack c sl (fun p => { p with pending := queueTrap t p.pending })

end Sys2Proof.Machine
end

