-- ==== Sys2Proof/Machine/Flags.lean ====
section
/-! DEFINITION. The floating-point flags of FPC (R81, R82). No integer instruction raises a flag (R73). -/

namespace Sys2Proof.Machine

def fNX := 16
def fUF := 32
def fOF := 64
def fDZ := 128
def fNV := 256

/-- Merge two flag sets. -/
def fl (a b : Nat) : Nat := a ||| b

/-- A write of FPC by SWR or SRDATA (R81): RM takes codes 0 to 4 only, the flags are replaced, SNINIT and reserved bits stay. -/
def writeFpc (old v : Nat) : Nat :=
  let rm := if bits v 2 0 ≤ 4 then bits v 2 0 else bits old 2 0
  setBits (setBits old 2 0 rm) 8 4 (bits v 8 4)

end Sys2Proof.Machine
end

