-- ==== Sys2Proof/Machine/Fp.lean ====
section
/-! DEFINITION. Floating-point formats, exact values and rounding (R66 to R80), and the operations on values that instructions, engines and collectives share. -/

namespace Sys2Proof.Machine

/-! ## Formats -/

/-- Which numbers the top codes of a format stand for (R66, R68, R69). -/
inductive FmtKind where
  | ieee | e4m3 | e2m1
  deriving DecidableEq, Repr

structure Fmt where
  eb : Nat
  fb : Nat
  bias : Nat
  kind : FmtKind := .ieee
  deriving DecidableEq, Repr

def f32 : Fmt := ⟨8, 23, 127, .ieee⟩
def f16 : Fmt := ⟨5, 10, 15, .ieee⟩
def bf16 : Fmt := ⟨8, 7, 127, .ieee⟩
def e4m3 : Fmt := ⟨4, 3, 7, .e4m3⟩
def e5m2 : Fmt := ⟨5, 2, 15, .ieee⟩
def e2m1 : Fmt := ⟨2, 1, 1, .e2m1⟩
def a48 : Fmt := ⟨10, 37, 511, .ieee⟩

/-- FP codes of R47. -/
def fpCode (n : Nat) : Fmt :=
  match n with
  | 0 => f32
  | 1 => f16
  | 2 => bf16
  | 3 => e4m3
  | 4 => e5m2
  | _ => e2m1

def Fmt.width (f : Fmt) : Nat := 1 + f.eb + f.fb

/-- A value of a format: a NaN with its sign, its signalling mark and its fraction; an infinity; or (-1)^s m 2^e exactly. -/
inductive Fv where
  | nan (s sig : Bool) (frac fb : Nat)
  | inf (s : Bool)
  | fin (s : Bool) (m : Nat) (e : Int)
  deriving DecidableEq, Repr

/-- Read an encoding (R66 to R70). -/
def Fmt.dec (f : Fmt) (x : Nat) : Fv :=
  let s := bit x (f.eb + f.fb)
  let ex := bits x (f.eb + f.fb - 1) f.fb
  let fr := x % 2 ^ f.fb
  let top := 2 ^ f.eb - 1
  let num := if ex = 0 then Fv.fin s fr (1 - f.bias - f.fb) else Fv.fin s (2 ^ f.fb + fr) ((ex : Int) - f.bias - f.fb)
  match f.kind with
  | .ieee => if ex = top then (if fr = 0 then .inf s else .nan s (fr < 2 ^ (f.fb - 1)) fr f.fb) else num
  | .e4m3 => if ex = 15 ∧ fr = 7 then .nan s false 7 3 else num
  | .e2m1 => num

def Fmt.sign (f : Fmt) (s : Bool) : Nat := b2n s * 2 ^ (f.eb + f.fb)
def Fmt.infCode (f : Fmt) : Nat := (2 ^ f.eb - 1) * 2 ^ f.fb
/-- Largest finite encoding (R67). -/
def Fmt.maxCode (f : Fmt) : Nat :=
  match f.kind with
  | .ieee => f.infCode - 1
  | .e4m3 => 0x7E
  | .e2m1 => 7
/-- Canonical NaN (R67). -/
def Fmt.canon (f : Fmt) : Nat :=
  match f.kind with
  | .ieee => f.infCode + 2 ^ (f.fb - 1)
  | .e4m3 => 0x7F
  | .e2m1 => 0

/-- A NaN carried to a format: sign and payload kept as far as they fit, quieted (R79); e2m1 has none, and takes +0 with NV (R87). -/
def nanTo (f : Fmt) (s sig : Bool) (frac fb : Nat) : Nat × Nat :=
  let fl := if sig then fNV else 0
  match f.kind with
  | .e2m1 => (0, fNV)
  | .e4m3 => (f.sign s + 0x7F, fl)
  | .ieee =>
    if f.fb = 2 then (f.sign s + 0x7E, fl)
    else
      let fr := if fb ≤ f.fb then frac * 2 ^ (f.fb - fb) else frac / 2 ^ (fb - f.fb)
      (f.sign s + f.infCode + setBits fr (f.fb - 1) (f.fb - 1) 1, fl)

/-! ## Rounding -/

/-- m / 2^k to an integer by mode rm (R74); the Bool says whether anything was lost. -/
def roundShift (rm : Nat) (s : Bool) (m k : Nat) : Nat × Bool :=
  let q := m / 2 ^ k
  let r := m % 2 ^ k
  let up := match rm with
    | 0 => decide (2 ^ k < 2 * r) || (decide (2 * r = 2 ^ k) && q % 2 == 1)
    | 1 => false
    | 2 => !s && decide (r ≠ 0)
    | 3 => s && decide (r ≠ 0)
    | _ => decide (2 ^ k ≤ 2 * r) && decide (r ≠ 0)
  (if up then q + 1 else q, decide (r ≠ 0))

/-- m 2^e to a multiple of 2^t. -/
def roundAt (rm : Nat) (s : Bool) (m : Nat) (e t : Int) : Nat × Bool :=
  if t ≤ e then (m * 2 ^ (e - t).toNat, false) else roundShift rm s m (t - e).toNat

/-- Overflow (R76). -/
def overflowTo (f : Fmt) (s : Bool) (rm : Nat) (sat : Bool) : Nat × Nat :=
  let v := match f.kind with
    | .e2m1 => 7
    | .e4m3 => if sat then 0x7E else 0x7F
    | .ieee =>
      if sat || rm == 1 || (rm == 2 && s) || (rm == 3 && !s) then f.maxCode else f.infCode
  (f.sign s + v, fOF ||| fNX)

/-- Infinity to a format (R80). -/
def infTo (f : Fmt) (s sat : Bool) : Nat × Nat :=
  match f.kind with
  | .ieee => (f.sign s + (if sat then f.maxCode else f.infCode), 0)
  | .e4m3 => if sat then (f.sign s + 0x7E, 0) else (f.sign s + 0x7F, fNV)
  | .e2m1 => (f.sign s + 7, fNV)

/-- round_fmt (R75): encoding and flags. -/
def roundFmt (f : Fmt) (rm : Nat) (sat : Bool) (x : Fv) : Nat × Nat :=
  match x with
  | .nan s sig frac fb => nanTo f s sig frac fb
  | .inf s => infTo f s sat
  | .fin s 0 _ => (f.sign s, 0)
  | .fin s m e =>
    let E : Int := (Nat.log2 m : Int) + e
    let (q0, nx) := roundAt rm s m e (E - f.fb)
    let (q, Ey) := if q0 = 2 ^ (f.fb + 1) then (2 ^ f.fb, E + 1) else (q0, E)
    let emax : Int := match f.kind with | .ieee => (2 ^ f.eb - 2 : Nat) - f.bias | .e4m3 => 8 | .e2m1 => 2
    if Ey > emax ∨ (f.kind = .e4m3 ∧ Ey = 8 ∧ q = 15) then overflowTo f s rm sat
    else if Ey < 1 - f.bias then
      let (z, nz) := roundAt rm s m e (1 - f.bias - f.fb)
      (f.sign s + z, if nz then fNX ||| fUF else 0)
    else (f.sign s + (Ey + f.bias).toNat * 2 ^ f.fb + (q - 2 ^ f.fb), if nx then fNX else 0)

/-! ## Exact arithmetic -/

/-- A signed integer times 2^e. -/
def mkFin (s0 : Bool) (v : Int) (e : Int) : Fv := if v = 0 then .fin s0 0 0 else .fin (decide (v < 0)) v.natAbs e

/-- Exact sum of finite values; an exact zero of operands of opposite sign is +0, or -0 under RDN (R78). -/
def addFin (rm : Nat) (s1 : Bool) (m1 : Nat) (e1 : Int) (s2 : Bool) (m2 : Nat) (e2 : Int) : Fv :=
  if m1 = 0 ∧ m2 = 0 then .fin (if s1 = s2 then s1 else rm == 3) 0 0
  else if m1 = 0 then .fin s2 m2 e2
  else if m2 = 0 then .fin s1 m1 e1
  else
    let e := min e1 e2
    let a : Int := (m1 * 2 ^ (e1 - e).toNat : Nat)
    let b : Int := (m2 * 2 ^ (e2 - e).toNat : Nat)
    mkFin (rm == 3) ((if s1 then -a else a) + (if s2 then -b else b)) e

def Fv.isNan : Fv → Bool
  | .nan _ _ _ _ => true
  | _ => false

def Fv.isSig : Fv → Bool
  | .nan _ sig _ _ => sig
  | _ => false

def Fv.neg : Fv → Fv
  | .nan s a b c => .nan s a b c
  | .inf s => .inf (!s)
  | .fin s m e => .fin (!s) m e

/-- The invalid operation (R79). -/
def invalid (f : Fmt) : Nat × Nat := (f.canon, fNV)

/-- NaN operands: the first in the list, quieted; NV when any signals (R79). -/
def pickNan (f : Fmt) (xs : List Fv) : Option (Nat × Nat) :=
  match xs.find? Fv.isNan with
  | some (.nan s _ fr fb) => some ((nanTo f s false fr fb).1, if xs.any Fv.isSig then fNV else 0)
  | _ => none

/-- Sum of two values that are not NaNs, as a value, or invalid. -/
def addVal (rm : Nat) (x y : Fv) : Option Fv :=
  match x, y with
  | .inf s, .inf t => if s = t then some (.inf s) else none
  | .inf s, _ => some (.inf s)
  | _, .inf t => some (.inf t)
  | .fin s1 m1 e1, .fin s2 m2 e2 => some (addFin rm s1 m1 e1 s2 m2 e2)
  | _, _ => none

/-- Product of two values that are not NaNs, or invalid. -/
def mulVal (x y : Fv) : Option Fv :=
  match x, y with
  | .inf s, .inf t => some (.inf (s != t))
  | .inf s, .fin t m _ => if m = 0 then none else some (.inf (s != t))
  | .fin s m _, .inf t => if m = 0 then none else some (.inf (s != t))
  | .fin s1 m1 e1, .fin s2 m2 e2 => some (.fin (s1 != s2) (m1 * m2) (e1 + e2))
  | _, _ => none

/-- FADD (R248). -/
def fpAdd (f : Fmt) (rm : Nat) (a b : Nat) : Nat × Nat :=
  let x := f.dec a
  let y := f.dec b
  match pickNan f [x, y] with
  | some r => r
  | none => match addVal rm x y with
    | some v => roundFmt f rm false v
    | none => invalid f

/-- FSUB (R248): a NaN operand B keeps its sign. -/
def fpSub (f : Fmt) (rm : Nat) (a b : Nat) : Nat × Nat :=
  let x := f.dec a
  let y := f.dec b
  match pickNan f [x, y] with
  | some r => r
  | none => match addVal rm x y.neg with
    | some v => roundFmt f rm false v
    | none => invalid f

/-- FMUL (R248). -/
def fpMul (f : Fmt) (rm : Nat) (a b : Nat) : Nat × Nat :=
  let x := f.dec a
  let y := f.dec b
  match pickNan f [x, y] with
  | some r => r
  | none => match mulVal x y with
    | some v => roundFmt f rm false v
    | none => invalid f

/-- FFMA (R248): 0 x infinity raises NV even when C is a quiet NaN. -/
def fpFma (f : Fmt) (rm : Nat) (a b c : Nat) : Nat × Nat :=
  let x := f.dec a
  let y := f.dec b
  let z := f.dec c
  let badMul := !x.isNan && !y.isNan && (mulVal x y).isNone
  match pickNan f [x, y, z] with
  | some r => (r.1, r.2 ||| (if badMul then fNV else 0))
  | none => match mulVal x y with
    | none => invalid f
    | some v => match addVal rm v z with
      | some w => roundFmt f rm false w
      | none => invalid f

/-- Is x below y, with -0 below +0 (R249)? Neither is a NaN. -/
def fvLt (x y : Fv) : Bool :=
  match x, y with
  | .inf s, .inf t => s && !t
  | .inf s, _ => s
  | _, .inf t => !t
  | .fin s1 m1 e1, .fin s2 m2 e2 =>
    if m1 = 0 ∧ m2 = 0 then s1 && !s2
    else
      let e := min e1 e2
      let a : Int := (m1 * 2 ^ (e1 - e).toNat : Nat)
      let b : Int := (m2 * 2 ^ (e2 - e).toNat : Nat)
      decide ((if s1 then -a else a) < (if s2 then -b else b))
  | _, _ => false

/-- FMIN, and FMAX with `mx` (R249). -/
def fpMin (f : Fmt) (mx : Bool) (a b : Nat) : Nat × Nat :=
  let x := f.dec a
  let y := f.dec b
  let nv := if x.isSig || y.isSig then fNV else 0
  if x.isNan && y.isNan then match pickNan f [x] with
    | some r => (r.1, nv)
    | none => (a, nv)
  else if x.isNan then (b, nv)
  else if y.isNan then (a, nv)
  else if mx then (if fvLt x y then b else a, 0) else (if fvLt y x then b else a, 0)

/-- FMINP, and FMAXP with `mx` (R249). -/
def fpMinP (f : Fmt) (mx : Bool) (a b : Nat) : Nat × Nat :=
  match pickNan f [f.dec a, f.dec b] with
  | some r => r
  | none => fpMin f mx a b

/-- FCMP conditions (R46, R250): equality ignores the sign of zero. -/
def fpCmp (f : Fmt) (cc a b : Nat) : Bool × Nat :=
  let x := f.dec a
  let y := f.dec b
  let un := x.isNan || y.isNan
  let zero := fun v => match v with | Fv.fin _ m _ => decide (m = 0) | _ => false
  let lt := !un && !(zero x && zero y) && fvLt x y
  let gt := !un && !(zero x && zero y) && fvLt y x
  let eq := !un && !lt && !gt
  let sig := if x.isSig || y.isSig then fNV else 0
  let any := if un then fNV else 0
  match cc with
  | 0 => (eq, sig)
  | 1 => (!eq, sig)
  | 2 => (lt, any)
  | 3 => (lt || eq, any)
  | 4 => (gt, any)
  | 5 => (gt || eq, any)
  | 6 => (un, sig)
  | _ => (!un, sig)

/-- FCLASS code (R251). -/
def fpClass (f : Fmt) (a : Nat) : Nat :=
  match f.dec a with
  | .nan _ sig _ _ => if sig then 256 else 512
  | .inf s => if s then 1 else 128
  | .fin s m _ =>
    if m = 0 then (if s then 8 else 16)
    else if m < 2 ^ f.fb then (if s then 4 else 32)
    else (if s then 2 else 64)

/-- FRND (R252): integral value of the same format, sign kept, NX never raised. -/
def fpRnd (f : Fmt) (rm : Nat) (a : Nat) : Nat × Nat :=
  match f.dec a with
  | .nan s sig fr fb => nanTo f s sig fr fb
  | .inf _ => (a, 0)
  | .fin s m e => ((roundFmt f 1 false (.fin s (roundAt rm s m e 0).1 0)).1, 0)

/-- FSCALB (R253). -/
def fpScalb (f : Fmt) (rm : Nat) (a : Nat) (n : Int) : Nat × Nat :=
  match f.dec a with
  | .fin s m e => if m = 0 then (a, 0) else roundFmt f rm false (.fin s m (e + clampN n))
  | v => roundFmt f rm false v
where
  /-- Beyond 2^4096 every result overflows or vanishes alike. -/
  clampN (n : Int) : Int := if n < -4096 then -4096 else if 4096 < n then 4096 else n

/-- Sum of a list of values exactly, or invalid; NaNs are dealt with before. -/
def sumVal (rm : Nat) (xs : List (Option Fv)) : Option Fv :=
  match xs with
  | [] => some (.fin false 0 0)
  | x :: r => r.foldl (fun acc v => match acc, v with
      | some a, some b => addVal rm a b
      | _, _ => none) x

/-- FDOT2 (R255). The exact sum of the three terms is rounded once; an invalid product or sum raises NV beside a NaN operand too. -/
def fpDot2 (f : Fmt) (rm : Nat) (a0 a1 b0 b1 c : Nat) : Nat × Nat :=
  let xs := [f.dec a0, f.dec a1, f.dec b0, f.dec b1, f32.dec c]
  let p0 := mulVal (f.dec a0) (f.dec b0)
  let p1 := mulVal (f.dec a1) (f.dec b1)
  let infs := [p0, p1, some (f32.dec c)].filterMap (fun v => match v with | some (.inf s) => some s | _ => none)
  let bad := (!(f.dec a0).isNan && !(f.dec b0).isNan && p0.isNone) || (!(f.dec a1).isNan && !(f.dec b1).isNan && p1.isNone) ||
    (infs.contains true && infs.contains false)
  match pickNan f32 xs with
  | some r => (r.1, r.2 ||| (if bad then fNV else 0))
  | none => match sumVal rm [p0, p1, some (f32.dec c)] with
    | some v => roundFmt f32 rm false v
    | none => invalid f32

/-! ## Division and roots -/

/-- Integer square root by bits, highest first. -/
def isqrt (n : Nat) : Nat :=
  ((List.range (Nat.log2 n / 2 + 1)).reverse).foldl (fun r i => if (r + 2 ^ i) * (r + 2 ^ i) ≤ n then r + 2 ^ i else r) 0

/-- n / d to more bits than any format keeps, with a last bit that says whether something was lost. -/
def quot (s : Bool) (n : Nat) (en : Int) (d : Nat) (ed : Int) : Fv :=
  let k := Nat.log2 d + 64
  let q := n * 2 ^ k / d
  let r := n * 2 ^ k % d
  .fin s (2 * q + b2n (r != 0)) (en - ed - k - 1)

/-- Square root of m 2^e, likewise. -/
def rootOf (m : Nat) (e : Int) : Fv :=
  let e' := if e % 2 = 0 then e else e - 1
  let m' := if e % 2 = 0 then m else 2 * m
  let n := m' * 2 ^ 128
  let q := isqrt n
  .fin false (2 * q + b2n (q * q != n)) (e' / 2 - 64 - 1)

/-- FDIV (R257). -/
def fpDiv (f : Fmt) (rm : Nat) (a b : Nat) : Nat × Nat :=
  let x := f.dec a
  let y := f.dec b
  match pickNan f [x, y] with
  | some r => r
  | none => match x, y with
    | .inf _, .inf _ => invalid f
    | .inf s, .fin t _ _ => infTo f (s != t) false
    | .fin s _ _, .inf t => (f.sign (s != t), 0)
    | .fin s m e, .fin t n k =>
      if n = 0 then (if m = 0 then invalid f else (f.sign (s != t) + f.infCode, fDZ))
      else if m = 0 then (f.sign (s != t), 0)
      else roundFmt f rm false (quot (s != t) m e n k)
    | _, _ => invalid f

/-- FSQRT (R257). -/
def fpSqrt (f : Fmt) (rm : Nat) (a : Nat) : Nat × Nat :=
  match f.dec a with
  | .nan s sig fr fb => nanTo f s sig fr fb
  | .inf s => if s then invalid f else (a, 0)
  | .fin s m e => if m = 0 then (a, 0) else if s then invalid f else roundFmt f rm false (rootOf m e)

/-! ## Integers -/

/-- An integer as a value; zero is +0 (R78). -/
def intVal (v : Int) : Fv := mkFin false v 0

/-- CVTI (R88): a value to a w-bit integer, signed or not; B[0] is `sat`. -/
def fpToInt (rm : Nat) (w : Nat) (sg sat : Bool) (x : Fv) : Nat × Nat :=
  let lo : Int := if sg then -(2 ^ (w - 1) : Nat) else 0
  let hi : Int := if sg then (2 ^ (w - 1) : Nat) - 1 else (2 ^ w : Nat) - 1
  let bad : Nat := if sg then 2 ^ (w - 1) else 2 ^ w - 1
  match x with
  | .nan _ _ _ _ => (if sat then 0 else bad, fNV)
  | .inf s => (if sat then wrapTo w (if s then lo else hi) else bad, fNV)
  | .fin s m e =>
    let (q, nx) := roundAt rm s m e 0
    let v : Int := if s then -(q : Int) else q
    if v < lo then (if sat then wrapTo w lo else bad, fNV)
    else if hi < v then (if sat then wrapTo w hi else bad, fNV)
    else (wrapTo w v, if nx then fNX else 0)

end Sys2Proof.Machine
end

