-- ==== Sys2Proof/Machine/Operands.lean ====
section
/-! DEFINITION. What an instruction reads and writes, the tests and bookkeeping that every issued unit shares (R37, R39 to R41, R57, R85, R116, R211,
R212, R216, R383), and the per-lane form of the arithmetic instructions (R235). -/

namespace Sys2Proof.Machine

/-! ## Which registers a unit names -/

/-- Operand names of a fault record (R386): A, B, D as a source, F4 (also the C operand of an atomic), a scale. -/
inductive OpdPos where
  | A | B | D | F4 | scale
  deriving DecidableEq, Repr

def OpdPos.code : OpdPos → Nat
  | .A => 0
  | .B => 1
  | .D => 2
  | .F4 => 3
  | .scale => 4

/-- An operand: n registers from `reg`. -/
structure VUse where
  opd : OpdPos
  reg : VReg
  n : Nat
  deriving DecidableEq, Repr

/-- What an instruction names: vector sources whose tags trap (`rd`) and whose tags pass (`raw`, R85), vector destinations, scalar and mask
registers, the accumulator tile; whether helper lanes execute it (R216), whether it closes windows (R40), needs the matrix unit (R266), is long-latency (R38). -/
structure Uses where
  rd : List VUse := []
  raw : List VUse := []
  wr : List VUse := []
  sr : List Nat := []
  sw : List Nat := []
  mr : List Nat := []
  mw : List Nat := []
  acc : Option Nat := none
  helper : Bool := false
  closes : Bool := false
  mx : Bool := false
  la : Option Nat := none
  /-- The instruction itself answers for a fault of its reads that was answered FAIL (LAUNCH, R366). -/
  takesFail : Bool := false
  deriving DecidableEq, Repr

/-- The addend: F4 when the prefix names it, else the old D (R237). -/
def addend (p : Option Pfx) (d : VReg) (n : Nat) : VUse :=
  match p with
  | some q => if q.f4 == 0 then ⟨.D, d, n⟩ else ⟨.F4, q.f4, n⟩
  | none => ⟨.D, d, n⟩

/-- Sources of an atomic (R284): the address pair, B unless INCW, C for CAS, INCW and FADDB. -/
def atomReads (a b c : VReg) (k : BitVec 4) (n : Nat) : List VUse :=
  [⟨.A, a, 2⟩] ++ (if k == 11 then [] else [⟨.B, b, n⟩]) ++ (if k == 10 || k == 11 || k == 12 then [⟨.F4, c, n⟩] else [])

def atomMask (sm : BitVec 3) (k : BitVec 4) : List Nat := if k == 12 then [sm.toNat] else []

/-- The A-scale run and the B-scale run of an MMA (R270). -/
def mmaScales (ty kch : BitVec 3) (asc : VReg) (bsel : BitVec 2) : List VUse :=
  if ty.toNat ≤ 2 then [⟨.scale, asc, (mmaNB ty kch - 1 + bsel.toNat) / 2 + 1⟩] else []

def mmaBScales (ty kch : BitVec 3) (bsc : BitVec 5) (bsel : BitVec 2) : List Nat :=
  if ty.toNat ≤ 2 then (List.range ((mmaNB ty kch - 1 + bsel.toNat) / 4 + 1)).map (fun i => bsc.toNat + i) else []

/-- What each instruction names, by its encoding (R42 to R55). -/
def instrUses : Instr → Uses
  | .nop => {}
  | .bra _ => {}
  | .brc m _ _ => { mr := [m.toNat] }
  | .brx a => { rd := [⟨.A, a, 2⟩] }
  | .call _ argc retc ab _ => { raw := [⟨.A, ab, argc.toNat⟩], wr := [⟨.D, ab, retc.toNat⟩], closes := true }
  | .callx _ argc retc ab r => { raw := [⟨.A, ab, argc.toNat⟩], wr := [⟨.D, ab, retc.toNat⟩], closes := true, sr := [r.toNat] }
  | .ret => { closes := true }
  | .unwind _ => { closes := true }
  | .resize _ => { closes := true }
  | .yield => { closes := true }
  | .exit => { closes := true }
  | .trap _ => { closes := true }
  | .bkpt _ => { closes := true }
  | .syscall _ => { closes := true }
  | .mprog _ _ => { closes := true }
  | .iadd _ d a b x => { rd := [⟨.A, a, (pw (x == 3))⟩, ⟨.B, b, (pw (x == 3))⟩], wr := [⟨.D, d, (pw (x == 3))⟩], helper := true }
  | .isub _ d a b x => { rd := [⟨.A, a, (pw (x == 3))⟩, ⟨.B, b, (pw (x == 3))⟩], wr := [⟨.D, d, (pw (x == 3))⟩], helper := true }
  | .iaddi _ d a _ => { rd := [⟨.A, a, 1⟩], wr := [⟨.D, d, 1⟩], helper := true }
  | .imul _ d a b x => { rd := [⟨.A, a, 1⟩, ⟨.B, b, 1⟩], wr := [⟨.D, d, (pw (x == 3))⟩], helper := true }
  | .imuli _ d a _ => { rd := [⟨.A, a, 1⟩], wr := [⟨.D, d, 1⟩], helper := true }
  | .imad p d a b x => { rd := [⟨.A, a, 1⟩, ⟨.B, b, 1⟩, addend p d (pw (x == 1))], wr := [⟨.D, d, (pw (x == 1))⟩], helper := true }
  | .imin _ d a b _ => { rd := [⟨.A, a, 1⟩, ⟨.B, b, 1⟩], wr := [⟨.D, d, 1⟩], helper := true }
  | .imax _ d a b _ => { rd := [⟨.A, a, 1⟩, ⟨.B, b, 1⟩], wr := [⟨.D, d, 1⟩], helper := true }
  | .iabs _ d a => { rd := [⟨.A, a, 1⟩], wr := [⟨.D, d, 1⟩], helper := true }
  | .ineg _ d a => { rd := [⟨.A, a, 1⟩], wr := [⟨.D, d, 1⟩], helper := true }
  | .inot _ d a => { rd := [⟨.A, a, 1⟩], wr := [⟨.D, d, 1⟩], helper := true }
  | .popc _ d a => { rd := [⟨.A, a, 1⟩], wr := [⟨.D, d, 1⟩], helper := true }
  | .clz _ d a => { rd := [⟨.A, a, 1⟩], wr := [⟨.D, d, 1⟩], helper := true }
  | .ctz _ d a => { rd := [⟨.A, a, 1⟩], wr := [⟨.D, d, 1⟩], helper := true }
  | .brev _ d a => { rd := [⟨.A, a, 1⟩], wr := [⟨.D, d, 1⟩], helper := true }
  | .bswap _ d a => { rd := [⟨.A, a, 1⟩], wr := [⟨.D, d, 1⟩], helper := true }
  | .isad _ d a b _ => { rd := [⟨.A, a, 1⟩, ⟨.B, b, 1⟩, ⟨.D, d, 1⟩], wr := [⟨.D, d, 1⟩], helper := true }
  | .shl _ d a b x => { rd := [⟨.A, a, (pw (x == 1))⟩, ⟨.B, b, 1⟩], wr := [⟨.D, d, (pw (x == 1))⟩], helper := true }
  | .shr _ d a b x => { rd := [⟨.A, a, (pw (x == 1))⟩, ⟨.B, b, 1⟩], wr := [⟨.D, d, (pw (x == 1))⟩], helper := true }
  | .sar _ d a b x => { rd := [⟨.A, a, (pw (x == 1))⟩, ⟨.B, b, 1⟩], wr := [⟨.D, d, (pw (x == 1))⟩], helper := true }
  | .rotl _ d a b => { rd := [⟨.A, a, 1⟩, ⟨.B, b, 1⟩], wr := [⟨.D, d, 1⟩], helper := true }
  | .rotr _ d a b => { rd := [⟨.A, a, 1⟩, ⟨.B, b, 1⟩], wr := [⟨.D, d, 1⟩], helper := true }
  | .shli _ d a pr _ => { rd := [⟨.A, a, (pw (pr == 1))⟩], wr := [⟨.D, d, (pw (pr == 1))⟩], helper := true }
  | .shri _ d a pr _ => { rd := [⟨.A, a, (pw (pr == 1))⟩], wr := [⟨.D, d, (pw (pr == 1))⟩], helper := true }
  | .sari _ d a pr _ => { rd := [⟨.A, a, (pw (pr == 1))⟩], wr := [⟨.D, d, (pw (pr == 1))⟩], helper := true }
  | .and _ d a b => { rd := [⟨.A, a, 1⟩, ⟨.B, b, 1⟩], wr := [⟨.D, d, 1⟩], helper := true }
  | .or _ d a b => { rd := [⟨.A, a, 1⟩, ⟨.B, b, 1⟩], wr := [⟨.D, d, 1⟩], helper := true }
  | .xor _ d a b => { rd := [⟨.A, a, 1⟩, ⟨.B, b, 1⟩], wr := [⟨.D, d, 1⟩], helper := true }
  | .andn _ d a b => { rd := [⟨.A, a, 1⟩, ⟨.B, b, 1⟩], wr := [⟨.D, d, 1⟩], helper := true }
  | .orn _ d a b => { rd := [⟨.A, a, 1⟩, ⟨.B, b, 1⟩], wr := [⟨.D, d, 1⟩], helper := true }
  | .xnor _ d a b => { rd := [⟨.A, a, 1⟩, ⟨.B, b, 1⟩], wr := [⟨.D, d, 1⟩], helper := true }
  | .andi _ d a _ => { rd := [⟨.A, a, 1⟩], wr := [⟨.D, d, 1⟩], helper := true }
  | .ori _ d a _ => { rd := [⟨.A, a, 1⟩], wr := [⟨.D, d, 1⟩], helper := true }
  | .xori _ d a _ => { rd := [⟨.A, a, 1⟩], wr := [⟨.D, d, 1⟩], helper := true }
  | .bfx _ d a _ _ => { rd := [⟨.A, a, 1⟩], wr := [⟨.D, d, 1⟩], helper := true }
  | .bfxs _ d a _ _ => { rd := [⟨.A, a, 1⟩], wr := [⟨.D, d, 1⟩], helper := true }
  | .bfi _ d a _ _ => { rd := [⟨.A, a, 1⟩, ⟨.D, d, 1⟩], wr := [⟨.D, d, 1⟩], helper := true }
  | .icmp _ m _ a b x => { rd := [⟨.A, a, (pw (2 ≤ x.toNat))⟩, ⟨.B, b, (pw (2 ≤ x.toNat))⟩], mw := [m.toNat], helper := true }
  | .icmpi _ m _ a _ => { rd := [⟨.A, a, 1⟩], mw := [m.toNat], helper := true }
  | .sel _ d a b m => { raw := [⟨.A, a, 1⟩, ⟨.B, b, 1⟩], wr := [⟨.D, d, 1⟩], mr := [m.toNat], helper := true }
  | .mov _ d a => { raw := [⟨.A, a, 1⟩], wr := [⟨.D, d, 1⟩], helper := true }
  | .movs _ d a => { sr := [a.toNat], wr := [⟨.D, d, 1⟩], helper := true }
  | .movm _ d m => { mr := [m.toNat], wr := [⟨.D, d, 1⟩], helper := true }
  | .mvm _ m a => { rd := [⟨.A, a, 1⟩], mw := [m.toNat], helper := true }
  | .movi _ d _ => { rd := [], wr := [⟨.D, d, 1⟩], helper := true }
  | .lea _ d a b _ => { rd := [⟨.A, a, 1⟩, ⟨.B, b, 1⟩], wr := [⟨.D, d, 1⟩], helper := true }
  | .idiv _ d a b la => { rd := [⟨.A, a, 1⟩, ⟨.B, b, 1⟩], wr := [⟨.D, d, 1⟩], helper := true, la := some la.toNat }
  | .ndiv _ d a b la => { rd := [⟨.A, a, 1⟩, ⟨.B, b, 1⟩], wr := [⟨.D, d, 1⟩], helper := true, la := some la.toNat }
  | .sadd d a b => { sr := [a.toNat, b.toNat], sw := [d.toNat] }
  | .saddi d a _ => { sr := [a.toNat], sw := [d.toNat] }
  | .ssub d a b => { sr := [a.toNat, b.toNat], sw := [d.toNat] }
  | .smul d a b => { sr := [a.toNat, b.toNat], sw := [d.toNat] }
  | .sand d a b => { sr := [a.toNat, b.toNat], sw := [d.toNat] }
  | .sor d a b => { sr := [a.toNat, b.toNat], sw := [d.toNat] }
  | .sxor d a b => { sr := [a.toNat, b.toNat], sw := [d.toNat] }
  | .sshl d a b => { sr := [a.toNat, b.toNat], sw := [d.toNat] }
  | .sshr d a b => { sr := [a.toNat, b.toNat], sw := [d.toNat] }
  | .ssar d a b => { sr := [a.toNat, b.toNat], sw := [d.toNat] }
  | .scmp d a b _ => { sr := [a.toNat, b.toNat], sw := [d.toNat] }
  | .smovi d _ => { sw := [d.toNat] }
  | .smov d a => { sr := [a.toNat], sw := [d.toNat] }
  | .rdlane d a _ => { raw := [⟨.A, a, 1⟩], sw := [d.toNat] }
  | .wrlane d a _ => { wr := [⟨.D, d, 1⟩], sr := [a.toNat] }
  | .smask d m => { sw := [d.toNat], mr := [m.toNat] }
  | .mset m a => { mw := [m.toNat], sr := [a.toNat] }
  | .sld d a _ _ la => { sr := [a.toNat], sw := [d.toNat], la := some la.toNat }
  | .sst d a _ _ la => { sr := [a.toNat, d.toNat], la := some la.toNat }
  | .sbr d _ _ => { sr := [d.toNat] }
  | .vany d a => { rd := [⟨.A, a, 1⟩], sw := [d.toNat] }
  | .vall d a => { rd := [⟨.A, a, 1⟩], sw := [d.toNat] }
  | .ballot m a => { rd := [⟨.A, a, 1⟩], mw := [m.toNat] }
  | .vcount d a => { rd := [⟨.A, a, 1⟩], sw := [d.toNat] }
  | .waitev d _ => { sr := [d.toNat], sw := [d.toNat], closes := true }
  | .ldc d a _ _ la => { sr := [a.toNat], sw := [d.toNat], la := some la.toNat }
  | .srd d _ => { sw := [d.toNat] }
  | .swr d _ => { sr := [d.toNat] }
  | .fadd _ d a b _ => { rd := [⟨.A, a, 1⟩, ⟨.B, b, 1⟩], wr := [⟨.D, d, 1⟩], helper := true }
  | .fsub _ d a b _ => { rd := [⟨.A, a, 1⟩, ⟨.B, b, 1⟩], wr := [⟨.D, d, 1⟩], helper := true }
  | .fmul _ d a b _ => { rd := [⟨.A, a, 1⟩, ⟨.B, b, 1⟩], wr := [⟨.D, d, 1⟩], helper := true }
  | .ffma p d a b _ => { rd := [⟨.A, a, 1⟩, ⟨.B, b, 1⟩, addend p d 1], wr := [⟨.D, d, 1⟩], helper := true }
  | .fmin _ d a b _ => { rd := [⟨.A, a, 1⟩, ⟨.B, b, 1⟩], wr := [⟨.D, d, 1⟩], helper := true }
  | .fmax _ d a b _ => { rd := [⟨.A, a, 1⟩, ⟨.B, b, 1⟩], wr := [⟨.D, d, 1⟩], helper := true }
  | .fminp _ d a b _ => { rd := [⟨.A, a, 1⟩, ⟨.B, b, 1⟩], wr := [⟨.D, d, 1⟩], helper := true }
  | .fmaxp _ d a b _ => { rd := [⟨.A, a, 1⟩, ⟨.B, b, 1⟩], wr := [⟨.D, d, 1⟩], helper := true }
  | .fcmp _ m _ a b _ => { rd := [⟨.A, a, 1⟩, ⟨.B, b, 1⟩], mw := [m.toNat], helper := true }
  | .fclass _ d a _ => { rd := [⟨.A, a, 1⟩], wr := [⟨.D, d, 1⟩], helper := true }
  | .frnd _ d a _ _ => { rd := [⟨.A, a, 1⟩], wr := [⟨.D, d, 1⟩], helper := true }
  | .fscalb _ d a b _ => { rd := [⟨.A, a, 1⟩, ⟨.B, b, 1⟩], wr := [⟨.D, d, 1⟩], helper := true }
  | .fabs _ d a => { rd := [⟨.A, a, 1⟩], wr := [⟨.D, d, 1⟩], helper := true }
  | .fneg _ d a => { rd := [⟨.A, a, 1⟩], wr := [⟨.D, d, 1⟩], helper := true }
  | .fnabs _ d a => { rd := [⟨.A, a, 1⟩], wr := [⟨.D, d, 1⟩], helper := true }
  | .fcpsgn _ d a b => { rd := [⟨.A, a, 1⟩, ⟨.B, b, 1⟩], wr := [⟨.D, d, 1⟩], helper := true }
  | .fdot2 p d a b _ => { rd := [⟨.A, a, 1⟩, ⟨.B, b, 1⟩, addend p d 1], wr := [⟨.D, d, 1⟩], helper := true }
  | .fclamp p d a b _ => { rd := [⟨.A, a, 1⟩, ⟨.B, b, 1⟩, addend p d 1], wr := [⟨.D, d, 1⟩], helper := true }
  | .pack _ d a b _ => { rd := [⟨.A, a, 1⟩, ⟨.B, b, 1⟩], wr := [⟨.D, d, 1⟩], helper := true }
  | .fdiv _ d a b la => { rd := [⟨.A, a, 1⟩, ⟨.B, b, 1⟩], wr := [⟨.D, d, 1⟩], helper := true, la := some la.toNat }
  | .fsqrt _ d a la => { rd := [⟨.A, a, 1⟩], wr := [⟨.D, d, 1⟩], helper := true, la := some la.toNat }
  | .fexp2 _ d a la => { rd := [⟨.A, a, 1⟩], wr := [⟨.D, d, 1⟩], helper := true, la := some la.toNat }
  | .flog2 _ d a la => { rd := [⟨.A, a, 1⟩], wr := [⟨.D, d, 1⟩], helper := true, la := some la.toNat }
  | .fsin _ d a la => { rd := [⟨.A, a, 1⟩], wr := [⟨.D, d, 1⟩], helper := true, la := some la.toNat }
  | .fcos _ d a la => { rd := [⟨.A, a, 1⟩], wr := [⟨.D, d, 1⟩], helper := true, la := some la.toNat }
  | .frcp _ d a la => { rd := [⟨.A, a, 1⟩], wr := [⟨.D, d, 1⟩], helper := true, la := some la.toNat }
  | .frsq _ d a la => { rd := [⟨.A, a, 1⟩], wr := [⟨.D, d, 1⟩], helper := true, la := some la.toNat }
  | .ftanh _ d a la => { rd := [⟨.A, a, 1⟩], wr := [⟨.D, d, 1⟩], helper := true, la := some la.toNat }
  | .fsigm _ d a la => { rd := [⟨.A, a, 1⟩], wr := [⟨.D, d, 1⟩], helper := true, la := some la.toNat }
  | .cvtf _ d a src _ la => { rd := [⟨.A, a, cvtfSrcN src⟩], wr := [⟨.D, d, 1⟩], helper := true, la := some la.toNat }
  | .cvti _ d a _ dst _ la => { rd := [⟨.A, a, 1⟩], wr := [⟨.D, d, cvtiDstN dst⟩], helper := true, la := some la.toNat }
  | .qscale _ d a _ la => { rd := [⟨.A, a, 1⟩], wr := [⟨.D, d, 1⟩], helper := true, la := some la.toNat }
  | .shfl _ d a b seg => { raw := [⟨.A, a, 1⟩], rd := [⟨.B, b, 1⟩], wr := [⟨.D, d, 1⟩], helper := seg == 3 }
  | .shflup _ d a seg _ => { raw := [⟨.A, a, 1⟩], wr := [⟨.D, d, 1⟩], helper := seg == 3 }
  | .shfldn _ d a seg _ => { raw := [⟨.A, a, 1⟩], wr := [⟨.D, d, 1⟩], helper := seg == 3 }
  | .shflx _ d a seg _ => { raw := [⟨.A, a, 1⟩], wr := [⟨.D, d, 1⟩], helper := seg == 3 }
  | .qswz _ d a _ => { raw := [⟨.A, a, 1⟩], wr := [⟨.D, d, 1⟩], helper := true }
  | .redux _ d a _ => { raw := [⟨.A, a, 1⟩], wr := [⟨.D, d, 1⟩] }
  | .scan _ d a _ _ => { raw := [⟨.A, a, 1⟩], wr := [⟨.D, d, 1⟩] }
  | .matchl _ d a x => { raw := [⟨.A, a, (pw (x == 1))⟩], wr := [⟨.D, d, 1⟩] }
  | .ld _ d a w _ la => { rd := [⟨.A, a, 2⟩], wr := [⟨.D, d, wRegs w⟩], la := some la.toNat }
  | .lds _ d a w _ la => { rd := [⟨.A, a, 1⟩], wr := [⟨.D, d, wRegs w⟩], la := some la.toNat }
  | .ldx _ d a w _ la => { rd := [⟨.A, a, 1⟩], wr := [⟨.D, d, wRegs w⟩], la := some la.toNat }
  | .st _ d a w _ la => { rd := [⟨.A, a, 2⟩], raw := [⟨.D, d, wRegs w⟩], la := some la.toNat }
  | .sts _ d a w _ la => { rd := [⟨.A, a, 1⟩], raw := [⟨.D, d, wRegs w⟩], la := some la.toNat }
  | .stx _ d a w _ la => { rd := [⟨.A, a, 1⟩], raw := [⟨.D, d, wRegs w⟩], la := some la.toNat }
  | .ldm _ d a w _ la => { rd := [⟨.A, a, 2⟩], wr := [⟨.D, d, w.toNat + 1⟩], la := some la.toNat }
  | .stm _ d a w _ la => { rd := [⟨.A, a, 2⟩], raw := [⟨.D, d, w.toNat + 1⟩], la := some la.toNat }
  | .atom d a b la sm _ c width _ _ k => { rd := atomReads a b c k (pw (width == 1)), wr := [⟨.D, d, (pw (width == 1))⟩], mw := atomMask sm k, la := some la.toNat }
  | .atomr d a b la sm _ c width _ _ k => { rd := atomReads a b c k (pw (width == 1)), wr := [⟨.D, d, (pw (width == 1))⟩], mw := atomMask sm k, la := some la.toNat }
  | .red _ a b la _ _ c width _ _ k => { rd := atomReads a b c k (pw (width == 1)), la := some la.toNat }
  | .barinit a b => { raw := [⟨.A, a, 1⟩, ⟨.B, b, 1⟩] }
  | .bararv m a b => { raw := [⟨.A, a, 1⟩, ⟨.B, b, 1⟩], mw := [m.toNat] }
  | .baraw m a b => { raw := [⟨.A, a, 1⟩, ⟨.B, b, 1⟩], mw := [m.toNat] }
  | .barwait a => { raw := [⟨.A, a, 1⟩], closes := true }
  | .bartest m a => { raw := [⟨.A, a, 1⟩], mw := [m.toNat] }
  | .barexp a b => { raw := [⟨.A, a, 1⟩, ⟨.B, b, 1⟩] }
  | .bardrop a b => { raw := [⟨.A, a, 1⟩, ⟨.B, b, 1⟩] }
  | .psync a => { rd := [⟨.A, a, 1⟩], closes := true }
  | .fence _ _ => {}
  | .fenceLite _ => {}
  | .fenceHeavy _ => {}
  | .fenceTc _ => {}
  | .fenceShape _ => {}
  | .cctl a w _ la => if w = 3 ∨ w = 4 then { raw := [⟨.A, a, 2⟩], la := some la.toNat } else { rd := [⟨.A, a, 2⟩], la := some la.toNat }
  | .tcopy _ base bar _ _ _ la _ _ _ => { sr := [base.toNat, bar.toNat], la := some la.toNat }
  | .tstat d _ => { sw := [d.toNat] }
  | .trel _ => {}
  | .strmFeeda _ => { mx := true }
  | .strmFeedb _ => { mx := true }
  | .strmReplay _ _ => { mx := true }
  | .strmFlush => { mx := true }
  | .coll base bar la _ => { sr := [base.toNat, bar.toNat], la := some la.toNat }
  | .tresume _ => {}
  | .launchGrid r st la => { sr := [r.toNat], sw := [st.toNat], la := some la.toNat, takesFail := true }
  | .launchNode r st la => { sr := [r.toNat], sw := [st.toNat], la := some la.toNat, takesFail := true }
  | .shinv _ => {}
  | .shinvAll => {}
  | .mma acc ty kch asc _ _ bsel bsc => { rd := mmaScales ty kch asc bsel, sr := mmaBScales ty kch bsc bsel, acc := some acc.toNat, mx := true }
  | .accz acc _ => { acc := some acc.toNat, mx := true, la := some 0 }
  | .accrd d acc _ x => { wr := [⟨.D, d, (pw (x == 2))⟩], acc := some acc.toNat, mx := true, la := some 0 }
  | .accwr a acc _ x => { rd := [⟨.A, a, (pw (x == 2))⟩], acc := some acc.toNat, mx := true, la := some 0 }
  | .accopScale a acc => { rd := [⟨.A, a, 1⟩], acc := some acc.toNat, mx := true, la := some 0 }
  | .accopAddrow a acc => { rd := [⟨.A, a, 1⟩], acc := some acc.toNat, mx := true, la := some 0 }
  | .accopRowmax d acc => { wr := [⟨.D, d, 1⟩], acc := some acc.toNat, mx := true, la := some 0 }
  | .accopRowsum d acc => { wr := [⟨.D, d, 1⟩], acc := some acc.toNat, mx := true, la := some 0 }
  | .accopExps a acc c => { rd := [⟨.A, a, 1⟩], sr := [c.toNat], acc := some acc.toNat, mx := true, la := some 0 }
  | .accopMaskc acc _ => { acc := some acc.toNat, mx := true, la := some 0 }
  | .accmvTotile _ acc _ => { acc := some acc.toNat, mx := true, la := some 0 }
  | .accmvFromtile _ acc _ => { acc := some acc.toNat, mx := true, la := some 0 }
  | .accmvSave _ acc => { acc := some acc.toNat, mx := true, la := some 0 }
  | .accmvLoad _ acc => { acc := some acc.toNat, mx := true, la := some 0 }
  | .laneAgeSaturate _ _ _ => {}
  | .breakpoint _ _ => {}
  | .memoryAccessComplete _ _ _ => {}
  | .atomResult _ _ _ => {}
  | .walkComplete _ _ _ _ => {}
  | .prqEntryPost _ => {}
  | .prqHeadWrite _ _ => {}
  | .prqReplyRetry _ _ => {}
  | .prqReplyFail _ _ => {}
  | .xltInvAll _ => {}
  | .xltInvFunc _ => {}
  | .xltInvCtx _ => {}
  | .xltInvCtxPages _ => {}
  | .xltInvStage2Pages _ => {}
  | .xltInvNonglobal _ => {}
  | .xltInvDone => {}
  | .llcCarveWrite _ => {}
  | .llcCarveDone => {}
  | .cspwinWrite _ _ => {}
  | .copyStart => {}
  | .tcopyAccept _ _ => {}
  | .barrierEngineArrival _ => {}
  | .copyComplete _ => {}
  | .copyFaultPause _ => {}
  | .copyFail _ => {}
  | .streamFill _ _ => {}
  | .mmaEntryStart _ => {}
  | .mmaEntryComplete _ => {}
  | .mxGate _ => {}
  | .frameGrant _ => {}
  | .frameWaitExpiry _ _ => {}
  | .escapeSpillStart _ => {}
  | .spillComplete _ => {}
  | .refillComplete _ _ => {}
  | .recordReadback _ _ => {}
  | .trapDelivery _ _ => {}
  | .escalation _ _ => {}
  | .pendingTrapDelivery _ _ => {}
  | .waitevTimeout _ _ => {}
  | .packAged _ _ => {}
  | .trqPop _ => {}
  | .trqxRead _ => {}
  | .park _ _ => {}
  | .unpark _ _ => {}
  | .release _ _ => {}
  | .signal _ _ => {}
  | .endtrap _ _ => {}
  | .post _ => {}
  | .failx _ _ => {}
  | .kill _ _ => {}
  | .pkdataRead _ => {}
  | .pkdataWrite _ _ => {}
  | .srdataRead _ => {}
  | .srdataWrite _ _ => {}
  | .inject _ _ => {}
  | .emdataRead _ => {}
  | .emdataWrite _ _ => {}
  | .emctlGo _ => {}
  | .csdataWrite _ _ => {}
  | .csctlGo _ _ => {}
  | .controlStoreInstall _ _ => {}
  | .ctxPreempt _ => {}
  | .ctxRestore _ => {}
  | .ctxKill _ => {}
  | .ctxcfgWrite _ _ => {}
  | .launchQtailWrite _ _ => {}
  | .qbaseWrite _ _ => {}
  | .launchEntryRead _ => {}
  | .nodeRelease _ => {}
  | .workgroupPlace => {}
  | .priorityStarvation _ => {}
  | .workgroupFinish _ _ => {}
  | .launchComplete _ => {}
  | .nodeDiscard _ => {}
  | .remoteRequestIngress _ => {}
  | .remoteResponse _ _ => {}
  | .controlRequest _ => {}
  | .mirrorUpdate _ _ => {}
  | .lossNotice _ => {}
  | .fabLossTo _ => {}
  | .peerClr _ => {}
  | .linkCrcError _ => {}
  | .portTrained _ => {}
  | .linkRekey _ _ => {}
  | .portDisable _ _ => {}
  | .mint _ => {}
  | .roll _ => {}
  | .collAccept _ _ => {}
  | .collSplit _ _ => {}
  | .collChunk _ _ _ _ _ => {}
  | .collReduceComplete _ _ => {}
  | .collStepTimeout _ _ => {}
  | .collMismatchNotice _ => {}
  | .collEnd _ => {}
  | .planeBwWindow _ => {}
  | .kload _ => {}
  | .kslotZero _ => {}
  | .exreq _ => {}
  | .lattolWrite _ => {}
  | .c1Entry _ => {}
  | .c2Entry _ => {}
  | .c3Entry _ => {}
  | .wake _ => {}
  | .dbgdbRing _ => {}
  | .halt _ _ => {}
  | .resume _ _ => {}
  | .step _ _ => {}
  | .read _ _ _ => {}
  | .write _ _ _ _ => {}
  | .setbp _ _ _ => {}
  | .setwp _ _ _ => {}
  | .packageReset => {}
  | .bringupStage _ _ _ => {}
  | .registerWrite _ _ => {}
  | .longLatencyComplete _ _ _ => {}
  | .accumulatorInstructionComplete _ _ _ => {}
  | .idleClock _ => {}
  | .collContributionRead _ _ => {}

/-- The PFX of an instruction's unit. -/
def instrPfx : Instr → Option Pfx
  | .nop => none
  | .bra _ => none
  | .brc _ _ _ => none
  | .brx _ => none
  | .call _ _ _ _ _ => none
  | .callx _ _ _ _ _ => none
  | .ret => none
  | .unwind _ => none
  | .resize _ => none
  | .yield => none
  | .exit => none
  | .trap _ => none
  | .bkpt _ => none
  | .syscall _ => none
  | .mprog _ _ => none
  | .iadd p _ _ _ _ => p
  | .isub p _ _ _ _ => p
  | .iaddi p _ _ _ => p
  | .imul p _ _ _ _ => p
  | .imuli p _ _ _ => p
  | .imad p _ _ _ _ => p
  | .imin p _ _ _ _ => p
  | .imax p _ _ _ _ => p
  | .iabs p _ _ => p
  | .ineg p _ _ => p
  | .inot p _ _ => p
  | .popc p _ _ => p
  | .clz p _ _ => p
  | .ctz p _ _ => p
  | .brev p _ _ => p
  | .bswap p _ _ => p
  | .isad p _ _ _ _ => p
  | .shl p _ _ _ _ => p
  | .shr p _ _ _ _ => p
  | .sar p _ _ _ _ => p
  | .rotl p _ _ _ => p
  | .rotr p _ _ _ => p
  | .shli p _ _ _ _ => p
  | .shri p _ _ _ _ => p
  | .sari p _ _ _ _ => p
  | .and p _ _ _ => p
  | .or p _ _ _ => p
  | .xor p _ _ _ => p
  | .andn p _ _ _ => p
  | .orn p _ _ _ => p
  | .xnor p _ _ _ => p
  | .andi p _ _ _ => p
  | .ori p _ _ _ => p
  | .xori p _ _ _ => p
  | .bfx p _ _ _ _ => p
  | .bfxs p _ _ _ _ => p
  | .bfi p _ _ _ _ => p
  | .icmp p _ _ _ _ _ => p
  | .icmpi p _ _ _ _ => p
  | .sel p _ _ _ _ => p
  | .mov p _ _ => p
  | .movs p _ _ => p
  | .movm p _ _ => p
  | .mvm p _ _ => p
  | .movi p _ _ => p
  | .lea p _ _ _ _ => p
  | .idiv p _ _ _ _ => p
  | .ndiv p _ _ _ _ => p
  | .sadd _ _ _ => none
  | .saddi _ _ _ => none
  | .ssub _ _ _ => none
  | .smul _ _ _ => none
  | .sand _ _ _ => none
  | .sor _ _ _ => none
  | .sxor _ _ _ => none
  | .sshl _ _ _ => none
  | .sshr _ _ _ => none
  | .ssar _ _ _ => none
  | .scmp _ _ _ _ => none
  | .smovi _ _ => none
  | .smov _ _ => none
  | .rdlane _ _ _ => none
  | .wrlane _ _ _ => none
  | .smask _ _ => none
  | .mset _ _ => none
  | .sld _ _ _ _ _ => none
  | .sst _ _ _ _ _ => none
  | .sbr _ _ _ => none
  | .vany _ _ => none
  | .vall _ _ => none
  | .ballot _ _ => none
  | .vcount _ _ => none
  | .waitev _ _ => none
  | .ldc _ _ _ _ _ => none
  | .srd _ _ => none
  | .swr _ _ => none
  | .fadd p _ _ _ _ => p
  | .fsub p _ _ _ _ => p
  | .fmul p _ _ _ _ => p
  | .ffma p _ _ _ _ => p
  | .fmin p _ _ _ _ => p
  | .fmax p _ _ _ _ => p
  | .fminp p _ _ _ _ => p
  | .fmaxp p _ _ _ _ => p
  | .fcmp p _ _ _ _ _ => p
  | .fclass p _ _ _ => p
  | .frnd p _ _ _ _ => p
  | .fscalb p _ _ _ _ => p
  | .fabs p _ _ => p
  | .fneg p _ _ => p
  | .fnabs p _ _ => p
  | .fcpsgn p _ _ _ => p
  | .fdot2 p _ _ _ _ => p
  | .fclamp p _ _ _ _ => p
  | .pack p _ _ _ _ => p
  | .fdiv p _ _ _ _ => p
  | .fsqrt p _ _ _ => p
  | .fexp2 p _ _ _ => p
  | .flog2 p _ _ _ => p
  | .fsin p _ _ _ => p
  | .fcos p _ _ _ => p
  | .frcp p _ _ _ => p
  | .frsq p _ _ _ => p
  | .ftanh p _ _ _ => p
  | .fsigm p _ _ _ => p
  | .cvtf p _ _ _ _ _ => p
  | .cvti p _ _ _ _ _ _ => p
  | .qscale p _ _ _ _ => p
  | .shfl p _ _ _ _ => p
  | .shflup p _ _ _ _ => p
  | .shfldn p _ _ _ _ => p
  | .shflx p _ _ _ _ => p
  | .qswz p _ _ _ => p
  | .redux p _ _ _ => p
  | .scan p _ _ _ _ => p
  | .matchl p _ _ _ => p
  | .ld p _ _ _ _ _ => p
  | .lds p _ _ _ _ _ => p
  | .ldx p _ _ _ _ _ => p
  | .st p _ _ _ _ _ => p
  | .sts p _ _ _ _ _ => p
  | .stx p _ _ _ _ _ => p
  | .ldm p _ _ _ _ _ => p
  | .stm p _ _ _ _ _ => p
  | .atom _ _ _ _ _ _ _ _ _ _ _ => none
  | .atomr _ _ _ _ _ _ _ _ _ _ _ => none
  | .red _ _ _ _ _ _ _ _ _ _ _ => none
  | .barinit _ _ => none
  | .bararv _ _ _ => none
  | .baraw _ _ _ => none
  | .barwait _ => none
  | .bartest _ _ => none
  | .barexp _ _ => none
  | .bardrop _ _ => none
  | .psync _ => none
  | .fence _ _ => none
  | .fenceLite _ => none
  | .fenceHeavy _ => none
  | .fenceTc _ => none
  | .fenceShape _ => none
  | .cctl _ _ _ _ => none
  | .tcopy _ _ _ _ _ _ _ _ _ _ => none
  | .tstat _ _ => none
  | .trel _ => none
  | .strmFeeda _ => none
  | .strmFeedb _ => none
  | .strmReplay _ _ => none
  | .strmFlush => none
  | .coll _ _ _ _ => none
  | .tresume _ => none
  | .launchGrid _ _ _ => none
  | .launchNode _ _ _ => none
  | .shinv _ => none
  | .shinvAll => none
  | .mma _ _ _ _ _ _ _ _ => none
  | .accz _ _ => none
  | .accrd _ _ _ _ => none
  | .accwr _ _ _ _ => none
  | .accopScale _ _ => none
  | .accopAddrow _ _ => none
  | .accopRowmax _ _ => none
  | .accopRowsum _ _ => none
  | .accopExps _ _ _ => none
  | .accopMaskc _ _ => none
  | .accmvTotile _ _ _ => none
  | .accmvFromtile _ _ _ => none
  | .accmvSave _ _ => none
  | .accmvLoad _ _ => none
  | .laneAgeSaturate _ _ _ => none
  | .breakpoint _ _ => none
  | .memoryAccessComplete _ _ _ => none
  | .atomResult _ _ _ => none
  | .walkComplete _ _ _ _ => none
  | .prqEntryPost _ => none
  | .prqHeadWrite _ _ => none
  | .prqReplyRetry _ _ => none
  | .prqReplyFail _ _ => none
  | .xltInvAll _ => none
  | .xltInvFunc _ => none
  | .xltInvCtx _ => none
  | .xltInvCtxPages _ => none
  | .xltInvStage2Pages _ => none
  | .xltInvNonglobal _ => none
  | .xltInvDone => none
  | .llcCarveWrite _ => none
  | .llcCarveDone => none
  | .cspwinWrite _ _ => none
  | .copyStart => none
  | .tcopyAccept _ _ => none
  | .barrierEngineArrival _ => none
  | .copyComplete _ => none
  | .copyFaultPause _ => none
  | .copyFail _ => none
  | .streamFill _ _ => none
  | .mmaEntryStart _ => none
  | .mmaEntryComplete _ => none
  | .mxGate _ => none
  | .frameGrant _ => none
  | .frameWaitExpiry _ _ => none
  | .escapeSpillStart _ => none
  | .spillComplete _ => none
  | .refillComplete _ _ => none
  | .recordReadback _ _ => none
  | .trapDelivery _ _ => none
  | .escalation _ _ => none
  | .pendingTrapDelivery _ _ => none
  | .waitevTimeout _ _ => none
  | .packAged _ _ => none
  | .trqPop _ => none
  | .trqxRead _ => none
  | .park _ _ => none
  | .unpark _ _ => none
  | .release _ _ => none
  | .signal _ _ => none
  | .endtrap _ _ => none
  | .post _ => none
  | .failx _ _ => none
  | .kill _ _ => none
  | .pkdataRead _ => none
  | .pkdataWrite _ _ => none
  | .srdataRead _ => none
  | .srdataWrite _ _ => none
  | .inject _ _ => none
  | .emdataRead _ => none
  | .emdataWrite _ _ => none
  | .emctlGo _ => none
  | .csdataWrite _ _ => none
  | .csctlGo _ _ => none
  | .controlStoreInstall _ _ => none
  | .ctxPreempt _ => none
  | .ctxRestore _ => none
  | .ctxKill _ => none
  | .ctxcfgWrite _ _ => none
  | .launchQtailWrite _ _ => none
  | .qbaseWrite _ _ => none
  | .launchEntryRead _ => none
  | .nodeRelease _ => none
  | .workgroupPlace => none
  | .priorityStarvation _ => none
  | .workgroupFinish _ _ => none
  | .launchComplete _ => none
  | .nodeDiscard _ => none
  | .remoteRequestIngress _ => none
  | .remoteResponse _ _ => none
  | .controlRequest _ => none
  | .mirrorUpdate _ _ => none
  | .lossNotice _ => none
  | .fabLossTo _ => none
  | .peerClr _ => none
  | .linkCrcError _ => none
  | .portTrained _ => none
  | .linkRekey _ _ => none
  | .portDisable _ _ => none
  | .mint _ => none
  | .roll _ => none
  | .collAccept _ _ => none
  | .collSplit _ _ => none
  | .collChunk _ _ _ _ _ => none
  | .collReduceComplete _ _ => none
  | .collStepTimeout _ _ => none
  | .collMismatchNotice _ => none
  | .collEnd _ => none
  | .planeBwWindow _ => none
  | .kload _ => none
  | .kslotZero _ => none
  | .exreq _ => none
  | .lattolWrite _ => none
  | .c1Entry _ => none
  | .c2Entry _ => none
  | .c3Entry _ => none
  | .wake _ => none
  | .dbgdbRing _ => none
  | .halt _ _ => none
  | .resume _ _ => none
  | .step _ _ => none
  | .read _ _ _ => none
  | .write _ _ _ _ => none
  | .setbp _ _ _ => none
  | .setwp _ _ _ => none
  | .packageReset => none
  | .bringupStage _ _ _ => none
  | .registerWrite _ _ => none
  | .longLatencyComplete _ _ _ => none
  | .accumulatorInstructionComplete _ _ _ => none
  | .idleClock _ => none
  | .collContributionRead _ _ => none

/-- The instruction with its vector register fields mapped: parameters inside a microprogram (R64). -/
def instrMapV (f : VReg → VReg) : Instr → Instr
  | .nop => .nop
  | .bra o => .bra o
  | .brc m k o => .brc m k o
  | .brx a => .brx (f a)
  | .call dem argc retc ab off => .call dem argc retc (f ab) off
  | .callx dem argc retc ab r => .callx dem argc retc (f ab) r
  | .ret => .ret
  | .unwind n => .unwind n
  | .resize n => .resize n
  | .yield => .yield
  | .exit => .exit
  | .trap n => .trap n
  | .bkpt n => .bkpt n
  | .syscall n => .syscall n
  | .mprog q k => .mprog q k
  | .iadd p d a b x => .iadd (p.map (Pfx.mapF4 f)) (f d) (f a) (f b) x
  | .isub p d a b x => .isub (p.map (Pfx.mapF4 f)) (f d) (f a) (f b) x
  | .iaddi p d a i => .iaddi (p.map (Pfx.mapF4 f)) (f d) (f a) i
  | .imul p d a b x => .imul (p.map (Pfx.mapF4 f)) (f d) (f a) (f b) x
  | .imuli p d a i => .imuli (p.map (Pfx.mapF4 f)) (f d) (f a) i
  | .imad p d a b x => .imad (p.map (Pfx.mapF4 f)) (f d) (f a) (f b) x
  | .imin p d a b x => .imin (p.map (Pfx.mapF4 f)) (f d) (f a) (f b) x
  | .imax p d a b x => .imax (p.map (Pfx.mapF4 f)) (f d) (f a) (f b) x
  | .iabs p d a => .iabs (p.map (Pfx.mapF4 f)) (f d) (f a)
  | .ineg p d a => .ineg (p.map (Pfx.mapF4 f)) (f d) (f a)
  | .inot p d a => .inot (p.map (Pfx.mapF4 f)) (f d) (f a)
  | .popc p d a => .popc (p.map (Pfx.mapF4 f)) (f d) (f a)
  | .clz p d a => .clz (p.map (Pfx.mapF4 f)) (f d) (f a)
  | .ctz p d a => .ctz (p.map (Pfx.mapF4 f)) (f d) (f a)
  | .brev p d a => .brev (p.map (Pfx.mapF4 f)) (f d) (f a)
  | .bswap p d a => .bswap (p.map (Pfx.mapF4 f)) (f d) (f a)
  | .isad p d a b x => .isad (p.map (Pfx.mapF4 f)) (f d) (f a) (f b) x
  | .shl p d a b x => .shl (p.map (Pfx.mapF4 f)) (f d) (f a) (f b) x
  | .shr p d a b x => .shr (p.map (Pfx.mapF4 f)) (f d) (f a) (f b) x
  | .sar p d a b x => .sar (p.map (Pfx.mapF4 f)) (f d) (f a) (f b) x
  | .rotl p d a b => .rotl (p.map (Pfx.mapF4 f)) (f d) (f a) (f b)
  | .rotr p d a b => .rotr (p.map (Pfx.mapF4 f)) (f d) (f a) (f b)
  | .shli p d a pr n => .shli (p.map (Pfx.mapF4 f)) (f d) (f a) pr n
  | .shri p d a pr n => .shri (p.map (Pfx.mapF4 f)) (f d) (f a) pr n
  | .sari p d a pr n => .sari (p.map (Pfx.mapF4 f)) (f d) (f a) pr n
  | .and p d a b => .and (p.map (Pfx.mapF4 f)) (f d) (f a) (f b)
  | .or p d a b => .or (p.map (Pfx.mapF4 f)) (f d) (f a) (f b)
  | .xor p d a b => .xor (p.map (Pfx.mapF4 f)) (f d) (f a) (f b)
  | .andn p d a b => .andn (p.map (Pfx.mapF4 f)) (f d) (f a) (f b)
  | .orn p d a b => .orn (p.map (Pfx.mapF4 f)) (f d) (f a) (f b)
  | .xnor p d a b => .xnor (p.map (Pfx.mapF4 f)) (f d) (f a) (f b)
  | .andi p d a i => .andi (p.map (Pfx.mapF4 f)) (f d) (f a) i
  | .ori p d a i => .ori (p.map (Pfx.mapF4 f)) (f d) (f a) i
  | .xori p d a i => .xori (p.map (Pfx.mapF4 f)) (f d) (f a) i
  | .bfx p d a len pos => .bfx (p.map (Pfx.mapF4 f)) (f d) (f a) len pos
  | .bfxs p d a len pos => .bfxs (p.map (Pfx.mapF4 f)) (f d) (f a) len pos
  | .bfi p d a len pos => .bfi (p.map (Pfx.mapF4 f)) (f d) (f a) len pos
  | .icmp p m c a b x => .icmp (p.map (Pfx.mapF4 f)) m c (f a) (f b) x
  | .icmpi p m c a i => .icmpi (p.map (Pfx.mapF4 f)) m c (f a) i
  | .sel p d a b m => .sel (p.map (Pfx.mapF4 f)) (f d) (f a) (f b) m
  | .mov p d a => .mov (p.map (Pfx.mapF4 f)) (f d) (f a)
  | .movs p d a => .movs (p.map (Pfx.mapF4 f)) (f d) a
  | .movm p d m => .movm (p.map (Pfx.mapF4 f)) (f d) m
  | .mvm p m a => .mvm (p.map (Pfx.mapF4 f)) m (f a)
  | .movi p d i => .movi (p.map (Pfx.mapF4 f)) (f d) i
  | .lea p d a b x => .lea (p.map (Pfx.mapF4 f)) (f d) (f a) (f b) x
  | .idiv p d a b la => .idiv (p.map (Pfx.mapF4 f)) (f d) (f a) (f b) la
  | .ndiv p d a b la => .ndiv (p.map (Pfx.mapF4 f)) (f d) (f a) (f b) la
  | .sadd d a b => .sadd d a b
  | .saddi d a i => .saddi d a i
  | .ssub d a b => .ssub d a b
  | .smul d a b => .smul d a b
  | .sand d a b => .sand d a b
  | .sor d a b => .sor d a b
  | .sxor d a b => .sxor d a b
  | .sshl d a b => .sshl d a b
  | .sshr d a b => .sshr d a b
  | .ssar d a b => .ssar d a b
  | .scmp d a b c => .scmp d a b c
  | .smovi d i => .smovi d i
  | .smov d a => .smov d a
  | .rdlane d a n => .rdlane d (f a) n
  | .wrlane d a n => .wrlane (f d) a n
  | .smask d m => .smask d m
  | .mset m a => .mset m a
  | .sld d a w i la => .sld d a w i la
  | .sst d a w i la => .sst d a w i la
  | .sbr d c i => .sbr d c i
  | .vany d a => .vany d (f a)
  | .vall d a => .vall d (f a)
  | .ballot m a => .ballot m (f a)
  | .vcount d a => .vcount d (f a)
  | .waitev d c => .waitev d c
  | .ldc d a w i la => .ldc d a w i la
  | .srd d r => .srd d r
  | .swr d r => .swr d r
  | .fadd p d a b t => .fadd (p.map (Pfx.mapF4 f)) (f d) (f a) (f b) t
  | .fsub p d a b t => .fsub (p.map (Pfx.mapF4 f)) (f d) (f a) (f b) t
  | .fmul p d a b t => .fmul (p.map (Pfx.mapF4 f)) (f d) (f a) (f b) t
  | .ffma p d a b t => .ffma (p.map (Pfx.mapF4 f)) (f d) (f a) (f b) t
  | .fmin p d a b t => .fmin (p.map (Pfx.mapF4 f)) (f d) (f a) (f b) t
  | .fmax p d a b t => .fmax (p.map (Pfx.mapF4 f)) (f d) (f a) (f b) t
  | .fminp p d a b t => .fminp (p.map (Pfx.mapF4 f)) (f d) (f a) (f b) t
  | .fmaxp p d a b t => .fmaxp (p.map (Pfx.mapF4 f)) (f d) (f a) (f b) t
  | .fcmp p m c a b x => .fcmp (p.map (Pfx.mapF4 f)) m c (f a) (f b) x
  | .fclass p d a t => .fclass (p.map (Pfx.mapF4 f)) (f d) (f a) t
  | .frnd p d a n t => .frnd (p.map (Pfx.mapF4 f)) (f d) (f a) n t
  | .fscalb p d a b t => .fscalb (p.map (Pfx.mapF4 f)) (f d) (f a) (f b) t
  | .fabs p d a => .fabs (p.map (Pfx.mapF4 f)) (f d) (f a)
  | .fneg p d a => .fneg (p.map (Pfx.mapF4 f)) (f d) (f a)
  | .fnabs p d a => .fnabs (p.map (Pfx.mapF4 f)) (f d) (f a)
  | .fcpsgn p d a b => .fcpsgn (p.map (Pfx.mapF4 f)) (f d) (f a) (f b)
  | .fdot2 p d a b t => .fdot2 (p.map (Pfx.mapF4 f)) (f d) (f a) (f b) t
  | .fclamp p d a b t => .fclamp (p.map (Pfx.mapF4 f)) (f d) (f a) (f b) t
  | .pack p d a b x => .pack (p.map (Pfx.mapF4 f)) (f d) (f a) (f b) x
  | .fdiv p d a b la => .fdiv (p.map (Pfx.mapF4 f)) (f d) (f a) (f b) la
  | .fsqrt p d a la => .fsqrt (p.map (Pfx.mapF4 f)) (f d) (f a) la
  | .fexp2 p d a la => .fexp2 (p.map (Pfx.mapF4 f)) (f d) (f a) la
  | .flog2 p d a la => .flog2 (p.map (Pfx.mapF4 f)) (f d) (f a) la
  | .fsin p d a la => .fsin (p.map (Pfx.mapF4 f)) (f d) (f a) la
  | .fcos p d a la => .fcos (p.map (Pfx.mapF4 f)) (f d) (f a) la
  | .frcp p d a la => .frcp (p.map (Pfx.mapF4 f)) (f d) (f a) la
  | .frsq p d a la => .frsq (p.map (Pfx.mapF4 f)) (f d) (f a) la
  | .ftanh p d a la => .ftanh (p.map (Pfx.mapF4 f)) (f d) (f a) la
  | .fsigm p d a la => .fsigm (p.map (Pfx.mapF4 f)) (f d) (f a) la
  | .cvtf p d a src dst la => .cvtf (p.map (Pfx.mapF4 f)) (f d) (f a) src dst la
  | .cvti p d a src dst sat la => .cvti (p.map (Pfx.mapF4 f)) (f d) (f a) src dst sat la
  | .qscale p d a fmt la => .qscale (p.map (Pfx.mapF4 f)) (f d) (f a) fmt la
  | .shfl p d a b seg => .shfl (p.map (Pfx.mapF4 f)) (f d) (f a) (f b) seg
  | .shflup p d a seg n => .shflup (p.map (Pfx.mapF4 f)) (f d) (f a) seg n
  | .shfldn p d a seg n => .shfldn (p.map (Pfx.mapF4 f)) (f d) (f a) seg n
  | .shflx p d a seg n => .shflx (p.map (Pfx.mapF4 f)) (f d) (f a) seg n
  | .qswz p d a pat => .qswz (p.map (Pfx.mapF4 f)) (f d) (f a) pat
  | .redux p d a k => .redux (p.map (Pfx.mapF4 f)) (f d) (f a) k
  | .scan p d a ex k => .scan (p.map (Pfx.mapF4 f)) (f d) (f a) ex k
  | .matchl p d a x => .matchl (p.map (Pfx.mapF4 f)) (f d) (f a) x
  | .ld p d a w i la => .ld (p.map (Pfx.mapF4 f)) (f d) (f a) w i la
  | .lds p d a w i la => .lds (p.map (Pfx.mapF4 f)) (f d) (f a) w i la
  | .ldx p d a w i la => .ldx (p.map (Pfx.mapF4 f)) (f d) (f a) w i la
  | .st p d a w i la => .st (p.map (Pfx.mapF4 f)) (f d) (f a) w i la
  | .sts p d a w i la => .sts (p.map (Pfx.mapF4 f)) (f d) (f a) w i la
  | .stx p d a w i la => .stx (p.map (Pfx.mapF4 f)) (f d) (f a) w i la
  | .ldm p d a w i la => .ldm (p.map (Pfx.mapF4 f)) (f d) (f a) w i la
  | .stm p d a w i la => .stm (p.map (Pfx.mapF4 f)) (f d) (f a) w i la
  | .atom d a b la sm hint c width scope order k => .atom (f d) (f a) (f b) la sm hint (f c) width scope order k
  | .atomr d a b la sm hint c width scope order k => .atomr (f d) (f a) (f b) la sm hint (f c) width scope order k
  | .red d a b la sm hint c width scope order k => .red (f d) (f a) (f b) la sm hint (f c) width scope order k
  | .barinit a b => .barinit (f a) (f b)
  | .bararv m a b => .bararv m (f a) (f b)
  | .baraw m a b => .baraw m (f a) (f b)
  | .barwait a => .barwait (f a)
  | .bartest m a => .bartest m (f a)
  | .barexp a b => .barexp (f a) (f b)
  | .bardrop a b => .bardrop (f a) (f b)
  | .psync a => .psync (f a)
  | .fence scope k => .fence scope k
  | .fenceLite scope => .fenceLite scope
  | .fenceHeavy scope => .fenceHeavy scope
  | .fenceTc scope => .fenceTc scope
  | .fenceShape scope => .fenceShape scope
  | .cctl a w i la => .cctl (f a) w i la
  | .tcopy tile base bar acq rel dig la shape scope rop => .tcopy tile base bar acq rel dig la shape scope rop
  | .tstat d t => .tstat d t
  | .trel t => .trel t
  | .strmFeeda t => .strmFeeda t
  | .strmFeedb t => .strmFeedb t
  | .strmReplay n k => .strmReplay n k
  | .strmFlush => .strmFlush
  | .coll base bar la rec => .coll base bar la rec
  | .tresume t => .tresume t
  | .launchGrid r st la => .launchGrid r st la
  | .launchNode r st la => .launchNode r st la
  | .shinv i => .shinv i
  | .shinvAll => .shinvAll
  | .mma acc ty kch asc la zf bsel bsc => .mma acc ty kch (f asc) la zf bsel bsc
  | .accz acc x => .accz acc x
  | .accrd d acc col x => .accrd (f d) acc col x
  | .accwr a acc col x => .accwr (f a) acc col x
  | .accopScale a acc => .accopScale (f a) acc
  | .accopAddrow a acc => .accopAddrow (f a) acc
  | .accopRowmax d acc => .accopRowmax (f d) acc
  | .accopRowsum d acc => .accopRowsum (f d) acc
  | .accopExps a acc c => .accopExps (f a) acc c
  | .accopMaskc acc off => .accopMaskc acc off
  | .accmvTotile t acc et => .accmvTotile t acc et
  | .accmvFromtile t acc et => .accmvFromtile t acc et
  | .accmvSave t acc => .accmvSave t acc
  | .accmvLoad t acc => .accmvLoad t acc
  | .laneAgeSaturate c slot l => .laneAgeSaturate c slot l
  | .breakpoint c slot => .breakpoint c slot
  | .memoryAccessComplete c slot id => .memoryAccessComplete c slot id
  | .atomResult c slot id => .atomResult c slot id
  | .walkComplete ctx root va kind => .walkComplete ctx root va kind
  | .prqEntryPost f => .prqEntryPost f
  | .prqHeadWrite f v => .prqHeadWrite f v
  | .prqReplyRetry f tag => .prqReplyRetry f tag
  | .prqReplyFail f tag => .prqReplyFail f tag
  | .xltInvAll v => .xltInvAll v
  | .xltInvFunc v => .xltInvFunc v
  | .xltInvCtx v => .xltInvCtx v
  | .xltInvCtxPages v => .xltInvCtxPages v
  | .xltInvStage2Pages v => .xltInvStage2Pages v
  | .xltInvNonglobal v => .xltInvNonglobal v
  | .xltInvDone => .xltInvDone
  | .llcCarveWrite v => .llcCarveWrite v
  | .llcCarveDone => .llcCarveDone
  | .cspwinWrite ctx v => .cspwinWrite ctx v
  | .copyStart => .copyStart
  | .tcopyAccept c slot => .tcopyAccept c slot
  | .barrierEngineArrival id => .barrierEngineArrival id
  | .copyComplete id => .copyComplete id
  | .copyFaultPause id => .copyFaultPause id
  | .copyFail id => .copyFail id
  | .streamFill c b => .streamFill c b
  | .mmaEntryStart c => .mmaEntryStart c
  | .mmaEntryComplete c => .mmaEntryComplete c
  | .mxGate c => .mxGate c
  | .frameGrant c => .frameGrant c
  | .frameWaitExpiry c slot => .frameWaitExpiry c slot
  | .escapeSpillStart c => .escapeSpillStart c
  | .spillComplete c => .spillComplete c
  | .refillComplete c slot => .refillComplete c slot
  | .recordReadback c slot => .recordReadback c slot
  | .trapDelivery c slot => .trapDelivery c slot
  | .escalation c slot => .escalation c slot
  | .pendingTrapDelivery c slot => .pendingTrapDelivery c slot
  | .waitevTimeout c slot => .waitevTimeout c slot
  | .packAged c slot => .packAged c slot
  | .trqPop c => .trqPop c
  | .trqxRead c => .trqxRead c
  | .park c slot => .park c slot
  | .unpark c slot => .unpark c slot
  | .release c lanes => .release c lanes
  | .signal c slot => .signal c slot
  | .endtrap c slot => .endtrap c slot
  | .post c => .post c
  | .failx c lanes => .failx c lanes
  | .kill c slot => .kill c slot
  | .pkdataRead c => .pkdataRead c
  | .pkdataWrite c v => .pkdataWrite c v
  | .srdataRead c => .srdataRead c
  | .srdataWrite c v => .srdataWrite c v
  | .inject c v => .inject c v
  | .emdataRead c => .emdataRead c
  | .emdataWrite c v => .emdataWrite c v
  | .emctlGo c => .emctlGo c
  | .csdataWrite c v => .csdataWrite c v
  | .csctlGo c len => .csctlGo c len
  | .controlStoreInstall c k => .controlStoreInstall c k
  | .ctxPreempt ctx => .ctxPreempt ctx
  | .ctxRestore ctx => .ctxRestore ctx
  | .ctxKill ctx => .ctxKill ctx
  | .ctxcfgWrite ctx v => .ctxcfgWrite ctx v
  | .launchQtailWrite q v => .launchQtailWrite q v
  | .qbaseWrite q v => .qbaseWrite q v
  | .launchEntryRead q => .launchEntryRead q
  | .nodeRelease uid => .nodeRelease uid
  | .workgroupPlace => .workgroupPlace
  | .priorityStarvation uid => .priorityStarvation uid
  | .workgroupFinish uid idx => .workgroupFinish uid idx
  | .launchComplete uid => .launchComplete uid
  | .nodeDiscard uid => .nodeDiscard uid
  | .remoteRequestIngress r => .remoteRequestIngress r
  | .remoteResponse id r => .remoteResponse id r
  | .controlRequest r => .controlRequest r
  | .mirrorUpdate m b => .mirrorUpdate m b
  | .lossNotice n => .lossNotice n
  | .fabLossTo id => .fabLossTo id
  | .peerClr v => .peerClr v
  | .linkCrcError port => .linkCrcError port
  | .portTrained port => .portTrained port
  | .linkRekey port vc => .linkRekey port vc
  | .portDisable port b => .portDisable port b
  | .mint v => .mint v
  | .roll v => .roll v
  | .collAccept c slot => .collAccept c slot
  | .collSplit id shares => .collSplit id shares
  | .collChunk pkg ctx rseq token ch => .collChunk pkg ctx rseq token ch
  | .collReduceComplete id k => .collReduceComplete id k
  | .collStepTimeout id k => .collStepTimeout id k
  | .collMismatchNotice id => .collMismatchNotice id
  | .collEnd id => .collEnd id
  | .planeBwWindow credits => .planeBwWindow credits
  | .kload v => .kload v
  | .kslotZero k => .kslotZero k
  | .exreq v => .exreq v
  | .lattolWrite v => .lattolWrite v
  | .c1Entry c => .c1Entry c
  | .c2Entry c => .c2Entry c
  | .c3Entry die => .c3Entry die
  | .wake u => .wake u
  | .dbgdbRing c => .dbgdbRing c
  | .halt c slot => .halt c slot
  | .resume c slot => .resume c slot
  | .step c slot => .step c slot
  | .read c slot v => .read c slot v
  | .write c slot v w => .write c slot v w
  | .setbp c k v => .setbp c k v
  | .setwp c k v => .setwp c k v
  | .packageReset => .packageReset
  | .bringupStage n pkg peers => .bringupStage n pkg peers
  | .registerWrite t v => .registerWrite t v
  | .longLatencyComplete c slot id => .longLatencyComplete c slot id
  | .accumulatorInstructionComplete c slot id => .accumulatorInstructionComplete c slot id
  | .idleClock c => .idleClock c
  | .collContributionRead id k => .collContributionRead id k

/-- Frame registers of a list of operands: computed registers and `vz` are none (R34). -/
def frameRegs (us : List VUse) : List Nat :=
  us.flatMap (fun u => if u.reg.toNat ≤ 111 then (List.range u.n).map (fun i => u.reg.toNat + i) else [])

def Uses.reads (u : Uses) : List Nat := frameRegs (u.rd ++ u.raw)
def Uses.writes (u : Uses) : List Nat := frameRegs u.wr

/-! ## The issuing unit -/

/-- What a meaning works from: the state, the unit, its pack; the lanes it executes for (`ig`; `all` adds the partners of R417), those unmasked
and untagged (`act`), those masked; where the lanes go next. -/
structure Ctx where
  s : State
  u : Cur
  p : Pack
  q : LRec
  pfx : Pfx
  ig : Word
  all : Word
  act : Word
  masked : Word
  ipc : DWord
  next : DWord
  nextK : Option Nat
  tagged : List LTrap
  deriving DecidableEq, Repr

/-- What a meaning answers: the state with its effects, its lanes' traps and translation faults, the lanes whose `lpc` it set itself; or that it
cannot issue now, with the idle cause of R380 (0 collective, 1 copy, 2 barrier, 3 frame, 6 matrix, 7 dependence). -/
structure Res where
  s : State
  traps : List LTrap := []
  faults : List (Nat × FaultImg) := []
  stay : Word := 0
  stall : Option Nat := none
  /-- The token of a long-latency instruction: its kind, and a trap met at completion. -/
  kind : Nat := 2
  late : List LTrap := []
  /-- The tile an ACCMV writes (true) or reads, until it completes. -/
  tile : Option (Nat × Bool) := none
  /-- Lanes whose access waits for the start of a cluster member (R129). -/
  pend : Word := 0
  /-- An acquire: no later instruction issues before it completes (R351). -/
  tight : Bool := false
  deriving DecidableEq, Repr

/-- A source register lane. -/
def Ctx.cell (c : Ctx) (r l : Nat) : VCell := c.s.readV c.p c.u.depth r l

def Ctx.rv (c : Ctx) (r : VReg) (l : Nat) : Word := (c.cell r.toNat l).val

/-- A pair (R35, R71): the even register holds bits [31:0]; `vz` as a pair is zero. -/
def Ctx.rv2 (c : Ctx) (r : VReg) (l : Nat) : DWord :=
  if r.toNat ≤ 111 then (c.rv (r + 1) l) ++ (c.rv r l) else 0

def Ctx.psn (c : Ctx) (r : VReg) (n l : Nat) : Bool :=
  decide (r.toNat ≤ 111) && (List.range n).any (fun i => (c.cell (r.toNat + i) l).psn)

def Ctx.psnOf (c : Ctx) (us : List VUse) (l : Nat) : Bool := us.any (fun u => c.psn u.reg u.n l)

def Ctx.tagOf (c : Ctx) (u : VUse) (l : Nat) : Option Nat :=
  if u.reg.toNat ≤ 111 then (List.range u.n).find? (fun i => (c.cell (u.reg.toNat + i) l).tag) |>.map (fun i => u.reg.toNat + i)
  else none

def Ctx.isHelper (c : Ctx) (l : Nat) : Bool := (c.p.lane l).st == .helper

/-- Lane number within the program's view: a partner counts as its lane (R417). -/
def Ctx.lid (c : Ctx) (l : Nat) : Nat := if c.q.paired then l % 16 else l

def withPartners (paired : Bool) (m : Word) : Word := if paired then m ||| (m <<< 16) else m

/-- The words of the unit before its instruction's own word. -/
def prefixWords (ws : List Nat) : Nat := ws.length - (takeImx (takePfx ws).2).2.length

/-- Where a unit's lanes go next, inside a microprogram or outside (R64). -/
def Cur.nextPc (u : Cur) : DWord × Option Nat :=
  match u.k with
  | none => (u.pc + BitVec.ofNat 64 (4 * u.words.length), none)
  | some k => if k + u.words.length ≥ u.mlen then (u.pc + 4, none) else (u.pc, some (k + u.words.length))

/-- The branch target `off` words from the instruction's own word (R26); inside a microprogram a word index (R65). -/
def Ctx.target (c : Ctx) (off : Int) : DWord × Option Nat :=
  match c.u.k with
  | none => (c.ipc + BitVec.ofInt 64 (4 * off), none)
  | some k => (c.u.pc, some ((k + prefixWords c.u.words : Nat) + off).toNat)

/-- A lane moves to an address. -/
def Lane.goto (t : DWord × Option Nat) (x : Lane) : Lane := { x with pc := t.1, k := t.2, released := false, count := 0 }

/-! ## Interlocks -/

/-- Does an instruction touch what one in flight still writes, or write what it still reads (R39)? -/
def Tok.blocks (t : Tok) (u : Uses) (depth : Nat) : Bool :=
  let rs := u.reads.map (fun r => depth * 128 + r)
  let ws := u.writes.map (fun r => depth * 128 + r)
  (rs ++ ws).any (fun r => t.wr.contains r) || ws.any (fun r => t.rd.contains r) ||
  (u.sr ++ u.sw).any (fun r => t.sw.contains r) || u.sw.any (fun r => t.sr.contains r) || u.mw.any (fun r => t.mr.contains r) || (u.mr ++ u.mw).any (fun r => t.mw.contains r) ||
  (t.acc.isSome && t.acc == u.acc)

/-- Tokens that hold an instruction back: a window used up, a dependence, or, for an instruction that closes windows, any of its lanes' (R39, R40). -/
def Pack.blockers (p : Pack) (u : Uses) (ig : Word) (depth : Nat) : List Tok :=
  p.toks.filter (fun t => t.left == 0 || t.blocks u depth || (u.closes && (t.lanes &&& ig) != 0))

/-- Another instruction has issued: every window shrinks by one (R39). An accumulator instruction has none (R268); its count stays at one, from where
it completes by itself. -/
def Pack.ageToks (p : Pack) : Pack :=
  { p with toks := p.toks.map (fun t => { t with left := if t.kind = 3 ∧ t.left = 1 then 1 else t.left - 1 }) }

/-- The idle cause of a group that an instruction in flight holds back (R380): the accumulator order of R268, which for ACCMV counts as copy (R279), else
dependence. -/
def blockCause (i : Instr) (us : Uses) (ts : List Tok) : Nat :=
  if us.acc.isSome && ts.any (fun t => t.acc == us.acc) then
    match i with
    | .accmvTotile _ _ _ | .accmvFromtile _ _ _ | .accmvSave _ _ | .accmvLoad _ _ => 1
    | _ => 6
  else 7

/-! ## Passes -/

/-- Good lane positions and full passes of a core (R217). -/
def Core.good (c : Core) : Nat := popcount c.lanemap

/-- Pass of a logical lane (R218); a partner takes the placement of R418. -/
def passOf (g : Nat) (paired : Bool) (l : Nat) : Nat :=
  (if paired && decide (l ≥ 16) then 16 + (l - 16 + 1) % 16 else l) / g

/-- Passes an issue group takes (R218). -/
def passCount (g : Nat) (paired : Bool) (m : Word) : Nat := ((lanesOf m).map (passOf g paired)).dedup.length

/-! ## Translation faults of lanes -/

/-- Does a released lane's resume address stand in `lpc` already (R116, R121)? After a fetch fault it is the replay address itself. -/
def Lane.stands (x : Lane) : Bool := x.released && (x.replay != x.pc || x.replayK != x.k)

/-- A lane goes past the unit: to its resume address if it replays, and past the unit if that is the unit itself, as after a fetch fault (R116, R121, R388). -/
def Lane.past (next : DWord × Option Nat) (x : Lane) : Lane :=
  if x.stands then { x with released := false, failx := none }
  else { x with released := false, failx := none, pc := next.1, k := next.2 }

/-- A lane waits: with the unit as its replay address and its resume address in `lpc` (R116). -/
def Lane.await (u : Cur) (next : DWord × Option Nat) (why : WaitWhy) (x : Lane) : Lane :=
  { x.past next with st := .waiting, why := why, helps := x.st == .helper, replay := u.pc, replayK := u.k, words := u.words, age := 0, ownAt := u.ownAt }

/-- A lane meets a translation fault (R116). -/
def Lane.waitOn (u : Cur) (next : DWord × Option Nat) (img : FaultImg) (x : Lane) : Lane := x.await u next (.fault img)

/-- Trap queue entries for the faults of one instruction: one for each distinct 4 KiB page, with the lanes that faulted on it (R117, R398). -/
def faultEntries (u : Cur) (fs : List (Nat × FaultImg)) : List TrqE :=
  let pages := (fs.map (fun f => f.2.va.toNat / 4096)).dedup
  pages.filterMap (fun pg =>
    let mine := fs.filter (fun f => f.2.va.toNat / 4096 == pg)
    match mine with
    | [] => none
    | f :: _ => some { slot := u.slot, code := 0, ctx := f.2.ctx, img := some { f.2 with lanes := laneMask (mine.map Prod.fst) } })

/-! ## After an issue -/

/-- Ages after an issue by the lanes of `ig` (R211): `el` was eligible at its depth. -/
def Pack.ages (p : Pack) (el ig : Word) : Pack :=
  (p.updLanes ig (fun x => { x with age := 0 })).updLanes (el &&& ~~~ig) (fun x => { x with age := min 256 (x.age + 1) })

/-- A parked lane whose rejoin set, kept to the lanes of `el`, is empty becomes active (R212). -/
def Lane.rejoinIn (el : Word) (x : Lane) : Lane :=
  if x.st == .parked then
    if x.rejoin &&& el == 0 then { x with st := .active, rejoin := 0, age := 0 } else { x with rejoin := x.rejoin &&& el }
  else x

/-- The same of the lanes that a delivery keeps (R388). -/
def Delivery.rejoinIn (el : Word) (d : Delivery) : Delivery := { d with kept := d.kept.map (fun x => (x.1, x.2.rejoinIn el)) }

/-- Rejoin sets after an issue of the lanes of `ig` (R212): lanes that issued or are no longer eligible leave; a parked lane outside `ig` whose set is empty becomes active,
also one that a delivery keeps. -/
def Pack.rejoins (p : Pack) (ig : Word) : Pack :=
  let el := p.lanesWhere (fun x => (x.st == .active || x.st == .helper) && !x.blocked) &&& ~~~ig
  { p.updLanes (p.lanesWhere (fun x => x.st == .parked) &&& ~~~ig) (Lane.rejoinIn el) with handler := p.handler.map (Delivery.rejoinIn el) }

/-- The lanes of the unit that neither set their own `lpc` nor wait go on. -/
def Pack.advance (p : Pack) (c : Ctx) (m keep : Word) : Pack :=
  p.updLanes m (Lane.past (c.next, c.nextK)) |>.updLanes (m &&& ~~~keep) (fun x => { x with count := 0 })

/-- The token of a long-latency instruction (R38, R39). -/
def mkTok (c : Ctx) (u : Uses) (n id kind : Nat) (tile : Option (Nat × Bool)) (trap : Option Trap) : Tok :=
  { id := id, left := if c.p.stepping then 0 else if kind = 3 then 2 else n, lanes := c.ig, kind := kind, depth := c.u.depth,
    wr := u.writes.map (fun r => c.u.depth * 128 + r), rd := u.reads.map (fun r => c.u.depth * 128 + r),
    sw := u.sw, mw := u.mw, acc := u.acc, tile := tile, trap := trap }

/-- A token that some lanes still owe their access to (R129): what they read after issue may not be written (R39), and behind an acquire nothing issues (R351). -/
def Tok.stalled (t : Tok) (c : Ctx) (us : Uses) (r : Res) : Tok :=
  if r.pend = 0 ∧ t.kind ≠ 6 then t
  else { t with left := if r.tight then 0 else t.left,
                pend := if r.pend = 0 then none else some { c.u with ig := r.pend }, sr := if r.pend = 0 then [] else us.sr, mr := if r.pend = 0 then [] else us.mr }

/-- Do lanes still owe an access that they have issued (R129)? -/
def Pack.owes (p : Pack) (m : Word) : Bool := p.toks.any (fun t => match t.pend with | some u => (u.ig &&& m) != 0 | none => false)

/-- The lanes eligible at a depth (R210, R211). -/
def Pack.eligibles (p : Pack) (depth : Nat) : Word := laneMask (lanes32.filter (fun l => p.eligible l && p.selDepth l == depth))

def Ctx.eligibles (c : Ctx) : Word := c.p.eligibles c.u.depth

/-- The unit's pack after its own effect: windows shrink, its lanes go on, wait or trap; ages and rejoin sets. -/
def endPack (c : Ctx) (us : Uses) (r : Res) (p : Pack) : Pack :=
  let p := p.ageToks
  let p := p.advance c (c.ig &&& ~~~r.stay &&& ~~~(laneMask (r.faults.map Prod.fst))) (laneMask (r.traps.map LTrap.l) ||| r.pend)
  let p := r.faults.foldl (fun p f => p.updLane f.1 (Lane.waitOn c.u (c.next, c.nextK) f.2)) p
  let p := (p.ages c.eligibles c.ig).rejoins c.ig
  let p := if p.handler.isSome || (us.reads ++ us.writes).isEmpty then p
    else { p with frames := p.frames.modify c.u.depth (fun f => { f with touched := c.s.ownSteps }) }
  { p with lastIg := c.ig, ownStall := none, lastAct := p.lastAct &&& ~~~c.ig }

/-- Instructions, passes and changes of group are counted (R437). -/
def endCounts (c : Ctx) (s : State) : State :=
  let s := (s.count c.u.core 2 c.p.ctx 1).count c.u.core 3 c.p.ctx (passCount (s.core c.u.core).good c.q.paired c.all)
  if (c.ig &&& ~~~c.p.lastIg) != 0 then s.count c.u.core 10 c.p.ctx 1 else s

/-- A long-latency instruction leaves its token (R38, R39). -/
def endToken (c : Ctx) (us : Uses) (r : Res) (s : State) : State :=
  match us.la with
  | none => s
  | some n =>
    let late := match pickTrap r.late with
      | none => none
      | some (t, ls, df) => some (mkTrap c.s c.u t ls df)
    s.fresh.2.updPack c.u.core c.u.slot (fun p => { p with toks := p.toks ++ [(mkTok c us n s.fresh.1 r.kind r.tile late).stalled c us r] })

/-- The lanes' traps become one trap of the pack (R383). -/
def endTraps (c : Ctx) (ts : List LTrap) (s : State) : State :=
  match pickTrap ts with
  | none => s
  | some (t, ls, df) => s.raise c.u.core c.u.slot (mkTrap s c.u t ls df)

/-- Everything a unit's issue does after its own effect. -/
def finish (c : Ctx) (us : Uses) (r : Res) : State :=
  match r.stall with
  | some why => r.s.updPack c.u.core c.u.slot (fun p => { p with ownStall := some why })
  | none =>
    let s := r.s.updPack c.u.core c.u.slot (endPack c us r)
    let s := s.updCore c.u.core (fun k => { k with trq := k.trq ++ faultEntries c.u r.faults })
    endTraps c r.traps (endToken c us r (endCounts c s))

/-- Stalled lanes of an instruction in flight have gone on (R129): their traps and faults are those of its completion, and lanes that still wait stay in its token. -/
def resumed (c : Ctx) (id : Nat) (r : Res) : State :=
  let m := c.ig &&& ~~~r.pend &&& ~~~(laneMask (r.traps.map LTrap.l)) &&& ~~~(laneMask (r.faults.map Prod.fst))
  let s := r.s.updPack c.u.core c.u.slot (fun p =>
    let p := p.updLanes m (fun x => { x with count := 0 })
    let p := r.faults.foldl (fun p f => p.updLane f.1 (fun x => Lane.waitOn c.u (x.pc, x.k) f.2 { x with released := false })) p
    { p with toks := p.toks.map (fun t => if t.id = id then
        { t with pend := if r.pend = 0 then none else some { c.u with ig := r.pend, resume := none } } else t) })
  endTraps c r.traps (s.updCore c.u.core (fun k => { k with trq := k.trq ++ faultEntries c.u r.faults }))

/-- The same trap for every lane of the group that is not a helper (R13, R216). -/
def groupTrap (c : Ctx) (code detail : Nat) (va : DWord := 0) (info : List Byte := []) : List LTrap :=
  (lanesOf c.ig).filter (fun l => !c.isHelper l) |>.map (fun l => { l := l, code := code, detail := detail, va := va, info := info })

/-! ## One unit -/

/-- The lanes masked by PFX.MR (R31). A partner is masked with its lane. -/
def maskedLanes (p : Pack) (paired : Bool) (ig all : Word) (mr : Nat) : Word :=
  if mr = 0 then 0 else all &&& ~~~(withPartners paired (p.mreg ig mr &&& (if paired then 0xFFFF else 0xFFFFFFFF)))

/-- The first tagged operand a lane reads, in the order A, B, D, F4, scales (R85). -/
def tagTrap (c : Ctx) (us : Uses) (l : Nat) : Option LTrap :=
  [OpdPos.A, .B, .D, .F4, .scale].findSome? (fun o => (us.rd.filter (·.opd == o)).findSome? (fun u => (c.tagOf u l).map (fun r =>
    { l := l, code := tSNAN, info := [BitVec.ofNat 8 u.opd.code, BitVec.ofNat 8 r] })))

/-- The context of a unit for the lanes `ig`. -/
def mkCtx (s : State) (u : Cur) (p : Pack) (us : Uses) (pfx : Option Pfx) (ig : Word) : Ctx :=
  let q := s.lrecOf p
  let all := withPartners q.paired ig
  let f := pfx.getD Pfx.neutral
  let masked := maskedLanes p q.paired ig all f.mr.toNat
  let c : Ctx := { s := s, u := u, p := p, q := q, pfx := f, ig := ig, all := all, act := all &&& ~~~masked, masked := masked,
                   ipc := u.pc + BitVec.ofNat 64 (4 * prefixWords u.words), next := u.nextPc.1, nextK := u.nextPc.2, tagged := [] }
  let tg := (lanesOf c.act).filterMap (fun l => if c.isHelper (c.lid l) then none else (tagTrap c us l).map (fun t => { t with l := c.lid l }))
  let bad := withPartners q.paired (laneMask (tg.map LTrap.l))
  { c with act := c.act &&& ~~~bad, tagged := tg }

/-- Does the unit name a register outside the frame (R37)? -/
def outOfFrame (c : Ctx) (us : Uses) : Bool :=
  let n := 8 * (c.p.frameAt c.u.depth).size
  (us.reads ++ us.writes).any (fun r => decide (n ≤ r))

/-- Lanes released with a FAIL reply trap XLATE instead of executing (R120). -/
def xlateTraps (p : Pack) (ig : Word) : List LTrap :=
  (lanesOf ig).filterMap (fun l =>
    match (p.lane l).released, (p.lane l).failx with
    | true, some img => some { l := l, code := tXLATE, va := img.va, info := img.bytes }
    | _, _ => none)

/-- Lanes that still owe their access to an instruction in flight try it again (R129), with the operands it names as they are now and the mask it had. -/
def resumeUnit (i : Instr) (us : Uses) (body : Ctx → Res) (s : State) (u : Cur) (p : Pack) (id : Nat) : State :=
  let c := mkCtx s u { p with toks := p.toks.filter (fun t => t.id != id) } us ((instrPfx i).map (fun f => { f with mr := 0 })) u.ig
  let r := body c
  resumed c id (if r.stall.isSome then { s := s, pend := u.ig } else r)

/-- One issued unit: helper lanes leave first (R216), interlocks (R39, R40), then the tests of R57 in order, then the instruction's own effect, then the common end. -/
def runUnit (i : Instr) (us : Uses) (body : Ctx → Res) (s : State) : Out :=
  match s.cur with
  | none => .fault .noUnit
  | some u =>
    let p := s.pack u.core u.slot
    let us := { us with mr := match (instrPfx i) with | some f => f.mr.toNat :: us.mr | none => us.mr }
    match u.resume with
    | some id => .next (resumeUnit i us body s u p id)
    | none =>
    let hl := u.ig &&& p.lanesWhere (fun x => x.st == .helper)
    let ig := if us.helper then u.ig else u.ig &&& ~~~hl
    let p' := if us.helper then p else if hl = 0 then p else p.exitLanes hl
    let s := s.updPack u.core u.slot (fun _ => p')
    if ig = 0 then .next (s.updPack u.core u.slot (fun q => { ((q.ages (p.eligibles u.depth &&& ~~~hl) 0).rejoins hl) with ownStall := none }))
    else if (p'.blockers us ig u.depth) ≠ [] then .next (s.updPack u.core u.slot (fun q => { q with ownStall := some (blockCause i us (p'.blockers us ig u.depth)) }))
    else
      let c := mkCtx s u p' us (instrPfx i) ig
      let xt := xlateTraps p' ig
      .next (finish c us
        (if us.mx && (s.core u.core).mxOwner != some p'.wg then { s := s, traps := groupTrap c tPRIV 3 }
         else if outOfFrame c us then { s := s, traps := groupTrap c tFRAME 1 }
         else if xt ≠ [] && !us.takesFail then
           -- only the failed replays stop; lanes that stand at the same address issue with the next choice
           let rest := ig &&& ~~~(laneMask (xt.map LTrap.l))
           { s := s, traps := xt, stay := rest }
         else
           let r := body c
           { r with traps := c.tagged ++ r.traps }))

/-! ## Arithmetic by lane -/

/-- A lane's result: the destination registers' values and the floating-point flags it raises. -/
structure LaneRes where
  vals : List Word
  flags : Nat := 0
  deriving DecidableEq, Repr

/-- Merge flag bits NX, UF, OF, DZ, NV (bits 4 to 8 of FPC) into FPC (R82). -/
def Pack.mergeFlags (p : Pack) (fl : Nat) : Pack := { p with fpc := p.fpc ||| BitVec.ofNat 64 fl }

/-- Write a lane's n destination registers. -/
def Pack.writeRegs (p : Pack) (depth d l : Nat) (cells : List VCell) : Pack :=
  (cells.zipIdx).foldl (fun p v => p.writeV depth (d + v.2) l v.1) p

/-- The rounding mode: PFX.RM, or FPC.RM when that is 7 (R74). -/
def Ctx.rm (c : Ctx) : Nat := if c.pfx.rm == 7 then bits c.p.fpc.toNat 2 0 else c.pfx.rm.toNat

/-- key(x) of R263. -/
def Fmt.key (f : Fmt) (v : Nat) : Nat :=
  let m := v % 2 ^ (f.eb + f.fb)
  if 7 ≤ f.fb then m / 2 ^ (f.fb - 7) else m * 2 ^ (7 - f.fb)

/-- How an instruction's elements are checked (R263): as numbers of a format, or bit for bit; and an element's width. -/
structure ShKind where
  fmt : Option Fmt
  width : Nat
  deriving DecidableEq, Repr

def ShKind.fp (f : Fmt) : ShKind := { fmt := some f, width := f.width }
def ShKind.bits (n : Nat) : ShKind := { fmt := none, width := n }

/-- The pass table of R263 for the main unit's element e and what the shadow gives. -/
def ShKind.passes (k : ShKind) (x : ShadowIn) (e : Nat) : Bool :=
  match k.fmt with
  | none => e == x.exact.toNat % 2 ^ k.width
  | some f => match f.dec e with
    | .nan _ _ _ _ => x.nan
    | _ => !x.nan && (bit e (f.eb + f.fb) == x.neg || (f.key e == 0 && x.key == 0)) && decide (f.key e ≤ x.key.toNat + 1 ∧ x.key.toNat ≤ f.key e + 1)

/-- Physical position of a logical lane; a partner takes the placement of R418 (R218). -/
def posOf (map : Half) (paired : Bool) (l : Nat) : Nat :=
  let i := if paired && decide (l ≥ 16) then 16 + (l - 16 + 1) % 16 else l
  ((List.range 16).filter (fun b => map.getLsbD b)).getD (i % popcount map) 0

def Ctx.posOf (c : Ctx) (l : Nat) : Nat := Machine.posOf (c.s.core c.u.core).lanemap c.q.paired l

/-- The error that a lane's element meets, if one does (an input, log 19). -/
def Ctx.shadowAt (c : Ctx) (l : Nat) : Option ShadowIn := c.s.shadowErr.find ((c.u.core * 48 + c.u.slot) * 32 + l)

def Ctx.shadowIn (c : Ctx) (l : Nat) : ShadowIn := (c.shadowAt l).getD {}

/-- Words of a result, from the lowest. -/
def joinWords (ws : List Word) : Nat := ws.foldr (fun w a => w.toNat + a * 2 ^ 32) 0
def splitWords (n v : Nat) : List Word := (List.range n).map (fun i => BitVec.ofNat 32 (v / 2 ^ (32 * i)))

/-- What the main unit gives a lane: its result, with the element of an error in place. -/
def Ctx.shadowMain (c : Ctx) (k : ShKind) (l : Nat) (ws : List Word) : List Word :=
  match (c.shadowAt l).bind (fun x => x.main.map (fun m => (x, m))) with
  | none => ws
  | some (x, m) =>
    let lo := k.width * (x.element % 2)
    splitWords ws.length (setBits (joinWords ws) (lo + k.width - 1) lo m.toNat)

/-- Does a lane's element fail its shadow? With no error in either unit it passes. -/
def Ctx.shadowBad (c : Ctx) (k : ShKind) (l : Nat) (ws : List Word) : Bool :=
  match c.shadowAt l with
  | none => false
  | some x => !k.passes x (joinWords (c.shadowMain k l ws) / 2 ^ (k.width * (x.element % 2)) % 2 ^ k.width)

/-- The unit that fails (R416): 8 for the special-function unit (`unit` is 8), else the pipe. -/
def Ctx.shadowUnit (c : Ctx) (unit l : Nat) : Nat := if unit = 8 then 8 else (c.shadowIn l).unit % 8

/-- SHADOW with its info (R386): unit, position, element, operands, main result (`res`), key. -/
def Ctx.shadowTrap (c : Ctx) (unit : Nat) (us : List VUse) (l : Nat) (res : Word) : LTrap :=
  let x := c.shadowIn l
  let opd := fun i => (match us[i]? with | some u => c.rv u.reg l | none => (0 : Word)).toNat
  { l := c.lid l, code := tSHADOW,
    info := leBytes 22 (c.shadowUnit unit l + c.posOf l * 2 ^ 8 + x.element % 2 * 2 ^ 16 + opd 0 * 2 ^ 32 + opd 1 * 2 ^ 64 + opd 2 * 2 ^ 96 +
      res.toNat * 2 ^ 128 + x.key.toNat * 2 ^ 160) }

/-- Count a SHADOW trap of a unit of a core at a position (R416). -/
def State.countShadow (s : State) (c unit pos : Nat) : State :=
  let off := 0x701000 + 8 * (16 * c + unit)
  let v := ((s.regs.find off).getD 0).toNat
  { s with regs := s.regs.ins off (BitVec.ofNat 64 (setBits (setBits v 31 0 (satAdd 32 (bits v 31 0) 1)) 63 48 (bits v 63 48 ||| 2 ^ pos))) }

/-- Count an element that passes when it is re-executed (R416). -/
def State.countRepass (s : State) (c unit : Nat) : State :=
  let off := 0x701000 + 8 * (16 * c + unit)
  let v := ((s.regs.find off).getD 0).toNat
  { s with regs := s.regs.ins off (BitVec.ofNat 64 (setBits v 47 32 (satAdd 16 (bits v 47 32) 1))) }

/-- What the checks of an instruction leave (R264, R416): failures are counted and remembered; a lane re-executed after a failure that passes now counts once. -/
def Ctx.noteShadow (c : Ctx) (unit : Nat) (checked bad : List Nat) (s : State) : State :=
  let mark := fun (s : State) l (w : Option Nat) => s.updPack c.u.core c.u.slot (fun p => p.updLane (c.lid l) (fun x => { x with shadow := w }))
  let s := bad.foldl (fun s l => mark (s.countShadow c.u.core (c.shadowUnit unit l) (c.posOf l)) l (some (c.shadowUnit unit l))) s
  let s := checked.foldl (fun s l => { s with shadowErr := s.shadowErr.del ((c.u.core * 48 + c.u.slot) * 32 + l) }) s
  let pass := (checked.filter (fun l => !bad.any (fun b => c.lid b == c.lid l))).map (c.lid ·)
  pass.dedup.foldl (fun s l => match (c.p.lane l).shadow with
    | some u => if (c.p.lane l).released then mark (s.countRepass c.u.core u) l none else s
    | none => s) s

/-- The common form of R235: each unmasked lane's result goes to `n` registers from `d`, marked when a source lane is poisoned (`us`); masked lanes are zeroed under MZ.
`chk` is the shadow unit that checks the elements (R263), if one does: 8 for the special-function unit, else the pipes; and how it checks. -/
def vopCore (c : Ctx) (d : VReg) (n : Nat) (us : List VUse) (chk : Option (Nat × ShKind)) (f : Nat → LaneRes) : State × List LTrap :=
  let checked := (lanesOf c.act).filter (fun l => !c.isHelper (c.lid l))
  let bad := match chk with
    | none => []
    | some k => checked.filter (fun l => c.shadowBad k.2 l (f l).vals)
  let out := fun l => match chk with
    | none => (f l).vals
    | some k => if c.isHelper (c.lid l) then (f l).vals else c.shadowMain k.2 l (f l).vals
  let hold := bad.map (c.lid ·)
  let p := lanes32.foldl (fun p l =>
    if c.act.lane l && !hold.contains (c.lid l) then
      p.writeRegs c.u.depth d.toNat l ((out l).map (fun v => { val := v, psn := c.psnOf us l }))
    else if c.masked.lane l && c.pfx.mz then p.writeRegs c.u.depth d.toNat l (List.replicate n {})
    else p) (c.s.pack c.u.core c.u.slot)
  let fl := ((lanesOf c.act).filter (fun l => !c.isHelper (c.lid l) && !hold.contains (c.lid l))).foldl (fun a l => a ||| (f l).flags) 0
  let s := c.s.updPack c.u.core c.u.slot (fun _ => p.mergeFlags fl)
  match chk with
  | none => (s, [])
  | some k => (c.noteShadow k.1 checked bad s, bad.map (fun l => c.shadowTrap k.1 us l ((out l).headD 0)))

/-- R235 for an instruction without shadow check. -/
def vop (c : Ctx) (d : VReg) (n : Nat) (us : List VUse) (f : Nat → LaneRes) : Res :=
  { s := (vopCore c d n us none f).1 }

/-- R235 with the shadow check of R263; of a long-latency instruction the trap comes at completion (R264). -/
def vopF (c : Ctx) (d : VReg) (n : Nat) (us : List VUse) (unit : Nat) (k : ShKind) (long : Bool) (f : Nat → LaneRes) : Res :=
  let r := vopCore c d n us (some (unit, k)) f
  if long then { s := r.1, late := r.2 } else { s := r.1, traps := r.2 }

/-- R235 with a mask destination: bit l is the lane's result, 0 for masked lanes under MZ; other bits keep their value. Poison is consumed first (R236). -/
def mop (c : Ctx) (m : Nat) (us : List VUse) (f : Nat → Bool × Nat) : Res :=
  let view : Word := if c.q.paired then 0xFFFF else 0xFFFFFFFF
  let bad := ((lanesOf c.act).filter (fun l => c.psnOf us l && !c.isHelper (c.lid l))).map (c.lid ·)
  let good := (lanesOf (c.act &&& view)).filter (fun l => !bad.contains l)
  let zero := if c.pfx.mz then c.masked &&& view else 0
  let v := laneMask (good.filter (fun l => (f l).1))
  let fl := (good.filter (fun l => !c.isHelper l)).foldl (fun a l => a ||| (f l).2) 0
  { s := c.s.updPack c.u.core c.u.slot (fun p => (p.setM m (laneMask good ||| zero) v).mergeFlags fl),
    traps := bad.dedup.map (fun l => { l := l, code := tPOISON }) }

/-- A pack-scalar result: one s register, written once for the pack. -/
def sop (c : Ctx) (d : Nat) (v : DWord) : Res :=
  { s := c.s.updPack c.u.core c.u.slot (fun p => p.setS d v) }

end Sys2Proof.Machine
end

