-- ==== Sys2Proof/Machine/Mem.lean ====
section
/-! DEFINITION. Class 0xC register reads, and physical memory: homes (R97 to R99, R124), dirty L1 bytes (R135), provisional bytes (R421), keys
(R429), poison (R136), and core scratchpads (R127 to R136). Every access of every agent goes through these operations and those of Places.lean. -/

namespace Sys2Proof.Machine

/-! ## Package registers -/

/-- Reset values of class 0xC registers that are not zero (R320, R362, R430). That RT_BASE and RT_COUNT (R323) and the stage-2 root registers (R407),
whose rules give no Reset column, reset to zero is the model's choice (log 8). -/
def regReset (off : Nat) : Nat :=
  if off = 0x401000 then 2 ^ 24 else if off = 0x401020 then 1024 else if off = 0x710000 then 1
  else if 0x500000 ≤ off ∧ off < 0x501000 ∧ off % 0x40 = 8 then 0x3FF00 else 0

/-- The coarse clock (R321). -/
def State.coarse (s : State) : Nat := bits s.cycle 33 22

/-- A register; COARSE.NOW shows the coarse clock (R322). -/
def State.reg (s : State) (off : Nat) : Nat :=
  if off = 0x402020 then s.coarse else match s.regs.find off with | some v => v.toNat | none => regReset off

/-- Set a register; one at its reset value is not listed. -/
def State.setReg (s : State) (off v : Nat) : State :=
  { s with regs := if v % 2 ^ 64 = regReset off then s.regs.del off else s.regs.ins off (BitVec.ofNat 64 v) }

/-- A field of a context descriptor (R407). -/
def State.ctxReg (s : State) (ctx off : Nat) : Nat := s.reg (0x600000 + 0x80 * ctx + off)

def State.funcOf (s : State) (ctx : Nat) : Nat := bits (s.ctxReg ctx 0) 6 1

/-- Count an uncorrectable event of a protection level (R414). -/
def State.countUE (s : State) (v pa ctx : Nat) : State :=
  let a := 0x700000 + 16 * v
  let c := s.reg a
  ((s.setReg a (setBits c 63 32 (satAdd 32 (bits c 63 32) 1))).setReg (a + 8) (pa % 2 ^ 52 + ctx % 64 * 2 ^ 52 + 2 ^ 63)).send .errorIrq

/-- Count in a port's event counters (R439). -/
def State.countPort (s : State) (p code n : Nat) : State :=
  (List.range 8).foldl (fun s i =>
    let a := 0x820000 + 128 * p + 8 * i
    let sel := s.reg a
    if bits sel 7 0 = code ∧ bit sel 8 then s.setReg (a + 64) (s.reg (a + 64) + n) else s) s

/-- Count in the counters of an LLC slice (R439). -/
def State.countSlice (s : State) (h code n : Nat) : State :=
  (List.range 8).foldl (fun s i =>
    let a := 0x810000 + 128 * h + 8 * i
    let sel := s.reg a
    if bits sel 7 0 = code ∧ bit sel 8 then s.setReg (a + 64) (s.reg (a + 64) + n) else s) s

/-- Is a request of an ATOMR's token not answered yet? -/
def State.atomrOut (s : State) (tok : Nat) : Bool :=
  s.remotes.any (fun x => match x.2.who with | .atomr _ _ t _ _ _ _ _ _ _ _ _ => t == tok | _ => false)

/-! ## Physical addresses -/

/-- The layout of R97. -/
def paOk (pa : Nat) : Bool :=
  match bits pa 51 48 with
  | 0 => decide (bits pa 47 0 < 0x7800000000)
  | 8 => decide (bits pa 47 45 = 0)
  | 12 => decide (bits pa 47 32 = 0)
  | _ => false

def paClass (pa : Nat) : Nat := bits pa 51 48
def homePkg (pa : Nat) : Nat := bits pa 44 34

/-- The buddy of package n (R99). -/
def buddy (n : Nat) : Nat := if n % 2 = 0 then n + 1 else n - 1

def State.isMember (s : State) (n : Nat) : Bool := n == s.pkgId || s.members.has n

def State.isLost (s : State) (n : Nat) : Bool := n != s.pkgId && s.lost.has n

/-- No home serves this control address (R99): its package is no member, or it is lost and its buddy is none, lost, or has no mirror of it any more. -/
def State.homeLost (s : State) (pa : Nat) : Bool :=
  let n := homePkg pa
  let b := buddy n
  paClass pa == 8 && !(s.isMember n && !s.isLost n) && !(s.isLost n && s.isMember b && !s.isLost b && !s.unmirrored.has n)

/-- Does the buddy mirror this package's home of the address (R99, R356)? -/
def State.mirrored (s : State) (pa : Nat) : Bool :=
  paClass pa == 8 && homePkg pa == s.pkgId && s.members.has (buddy s.pkgId) && !s.unmirrored.has s.pkgId

/-- The bytes of a lost buddy's home are those of the mirror held here (R99). -/
def State.inMirror (s : State) (pa : Nat) : Bool := paClass pa == 8 && homePkg pa == buddy s.pkgId && s.isLost (homePkg pa)

def State.rawByte (s : State) (pa : Nat) : Byte :=
  if s.inMirror pa then (s.mirror.find (bits pa 33 0)).getD 0 else (FMap.find s.mem pa).getD 0

/-- A map with zero bytes unlisted. -/
def setCanon (m : FMap Byte) (k : Nat) (b : Byte) : FMap Byte := if b = 0 then m.del k else m.ins k b

/-- A byte of memory; one of the buddy's home is held here too (R356), and only here once the buddy is lost. -/
def State.setRaw (s : State) (pa : Nat) (b : Byte) : State :=
  let s := if paClass pa == 8 && homePkg pa == buddy s.pkgId then { s with mirror := setCanon s.mirror (bits pa 33 0) b } else s
  if s.inMirror pa then s else { s with mem := setCanon s.mem pa b }

/-- Is the line's home this package's LLC (R421)? -/
def State.localHome (s : State) (pa : Nat) : Bool := paClass pa == 0 || (paClass pa == 8 && homePkg pa == s.pkgId)

/-- Channel and set of a line (R124, R125). -/
def State.hbmAddr (s : State) (pa : Nat) : Nat :=
  if paClass pa == 0 then bits pa 38 0
  else if homePkg pa == s.pkgId then 0x7800000000 + bits pa 33 0 else 0x7C00000000 + bits pa 33 0
def channelOf (d : Nat) : Nat := bits d 15 8 ^^^ bits d 23 16
def chAddr (d : Nat) : Nat := bits d 38 16 * 256 + bits d 7 0

/-! ## Who accesses -/

/-- An accessing agent: the core whose L1 serves it, its launch, the key slot of its translation, the ordering class of its page, its context where one
is known (R414), and the host core or peer package that the directory notes (R138). -/
structure Acc where
  core : Option Nat := none
  node : Nat := 0
  key : Nat := 0
  oc : Nat := 0
  ctx : Nat := 0
  out : Option Nat := none
  deriving DecidableEq, Repr

/-- The L1 that serves the access: none for a page of class 01 (R135). -/
def Acc.l1 (a : Acc) : Option Nat := if a.oc = 1 then none else a.core

/-- The requester of R138. -/
def Acc.req (a : Acc) : Option Nat := a.core.or a.out

/-- Key slot and generation that an access uses (R429). -/
def State.keyTag (s : State) (a : Acc) (pa : Nat) : Nat :=
  let k := if paClass pa == 0 then a.key else 0
  k + 32 * bits (s.reg (0x710000 + 8 * k)) 63 32

def State.lineTag (s : State) (pa : Nat) : Nat := (s.lineKey.find (pa / 64)).getD 0

/-- The byte an agent's read sees before encryption: the committed one where another node's write is provisional (R421). -/
def State.seenByte (s : State) (node pa : Nat) : Byte :=
  match s.prov.find pa with
  | some p => if p.uid = node then s.rawByte pa else p.committed
  | none => s.rawByte pa

def State.lineBytes (s : State) (pa : Nat) : List Byte := (List.range 64).map (fun i => s.rawByte (pa / 64 * 64 + i))

def State.readByte (s : State) (a : Acc) (pa : Nat) : Byte :=
  let t := s.keyTag a pa
  if s.lineTag pa = t then s.seenByte a.node pa else Config.foreignByte pa (s.lineTag pa) t (s.lineBytes pa)

def State.readBytes (s : State) (a : Acc) (pa n : Nat) : List Byte := (List.range n).map (fun i => s.readByte a (pa + i))

def State.readNat (s : State) (a : Acc) (pa n : Nat) : Nat := leNat (s.readBytes a pa n)

/-- Is the line's home, or the mirror that serves it, this package's LLC? -/
def State.homeHere (s : State) (pa : Nat) : Bool := s.localHome pa || s.inMirror pa

/-- The channel of a line's home is accessed: its die leaves C3 (R15, R432, R434). -/
def State.useDie (s : State) (line : Nat) : State :=
  if s.homeHere (line * 64) then
    let d := channelOf (s.hbmAddr (line * 64)) / 128
    { s with diePower := s.diePower.set d 0, dieIdle := s.dieIdle.set d s.cycle }
  else s

/-! ## The L1 (R135) -/

def l1Key (c line : Nat) : Nat := c * 2 ^ 46 + line

def State.l1Line (s : State) (c line : Nat) : Option L1Line := s.l1.find (l1Key c line)

/-- Cores whose L1 holds a line. -/
def State.holders (s : State) (line : Nat) : List Nat := (s.l1.filter (fun x => x.1 % 2 ^ 46 == line)).map (fun x => x.1 / 2 ^ 46)

def State.setL1 (s : State) (c line : Nat) (x : L1Line) : State := { s with l1 := s.l1.ins (l1Key c line) x }

def State.setLinePsn (s : State) (pa : Nat) (b : Bool) : State :=
  { s with memPsn := if b then s.memPsn.ins (pa / 64) () else s.memPsn.del (pa / 64) }

/-- The poison bit of the line of an address, as an access sees it: the committed one where another node's write is provisional (R421), and that of its
own L1's copy. -/
def State.psnAt (s : State) (a : Acc) (pa : Nat) : Bool :=
  (match s.prov.find pa, s.provPsn.find (pa / 64) with
   | some p, some b => if p.uid = a.node then s.memPsn.has (pa / 64) else b
   | _, _ => s.memPsn.has (pa / 64)) ||
  (match a.l1 with
   | some c => ((s.l1Line c (pa / 64)).map L1Line.psn).getD false
   | none => false)

/-- Runs of consecutive numbers in a rising list: first number and length. -/
def runsOf : List Nat → List (Nat × Nat)
  | [] => []
  | x :: r =>
    match runsOf r with
    | (y, n) :: q => if y = x + 1 then (x, n + 1) :: q else (x, 1) :: (y, n) :: q
    | [] => [(x, 1)]

/-- Bytes of a line (offsets in it) reach their home: the buddy is sent them, and until it holds them they are not visible outside the package (R356). -/
def State.reachHome (s : State) (line : Nat) (offs : List Nat) : State :=
  if s.mirrored (line * 64) then
    (runsOf offs).foldl (fun s r =>
      let pa := line * 64 + r.1
      { s.send (.mirror (buddy s.pkgId) (bits pa 33 0) ((List.range r.2).map (fun i => s.rawByte (pa + i)))) with mirrorPend := s.mirrorPend ++ [line] }) s
  else s

/-- Write a line's dirty bytes back, poisoned if the L1's copy is; the line stays, clean (R135, R136). -/
def State.wbLine (s : State) (c line : Nat) : State :=
  match s.l1Line c line with
  | none => s
  | some x =>
    if x.home.isEmpty then s
    else
      let s := if x.psn then s.setLinePsn (line * 64) true else s
      ((s.useDie line).setL1 c line { x with home := [], homePsn := false }).reachHome line (x.home.map Prod.fst)

/-- Write back and drop a line. -/
def State.flushLine (s : State) (c line : Nat) : State :=
  let s := s.wbLine c line
  { s with l1 := s.l1.del (l1Key c line) }

/-- Drop a line with its dirty bytes: what its home holds stands again (R146, R349). -/
def State.invLine (s : State) (c line : Nat) : State :=
  match s.l1Line c line with
  | none => s
  | some x =>
    let s := x.home.foldl (fun s b => s.setRaw (line * 64 + b.1) b.2) s
    let s := if x.home.isEmpty then s else s.setLinePsn (line * 64) x.homePsn
    { s with l1 := s.l1.del (l1Key c line) }

/-- Write back and keep a line that another agent reads; the core owns it no more. -/
def State.shareLine (s : State) (c line : Nat) : State :=
  let s := s.wbLine c line
  { s with l1 := s.l1.upd (l1Key c line) (fun x => { x with own := false }) }

/-- Write every dirty line of a core back. -/
def State.cleanCore (s : State) (c : Nat) : State :=
  (s.l1.filter (fun x => x.1 / 2 ^ 46 == c)).foldl (fun s x => s.wbLine c (x.1 % 2 ^ 46)) s

/-- Write back and drop the lines of a core in ways below a number (R133). -/
def State.dropWays (s : State) (c w : Nat) : State :=
  (s.l1.filter (fun x => x.1 / 2 ^ 46 == c && decide (x.2.way < w))).foldl (fun s x => s.flushLine c (x.1 % 2 ^ 46)) s

/-- A core's L1 takes a line: a free way of its set, from the split up, else a way that is the model's free choice (R135). -/
def State.allocLine (s : State) (c line : Nat) : State :=
  if (s.l1Line c line).isSome then s
  else
    let low := (s.core c).split
    let set := s.l1.filter (fun x => x.1 / 2 ^ 46 == c && x.1 % 256 == line % 256)
    match (List.range (20 - low)).find? (fun w => !set.any (fun x => x.2.way == low + w)) with
    | some w => s.setL1 c line { way := low + w }
    | none =>
      let w := low + Config.l1Victim s.draw.1 % (20 - low)
      ((set.filter (fun x => x.2.way == w)).foldl (fun s x => s.flushLine c (x.1 % 2 ^ 46)) s.draw.2).setL1 c line { way := w }

/-! ## The directory and its counters (R138) -/

/-- The counter of a line: slice and entry. -/
def State.counterOf (s : State) (pa : Nat) : Nat :=
  let d := s.hbmAddr pa
  let ln := chAddr d / 64
  4096 * channelOf d + (bits ln 11 0 ^^^ bits ln 23 12)

/-- Requesters that hold a line. -/
def State.lineReqs (s : State) (line : Nat) : List Nat := s.holders line ++ (s.dir.find line).getD []

/-- An atomic or ownership request of a requester reaches the line's home (R138). -/
def State.dirCount (s : State) (q pa : Nat) : State :=
  if s.homeHere pa then
    let key := s.counterOf pa
    let n := (s.predict.find key).getD 0
    let n' := if (s.lineReqs (pa / 64)).any (· != q) then min 3 (n + 1) else n - 1
    { s with predict := if n' = 0 then s.predict.del key else s.predict.ins key n' }
  else s

/-! ## Reads and writes meet the L1s -/

/-- The directory notes a host core or peer that reads a line (R138, R355). -/
def State.noteReader (s : State) (a : Acc) (line : Nat) : State :=
  match a.out with
  | some q => { s with dir := s.dir.ins line (q :: ((s.dir.find line).getD []).filter (· != q)) }
  | none => s

/-- An ownership request reaches the home and counts there (R138). -/
def State.askOwner (s : State) (a : Acc) (line : Nat) : State :=
  match a.l1.or a.out with
  | some q => s.dirCount q (line * 64)
  | none => s

/-- A line is read: other L1s write it back, and the reader's L1 takes it. -/
def State.readLine (s : State) (a : Acc) (line : Nat) : State :=
  let s := (s.holders line).foldl (fun s c => if a.l1 = some c then s else s.shareLine c line) s
  let s := s.noteReader a line
  match a.l1 with
  | some c => if (s.l1Line c line).isSome then s else (s.useDie line).allocLine c line
  | none => s.useDie line

/-- A line is written: every other copy goes. The writer's L1, or the host core or peer that writes, asks the home for it unless it owns it (R138). -/
def State.ownLine (s : State) (a : Acc) (line : Nat) : State :=
  let owned := match a.l1 with
    | some c => ((s.l1Line c line).map L1Line.own).getD false
    | none => false
  if owned then s
  else
    let s := (s.useDie line).askOwner a line
    let s := (s.holders line).foldl (fun s c => if a.l1 = some c then s else s.flushLine c line) s
    let s := { s with dir := match a.out with | some q => s.dir.ins line [q] | none => s.dir.del line }
    match a.l1 with
    | some c => let s := s.allocLine c line; { s with l1 := s.l1.upd (l1Key c line) (fun x => { x with own := true }) }
    | none => s

/-- Lines that n bytes from an address lie in. -/
def linesOf (pa n : Nat) : List Nat := if n = 0 then [] else (List.range ((pa + n - 1) / 64 - pa / 64 + 1)).map (fun i => pa / 64 + i)

/-- A read of n bytes is about to happen: its lines come (R135, R355), and a latent uncorrectable error in one of them becomes poison (R136, R413). -/
def State.touch (s : State) (a : Acc) (pa n : Nat) : State :=
  (linesOf pa n).foldl (fun s line =>
    let s := s.readLine a line
    if s.latent.has line then { ((s.setLinePsn (line * 64) true).countUE 0 (line * 64) a.ctx) with latent := s.latent.del line } else s) s

/-! ## Provisional lines -/

/-- Commit a node's lines (R422). -/
def State.dropProv (s : State) (uid : Nat) : State :=
  let mine := s.prov.filter (fun p => p.2.uid == uid)
  { s with prov := s.prov.filter (fun p => p.2.uid != uid),
           provPsn := mine.foldl (fun m p => m.del (p.1 / 64)) s.provPsn }

def State.isReplayable (s : State) (uid : Nat) : Bool :=
  match s.launches.find uid with
  | some l => l.r.replay && l.rstate == 0 && !l.ended
  | none => false

/-- REPLAYABLE to COMMITTED (R422, R424). -/
def State.commitNode (s : State) (uid : Nat) : State :=
  if s.isReplayable uid then
    let s := s.dropProv uid
    let s := { s with launches := s.launches.upd uid (fun l => { l with rstate := 1 }) }
    let v := s.reg 0x706000
    s.setReg 0x706000 (setBits v 63 32 (satAdd 32 (bits v 63 32) 1))
  else s

/-- Lines a node holds provisionally, with one more. -/
def State.provLines (s : State) (uid pa : Nat) : List Nat :=
  (pa / 64 :: (s.prov.filter (fun p => p.2.uid == uid)).map (fun p => p.1 / 64)).dedup

/-- Before a write of an agent to a byte: another node's provisional line is committed; a node that would hold too many lines, too many ways of a
set, or writes outside R421, is committed (R422). -/
def State.beforeWrite (s : State) (a : Acc) (pa : Nat) : State :=
  let others := ((List.range 64).filterMap (fun i => s.prov.find (pa / 64 * 64 + i))).filter (fun p => p.uid != a.node)
  let s := match others with
    | [] => s
    | p :: _ => s.commitNode p.uid
  if s.isReplayable a.node then
    let ls := s.provLines a.node pa
    let budget := (let b := (s.launch a.node).r.rbudget; if b = 0 then 64 else b) * 16384
    let way := fun (x : Nat) => let d := s.hbmAddr (x * 64); (channelOf d, chAddr d / 64 % 1024)
    if !s.localHome pa || decide (ls.length > budget) || decide ((ls.filter (fun x => way x == way (pa / 64))).length > 12) then s.commitNode a.node
    else s
  else s

/-! ## Writes -/

/-- A line last written under another key holds, for this access, unrelated bytes (R429); no L1 keeps bytes of the other key. -/
def State.rekey (s : State) (a : Acc) (pa : Nat) (whole : Bool) : State :=
  let t := s.keyTag a pa
  if s.lineTag pa = t then s
  else
    let s := (s.holders (pa / 64)).foldl (fun s c => s.flushLine c (pa / 64)) s
    let base := pa / 64 * 64
    let s' := if whole then s
      else (List.range 64).foldl (fun q i => q.setRaw (base + i) (Config.foreignByte (base + i) (s.lineTag pa) t (s.lineBytes pa))) s
    { s' with lineKey := if t = 0 then s'.lineKey.del (pa / 64) else s'.lineKey.ins (pa / 64) t }

/-- A byte that a replayable node writes becomes provisional: what was committed is kept beside it (R421). -/
def State.noteProv (s : State) (a : Acc) (pa : Nat) : State :=
  if s.isReplayable a.node && s.localHome pa && !s.prov.has pa then
    { s with prov := s.prov.ins pa { uid := a.node, committed := s.rawByte pa },
             provPsn := if s.provPsn.has (pa / 64) then s.provPsn else s.provPsn.ins (pa / 64) (s.memPsn.has (pa / 64)) }
  else s

/-- The L1s with a byte dirty in the writer's: what its home holds is kept beside it (R135). -/
def State.dirtied (s : State) (a : Acc) (pa : Nat) : FMap L1Line :=
  match a.l1 with
  | some c => s.l1.upd (l1Key c (pa / 64)) (fun x =>
      if x.home.has (pa % 64) then x
      else { x with home := x.home.ins (pa % 64) (s.rawByte pa), homePsn := if x.home.isEmpty then s.memPsn.has (pa / 64) else x.homePsn })
  | none => s.l1

/-- Write one byte, its line being ready. -/
def State.putByte (s : State) (a : Acc) (pa : Nat) (b : Byte) : State :=
  { (s.noteProv a pa).setRaw pa b with l1 := s.dirtied a pa }

/-- A write of a line ends every hart's reservation of it. -/
def State.breakResv (s : State) (line : Nat) : State :=
  { s with harts := s.harts.map (fun (x : Nat × Hart) => if x.2.resv = some line then (x.1, { x.2 with resv := none }) else x) }

/-- Before n bytes of one line are written: the line is met as by a read, belongs to no other node, stands under the writer's key and is the writer's. -/
def State.prepWrite (s : State) (a : Acc) (pa n : Nat) : State :=
  ((((s.touch a pa n).beforeWrite a pa).rekey a pa (n == 64)).ownLine a (pa / 64)).breakResv (pa / 64)

def State.putBytes (s : State) (a : Acc) (pa : Nat) (bs : List Byte) : State := bs.zipIdx.foldl (fun s x => s.putByte a (pa + x.2) x.1) s

/-- After n bytes of one line are written: poisoned data poison the line; a write that no L1 keeps has reached the line's home. -/
def State.endWrite (s : State) (a : Acc) (pa n : Nat) (psn : Bool) : State :=
  let s := if psn then s.setLinePsn pa true else s
  if a.l1.isSome then s else s.reachHome (pa / 64) ((List.range n).map (fun i => pa % 64 + i))

/-- The write of a run of bytes that lies in one line, by any agent. `psn`: the data are poisoned. -/
def State.writeRun (s : State) (a : Acc) (pa : Nat) (bs : List Byte) (psn : Bool) : State :=
  match bs with
  | [] => s
  | _ => ((s.prepWrite a pa bs.length).putBytes a pa bs).endWrite a pa bs.length psn

/-- Write bytes from an address on, line by line. -/
def State.writeBytes (s : State) (a : Acc) (pa : Nat) (bs : List Byte) (psn : Bool) : State :=
  let n := 64 - pa % 64
  let rec go (fuel : Nat) (s : State) (pa : Nat) (bs : List Byte) (n : Nat) : State :=
    match fuel, bs with
    | _, [] => s
    | 0, _ => s
    | f + 1, _ => go f (s.writeRun a pa (bs.take n) psn) (pa + n) (bs.drop n) 64
  go (bs.length / 64 + 2) s pa bs n

/-- 64 bytes as one operation: CCTL zero and whole lines of a copy engine set or clear the poison bit (R136). -/
def State.writeLine (s : State) (a : Acc) (pa : Nat) (bs : List Byte) (psn : Bool) : State :=
  let s := (s.writeRun a pa bs psn).setLinePsn pa psn
  match a.l1 with
  | some c => { s with l1 := s.l1.upd (l1Key c (pa / 64)) (fun x => { x with psn := false }) }
  | none => s

/-! ## Scratchpads -/

/-- A byte of a core's scratchpad array. -/
def State.spadByte (s : State) (c off : Nat) : Byte := ((s.core c).spad.find off).getD 0

/-- Latent errors of scratchpad blocks are numbered from 2^60 (log 20). -/
def spadLatent (c off : Nat) : Nat := 2 ^ 60 + c * 8192 + off / 64

/-- The context whose workgroup holds a byte of a core's scratchpad (R132), where one does. -/
def State.spadCtx (s : State) (c off : Nat) : Nat :=
  ((s.wgs.find? (fun w => w.2.core == c && decide (w.2.way * 16384 ≤ off ∧ off < (w.2.way + w.2.ways) * 16384))).map (fun w => w.2.ctx)).getD 0

def State.spadTouch (s : State) (c off : Nat) : State :=
  let k := spadLatent c off
  if s.latent.has k then
    { ((s.updCore c (fun x => { x with spadPsn := x.spadPsn.ins (off / 64) () })).countUE 3 c (s.spadCtx c off)) with latent := s.latent.del k }
  else s

def State.setSpad (s : State) (c off : Nat) (b : Byte) (psn : Bool) : State :=
  s.updCore c (fun x => { x with spad := setCanon x.spad off b, spadPsn := if psn then x.spadPsn.ins (off / 64) () else x.spadPsn })

def State.spadPoisoned (s : State) (c off : Nat) : Bool := (s.core c).spadPsn.has (off / 64)

/-- Zero a run of scratchpad bytes and clear its blocks' poison (R134, R146): what stood in the blocks is gone, an error that nothing has found among it. -/
def State.zeroSpad (s : State) (c off n : Nat) : State :=
  let s := { s with latent := s.latent.filter (fun x => decide (x.1 < spadLatent c off ∨ spadLatent c (off + n + 63) ≤ x.1)) }
  s.updCore c (fun x => { x with spad := x.spad.filter (fun p => decide (p.1 < off ∨ off + n ≤ p.1)),
                                 spadPsn := x.spadPsn.filter (fun p => decide (p.1 < off / 64 ∨ (off + n + 63) / 64 ≤ p.1)) })

end Sys2Proof.Machine
end

