-- ==== Sys2Proof/Machine/Bar.lean ====
section
/-! DEFINITION. Pack events (R395) and barrier objects (R297 to R304): every operation on an object but the instructions that name it, with the effect of
plain stores to its bytes (R298). -/

namespace Sys2Proof.Machine

/-! ## Events (R395) -/

/-- End a WAITEV wait of lanes `m` with a result in s[d]: they go on (R395). -/
def Pack.endWait (p : Pack) (m : Word) (d : Nat) (v : DWord) : Pack :=
  (p.wakeLanes m (fun x => x.st == .waiting && x.why == .event)).setS d v

/-- Serve the waits of WAITEV in the order they began: each takes and clears the pending events of its classes. -/
def Pack.serveWaits (p : Pack) : List (Word × Nat × Byte × Option Nat) → Pack
  | [] => p
  | w :: ws =>
    let hit := p.evpend &&& w.2.2.1
    if hit = 0 then
      let q := p.serveWaits ws
      { q with waitev := w :: q.waitev }
    else ({ (p.endWait w.1 w.2.1 (hit.setWidth 64)) with evpend := p.evpend &&& ~~~w.2.2.1 }).serveWaits ws

/-- Set a bit of EVPEND; a group that waits for the class returns at once (R395). -/
def Pack.post (p : Pack) (cls : Nat) : Pack :=
  ({ p with evpend := p.evpend ||| BitVec.ofNat 8 (2 ^ cls), waitev := [] }).serveWaits p.waitev

/-- An event of every pack of a workgroup. -/
def State.postWg (s : State) (wg cls : Nat) : State :=
  { s with packs := s.packs.map (fun (p : Nat × Pack) => if p.2.wg == wg then (p.1, p.2.post cls) else p) }

/-! ## Barrier objects -/

/-- A barrier object's fields (R297). -/
structure BarObj where
  exp : Nat := 0
  kind : Bool := false
  arr : Nat := 0
  ph : Bool := false
  err : Bool := false
  waiters : Nat := 0
  pend : Nat := 0
  ovr : Nat := 0
  deriving DecidableEq, Repr

def barOf (v : Nat) : BarObj :=
  { exp := bits v 30 0, kind := bit v 31, arr := bits v 62 32, ph := bit v 63, err := bit v 64, waiters := bits v 81 72, pend := bits v 91 82, ovr := bits v 127 96 }

def BarObj.bytes (b : BarObj) : List Byte :=
  leBytes 16 (b.exp % 2 ^ 31 + b2n b.kind * 2 ^ 31 + b.arr % 2 ^ 31 * 2 ^ 32 + b2n b.ph * 2 ^ 63 + b2n b.err * 2 ^ 64 + b.waiters % 1024 * 2 ^ 72 +
    b.pend % 1024 * 2 ^ 82 + b.ovr % 2 ^ 32 * 2 ^ 96)

/-- The object at an array offset of a core. -/
def State.bar (s : State) (c off : Nat) : BarObj := barOf (leNat ((List.range 16).map (fun i => s.spadByte c (off + i))))

def State.setBar (s : State) (c off : Nat) (b : BarObj) : State :=
  (b.bytes.zipIdx).foldl (fun s x => s.setSpad c (off + x.2) x.1 false) s

/-- Does a lane wait on the object? -/
def Lane.waitsBar (c off : Nat) (x : Lane) : Bool :=
  match x.st, x.why with
  | .waiting, .barrier c' o _ _ => c' == c && o == off
  | _, _ => false

/-- Is a pack registered on the object? -/
def Pack.barReg (p : Pack) (c off : Nat) : Option BarReg := p.bars.find? (fun r => r.core == c && r.arr == off)

/-- Lanes waiting on the object trap BAR_OVER as one trap of their pack (R300, R303). -/
def State.barTrapWaiters (s : State) (c off detail : Nat) : State :=
  { s with packs := s.packs.map (fun (kp : Nat × Pack) =>
      let m := kp.2.anyWhere (Lane.waitsBar c off)
      if m = 0 then kp
      else
        let l := (lanesOf m).headD 0
        let x := if Lane.waitsBar c off (kp.2.lane l) then kp.2.lane l else kp.2.thread l
        let f := match x.why with | .barrier _ _ _ f => f | _ => off
        let t : Trap := { code := tBAROVER, detail := detail, lanes := m, depth := x.depth, replay := x.replay, k := x.replayK, words := x.words,
                          info := leBytes 4 f ++ List.replicate 12 0 ++ (s.bar c off).bytes, cycle := BitVec.ofNat 64 s.cycle,
                          hlvl := kp.2.handler.isSome && Lane.waitsBar c off (kp.2.lane l), ownOrd := x.ownAt }
        (kp.1, { (kp.2.wakeLanes m (Lane.waitsBar c off)) with pending := queueTrap t kp.2.pending })) }

/-- The pack's waiting lanes go on, and a registered pack has then observed the phase (R299); a pack that another group has deregistered is released too (R300). -/
def Pack.barWake (c off : Nat) (ph : Bool) (p : Pack) : Pack :=
  if p.anyWhere (Lane.waitsBar c off) = 0 then p
  else { (p.wakeLanes (BitVec.allOnes 32) (Lane.waitsBar c off)) with
         bars := p.bars.map (fun r => if r.core == c && r.arr == off then { r with obs := ph } else r) }

/-- Registered packs with a lane that waits on the object. -/
def State.barWaiters (s : State) (c off : Nat) : Nat :=
  (s.packs.filter (fun kp => (kp.2.barReg c off).isSome && kp.2.anyWhere (Lane.waitsBar c off) != 0)).length

/-- Packs that wait observe the completed phase and go on; every registered pack gets its event (R299, R395). Answers how many observed. -/
def State.barRelease (s : State) (c off : Nat) (ph : Bool) : State × Nat :=
  ({ s with packs := s.packs.map (fun (kp : Nat × Pack) =>
      (kp.1, if (kp.2.barReg c off).isSome then (kp.2.barWake c off ph).post 2 else kp.2.barWake c off ph)) }, s.barWaiters c off)

/-- A phase completes: PEND takes WAITERS, less the waiting packs that observe at once (R299, R301). -/
def State.barComplete (s : State) (c off : Nat) : State :=
  let b := s.bar c off
  let b := { b with arr := 0, ph := !b.ph, pend := b.waiters }
  let r := (s.setBar c off b).barRelease c off b.ph
  r.1.setBar c off { b with pend := b.pend - r.2 }

/-- Overrun (R303). -/
def State.barOverrun (s : State) (c off x : Nat) (full : Bool) : State :=
  let b := s.bar c off
  (s.setBar c off { b with arr := if full then b.exp else b.arr, err := true, ovr := satAdd 32 b.ovr x }).barTrapWaiters c off 1

/-- An engine's arrival of n bytes (R301, R303); PEND is 0. -/
def State.barEngine (s : State) (c off n : Nat) : State :=
  let b := s.bar c off
  if b.err then s.setBar c off { b with ovr := satAdd 32 b.ovr n }
  else if b.exp = 0 then s.barOverrun c off n false
  else if !b.kind then s.barOverrun c off n false
  else if b.arr + n > b.exp then s.barOverrun c off (b.arr + n - b.exp) true
  else
    let s := s.setBar c off { b with arr := b.arr + n }
    if b.arr + n = b.exp then s.barComplete c off else s

/-- The engine arrivals that stay held on an object. -/
def State.setHeld (s : State) (c off : Nat) (ns : List Nat) : State :=
  s.updCore c (fun k => { k with barHeld := if ns = [] then k.barHeld.del off else k.barHeld.ins off ns })

/-- Apply held engine arrivals while PEND is 0 (R301); the first argument bounds their number. -/
def State.barDrainN (c off : Nat) : Nat → State → State
  | 0, s => s
  | f + 1, s =>
    if (s.bar c off).pend ≠ 0 then s
    else match ((s.core c).barHeld.find off).getD [] with
      | [] => s
      | n :: rest =>
        State.barDrainN c off f ((s.setHeld c off rest).barEngine c off n)

def State.barDrain (s : State) (c off : Nat) : State :=
  State.barDrainN c off ((((s.core c).barHeld.find off).getD []).length) s

/-- An engine arrives (R301): held while a completed phase is not observed by all; an arrival to an object that cannot count bytes is not held. -/
def State.barArriveEngine (s : State) (c off n : Nat) : State :=
  let b := s.bar c off
  if b.kind && !b.err && (b.pend > 0 || (s.core c).barHeld.has off) then
    (s.setHeld c off ((((s.core c).barHeld.find off).getD []) ++ [n])).barDrain c off
  else (s.barEngine c off n).barDrain c off

/-- After a plain store or atomic on a byte of the object: lanes that wait for a phase that PH no longer shows observe, and engine arrivals held behind a PEND
that is now 0 are applied (R298, R300, R301). -/
def State.barStored (s : State) (c x : Nat) : State :=
  let off := x / 16 * 16
  if (s.core c).barHeld.has off || s.packs.any (fun kp => kp.2.anyWhere (Lane.waitsBar c off) != 0) then
    let b := s.bar c off
    let due := fun (p : Pack) => p.anyWhere (fun l => l.waitsBar c off && (match l.why with | .barrier _ _ ph _ => ph != b.ph | _ => false)) != 0
    let n := (s.packs.filter (fun kp => (kp.2.barReg c off).isSome && due kp.2)).length
    let s := { s with packs := s.packs.map (fun (kp : Nat × Pack) => if due kp.2 then (kp.1, kp.2.barWake c off b.ph) else kp) }
    (if n = 0 then s else s.setBar c off { b with pend := b.pend - n }).barDrain c off
  else s

/-- A pack's observation (R299). -/
def State.barObserve (s : State) (core slot c off : Nat) : State :=
  let b := s.bar c off
  let s := s.updPack core slot (fun p => { p with bars := p.bars.map (fun r => if r.core == c && r.arr == off then { r with obs := b.ph } else r) })
  (s.setBar c off { b with pend := b.pend - 1 }).barDrain c off

/-- Deregistration (R300, R304). -/
def State.barDereg (s : State) (core slot c off : Nat) : State :=
  match (s.pack core slot).barReg c off with
  | none => s
  | some r =>
    let b := s.bar c off
    let s := s.updPack core slot (fun p => { p with bars := p.bars.filter (fun r => !(r.core == c && r.arr == off)) })
    s.setBar c off { b with waiters := b.waiters - 1, pend := if r.obs != b.ph then b.pend - 1 else b.pend }

/-- A pack exits: its registrations are dropped with n = 0 (R304). -/
def State.barExit (s : State) (core slot : Nat) : State :=
  (s.pack core slot).bars.foldl (fun s r =>
    let b := s.bar r.core r.arr
    let s := s.barDereg core slot r.core r.arr
    let s := if !b.err && b.exp ≠ 0 && b.exp = b.arr then s.barComplete r.core r.arr else s
    s.barDrain r.core r.arr) s

end Sys2Proof.Machine
end

