-- ==== Sys2Proof/Machine/Places.lean ====
section
/-! DEFINITION. The place of one byte of an access: memory, a core scratchpad or the chip scratchpad; reads and writes of places. -/

namespace Sys2Proof.Machine

inductive Place where
  | mem (a : Acc) (pa : Nat)
  | spad (c off : Nat)
  | chip (off : Nat)
  deriving DecidableEq, Repr

def State.placeTouch (s : State) : Place → State
  | .mem a pa => s.touch a pa 1
  | .spad c off => s.spadTouch c off
  | .chip _ => s

def State.placeByte (s : State) : Place → Byte
  | .mem a pa => s.readByte a pa
  | .spad c off => s.spadByte c off
  | .chip off => (s.chip.find off).getD 0

def State.placePsn (s : State) : Place → Bool
  | .mem a pa => s.psnAt a pa
  | .spad c off => s.spadPoisoned c off
  | .chip off => s.chipPsn.has (off / 64)

/-- Bytes at a list of places: the state after the access, the bytes, the poison of each. -/
def State.readPlaces (s : State) (ps : List Place) : State × List Byte × List Bool :=
  let s := ps.foldl State.placeTouch s
  (s, ps.map s.placeByte, ps.map s.placePsn)

/-- Write one byte at a place (a store; the bit of a line is only set by it). -/
def State.writePlace (s : State) (node : Nat) (p : Place) (b : Byte) (psn : Bool) : State :=
  match p with
  | .mem a pa => s.writeRun a pa [b] psn
  | .spad c off => (s.spadTouch c off).setSpad c off b psn
  | .chip off =>
    let s := s.commitNode node
    { s with chip := setCanon s.chip off b, chipPsn := if psn then s.chipPsn.ins (off / 64) () else s.chipPsn }

/-- After a write: barrier objects it reached (R298). -/
def State.placesStored (s : State) (ps : List Place) : State :=
  ((ps.filterMap (fun p => match p with | .spad c off => some (c, off / 16 * 16) | _ => none)).dedup).foldl (fun s x => s.barStored x.1 x.2) s

/-- Write bytes at places as one store: a run of memory bytes inside one line is written as one (R142). -/
def State.writePlaces (s : State) (node : Nat) (ps : List Place) (bs : List Byte) (psn : Bool) : State :=
  let each := fun (s : State) => ((ps.zip bs).foldl (fun s x => s.writePlace node x.1 x.2 psn) s).placesStored ps
  match ps with
  | .mem a pa :: rest =>
    if (rest.zipIdx.all (fun x => x.1 == .mem a (pa + 1 + x.2))) && decide (pa % 64 + ps.length ≤ 64) then s.writeRun a pa (bs.take ps.length) psn
    else each s
  | _ => each s

end Sys2Proof.Machine
end

