-- ==== Sys2Proof/Machine/Xlate.lean ====
section
/-! DEFINITION. Translation (R104 to R112): page walks in one and two stages, TLB entries, and the causes of a fault (R106, R118). -/

namespace Sys2Proof.Machine

/-- Causes of a translation fault (R118). -/
def cNOTVALID := 0
def cPERM := 1
def cRSVD := 2
def cOC := 3
def cALIGN := 4
def cTARGET := 5

/-- Rights an access needs (R106). -/
structure Need where
  r : Bool := false
  w : Bool := false
  x : Bool := false
  deriving DecidableEq, Repr

def needR : Need := { r := true }
def needW : Need := { w := true }
def needX : Need := { x := true }

/-- Why a walk stopped. -/
inductive XFault where
  | fault (stage level cause gpa : Nat)
  /-- A table page lies in a home that is lost (R99). -/
  | lost
  deriving DecidableEq, Repr

/-- A leaf as a stage yields it. -/
structure Leaf where
  out : Nat := 0
  size : Nat := 12
  level : Nat := 3
  r : Bool := false
  w : Bool := false
  x : Bool := false
  oc : Nat := 0
  pin : Bool := false
  g : Bool := false
  d : Bool := false
  key : Nat := 0
  deriving DecidableEq, Repr

/-- Roots: 0 control, 1 tensor, 2 supervisor (R104). -/
def State.rootOf (s : State) (ctx root : Nat) : Nat := bits (s.ctxReg ctx (8 + 8 * root)) 51 12 * 4096

/-- The bits of a VA that a root translates (R95): 44 in tensor space, else 48. -/
def rootVa (root va : Nat) : Nat := if root = 1 then va % 2 ^ 44 else va % 2 ^ 48

/-- Index of a level (R104). -/
def ptIndex (va lvl : Nat) : Nat := va / 2 ^ (39 - 9 * lvl) % 512

/-- The check of one entry (R106): a fault cause, a pointer, or a leaf. `tensor`: a leaf must have OC 00. -/
inductive PteKind where
  | bad (cause : Nat)
  | next (pa : Nat)
  | leaf
  deriving DecidableEq, Repr

def pteCheck (e lvl : Nat) (tensor : Bool) (need : Need) : PteKind :=
  let v := bit e 0; let r := bit e 1; let w := bit e 2; let x := bit e 3
  let oc := bits e 5 4
  let sz := bit e 10
  let leaf := r || w || x
  if !v then .bad cNOTVALID
  else if (w && !r) || bit e 11 || bits e 63 57 != 0 || (sz && lvl != 3) ||
      (!leaf && (oc != 0 || bits e 10 6 != 0 || bits e 56 52 != 0 || lvl == 3)) || (leaf && lvl == 0) then .bad cRSVD
  else if !leaf then .next (bits e 51 12 * 4096)
  else if oc == 3 || (tensor && oc != 0) then .bad cOC
  else if (lvl == 1 && bits e 29 12 != 0) || (lvl == 2 && bits e 20 12 != 0) || (sz && bits e 15 12 != 0) then .bad cALIGN
  else if (need.r && !r) || (need.w && !w) || (need.x && !x) then .bad cPERM
  else .leaf

/-- log2 of the page a leaf maps. -/
def leafSize (e lvl : Nat) : Nat := if lvl = 1 then 30 else if lvl = 2 then 21 else if bit e 10 then 16 else 12

/-- Read an entry for a context's walk, coherently (R111). -/
def State.readPte (s : State) (ctx pa : Nat) : State × Nat :=
  let s := s.touch { ctx := ctx } pa 8
  (s, s.readNat {} pa 8)

/-- Set A, and D when a write needs it, by an atomic OR on the entry (R108); a page table update is never provisional (R421). The model does so for a leaf
that passes R106, also where the walk faults later, and for no stage-2 leaf of a table page does the update itself set D (log 60). -/
def State.setAD (s : State) (ctx pa e : Nat) (w : Bool) : State × Nat :=
  let add := (if bit e 8 then 0 else 256) + (if w && !bit e 9 then 512 else 0)
  if add = 0 then (s, e) else (s.writeRun { ctx := ctx } (pa + 1) [BitVec.ofNat 8 ((e + add) / 256)] false, e + add)

/-- A group of 64 KiB translates as one of its 16 entries would alone; which one is free (R107). It is asked only where the entry of the address itself has
V = 1 and SZ = 1; any other entry is taken as it stands (log 26). -/
def groupEntry (s : State) (t va : Nat) : State × Nat :=
  let (n, s) := s.draw
  let base := t + 8 * (ptIndex va 3 / 16 * 16)
  let first := s.readNat {} base 8
  let same := (List.range 16).all (fun i => setBits (s.readNat {} (base + 8 * i) 8) 9 8 0 == setBits first 9 8 0)
  if same then (s, t + 8 * ptIndex va 3) else (s, base + 8 * (Config.groupPick n % 16))

def mkLeaf (e lvl va : Nat) : Leaf :=
  let sz := leafSize e lvl
  { out := bits e 51 12 * 4096 / 2 ^ sz * 2 ^ sz + va % 2 ^ sz, size := sz, level := lvl, r := bit e 1, w := bit e 2, x := bit e 3,
    oc := bits e 5 4, pin := bit e 6, g := bit e 7, d := bit e 9, key := bits e 56 52 }

/-- Stage 2 (R109): levels left to read, table address. -/
def s2Walk (ctx gpa : Nat) (tensor : Bool) (need : Need) (w : Bool) : Nat → Nat → State → State × Except XFault Leaf
  | 0, _, s => (s, .error (.fault 2 3 cRSVD gpa))
  | n + 1, t, s =>
    let lvl := 3 - n
    if !(paOk t && paClass t == 8) then (s, .error (.fault 2 lvl cTARGET gpa))
    else if s.homeLost t then (s, .error .lost)
    else
      let a := t + 8 * ptIndex gpa lvl
      let (s, e) := s.readPte ctx a
      let (s, a) := if lvl == 3 && bit e 0 && bit e 10 then groupEntry s t gpa else (s, a)
      let (s, e) := s.readPte ctx a
      match pteCheck e lvl tensor need with
      | .bad c => (s, .error (.fault 2 lvl c gpa))
      | .next p => s2Walk ctx gpa tensor need w n p s
      | .leaf => let (s, e) := s.setAD ctx a e w; (s, .ok (mkLeaf e lvl gpa))

/-- Stage 2 of one address (R109). A GPA beyond 48 bits faults at level 0: the rule gives the stage and cause, the level is the model's (log 60). -/
def s2Translate (ctx func gpa : Nat) (tensor : Bool) (need : Need) (w : Bool) (s : State) : State × Except XFault Leaf :=
  let r := s.reg (0x620000 + 8 * func)
  if !bit r 0 then (s, .error (.fault 2 0 cNOTVALID gpa))
  else if bits gpa 51 48 ≠ 0 then (s, .error (.fault 2 0 cTARGET gpa))
  else s2Walk ctx gpa tensor need w 4 (bits r 51 12 * 4096) s

/-- The table page of stage 1 as a physical address: itself, or through stage 2 for a guest (R109, R110). -/
def tableAddr (ctx func t lvl : Nat) (s : State) : State × Except XFault Nat :=
  let chk := fun (s : State) (pa : Nat) =>
    if !(paOk pa && paClass pa == 8) then (s, Except.error (.fault 1 lvl cTARGET 0))
    else if s.homeLost pa then (s, .error .lost)
    else (s, .ok pa)
  if func = 0 then chk s t
  else
    match s2Translate ctx func t false needR false s with
    | (s, .error f) => (s, .error f)
    | (s, .ok l) => chk s l.out

/-- Stage 1 (R110): levels left to read, table address. Answers the leaf and the address of its entry. A and D of a leaf that passes R106 are set here,
whatever the rest of the walk meets (log 60). -/
def s1Walk (ctx func va : Nat) (tensor : Bool) (need : Need) (w : Bool) : Nat → Nat → State → State × Except XFault Leaf
  | 0, _, s => (s, .error (.fault 1 3 cRSVD 0))
  | n + 1, t, s =>
    let lvl := 3 - n
    match tableAddr ctx func t lvl s with
    | (s, .error f) => (s, .error f)
    | (s, .ok tp) =>
      let a := tp + 8 * ptIndex va lvl
      let (s, e) := s.readPte ctx a
      let (s, a) := if lvl == 3 && bit e 0 && bit e 10 then groupEntry s tp va else (s, a)
      let (s, e) := s.readPte ctx a
      match pteCheck e lvl tensor need with
      | .bad c => (s, .error (.fault 1 lvl c 0))
      | .next p => s1Walk ctx func va tensor need w n p s
      | .leaf => let (s, e) := s.setAD ctx a e w; (s, .ok (mkLeaf e lvl va))

/-- The stronger ordering class: 01 over 00 over 10 (R109). -/
def ocJoin (a b : Nat) : Nat := if a = 1 || b = 1 then 1 else if a = 0 || b = 0 then 0 else 2

/-- Classes a root's leaf may name (R98). -/
def rootAllows (root pa : Nat) : Bool :=
  paOk pa && (match root with | 0 => paClass pa == 8 | 1 => paClass pa == 0 | _ => paClass pa == 8 || paClass pa == 12)

/-- R430: a translation whose key slot is not loaded faults PERM. Control data always use slot 0 (R429). -/
def State.keyLoaded (s : State) (root key : Nat) : Bool := root != 1 || bit (s.reg (0x710000 + 8 * key)) 0

/-- A whole walk of a context's root (R109, R110). -/
def walk (s : State) (ctx root va : Nat) (need : Need) (w : Bool) : State × Except XFault (Leaf × Nat) :=
  let f := s.funcOf ctx
  let tensor := root == 1
  match s1Walk ctx f (rootVa root va) tensor need w 4 (s.rootOf ctx root) s with
  | (s, .error e) => (s, .error e)
  | (s, .ok l1) =>
    if f = 0 then
      if !rootAllows root l1.out then (s, .error (.fault 1 l1.level cTARGET 0))
      else if !s.keyLoaded root l1.key then (s, .error (.fault 1 l1.level cPERM 0))
      else (s, .ok (l1, 0))
    else
      match s2Translate ctx f l1.out tensor need w s with
      | (s, .error e) => (s, .error e)
      | (s, .ok l2) =>
        if !rootAllows root l2.out then (s, .error (.fault 2 l2.level cTARGET l1.out))
        else if !s.keyLoaded root l2.key then (s, .error (.fault 2 l2.level cPERM l1.out))
        else (s, .ok ({ l2 with size := min l1.size l2.size, level := l1.level, r := l1.r && l2.r, w := l1.w && l2.w, x := l1.x && l2.x,
                                oc := ocJoin l1.oc l2.oc, pin := l1.pin && l2.pin, g := l1.g, d := l1.d && l2.d }, l1.out))

/-- Does an entry translate this page (R112)? -/
def TlbEntry.hit (e : TlbEntry) (wh func ctx root va : Nat) (need : Need) : Bool :=
  e.where_ == wh && e.func == func && e.root == root && (e.g || e.ctx == ctx) && e.va == rootVa root va / 2 ^ e.size * 2 ^ e.size &&
  (!need.r || e.r) && (!need.w || (e.w && e.d)) && (!need.x || e.x)

/-- A translated address. -/
structure Xlat where
  pa : Nat
  oc : Nat
  pin : Bool
  key : Nat
  deriving DecidableEq, Repr

inductive XRes where
  | ok (x : Xlat)
  | bad (f : XFault)
  deriving DecidableEq, Repr

/-- Entries of the TLBs of one place that are kept (R111: 4,096 of a cluster). -/
def tlbKeep (es : List TlbEntry) (e : TlbEntry) : List TlbEntry :=
  e :: (es.filter (fun x => !(x.where_ == e.where_ && x.func == e.func && x.root == e.root && x.ctx == e.ctx && x.va == e.va))).take 40959

/-- Translate an address through the TLBs of a cluster (`wh` 0 to 9) or of the engines (10), by a walk on a miss; a walk that faults leaves no entry (R112). -/
def xlate (s : State) (wh ctx root va : Nat) (need : Need) : State × XRes :=
  let f := s.funcOf ctx
  match s.tlb.find? (fun e => e.hit wh f ctx root va need) with
  | some e => (s, .ok { pa := e.pa + va % 2 ^ e.size, oc := e.oc, pin := e.pin, key := e.key })
  | none =>
    match walk s ctx root va need need.w with
    | (s, .error e) => (s, .bad e)
    | (s, .ok (l, gpa)) =>
      let sz := 2 ^ l.size
      let e : TlbEntry := { where_ := wh, func := f, ctx := ctx, root := root, va := rootVa root va / sz * sz, size := l.size, pa := l.out / sz * sz,
                            gpa := gpa / sz * sz, r := l.r, w := l.w, x := l.x, oc := l.oc, pin := l.pin, g := l.g, d := l.d, key := l.key }
      ({ s with tlb := tlbKeep s.tlb e }, .ok { pa := l.out, oc := l.oc, pin := l.pin, key := l.key })

/-- The fault image of a walk's fault (R118); the caller adds lanes, pack, core and tag. -/
def faultImg (f : XFault) (ctx va kind : Nat) : FaultImg :=
  match f with
  | .fault st lv c g => { va := BitVec.ofNat 64 va, gpa := if st = 2 then BitVec.ofNat 64 g else 0, ctx := ctx, kind := kind, stage := st - 1, level := lv, cause := c }
  | .lost => { va := BitVec.ofNat 64 va, ctx := ctx, kind := kind }

/-! ## Untranslated and pinned control accesses -/

/-- The physical address of a control VA, when it translates and its home is there (R99); `pin` asks for the combined PIN (R123). -/
def ctlAddr (s : State) (wh ctx va : Nat) (need : Need) (pin : Bool) : State × Option Xlat :=
  if bits va 63 48 ≠ 0 then (s, none)
  else
    match xlate s wh ctx 0 va need with
    | (s, .ok x) => if s.homeLost x.pa || (pin && !x.pin) then (s, none) else (s, some x)
    | (s, .bad _) => (s, none)

/-- Write bytes at a control VA, line by line; false when some byte cannot be reached. The bytes before it are written. The first argument bounds the lines. -/
def ctlWriteN (wh ctx : Nat) (pin psn : Bool) : Nat → Nat → List Byte → State → State × Bool
  | 0, _, _, s => (s, true)
  | n + 1, va, bs, s =>
    match bs with
    | [] => (s, true)
    | _ =>
      let k := 64 - va % 64
      match ctlAddr s wh ctx va needW pin with
      | (s, none) => (s, false)
      | (s, some x) => ctlWriteN wh ctx pin psn n (va + k) (bs.drop k) (s.writeRun { ctx := ctx } x.pa (bs.take k) psn)

def ctlWrite (wh ctx : Nat) (pin psn : Bool) (va : Nat) (bs : List Byte) (s : State) : State × Bool :=
  ctlWriteN wh ctx pin psn (bs.length / 64 + 2) va bs s

/-- Read n bytes at a control VA, values and line poison, line by line. -/
def ctlReadN (wh ctx : Nat) (pin : Bool) : Nat → Nat → Nat → State → State × Option (List (Byte × Bool))
  | 0, _, _, s => (s, some [])
  | f + 1, va, n, s =>
    if n = 0 then (s, some [])
    else
      let k := min n (64 - va % 64)
      match ctlAddr s wh ctx va needR pin with
      | (s, none) => (s, none)
      | (s, some x) =>
        let s := s.touch { ctx := ctx } x.pa k
        let b := (s.readBytes {} x.pa k).map (fun b => (b, s.psnAt {} x.pa))
        match ctlReadN wh ctx pin f (va + k) (n - k) s with
        | (s, none) => (s, none)
        | (s, some r) => (s, some (b ++ r))

def ctlRead (wh ctx : Nat) (pin : Bool) (va n : Nat) (s : State) : State × Option (List (Byte × Bool)) :=
  ctlReadN wh ctx pin (n / 64 + 2) va n s

end Sys2Proof.Machine
end

