-- ==== Sys2Proof/Machine/Access.lean ====
section
/-! DEFINITION. From a lane's address to the places of its bytes: space byte (R95, R96), windows (R102, R103, R128), translation of every page
(R142), watchpoints (R442), pinned areas reached by a handler (R123), and the mirror of reads (R425, R426). -/

namespace Sys2Proof.Machine

/-! ## Spaces -/

/-- A decoded address: control VA, local tensor VA, scratchpad-family offset, lane-private offset. -/
inductive Addr where
  | ctl (va : Nat)
  | ten (va : Nat)
  | spad (f : Nat)
  | priv (o : Nat)
  deriving DecidableEq, Repr

/-- R95 and steps 1 and 2 of R96 for a pack: a remote tensor address is none of its instructions' (R101). The error is a trap code and detail. -/
def decodeVa (pkg va : Nat) : Except (Nat × Nat) Addr :=
  match bits va 63 56 with
  | 0x00 => if bits va 55 48 = 0 then .ok (.ctl va) else .error (tACCESS, 0)
  | 0x40 => if !bit va 55 && bits va 54 44 = pkg then .ok (.ten va) else .error (tACCESS, 0)
  | 0xF0 => if bits va 55 32 = 0 then .ok (.spad (va % 2 ^ 32)) else .error (tACCESS, 0)
  | 0xF1 => if bits va 55 32 = 0 then .ok (.priv (va % 2 ^ 32)) else .error (tACCESS, 0)
  | 0xFF => if bits va 55 48 = 0 then .error (tPRIV, 2) else .error (tACCESS, 0)
  | _ => .error (tACCESS, 0)

/-- The number an alignment applies to (R139, R140). -/
def Addr.num : Addr → Nat
  | .ctl v => v
  | .ten v => v
  | .spad f => f
  | .priv o => o

/-- What a range of bytes resolves to: places, a trap, a translation fault, or a wait for a cluster member's start (R129). -/
inductive PlRes where
  | ok (ps : List Place)
  | trap (code detail : Nat)
  | fault (img : FaultImg)
  | wait
  deriving DecidableEq, Repr

/-- Bytes of a workgroup's allocation (R131). -/
def Wg.spadBytes (w : Wg) : Nat := w.ways * 16384

def spadRun (w : Wg) (x n : Nat) : List Place := (List.range n).map (fun i => .spad w.core (w.way * 16384 + x + i))

/-- Members of the cluster of a workgroup: the index of member 0 and the number of members (R128, R373). -/
def State.clusterOf (s : State) (w : Wg) : Nat × Nat :=
  let r := (s.launch w.uid).r
  let n := r.clm1 + 1
  let b := w.idx / n * n
  (b, min n (r.wgs - b))

/-- Carve bytes of a context's chip window: base and size (R127). -/
def State.chipWin (s : State) (ctx : Nat) : Nat × Nat :=
  let v := s.reg (0x310000 + 8 * ctx)
  (bits v 6 0 * 2 ^ 20, bits v 22 16 * 2 ^ 20)

/-- A scratchpad-family range (R128, R129). Every workgroup of a launch has the same allocation, so bounds hold for a member that has not started, too. -/
def spadPlaces (s : State) (p : Pack) (f n : Nat) : PlRes :=
  let w := s.wg p.wg
  match f / 2 ^ 28 with
  | 0 => if f % 2 ^ 28 + n ≤ w.spadBytes then .ok (spadRun w (f % 2 ^ 28) n) else .trap tACCESS 0
  | 1 =>
    let (b, cnt) := s.clusterOf w
    let m := bits f 27 24
    if m ≥ cnt then .trap tACCESS 0
    else
      match s.wgs.find? (fun x => x.2.uid == w.uid && x.2.idx == b + m) with
      | none => if f % 2 ^ 24 + n ≤ w.spadBytes then .wait else .trap tACCESS 0
      | some (_, t) =>
        if f % 2 ^ 24 + n ≤ t.spadBytes then .ok (spadRun t (f % 2 ^ 24) n) else .trap tACCESS 0
  | 2 =>
    let (b, sz) := s.chipWin p.ctx
    if f % 2 ^ 28 + n ≤ sz then .ok ((List.range n).map (fun i => .chip (b + f % 2 ^ 28 + i))) else .trap tACCESS 0
  | _ => .trap tACCESS 0

/-! ## Translation of a range -/

/-- Where an access comes from: cluster TLBs, context, core and node for the accesses, R118 kind, rights. `pin` asks for the combined PIN (R123). -/
structure Via where
  wh : Nat
  ctx : Nat
  core : Option Nat
  node : Nat
  kind : Nat
  need : Need
  deriving DecidableEq, Repr

def runPlaces (v : Via) (x : Xlat) (n : Nat) : List Place :=
  (List.range n).map (fun i => .mem { core := v.core, node := v.node, key := x.key, oc := x.oc, ctx := v.ctx } (x.pa + i))

/-- Translate n bytes at a VA, page by page (R142); `pages` bounds the pages. -/
def transRange (v : Via) (root : Nat) : Nat → Nat → Nat → State → State × PlRes
  | 0, _, _, s => (s, .ok [])
  | f + 1, va, n, s =>
    if n = 0 then (s, .ok [])
    else
      let k := min n (4096 - va % 4096)
      match xlate s v.wh v.ctx root va v.need with
      | (s, .bad .lost) => (s, .trap tACCESS 1)
      | (s, .bad e) => (s, .fault (faultImg e v.ctx va v.kind))
      | (s, .ok x) =>
        if s.homeLost x.pa then (s, .trap tACCESS 1)
        else
          match transRange v root f (va + k) (n - k) s with
          | (s, .ok ps) => (s, .ok (runPlaces v x k ++ ps))
          | r => r

/-- Lane-private bytes, each at its own VA (R103). -/
def transPriv (v : Via) (p : Pack) (l o n : Nat) (s : State) : State × PlRes :=
  (List.range n).foldl (fun acc i =>
    match acc with
    | (s, .ok ps) =>
      match transRange v 0 1 (s.lpVa p l (o + i)) 1 s with
      | (s, .ok q) => (s, .ok (ps ++ q))
      | r => r
    | r => r) (s, .ok [])

/-- Bounds of windows and of the address space (step 3 of R96), for n bytes. -/
def addrBounds (s : State) (p : Pack) (a : Addr) (n : Nat) : Option (Nat × Nat) :=
  match a with
  | .ctl v => if v + n ≤ 2 ^ 48 then none else some (tACCESS, 0)
  | .ten v => if v % 2 ^ 44 + n ≤ 2 ^ 44 then none else some (tACCESS, 0)
  | .spad f => match spadPlaces s p f n with
    | .trap c d => some (c, d)
    | _ => none
  | .priv o => if o + n ≤ (s.lrecOf p).lpsize then none else some (tACCESS, 0)

/-- Places of n bytes of lane l (step 4 of R96). -/
def addrPlaces (v : Via) (p : Pack) (l : Nat) (a : Addr) (n : Nat) (s : State) : State × PlRes :=
  match a with
  | .ctl va => transRange v 0 (n / 4096 + 2) va n s
  | .ten va => transRange v 1 (n / 4096 + 2) va n s
  | .spad f => (s, spadPlaces s p f n)
  | .priv o => transPriv v p l o n s

/-- Control VAs of n bytes, for the test of R123. -/
def Addr.ctlVas (s : State) (p : Pack) (l n : Nat) : Addr → List Nat
  | .ctl v => (List.range n).map (v + ·)
  | .priv o => (List.range n).map (fun i => s.lpVa p l (o + i))
  | _ => []

/-- The in-pack handler stack of a pack (R387). -/
def State.stackVa (s : State) (core slot ctx : Nat) : Nat := s.ctxReg ctx 0x50 + 4096 * (48 * core + slot)

/-- Is a control VA in one of the pack's pinned areas? The answer is the DOUBLE detail (R123, R382, R387). -/
def pinnedArea (s : State) (core slot : Nat) (p : Pack) (va : Nat) : Option Nat :=
  let q := s.lrecOf p
  let fb := s.lpBase p + 32 * q.lpsize
  let st := s.stackVa core slot p.ctx
  if (s.frBase p ≤ va ∧ va < s.frBase p + 256) ∨ (s.crBase p ≤ va ∧ va < s.crBase p + 8192) ∨ (fb ≤ va ∧ va < fb + 32 * q.fbsize) then some 1
  else if st ≤ va ∧ va < st + 4096 then some 3
  else none

/-! ## Watchpoints -/

/-- Does a place meet a watchpoint of its core (R440, R442)? `rd` and `wr` say how the access uses it. -/
def watchHit (s : State) (ctx : Nat) (rd wr : Bool) : Place → Option Nat
  | .spad c off =>
    let k := s.core c
    let csr := fun n => ((k.csr.find n).getD 0).toNat
    let f := csr 0x7E0
    if bit f 6 && bits f 5 0 != ctx then none
    else (List.range 4).find? (fun i =>
      let w := csr (0x7DC + i)
      let sz := bits w 31 27
      bit w 0 && ((rd && bit w 1) || (wr && bit w 2)) && decide (2 ≤ sz ∧ sz ≤ 18) && bits w 26 8 / 2 ^ sz == off / 2 ^ sz)
  | _ => none

/-- The WATCH trap of a lane's access, with INFO under R386. -/
def watchTrap (s : State) (ctx l : Nat) (rd wr : Bool) (ps : List Place) : Option LTrap :=
  (ps.findSome? (watchHit s ctx rd wr)).map (fun i =>
    let off := match ps with | .spad _ o :: _ => o | _ => 0
    { l := l, code := tWATCH, detail := i, info := leBytes 9 (i + off * 2 ^ 32 + b2n (!rd) * 2 ^ 64) })

/-! ## A lane's access -/

/-- What a lane's address operand gives (R139). -/
inductive LAddr where
  | va (a : DWord)
  | off (f : Int)
  | priv (o : Int)
  deriving DecidableEq, Repr

/-- Out-of-range offsets trap ACCESS (R139); a VA is decoded. -/
def LAddr.decode (pkg : Nat) : LAddr → Except (Nat × Nat) Addr
  | .va a => decodeVa pkg a.toNat
  | .off f => if 0 ≤ f ∧ f < 2 ^ 32 then .ok (.spad f.toNat) else .error (tACCESS, 0)
  | .priv o => if 0 ≤ o then .ok (.priv o.toNat) else .error (tACCESS, 0)

def LAddr.vaOf : LAddr → DWord
  | .va a => a
  | .off f => BitVec.ofInt 64 f
  | .priv o => BitVec.ofInt 64 o

/-- What one lane's access comes to. -/
inductive LaneGot where
  | go (ps : List Place)
  | trap (t : LTrap)
  | fault (img : FaultImg)
  | wait
  deriving DecidableEq, Repr

/-- The unit's access path (R111): its cluster's TLBs, its core's L1, its node. -/
def Ctx.via (c : Ctx) (kind : Nat) (need : Need) : Via :=
  { wh := c.u.core / 16, ctx := c.p.ctx, core := some c.u.core, node := (c.s.wg c.p.wg).uid, kind := kind, need := need }

/-- At handler level, a translation fault, an ACCESS condition or a leaf without PIN of an access that touches a pinned area is DOUBLE (R123). -/
def pinCheck (c : Ctx) (s : State) (l : Nat) (a : Addr) (n : Nat) (g : LaneGot) : LaneGot :=
  if c.p.handler.isNone then g
  else
    let area := fun va => pinnedArea s c.u.core c.u.slot c.p va
    let hit := (a.ctlVas s c.p l n).filter (fun va => (area va).isSome)
    match hit with
    | [] => g
    | va :: _ =>
      let dbl : LaneGot := .trap { l := l, code := tDOUBLE, detail := (area va).getD 1, va := BitVec.ofNat 64 va }
      match g with
      | .fault _ => dbl
      | .trap t => if t.code = tACCESS then dbl else g
      | .go _ =>
        if hit.all (fun va => match xlate s (c.u.core / 16) c.p.ctx 0 va {} with
          | (_, .ok x) => x.pin
          | _ => false) then g else dbl
      | .wait => g

/-- One lane's access: space and bounds of `span` bytes, alignment, then the places of n bytes `skip` bytes on, then watchpoints. -/
def laneAccess (c : Ctx) (v : Via) (l : Nat) (la : LAddr) (skip n span align : Nat) (rd wr : Bool) (s : State) : State × LaneGot :=
  let trap := fun (code detail : Nat) => LaneGot.trap { l := l, code := code, detail := detail, va := la.vaOf }
  match la.decode s.pkgId with
  | .error (k, d) => (s, trap k d)
  | .ok a =>
    match addrBounds s c.p a span with
    | some (k, d) => (s, pinCheck c s l a span (trap k d))
    | none =>
      if a.num % align ≠ 0 then (s, trap tMISALIGN 0)
      else
        let at' : Addr := match a with
          | .ctl x => .ctl (x + skip)
          | .ten x => .ten (x + skip)
          | .spad x => .spad (x + skip)
          | .priv x => .priv (x + skip)
        let (s, r) := addrPlaces v c.p l at' n s
        match r with
        | .trap k d => (s, pinCheck c s l at' n (trap k d))
        | .fault img => (s, pinCheck c s l at' n (.fault { img with core := c.u.core, pack := c.u.slot }))
        | .wait => (s, .wait)
        | .ok ps =>
          match watchTrap s c.p.ctx l rd wr ps with
          | some t => (s, .trap t)
          | none => (s, pinCheck c s l at' n (.go ps))

/-! ## Recording (R425, R426) -/

def le64 (bs : List Byte) (i : Nat) : Nat := leNat ((bs.drop i).take 8)

/-- Places of a range of the recording buffer, in the local tensor range, mapped with PIN; none where a byte cannot be reached. -/
def recPlaces (s : State) (l : Launch) (off n : Nat) (need : Need) : State × Option (List Place) :=
  let va := l.r.recva.toNat + off
  if bits va 63 56 ≠ 0x40 ∨ bit va 55 ∨ bits va 54 44 ≠ s.pkgId then (s, none)
  else
    match xlate s 10 l.ctx 1 va need with
    | (s, .bad _) => (s, none)
    | (s, .ok x) =>
      if !x.pin then (s, none)
      else match transRange { wh := 10, ctx := l.ctx, core := none, node := 0, kind := 5, need := need } 1 (n / 4096 + 2) va n s with
        | (s, .ok ps) => (s, some ps)
        | (s, _) => (s, none)

def recRead (s : State) (l : Launch) (off n : Nat) : State × Option (List Byte) :=
  match recPlaces s l off n needR with
  | (s, some ps) => let r := s.readPlaces ps; (r.1, some r.2.1)
  | (s, none) => (s, none)

def recWrite (s : State) (l : Launch) (off : Nat) (bs : List Byte) : State × Bool :=
  match recPlaces s l off bs.length needW with
  | (s, some ps) => ((ps.zip bs).foldl (fun s x => s.writePlace 0 x.1 x.2 false) s, true)
  | (s, none) => (s, false)

/-- OVF is set and mirroring ends for the launch. -/
def recOverflow (s : State) (uid : Nat) : State :=
  let l := s.launch uid
  let (s, _) := recWrite s l 16 [1]
  { s with launches := s.launches.upd uid (fun l => { l with recOvf := true }) }

/-- Bytes of the entry with this head (all but the lane mask and count), in replay mode; the first argument bounds the search. -/
def recFind (l : Launch) (head : Nat) : Nat → Nat → State → State × Option (List Byte)
  | 0, _, s => (s, none)
  | f + 1, off, s =>
    match recRead s l off 16 with
    | (s, none) => (s, none)
    | (s, some h) =>
      let n := bits (leNat h) 127 96
      if leNat h % 2 ^ 64 = head then recRead s l (off + 16) n
      else recFind l head f (off + 16 + (n + 15) / 16 * 16) s

/-- One mirrored read: recorded, or served from the recording. Answers the bytes the reader takes. -/
def mirrorRead (s : State) (uid wg pkid : Nat) (engine : Bool) (seq : Nat) (lanes : Word) (bs : List Byte) : State × List Byte :=
  let l := s.launch uid
  if !l.r.rec_ || bs.isEmpty then (s, bs)
  else
    let head := wg % 2 ^ 32 + pkid % 32 * 2 ^ 32 + b2n engine * 2 ^ 37 + seq % 2 ^ 24 * 2 ^ 40
    match recRead s l 0 24 with
    | (s, none) => (if l.recOvf then s else recOverflow s uid, bs)
    | (s, some h) =>
      let size := le64 h 0
      if bit (leNat h) 129 then
        match recFind l head (le64 h 8 / 16 + 1) 64 s with
        | (s, some b) => if b.length = bs.length then (s, b) else (recOverflow s uid, bs)
        | (s, none) => (recOverflow s uid, bs)
      else if l.recOvf then (s, bs)
      else
        let pad := (16 - bs.length % 16) % 16
        let e := leBytes 16 (head + lanes.toNat * 2 ^ 64 + bs.length * 2 ^ 96) ++ bs ++ List.replicate pad 0
        if l.recUsed + e.length > size then (recOverflow s uid, bs)
        else
          match recWrite s l l.recUsed e with
          | (s, false) => (recOverflow s uid, bs)
          | (s, true) =>
            let (s, ok) := recWrite s l 8 (leBytes 8 (l.recUsed + e.length))
            let s := { s with launches := s.launches.upd uid (fun l => { l with recUsed := l.recUsed + e.length }) }
            (if ok then s else recOverflow s uid, bs)

/-- A pack's mirrored read (R425): the next sequence number of the pack. -/
def packMirror (s : State) (core slot : Nat) (lanes : Word) (bs : List Byte) : State × List Byte :=
  let p := s.pack core slot
  if !(s.lrecOf p).rec_ then (s, bs)
  else
    let w := s.wg p.wg
    let (s, bs) := mirrorRead s w.uid w.idx p.pkid false p.recSeq lanes bs
    (s.updPack core slot (fun p => { p with recSeq := p.recSeq + 1 }), bs)

end Sys2Proof.Machine
end

