-- ==== Sys2Proof/Machine/IntVec.lean ====
section
/-! DEFINITION. Integer vector instructions, 0x10 to 0x2F (R235 to R244). -/

namespace Sys2Proof.Machine

/-! ## Immediates (R29, R30) -/

/-- I format: the signed field, or V under IMX. -/
def immI (i : Imm 11) : Word := match i.hi with | some h => h ++ i.lo | none => i.lo.signExtend 32

/-- I format, zero-extended (ANDI, ORI, XORI). -/
def immZ (i : Imm 11) : Word := match i.hi with | some h => h ++ i.lo | none => i.lo.setWidth 32

/-- W format. -/
def immW (i : Imm 18) : Word := match i.hi with | some h => h ++ (i.lo.setWidth 11) | none => i.lo.signExtend 32

/-! ## Results -/

def one (w : Word) : LaneRes := { vals := [w] }

/-- A pair: the even register holds bits [31:0] (R71). -/
def two (w : DWord) : LaneRes := { vals := [w.setWidth 32, (w >>> 32).setWidth 32] }

/-- The nearest value of lo to hi. -/
def clampI (lo hi v : Int) : Int := if v < lo then lo else if hi < v then hi else v

/-- IADD and ISUB on 32 bits: `v` is the exact signed result, `u` the exact unsigned one. -/
def addRes (x : BitVec 4) (v u : Int) : Word :=
  if x == 1 then BitVec.ofInt 32 (clampI (-2147483648) 2147483647 v)
  else if x == 2 then BitVec.ofInt 32 (clampI 0 4294967295 u)
  else BitVec.ofInt 32 u

/-- Shifts by a full count; at the width or above, nothing of the value is left but its sign for SAR (R238). -/
def shlBy {n : Nat} (a : BitVec n) (c : Nat) : BitVec n := if n ≤ c then 0 else a <<< c
def shrBy {n : Nat} (a : BitVec n) (c : Nat) : BitVec n := if n ≤ c then 0 else a >>> c
def sarBy {n : Nat} (a : BitVec n) (c : Nat) : BitVec n := a.sshiftRight (min c n)

/-- Leading zero bits (R239). -/
def clz32 (a : Word) : Nat := ((List.range 32).find? (fun k => a.getLsbD (31 - k))).getD 32
def ctz32 (a : Word) : Nat := ((List.range 32).find? (fun k => a.getLsbD k)).getD 32
def brev32 (a : Word) : Word := laneMask ((lanesOf a).map (fun k => 31 - k))
def bswap32 (a : Word) : Word := a.extractLsb' 0 8 ++ a.extractLsb' 8 8 ++ a.extractLsb' 16 8 ++ a.extractLsb' 24 8

/-- Bit field [pos+len-1:pos] (R241). -/
def bfx (a : Word) (pos len : Nat) : Nat := a.toNat / 2 ^ pos % 2 ^ len

/-- A condition code of R44 on n-bit values; 2 to 5 compare signed when `sg`. -/
def condHolds {n : Nat} (c : Nat) (sg : Bool) (a b : BitVec n) : Bool :=
  let lt := if sg then a.slt b else a.ult b
  let le := if sg then a.sle b else a.ule b
  match c with
  | 0 => a == b
  | 1 => a != b
  | 2 => lt
  | 3 => le
  | 4 => !le
  | 5 => !lt
  | 6 => a.ult b
  | 7 => a.ule b
  | 8 => b.ult a
  | _ => b.ule a

/-! ## Forms -/

def ab1 (a b : VReg) : List VUse := [⟨.A, a, 1⟩, ⟨.B, b, 1⟩]

/-- Two 32-bit sources, one 32-bit result. -/
def int2 (i : Instr) (d a b : VReg) (f : Word → Word → Word) (s : State) : Out :=
  runUnit i (instrUses i) (fun c => vop c d 1 (ab1 a b) (fun l => one (f (c.rv a l) (c.rv b l)))) s

/-- One 32-bit source, one 32-bit result. -/
def int1 (i : Instr) (d a : VReg) (f : Word → Word) (s : State) : Out :=
  runUnit i (instrUses i) (fun c => vop c d 1 [⟨.A, a, 1⟩] (fun l => one (f (c.rv a l)))) s

/-! ## Meanings -/

/-- IADD (R238). -/
def execIadd (p : Option Pfx) (d a b : VReg) (x : BitVec 4) (s : State) : Out :=
  let i := Instr.iadd p d a b x
  runUnit i (instrUses i) (fun c =>
    if x == 3 then vop c d 2 [⟨.A, a, 2⟩, ⟨.B, b, 2⟩] (fun l => two (c.rv2 a l + c.rv2 b l))
    else vop c d 1 (ab1 a b) (fun l =>
      one (addRes x ((c.rv a l).toInt + (c.rv b l).toInt) (((c.rv a l).toNat : Int) + (c.rv b l).toNat)))) s

/-- ISUB (R238). -/
def execIsub (p : Option Pfx) (d a b : VReg) (x : BitVec 4) (s : State) : Out :=
  let i := Instr.isub p d a b x
  runUnit i (instrUses i) (fun c =>
    if x == 3 then vop c d 2 [⟨.A, a, 2⟩, ⟨.B, b, 2⟩] (fun l => two (c.rv2 a l - c.rv2 b l))
    else vop c d 1 (ab1 a b) (fun l =>
      one (addRes x ((c.rv a l).toInt - (c.rv b l).toInt) (((c.rv a l).toNat : Int) - (c.rv b l).toNat)))) s

/-- IADDI (R240). -/
def execIaddi (p : Option Pfx) (d a : VReg) (i : Imm 11) (s : State) : Out :=
  int1 (.iaddi p d a i) d a (fun v => v + immI i) s

/-- IMUL (R238). -/
def execImul (p : Option Pfx) (d a b : VReg) (x : BitVec 4) (s : State) : Out :=
  let i := Instr.imul p d a b x
  runUnit i (instrUses i) (fun c =>
    let sp := fun l => (c.rv a l).toInt * (c.rv b l).toInt
    let up := fun l => (c.rv a l).toNat * (c.rv b l).toNat
    if x == 3 then vop c d 2 (ab1 a b) (fun l => two (BitVec.ofInt 64 (sp l)))
    else vop c d 1 (ab1 a b) (fun l =>
      one (if x == 1 then BitVec.ofInt 32 (sp l / 4294967296)
           else if x == 2 then BitVec.ofNat 32 (up l / 4294967296)
           else BitVec.ofNat 32 (up l)))) s

/-- IMULI (R240). -/
def execImuli (p : Option Pfx) (d a : VReg) (i : Imm 11) (s : State) : Out :=
  int1 (.imuli p d a i) d a (fun v => v * immI i) s

/-- IMAD (R237, R238). -/
def execImad (p : Option Pfx) (d a b : VReg) (x : BitVec 4) (s : State) : Out :=
  let i := Instr.imad p d a b x
  runUnit i (instrUses i) (fun c =>
    if x == 1 then
      let ad := addend p d 2
      vop c d 2 (ab1 a b ++ [ad]) (fun l => two (BitVec.ofInt 64 ((c.rv a l).toInt * (c.rv b l).toInt) + c.rv2 ad.reg l))
    else
      let ad := addend p d 1
      vop c d 1 (ab1 a b ++ [ad]) (fun l => one (c.rv a l * c.rv b l + c.rv ad.reg l))) s

/-- IMIN (R238). -/
def execImin (p : Option Pfx) (d a b : VReg) (x : BitVec 4) (s : State) : Out :=
  int2 (.imin p d a b x) d a b (fun v w => if condHolds 3 (x == 0) v w then v else w) s

/-- IMAX (R238). -/
def execImax (p : Option Pfx) (d a b : VReg) (x : BitVec 4) (s : State) : Out :=
  int2 (.imax p d a b x) d a b (fun v w => if condHolds 5 (x == 0) v w then v else w) s

/-- IABS (R239). -/
def execIabs (p : Option Pfx) (d a : VReg) (s : State) : Out :=
  int1 (.iabs p d a) d a (fun v => if v.msb then -v else v) s

/-- INEG (R239). -/
def execIneg (p : Option Pfx) (d a : VReg) (s : State) : Out := int1 (.ineg p d a) d a (fun v => -v) s

/-- NOT (R239). -/
def execInot (p : Option Pfx) (d a : VReg) (s : State) : Out := int1 (.inot p d a) d a (fun v => ~~~v) s

/-- POPC (R239). -/
def execPopc (p : Option Pfx) (d a : VReg) (s : State) : Out :=
  int1 (.popc p d a) d a (fun v => BitVec.ofNat 32 (popcount v)) s

/-- CLZ (R239). -/
def execClz (p : Option Pfx) (d a : VReg) (s : State) : Out := int1 (.clz p d a) d a (fun v => BitVec.ofNat 32 (clz32 v)) s

/-- CTZ (R239). -/
def execCtz (p : Option Pfx) (d a : VReg) (s : State) : Out := int1 (.ctz p d a) d a (fun v => BitVec.ofNat 32 (ctz32 v)) s

/-- BREV (R239). -/
def execBrev (p : Option Pfx) (d a : VReg) (s : State) : Out := int1 (.brev p d a) d a brev32 s

/-- BSWAP (R239). -/
def execBswap (p : Option Pfx) (d a : VReg) (s : State) : Out := int1 (.bswap p d a) d a bswap32 s

/-- ISAD (R238): D is a source too. -/
def execIsad (p : Option Pfx) (d a b : VReg) (x : BitVec 4) (s : State) : Out :=
  let i := Instr.isad p d a b x
  runUnit i (instrUses i) (fun c =>
    vop c d 1 (ab1 a b ++ [⟨.D, d, 1⟩]) (fun l =>
      let df : Int := if x == 0 then (c.rv a l).toInt - (c.rv b l).toInt else ((c.rv a l).toNat : Int) - (c.rv b l).toNat
      one (c.rv d l + BitVec.ofNat 32 df.natAbs))) s

/-- A shift by a register count, 32-bit or of a pair. -/
def shiftOp (i : Instr) (d a b : VReg) (wide : Bool) (f1 : Word → Nat → Word) (f2 : DWord → Nat → DWord) (s : State) : Out :=
  runUnit i (instrUses i) (fun c =>
    if wide then vop c d 2 [⟨.A, a, 2⟩, ⟨.B, b, 1⟩] (fun l => two (f2 (c.rv2 a l) (c.rv b l).toNat))
    else vop c d 1 (ab1 a b) (fun l => one (f1 (c.rv a l) (c.rv b l).toNat))) s

/-- SHL (R238). -/
def execShl (p : Option Pfx) (d a b : VReg) (x : BitVec 4) (s : State) : Out := shiftOp (.shl p d a b x) d a b (x == 1) shlBy shlBy s
/-- SHR (R238). -/
def execShr (p : Option Pfx) (d a b : VReg) (x : BitVec 4) (s : State) : Out := shiftOp (.shr p d a b x) d a b (x == 1) shrBy shrBy s
/-- SAR (R238). -/
def execSar (p : Option Pfx) (d a b : VReg) (x : BitVec 4) (s : State) : Out := shiftOp (.sar p d a b x) d a b (x == 1) sarBy sarBy s

/-- ROTL (R238). -/
def execRotl (p : Option Pfx) (d a b : VReg) (s : State) : Out :=
  int2 (.rotl p d a b) d a b (fun v w => v.rotateLeft (w.toNat % 32)) s
/-- ROTR (R238). -/
def execRotr (p : Option Pfx) (d a b : VReg) (s : State) : Out :=
  int2 (.rotr p d a b) d a b (fun v w => v.rotateRight (w.toNat % 32)) s

/-- A shift by an immediate count. -/
def shiftImm (i : Instr) (d a : VReg) (wide : Bool) (n : Nat) (f1 : Word → Nat → Word) (f2 : DWord → Nat → DWord) (s : State) : Out :=
  runUnit i (instrUses i) (fun c =>
    if wide then vop c d 2 [⟨.A, a, 2⟩] (fun l => two (f2 (c.rv2 a l) n))
    else vop c d 1 [⟨.A, a, 1⟩] (fun l => one (f1 (c.rv a l) n))) s

/-- SHLI (R240). -/
def execShli (p : Option Pfx) (d a : VReg) (pr : BitVec 1) (n : BitVec 6) (s : State) : Out :=
  shiftImm (.shli p d a pr n) d a (pr == 1) n.toNat shlBy shlBy s
/-- SHRI (R240). -/
def execShri (p : Option Pfx) (d a : VReg) (pr : BitVec 1) (n : BitVec 6) (s : State) : Out :=
  shiftImm (.shri p d a pr n) d a (pr == 1) n.toNat shrBy shrBy s
/-- SARI (R240). -/
def execSari (p : Option Pfx) (d a : VReg) (pr : BitVec 1) (n : BitVec 6) (s : State) : Out :=
  shiftImm (.sari p d a pr n) d a (pr == 1) n.toNat sarBy sarBy s

/-- AND OR XOR ANDN ORN XNOR (R238). -/
def execAnd (p : Option Pfx) (d a b : VReg) (s : State) : Out := int2 (.and p d a b) d a b (fun v w => v &&& w) s
def execOr (p : Option Pfx) (d a b : VReg) (s : State) : Out := int2 (.or p d a b) d a b (fun v w => v ||| w) s
def execXor (p : Option Pfx) (d a b : VReg) (s : State) : Out := int2 (.xor p d a b) d a b (fun v w => v ^^^ w) s
def execAndn (p : Option Pfx) (d a b : VReg) (s : State) : Out := int2 (.andn p d a b) d a b (fun v w => v &&& ~~~w) s
def execOrn (p : Option Pfx) (d a b : VReg) (s : State) : Out := int2 (.orn p d a b) d a b (fun v w => v ||| ~~~w) s
def execXnor (p : Option Pfx) (d a b : VReg) (s : State) : Out := int2 (.xnor p d a b) d a b (fun v w => ~~~(v ^^^ w)) s

/-- ANDI ORI XORI (R240). -/
def execAndi (p : Option Pfx) (d a : VReg) (i : Imm 11) (s : State) : Out := int1 (.andi p d a i) d a (fun v => v &&& immZ i) s
def execOri (p : Option Pfx) (d a : VReg) (i : Imm 11) (s : State) : Out := int1 (.ori p d a i) d a (fun v => v ||| immZ i) s
def execXori (p : Option Pfx) (d a : VReg) (i : Imm 11) (s : State) : Out := int1 (.xori p d a i) d a (fun v => v ^^^ immZ i) s

/-- BFX (R241). -/
def execBfx (p : Option Pfx) (d a : VReg) (len : BitVec 6) (pos : BitVec 5) (s : State) : Out :=
  int1 (.bfx p d a len pos) d a (fun v => BitVec.ofNat 32 (Machine.bfx v pos.toNat len.toNat)) s
/-- BFXS (R241). -/
def execBfxs (p : Option Pfx) (d a : VReg) (len : BitVec 6) (pos : BitVec 5) (s : State) : Out :=
  int1 (.bfxs p d a len pos) d a (fun v => BitVec.ofInt 32 (sgn len.toNat (Machine.bfx v pos.toNat len.toNat))) s
/-- BFI (R241): the other bits keep the old D. -/
def execBfi (p : Option Pfx) (d a : VReg) (len : BitVec 6) (pos : BitVec 5) (s : State) : Out :=
  let i := Instr.bfi p d a len pos
  runUnit i (instrUses i) (fun c =>
    vop c d 1 [⟨.A, a, 1⟩, ⟨.D, d, 1⟩] (fun l =>
      one (BitVec.ofNat 32 (setBits (c.rv d l).toNat (pos.toNat + len.toNat - 1) pos.toNat (c.rv a l).toNat)))) s

/-- ICMP (R242). -/
def execIcmp (p : Option Pfx) (m : BitVec 3) (cc : BitVec 4) (a b : VReg) (x : BitVec 4) (s : State) : Out :=
  let i := Instr.icmp p m cc a b x
  runUnit i (instrUses i) (fun c =>
    let sg := x.toNat % 2 == 0
    if 2 ≤ x.toNat then
      mop c m.toNat [⟨.A, a, 2⟩, ⟨.B, b, 2⟩] (fun l => (condHolds cc.toNat sg (c.rv2 a l) (c.rv2 b l), 0))
    else mop c m.toNat (ab1 a b) (fun l => (condHolds cc.toNat sg (c.rv a l) (c.rv b l), 0))) s

/-- ICMPI (R242). -/
def execIcmpi (p : Option Pfx) (m : BitVec 3) (cc : BitVec 4) (a : VReg) (i : Imm 11) (s : State) : Out :=
  let n := Instr.icmpi p m cc a i
  runUnit n (instrUses n) (fun c =>
    mop c m.toNat [⟨.A, a, 1⟩] (fun l => (condHolds cc.toNat true (c.rv a l) (immI i), 0))) s

/-- A register lane copied with its mark and tag (R85, R243). -/
def copyOp (c : Ctx) (d : VReg) (src : Nat → VReg) : Res :=
  { s := c.s.updPack c.u.core c.u.slot (fun p0 => lanes32.foldl (fun p l =>
      if c.act.lane l then p.writeV c.u.depth d.toNat l (c.cell (src l).toNat l)
      else if c.masked.lane l && c.pfx.mz then p.writeV c.u.depth d.toNat l {}
      else p) p0) }

/-- SEL (R243): the mask lane of a partner is its lane's. -/
def execSel (p : Option Pfx) (d a b : VReg) (m : BitVec 3) (s : State) : Out :=
  let i := Instr.sel p d a b m
  runUnit i (instrUses i) (fun c =>
    copyOp c d (fun l => if (c.p.mreg c.ig m.toNat).lane (c.lid l) then a else b)) s

/-- MOV (R243). -/
def execMov (p : Option Pfx) (d a : VReg) (s : State) : Out :=
  let i := Instr.mov p d a
  runUnit i (instrUses i) (fun c => copyOp c d (fun _ => a)) s

/-- MOVS (R243). -/
def execMovs (p : Option Pfx) (d : VReg) (a : BitVec 7) (s : State) : Out :=
  let i := Instr.movs p d a
  runUnit i (instrUses i) (fun c => vop c d 1 [] (fun _ => one ((c.p.sreg a.toNat).setWidth 32))) s

/-- MOVM (R243). -/
def execMovm (p : Option Pfx) (d : VReg) (m : BitVec 3) (s : State) : Out :=
  let i := Instr.movm p d m
  runUnit i (instrUses i) (fun c => vop c d 1 [] (fun _ => one (c.p.mreg c.ig m.toNat))) s

/-- MVM (R243). -/
def execMvm (p : Option Pfx) (m : BitVec 3) (a : VReg) (s : State) : Out :=
  let i := Instr.mvm p m a
  runUnit i (instrUses i) (fun c => mop c m.toNat [⟨.A, a, 1⟩] (fun l => ((c.rv a l).lane l, 0))) s

/-- MOVI (R240). -/
def execMovi (p : Option Pfx) (d : VReg) (i : Imm 18) (s : State) : Out :=
  let n := Instr.movi p d i
  runUnit n (instrUses n) (fun c => vop c d 1 [] (fun _ => one (immW i))) s

/-- LEA (R238). -/
def execLea (p : Option Pfx) (d a b : VReg) (x : BitVec 4) (s : State) : Out :=
  int2 (.lea p d a b x) d a b (fun v w => v + w <<< x.toNat) s

/-- IDIV (R244). -/
def execIdiv (p : Option Pfx) (d a b : VReg) (la : BitVec 4) (s : State) : Out :=
  int2 (.idiv p d a b la) d a b (fun v w => if w = 0 then 0xFFFFFFFF else BitVec.ofInt 32 (v.toInt.tdiv w.toInt)) s

/-- NDIV (R244). -/
def execNdiv (p : Option Pfx) (d a b : VReg) (la : BitVec 4) (s : State) : Out :=
  int2 (.ndiv p d a b la) d a b (fun v w => if w = 0 then 0xFFFFFFFF else v / w) s

end Sys2Proof.Machine
end

