-- ==== Sys2Proof/Machine/Scalar.lean ====
section
/-! DEFINITION. Pack-scalar arithmetic and moves (R245) and the votes (R233); each executes once for the pack. -/

namespace Sys2Proof.Machine

/-- I and W immediates sign-extended to 64 bits (R30). -/
def imm64I (i : Imm 11) : DWord := match i.hi with | some _ => (immI i).signExtend 64 | none => i.lo.signExtend 64
def imm64W (i : Imm 18) : DWord := match i.hi with | some _ => (immW i).signExtend 64 | none => i.lo.signExtend 64

/-- Two s registers to one. -/
def sop2 (i : Instr) (d a b : BitVec 7) (f : DWord → DWord → DWord) (s : State) : Out :=
  runUnit i (instrUses i) (fun c => sop c d.toNat (f (c.p.sreg a.toNat) (c.p.sreg b.toNat))) s

def execSadd (d a b : BitVec 7) (s : State) : Out := sop2 (.sadd d a b) d a b (fun v w => v + w) s
def execSsub (d a b : BitVec 7) (s : State) : Out := sop2 (.ssub d a b) d a b (fun v w => v - w) s
def execSmul (d a b : BitVec 7) (s : State) : Out := sop2 (.smul d a b) d a b (fun v w => v * w) s
def execSand (d a b : BitVec 7) (s : State) : Out := sop2 (.sand d a b) d a b (fun v w => v &&& w) s
def execSor (d a b : BitVec 7) (s : State) : Out := sop2 (.sor d a b) d a b (fun v w => v ||| w) s
def execSxor (d a b : BitVec 7) (s : State) : Out := sop2 (.sxor d a b) d a b (fun v w => v ^^^ w) s
def execSshl (d a b : BitVec 7) (s : State) : Out := sop2 (.sshl d a b) d a b (fun v w => v <<< (w.toNat % 64)) s
def execSshr (d a b : BitVec 7) (s : State) : Out := sop2 (.sshr d a b) d a b (fun v w => v >>> (w.toNat % 64)) s
def execSsar (d a b : BitVec 7) (s : State) : Out := sop2 (.ssar d a b) d a b (fun v w => v.sshiftRight (w.toNat % 64)) s

/-- SADDI (R245). -/
def execSaddi (d a : BitVec 7) (i : Imm 11) (s : State) : Out :=
  let n := Instr.saddi d a i
  runUnit n (instrUses n) (fun c => sop c d.toNat (c.p.sreg a.toNat + imm64I i)) s

/-- SCMP (R245): 1 or 0. -/
def execScmp (d a b : BitVec 7) (cc : BitVec 4) (s : State) : Out :=
  sop2 (.scmp d a b cc) d a b (fun v w => if condHolds cc.toNat true v w then 1 else 0) s

/-- SMOVI (R245). -/
def execSmovi (d : BitVec 7) (i : Imm 18) (s : State) : Out :=
  let n := Instr.smovi d i
  runUnit n (instrUses n) (fun c => sop c d.toNat (imm64W i)) s

/-- SMOV (R245). -/
def execSmov (d a : BitVec 7) (s : State) : Out :=
  let n := Instr.smov d a
  runUnit n (instrUses n) (fun c => sop c d.toNat (c.p.sreg a.toNat)) s

/-- PAIR info (R386): lane, the two values, what was compared. -/
def pairInfo (l : Nat) (v w : Word) (kind : Nat) : List Byte :=
  leBytes 13 (l + v.toNat * 2 ^ 32 + w.toNat * 2 ^ 64 + kind * 2 ^ 96)

/-- RDLANE (R236, R245, R417, R419): the named lane, whatever its state. -/
def execRdlane (d : BitVec 7) (a : VReg) (n : BitVec 7) (s : State) : Out :=
  let i := Instr.rdlane d a n
  runUnit i (instrUses i) (fun c =>
    let l := n.toNat
    let v := c.cell a.toNat l
    let w := c.cell a.toNat (l + 16)
    if c.q.paired && decide (l ≥ 16) then { s := c.s, traps := groupTrap c tILLOP 3 }
    else if v.tag then { s := c.s, traps := groupTrap c tSNAN 0 0 [0, BitVec.ofNat 8 a.toNat] }
    else if v.psn then { s := c.s, traps := groupTrap c tPOISON 0 }
    else if c.q.paired && v.val != w.val then { s := c.s, traps := groupTrap c tPAIR 0 0 (pairInfo l v.val w.val 0) }
    else sop c d.toNat (v.val.setWidth 64)) s

/-- WRLANE (R245, R417). -/
def execWrlane (d : VReg) (a n : BitVec 7) (s : State) : Out :=
  let i := Instr.wrlane d a n
  runUnit i (instrUses i) (fun c =>
    let l := n.toNat
    let v : VCell := { val := (c.p.sreg a.toNat).setWidth 32 }
    if c.q.paired && decide (l ≥ 16) then { s := c.s, traps := groupTrap c tILLOP 3 }
    else { s := c.s.updPack c.u.core c.u.slot (fun p =>
        let p := p.writeV c.u.depth d.toNat l v
        if c.q.paired then p.writeV c.u.depth d.toNat (l + 16) v else p) }) s

/-- SMASK (R245). -/
def execSmask (d : BitVec 7) (m : BitVec 3) (s : State) : Out :=
  let i := Instr.smask d m
  runUnit i (instrUses i) (fun c => sop c d.toNat ((c.p.mreg c.ig m.toNat).setWidth 64)) s

/-- MSET (R245): all 32 bits; in paired-lane mode bits [31:16] stay zero (R417). -/
def execMset (m : BitVec 3) (a : BitVec 7) (s : State) : Out :=
  let i := Instr.mset m a
  runUnit i (instrUses i) (fun c =>
    let v := (c.p.sreg a.toNat).setWidth 32 &&& (if c.q.paired then 0xFFFF else 0xFFFFFFFF)
    { s := c.s.updPack c.u.core c.u.slot (fun p => p.setM m.toNat 0xFFFFFFFF v) }) s

/-- A vote (R233): nothing is written when a lane's value is poisoned (the poisoned lanes trap) or tagged (the group traps). -/
def voteOp (i : Instr) (a : VReg) (f : Ctx → Word → State) (s : State) : Out :=
  runUnit i (instrUses i) (fun c =>
    if c.tagged ≠ [] then
      match c.tagged with
      | t :: _ => { s := c.s, traps := groupTrap c tSNAN 0 0 t.info }
      | [] => { s := c.s }
    else
      let bad := (lanesOf c.ig).filter (fun l => c.psn a 1 l)
      if bad ≠ [] then { s := c.s, traps := bad.map (fun l => { l := l, code := tPOISON }) }
      else { s := f c (laneMask ((lanesOf c.ig).filter (fun l => c.rv a l != 0))) }) s

def voteS (c : Ctx) (d : BitVec 7) (v : Nat) : State := c.s.updPack c.u.core c.u.slot (fun p => p.setS d.toNat (BitVec.ofNat 64 v))

/-- VANY (R233). -/
def execVany (d : BitVec 7) (a : VReg) (s : State) : Out := voteOp (.vany d a) a (fun c v => voteS c d (if v != 0 then 1 else 0)) s
/-- VALL (R233). -/
def execVall (d : BitVec 7) (a : VReg) (s : State) : Out := voteOp (.vall d a) a (fun c v => voteS c d (if v == c.ig then 1 else 0)) s
/-- BALLOT (R233): bits of other lanes are 0. -/
def execBallot (m : BitVec 3) (a : VReg) (s : State) : Out :=
  voteOp (.ballot m a) a (fun c v => c.s.updPack c.u.core c.u.slot (fun p => p.setM m.toNat 0xFFFFFFFF v)) s
/-- VCOUNT (R233). -/
def execVcount (d : BitVec 7) (a : VReg) (s : State) : Out := voteOp (.vcount d a) a (fun c v => voteS c d (popcount v)) s

end Sys2Proof.Machine
end

