-- ==== Sys2Proof/Machine/Memory.lean ====
section
/-! DEFINITION. Loads, stores, multi-register transfers, constant loads and cache control (R139 to R146, R246). -/

namespace Sys2Proof.Machine

/-- Bytes of a width code (R49). -/
def wBytes (w : Nat) : Nat :=
  match w with
  | 0 | 1 => 1
  | 2 | 3 => 2
  | 4 => 4
  | 5 => 8
  | _ => 16

/-- Alignment of a width code (R140). -/
def wAlign (w : Nat) : Nat := if w = 5 then 8 else if w = 6 then 16 else 1

/-- The byte offset of an M-format instruction (R30, R139). -/
def immM (i : Imm 4) (scale : Nat) : Int :=
  match i.hi with
  | some h => (BitVec.ofNat 32 (h.toNat * 2048 + i.lo.toNat * scale)).toInt
  | none => (i.lo.toNat * scale : Nat)

/-- The lanes that access: unmasked, and in paired-lane mode each pair once (R141, R419). -/
def Ctx.accessors (c : Ctx) : List Nat := (lanesOf c.act).filter (fun l => !(c.q.paired && decide (l ≥ 16)))

/-- Zero the destinations of masked lanes under MZ (R141). -/
def zeroMasked (c : Ctx) (d n : Nat) (s : State) : State :=
  if c.pfx.mz then s.updPack c.u.core c.u.slot (fun p => (lanesOf c.masked).foldl (fun p l => p.writeRegs c.u.depth d l (List.replicate n {})) p)
  else s

/-- Write a lane's destinations, and its partner's (R419). -/
def writeLane (c : Ctx) (d l : Nat) (cells : List VCell) (s : State) : State :=
  s.updPack c.u.core c.u.slot (fun p =>
    let p := p.writeRegs c.u.depth d l cells
    if c.q.paired then p.writeRegs c.u.depth d (l + 16) cells else p)

/-- Addresses of a pair as PAIR info (R386): the low words. -/
def pairAddr (l kind : Nat) (v w : DWord) : LTrap := { l := l, code := tPAIR, info := pairInfo l (v.setWidth 32) (w.setWidth 32) kind }

/-- The accesses of every lane in ascending order: `pre` is a lane's own first trap (poison, comparison), `acc` its access. -/
def gather (c : Ctx) (pre : Nat → Option LTrap) (acc : Nat → State → State × LaneGot) : State × List (Nat × LaneGot) :=
  c.accessors.foldl (fun r l =>
    match pre l with
    | some t => (r.1, r.2 ++ [(l, .trap t)])
    | none => let x := acc l r.1; (x.1, r.2 ++ [(l, x.2)])) (c.s, [])

def gotTraps (gs : List (Nat × LaneGot)) : List LTrap := gs.filterMap (fun g => match g.2 with | .trap t => some t | _ => none)
def gotFaults (gs : List (Nat × LaneGot)) : List (Nat × FaultImg) := gs.filterMap (fun g => match g.2 with | .fault i => some (g.1, i) | _ => none)
def gotPlaces (gs : List (Nat × LaneGot)) : List (Nat × List Place) := gs.filterMap (fun g => match g.2 with | .go p => some (g.1, p) | _ => none)
/-- Lanes that wait for the start of a cluster member (R129). -/
def gotWaits (gs : List (Nat × LaneGot)) : Word := laneMask (gs.filterMap (fun g => match g.2 with | .wait => some g.1 | _ => none))

/-- The common end of a memory unit: the effect for the lanes that access, with the traps, faults and waits of the others. -/
def memEnd (r : State × List (Nat × LaneGot)) (eff : List (Nat × List Place) → State → State) : Res :=
  { s := eff (gotPlaces r.2) r.1, traps := gotTraps r.2, faults := gotFaults r.2, kind := 0, pend := gotWaits r.2 }

/-- Trap before any access: poison in the address, then a pair that differs in its address (R137, R419). -/
def addrPre (c : Ctx) (a : VReg) (n : Nat) (kind : Nat) (addr : Nat → LAddr) (l : Nat) : Option LTrap :=
  if c.psn a n l || (c.q.paired && c.psn a n (l + 16)) then some { l := l, code := tPOISON }
  else if c.q.paired && addr l != addr (l + 16) then some (pairAddr l kind (addr l).vaOf (addr (l + 16)).vaOf)
  else none

/-! ## Loads -/

/-- A loaded value as registers (R140). -/
def loadRegs (w : Nat) (bs : List Byte) : List Word :=
  match w with
  | 1 => [BitVec.ofInt 32 (sgn 8 (leNat bs))]
  | 3 => [BitVec.ofInt 32 (sgn 16 (leNat bs))]
  | 5 => [BitVec.ofNat 32 (leNat bs), BitVec.ofNat 32 (leNat (bs.drop 4))]
  | 6 => (List.range 4).map (fun i => BitVec.ofNat 32 (leNat ((bs.drop (4 * i)).take 4)))
  | _ => [BitVec.ofNat 32 (leNat bs)]

/-- Registers with their marks: a register is marked that took a byte of a poisoned line (R137). -/
def loadCells (w : Nat) (bs : List Byte) (ps : List Bool) : List VCell :=
  (loadRegs w bs).zipIdx.map (fun v => { val := v.1, psn := if w ≤ 4 then ps.any id else ((ps.drop (4 * v.2)).take 4).any id })

/-- Is a read mirrored (R425)? Reads of core scratchpads are not. -/
def mirroredPlaces (ps : List Place) : Bool := ps.any (fun p => match p with | .spad _ _ => false | _ => true)

/-- Read every lane's places; the mirrored ones go through the recording as one entry. -/
def readLanes (core slot : Nat) (xs : List (Nat × List Place)) (s : State) : State × List (Nat × List Byte × List Bool) :=
  let s := xs.foldl (fun s x => x.2.foldl State.placeTouch s) s
  let raw := xs.map (fun x => (x.1, x.2.map s.placeByte, x.2.map s.placePsn, mirroredPlaces x.2))
  let mir := raw.filter (fun x => x.2.2.2)
  let (s, bs) := packMirror s core slot (laneMask (mir.map Prod.fst)) (mir.flatMap (fun x => x.2.1))
  let r := raw.foldl (fun (acc : List (Nat × List Byte × List Bool) × List Byte) x =>
    if x.2.2.2 then (acc.1 ++ [(x.1, acc.2.take x.2.1.length, x.2.2.1)], acc.2.drop x.2.1.length)
    else (acc.1 ++ [(x.1, x.2.1, x.2.2.1)], acc.2)) (([] : List (Nat × List Byte × List Bool)), bs)
  (s, r.1)

/-- LD, LDS, LDX (R143). -/
def loadBody (c : Ctx) (d a : VReg) (na w : Nat) (addr : Nat → LAddr) : Res :=
  let n := wBytes w
  let c' := { c with s := zeroMasked c d.toNat (loadRegs w []).length c.s }
  memEnd (gather c' (addrPre c a na 0 addr) (fun l => laneAccess c (c.via 0 needR) l (addr l) 0 n n (wAlign w) true false)) (fun xs s =>
    let (s, rs) := readLanes c.u.core c.u.slot xs s
    rs.foldl (fun s x => writeLane c d.toNat x.1 (loadCells w x.2.1 x.2.2) s) s)

/-- The VA, offset or lane-private offset of a lane (R139). -/
def addrVa (c : Ctx) (a : VReg) (off : Int) (l : Nat) : LAddr := .va (c.rv2 a l + BitVec.ofInt 64 off)
def addrOff (c : Ctx) (a : VReg) (off : Int) (l : Nat) : LAddr := .off ((c.rv a l).toNat + off)
def addrPriv (c : Ctx) (a : VReg) (off : Int) (l : Nat) : LAddr := .priv ((c.rv a l).toNat + off)

/-- LD (R139, R143). -/
def execLd (p : Option Pfx) (d a : VReg) (w : BitVec 3) (i : Imm 4) (la : BitVec 4) (s : State) : Out :=
  let n := Instr.ld p d a w i la
  runUnit n (instrUses n) (fun c => loadBody c d a 2 w.toNat (addrVa c a (immM i (wBytes w.toNat)))) s

/-- LDS (R139, R143). -/
def execLds (p : Option Pfx) (d a : VReg) (w : BitVec 3) (i : Imm 4) (la : BitVec 4) (s : State) : Out :=
  let n := Instr.lds p d a w i la
  runUnit n (instrUses n) (fun c => loadBody c d a 1 w.toNat (addrOff c a (immM i (wBytes w.toNat)))) s

/-- LDX (R139, R143). -/
def execLdx (p : Option Pfx) (d a : VReg) (w : BitVec 3) (i : Imm 4) (la : BitVec 4) (s : State) : Out :=
  let n := Instr.ldx p d a w i la
  runUnit n (instrUses n) (fun c => loadBody c d a 1 w.toNat (addrPriv c a (immM i (wBytes w.toNat)))) s

/-! ## Stores -/

/-- Bytes of n source registers of a lane, lowest first. -/
def Ctx.dataBytes (c : Ctx) (d : VReg) (n bytes l : Nat) : List Byte :=
  ((List.range n).flatMap (fun i => leBytes 4 (if d.toNat ≤ 111 ∨ n = 1 then (c.cell (d.toNat + i) l).val.toNat else 0))).take bytes

/-- Poisoned data, a pair that differs (R419). -/
def dataPre (c : Ctx) (d : VReg) (n bytes : Nat) (l : Nat) : Option LTrap :=
  let x := c.dataBytes d n bytes l
  let y := c.dataBytes d n bytes (l + 16)
  if c.q.paired && x != y then
    let k := (x.zip y).findIdx (fun z => z.1 != z.2) / 4 * 4
    some { l := l, code := tPAIR, info := pairInfo l (BitVec.ofNat 32 (leNat ((x.drop k).take 4))) (BitVec.ofNat 32 (leNat ((y.drop k).take 4))) 0 }
  else none

/-- Write every lane's bytes in ascending lane order; a byte that a later entry writes too is not written by the earlier one (R142, R347). -/
def writeLanes (node : Nat) (xs : List (Nat × List Place × List Byte × Bool)) (s : State) : State :=
  match xs with
  | [] => s
  | x :: rest =>
    let later := rest.flatMap (fun y => y.2.1)
    let keep := (x.2.1.zip x.2.2.1).filter (fun z => !later.contains z.1)
    writeLanes node rest (s.writePlaces node (keep.map Prod.fst) (keep.map Prod.snd) x.2.2.2)

/-- A lane's store, register by register: the poison of one marks only the lines its own bytes go to (R137). -/
def Ctx.dataParts (c : Ctx) (d : VReg) (regs bytes l : Nat) (ps : List Place) : List (Nat × List Place × List Byte × Bool) :=
  (List.range regs).map (fun i => (l, (ps.drop (4 * i)).take 4, ((c.dataBytes d regs bytes l).drop (4 * i)).take 4, decide (d.toNat ≤ 111) && (c.cell (d.toNat + i) l).psn))

/-- ST, STS, STX (R143). -/
def storeBody (c : Ctx) (d a : VReg) (na w : Nat) (addr : Nat → LAddr) : Res :=
  let n := wBytes w
  let regs := (loadRegs w []).length
  let v := c.via 1 needW
  memEnd (gather c (fun l => (addrPre c a na 0 addr l).or (dataPre c d regs n l))
      (fun l => laneAccess c v l (addr l) 0 n n (wAlign w) false true)) (fun xs s =>
    writeLanes v.node (xs.flatMap (fun x => c.dataParts d regs n x.1 x.2)) s)

/-- ST (R139, R143). -/
def execSt (p : Option Pfx) (d a : VReg) (w : BitVec 3) (i : Imm 4) (la : BitVec 4) (s : State) : Out :=
  let n := Instr.st p d a w i la
  runUnit n (instrUses n) (fun c => storeBody c d a 2 w.toNat (addrVa c a (immM i (wBytes w.toNat)))) s

/-- STS (R139, R143). -/
def execSts (p : Option Pfx) (d a : VReg) (w : BitVec 3) (i : Imm 4) (la : BitVec 4) (s : State) : Out :=
  let n := Instr.sts p d a w i la
  runUnit n (instrUses n) (fun c => storeBody c d a 1 w.toNat (addrOff c a (immM i (wBytes w.toNat)))) s

/-- STX (R139, R143). -/
def execStx (p : Option Pfx) (d a : VReg) (w : BitVec 3) (i : Imm 4) (la : BitVec 4) (s : State) : Out :=
  let n := Instr.stx p d a w i la
  runUnit n (instrUses n) (fun c => storeBody c d a 1 w.toNat (addrPriv c a (immM i (wBytes w.toNat)))) s

/-! ## Multi-register transfers (R144) -/

/-- Words of a lane from its count on, until one meets a fault or a trap: their places, and what stopped. -/
def ldmWords (c : Ctx) (v : Via) (l : Nat) (la : LAddr) (n : Nat) (rd : Bool) : Nat → Nat → State → State × List (Nat × List Place) × Option LaneGot
  | 0, _, s => (s, [], none)
  | f + 1, i, s =>
    if i ≥ n then (s, [], none)
    else
      match laneAccess c v l la (4 * i) 4 (4 * n) 4 rd (!rd) s with
      | (s, .go ps) =>
        let (s, xs, e) := ldmWords c v l la n rd f (i + 1) s
        (s, (i, ps) :: xs, e)
      | (s, g) => (s, [], some g)

/-- What each lane moves, and what stops it after that. -/
structure LdmLane where
  l : Nat
  words : List (Nat × List Place)
  stop : Option LaneGot
  deriving DecidableEq, Repr

def gatherM (c : Ctx) (pre : Nat → Option LTrap) (v : Via) (addr : Nat → LAddr) (n : Nat) (rd : Bool) : State × List LdmLane :=
  c.accessors.foldl (fun r l =>
    match pre l with
    | some t => (r.1, r.2 ++ [{ l := l, words := [], stop := some (.trap t) }])
    | none =>
      let (s, ws, e) := ldmWords c v l (addr l) n rd 8 (c.p.lane l).count r.1
      (s, r.2 ++ [{ l := l, words := ws, stop := e }])) (c.s, [])

/-- The end of LDM and STM: a lane that stopped keeps the count of its words moved. -/
def ldmEnd (c : Ctx) (ls : List LdmLane) (s : State) : Res :=
  let gs := ls.filterMap (fun x => x.stop.map (fun g => (x.l, g)))
  let s := s.updPack c.u.core c.u.slot (fun p => ls.foldl (fun p x =>
    if x.stop.isSome then p.updLane x.l (fun y => { y with count := y.count + x.words.length }) else p) p)
  { s := s, traps := gotTraps gs, faults := gotFaults gs, kind := 0, pend := gotWaits gs }

/-- LDM (R144). -/
def execLdm (p : Option Pfx) (d a : VReg) (w : BitVec 3) (i : Imm 4) (la : BitVec 4) (s : State) : Out :=
  let k := Instr.ldm p d a w i la
  runUnit k (instrUses k) (fun c =>
    let n := w.toNat + 1
    let c := { c with s := zeroMasked c d.toNat n c.s }
    let addr := addrVa c a (immM i 4)
    let (s, ls) := gatherM c (addrPre c a 2 0 addr) (c.via 0 needR) addr n true
    let (s, rs) := readLanes c.u.core c.u.slot (ls.map (fun x => (x.l, x.words.flatMap Prod.snd))) s
    let s := (ls.zip rs).foldl (fun s x =>
      x.1.words.zipIdx.foldl (fun s y =>
        writeLane c (d.toNat + y.1.1) x.1.l (loadCells 4 ((x.2.2.1.drop (4 * y.2)).take 4) ((x.2.2.2.drop (4 * y.2)).take 4)) s) s) s
    ldmEnd c ls s) s

/-- STM (R144). -/
def execStm (p : Option Pfx) (d a : VReg) (w : BitVec 3) (i : Imm 4) (la : BitVec 4) (s : State) : Out :=
  let k := Instr.stm p d a w i la
  runUnit k (instrUses k) (fun c =>
    let n := w.toNat + 1
    let v := c.via 1 needW
    let addr := addrVa c a (immM i 4)
    let one := fun (i l : Nat) => leBytes 4 (c.cell (d.toNat + i) l).val.toNat
    let (s, ls) := gatherM c (fun l => (addrPre c a 2 0 addr l).or
      (if c.q.paired then (List.range n).findSome? (fun i => dataPre c (BitVec.ofNat 7 (d.toNat + i)) 1 4 l) else none)) v addr n false
    let s := writeLanes v.node (ls.flatMap (fun x => x.words.map (fun y => (x.l, y.2, one y.1 x.l, (c.cell (d.toNat + y.1) x.l).psn)))) s
    ldmEnd c ls s) s

/-! ## Pack-scalar accesses (R246) -/

/-- A value as an s register takes it. -/
def scalarVal (w : Nat) (bs : List Byte) : DWord :=
  match w with
  | 1 => BitVec.ofInt 64 (sgn 8 (leNat bs))
  | 3 => BitVec.ofInt 64 (sgn 16 (leNat bs))
  | _ => BitVec.ofNat 64 (leNat bs)

/-- The one access of SLD or SST: its VA may not be lane-private; the whole group waits or traps. -/
def scalarAccess (c : Ctx) (v : Via) (va : DWord) (w : Nat) (rd : Bool) (eff : List Place → State → Res) : Res :=
  let all := fun (t : LTrap) => groupTrap c t.code t.detail t.va t.info
  if bits va.toNat 63 56 = 0xF1 then { s := c.s, traps := groupTrap c tACCESS 0 va, kind := 0 }
  else
    match laneAccess c v ((lanesOf c.ig).headD 0) (.va va) 0 (wBytes w) (wBytes w) (wAlign w) rd (!rd) c.s with
    | (s, .trap t) => { s := s, traps := all t, kind := 0 }
    | (s, .fault img) => { s := s, faults := (lanesOf c.ig).map (fun l => (l, img)), kind := 0 }
    | (s, .wait) => { s := s, kind := 0, pend := c.ig }
    | (s, .go ps) => eff ps s

/-- SLD (R246). -/
def execSld (d a : BitVec 7) (w : BitVec 3) (i : Imm 4) (la : BitVec 4) (s : State) : Out :=
  let n := Instr.sld d a w i la
  runUnit n (instrUses n) (fun c =>
    scalarAccess c (c.via 0 needR) (c.p.sreg a.toNat + BitVec.ofInt 64 (immM i (wBytes w.toNat))) w.toNat true (fun ps s =>
      let (s, rs) := readLanes c.u.core c.u.slot [((lanesOf c.ig).headD 0, ps)] s
      match rs with
      | [] => { s := s, kind := 0 }
      | (_, bs, psn) :: _ =>
        if psn.any id then { s := s, traps := groupTrap c tPOISON 0, kind := 0 }
        else { s := s.updPack c.u.core c.u.slot (fun p => p.setS d.toNat (scalarVal w.toNat bs)), kind := 0 })) s

/-- SST (R246). -/
def execSst (d a : BitVec 7) (w : BitVec 3) (i : Imm 4) (la : BitVec 4) (s : State) : Out :=
  let n := Instr.sst d a w i la
  runUnit n (instrUses n) (fun c =>
    let v := c.via 1 needW
    scalarAccess c v (c.p.sreg a.toNat + BitVec.ofInt 64 (immM i (wBytes w.toNat))) w.toNat false (fun ps s =>
      { s := s.writePlaces v.node ps (leBytes (wBytes w.toNat) (c.p.sreg d.toNat).toNat) false, kind := 0 })) s

/-- LDC (R145): the argument store; once for the pack. -/
def execLdc (d a : BitVec 7) (w : BitVec 3) (i : Imm 4) (la : BitVec 4) (s : State) : Out :=
  let n := Instr.ldc d a w i la
  runUnit n (instrUses n) (fun c =>
    let b := wBytes w.toNat
    let x : Int := (c.p.sreg a.toNat).toNat + immM i b
    let va := BitVec.ofInt 64 x
    if x < 0 ∨ x + b > c.q.argsize then { s := c.s, traps := groupTrap c tACCESS 0 va }
    else if x.toNat % b ≠ 0 then { s := c.s, traps := groupTrap c tMISALIGN 0 va }
    else
      let k := c.s.core c.u.core
      let o := (c.s.wg c.p.wg).arg0 + x.toNat
      let bs := (List.range b).map (fun j => (k.args.find (o + j)).getD 0)
      let (s, bs) := packMirror c.s c.u.core c.u.slot c.ig bs
      if k.argsPsn.has (o / 64) then { s := s, traps := groupTrap c tPOISON 0 }
      else { s := s.updPack c.u.core c.u.slot (fun p => p.setS d.toNat (scalarVal w.toNat bs)) }) s

/-! ## Cache control (R146) -/

/-- The effect on one line; `op` is the W field. -/
def cctlLine (core op node : Nat) (s : State) : Place → State
  | .mem a pa =>
    if op = 5 then s.writeLine a (pa / 64 * 64) (List.replicate 64 0) false
    else if a.oc = 1 then s
    else if op = 0 then s.wbLine core (pa / 64)
    else if op = 1 then s.invLine core (pa / 64)
    else if op = 2 then s.flushLine core (pa / 64)
    else if op = 3 then s.readLine a (pa / 64)
    else s
  | .spad c off => if op = 5 then s.zeroSpad c (off / 64 * 64) 64 else s
  | .chip off =>
    if op = 5 then
      let s := s.commitNode node
      { s with chip := s.chip.filter (fun x => decide (x.1 / 64 ≠ off / 64)), chipPsn := s.chipPsn.del (off / 64) }
    else s

/-- The line or block a place lies in, by its first byte. -/
def Place.line : Place → Place
  | .mem a pa => .mem a (pa / 64 * 64)
  | .spad c off => .spad c (off / 64 * 64)
  | .chip off => .chip (off / 64 * 64)

/-- A trap of a window access names the VA itself. -/
def LaneGot.atVa (va : DWord) : LaneGot → LaneGot
  | .trap t => .trap { t with va := va }
  | g => g

/-- CCTL (R146): a prefetch never traps and never waits; in the lane-private window the line is that of lp_va. -/
def execCctl (a : VReg) (w : BitVec 3) (i : Imm 4) (la : BitVec 4) (s : State) : Out :=
  let n := Instr.cctl a w i la
  runUnit n (instrUses n) (fun c =>
    let op := w.toNat
    let pref := op = 3 ∨ op = 4
    let v := c.via 6 (if op = 5 then needW else if pref then {} else needR)
    let addr := addrVa c a (immM i 64)
    let lines := fun (xs : List (Nat × List Place)) (s : State) => ((xs.filterMap (fun x => x.2.head?)).map Place.line).dedup.foldl (cctlLine c.u.core op v.node) s
    let r := gather c (fun l => if pref then none else addrPre c a 2 0 addr l) (fun l s =>
      match (addr l).decode s.pkgId with
      | .ok (.spad f) => (fun x => (x.1, LaneGot.atVa (addr l).vaOf x.2)) <| laneAccess c v l (.off (f / 64 * 64 : Nat)) 0 (if op = 5 then 64 else 1) (if op = 5 then 64 else 1) 1 false (op == 5) s
      | _ => laneAccess c v l (addr l) 0 1 1 1 (op != 5) (op == 5) s)
    if pref then { s := lines (gotPlaces r.2) r.1, kind := 0 } else memEnd r lines) s

end Sys2Proof.Machine
end

