-- ==== Sys2Proof/Machine/Ops.lean ====
section
/-! DEFINITION. Taking an exception and returning from one: the fault record (R385, R386), delivery to the in-pack handler (R387, R388), escalation
(R391, R398), the end of a delivery (R390), and the end of a context (R408). Also frame granules (R183, R184) and frame records (R188, R189). -/

namespace Sys2Proof.Machine

/-! ## Granules -/

/-- Pool runs that the frames of a core hold, trap frames among them (R204): first granule and length. -/
def State.poolRuns (s : State) (c : Nat) : List (Nat × Nat) :=
  (s.slotsOf c).flatMap (fun sl => ((s.pack c sl).frames.filter (fun f => f.st != .spilled)).map (fun f => (f.base, f.size)) ++ (s.pack c sl).trapRuns)

/-- The lowest run of n free granules, by trying the starts after each run (R184; which run is taken is the model's choice, log 12). -/
def findRun (runs : List (Nat × Nat)) (n : Nat) : Option Nat :=
  let starts := (0 :: runs.map (fun r => r.1 + r.2)).filter (fun b =>
    decide (b + n ≤ 480) && runs.all (fun r => decide (r.1 + r.2 ≤ b ∨ b + n ≤ r.1)))
  match starts with
  | [] => none
  | b :: bs => some (bs.foldl min b)

/-- Move every resident frame of a core down, in order of slot and depth, and what a trap frame holds of the pool after its pack's frames (R184). -/
def State.compact (s : State) (c : Nat) : State :=
  ((s.slotsOf c).foldl (fun (r : State × Nat) sl =>
    let fs := (r.1.pack c sl).frames.foldl (fun (q : List Frame × Nat) f =>
      if f.st == .spilled then (q.1 ++ [f], q.2) else (q.1 ++ [{ f with base := q.2 }], q.2 + f.size)) (([] : List Frame), r.2)
    let ts := (r.1.pack c sl).trapRuns.foldl (fun (q : List (Nat × Nat) × Nat) x => (q.1 ++ [(q.2, x.2)], q.2 + x.2)) (([] : List (Nat × Nat)), fs.2)
    (r.1.updPack c sl (fun p => { p with frames := fs.1, trapRuns := ts.1, trapFrame := p.trapFrame.map (fun t =>
      if t.2 then t else ({ t.1 with base := ((ts.1.head?).map Prod.fst).getD t.1.base }, t.2)) }), ts.2)) (s, 0)).1

/-- Granules of the trap reserve that are free, 480 to 511 (R183, R204). -/
def State.rsvRuns (s : State) (c : Nat) : List Nat :=
  (List.range 32).map (480 + ·) |>.filter (fun g => !(s.slotsOf c).any (fun sl => match (s.pack c sl).trapFrame with
    | some (f, true) => f.base == g
    | _ => false))

/-- Keep n granules of a list of runs. -/
def keepRuns : Nat → List (Nat × Nat) → List (Nat × Nat)
  | _, [] => []
  | n, (b, k) :: r => if n = 0 then [] else (b, min k n) :: keepRuns (n - k) r

/-- A run of n granules of the pool; the caller has checked that n are free. -/
def State.allocRun (s : State) (c n : Nat) : State × Nat :=
  match findRun (s.poolRuns c) n with
  | some b => (s, b)
  | none => let s := s.compact c; (s, (findRun (s.poolRuns c) n).getD 0)

/-! ## Frame records -/

/-- The 32 bytes of a frame record (R188). -/
def Frame.record (f : Frame) : List Byte :=
  leBytes 32 (f.rpc.toNat + f.cmask.toNat * 2 ^ 64 + (if f.st == .spilled then 0 else f.base) * 2 ^ 96 + f.size * 2 ^ 105 + f.ab * 2 ^ 109 +
    f.retc * 2 ^ 116 + b2n (f.st == .spilled) * 2 ^ 120)

/-- Is a record one that R189 refuses? -/
def badRecord (v : Nat) : Bool :=
  let z := bits v 108 105
  decide (z < 1) || decide (z > 14) || (!bit v 120 && decide (bits v 104 96 > 479)) || bits v 127 121 != 0 || bits v 255 128 != 0

/-! ## The fault record -/

/-- The default ACTION (R390). -/
def defaultAction (code : Nat) : Nat := if code = 15 ∨ code = 16 ∨ code = 17 ∨ code = 18 ∨ code = 21 ∨ code = 22 then 1 else 0

/-- The 256 bytes of a fault record (R385, R386); `ln` are the pack's lanes as the record shows them, `cnt` is COUNT, `pend` whether further traps are pending. -/
def faultRecord (ln : Nat → Lane) (t : Trap) (esc pend : Bool) (cnt : Nat) : List Byte :=
  let h := t.lanes ||| t.defer
  let low := (lanesOf h).headD 0
  let xc := lanes32.foldl (fun a l => a + (ln l).count % 8 * 2 ^ (3 * l)) 0
  let w := fun i => t.words.getD i 0 % 2 ^ 32 * 2 ^ (32 * i)
  leBytes 96 (t.code + b2n esc * 2 ^ 8 + b2n t.hlvl * 2 ^ 9 + b2n pend * 2 ^ 10 + t.depth % 256 * 2 ^ 16 + t.detail % 2 ^ 32 * 2 ^ 32 +
      t.lanes.toNat * 2 ^ 64 + t.defer.toNat * 2 ^ 96 + t.replay.toNat * 2 ^ 128 + (t.k.getD 0) % 32 * 2 ^ 192 + b2n t.k.isSome * 2 ^ 197 +
      defaultAction t.code * 2 ^ 198 + (ln low).pc.toNat * 2 ^ 256 + (w 0 + w 1 + w 2 + w 3) * 2 ^ 384 + t.va.toNat * 2 ^ 512 + xc * 2 ^ 576) ++
    ((t.info ++ List.replicate 96 0).take 96) ++ leBytes 8 t.cycle.toNat ++ leBytes 4 cnt ++ List.replicate 52 0

/-- Write to a pinned area of a pack (R123). -/
def State.pinWrite (s : State) (core ctx va : Nat) (bs : List Byte) : State × Bool := ctlWrite (core / 16) ctx true false va bs s

def State.pinRead (s : State) (core ctx va n : Nat) : State × Option (List Byte) :=
  match ctlRead (core / 16) ctx true va n s with
  | (s, some r) => (s, some (r.map Prod.fst))
  | (s, none) => (s, none)

/-! ## The end of a workgroup's resources, and of a context -/

/-- Free a workgroup: its packs with their frames, its tiles, the matrix unit it holds, its queue entries (R375, R408). -/
def State.freeWg (s : State) (id : Nat) : State :=
  let w := s.wg id
  let n := (s.launch w.uid).r.ntiles
  let s := { s with packs := s.packs.filter (fun p => p.2.wg != id), wgs := s.wgs.del id }
  s.updCore w.core (fun k =>
    let own := k.mxOwner == some id
    { k with tiles := k.tiles.filter (fun t => decide (t.1 < w.tile0 ∨ w.tile0 + n ≤ t.1)),
             mmaQ := k.mmaQ.filter (fun e => e.wg != id),
             mxOwner := if own then none else k.mxOwner,
             strA := if own then {} else k.strA, strB := if own then {} else k.strB,
             lastFed := if own then none else k.lastFed,
             spill := match k.spill with
               | some j => if w.slots.contains j.slot then none else some j
               | none => none })

/-- Drop a node's provisional lines, so that the committed data stay (R408, R423). -/
def State.restoreProv (s : State) (uid : Nat) : State :=
  let mine := s.prov.filter (fun p => p.2.uid == uid)
  let s := mine.foldl (fun s p => s.setRaw p.1 p.2.committed) s
  let s := mine.foldl (fun s p => match s.provPsn.find (p.1 / 64) with
    | some b => s.setLinePsn p.1 b
    | none => s) s
  s.dropProv uid

/-- STATE of a context (R407). -/
def State.ctxState (s : State) (ctx : Nat) : Nat := bits (s.ctxReg ctx 0x70) 2 0
def State.setCtxState (s : State) (ctx v : Nat) : State := s.setReg (0x600000 + 0x80 * ctx + 0x70) v

/-- Kill a context (R408). -/
def State.killCtx (s : State) (ctx : Nat) : State :=
  let f := s.funcOf ctx
  let s := (s.wgs.filter (fun w => w.2.ctx == ctx)).foldl (fun s w => s.freeWg w.1) s
  let s := (s.launches.filter (fun l => l.2.ctx == ctx)).foldl (fun s l => s.restoreProv l.1) s
  let s := { s with
    packs := s.packs.filter (fun p => p.2.ctx != ctx),
    copies := s.copies.filter (fun c => c.2.ctx != ctx),
    colls := s.colls.filter (fun c => c.2.ctx != ctx),
    prq := s.prq.filter (fun q => q.img.ctx != ctx),
    prqHeld := s.prqHeld.filter (fun q => q.img.ctx != ctx),
    releases := s.releases.filter (fun r => r.ctx != ctx),
    saved := s.saved.filter (fun x => x.2.wg.ctx != ctx),
    launches := s.launches.map (fun (l : Nat × Launch) => if l.2.ctx == ctx && !l.2.ended then (l.1, { l.2 with status := 7, ended := true }) else l),
    cores := s.cores.map (fun (k : Nat × Core) => (k.1, { k.2 with
      trq := k.2.trq.filter (fun e => e.ctx != ctx),
      trqHeld := match k.2.trqHeld with
        | some e => if e.ctx = ctx then none else some e
        | none => none })) }
  ((s.setReg (0x600000 + 0x80 * ctx + 0x68) (bits (s.ctxReg ctx 0x68) 1 0)).setCtxState ctx 5).send (.prqIrq f)

/-- RUNNING returns to IDLE when nothing of the context is left (R407). -/
def State.ctxSettle (s : State) (ctx : Nat) : State :=
  if s.ctxState ctx = 1 ∧ !s.launches.any (fun l => l.2.ctx == ctx) ∧ !s.wgs.any (fun w => w.2.ctx == ctx) ∧ !s.copies.any (fun c => c.2.ctx == ctx) ∧
      !s.colls.any (fun c => c.2.ctx == ctx) then s.setCtxState ctx 0
  else s

/-! ## Mailbox events -/

/-- Post an event in a core's mailbox page (R443): EKIND 1 breakpoint, 2 watchpoint. -/
def State.mbxPost (s : State) (c slot kind idx : Nat) : State :=
  let r := s.reg (0x830000 + 8 * c)
  let n := (s.core c).mbxEvents + 1
  let s := s.updCore c (fun k => { k with mbxEvents := n })
  if bit r 0 then
    let pa := bits r 51 12 * 4096
    (s.writeBytes {} (pa + 96) (leBytes 4 (slot + kind * 64 + idx * 256)) false).writeBytes {} (pa + 100) (leBytes 4 n.toNat) false
  else s

/-! ## Taking a trap -/

/-- Where a trap is delivered (R343, R387, R391): to the in-pack handler, or escalated, or the context dies with it. -/
inductive TrapWay where
  | handler
  | escalate
  | kill
  deriving DecidableEq, Repr

def trapWay (s : State) (core slot : Nat) (t : Trap) : TrapWay :=
  let p := s.pack core slot
  if t.code = tDOUBLE then .kill
  else if t.hlvl || p.handler.isSome || t.code = tSYSCALL || t.code = tWATCH || (t.code = tFRAME && t.detail = 4) ||
      ((t.code = tCOLL || t.code = tSHARD) && (lanesOf t.lanes).all (fun l => (p.lane l).st == .exited)) then .escalate
  else if s.ctxReg p.ctx 0x48 ≠ 0 ∧ bit (s.ctxReg p.ctx 0x58) t.code ∧ (0 < s.rsvFree core ∨ 0 < s.poolFree core) then .handler
  else .escalate

/-- Kill the context for DOUBLE; the record is written where it can be (R408). -/
def State.double (s : State) (core slot detail : Nat) (t : Trap) : State :=
  let p := s.pack core slot
  let t := { t with code := tDOUBLE, detail := detail }
  (s.pinWrite core p.ctx (s.frBase p) (faultRecord p.lane t true false (satAdd 32 p.traps 1))).1.killCtx p.ctx

/-- A pack stops for the supervisor core (R391, R398). -/
def State.escalate (s : State) (core slot : Nat) (t : Trap) : State :=
  let p := s.pack core slot
  let cnt := satAdd 32 p.traps 1
  let va := if t.hlvl then s.stackVa core slot p.ctx + 256 else s.frBase p
  match s.pinWrite core p.ctx va (faultRecord p.lane t true (decide (p.pending ≠ [])) cnt) with
  | (s, false) => s.double core slot (if t.hlvl then 3 else 1) t
  | (s, true) =>
    let s := s.updPack core slot (fun p => { p with svc := some { trap := t }, traps := cnt })
    let s := s.updCore core (fun k => { k with trq := k.trq ++ [{ slot := slot, code := t.code, ctx := p.ctx }] })
    let s := s.count core 14 p.ctx 1
    if t.code = tWATCH then s.mbxPost core slot 2 t.detail else s

/-- Delivery to the in-pack handler (R388). -/
def State.enterHandler (s : State) (core slot : Nat) (t : Trap) : State :=
  let p := s.pack core slot
  let cnt := satAdd 32 p.traps 1
  let rec_ := faultRecord p.lane t false (decide (p.pending ≠ [])) cnt
  match s.pinWrite core p.ctx (s.frBase p) rec_ with
  | (s, false) => s.double core slot 1 t
  | (s, true) =>
    let sa := s.stackVa core slot p.ctx
    let save := (List.range 8).flatMap (fun i => leBytes 8 (p.sreg (24 + i)).toNat) ++ leBytes 4 (p.m.getD 6 0).toNat ++ leBytes 4 (p.m.getD 7 0).toNat
    match s.pinWrite core p.ctx sa save with
    | (s, false) => s.double core slot 3 t
    | (s, true) =>
      let (s, base, rsv) := match s.rsvRuns core with
        | g :: _ => (s, g, true)
        | [] => let (s, b) := s.allocRun core 1; (s, b, false)
      let h := t.lanes ||| t.defer
      let entry := BitVec.ofNat 64 (s.ctxReg p.ctx 0x48)
      let s := s.updPack core slot (fun p =>
        let kept := (lanesOf h).foldl (fun (m : FMap Lane) l => FMap.ins m l (p.lane l)) []
        let p := p.updLanes h (fun x => { x with pc := entry, k := none, st := .active, released := false, failx := none, blocked := false, count := 0, age := 0, why := .none, shadow := none })
        let p := (((p.setS 31 (BitVec.ofNat 64 (s.frBase p))).setS 30 (BitVec.ofNat 64 (sa + 128))).setS 29 (BitVec.ofNat 64 (leNat (rec_.take 8))))
        { p with m := setAt 0 (setAt 0 p.m 7 t.lanes) 6 t.defer, trapFrame := some ({ size := 1, base := base }, rsv), trapRuns := if rsv then [] else [(base, 1)], traps := cnt,
                 handler := some { trap := t, kept := kept, req := p.req.map (fun r => { r with granted := false }) }, req := none })
      s.count core 14 p.ctx 1

/-- TAKING A TRAP: the one operation by which a raised trap of a pack is delivered (R382, R387, R391, R422). A replayable node that consumes poison, or
meets SHADOW or PAIR, discards instead; once committed, consumed poison kills the context. -/
def takeTrap (s : State) (core slot : Nat) (t : Trap) : State :=
  let p := s.pack core slot
  let uid := (s.wg p.wg).uid
  let l := s.launch uid
  if l.r.replay && l.rstate == 0 && (t.code = tPOISON || t.code = tSHADOW || t.code = tPAIR) then
    { s with launches := s.launches.upd uid (fun l => { l with rstate := 2 }) }
  else if l.r.replay && l.rstate == 1 && t.code = tPOISON then s.killCtx p.ctx
  else
    match trapWay s core slot t with
    | .kill => s.double core slot t.detail t
    | .handler => s.enterHandler core slot t
    | .escalate => s.escalate core slot { t with hlvl := p.handler.isSome }

/-! ## The end of a delivery -/

/-- A lane of H after the delivery (R390), from the lane as kept. A lane that was kept waiting for translation and replays takes the waiting unit up again afterwards. -/
def Lane.afterTrap (t : Trap) (action : Nat) (newpc : DWord) (x : Lane) : Lane :=
  if x.st == .exited then x
  else match action with
  | 0 =>
    let x := match x.why with
      | .fault _ => if x.st == LaneSt.waiting then { x with pc := x.replay, k := x.replayK } else x
      | _ => x
    { x with st := .active, why := .none, released := true, replay := t.replay, replayK := t.k, failx := none, age := 0 }
  | 1 => if x.st == .waiting then x else { x with count := 0, shadow := none }
  | _ => { x with st := .active, why := .none, released := false, failx := none, pc := newpc, k := none, count := 0, age := 0, shadow := none }

/-- Apply ACTION to the lanes of H (R390). -/
def Pack.endLanes (p : Pack) (t : Trap) (h : Word) (action : Nat) (newpc : DWord) : Pack :=
  if action = 3 then p.exitLanes h
  else
    let p := p.updLanes h (Lane.afterTrap t action newpc)
    if action = 0 then { p with lastAct := h } else p

/-- ACTION and NEWPC as a record in memory holds them. -/
def State.readAction (s : State) (core ctx va : Nat) : State × Option (Nat × DWord) :=
  match s.pinRead core ctx va 48 with
  | (s, none) => (s, none)
  | (s, some bs) => (s, some (bits (leNat bs) 199 198, BitVec.ofNat 64 (leNat ((bs.drop 40).take 8))))

/-- RETURNING FROM A HANDLER: the delivery in the handler ends (R390). `exit` is EXIT at handler level; RET reads ACTION from the fault record. -/
def endHandler (s : State) (core slot : Nat) (exit : Bool) : State :=
  let p := s.pack core slot
  match p.handler with
  | none => s
  | some d =>
    match s.pinRead core p.ctx (s.stackVa core slot p.ctx) 72 with
    | (s, none) => s.double core slot 3 d.trap
    | (s, some sv) =>
      match s.readAction core p.ctx (s.frBase p) with
      | (s, none) => s.double core slot 1 d.trap
      | (s, some (a, npc)) =>
        s.updPack core slot (fun p =>
          let p := (List.range 8).foldl (fun p i => p.setS (24 + i) (BitVec.ofNat 64 (leNat ((sv.drop (8 * i)).take 8)))) p
          let p := { p with m := setAt 0 (setAt 0 p.m 6 (BitVec.ofNat 32 (leNat ((sv.drop 64).take 4)))) 7 (BitVec.ofNat 32 (leNat ((sv.drop 68).take 4))),
                            trapFrame := none, trapRuns := [], handler := none, req := if exit ∨ 2 ≤ a then none else d.req }
          let p := d.kept.foldl (fun p x => p.updLane x.1 (fun y => if y.st == .exited then y else x.2)) p
          p.endLanes d.trap d.h (if exit then 3 else a) npc)

/-- RETURNING FROM AN ESCALATION: ENDTRAP applies the record's ACTION to its lanes (R391). A handler none of whose lanes is left ends with EXIT. -/
def endEscalation (s : State) (core slot : Nat) : State :=
  let p := s.pack core slot
  match p.svc with
  | none => s
  | some d =>
    match s.readAction core p.ctx (if d.trap.hlvl then s.stackVa core slot p.ctx + 256 else s.frBase p) with
    | (s, none) => s.double core slot (if d.trap.hlvl then 3 else 1) d.trap
    | (s, some (a, npc)) =>
      let s := s.updPack core slot (fun p => ({ p with svc := none }).endLanes d.trap d.h a npc)
      let q := s.pack core slot
      match q.handler with
      | some e => if (lanesOf e.h).all (fun l => (q.lane l).st == .exited) then endHandler s core slot true else s
      | none => s

end Sys2Proof.Machine
end

