-- ==== Sys2Proof/Machine/Frames.lean ====
section
/-! DEFINITION. CALL, CALLX, RET, RESIZE, UNWIND and EXIT (R191 to R197, R223), and the frame requests they make (R198, R199). -/

namespace Sys2Proof.Machine

/-! ## Granting -/

/-- A request with its class, order, pack, granules and, for a refill, the depth. -/
structure Want where
  cls : Nat
  ord : Nat
  slot : Nat
  n : Nat
  depth : Option Nat
  deriving DecidableEq, Repr

/-- What the packs of a core wait for; an evicted pack waits for its top frame, and a PKDATA access for the frame it names (R199, R400). -/
def State.wants (s : State) (c : Nat) : List Want :=
  (s.slotsOf c).flatMap (fun sl =>
    let p := s.pack c sl
    (match p.req with
     | some r => if r.granted then [] else [{ cls := r.cls, ord := r.ownOrd, slot := sl, n := r.n, depth := if r.cls = 1 then some r.depth else none }]
     | none => []) ++
    (if p.evicted then
       (match p.frames.getLast? with
        | some f => if f.st == .spilled then [{ cls := 4, ord := p.evictAt, slot := sl, n := f.size, depth := some (p.frames.length - 1) }] else []
        | none => [])
     else [])) ++
  (match (s.core c).pkWait with
   | some (o, _) =>
     let v := (((s.core c).csr.find 0x7C0).getD 0).toNat
     let f := (s.pack c (bits v 5 0)).frames.getD (bits v 39 32) {}
     if f.st == .spilled then [{ cls := 1, ord := o, slot := bits v 5 0, n := f.size, depth := some (bits v 39 32) }] else []
   | none => [])

/-- Is a request of another pack up to class `cls`, begun before step `ord`, waiting on the core (R199)? -/
def State.reqAhead (s : State) (c slot cls ord : Nat) : Bool :=
  (s.wants c).any (fun w => decide (w.cls < cls) || (w.cls == cls && w.slot != slot && decide (w.ord < ord)))

/-- A pack's request begins to wait. -/
def State.fileReq (s : State) (c slot cls n depth : Nat) : State :=
  s.updPack c slot (fun p => { p with req := some { cls := cls, n := n, depth := depth, since := s.cycle, ownOrd := s.ownSteps } })

/-- Ask for n granules in a class: true when the pack has them now; otherwise the request waits. A grant of another request, whose group does not issue now, is
given back (R203). -/
def State.askFrames (s : State) (c slot cls n depth : Nat) : State × Bool :=
  match (s.pack c slot).req with
  | some r =>
    if r.cls == cls && r.n == n && r.depth == depth then
      if r.granted then (s.updPack c slot (fun p => { p with req := none }), true) else (s, false)
    else (s.fileReq c slot cls n depth, false)
  | none => if n ≤ s.poolFree c ∧ !s.reqAhead c slot cls s.ownSteps then (s, true) else (s.fileReq c slot cls n depth, false)

/-- Is a frame resident? A spill in progress is cancelled; a spilled frame asks for its refill in class 1 (R198, R199). -/
def State.needFrame (s : State) (c slot depth : Nat) : State × Bool :=
  let p := s.pack c slot
  match p.frames[depth]? with
  | none => (s, true)
  | some f =>
    match f.st with
    | .resident => (s, true)
    | .spilling =>
      let s := s.updPack c slot (fun p => { p with frames := p.frames.modify depth (fun f => { f with st := .resident, touched := s.ownSteps }) })
      (s.updCore c (fun k => { k with spill := match k.spill with
        | some j => if j.slot = slot ∧ j.depth = depth then none else some j
        | none => none }), true)
    | .spilled =>
      match p.req with
      | some r => if r.cls == 1 && r.depth == depth then (s, false) else (s.fileReq c slot 1 f.size depth, false)
      | none => (s.fileReq c slot 1 f.size depth, false)
    | .refilling => (s, false)

/-! ## CALL, CALLX -/

/-- Bytes of backing for the frames at depths below `d` (R190, R191). -/
def backBelow (p : Pack) (d : Nat) : Nat := 32 * ((p.frames.take d).map (fun f => f.size + 1)).sum

/-- A register range of the caller outside its frame traps under R37 before this; here the callees get their frame (R192). Argument
registers of lanes that did not issue the CALL hold zero, untagged, under SNINIT too (log 58). -/
def callBody (c : Ctx) (dem argc retc ab : Nat) (tgt : Option (DWord × Option Nat)) (rpc : DWord) : Res :=
  let d := c.u.depth
  let core := c.u.core
  let slot := c.u.slot
  if c.p.handler.isSome then { s := c.s, traps := groupTrap c tFRAME 4 }
  else if d = 255 then { s := c.s, traps := groupTrap c tFRAME 2 }
  else match tgt with
  | none => { s := c.s, traps := groupTrap c tMISALIGN 0 }
  | some t =>
    if backBelow c.p (d + 1) + 32 * (dem + 1) > c.q.fbsize then { s := c.s, traps := groupTrap c tFRAME 3 }
    else if d + 1 < c.p.frames.length then
      { s := c.s.updPack core slot (fun p => p.updLanes c.ig (fun x => { x with blocked := true, age := 0 })), stall := some 3 }
    else
      match c.s.askFrames core slot 3 dem (d + 1) with
      | (s, false) => { s := s, stall := some 3 }
      | (s, true) =>
        let (s, base) := s.allocRun core dem
        let f0 : Frame := { rpc := rpc, cmask := c.ig, base := base, size := dem, ab := ab, retc := retc, touched := s.ownSteps }
        let f1 := if c.q.sninit then f0.fillRegs true argc (8 * dem) else f0
        let f2 := (List.range argc).foldl (fun f i => (lanesOf c.all).foldl (fun f l => f.setCell i l (c.cell (ab + i) l)) f) f1
        let s := s.updPack core slot (fun p =>
          let p := { p with frames := p.frames ++ [f2] }
          p.updLanes c.ig (fun x => { (x.goto t) with depth := d + 1 }))
        if d + 1 < 8 then { s := s, stay := c.ig }
        else
          let k := d - 7
          match s.pinWrite core c.p.ctx (s.crBase c.p + 32 * k) (((s.pack core slot).frames.getD k {}).record) with
          | (s, true) => { s := s.updPack core slot (fun p => { p with frames := p.frames.modify k (fun f => { f with onChip := false }) }), stay := c.ig }
          | (s, false) => { s := s, stay := c.ig, traps := groupTrap c tDOUBLE 1 }

/-- CALL (R192): the offset counts from the CALL word; the return PC is the word after word 1. -/
def execCall (dem argc retc : BitVec 4) (ab : VReg) (off : BitVec 32) (s : State) : Out :=
  let i := Instr.call dem argc retc ab off
  runUnit i (instrUses i) (fun c => callBody c dem.toNat argc.toNat retc.toNat ab.toNat (some (c.target off.toInt)) (c.ipc + 8)) s

/-- CALLX (R192): byte target in an s register, which must be a multiple of 4. -/
def execCallx (dem argc retc : BitVec 4) (ab : VReg) (r : BitVec 5) (s : State) : Out :=
  let i := Instr.callx dem argc retc ab r
  runUnit i (instrUses i) (fun c =>
    let t := c.p.sreg r.toNat
    callBody c dem.toNat argc.toNat retc.toNat ab.toNat (if t.toNat % 4 = 0 then some (t, none) else none) (c.ipc + 4)) s

/-! ## RET, UNWIND -/

/-- Lanes return to a depth with an address (R193, R195). -/
def Lane.ret (target : Nat) (pc : DWord) (x : Lane) : Lane :=
  { x with st := .returned, target := target, pc := pc, k := none, released := false, failx := none, count := 0, age := 0 }

/-- RET (R193). -/
def execRet (s : State) : Out :=
  runUnit .ret (instrUses .ret) (fun c =>
    let d := c.u.depth
    let f := c.p.frames.getD d {}
    if c.p.handler.isSome then { s := endHandler c.s c.u.core c.u.slot false, stay := c.ig }
    else if d = 0 then { s := c.s, traps := groupTrap c tFRAME 2 }
    else if f.retc > 8 * f.size then { s := c.s, traps := groupTrap c tFRAME 1 }
    else if !f.onChip then { s := c.s, stall := some 3 }
    else
      match c.s.needFrame c.u.core c.u.slot (d - 1) with
      | (s, false) => { s := s, stall := some 3 }
      | (s, true) =>
        { s := s.updPack c.u.core c.u.slot (fun p =>
            let p := (List.range f.retc).foldl (fun p i =>
              if f.ab + i < 8 * (p.frames.getD (d - 1) {}).size then
                { p with frames := p.frames.modify (d - 1) (fun g => (lanesOf c.all).foldl (fun g l => g.setCell (f.ab + i) l (f.cell i l)) g) }
              else p) p
            let p := if f.retc = 0 then p
              else { p with frames := (p.frames.modify d (fun g => { g with touched := s.ownSteps })).modify (d - 1) (fun g => { g with touched := s.ownSteps }) }
            (p.updLanes c.ig (Lane.ret (d - 1) f.rpc)).reap), stay := c.ig }) s

/-- The return address of the record at a depth (R195): on chip, or read from the call-record area (R189); none, with a DOUBLE
detail, when the area does not answer or the record is one R189 refuses. -/
def State.recordRpc (s : State) (core slot d : Nat) : State × Except Nat DWord :=
  let p := s.pack core slot
  let f := p.frames.getD d {}
  if f.onChip then (s, .ok f.rpc)
  else match s.pinRead core p.ctx (s.crBase p + 32 * d) 32 with
    | (s, none) => (s, .error 1)
    | (s, some bs) => let v := leNat bs; (s, if badRecord v then .error 2 else .ok (BitVec.ofNat 64 (bits v 63 0)))

/-- UNWIND (R195). A record the count needs that is not on chip is read for it (R189, DEDUCED: log 39). -/
def execUnwind (n : BitVec 8) (s : State) : Out :=
  let i := Instr.unwind n
  runUnit i (instrUses i) (fun c =>
    let d := c.u.depth
    let k := if n = 0 then d else n.toNat
    if c.p.handler.isSome then { s := c.s, traps := groupTrap c tFRAME 4 }
    else if k > d then { s := c.s, traps := groupTrap c tFRAME 2 }
    else if k = 0 then { s := c.s }
    else match c.s.recordRpc c.u.core c.u.slot (d + 1 - k) with
    | (s, .error e) => { s := s, stay := c.ig, traps := groupTrap c tDOUBLE e }
    | (s, .ok rpc) => { s := s.updPack c.u.core c.u.slot (fun p => (p.updLanes c.ig (Lane.ret (d - k) rpc)).reap), stay := c.ig }) s

/-! ## RESIZE -/

/-- Registers added by growth (R187); trap frames take zeros (R204). -/
def Frame.grow (f : Frame) (sninit : Bool) (base n : Nat) : Frame :=
  { (f.fillRegs sninit (8 * f.size) (8 * n)) with size := n, base := base }

/-- RESIZE (R194). -/
def execResize (n : BitVec 4) (s : State) : Out :=
  let i := Instr.resize n
  runUnit i (instrUses i) (fun c =>
    let d := c.u.depth
    let n := n.toNat
    let core := c.u.core
    let slot := c.u.slot
    let z := (c.p.frameAt d).size
    let set := fun (s : State) (g : Frame → Frame) => s.updPack core slot (fun p => p.updFrameAt d g)
    if c.p.handler.isNone && decide (d + 1 < c.p.frames.length) then
      { s := c.s.updPack core slot (fun p => p.updLanes c.ig (fun x => { x with blocked := true, age := 0 })), stall := some 3 }
    else if n ≤ z then
      { s := if n = z then c.s
          else (set c.s (fun f => { (f.cut (8 * n)) with size := n })).updPack core slot (fun p =>
            if p.handler.isSome then { p with trapRuns := keepRuns (match p.trapFrame with | some (_, true) => n - 1 | _ => n) p.trapRuns } else p) }
    else if c.p.handler.isNone && decide (backBelow c.p d + 32 * (n + 1) > c.q.fbsize) then { s := c.s, traps := groupTrap c tFRAME 3 }
    else
      match c.s.askFrames core slot (if c.p.handler.isSome then 2 else 3) (n - z) d with
      | (s, false) => { s := s, stall := some 3 }
      | (s, true) =>
        if c.p.handler.isSome then
          let (s, b) := s.allocRun core (n - z)
          { s := (set s (fun f => f.grow false f.base n)).updPack core slot (fun p => { p with trapRuns := p.trapRuns ++ [(b, n - z)] }) }
        else
          let b := (c.p.frameAt d).base
          let others := (s.poolRuns core).filter (fun r => r.1 != b)
          let fits := decide (b + n ≤ 480) && others.all (fun r => decide (r.1 + r.2 ≤ b ∨ b + n ≤ r.1))
          let (s, b') := if fits then (s, b) else (set s (fun f => { f with st := .spilled })).allocRun core n
          { s := set s (fun f => { (f.grow c.q.sninit b' n) with st := .resident }) }) s

/-! ## EXIT -/

/-- EXIT (R223): at handler level the delivery ends with ACTION 3 (R390). -/
def execExit (s : State) : Out :=
  runUnit .exit (instrUses .exit) (fun c =>
    if c.p.handler.isSome then { s := endHandler c.s c.u.core c.u.slot true, stay := c.ig }
    else { s := c.s.updPack c.u.core c.u.slot (fun p => p.exitLanes c.ig), stay := c.ig }) s

end Sys2Proof.Machine
end

