-- ==== Sys2Proof/Machine/System.lean ====
section
/-! DEFINITION. TRAP, BKPT, SYSCALL and MACRO (R64, R392, R393), the special registers (R447) with SRD and SWR (R394), and WAITEV (R395). -/

namespace Sys2Proof.Machine

/-! ## Software traps and microprograms -/

/-- TRAP, BKPT and SYSCALL raise their code with the immediate as detail; lpc goes on to the next instruction (R392). -/
def softTrap (i : Instr) (code : Nat) (n : BitVec 18) (s : State) : Out :=
  runUnit i (instrUses i) (fun c => { s := c.s, traps := groupTrap c code n.toNat }) s

def execTrap (n : BitVec 18) (s : State) : Out := softTrap (.trap n) tTRAPI n s
def execBkpt (n : BitVec 18) (s : State) : Out := softTrap (.bkpt n) tBKPT n s
def execSyscall (n : BitVec 18) (s : State) : Out := softTrap (.syscall n) tSYSCALL n s

/-- MACRO (R64, R393): the group enters the image of slot k at word 0; a slot with a commit pending makes it wait (R406). -/
def execMprog (q : BitVec 7) (k : BitVec 6) (s : State) : Out :=
  let i := Instr.mprog q k
  runUnit i (instrUses i) (fun c =>
    let m := c.s.core c.u.core
    if m.csWait.has k.toNat then { s := c.s, stall := some 7 }
    else match m.mprogs.find k.toNat with
      | some (_ :: _) => { s := c.s.updPack c.u.core c.u.slot (fun p => p.updLanes c.ig (fun x => { (x.goto (c.u.pc, some 0)) with mslot := k.toNat, mbase := q.toNat })), stay := c.ig }
      | _ => { s := c.s, traps := groupTrap c tILLOP 2 }) s

/-! ## Special registers -/

/-- Access codes of R6 for special registers. -/
inductive SrAcc where
  | ro | rw | sw
  deriving DecidableEq, Repr

/-- The assigned numbers with their access and whether they are held per pack or workgroup (R447). -/
def srInfo (n : Nat) : Option (SrAcc × Bool) :=
  if n ≤ 2 ∨ n = 4 then some (.ro, false)
  else if n = 3 then some (.ro, true)
  else if 0x10 ≤ n ∧ n ≤ 0x13 then some (.ro, false)
  else if n = 0x20 then some (.ro, false)
  else if 0x21 ≤ n ∧ n ≤ 0x23 then some (.ro, true)
  else if n = 0x24 then some (.sw, false)
  else if n = 0x30 then some (.rw, true)
  else if n = 0x40 then some (.ro, true)
  else if n = 0x41 then some (.ro, false)
  else if n = 0x50 then some (.sw, false)
  else if n = 0x51 then some (.ro, false)
  else if n = 0x60 then some (.ro, true)
  else if 0x61 ≤ n ∧ n ≤ 0x84 then some (.ro, false)
  else if (0x100 ≤ n ∧ n ≤ 0x11F) ∨ (0x120 ≤ n ∧ n ≤ 0x127) then some (.sw, false)
  else none

/-- The value of a special register for a core, a pack and an issue-group depth. -/
def srValue (s : State) (core slot depth n : Nat) : Nat :=
  let k := s.core core
  let p := s.pack core slot
  let g := k.good
  if n = 0 then core
  else if n = 1 then core / 16
  else if n = 2 then s.pkgId
  else if n = 3 then p.ctx + s.funcOf p.ctx * 256
  else if n = 4 then s.cycle % 2 ^ 64
  else if n = 0x10 then k.lanemap.toNat
  else if n = 0x11 then ceilDiv' 32 g + g * 16
  else if n = 0x12 then (if g = 16 then 6 + 2 * 256 else 7 + 3 * 256)
  else if n = 0x13 then (if g = 16 then 1 else 1 + 16)
  else if n = 0x20 then s.poolFree core + s.rsvFree core * 2 ^ 16
  else if n = 0x21 then p.shownDepth depth + b2n p.handler.isSome * 256
  else if n = 0x22 then (p.frameAt depth).size
  else if n = 0x23 then p.spills + p.refills * 2 ^ 24 + p.evicts * 2 ^ 48
  else if n = 0x24 then k.frameWait.toNat
  else if n = 0x30 then p.fpc.toNat
  else if n = 0x40 then (s.wg p.wg).spadBytes + k.split * 16384 * 2 ^ 32
  else if n = 0x41 then (20 - k.split) * 16384
  else if n = 0x50 then k.mxIdle.toNat
  else if n = 0x51 then k.mxWake.toNat
  else if n = 0x60 then p.collStatus.toNat
  else if n ≤ 0x84 then (s.planeBw.find (n - 0x61)).getD 0 % 2 ^ 32 + b2n (bit (s.reg (0x400000 + 8 * (n - 0x61))) 0) * 2 ^ 32
  else if n ≤ 0x10F then (k.evsel.getD (n - 0x100) 0).toNat
  else if n ≤ 0x11F then (k.evcnt.getD (n - 0x110) 0).toNat
  else (k.idle.getD (n - 0x120) 0).toNat

/-- EVSEL takes an assigned event code or keeps the old one (R436, R437). -/
def evselWrite (old v : Nat) : Nat := (if 1 ≤ bits v 7 0 ∧ bits v 7 0 ≤ 15 then bits v 7 0 else bits old 7 0) + bits v 16 8 * 256

/-- Write the RW, SW and SO fields of a special register (R401). -/
def srWrite (s : State) (core slot n v : Nat) : State :=
  if n = 0x24 then s.updCore core (fun k => { k with frameWait := BitVec.ofNat 64 (v % 2 ^ 32) })
  else if n = 0x30 then s.updPack core slot (fun p => { p with fpc := BitVec.ofNat 64 (writeFpc p.fpc.toNat v) })
  else if n = 0x50 then s.updCore core (fun k => { k with mxIdle := BitVec.ofNat 32 (v % 2 ^ 20) })
  else if 0x100 ≤ n ∧ n ≤ 0x10F then
    s.updCore core (fun k => { k with evsel := k.evsel.set (n - 0x100) (BitVec.ofNat 64 (evselWrite (k.evsel.getD (n - 0x100) 0).toNat v)) })
  else if 0x110 ≤ n ∧ n ≤ 0x11F then s.updCore core (fun k => { k with evcnt := k.evcnt.set (n - 0x110) (BitVec.ofNat 64 v) })
  else if 0x120 ≤ n ∧ n ≤ 0x127 then s.updCore core (fun k => { k with idle := k.idle.set (n - 0x120) (BitVec.ofNat 64 v) })
  else s

/-- Instructions that FPC accesses wait for: those in flight that may still raise a trap or a flag (R83). -/
def fpcWait (p : Pack) : Bool := p.toks.any (fun t => t.kind == 2)

/-- SRD (R45, R394). -/
def execSrd (d : BitVec 7) (r : BitVec 12) (s : State) : Out :=
  let i := Instr.srd d r
  runUnit i (instrUses i) (fun c =>
    match srInfo r.toNat with
    | none => { s := c.s, traps := groupTrap c tILLOP 0 }
    | some _ =>
      if r.toNat = 0x30 && fpcWait c.p then { s := c.s, stall := some 7 }
      else sop c d.toNat (BitVec.ofNat 64 (srValue c.s c.u.core c.u.slot c.u.depth r.toNat))) s

/-- SWR (R45, R394): a write to an RO register is ignored, one to an SW register traps PRIV. -/
def execSwr (d : BitVec 7) (r : BitVec 12) (s : State) : Out :=
  let i := Instr.swr d r
  runUnit i (instrUses i) (fun c =>
    match srInfo r.toNat with
    | none => { s := c.s, traps := groupTrap c tILLOP 0 }
    | some (.sw, _) => { s := c.s, traps := groupTrap c tPRIV 1 }
    | some (.ro, _) => { s := c.s }
    | some (.rw, _) =>
      if fpcWait c.p then { s := c.s, stall := some 7 }
      else { s := srWrite c.s c.u.core c.u.slot r.toNat (c.p.sreg d.toNat).toNat }) s

/-! ## Events (R395) -/

/-- WAITEV (R395). -/
def execWaitev (d : BitVec 7) (cl : BitVec 8) (s : State) : Out :=
  let i := Instr.waitev d cl
  runUnit i (instrUses i) (fun c =>
    let hit := c.p.evpend &&& cl
    if hit ≠ 0 then
      { s := c.s.updPack c.u.core c.u.slot (fun p => { (p.setS d.toNat (hit.setWidth 64)) with evpend := p.evpend &&& ~~~cl }) }
    else
      let lim := (c.p.sreg d.toNat).toNat
      { s := c.s.updPack c.u.core c.u.slot (fun p =>
          { (p.updLanes c.ig (Lane.await c.u (c.next, c.nextK) .event)) with
            waitev := p.waitev ++ [(c.ig, d.toNat, cl, if lim = 0 then none else some (c.s.cycle + lim))] }),
        stay := c.ig }) s

end Sys2Proof.Machine
end

