-- ==== Sys2Proof/Machine/Sync.lean ====
section
/-! DEFINITION. Atomics on local memory (R284 to R294, R138), barrier objects (R297 to R304), PSYNC (R306 to R308) and the fences (R309 to R313)
except the one that waits for transfers. -/

namespace Sys2Proof.Machine

/-! ## Visibility -/

/-- A release at a scope makes the core's writes visible there: from scope 2 (`clu`) on they leave the L1 (R292). -/
def State.releaseAt (s : State) (c scope : Nat) : State := if 2 ≤ scope then s.cleanCore c else s

/-! ## Atomic operations -/

/-- The new value and whether it is written (R287 to R290); `w` is the width in bits, `c` the compare value or bound. -/
def atomicOp (op w old v c : Nat) : Nat × Bool :=
  let m := 2 ^ w
  let so := sgn w old
  let sv := sgn w v
  match op with
  | 0 => ((old + v) % m, true)
  | 1 => ((old + m - v % m) % m, true)
  | 2 => (if so ≤ sv then old else v, true)
  | 3 => (if sv ≤ so then old else v, true)
  | 4 => (min old v, true)
  | 5 => (max old v, true)
  | 6 => (old &&& v, true)
  | 7 => (old ||| v, true)
  | 8 => (old ^^^ v, true)
  | 9 => (v, true)
  | 10 => (v, old == c)
  | 11 => (if old ≥ c then 0 else (old + 1) % m, true)
  | 12 => (old + v, decide (old + v ≤ c))
  | _ => ((fpAdd f32 0 old v).1, true)

/-- What one lane brings to an atomic. -/
structure AtomIn where
  l : Nat
  ps : List Place
  v : Nat
  c : Nat
  psn : Bool
  deriving DecidableEq, Repr

/-- What it takes away: the old value, the location's poison, success, and whether the lane traps POISON after the access (R294). -/
structure AtomOut where
  l : Nat
  old : Nat
  psn : Bool
  ok : Bool
  trap : Bool
  deriving DecidableEq, Repr

/-- Near or far (R138). A core that owns the line runs near and reaches no home; every other atomic counts there, and a near one takes the line. -/
def State.placement (s : State) (core hint : Nat) (a : Acc) (pa : Nat) : State × Bool :=
  let n := (s.predict.find (s.counterOf pa)).getD 0
  let near := a.oc != 1 && (hint == 1 || (hint == 0 && (!s.homeHere pa || decide (n ≤ 1))))
  if near then (s.ownLine { a with core := some core } (pa / 64), true)
  else (s.dirCount core pa, false)

/-- The same place named by its home: an atomic run far leaves the core's line alone. -/
def Place.atHome : Place → Place
  | .mem a pa => .mem { a with core := none } pa
  | q => q

/-- One lane's atomic step (R286, R291, R294). A poisoned operand poisons the line of a step that stores nothing new, too. -/
def atomStep (core ctx node op w hint : Nat) (x : AtomIn) (s : State) : State × AtomOut :=
  let (s, ps) := match x.ps with
    | .mem a pa :: _ =>
      let (s, near) := s.placement core hint a pa
      let s := if near || !s.homeHere pa then s else s.countSlice (channelOf (s.hbmAddr pa)) 5 1
      (s.count core (if near then 12 else 13) ctx 1,
        if near then x.ps else x.ps.map Place.atHome)
    | _ => (s, x.ps)
  let s := ps.foldl State.placeTouch s
  let old := leNat (ps.map s.placeByte)
  let psn := ps.any s.placePsn
  if op = 12 && psn then (s, { l := x.l, old := old, psn := true, ok := false, trap := true })
  else
    let (new, ok) := atomicOp op w old x.v x.c
    let s := if ok || x.psn then s.writePlaces node ps (leBytes (w / 8) (if ok then new else old)) x.psn else s
    (s, { l := x.l, old := old, psn := psn, ok := ok, trap := false })

/-- The steps of one instruction, in ascending lane order. -/
def atomSteps (core ctx node op w hint : Nat) (xs : List AtomIn) (s : State) : State × List AtomOut :=
  xs.foldl (fun r x => let y := atomStep core ctx node op w hint x r.1; (y.1, r.2 ++ [y.2])) (s, [])

/-- Operand of an atomic in a lane: 32 or 64 bits. -/
def Ctx.opnd (c : Ctx) (r : VReg) (w64 : Bool) (l : Nat) : Nat := if w64 then (c.rv2 r l).toNat else (c.rv r l).toNat

/-- Operands an operation reads: B unless INCW, C for CAS, INCW and FADDB (R284). -/
def atomUsesB (k : Nat) : Bool := k != 11
def atomUsesC (k : Nat) : Bool := k == 10 || k == 11 || k == 12

/-- First traps of an atomic lane: poison (R294), then a differing pair (R419). -/
def atomPre (c : Ctx) (a b cc : VReg) (w64 : Bool) (k : Nat) (addr : Nat → LAddr) (l : Nat) : Option LTrap :=
  let n := if w64 then 2 else 1
  let po := fun l => (atomUsesB k && c.psn b n l) || (atomUsesC k && c.psn cc n l)
  let both := fun (t : Nat → Bool) => t l || (c.q.paired && t (l + 16))
  if both (c.psn a 2) || (k == 12 && both po) then some { l := l, code := tPOISON }
  else if c.q.paired then
    if addr l != addr (l + 16) then some (pairAddr l 1 (addr l).vaOf (addr (l + 16)).vaOf)
    else
      let d := fun r => if c.opnd r w64 l = c.opnd r w64 (l + 16) then none
        else some (pairAddr l 1 (BitVec.ofNat 64 (c.opnd r w64 l)) (BitVec.ofNat 64 (c.opnd r w64 (l + 16))))
      (if atomUsesB k then d b else none).or (if atomUsesC k then d cc else none)
  else none

def atomIns (c : Ctx) (b cc : VReg) (w64 : Bool) (k : Nat) (xs : List (Nat × List Place)) : List AtomIn :=
  let n := if w64 then 2 else 1
  xs.map (fun x => { l := x.1, ps := x.2, v := if atomUsesB k then c.opnd b w64 x.1 else 0, c := if atomUsesC k then c.opnd cc w64 x.1 else 0,
                     psn := (atomUsesB k && c.psn b n x.1) || (atomUsesC k && c.psn cc n x.1) })

/-- Old values as destination registers. -/
def oldCells (w64 : Bool) (old : Nat) (psn : Bool) : List VCell :=
  (if w64 then [BitVec.ofNat 32 old, BitVec.ofNat 32 (old / 2 ^ 32)] else [BitVec.ofNat 32 old]).map (fun v => { val := v, psn := psn })

/-- Performed lanes write D and mS (R286); the old values are mirrored reads (R425). -/
def atomWrite (c : Ctx) (d : VReg) (sm : Nat) (w64 : Bool) (op : Nat) (ins : List AtomIn) (outs : List AtomOut) (s : State) : State :=
  let done := outs.filter (fun o => !o.trap)
  let n := if w64 then 8 else 4
  let mir := done.filter (fun o => match ins.find? (fun i => i.l == o.l) with | some i => mirroredPlaces i.ps | none => false)
  let (s, bs) := packMirror s c.u.core c.u.slot (laneMask (mir.map AtomOut.l)) (mir.flatMap (fun o => leBytes n o.old))
  let olds := fun (o : AtomOut) => match mir.findIdx? (fun x => x.l == o.l) with
    | some i => leNat ((bs.drop (n * i)).take n)
    | none => o.old
  let s := done.foldl (fun s o => writeLane c d.toNat o.l (oldCells w64 (olds o) o.psn) s) s
  if op = 12 then
    s.updPack c.u.core c.u.slot (fun p => p.setM sm (laneMask (done.map AtomOut.l)) (laneMask ((done.filter AtomOut.ok).map AtomOut.l)))
  else s

/-- A local atomic: ATOM, or RED with no destination (R285, R286, R295). -/
def atomBody (c : Ctx) (dst : Option VReg) (a b cc : VReg) (sm hint width scope order k : Nat) : Res :=
  let w64 := width == 1
  let n := if w64 then 8 else 4
  let v := c.via 2 (if dst.isSome then { r := true, w := true } else needW)
  let addr := addrVa c a 0
  let g := gather c (atomPre c a b cc w64 k addr) (fun l => laneAccess c v l (addr l) 0 n n n true true)
  if (order = 2 ∨ order = 3) ∧ c.p.owes c.ig then { s := c.s, stall := some 7 }
  else
    let ins := atomIns c b cc w64 k (gotPlaces g.2)
    let s := if order = 2 ∨ order = 3 then g.1.releaseAt c.u.core scope else g.1
    let (s, outs) := atomSteps c.u.core c.p.ctx v.node k (8 * n) hint ins s
    let s := match dst with
      | some d => atomWrite c d sm w64 k ins outs s
      | none => s
    { s := s, traps := gotTraps g.2 ++ (outs.filter AtomOut.trap).map (fun o => { l := o.l, code := tPOISON }),
      faults := gotFaults g.2, kind := 1, pend := gotWaits g.2, tight := order = 1 ∨ order = 3 }

/-- ATOM (R286). -/
def execAtom (d a b : VReg) (la : BitVec 4) (sm : BitVec 3) (hint : BitVec 2) (cc : VReg) (width : BitVec 2) (scope : BitVec 3) (order : BitVec 2)
    (k : BitVec 4) (s : State) : Out :=
  let i := Instr.atom d a b la sm hint cc width scope order k
  runUnit i (instrUses i) (fun c => atomBody c (some d) a b cc sm.toNat hint.toNat width.toNat scope.toNat order.toNat k.toNat) s

/-! ## Barrier instructions -/

/-- The leader's operands (R298): its object's place and count, or the group's trap. -/
inductive BarArg where
  | go (f c off n : Nat)
  | trap (ts : List LTrap)
  | wait
  deriving DecidableEq, Repr

def barArg (c : Ctx) (a : VReg) (b : Option VReg) (dflt : Nat) : BarArg :=
  let l := (lanesOf c.ig).headD 0
  let tag := fun (r : VReg) (o : Nat) => if decide (r.toNat ≤ 111) && (c.cell r.toNat l).tag then some (groupTrap c tSNAN 0 0 [BitVec.ofNat 8 o, BitVec.ofNat 8 r.toNat]) else none
  let psn := c.psn a 1 l || (match b with | some r => c.psn r 1 l | none => false)
  let f := (c.rv a l).toNat
  let n := match b with
    | some r => if r == 112 then dflt else (c.rv r l).toNat
    | none => dflt
  match (tag a 0).or (match b with | some r => tag r 1 | none => none) with
  | some t => .trap t
  | none =>
    if psn then .trap (groupTrap c tPOISON 0)
    else if f / 2 ^ 28 > 1 then .trap (groupTrap c tACCESS 0)
    else match spadPlaces c.s c.p f 16 with
      | .trap k d => .trap (groupTrap c k d)
      | .fault _ => .wait
      | .wait => .wait
      | .ok ps =>
        if f % 16 ≠ 0 then .trap (groupTrap c tMISALIGN 0 (BitVec.ofNat 64 f))
        else match watchTrap c.s c.p.ctx l true true ps, ps with
          | some t, _ => .trap (groupTrap c t.code t.detail 0 t.info)
          | none, .spad k o :: _ => .go f k o n
          | none, _ => .wait

/-- The BAR_OVER trap of the group, with the offset that names the object and the object after the event (R386). -/
def barTrap (c : Ctx) (s : State) (f k off detail : Nat) : Res :=
  { s := s, traps := groupTrap c tBAROVER detail 0 (leBytes 4 f ++ List.replicate 12 0 ++ (s.bar k off).bytes) }

/-- Write the retry or result bit for every lane of the group. -/
def barMask (c : Ctx) (m : Nat) (b : Bool) (s : State) : State :=
  s.updPack c.u.core c.u.slot (fun p => p.setM m c.ig (if b then c.ig else 0))

/-- Register the pack on the object; none when it has eight registrations (R299). -/
def barRegister (c : Ctx) (f k off : Nat) (s : State) : Option State :=
  let p := s.pack c.u.core c.u.slot
  if (p.barReg k off).isSome then some s
  else if p.bars.length ≥ 8 then none
  else
    let b := s.bar k off
    some ((s.updPack c.u.core c.u.slot (fun p => { p with bars := p.bars ++ [{ off := f, core := k, arr := off, obs := b.ph }] })).setBar k off { b with waiters := b.waiters + 1 })

/-- What an arrival comes to (R301); `counted true` completes the phase. -/
inductive ArrRes where
  | counted (completes : Bool)
  | refused | overrun | count
  deriving DecidableEq, Repr

/-- A pack's arrival of n (R301). -/
def barArrive (s : State) (k off n : Nat) : State × ArrRes :=
  let b := s.bar k off
  if b.pend > 0 then (s, .refused)
  else if !b.kind && (n == 0 || decide (n > b.exp)) then (s, .count)
  else if !b.kind && decide (b.arr + n > b.exp) then (s, .refused)
  else if decide (b.arr + n > b.exp) then (s.barOverrun k off (b.arr + n - b.exp) true, .overrun)
  else
    let s := s.setBar k off { b with arr := b.arr + n }
    if b.arr + n = b.exp then ((s.barComplete k off).barDrain k off, .counted true) else (s, .counted false)

/-- The group waits for the phase to change (R300). -/
def barWaitLanes (c : Ctx) (f k off : Nat) (s : State) : State :=
  let ph := match (s.pack c.u.core c.u.slot).barReg k off with | some r => r.obs | none => false
  s.updPack c.u.core c.u.slot (fun p => p.updLanes c.ig (fun x => { (x.await c.u (c.next, c.nextK) (.barrier k off ph f)) with count := 0 }))

/-- Does the pack have a completion to observe? -/
def barFresh (c : Ctx) (k off : Nat) (s : State) : Bool :=
  match (s.pack c.u.core c.u.slot).barReg k off with
  | some r => r.obs != (s.bar k off).ph
  | none => false

/-- The barrier instructions that arrive, which release (R302). -/
def barArrives : Instr → Bool
  | .bararv _ _ _ => true
  | .baraw _ _ _ => true
  | _ => false

/-- The shared frame of the barrier instructions: operands, then ERR and EXP = 0 for all but BARINIT (R300). -/
def barOp (i : Instr) (a : VReg) (b : Option VReg) (dflt : Nat) (init : Bool) (eff : Ctx → Nat → Nat → Nat → Nat → Res) (s : State) : Out :=
  runUnit i (instrUses i) (fun c =>
    match barArg c a b dflt with
    | .trap ts => { s := c.s, traps := ts }
    | .wait => { s := c.s, stall := some 7 }
    | .go f k off n =>
      let o := c.s.bar k off
      if c.p.owes c.ig && barArrives i then { s := c.s, stall := some 7 }
      else if !init && o.err then barTrap c c.s f k off 2
      else if !init && o.exp == 0 then barTrap c c.s f k off 3
      else eff c f k off n) s

/-- BARINIT (R300). -/
def execBarinit (a b : VReg) (s : State) : Out :=
  barOp (.barinit a b) a (some b) 0 true (fun c f k off n =>
    if n % 2 ^ 31 = 0 then barTrap c c.s f k off 3
    else
      let s := (c.s.setBar k off { exp := n % 2 ^ 31, kind := bit n 31 }).barTrapWaiters k off 5
      let s := s.updCore k (fun x => { x with barHeld := x.barHeld.del off })
      { s := { s with packs := s.packs.map (fun (kp : Nat × Pack) => (kp.1, { kp.2 with bars := kp.2.bars.filter (fun r => !(r.core == k && r.arr == off)) })) } }) s

/-- BARARV (R300, R301): a release at the object's scope (R302). -/
def execBararv (m : BitVec 3) (a b : VReg) (s : State) : Out :=
  barOp (.bararv m a b) a (some b) 1 false (fun c f k off n =>
    let s := c.s.releaseAt c.u.core (1 + f / 2 ^ 28)
    match barArrive s k off n with
    | (s, .counted _) => { s := barMask c m.toNat false s }
    | (s, .refused) => { s := barMask c m.toNat true s }
    | (s, .overrun) => barTrap c s f k off 1
    | (s, .count) => barTrap c s f k off 3) s

/-- BARAW (R300): registers, arrives and, when counted, waits. One that completes the phase goes on: it observes, or another group of its pack that waited
has observed for the pack (R299). -/
def execBaraw (m : BitVec 3) (a b : VReg) (s : State) : Out :=
  barOp (.baraw m a b) a (some b) 1 false (fun c f k off n =>
    match barRegister c f k off (c.s.releaseAt c.u.core (1 + f / 2 ^ 28)) with
    | none => barTrap c c.s f k off 4
    | some s =>
      match barArrive s k off n with
      | (s, .refused) => { s := barMask c m.toNat true s }
      | (s, .overrun) => barTrap c s f k off 1
      | (s, .count) => barTrap c s f k off 3
      | (s, .counted done) =>
        let s := barMask c m.toNat false s
        if barFresh c k off s then { s := s.barObserve c.u.core c.u.slot k off }
        else if done then { s := s }
        else { s := barWaitLanes c f k off s, stay := c.ig }) s

/-- BARWAIT (R300). -/
def execBarwait (a : VReg) (s : State) : Out :=
  barOp (.barwait a) a none 0 false (fun c f k off _ =>
    match barRegister c f k off c.s with
    | none => barTrap c c.s f k off 4
    | some s =>
      if barFresh c k off s then { s := s.barObserve c.u.core c.u.slot k off }
      else { s := barWaitLanes c f k off s, stay := c.ig }) s

/-- BARTEST (R300). -/
def execBartest (m : BitVec 3) (a : VReg) (s : State) : Out :=
  barOp (.bartest m a) a none 0 false (fun c f k off _ =>
    match barRegister c f k off c.s with
    | none => barTrap c c.s f k off 4
    | some s =>
      if barFresh c k off s then { s := barMask c m.toNat true (s.barObserve c.u.core c.u.slot k off) }
      else { s := barMask c m.toNat false s }) s

/-- BAREXP (R300). -/
def execBarexp (a b : VReg) (s : State) : Out :=
  barOp (.barexp a b) a (some b) 0 false (fun c f k off n =>
    let o := c.s.bar k off
    let e := n % 2 ^ 31
    if e = 0 ∨ e < o.arr then barTrap c c.s f k off 3
    else
      let s := c.s.setBar k off { o with exp := e }
      { s := if e = o.arr then (s.barComplete k off).barDrain k off else s }) s

/-- BARDROP (R300). -/
def execBardrop (a b : VReg) (s : State) : Out :=
  barOp (.bardrop a b) a (some b) 0 false (fun c f k off n =>
    let o := c.s.bar k off
    if n ≥ o.exp ∨ o.exp - n < o.arr then barTrap c c.s f k off 3
    else
      let s := c.s.barDereg c.u.core c.u.slot k off
      let s := s.setBar k off { (s.bar k off) with exp := o.exp - n }
      { s := (if o.exp - n = o.arr then s.barComplete k off else s).barDrain k off }) s

/-! ## PSYNC -/

/-- A posted lane and its mask, with every lane of the posting group. -/
def psyncPosts (p : Pack) (ig : Word) (mask : Nat → Word) : List (Nat × Word) :=
  lanes32.filterMap (fun l => if ig.lane l then some (l, mask l) else (p.lane l).posted.map (fun m => (l, m)))

/-- Does a posted lane take part in a mismatch (R307)? -/
def psyncBad (posts : List (Nat × Word)) (x : Nat × Word) : Bool :=
  !x.2.lane x.1 || posts.any (fun y => (x.2.lane y.1 || y.2.lane x.1) && x.2 != y.2)

/-- Lane b of R307. -/
def psyncPartner (posts : List (Nat × Word)) (a : Nat × Word) : Nat × Word :=
  if !a.2.lane a.1 then a
  else (posts.find? (fun y => y.2 != a.2 && (a.2.lane y.1 || y.2.lane a.1))).getD a

/-- PSYNC (R306, R307). -/
def execPsync (a : VReg) (s : State) : Out :=
  runUnit (.psync a) (instrUses (.psync a)) (fun c =>
    let ls := (lanesOf c.ig).filter (fun l => c.act.lane l)
    let bad := ls.filter (fun l => c.psn a 1 l)
    let ok := laneMask (ls.filter (fun l => !c.psn a 1 l))
    let tr := bad.map (fun l => ({ l := l, code := tPOISON } : LTrap))
    let posts := psyncPosts c.p ok (fun l => c.rv a l)
    let wait := fun (p : Pack) => (lanesOf ok).foldl (fun p l => p.updLane l (fun x =>
      { (x.await c.u (c.next, c.nextK) (.psync (c.rv a l))) with count := 0 })) p
    match posts.find? (psyncBad posts) with
    | some x =>
      let y := psyncPartner posts x
      let info := leBytes 16 (x.1 + x.2.toNat * 2 ^ 32 + y.1 * 2 ^ 64 + y.2.toNat * 2 ^ 96)
      { s := c.s.updPack c.u.core c.u.slot (fun p => p.updLanes (laneMask (posts.map Prod.fst) &&& ~~~ok) (fun x => { x with st := .active, why := .none, age := 0 })),
        traps := tr ++ posts.map (fun z => { l := z.1, code := tPSYNC, info := info }) }
    | none => { s := c.s.updPack c.u.core c.u.slot (fun p => (wait p).psyncSettle), traps := tr, stay := ok }) s

/-! ## Fences -/

/-- Does a group have an earlier TCOPY or COLL that is not accepted (R309)? -/
def Pack.unaccepted (p : Pack) (m : Word) : Bool := p.tcq.any (fun q => (q.lanes &&& m) != 0) || p.collq.any (fun q => (q.lanes &&& m) != 0)

/-- FENCE with an ordering kind (R310): the model performs accesses in order, but for lanes that wait for a cluster member (R129) and for transfers that are not
accepted, which `sc` and `rel` order as every earlier access. A kind that orders earlier stores makes them visible at the scope. -/
def execFence (scope : BitVec 3) (k : BitVec 2) (s : State) : Out :=
  runUnit (.fence scope k) (instrUses (.fence scope k)) (fun c =>
    if c.p.owes c.ig || ((k == 0 || k == 3) && c.p.unaccepted c.ig) then { s := c.s, stall := some 7 }
    else { s := if k == 2 then c.s else c.s.releaseAt c.u.core scope.toNat }) s

/-- FENCE.lite (R311): orders nothing by itself. -/
def execFenceLite (scope : BitVec 3) (s : State) : Out := runUnit (.fenceLite scope) (instrUses (.fenceLite scope)) (fun c => { s := c.s }) s

/-- Is core j in the scope of a HEAVY of core c (R311)? -/
def inScope (scope c j : Nat) : Bool := if scope ≤ 1 then j == c else if scope = 2 then j / 16 == c / 16 else true

/-- FENCE.heavy (R311): `sc` for its own lanes, and every core in the scope drains its stores. -/
def execFenceHeavy (scope : BitVec 3) (s : State) : Out :=
  runUnit (.fenceHeavy scope) (instrUses (.fenceHeavy scope)) (fun c =>
    if c.p.owes c.ig || c.p.unaccepted c.ig then { s := c.s, stall := some 7 }
    else { s := if scope.toNat ≤ 1 then c.s
                else ((List.range 160).filter (inScope scope.toNat c.u.core)).foldl State.cleanCore c.s }) s

/-- FENCE.shape (R313): record reads happen at acceptance, after every store the lanes issued. -/
def execFenceShape (scope : BitVec 3) (s : State) : Out := runUnit (.fenceShape scope) (instrUses (.fenceShape scope)) (fun c => { s := c.s.cleanCore c.u.core }) s

end Sys2Proof.Machine
end

