-- ==== Sys2Proof/Machine/Tiles.lean ====
section
/-! DEFINITION. Tiles (R166 to R170), operand streams (R172 to R176), the record cache (R155, R156), page request posting (R117 to R120), and the
sending of remote requests (R316, R318). -/

namespace Sys2Proof.Machine

/-! ## Tiles -/

/-- Entry of the core's tile table for tile t of a workgroup. -/
def Wg.tileIx (w : Wg) (t : Nat) : Nat := w.tile0 + t

def State.tile (s : State) (w : Wg) (t : Nat) : Tile := ((s.core w.core).tiles.find (w.tileIx t)).getD {}

def State.updTile (s : State) (w : Wg) (t : Nat) (f : Tile → Tile) : State :=
  s.updCore w.core (fun k => { k with tiles := k.tiles.upd (w.tileIx t) f })

/-- PAUSED shows whether any copy on the tile is paused (R169, R177). -/
def State.notePaused (s : State) (wg t : Nat) : State :=
  s.updTile (s.wg wg) t (fun x => { x with paused := s.copies.any (fun c => c.2.wg == wg && c.2.q.tile == t && c.2.status == 2) })

/-- The TSTAT image (R169). -/
def Tile.stat (t : Tile) : Nat :=
  (match t.st with | .empty => 0 | .filling => 1 | .ready => 2 | .draining => 3) + t.readers * 2 ^ 2 + t.err * 2 ^ 8 + b2n t.paused * 2 ^ 12 + b2n t.psn * 2 ^ 13 +
    t.size * 2 ^ 16 + t.off * 2 ^ 32

/-- First byte of a tile in its core's array. -/
def Wg.tileByte (w : Wg) (t : Tile) : Nat := w.way * 16384 + t.off * 256

/-- A tile enters READY (R167). -/
def State.tileReady (s : State) (wg t : Nat) : State :=
  (s.updTile (s.wg wg) t (fun x => { x with st := .ready })).postWg wg 1

/-- A reader of a tile is done (R167). -/
def State.readerDone (s : State) (wg t : Nat) : State :=
  let x := s.tile (s.wg wg) t
  let r := x.readers - 1
  let s := s.updTile (s.wg wg) t (fun x => { x with readers := r, st := if x.st == .draining && r == 0 then .empty else x.st })
  if x.st == .draining && r == 0 then s.postWg wg 1 else s

def readerOk (t : Tile) : Bool := t.st == .ready && decide (t.readers < 63)

/-- The TILE trap of a group (R171, R386). -/
def tileTrap (c : Ctx) (detail tile shape : Nat) : Res :=
  { s := c.s, traps := groupTrap c tTILE detail 0 (leBytes 4 (tile + shape * 2 ^ 16)) }

/-- An instruction that names a tile: RANGE first (R166). -/
def tileOp (i : Instr) (t shape : Nat) (eff : Ctx → Tile → Res) (s : State) : Out :=
  runUnit i (instrUses i) (fun c => if t ≥ c.q.ntiles then tileTrap c 1 t shape else eff c (c.s.tile (c.s.wg c.p.wg) t)) s

/-- TSTAT (R169). -/
def execTstat (d : BitVec 7) (t : BitVec 8) (s : State) : Out :=
  tileOp (.tstat d t) t.toNat 0 (fun c x => sop c d.toNat (BitVec.ofNat 64 x.stat)) s

/-- TREL (R167, R168, R170). -/
def execTrel (t : BitVec 8) (s : State) : Out :=
  tileOp (.trel t) t.toNat 0 (fun c x =>
    match x.st with
    | .filling => { s := c.s, stall := some 1 }
    | .ready =>
      if x.readers = 0 then { s := (c.s.updTile (c.s.wg c.p.wg) t.toNat (fun x => { x with st := .empty })).postWg c.p.wg 1 }
      else { s := c.s.updTile (c.s.wg c.p.wg) t.toNat (fun x => { x with st := .draining }) }
    | _ => { s := c.s }) s

/-! ## Streams -/

/-- Bytes of a position (R172): stream A, stream B. -/
def posSize (b : Bool) : Nat := if b then 16384 else 8192

/-- Positions the buffer holds. -/
def bufCap (b : Bool) : Nat := if b then 4 else 8

def Core.strm (k : Core) (b : Bool) : Strm := if b then k.strB else k.strA
def Core.setStrm (k : Core) (b : Bool) (x : Strm) : Core := if b then { k with strB := x } else { k with strA := x }

/-- STRM.feed (R173). -/
def feedOp (i : Instr) (t : Nat) (b : Bool) (s : State) : Out :=
  tileOp i t 0 (fun c x =>
    let q := posSize b
    let n := x.size * 256 / q
    let st := (c.s.core c.u.core).strm b
    if x.size = 0 ∨ x.size * 256 % q ≠ 0 then tileTrap c 5 t 0
    else if !readerOk x || decide (st.q.length + n > 64) then { s := c.s, stall := some 1 }
    else
      let id := c.s.ownSteps
      let new := (List.range n).map (fun p => ({ tile := t, p := p, last := p + 1 == n, feed := id } : Pos))
      let s := c.s.updTile (c.s.wg c.p.wg) t (fun x => { x with readers := x.readers + 1 })
      { s := s.updCore c.u.core (fun k => { (k.setStrm b { q := st.q ++ new }) with lastFed := some b }) }) s

def execStrmFeeda (t : BitVec 8) (s : State) : Out := feedOp (.strmFeeda t) t.toNat false s
def execStrmFeedb (t : BitVec 8) (s : State) : Out := feedOp (.strmFeedb t) t.toNat true s

/-- STRM.replay (R174): the last n positions become a group that pops k more times. -/
def execStrmReplay (n : BitVec 6) (k : BitVec 7) (s : State) : Out :=
  let i := Instr.strmReplay n k
  runUnit i (instrUses i) (fun c =>
    match (c.s.core c.u.core).lastFed with
    | none => tileTrap c 6 0 0
    | some b =>
      let q := ((c.s.core c.u.core).strm b).q
      let m := q.length - n.toNat
      if q.length < n.toNat ∨ (q.drop m).any (fun x => x.gid != 0) then tileTrap c 6 0 0
      else
        let grp := (q.drop m).map (fun x => { x with gid := c.s.ownSteps + 1, passes := k.toNat })
        { s := c.s.updCore c.u.core (fun x => x.setStrm b { q := q.take m ++ grp }) }) s

/-- Feeds of the positions dropped are done (R167, R175). -/
def dropFeeds (s : State) (wg : Nat) (q : List Pos) : State := (q.filter Pos.last).foldl (fun s x => s.readerDone wg x.tile) s

/-- A flush takes effect once every MMA queued before it has popped: the positions appended before it go, and their feeds are done (R175). -/
def flushOne (s : State) (core slot : Nat) (f : Flush) : State :=
  let k := s.core core
  if f.done || k.mmaQ.any (fun e => e.popped.isNone && decide (e.ownAt < f.at_)) then s
  else
    let old := fun (x : Strm) => x.q.filter (fun y => decide (y.feed < f.at_))
    let s := dropFeeds (dropFeeds s (s.pack core slot).wg (old k.strA)) (s.pack core slot).wg (old k.strB)
    let keep := fun (x : Strm) => ({ q := x.q.filter (fun y => decide (f.at_ ≤ y.feed)) } : Strm)
    (s.updCore core (fun k => { k with strA := keep k.strA, strB := keep k.strB })).updPack core slot
      (fun p => { p with flushes := p.flushes.map (fun g => if g = f then { g with done := true } else g) })

/-- The flushes of a core's packs whose MMAs have popped take effect. -/
def flushSettle (s : State) (core : Nat) : State :=
  (s.slotsOf core).foldl (fun s sl => (s.pack core sl).flushes.foldl (fun s f => flushOne s core sl f) s) s

/-- Is this flush the one that the group of a unit waits in? -/
def Flush.ofUnit (c : Ctx) (f : Flush) : Bool := f.hlvl == c.p.handler.isSome && f.pc == c.u.pc && f.k == c.u.k

/-- STRM.flush (R175): it issues once, which parts the positions and MMAs before it from later ones, and then waits until it has taken effect. -/
def execStrmFlush (s : State) : Out :=
  runUnit .strmFlush (instrUses .strmFlush) (fun c =>
    let s := if c.p.flushes.any (·.ofUnit c) then c.s
      else flushSettle ((c.s.updPack c.u.core c.u.slot (fun p => { p with flushes := p.flushes ++
          [{ hlvl := c.p.handler.isSome, pc := c.u.pc, k := c.u.k, at_ := c.s.ownSteps }] })).updCore c.u.core (fun k => { k with lastFed := none })) c.u.core
    if (s.pack c.u.core c.u.slot).flushes.any (fun f => f.ofUnit c && f.done) then
      { s := s.updPack c.u.core c.u.slot (fun p => { p with flushes := p.flushes.filter (fun f => !f.ofUnit c) }) }
    else { s := s, stall := some 1 }) s

/-- STREAM_FILL (R172, R176): the first unfetched position of the queue, while the buffer has room, takes its tile's bytes and their poison. -/
def streamFillable (s : State) (c : Nat) (b : Bool) : Option Nat :=
  let q := ((s.core c).strm b).q
  let held := (q.filter (fun x => x.data.isSome)).length
  if held < bufCap b then q.findIdx? (fun x => x.data.isNone) else none

/-- The bytes of a position and the poison of its 64-byte blocks, as its tile holds them now (R172, R176). -/
def fetchPos (s : State) (c : Nat) (b : Bool) (x : Pos) : State × List Byte × List Bool :=
  let w := s.wg ((s.core c).mxOwner.getD 0)
  let base := w.tileByte (s.tile w x.tile) + x.p * posSize b
  let blocks := List.range (posSize b / 64)
  let s := blocks.foldl (fun s j => s.spadTouch c (base + 64 * j)) s
  (s, (List.range (posSize b)).map (fun j => s.spadByte c (base + j)), blocks.map (fun j => s.spadPoisoned c (base + 64 * j)))

def execStreamFill (c : Nat) (b : Bool) (s : State) : Out :=
  match streamFillable s c b with
  | none => .next s
  | some i =>
    let (s, d) := fetchPos s c b (((s.core c).strm b).q.getD i {})
    .next (s.updCore c (fun k => k.setStrm b { q := (k.strm b).q.modify i (fun x => { x with data := some d }) }))

/-- Pop the head position (R172, R174): its bytes; a position of a replay group with passes left goes behind its group, to be fetched afresh; the last
position of a feed ends its reader. -/
def popPos (s : State) (c : Nat) (b : Bool) : State × List Byte × List Bool :=
  match ((s.core c).strm b).q with
  | [] => (s, [], [])
  | x :: q =>
    let (s, d) := match x.data with
      | some d => (s, d)
      | none => fetchPos s c b x
    if x.gid ≠ 0 ∧ x.passes ≠ 0 then
      let n := (q.takeWhile (fun y => y.gid == x.gid)).length
      (s.updCore c (fun k => k.setStrm b { q := q.take n ++ { x with passes := x.passes - 1, data := none } :: q.drop n }), d)
    else
      let s := s.updCore c (fun k => k.setStrm b { q := q })
      (if x.last then s.readerDone ((s.core c).mxOwner.getD 0) x.tile else s, d)

/-- Positions a stream can still pop. -/
def Strm.avail (x : Strm) : Nat := (x.q.map (fun y => 1 + y.passes)).sum

/-! ## Records -/

/-- What a read of a context table at acceptance comes to (R150). -/
inductive RecRes where
  | ok (bs : List Byte)
  | trap (code detail : Nat)
  | fault (img : FaultImg)
  deriving DecidableEq, Repr

/-- Read n bytes of a context table at a control VA (R150). -/
def tableRead (s : State) (ctx va n kind : Nat) : State × RecRes :=
  match decodeVa s.pkgId (va % 2 ^ 64) with
  | .error (k, d) => (s, .trap k d)
  | .ok (.ctl v) =>
    match transRange { wh := 10, ctx := ctx, core := none, node := 0, kind := kind, need := needR } 0 (n / 4096 + 2) v n s with
    | (s, .ok ps) =>
      let (s, bs, psn) := s.readPlaces ps
      if psn.any id then (s, .trap tPOISON 0) else (s, .ok bs)
    | (s, .fault img) => (s, .fault img)
    | (s, .trap k d) => (s, .trap k d)
    | (s, .wait) => (s, .trap tACCESS 0)
  | .ok _ => (s, .trap tACCESS 0)

/-- Entries the record cache keeps (R155). -/
def cacheKeep (s : State) (key : Nat × Nat × Nat) (bs : List Byte) : State :=
  { s with recCache := ((key, bs) :: s.recCache.filter (fun x => x.1 != key)).take 1024 }

/-- A record through the cache (R155): kind 0 shape, 1 collective. -/
def recordRead (s : State) (ctx kind index va n pkind : Nat) : State × RecRes :=
  match s.recCache.find? (fun x => x.1 == (ctx, kind, index)) with
  | some x => (s, .ok x.2)
  | none =>
    match tableRead s ctx va n pkind with
    | (s, .ok bs) => (cacheKeep s (ctx, kind, index) bs, .ok bs)
    | r => r

/-- SHINV's effect (R156): record i and its neighbour, or every entry of the context. -/
def shinvOne (s : State) (ctx i : Nat) : State :=
  { s with recCache := s.recCache.filter (fun x => !(x.1.1 == ctx && x.1.2.1 == 0 && (x.1.2.2 == i || (x.1.2.2 == i + 1 && decide (i < 4095))))) }

def shinvEvery (s : State) (ctx : Nat) : State := { s with recCache := s.recCache.filter (fun x => x.1.1 != ctx) }

/-- SHINV (R156). -/
def execShinv (i : BitVec 12) (s : State) : Out :=
  runUnit (.shinv i) (instrUses (.shinv i)) (fun c => { s := shinvOne c.s c.p.ctx i.toNat }) s

/-- SHINV.all (R156). -/
def execShinvAll (s : State) : Out := runUnit .shinvAll (instrUses .shinvAll) (fun c => { s := shinvEvery c.s c.p.ctx }) s

/-! ## Page requests -/

/-- Registers of function f's queue (R114). -/
def prqReg (f : Nat) : Nat := 0x200000 + 0x40 * f

/-- Entries queued (R119). -/
def State.prqCount (s : State) (f : Nat) : Nat := (bits (s.reg (prqReg f + 8)) 8 0 + 512 - bits (s.reg (prqReg f + 16)) 8 0) % 512

/-- A free tag of function f, 1 to 65,535 (R120): the first free one from where Config says. -/
def State.freeTag (s : State) (f : Nat) : State × Nat :=
  let (n, s) := s.draw
  let used := (s.prq.filter (fun q => q.func == f)).map (fun q => q.img.tag)
  let st := Config.tagStart n % 65535
  let cand := (List.range (used.length + 1)).map (fun i => (st + i) % 65535 + 1)
  (s, (cand.find? (fun t => !used.contains t)).getD 1)

/-- The lanes that an image may stand for: those it names, or for an engine kind, whose LANES holds a tile (R118), every lane of the pack. -/
def FaultImg.who (img : FaultImg) : Word := if img.kind = 4 ∨ img.kind = 5 then 0xFFFFFFFF else img.lanes

/-- Does lane l wait on the fault of an image (R117: the lanes of one instruction that faulted on one page)? -/
def Lane.onFault (img : FaultImg) (l : Nat) (x : Lane) : Bool :=
  img.who.lane l && x.st == .waiting &&
    (match x.why with | .fault g => g.va.toNat / 4096 == img.va.toNat / 4096 && g.tag == img.tag && (img.who == img.lanes || g.lanes == img.lanes) | _ => false)

/-- Change the lanes of a pack, with what a delivery keeps of them. -/
def Pack.mapAll (p : Pack) (f : Nat → Lane → Lane) : Pack :=
  { p with lanes := p.lanes.zipIdx.map (fun x => f x.2 x.1),
           handler := p.handler.map (fun d => { d with kept := d.kept.map (fun (x : Nat × Lane) => (x.1, f x.1 x.2)) }) }

/-- Post an entry: write it, advance the tail, raise the interrupt when the queue was empty (R118, R119). -/
def State.prqPut (s : State) (q : PrqWait) : State :=
  let f := q.func
  let (s, tag) := s.freeTag f
  let img := { q.img with tag := tag }
  let tail := bits (s.reg (prqReg f + 8)) 8 0
  let was := s.prqCount f
  let s := s.writeBytes {} (bits (s.reg (prqReg f)) 51 12 * 4096 + 32 * (tail % 256)) img.bytes false
  let s := s.setReg (prqReg f + 8) ((tail + 1) % 512)
  let s := { s with prq := s.prq ++ [{ q with img := img }] }
  let s := if q.copy.isNone && q.coll.isNone && q.queue.isNone then
      s.updPack img.core img.pack (fun p => p.mapAll (fun l x => if x.onFault q.img l then { x with why := .fault img } else x))
    else s
  if was = 0 then s.send (.prqIrq f) else s

def State.prqEnabled (s : State) (f : Nat) : Bool := bit (s.reg (prqReg f)) 0

/-- A fault that is to be posted waits while the queue is full or others wait before it (R119). -/
def State.prqPost (s : State) (q : PrqWait) : State :=
  if s.prqHeld.any (fun h => h.func == q.func) || decide (s.prqCount q.func ≥ 256) then { s with prqHeld := s.prqHeld ++ [q] } else s.prqPut q

/-! ## Remote requests -/

/-- Registers of the ports (R317), and the first up plane from a plane on (R316). -/
def portReg (p : Nat) : Nat := 0x400000 + 8 * p
def State.planeUp (s : State) (p : Nat) : Bool := bit (s.reg (portReg p)) 0
def State.upFrom (s : State) (st : Nat) : Nat := (((List.range 36).map (fun i => (st + i) % 36)).find? s.planeUp).getD (st % 36)

/-- The offset a request names; a chunk names none. -/
def reqOff : ReqKind → Option Nat
  | .read o _ => some o
  | .write o _ _ => some o
  | .reduce o _ _ _ _ => some o
  | .atom o _ _ _ _ _ _ => some o
  | .chunk _ => none

/-- The plane of a request to package n (R316): by its line, or as the split gives for a chunk. -/
def State.planeFor (s : State) (n : Nat) : ReqKind → Nat
  | .chunk ch => s.upFrom ch.plane
  | k => s.upFrom ((n + (reqOff k).getD 0 / 64) % 36)

/-- Requests to one line of one package. -/
def sameLine (n : Nat) (k : ReqKind) (r : Remote) : Bool :=
  r.target == n && (match reqOff k, reqOff r.req.kind with | some a, some b => a / 64 == b / 64 | _, _ => false)

/-- The virtual channel of a request (R315). -/
def reqVc : ReqKind → Nat
  | .chunk _ => 3
  | _ => 1

/-- Send a request on a plane: the next sequence number to its target on its channel, and a timer (R318, R319). Behind a request to its line that was sent
again it is held back (R318), and with no port up it waits for one (R317). -/
def State.sendOn (s : State) (plane n ctx : Nat) (token : DWord) (kind : ReqKind) (who : RemWho) : State :=
  let ch := 2048 * reqVc kind + n
  let seq := (s.sent.find ch).getD 0
  let r : RemoteReq := { pkg := s.pkgId, ctx := ctx, seq := seq, plane := plane, token := token, kind := kind }
  let held := s.remotes.any (fun x => (x.2.resent || x.2.held) && sameLine n kind x.2)
  let down := !held && !s.planeUp plane
  let (id, s) := s.fresh
  let s := { s with sent := s.sent.ins ch (seq + 1),
                    remotes := s.remotes.ins id { target := n, req := r, who := who, sentAt := s.cycle, tries := 1, held := held, noPort := down } }
  if held || down then s else s.send (.request n r)

def State.sendReq (s : State) (n ctx : Nat) (token : DWord) (kind : ReqKind) (who : RemWho) : State :=
  s.sendOn (s.planeFor n kind) n ctx token kind who

/-- The token of a package and offset in a context's token table (R325): a token, or a trap, or a fault. -/
inductive TokRes where
  | ok (t : DWord)
  | trap (code detail : Nat)
  | fault (img : FaultImg)
  deriving DecidableEq, Repr

def tokenFor (s : State) (ctx n off kind : Nat) : State × TokRes :=
  match tableRead s ctx (s.ctxReg ctx 0x28 + 16 * (4 * n + bits off 43 42)) 16 kind with
  | (s, .ok bs) =>
    let v := leNat bs
    if bit v 64 && bits v 127 65 == 0 then (s, .ok (BitVec.ofNat 64 v)) else (s, .trap tACCESS 2)
  | (s, .trap k d) => (s, .trap k d)
  | (s, .fault img) => (s, .fault img)

end Sys2Proof.Machine
end

