-- ==== Sys2Proof/Machine/Copy.lean ====
section
/-! DEFINITION. Copies (R149 to R165, R177 to R179): TCOPY, its acceptance, the engine's progress, pause, failure and end; TRESUME; local and remote sides. -/

namespace Sys2Proof.Machine

/-! ## The record image (R151) -/

structure Shape where
  sb : Nat
  db : Nat
  e : List Nat
  ss : List Int
  ds : List Int
  padv : Nat
  pl0 : Nat
  ph0 : Nat
  pl1 : Nat
  ph1 : Nat
  et : Nat
  skind : Bool
  dkind : Bool
  tr : Bool
  pad : Bool
  gather : Bool
  ext : Bool
  resv : Bool
  deriving DecidableEq, Repr

/-- Element size (R152). -/
def etSize (et : Nat) : Nat := match et with | 0 => 1 | 1 => 2 | 2 => 4 | 3 => 8 | 4 => 4 | 5 => 2 | 6 => 2 | _ => 4

def shapeOf (img : List Byte) (base : Option DWord) : Shape :=
  let v := leNat img
  let f := fun (hi lo : Nat) => bits v hi lo
  let sk := bit v 436
  let ovr := fun (mem : Bool) (x : Nat) => if mem then (match base with | some b => b.toNat | none => x) else x
  { sb := ovr (!sk) (f 63 0), db := ovr (!bit v 437) (f 127 64), e := [f 143 128, f 159 144, f 175 160, f 191 176],
    ss := [sgn 16 (f 399 384), sgn 32 (f 223 192), sgn 32 (f 255 224), sgn 32 (f 287 256)],
    ds := [sgn 32 (f 319 288), sgn 32 (f 351 320), sgn 32 (f 383 352)],
    padv := f 415 400, pl0 := f 419 416, ph0 := f 423 420, pl1 := f 427 424, ph1 := f 431 428, et := f 435 432, skind := sk, dkind := bit v 437,
    tr := bit v 438, pad := bit v 439, gather := bit v 440, ext := bit v 441, resv := bits v 447 442 != 0 }

def Shape.ext' (q : Shape) (i : Nat) : Nat := q.e.getD i 1
def Shape.total (q : Shape) : Nat := q.ext' 0 * q.ext' 1 * q.ext' 2 * q.ext' 3
def Shape.esz (q : Shape) : Nat := etSize q.et
/-- The memory side's base, and whether it lies in another package's tensor range. -/
def Shape.memBase (q : Shape) : Nat := if q.skind then q.db else q.sb
def remoteVa (pkg va : Nat) : Bool := bits va 63 56 == 0x40 && !bit va 55 && bits va 54 44 != pkg
def tensorVa (va : Nat) : Bool := bits va 63 56 == 0x40

/-- Loop indices of a position (R157). -/
def Shape.idx (q : Shape) (n : Nat) : Nat × Nat × Nat × Nat :=
  (n % q.ext' 0, n / q.ext' 0 % q.ext' 1, n / (q.ext' 0 * q.ext' 1) % q.ext' 2, n / (q.ext' 0 * q.ext' 1 * q.ext' 2))

def Shape.isPad (q : Shape) (n : Nat) : Bool :=
  let (i0, i1, _, _) := q.idx n
  q.pad && (decide (i0 < q.pl0) || decide (i0 + q.ph0 ≥ q.ext' 0) || decide (i1 < q.pl1) || decide (i1 + q.ph1 ≥ q.ext' 1))

/-- Source address of a position; `gx` is the gathered index (R157). -/
def Shape.srcAt (q : Shape) (n : Nat) (gx : Nat → Int) : Int :=
  let (i0, i1, i2, i3) := q.idx n
  let s0 : Int := i0 - (if q.pad then q.pl0 else 0)
  let s1 : Int := i1 - (if q.pad then q.pl1 else 0)
  let s0 := if q.gather then gx s0.toNat else s0
  q.sb + s0 * q.ss.getD 0 0 * q.esz + s1 * q.ss.getD 1 0 + i2 * q.ss.getD 2 0 + i3 * q.ss.getD 3 0

def Shape.dstAt (q : Shape) (n : Nat) : Int :=
  let (i0, i1, i2, i3) := q.idx n
  let (j0, j1) := if q.tr then (i1, i0) else (i0, i1)
  q.db + j0 * q.esz + j1 * q.ds.getD 0 0 + i2 * q.ds.getD 1 0 + i3 * q.ds.getD 2 0

def padElem (q : Shape) : List Byte :=
  leBytes q.esz (match q.esz with | 1 => q.padv % 256 | 2 => q.padv | 4 => q.padv * 2 ^ 16 | _ => q.padv * 2 ^ 48)

/-- Least and greatest values of a sum of index times stride (for the tile-side check). -/
def spanOf (n : Nat) (stride : Int) : Int × Int := let x := (n - 1 : Int) * stride; (min 0 x, max 0 x)

/-- The tile-side byte range of the loop nest, as [lo, hi): exact for its extremes (R154). -/
def Shape.tileRange (q : Shape) : Int × Int :=
  let e := q.ext'
  let es : Int := q.esz
  let parts := if q.dkind then
      (if q.tr then [spanOf (e 1) es, spanOf (e 0) (q.ds.getD 0 0)] else [spanOf (e 0) es, spanOf (e 1) (q.ds.getD 0 0)]) ++
        [spanOf (e 2) (q.ds.getD 1 0), spanOf (e 3) (q.ds.getD 2 0)]
    else
      let n0 := e 0 - (if q.pad then q.pl0 + q.ph0 else 0)
      let n1 := e 1 - (if q.pad then q.pl1 + q.ph1 else 0)
      [spanOf n0 (q.ss.getD 0 0 * es), spanOf n1 (q.ss.getD 1 0), spanOf (e 2) (q.ss.getD 2 0), spanOf (e 3) (q.ss.getD 3 0)]
  (parts.foldl (fun a p => a + p.1) 0, parts.foldl (fun a p => a + p.2) 0 + es)

/-- Checks of R154 with detail RECORD, and of R327's fixed parts. -/
def shapeBad (s : State) (w : Wg) (q : Shape) (x : List Byte) (index rop : Nat) : Bool :=
  let es := q.esz
  let rem := remoteVa s.pkgId q.memBase
  let ev := leNat x
  let repl := bits ev 95 64
  let top := Nat.log2 repl
  q.resv || decide (q.et ≥ 9) || q.e.any (· == 0) || q.skind == q.dkind || (if q.skind then q.sb != 0 else q.db != 0) ||
  (q.ext && (index == 4095 || !rem)) || (rem && !q.ext) ||
  (tensorVa (if q.skind then q.db else q.sb) && q.ext && bits q.memBase 54 44 == s.pkgId) ||
  q.memBase % es != 0 || (if q.skind then q.ds.any (fun d => d % es != 0) else (q.ss.drop 1).any (fun d => d % es != 0)) ||
  decide (q.total * es > 2 ^ 32 - 1) ||
  (q.gather && (q.skind || decide (q.padv * 16 + 4 * (q.ext' 0 - (if q.pad then q.pl0 + q.ph0 else 0)) > w.spadBytes))) ||
  (q.pad && (decide (q.pl0 + q.ph0 ≥ q.ext' 0) || decide (q.pl1 + q.ph1 ≥ q.ext' 1))) ||
  (rop != 0 && (q.dkind || decide (q.et < 4) || decide (q.et > 8) || bits q.db 63 56 == 0xF1 || (bits q.db 63 56 == 0xF0 && bits q.db 31 28 != 2))) ||
  (q.ext && (bits ev 511 128 != 0 || (repl != 0 && (!q.skind || !rem || bits ev 63 0 != 0 || decide (bits ev 111 96 + top ≥ 64) || decide (bits ev 127 112 ≥ 32)))))

/-- Packages of a replicated copy (R327): none when an entry is bad. -/
def replPkgs (s : State) (ctx : Nat) (x : List Byte) : State × Option (List Nat) × Option RecRes :=
  let ev := leNat x
  let repl := bits ev 95 64
  let pos := (List.range 32).filter (fun i => bit repl i)
  pos.foldl (fun r i =>
    match r with
    | (s, some ps, none) =>
      match tableRead s ctx (s.ctxReg ctx 0x30 + 2 * (64 * bits ev 127 112 + bits ev 111 96 + i)) 2 4 with
      | (s, .ok bs) =>
        let v := leNat bs
        let n := v % 2048
        if !bit v 15 || bits v 14 11 != 0 || n == s.pkgId || ps.contains n then (s, none, none) else (s, some (ps ++ [n]), none)
      | (s, e) => (s, some ps, some e)
    | r => r) (s, some [], none)

/-! ## TCOPY at issue -/

/-- The barrier condition of R160. -/
def barOk (s : State) (p : Pack) (f : Nat) : Bool :=
  decide (f / 2 ^ 28 ≤ 1) && f % 16 == 0 && (match spadPlaces s p f 16 with | .trap _ _ => false | _ => true)

/-- TCOPY (R157): read at issue, accepted later (R161). -/
def execTcopy (tile : BitVec 8) (base bar : BitVec 5) (acq rel dig : BitVec 1) (la : BitVec 4) (shape : BitVec 12) (scope : BitVec 3) (rop : BitVec 4) (s : State) : Out :=
  let i := Instr.tcopy tile base bar acq rel dig la shape scope rop
  tileOp i tile.toNat shape.toNat (fun c _ =>
    let bv := (c.p.sreg bar.toNat).toNat % 2 ^ 32
    if bar ≠ 0 ∧ !barOk c.s c.p bv then tileTrap c 4 tile.toNat shape.toNat
    else
      let q : TcopyReq := { tok := c.s.nextId, lanes := c.ig, pc := c.u.pc, k := c.u.k, words := c.u.words, ownAt := c.u.ownAt, tile := tile.toNat, shape := shape.toNat,
                              scope := scope.toNat, rop := rop.toNat, acq := acq == 1, rel := rel == 1, dig := dig == 1,
                              base := if base = 0 then none else some (c.p.sreg base.toNat), bar := if bar = 0 then none else some bv }
      { s := c.s.updPack c.u.core c.u.slot (fun p => { p with tcq := p.tcq ++ [q] }), kind := 4 }) s

/-! ## Acceptance -/

/-- A request is withdrawn with a trap of its group (R150, R154). -/
def reqTrap (s : State) (core slot tok at_ : Nat) (lanes : Word) (pc : DWord) (k : Option Nat) (words : List Nat) (code detail : Nat) (info : List Byte) : State :=
  let p := s.pack core slot
  let depth := (p.lane ((lanesOf lanes).headD 0)).depth
  (s.updPack core slot (fun p => { p with toks := p.toks.filter (fun t => t.id != tok) })).raise core slot
    { code := code, detail := detail, lanes := lanes, depth := depth, replay := pc, k := k, words := words, info := info, cycle := BitVec.ofNat 64 s.cycle,
      hlvl := p.handler.isSome, ownOrd := at_ }

/-- A request's group waits for translation and will issue it again from the start (R116, R150). -/
def reqFault (s : State) (core slot tok : Nat) (lanes : Word) (pc : DWord) (k : Option Nat) (img : FaultImg) : State :=
  let img := { img with core := core, pack := slot }
  let s := s.updPack core slot (fun p =>
    let p := { p with toks := p.toks.filter (fun t => t.id != tok) }
    p.updLanes lanes (fun x =>
      let x := match x.st, x.why with
        | .waiting, .fault _ => { x with pc := x.replay, k := x.replayK }
        | _, _ => x
      { x with st := .waiting, why := .fault img, replay := pc, replayK := k, released := false, age := 0 }))
  s.updCore core (fun c => { c with trq := c.trq ++ [{ slot := slot, code := 0, ctx := img.ctx, img := some img }] })

/-- What the acceptance test of the oldest request finds. -/
inductive AccRes where
  | seen (q : TcopyReq)
  | trap (code detail : Nat)
  | fault (img : FaultImg)
  deriving DecidableEq, Repr

/-- What a table read that did not go through comes to. -/
def recToAcc (q : TcopyReq) : RecRes → AccRes
  | .trap k d => .trap k d
  | .fault img => .fault img
  | .ok _ => .seen q

/-- The tokens of a replicated copy, from the token table (R325, R327). -/
def replToks (s : State) (ctx off : Nat) (q : TcopyReq) (pkgs : List Nat) : State × AccRes :=
  pkgs.foldl (fun (r : State × AccRes) n =>
    match r with
    | (s, .seen q) =>
      match tokenFor s ctx n off 4 with
      | (s, .ok t) => (s, .seen { q with toks := q.toks ++ [(n, t)] })
      | (s, .trap k d) => (s, .trap k d)
      | (s, .fault img) => (s, .fault img)
    | r => r) (s, .seen q)

/-- Copies of a core that have not completed (R149). -/
def State.coreCopies (s : State) (c : Nat) : Nat := (s.copies.filter (fun x => x.2.core == c)).length

/-- Read a TCOPY's record, once, and the tables it needs, and check them (R150, R154, R327). A request that has read them keeps what it read. -/
def acceptRead (s : State) (core slot : Nat) (q : TcopyReq) : State × AccRes :=
  let p := s.pack core slot
  let w := s.wg p.wg
  let sb := s.ctxReg p.ctx 0x20
  if q.seen then (s, .seen q)
  else match recordRead s p.ctx 0 q.shape (sb + 64 * q.shape) 64 4 with
  | (s, .ok img) =>
    let z := shapeOf img q.base
    let more := z.ext && q.shape != 4095
    let er := if more then recordRead s p.ctx 0 (q.shape + 1) (sb + 64 * (q.shape + 1)) 64 4 else (s, RecRes.ok [])
    match er with
    | (s, .ok x) =>
      let q := { q with seen := true, img := img, ext := x, toks := [] }
      if shapeBad s w z x q.shape q.rop then (s, .trap tTILE 2)
      else if z.tileRange.1 < 0 ∨ z.tileRange.2 > (s.tile w q.tile).size * 256 then (s, .trap tTILE 3)
      else if more && bits (leNat x) 95 64 != 0 then
        match replPkgs s p.ctx x with
        | (s, _, some e) => (s, recToAcc q e)
        | (s, none, none) => (s, .trap tTILE 2)
        | (s, some pk, none) => replToks s p.ctx (z.db % 2 ^ 44) q pk
      else (s, .seen { q with toks := if remoteVa s.pkgId z.memBase then [(bits z.memBase 54 44, BitVec.ofNat 64 (bits (leNat x) 63 0))] else [] })
    | (s, e) => (s, recToAcc q e)
  | (s, e) => (s, recToAcc q e)

/-- The gate of a request that is read and checked (R149, R161, R168). -/
def acceptGate (s : State) (core slot : Nat) (q : TcopyReq) : Bool :=
  let t := s.tile (s.wg (s.pack core slot).wg) q.tile
  decide (s.coreCopies core < 32) && (if (shapeOf q.img q.base).dkind then t.st == .empty else readerOk t)

/-- The oldest unaccepted TCOPY of a pack takes effect: accepted, trapped, waiting for translation, or, once its tables are read, at its gate. -/
def execTcopyAccept (core slot : Nat) (s : State) : Out :=
  let p := s.pack core slot
  match p.tcq with
  | [] => .next s
  | q :: rest =>
    let info := leBytes 4 (q.tile + q.shape * 2 ^ 16)
    let pop := fun (s : State) => s.updPack core slot (fun p => { p with tcq := rest })
    match acceptRead s core slot q with
    | (s, .trap k d) => .next (reqTrap (pop s) core slot q.tok q.ownAt q.lanes q.pc q.k q.words k d (if k = tTILE then info else []))
    | (s, .fault img) => .next (reqFault (pop s) core slot q.tok q.lanes q.pc q.k { img with lanes := BitVec.ofNat 32 q.tile, kind := 4 })
    | (s, .seen q) =>
      if !acceptGate s core slot q then .next (s.updPack core slot (fun p => { p with tcq := q :: rest }))
      else
      let c : Copy := { core := core, slot := slot, wg := p.wg, ctx := p.ctx, q := q, img := q.img, ext := q.ext, pkgs := q.toks.map Prod.fst, toks := q.toks }
      let s := (pop s).updPack core slot (fun p => { p with toks := p.toks.filter (fun t => t.id != q.tok), copySeq := p.copySeq + 1 })
      let w := s.wg p.wg
      let s := s.updTile w q.tile (fun t =>
        let t := match q.bar with | some b => { t with link := some b } | none => t
        if (shapeOf c.img q.base).dkind then { t with st := .filling, err := 0, psn := false } else { t with readers := t.readers + 1 })
      let c := { c with q := { q with bar := match q.bar with | some b => some b | none => (s.tile w q.tile).link, tok := p.copySeq } }
      let (id, s) := s.fresh
      .next { s with copies := s.copies.ins id { c with id := id } }

/-! ## Progress -/

/-- What an engine's next element comes to. -/
inductive ElRes where
  | done
  | sent
  | fault (img : FaultImg)
  | fail (err : Nat)
  | wait
  deriving DecidableEq, Repr

/-- Places of a memory-side element (R158). -/
def engPlaces (s : State) (c : Copy) (va : Int) (n : Nat) (wr : Bool) : State × PlRes :=
  let v := wrapTo 64 va
  match decodeVa s.pkgId v with
  | .error _ => (s, .trap tACCESS 0)
  | .ok (.priv _) => (s, .trap tACCESS 0)
  | .ok a =>
    let p : Pack := { wg := c.wg, ctx := c.ctx }
    match addrBounds s p a n with
    | some _ => (s, .trap tACCESS 0)
    | none => addrPlaces { wh := 10, ctx := c.ctx, core := none, node := (s.wg c.wg).uid, kind := if wr then 5 else 4, need := if wr then needW else needR } p 0 a n s

def tilePlaces (w : Wg) (t : Tile) (off : Int) (n : Nat) : List Place :=
  (List.range n).map (fun i => .spad w.core (w.tileByte t + off.toNat + i))

/-- The reduce operators of R163: element type, operator 1 add, 2 min, 3 max. -/
def reduceOp (et op old v : Nat) : Nat :=
  let f := if et = 4 then f32 else if et = 5 then f16 else bf16
  if et ≤ 6 then
    (match op with | 1 => (fpAdd f 0 old v).1 | 2 => (fpMin f false old v).1 | _ => (fpMin f true old v).1)
  else
    match op with
    | 1 => (old + v) % 2 ^ 32
    | 2 => if et = 7 then (if sgn 32 old ≤ sgn 32 v then old else v) else min old v
    | _ => if et = 7 then (if sgn 32 v ≤ sgn 32 old then old else v) else max old v

/-- CRC-64 of R162, one byte at a time. -/
def crcByte (c : Nat) (b : Byte) : Nat :=
  (List.range 8).foldl (fun c _ => if c / 2 ^ 63 % 2 = 1 then (c * 2 % 2 ^ 64) ^^^ 0x42F0E1EBA9EA3693 else c * 2 % 2 ^ 64) (c ^^^ (b.toNat * 2 ^ 56))

/-- An element's bytes have reached their destination: progress, digest, owed bytes, the tile's PSN mark. -/
def Copy.delivered (c : Copy) (z : Shape) (bs : List Byte) (psn : Bool) : Copy :=
  { c with at_ := c.at_ + 1, owed := c.owed + z.esz, psn := c.psn || psn, crc := if c.q.dig then BitVec.ofNat 64 (bs.foldl crcByte c.crc.toNat) else c.crc }

/-- The gather index list lies in the workgroup's own scratchpad (R157). -/
def gatherIx (s : State) (w : Wg) (z : Shape) (i : Nat) : Int :=
  sgn 32 (leNat ((List.range 4).map (fun k => s.spadByte w.core (w.way * 16384 + z.padv * 16 + 4 * i + k))))

def State.updCopy (s : State) (id : Nat) (f : Copy → Copy) : State := { s with copies := s.copies.upd id f }

def State.setCopy (s : State) (c : Copy) : State := { s with copies := s.copies.upd c.id (fun _ => c) }

/-- The slice that is the home of a place (R97, R127). -/
def State.placeSlice (s : State) : Place → Option Nat
  | .mem _ pa => if s.localHome pa then some (channelOf (s.hbmAddr pa)) else none
  | .spad _ _ => none
  | .chip off => some (bits off 13 6)

/-- Write an element at places, or combine it there at their home (R163, R439). -/
def elemWrite (s : State) (node : Nat) (rop et : Nat) (ps : List Place) (bs : List Byte) (psn : Bool) : State :=
  if rop = 0 then s.writePlaces node ps bs psn
  else
    let s := ps.foldl State.placeTouch s
    let s := match ps.head?.bind s.placeSlice with
      | some h => s.countSlice h 5 1
      | none => s
    let old := leNat (ps.map s.placeByte)
    s.writePlaces node ps (leBytes ps.length (reduceOp et rop old (leNat bs))) psn

/-- A target of a copy is refused or lost (R326, R327): the first cause stays, and the copy goes on to its other targets; with none left it has failed. -/
def State.copyDrop (s : State) (id pk err : Nat) : State :=
  { s with copies := s.copies.upd id (fun c =>
      let ps := c.pkgs.filter (fun x => x != pk)
      { c with pkgs := ps, err := if c.err = 0 then err else c.err, status := if ps.isEmpty then 4 else c.status }) }

/-- The plane of element `pos` to package n: 256-byte blocks go round the up planes from that of the first block (R316). -/
def State.copyPlane (s : State) (z : Shape) (pos n : Nat) : Nat :=
  let st := s.upFrom ((n + wrapTo 44 (if z.dkind then z.sb else z.db) / 64) % 36)
  let ups := ((List.range 36).map (fun i => (st + i) % 36)).filter s.planeUp
  ups.getD (pos * z.esz / 256 % max 1 ups.length) st

/-- The offset of a remote element, where its VA passes R95 and R96 and stays in the base's package (R157, R158, R326). -/
def Shape.remoteOff (z : Shape) (va : Int) : Option Nat :=
  let v := wrapTo 64 va
  if bits v 63 44 = bits z.memBase 63 44 ∧ v % 2 ^ 44 + z.esz ≤ 2 ^ 44 then some (v % 2 ^ 44) else none

/-- One element (R157). A remote element becomes a request per target; its answer goes on from there. -/
def copyElem (s : State) (c : Copy) : State × ElRes :=
  let z := shapeOf c.img c.q.base
  let w := s.wg c.wg
  let t := s.tile w c.q.tile
  let n := c.at_
  let es := z.esz
  let rem := remoteVa s.pkgId z.memBase
  let node := w.uid
  let fin := fun (s : State) (bs : List Byte) (psn : Bool) => ((s.setCopy (c.delivered z bs psn)).count c.core 15 c.ctx es, ElRes.done)
  let put := fun (s : State) (bs : List Byte) (psn : Bool) =>
    if z.dkind then fin (s.writePlaces node (tilePlaces w t (z.dstAt n) es) bs psn) bs psn
    else
      match engPlaces s c (z.dstAt n) es true with
      | (s, .ok ps) => fin (elemWrite s node c.q.rop z.et ps bs psn) bs psn
      | (s, .fault img) => (s, .fault img)
      | (s, .wait) => (s, .wait)
      | (s, .trap _ _) => (s, .fail 2)
  let remote := fun (s : State) (kind : Nat → ReqKind) =>
    match z.remoteOff (if z.dkind then z.srcAt n (gatherIx s w z) else z.dstAt n) with
    | none => (s, ElRes.fail 2)
    | some off =>
      (c.toks.foldl (fun (s : State) pk =>
        if !c.pkgs.contains pk.1 then s
        else if s.isLost pk.1 then s.copyDrop c.id pk.1 3
        else
          let s := s.commitNode node
          let s := s.sendOn (s.copyPlane z n pk.1) pk.1 c.ctx pk.2 (kind off) (.copy c.id n)
          s.updCopy c.id (fun c => { c with waits := c.waits + 1 })) s, ElRes.sent)
  if z.isPad n then
    (if rem && !z.dkind then remote s (fun o => if c.q.rop = 0 then .write o (padElem z) false else .reduce o z.et c.q.rop (padElem z) false) else put s (padElem z) false)
  else if z.skind then
    let ps := tilePlaces w t (z.srcAt n (fun _ => 0)) es
    let (s, bs, ms) := s.readPlaces ps
    if rem then remote s (fun o => if c.q.rop = 0 then .write o bs (ms.any id) else .reduce o z.et c.q.rop bs (ms.any id))
    else put s bs (ms.any id)
  else if rem then remote s (fun o => .read o es)
  else
    match engPlaces s c (z.srcAt n (gatherIx s w z)) es false with
    | (s, .ok ps) =>
      let (s, bs, ms) := s.readPlaces ps
      let (s, bs) := if mirroredPlaces ps then mirrorRead s w.uid w.idx ((s.pack c.core c.slot).pkid) true c.q.tok 0 bs else (s, bs)
      put s bs (ms.any id)
    | (s, .fault img) => (s, .fault img)
    | (s, .wait) => (s, .wait)
    | (s, .trap _ _) => (s, .fail 2)

/-- Elements until one does not go through, or `n` have. -/
def copyRun (id : Nat) : Nat → State → State × ElRes
  | 0, s => (s, .done)
  | n + 1, s =>
    match s.copies.find id with
    | none => (s, .done)
    | some c =>
      if c.at_ ≥ (shapeOf c.img c.q.base).total then (s, .done)
      else match copyElem s c with
        | (s, .done) => copyRun id n s
        | r => r

/-- Lines and blocks wholly written by consecutive elements are writes of a whole line: their poison bit is what was written (R136). -/
def wholeLines (s : State) (w : Wg) (c : Copy) (lo hi : Nat) : State :=
  let z := shapeOf c.img c.q.base
  let t := s.tile w c.q.tile
  let offs := (List.range (hi - lo)).map (fun i => w.tileByte t + (z.dstAt (lo + i)).toNat)
  if !z.dkind || c.psn then s
  else
    let blocks := (offs.map (· / 64)).dedup
    blocks.foldl (fun s b =>
      if (offs.filter (fun o => o / 64 == b)).dedup.length * z.esz = 64 then
        s.updCore w.core (fun k => { k with spadPsn := k.spadPsn.del b })
      else s) s

/-- The barrier object at an offset of a workgroup (R160): core and array offset. -/
def barAt (s : State) (wg ctx : Nat) (bar : Option Nat) : Option (Nat × Nat) :=
  match bar with
  | none => none
  | some f => match spadPlaces s { wg := wg, ctx := ctx } f 16 with
    | .ok (.spad k o :: _) => some (k, o)
    | _ => none

/-- Does the object lie in a cluster member that has not started, which arrivals wait for (R129)? -/
def barWaits (s : State) (wg ctx : Nat) (bar : Option Nat) : Bool :=
  match bar with
  | none => false
  | some f => match spadPlaces s { wg := wg, ctx := ctx } f 16 with | .wait => true | _ => false

/-- Where the copy's bytes arrive (R160). -/
def copyBar (s : State) (c : Copy) : Option (Nat × Nat) := barAt s c.wg c.ctx c.q.bar

def copyBarWaits (s : State) (c : Copy) : Bool := barWaits s c.wg c.ctx c.q.bar

/-- Byte arrivals of at most 4,096 bytes each (R160). -/
def arriveBytes (k o : Nat) : Nat → Nat → State → State
  | 0, _, s => s
  | f + 1, n, s => if n = 0 then s else arriveBytes k o f (n - min n 4096) (s.barArriveEngine k o (min n 4096))

/-- The bytes that a copy owes arrive, but none before the object's member has started (R129, R160). -/
def arriveOwed (s : State) (c : Copy) : State :=
  if copyBarWaits s c then s
  else
  let s := match copyBar s c with
    | some (k, o) => arriveBytes k o (c.owed / 4096 + 1) c.owed s
    | none => s
  s.updCopy c.id (fun c => { c with owed := 0 })

/-- A running copy goes on by up to 4,096 bytes; the bytes of an unfinished batch arrive at once, the last ones at its end (R160). -/
def execBarrierEngineArrival (id : Nat) (s : State) : Out :=
  match s.copies.find id with
  | none => .next s
  | some c =>
    if c.status ≠ 1 ∨ c.waits ≠ 0 then .next s
    else
      let z := shapeOf c.img c.q.base
      let (s, r) := copyRun id (4096 / z.esz) s
      let c1 := (s.copies.find id).getD c
      let s := wholeLines s (s.wg c.wg) c1 c.at_ c1.at_
      let s := match r with
        | .fail e => s.updCopy id (fun c => { c with status := 4, err := e })
        | .fault img => State.notePaused { (s.updCopy id (fun c => { c with status := 2, cause := 1 })) with
                                  prqHeld := s.prqHeld ++ [{ func := s.funcOf c.ctx, img := { img with lanes := BitVec.ofNat 32 c.q.tile, core := c.core, pack := c.slot }, copy := some id }] } c.wg c.q.tile
        | _ => s
      let c2 := (s.copies.find id).getD c
      .next (if c2.at_ < z.total ∧ c2.status = 1 then arriveOwed s c2 else s)

/-- COPY_FAULT_PAUSE (R165): a paused copy's page request is posted; with no queue enabled the copy fails with ERR XLATE at once. -/
def execCopyFaultPause (id : Nat) (s : State) : Out :=
  match s.prqHeld.find? (fun q => q.copy == some id) with
  | none => .next s
  | some q =>
    let s := { s with prqHeld := s.prqHeld.filter (fun x => x.copy != some id) }
    match s.copies.find id with
    | none => .next s
    | some c =>
      if s.prqEnabled q.func then .next ((s.prqPost q).notePaused c.wg c.q.tile)
      else .next ((s.updCopy id (fun c => { c with status := 4, err := 1 })).notePaused c.wg c.q.tile)

/-- COPY_START (R149): the oldest waiting copy takes a free engine. -/
def execCopyStart (s : State) : Out :=
  if decide ((s.copies.filter (fun c => c.2.status == 1)).length ≥ 48) then .next s
  else match s.copies.find? (fun c => c.2.status == 0) with
    | none => .next s
    | some (id, c) =>
      let s := if c.q.acq && !c.acqDone then s.cleanCore c.core else s
      .next ((s.updCopy id (fun c => { c with status := 1, cause := 0, acqDone := c.q.acq })).notePaused c.wg c.q.tile)

/-- The end of a copy on its tile, with its events (R164, R167, R395). -/
def copyEnd (s : State) (c : Copy) : State :=
  let z := shapeOf c.img c.q.base
  let w := s.wg c.wg
  let s := s.updTile w c.q.tile (fun t => { t with psn := t.psn || c.psn, err := if t.err = 0 then c.err else t.err })
  let s := arriveOwed s c
  let s := if z.dkind then s.tileReady c.wg c.q.tile else s.readerDone c.wg c.q.tile
  let s := s.updPack c.core c.slot (fun p => if p.wg = c.wg then p.post 3 else p)
  State.notePaused { s with copies := s.copies.del c.id } c.wg c.q.tile

/-- COPY_COMPLETE (R162, R167): digest, unless the copy has failed for a target (R327), then the last arrival, then the tile. -/
def execCopyComplete (id : Nat) (s : State) : Out :=
  match s.copies.find id with
  | none => .next s
  | some c =>
    let z := shapeOf c.img c.q.base
    if c.status ≠ 1 ∨ c.waits ≠ 0 ∨ c.at_ < z.total ∨ copyBarWaits s c then .next s
    else
      let s := if c.q.dig ∧ c.err = 0 then
          let d := leBytes 8 c.crc.toNat
          let (s, _) := ctlWrite 10 c.ctx false false (s.ctxReg c.ctx 0x20 + 64 * c.q.shape + 56) d s
          { s with recCache := s.recCache.map (fun (x : (Nat × Nat × Nat) × List Byte) => if x.1 == (c.ctx, 0, c.q.shape) then (x.1, x.2.take 56 ++ d) else x) }
        else s
      .next (copyEnd s c)

/-- COPY_FAIL (R164): undelivered tile bytes are poisoned, every byte arrives, and the copy ends on its tile. -/
def execCopyFail (id : Nat) (s : State) : Out :=
  match s.copies.find id with
  | none => .next s
  | some c =>
    if c.status ≠ 4 ∨ c.waits ≠ 0 ∨ copyBarWaits s c then .next s
    else
      let z := shapeOf c.img c.q.base
      let w := s.wg c.wg
      let t := s.tile w c.q.tile
      let left := z.total - c.at_
      let s := if z.dkind then
          s.updCore w.core (fun k => { k with spadPsn := (List.range left).foldl (fun m i =>
            let o := w.tileByte t + (z.dstAt (c.at_ + i)).toNat
            (m.ins (o / 64) ()).ins ((o + z.esz - 1) / 64) ()) k.spadPsn })
        else s
      .next (copyEnd s { c with owed := c.owed + left * z.esz, psn := c.psn || z.dkind })

/-- TRESUME (R179): copies of the tile saved by pre-emption run again. -/
def execTresume (t : BitVec 8) (s : State) : Out :=
  tileOp (.tresume t) t.toNat 0 (fun c _ =>
    { s := State.notePaused { c.s with copies := c.s.copies.map (fun (x : Nat × Copy) =>
        if x.2.wg == c.p.wg && x.2.q.tile == t.toNat && x.2.status == 2 && x.2.cause == 2 then (x.1, { x.2 with status := 0 }) else x) } c.p.wg t.toNat }) s

end Sys2Proof.Machine
end

