-- ==== Sys2Proof/Machine/Remote.lean ====
section
/-! DEFINITION. The fabric (R315 to R332): ATOMR and remote RED at the requester, FENCE.tc, ingress at the target, responses, loss of a peer, ports, grant
tokens, control-space requests and the buddy's mirror. -/

namespace Sys2Proof.Machine

/-! ## Combining and rebuilding (R329, R331) -/

/-- OPs whose lanes on one location are combined into one request. -/
def combines (op : Nat) : Bool := decide (op ≤ 8) || op == 13

def opWidth (w64 : Bool) : Nat := if w64 then 64 else 32

/-- What a group sends. -/
def groupVals (op : Nat) (w64 : Bool) : List Nat → List DWord
  | [] => []
  | v :: vs =>
    if op = 13 then (v :: vs).map (BitVec.ofNat 64)
    else if !combines op then [BitVec.ofNat 64 v]
    else [BitVec.ofNat 64 (vs.foldl (fun a x => (atomicOp (if op = 1 then 0 else op) (opWidth w64) a x 0).1) v)]

/-- What the lanes of a group read, in lane order: the value and its poison mark. -/
def groupPre (op : Nat) (w64 : Bool) (old : Nat) (psn : Bool) : List (Nat × Bool) → List (Nat × Bool)
  | [] => []
  | (v, q) :: r => (old, psn) :: groupPre op w64 (atomicOp op (opWidth w64) old v 0).1 (psn || q) r

/-- The new value at the target (R329, R330), and whether it is written. -/
def targetVal (op : Nat) (w64 : Bool) (old : Nat) (vals : List Nat) (cmp : Nat) : Nat × Bool :=
  if op = 13 then (vals.foldl (fun a v => (atomicOp 13 32 a v 0).1) old, true)
  else atomicOp op (opWidth w64) old (vals.headD 0) cmp

/-! ## Issue -/

/-- A lane's remote address: package and offset. -/
def remoteOf (c : Ctx) (a : VReg) (l : Nat) : Option (Nat × Nat) :=
  let va := (c.rv2 a l).toNat
  if remoteVa c.s.pkgId va then some (bits va 54 44, va % 2 ^ 44) else none

/-- The checks of a remote lane: bounds, alignment, and for ATOMR the loss of the peer; then its token (R325, R328). -/
def remoteLane (c : Ctx) (l n : Nat) (lossTraps : Bool) (va pk off : Nat) (s : State) : State × LaneGot :=
  let trap := fun (k d : Nat) => LaneGot.trap { l := l, code := k, detail := d, va := BitVec.ofNat 64 va }
  if off + n > 2 ^ 44 then (s, trap tACCESS 0)
  else if off % n ≠ 0 then (s, trap tMISALIGN 0)
  else if lossTraps && s.isLost pk then (s, trap tACCESS 4)
  else match tokenFor s c.p.ctx pk off 2 with
    | (s, .ok _) => (s, .go [])
    | (s, .trap k d) => (s, trap k d)
    | (s, .fault img) => (s, .fault { img with core := c.u.core, pack := c.u.slot })

/-- Requests of one instruction: its remote lanes by location, in ascending lane order; uncombined lanes stand alone (R329, R330). -/
def remoteGroups (op : Nat) (xs : List (Nat × Nat × Nat)) : List (Nat × Nat × List Nat) :=
  if combines op then
    ((xs.map (fun x => x.2)).reverse.dedup.reverse).map (fun k => (k.1, k.2, (xs.filter (fun x => x.2 == k)).map Prod.fst))
  else xs.map (fun x => (x.2.1, x.2.2, [x.1]))

/-- Count discarded or refused REDs (R320). -/
def State.countRedFail (s : State) : State := s.setReg 0x401018 (satAdd 32 (bits (s.reg 0x401018) 31 0) 1)

/-- Send one group's request; a RED to a lost package is discarded (R319). -/
def sendGroup (c : Ctx) (op : Nat) (w64 : Bool) (d : Option VReg) (sm : Nat) (ins : List AtomIn) (tok : Nat) (s : State) (g : Nat × Nat × List Nat) : State :=
  let xs := ins.filter (fun x => g.2.2.contains x.l)
  let cmp := (xs.map AtomIn.c).headD 0
  let psns := xs.map AtomIn.psn
  let vals := xs.map AtomIn.v
  match d with
  | none => if s.isLost g.1 then s.countRedFail
    else match tokenFor s c.p.ctx g.1 g.2.1 2 with
    | (s, .ok tk) => s.sendReq g.1 c.p.ctx tk (.atom g.2.1 op w64 (groupVals op w64 vals) (BitVec.ofNat 64 cmp) (psns.any id) true)
        (.red c.u.core c.u.slot c.p.wg (c.s.wg c.p.wg).uid)
    | (s, _) => s
  | some d => match tokenFor s c.p.ctx g.1 g.2.1 2 with
    | (s, .ok tk) => s.sendReq g.1 c.p.ctx tk (.atom g.2.1 op w64 (groupVals op w64 vals) (BitVec.ofNat 64 cmp) (psns.any id) false)
        (.atomr c.u.core c.u.slot tok c.u.depth d.toNat w64 op (xs.map AtomIn.l) (vals.map (BitVec.ofNat 64)) psns sm
          (mkTrap c.s c.u { l := 0, code := tACCESS } 0 0))
    | (s, _) => s

/-- Has the pack an ATOMR or RED at another package that has not been answered? -/
def remotesOut (s : State) (core slot : Nat) (p : Pack) : Bool :=
  s.remotes.any (fun x => match x.2.who with
    | .atomr k sl tok _ _ _ _ _ _ _ _ _ => k == core && sl == slot && p.toks.any (fun t => t.id == tok)
    | .red k sl wg _ => k == core && sl == slot && wg == p.wg
    | _ => false)

/-- ATOMR, or RED at scope `dom`: a release waits for the pack's earlier remote requests (R331, R351); local lanes as ATOM, remote lanes through the fabric (R295, R328 to R332). -/
def remoteBody (c : Ctx) (dst : Option VReg) (a b cc : VReg) (sm hint width scope order k : Nat) : Res :=
  let w64 := width == 1
  let n := if w64 then 8 else 4
  let v := c.via 2 (if dst.isSome then { r := true, w := true } else needW)
  let addr := addrVa c a 0
  let acc := fun (l : Nat) (s : State) =>
    let va := (c.rv2 a l).toNat
    if dst.isSome && bits va 63 56 != 0x40 then (s, LaneGot.trap { l := l, code := tACCESS, va := c.rv2 a l })
    else match remoteOf c a l with
      | some (pk, off) => remoteLane c l n dst.isSome va pk off s
      | none => laneAccess c v l (addr l) 0 n n n true true s
  let g := gather c (atomPre c a b cc w64 k addr) acc
  if (order = 2 ∨ order = 3) ∧ (c.p.owes c.ig ∨ remotesOut c.s c.u.core c.u.slot c.p) then { s := c.s, stall := some 7 }
  else
    let ins := atomIns c b cc w64 k (gotPlaces g.2)
    let (rem, loc) := ins.partition (fun x => (remoteOf c a x.l).isSome)
    let s := if order = 2 ∨ order = 3 then g.1.releaseAt c.u.core scope else g.1
    let (s, outs) := atomSteps c.u.core c.p.ctx v.node k (8 * n) hint loc s
    let s := match dst with
      | some d => atomWrite c d sm w64 k loc outs s
      | none => s
    let gs := remoteGroups k (rem.filterMap (fun x => (remoteOf c a x.l).map (fun r => (x.l, r.1, r.2))))
    let s := if gs.isEmpty then s else s.commitNode v.node
    let tok := s.nextId + gs.length
    let s := gs.foldl (sendGroup c k w64 dst sm rem tok) s
    { s := s, traps := gotTraps g.2 ++ (outs.filter AtomOut.trap).map (fun o => { l := o.l, code := tPOISON }),
      faults := gotFaults g.2, kind := if dst.isSome && !gs.isEmpty then 6 else 1, pend := gotWaits g.2, tight := order = 1 ∨ order = 3 }

/-- ATOMR (R328 to R331). -/
def execAtomr (d a b : VReg) (la : BitVec 4) (sm : BitVec 3) (hint : BitVec 2) (cc : VReg) (width : BitVec 2) (scope : BitVec 3) (order : BitVec 2)
    (k : BitVec 4) (s : State) : Out :=
  let i := Instr.atomr d a b la sm hint cc width scope order k
  runUnit i (instrUses i) (fun c => remoteBody c (some d) a b cc sm.toNat hint.toNat width.toNat scope.toNat order.toNat k.toNat) s

/-- RED (R295, R332). -/
def execRed (d a b : VReg) (la : BitVec 4) (sm : BitVec 3) (hint : BitVec 2) (cc : VReg) (width : BitVec 2) (scope : BitVec 3) (order : BitVec 2)
    (k : BitVec 4) (s : State) : Out :=
  let i := Instr.red d a b la sm hint cc width scope order k
  runUnit i (instrUses i) (fun c =>
    if scope = 4 then remoteBody c none a b cc sm.toNat hint.toNat width.toNat scope.toNat order.toNat k.toNat
    else atomBody c none a b cc sm.toNat hint.toNat width.toNat scope.toNat order.toNat k.toNat) s

/-! ## FENCE.tc (R312) -/

/-- Does a TCOPY that is not accepted yet have a memory side in tensor space? Its record is looked at as its acceptance would read it. -/
def tcopyTensor (s : State) (ctx : Nat) (q : TcopyReq) : Bool :=
  match (recordRead s ctx 0 q.shape (s.ctxReg ctx 0x20 + 64 * q.shape) 64 4).2 with
  | .ok img => tensorVa (shapeOf img q.base).memBase
  | _ => true

/-- Transfers of a pack in tensor space that have not ended. -/
def packTransfers (s : State) (core slot : Nat) (p : Pack) : Bool :=
  p.tcq.any (tcopyTensor s p.ctx) || !p.collq.isEmpty ||
  s.copies.any (fun x => x.2.core == core && x.2.slot == slot && x.2.wg == p.wg && tensorVa (shapeOf x.2.img x.2.q.base).memBase) ||
  s.colls.any (fun x => x.2.core == core && x.2.slot == slot && x.2.wg == p.wg) ||
  remotesOut s core slot p

/-- FENCE.tc: the group issues nothing further until they have. -/
def execFenceTc (scope : BitVec 3) (s : State) : Out :=
  runUnit (.fenceTc scope) (instrUses (.fenceTc scope)) (fun c =>
    if packTransfers c.s c.u.core c.u.slot c.p then { s := c.s, stall := some 7 } else { s := c.s.releaseAt c.u.core scope.toNat }) s

/-! ## Ingress at the target (R323, R324) -/

/-- The MAC bytes of a token (R321). -/
def tokenMac (gen fields pkg ctx : Nat) : Word := Config.cmac gen (leBytes 4 fields ++ leBytes 2 pkg ++ leBytes 1 ctx ++ [0])

/-- A range table entry, none where it is not valid (R323). -/
def rangeEntry (s : State) (i : Nat) : State × Option Nat :=
  let pa := bits (s.reg 0x402000) 51 12 * 4096 + 32 * i
  let s := s.touch {} pa 32
  let v := s.readNat {} pa 32
  let resv := bits v 11 5 != 0 || bits v 63 44 != 0 || bits v 127 91 != 0 || bits v 191 167 != 0 || bits v 255 197 != 0
  (s, if bit v 0 && !resv && decide (bits v 166 128 + 4096 * bits v 90 64 ≤ 480 * 2 ^ 30) then some v else none)

/-- The checks of R324 on n bytes at an offset (none: bounds are not known); `need` is the right's bit (0 RD, 1 WR, 2 AT, 3 CL): the physical address and key, or the reason. -/
def ingressCheck (s : State) (pkg ctx : Nat) (token : DWord) (need : Nat) (off : Option Nat) (n : Nat) : State × Except Nat (Nat × Nat) :=
  let t := token.toNat
  let i := t % 2 ^ 16
  if i ≥ bits (s.reg 0x402008) 16 0 then (s, .error 1)
  else match rangeEntry s i with
    | (s, none) => (s, .error 1)
    | (s, some v) =>
      let left := (bits t 31 20 + 4096 - s.coarse) % 4096
      let lo := bits v 43 12 * 4096
      if tokenMac s.tokenKey (t % 2 ^ 32) pkg ctx ≠ BitVec.ofNat 32 (t / 2 ^ 32) then (s, .error 2)
      else if !(decide (1 ≤ left) && decide (left ≤ 2047)) then (s, .error 3)
      else if !(bit t (16 + need) && bit v (1 + need)) then (s, .error 4)
      else match off with
        | none => (s, .ok (0, 0))
        | some off =>
          if off < lo ∨ lo + 4096 * bits v 90 64 < off + n then (s, .error 5)
          else (s, .ok (bits v 166 128 + (off - lo), bits v 196 192))

/-- A refusal (R320, R324). -/
def State.refuse (s : State) (port reason : Nat) : State :=
  (s.setReg 0x401010 (satAdd 32 (bits (s.reg 0x401010) 31 0) 1 + reason * 2 ^ 32)).countPort port 6 1

/-- A request refused with GONE counts too (R315, R319, R320); it has none of the reasons of R324, so LAST stays (log 42). -/
def State.refuseGone (s : State) : State := s.setReg 0x401010 (setBits (s.reg 0x401010) 31 0 (satAdd 32 (bits (s.reg 0x401010) 31 0) 1))

/-- The right a request needs and the bytes it touches (R321, R326). -/
def reqNeed : ReqKind → Nat × Nat
  | .read _ n => (0, n)
  | .write _ bs _ => (1, bs.length)
  | .reduce _ _ _ bs _ => (2, bs.length)
  | .atom _ _ w64 _ _ _ _ => (2, if w64 then 8 else 4)
  | .chunk _ => (3, 0)

/-- Perform an admitted request of a package at its home; an atomic counts there (R138). -/
def performReq (s : State) (pkg : Nat) (k : ReqKind) (pa key : Nat) : State × RemoteResp :=
  let a : Acc := { key := key }
  match k with
  | .read _ n =>
    let s := s.touch a pa n
    (s, .data (s.readBytes a pa n) ((List.range n).any (fun i => s.psnAt a (pa + i))))
  | .write _ bs psn => (s.writeBytes a pa bs psn, .ack)
  | .reduce _ et op bs psn =>
    let s := ((s.dirCount (2000 + pkg) pa).touch a pa bs.length).countSlice (channelOf (s.hbmAddr pa)) 5 1
    (s.writeBytes a pa (leBytes bs.length (reduceOp et op (s.readNat a pa bs.length) (leNat bs))) psn, .ack)
  | .atom _ op w64 vals cmp psn _ =>
    let n := if w64 then 8 else 4
    let s := ((s.dirCount (2000 + pkg) pa).touch a pa n).countSlice (channelOf (s.hbmAddr pa)) 5 1
    let old := s.readNat a pa n
    let bad := s.psnAt a pa
    if op = 12 && bad then (s, .old (BitVec.ofNat 64 old) true false)
    else
      let (new, ok) := targetVal op w64 old (vals.map BitVec.toNat) cmp.toNat
      (if ok || psn then s.writeBytes a pa (leBytes n (if ok then new else old)) psn else s, .old (BitVec.ofNat 64 old) bad ok)
  | .chunk _ => (s, .ack)

/-- The number under which the answer to a request is remembered: by channel, package and sequence number (R318); a control request counts for the home it
names, which it keeps when it is sent again to the buddy (R356). -/
def answerKey (vc pkg seq : Nat) : Nat := (2048 * vc + pkg) * 2 ^ 64 + seq
def ctlVc (pa : Nat) : Nat := 16 + homePkg pa

/-- Answer a request and remember the answer (R318). -/
def State.respond (s : State) (vc pkg seq : Nat) (a : RemoteResp) : State :=
  { s with performed := s.performed.ins (answerKey vc pkg seq) a }.send (.response pkg seq a)

/-- REMOTE_REQUEST_INGRESS (R318, R319, R324). -/
def execRemoteRequestIngress (r : RemoteReq) (s : State) : Out :=
  match r.kind with
  | .chunk _ => .next s
  | _ =>
    if s.isLost r.pkg then .next (s.refuseGone.send (.response r.pkg r.seq .gone))
    else match s.performed.find (answerKey 1 r.pkg r.seq) with
    | some a => .next (s.send (.response r.pkg r.seq a))
    | none =>
      match ingressCheck s r.pkg r.ctx r.token (reqNeed r.kind).1 (reqOff r.kind) (reqNeed r.kind).2 with
      | (s, .error e) => .next ((s.refuse r.plane e).respond 1 r.pkg r.seq .token)
      | (s, .ok (pa, key)) => let x := performReq s r.pkg r.kind pa key; .next (x.1.respond 1 r.pkg r.seq x.2)

/-! ## Responses at the requester -/

/-- Write a lane's registers in the frame its instruction named. -/
def Pack.writeAt (p : Pack) (hlvl : Bool) (depth d l now : Nat) (cells : List VCell) : Pack :=
  let w := fun (f : Frame) => { (cells.zipIdx.foldl (fun f c => f.setCell (d + c.2) l c.1) f) with touched := now }
  if hlvl then { p with trapFrame := p.trapFrame.map (fun t => (w t.1, t.2)) }
  else { p with frames := p.frames.modify depth w }

/-- A token none of whose requests is outstanding is complete. -/
def State.endAtomr (s : State) (core slot tok : Nat) : State :=
  if s.atomrOut tok then s else s.updPack core slot (fun p => { p with toks := p.toks.filter (fun t => t.id != tok || t.pend.isSome) })

/-- The reply of a group of an ATOMR (R329 to R331). -/
def atomrAnswer (s : State) (core slot tok depth d : Nat) (w64 : Bool) (op : Nat) (lanes : List Nat) (vals : List DWord) (psns : List Bool) (sm : Nat) (tr : Trap)
    (a : RemoteResp) : State :=
  let p := s.pack core slot
  if !(p.toks.any (fun t => t.id == tok)) then s
  else
    let tr := { tr with lanes := laneMask lanes, cycle := BitVec.ofNat 64 s.cycle }
    let s := match a with
      | .old v psn ok =>
        if op = 12 && psn then s.raise core slot { tr with code := tPOISON }
        else
          let pre := if combines op then groupPre op w64 v.toNat psn ((vals.map BitVec.toNat).zip psns) else [(v.toNat, psn)]
          let n := if w64 then 8 else 4
          let (s, bs) := packMirror s core slot (laneMask lanes) (pre.flatMap (fun (x : Nat × Bool) => leBytes n x.1))
          let paired := (s.lrecOf p).paired
          let s := s.updPack core slot (fun p => (lanes.zip pre).zipIdx.foldl (fun (p : Pack) (x : (Nat × Nat × Bool) × Nat) =>
            let cells := oldCells w64 (leNat ((bs.drop (n * x.2)).take n)) x.1.2.2
            let p := p.writeAt tr.hlvl depth d x.1.1 s.ownSteps cells
            if paired then p.writeAt tr.hlvl depth d (x.1.1 + 16) s.ownSteps cells else p) p)
          if op = 12 then s.updPack core slot (fun p => p.setM sm (laneMask lanes) (if ok then laneMask lanes else 0)) else s
      | .token => s.raise core slot { tr with detail := 3 }
      | .gone => s.raise core slot { tr with detail := 4 }
      | _ => s
    s.endAtomr core slot tok

/-- The reply of an element of a copy (R326, R327). -/
def copyAnswer (s : State) (id target : Nat) (req : ReqKind) (a : RemoteResp) : State :=
  match s.copies.find id with
  | none => s
  | some _ =>
    let s := { s with copies := s.copies.upd id (fun c => { c with waits := c.waits - 1 }) }
    let s := match a with
      | .token => s.copyDrop id target 4
      | .gone => s.copyDrop id target 3
      | _ => s
    match s.copies.find id with
    | none => s
    | some c =>
      let z := shapeOf c.img c.q.base
      let w := s.wg c.wg
      if c.waits ≠ 0 ∨ c.status = 4 then s
      else
        match a, req with
        | .data bs psn, _ =>
          let (s, bs) := mirrorRead s w.uid w.idx ((s.pack c.core c.slot).pkid) true c.q.tok 0 bs
          let s := s.writePlaces w.uid (tilePlaces w (s.tile w c.q.tile) (z.dstAt c.at_) z.esz) bs psn
          (s.setCopy (c.delivered z bs psn)).count c.core 15 c.ctx z.esz
        | _, .write _ bs psn => (s.setCopy (c.delivered z bs psn)).count c.core 15 c.ctx z.esz
        | _, .reduce _ _ _ bs psn => (s.setCopy (c.delivered z bs psn)).count c.core 15 c.ctx z.esz
        | _, _ => s

/-- Does an answer fit its request? -/
def respFits (k : ReqKind) (a : RemoteResp) : Bool :=
  match k, a with
  | _, .token => true
  | _, .gone => true
  | .read _ n, .data bs _ => bs.length == n
  | .write _ _ _, .ack => true
  | .reduce _ _ _ _ _, .ack => true
  | .atom _ _ _ _ _ _ _, .old _ _ _ => true
  | .chunk _, .ack => true
  | _, _ => false

/-- The plane that R316 chooses now for a request that is sent. -/
def State.planeAgain (s : State) (r : Remote) : Nat :=
  match r.who with
  | .copy id pos => match s.copies.find id with
    | some c => s.copyPlane (shapeOf c.img c.q.base) pos r.target
    | none => s.planeFor r.target r.req.kind
  | _ => s.planeFor r.target r.req.kind

/-- A request goes out on the plane that R316 chooses now, or waits while no port is up (R317). -/
def State.launchReq (s : State) (id : Nat) (again : Bool) : State :=
  match s.remotes.find id with
  | none => s
  | some r =>
    let q := { r.req with plane := s.planeAgain r }
    let up := s.planeUp q.plane
    let s := { s with remotes := s.remotes.upd id (fun r => { r with req := q, held := false, noPort := !up, resent := r.resent || again, sentAt := s.cycle }) }
    if up then s.send (.request r.target q) else s

/-- Who waits for a request takes its answer. -/
def State.deliver (s : State) (r : Remote) (a : RemoteResp) : State :=
  match r.who with
  | .atomr c sl tok dp d w64 op ls vs ps sm tr => atomrAnswer s c sl tok dp d w64 op ls vs ps sm tr a
  | .red _ _ _ _ => match a with
    | .token => s.countRedFail
    | .gone => s.countRedFail
    | _ => s
  | .copy cid _ => copyAnswer s cid r.target r.req.kind a
  | .coll cid =>
    let cause := match a with | .token => 4 | .gone => 3 | _ => 0
    if cause = 0 then s else { s with colls := s.colls.upd cid (fun c => { c with causes := c.causes ||| 2 ^ cause }) }

/-- A request is answered: it leaves, what it held back goes (R318), and who waits takes the answer. -/
def State.answer (s : State) (id : Nat) (a : RemoteResp) : State :=
  match s.remotes.find id with
  | none => s
  | some r =>
    let s := { s with remotes := s.remotes.del id, portFails := s.portFails.del r.req.plane }
    let still := s.remotes.any (fun x => x.2.resent && sameLine r.target r.req.kind x.2)
    let go := if still then [] else s.remotes.filter (fun x => x.2.held && sameLine r.target r.req.kind x.2)
    (go.foldl (fun s x => s.launchReq x.1 false) s).deliver r a

/-- REMOTE_RESPONSE (R319, R329): one from a lost package is discarded. -/
def execRemoteResponse (id : Nat) (a : RemoteResp) (s : State) : Out :=
  match s.remotes.find id with
  | none => .next s
  | some r => .next (if s.isLost r.target || r.held || r.noPort || !respFits r.req.kind a then s else s.answer id a)

/-! ## Control space from outside the packs (R97, R355, R356) -/

/-- The agent of a control request: a supervisor core is served by its core's L1, host cores and peers by caches that the directory notes (R135, R138). -/
def ctlAcc : CtlSrc → Acc
  | .peer n _ => { out := some (2000 + n) }
  | .host h => { out := some (1000 + h) }
  | .sup c => { core := some c }

/-- Perform one access; answers the bytes that go back. An atomic of a supervisor core is placed as its core's are, any other runs at the home (R138). -/
def ctlPerform (s : State) (r : CtlReq) : State × List Byte :=
  let a := ctlAcc r.src
  match r.op with
  | .load n => let s := s.touch a r.pa n; (s, s.readBytes a r.pa n)
  | .store bs => (s.writeBytes a r.pa bs false, [])
  | .amo op w64 v c =>
    let n := if w64 then 8 else 4
    let (s, a) := match r.src with
      | .sup k => let x := s.placement k 0 a r.pa; (x.1, if x.2 then a else {})
      | .host h => (s.dirCount (1000 + h) r.pa, {})
      | .peer p _ => (s.dirCount (2000 + p) r.pa, {})
    let s := s.touch a r.pa n
    let old := s.readNat a r.pa n
    let (new, ok) := atomicOp op (8 * n) old v.toNat c.toNat
    (if ok then s.writeBytes a r.pa (leBytes n new) false else s, leBytes n old)

/-- Lines that a request names. -/
def ctlLines (r : CtlReq) : List Nat :=
  linesOf r.pa (match r.op with | .load n => n | .store bs => bs.length | .amo _ w64 _ _ => if w64 then 8 else 4)

/-- Does a write of this package's home that the buddy does not hold yet hold the request back (R356)? Inside the package it is visible. -/
def State.ctlWaits (s : State) (r : CtlReq) : Bool :=
  match r.src with
  | .peer _ _ => (ctlLines r).any (fun x => s.mirrorPend.contains x)
  | _ => false

/-- One access, its answer, and for another package's request what makes it at most one (R356): the answer is kept, here and at the buddy. -/
def ctlServe (s : State) (r : CtlReq) : State :=
  let (s, bs) := ctlPerform s r
  let s := s.send (.ctlData r.src r.pa bs)
  match r.src with
  | .peer p n =>
    let a := RemoteResp.data bs false
    let s := { s with performed := s.performed.ins (answerKey (ctlVc r.pa) p n) a }
    if s.mirrored r.pa then s.send (.mirrorDid (buddy s.pkgId) p n a) else s
  | _ => s

/-- Requests that waited for the buddy are served, in their order. -/
def State.serveHeld (s : State) : State :=
  s.ctlHeld.foldl (fun s r => if s.ctlWaits r then s else ctlServe { s with ctlHeld := s.ctlHeld.erase r } r) s

/-- May the agent name the address (R97, R397)? Host cores also reach the tensor range. -/
def ctlReaches (r : CtlReq) : Bool :=
  paOk r.pa && (paClass r.pa == 8 || (paClass r.pa == 0 && (match r.src with | .host _ => true | _ => false)))

/-- CONTROL_REQUEST: one access at a line's home; data go back to who asked. One that no home serves has no effect; one of a lost package is refused (R319),
and one performed before is only answered again (R356). -/
def execControlRequest (r : CtlReq) (s : State) : Out :=
  if !ctlReaches r || s.homeLost r.pa then .next s
  else match r.src with
  | .peer p n =>
    if s.isLost p then .next (s.refuseGone.send (.response p n .gone))
    else match s.performed.find (answerKey (ctlVc r.pa) p n) with
      | some (.data bs _) => .next (s.send (.ctlData r.src r.pa bs))
      | _ => if s.ctlWaits r then .next (if s.ctlHeld.contains r then s else { s with ctlHeld := s.ctlHeld ++ [r] }) else .next (ctlServe s r)
  | _ => .next (ctlServe s r)

/-- MIRROR_UPDATE (R356): bytes of the buddy's home are held here; the buddy holds the oldest write of this home that it was sent; the buddy's home has performed a
request (these two bring no bytes). What a lost buddy sent has no effect (R319). -/
def execMirrorUpdate (m : MirrorMsg) (bytes : List Byte) (s : State) : Out :=
  match m with
  | .hold off =>
    if s.isLost (buddy s.pkgId) then .next s
    else
      let pa := 2 ^ 51 + buddy s.pkgId * 2 ^ 34 + off
      let s := (linesOf pa bytes.length).foldl (fun s x => s.ownLine {} x) s
      .next (bytes.zipIdx.foldl (fun s b => s.setRaw (pa + b.2) b.1) s)
  | .held => .next (State.serveHeld { s with mirrorPend := s.mirrorPend.tail })
  | .did p n a =>
    if s.isLost (buddy s.pkgId) then .next s else .next { s with performed := s.performed.ins (answerKey (16 + buddy s.pkgId) p n) a }

/-! ## Loss of a peer (R319, R320) -/

/-- Declare a peer lost: a notice on every up plane, an event for every pack (R395); its outstanding requests end GONE, and none that waits behind them is sent;
its buddy's home stays without a mirror (R99). -/
def State.declareLost (s : State) (n : Nat) : State :=
  if n = s.pkgId ∨ s.lost.has n then s
  else
    let s := { s with lost := s.lost.ins n () }
    let s := ((List.range 36).filter s.planeUp).foldl (fun s p => (s.send (.lossNotice p n)).countPort p 8 1) s
    let s := { s with packs := s.packs.map (fun (p : Nat × Pack) => (p.1, p.2.post 7)) }
    let s := if s.isLost (buddy n) then s else { s with unmirrored := s.unmirrored.ins (buddy n) () }
    let s := if n = buddy s.pkgId then State.serveHeld { s with mirrorPend := [] } else s
    let out := s.remotes.filter (fun x => x.2.target == n)
    out.foldl (fun s x => s.deliver x.2 .gone) { s with remotes := s.remotes.filter (fun x => x.2.target != n) }

/-- LOSS_NOTICE (R319). -/
def execLossNotice (n : Nat) (s : State) : Out := .next (s.declareLost n)

/-- The next up plane after one, or itself (R319). -/
def State.nextPlane (s : State) (p : Nat) : Nat := (((List.range 35).map (fun i => (p + 1 + i) % 36)).find? s.planeUp).getD p

/-- FAB_LOSS_TO (R319): the first time the request goes out again on the next up plane, the second time the peer is lost. -/
def execFabLossTo (id : Nat) (s : State) : Out :=
  match s.remotes.find id with
  | none => .next s
  | some r =>
    let lim := bits (s.reg 0x401000) 31 0
    if lim = 0 ∨ r.held ∨ r.noPort ∨ s.cycle < r.sentAt + lim then .next s
    else if r.tries ≥ 2 then .next (s.declareLost r.target)
    else
      let q := { r.req with plane := s.nextPlane r.req.plane }
      let up := s.planeUp q.plane
      let s := { s with remotes := s.remotes.upd id (fun r => { r with req := q, resent := true, noPort := !up, sentAt := s.cycle, tries := 2 }) }
      .next (if up then s.send (.request r.target q) else s)

/-- PEER_CLR (R320): the lost state goes at once, so GO reads 0 again. -/
def execPeerClr (v : DWord) (s : State) : Out :=
  let s := s.setReg 0x401008 (bits v.toNat 10 0)
  .next (if bit v.toNat 63 then { s with lost := s.lost.del (bits v.toNat 10 0) } else s)

/-! ## Ports (R317, R318, R431) -/

/-- A port goes down: requests in flight on it go out again in their order, on the planes that R316 chooses now (R318). -/
def State.portDown (s : State) (p : Nat) : State :=
  let s := s.setReg (portReg p) (setBits (s.reg (portReg p)) 1 0 0)
  (s.remotes.filter (fun x => x.2.req.plane == p && !x.2.held && !x.2.noPort)).foldl (fun s x => s.launchReq x.1 true) s

/-- LINK_CRC_ERROR (R317, R414, R431): a failed flit is sent again; the 16th resend in a row that fails takes the port down to retrain. -/
def execLinkCrcError (port : Nat) (s : State) : Out :=
  if port ≥ 36 ∨ !s.planeUp port then .next s
  else
    let f := (s.portFails.find port).getD 0
    if f < 16 then
      let v := s.reg (portReg port)
      let s := s.setReg (portReg port) (setBits v 31 16 (satAdd 16 (bits v 31 16) 1))
      let e := s.reg 0x700080
      let s := (s.setReg 0x700080 (setBits e 31 0 (satAdd 32 (bits e 31 0) 1))).countPort port 4 1
      .next { s with portFails := s.portFails.ins port (f + 1) }
    else
      let s := (s.countUE 8 port 0).portDown port
      .next { s with portFails := s.portFails.ins port 17 }

/-- PORT_TRAINED (R317, R431): up and keyed; one that was up before counts a retraining. Requests that waited for a port go. -/
def execPortTrained (port : Nat) (s : State) : Out :=
  if port ≥ 36 ∨ s.planeUp port ∨ bit (s.reg (portReg port)) 32 then .next s
  else
    let v := setBits (s.reg (portReg port)) 1 0 3
    let v := if s.portFails.find port = some 17 then setBits v 15 8 (satAdd 8 (bits v 15 8) 1) else v
    let s := { (s.setReg (portReg port) v) with portFails := s.portFails.del port }
    .next ((s.remotes.filter (fun x => x.2.noPort)).foldl (fun s x => s.launchReq x.1 false) s)

/-- LINK_REKEY (R431): without loss of traffic; nothing that a program or a register shows changes. -/
def execLinkRekey (_port _vc : Nat) (s : State) : Out := .next s

/-- PORT_DISABLE (R317). -/
def execPortDisable (port : Nat) (b : Bool) (s : State) : Out :=
  if port ≥ 36 then .next s
  else
    let s' := s.setReg (portReg port) (setBits (s.reg (portReg port)) 32 32 (b2n b))
    .next (if b && s.planeUp port then { s'.portDown port with portFails := s'.portFails.ins port 17 } else s')

/-! ## Minting (R322) -/

/-- A write to MINT_REQ: with GO and ROLL a new token key first, then with GO the token. ROLL keeps what is written; GO reads 0 once the token is there
(log 57). -/
def mintWrite (v : Nat) (s : State) : State :=
  let s := s.setReg 0x402010 (bits v 31 0 + bits v 42 32 * 2 ^ 32 + bits v 53 48 * 2 ^ 48 + bits v 62 62 * 2 ^ 62)
  if bit v 63 then
    let s := if bit v 62 then { s with tokenKey := s.tokenKey + 1 } else s
    s.setReg 0x402018 (v % 2 ^ 32 + (tokenMac s.tokenKey (v % 2 ^ 32) (bits v 42 32) (bits v 53 48)).toNat * 2 ^ 32)
  else s

/-- MINT (R322). -/
def execMint (v : DWord) (s : State) : Out := .next (mintWrite v.toNat s)

/-- ROLL (R322). -/
def execRoll (v : DWord) (s : State) : Out := .next (mintWrite v.toNat s)

/-! ## Plane bandwidth (R344) -/

/-- PLANE_BW_WINDOW (R344). -/
def execPlaneBwWindow (credits : List Nat) (s : State) : Out :=
  .next { s with planeBw := (List.range 36).map (fun p => (p, credits.getD p 0)) }

end Sys2Proof.Machine
end

