-- ==== Sys2Proof/Machine/Collective.lean ====
section
/-! DEFINITION. Collectives (R333 to R344): COLL, its acceptance, the plane split, the steps of each chunk, time-outs, digests and the end. -/

namespace Sys2Proof.Machine

/-! ## The record (R334) -/

structure CRec where
  group : Nat
  rank : Nat
  kind : Nat
  et : Nat
  op : Nat
  even : Bool
  trap : Bool
  digmode : Nat
  digtrap : Bool
  count : Nat
  gx : Nat
  gy : Nat
  yn : Nat
  root : Nat
  xmask : Nat
  src : Nat
  dst : Nat
  stage : Nat
  digbase : Nat
  timeout : Nat
  resv : Bool
  deriving DecidableEq, Repr

/-- The record with sB in place of its source base (R333). -/
def crecOf (img : List Byte) (base : Option DWord) : CRec :=
  let v := leNat img
  let f := fun (hi lo : Nat) => bits v hi lo
  let src := match base with | some b => b.toNat | none => f 255 192
  { group := f 15 0, rank := f 26 16, kind := f 34 32, et := f 38 35, op := f 41 39, even := bit v 42, trap := bit v 43, digmode := f 45 44, digtrap := bit v 46,
    count := f 95 64, gx := f 101 96, gy := f 106 102, yn := f 111 107, root := f 122 112, xmask := f 191 128, src := src,
    dst := (match base with | some b => (b.toNat + f 319 256 + 2 ^ 64 - f 255 192) % 2 ^ 64 | none => f 319 256), stage := f 383 320, digbase := f 447 384,
    timeout := f 463 448,
    resv := f 31 27 != 0 || f 63 47 != 0 || f 127 123 != 0 || f 479 464 != 0 || f 1023 560 != 0 || f 4095 3072 != 0 }

def CRec.cols (q : CRec) : List Nat := (List.range 64).filter (fun i => bit q.xmask i)
def CRec.n (q : CRec) : Nat := q.cols.length * (q.yn + 1)
def CRec.esz (q : CRec) : Nat := etSize q.et
def CRec.b (q : CRec) : Nat := q.count * q.esz

/-- Is a VA in the local tensor range? -/
def localTensor (pkg va : Nat) : Bool := bits va 63 56 == 0x40 && !bit va 55 && bits va 54 44 == pkg

/-- The checks of R335 with detail RECORD. -/
def CRec.bad (q : CRec) (pkg : Nat) : Bool :=
  q.resv || decide (q.kind ≥ 4) || decide (q.et ≥ 9) || decide (q.op ≥ 4) || q.digmode == 3 || q.count == 0 ||
  (q.op == 0 && (q.kind == 0 || q.kind == 2)) || (q.op != 0 && (q.kind == 1 || q.kind == 3)) || (q.op != 0 && decide (q.et < 4)) ||
  (q.digmode != 0 && q.kind != 1) || decide (q.root ≥ q.n) || !localTensor pkg q.src || !localTensor pkg q.dst || !localTensor pkg q.stage

/-- The packages of the members in rank order, from the grid table (R335): none is GRID. -/
def collMembers (s : State) (ctx : Nat) (q : CRec) : State × Option (List Nat) × Option RecRes :=
  let pos := (List.range (q.yn + 1)).flatMap (fun j => q.cols.map (fun i => (q.gx + i, q.gy + j)))
  pos.foldl (fun r xy =>
    match r with
    | (s, some ps, none) =>
      if xy.1 ≥ 64 ∨ xy.2 ≥ 32 then (s, none, none)
      else match tableRead s ctx (s.ctxReg ctx 0x30 + 2 * (64 * xy.2 + xy.1)) 2 4 with
        | (s, .ok bs) =>
          let v := leNat bs
          if !bit v 15 || bits v 14 11 != 0 || ps.contains (v % 2048) then (s, none, none) else (s, some (ps ++ [v % 2048]), none)
        | (s, e) => (s, some ps, some e)
    | r => r) (s, some [], none)

/-! ## The work of one member -/

def Coll.q (c : Coll) : CRec := crecOf c.img c.base

/-- Chunks of one contribution or slice. -/
def CRec.nb (q : CRec) : Nat := ceilDiv' q.b 65536

/-- Chunks of the output that the split assigns (R337). -/
def CRec.splitLen (q : CRec) : Nat := if q.kind = 1 then q.n * q.nb else q.nb

/-- Chunk numbers of the work: one for each slice or segment where every rank has one. -/
def CRec.chunks (q : CRec) : Nat := if q.kind = 1 ∨ q.kind = 2 then q.n * q.nb else q.nb

def CRec.len (q : CRec) (idx : Nat) : Nat := min 65536 (q.b - idx % q.nb * 65536)

/-- The plane of a chunk. -/
def Coll.plane (c : Coll) (idx : Nat) : Nat := (c.split.getD []).getD (if c.q.kind = 2 then idx % c.q.nb else idx) 0

/-- The position of a rank on a plane, and back (R337). -/
def CRec.pos (q : CRec) (p r : Nat) : Nat := if q.kind = 3 then (r + q.n - q.root) % q.n else (r + p) % q.n
def CRec.rankAt (q : CRec) (p x : Nat) : Nat := if q.kind = 3 then (x + q.root) % q.n else (x + q.n - p % q.n) % q.n

/-- Children in the heap tree. -/
def CRec.kids (q : CRec) (x : Nat) : List Nat := [2 * x + 1, 2 * x + 2].filter (fun y => decide (y < q.n))

/-- Inputs of a step: whether it takes the member's own contribution, and the positions whose chunks it takes (R337, R338). -/
def Coll.inputs (c : Coll) (k : Nat) : Bool × List Nat :=
  let q := c.q
  let idx := k / 2
  let x := q.pos (c.plane idx) c.rank
  let prev := (x + q.n - 1) % q.n
  match q.kind, k % 2 with
  | 0, 0 => (true, q.kids x)
  | 0, _ => (false, [(x - 1) / 2])
  | 1, _ => if idx / q.nb = c.rank then (true, []) else (false, [prev])
  | 2, _ => if x = (q.pos (c.plane idx) (idx / q.nb) + 1) % q.n then (true, []) else (true, [prev])
  | _, _ => if x = 0 then (true, []) else (false, [(x - 1) / 2])

/-- Steps of the member: twice the chunk number, plus 1 on the way down. -/
def Coll.keys (c : Coll) : List Nat :=
  let q := c.q
  (List.range q.chunks).flatMap (fun i =>
    match q.kind with
    | 0 => if q.pos (c.plane i) c.rank = 0 then [2 * i] else [2 * i, 2 * i + 1]
    | 3 => [2 * i + 1]
    | _ => [2 * i])

def Coll.isStep (c : Coll) (k : Nat) : Bool := c.split.isSome && c.keys.contains k

/-- A step as it stands, or fresh (R339, R341). -/
def Coll.step (c : Coll) (k : Nat) : CollStep :=
  match c.steps.find k with
  | some x => x
  | none =>
    let i := c.inputs k
    { need := b2n i.1 + i.2.length, since := if i.1 then none else some c.since }

def Coll.setStep (c : Coll) (k : Nat) (x : CollStep) : Coll := { c with steps := c.steps.ins k x }

/-- Does a step reduce (R339)? -/
def Coll.reduces (c : Coll) (k : Nat) : Bool := let i := c.inputs k; decide (2 ≤ b2n i.1 + i.2.length)

/-- Where a step reads the contribution and writes the output, as offsets from SRC and DST (R336). -/
def Coll.srcOff (c : Coll) (k : Nat) : Nat :=
  let q := c.q
  let i := k / 2
  (if q.kind = 2 then i / q.nb * q.b else 0) + i % q.nb * 65536
def Coll.dstOff (c : Coll) (k : Nat) : Nat :=
  let q := c.q
  let i := k / 2
  (if q.kind = 1 then i / q.nb * q.b else 0) + i % q.nb * 65536

/-- Does the step write DST, and to which positions does it send, in which phase (R337)? -/
def Coll.outs (c : Coll) (k : Nat) : Bool × List Nat × Nat :=
  let q := c.q
  let idx := k / 2
  let x := q.pos (c.plane idx) c.rank
  let next := (x + 1) % q.n
  match q.kind, k % 2 with
  | 0, 0 => if x = 0 then (true, q.kids x, 1) else (false, [(x - 1) / 2], 0)
  | 0, _ => (true, q.kids x, 1)
  | 1, _ => (true, if next = q.pos (c.plane idx) (idx / q.nb) then [] else [next], 0)
  | 2, _ => if x = q.pos (c.plane idx) (idx / q.nb) then (true, [], 0) else (false, [next], 0)
  | _, _ => (true, q.kids x, 1)

/-- Positions of a subtree, level by level; the first argument bounds the depth. -/
def CRec.subtree (q : CRec) : Nat → Nat → List Nat
  | 0, x => [x]
  | f + 1, x => x :: (q.kids x).flatMap (fun y => q.subtree f y)

/-- The ranks whose data a missing input stood for (R341): its subtree on the way up, the root of a broadcast, what lies outside the own subtree on the way
down of an all-reduce, the slice's rank of an all-gather, the ring segment behind it of a reduce-scatter. -/
def Coll.lostRanks (c : Coll) (k x : Nat) : List Nat :=
  let q := c.q
  let idx := k / 2
  let p := c.plane idx
  let me := q.pos p c.rank
  match q.kind, k % 2 with
  | 0, 0 => (q.subtree 12 x).map (q.rankAt p)
  | 0, _ => ((List.range q.n).filter (fun y => !(q.subtree 12 me).contains y)).map (q.rankAt p)
  | 1, _ => [idx / q.nb]
  | 2, _ =>
    let st := (q.pos p (idx / q.nb) + 1) % q.n
    ((List.range q.n).filter (fun y => decide ((y + q.n - st) % q.n < (me + q.n - st) % q.n))).map (q.rankAt p)
  | _, _ => [q.root]

/-! ## CRC-32C (R340) -/

def crc32c (bs : List Byte) : Nat :=
  (bs.foldl (fun c b => (List.range 8).foldl (fun c _ => if c % 2 = 1 then (c / 2) ^^^ 0x82F63B78 else c / 2) (c ^^^ b.toNat)) 0xFFFFFFFF) ^^^ 0xFFFFFFFF

def Coll.crc (c : Coll) : Word :=
  let q := c.q
  BitVec.ofNat 32 (crc32c (leBytes 4 q.count ++ leBytes 4 (q.et + q.op * 2 ^ 8 + q.kind * 2 ^ 16) ++ leBytes 4 q.group ++ leBytes 4 c.seq.toNat))

/-! ## Memory of a collective -/

/-- A step of a collective is paused while a page request of it is open (R341). -/
def State.collPaused (s : State) (id : Nat) : Bool := (s.prq ++ s.prqHeld).any (fun q => q.coll == some id)

def State.updColl (s : State) (id : Nat) (f : Coll → Coll) : State := { s with colls := s.colls.upd id f }

/-- A status is met: bit n of the causes is status n. -/
def State.collCause (s : State) (id n : Nat) : State := s.updColl id (fun c => { c with causes := c.causes ||| 2 ^ n })

def State.collEndNow (s : State) (id n : Nat) : State := (s.collCause id n).updColl id (fun c => { c with ended := true })

/-- Places of a range of the local tensor space. -/
def collPlaces (s : State) (c : Coll) (va n : Nat) (wr : Bool) : State × PlRes :=
  transRange { wh := 10, ctx := c.ctx, core := none, node := (s.wg c.wg).uid, kind := if wr then 5 else 4, need := if wr then needW else needR } 1
    (n / 4096 + 2) va n s

/-- A fault on SRC or DST posts a page request and pauses; with no queue it counts as answered FAIL (R117, R341). -/
def State.collFault (s : State) (c : Coll) (img : FaultImg) : State :=
  let f := s.funcOf c.ctx
  if s.prqEnabled f then
    s.prqPost { func := f, img := { img with lanes := 0xFFFFFFFF, core := c.core, pack := c.slot }, coll := some c.id }
  else s.collEndNow c.id 5

/-- Read a slot of STAGE: bytes, and whether one is poisoned; a translation fault there ends the collective with FAULT. -/
def stageRead (s : State) (c : Coll) (slot n : Nat) : State × Option (List Byte × Bool) :=
  match collPlaces s c (c.q.stage + 65536 * slot) n false with
  | (s, .ok ps) => let (s, bs, ms) := s.readPlaces ps; (s, some (bs, ms.any (fun b => b)))
  | (s, _) => (s.collEndNow c.id 5, none)

/-- Write bytes at STAGE; a translation fault there ends the collective with FAULT. -/
def stageWrite (s : State) (c : Coll) (slot : Nat) (bs : List Byte) (psn : Bool) : State × Bool :=
  match collPlaces s c (c.q.stage + 65536 * slot) bs.length true with
  | (s, .ok ps) => (s.writePlaces 0 ps bs psn, true)
  | (s, _) => (s.collEndNow c.id 5, false)

/-- The barrier object of a collective. -/
def collBar (s : State) (c : Coll) : Option (Nat × Nat) := barAt s c.wg c.ctx c.bar

/-- Bytes written before arrive at the barrier object (R336), once its member has started (R129). -/
def collArrive (s : State) (c : Coll) : State :=
  if barWaits s c.wg c.ctx c.bar then s
  else
  let s := match collBar s c with
    | some (k, o) => arriveBytes k o (c.owed / 4096 + 1) c.owed s
    | none => s
  s.updColl c.id (fun c => { c with owed := 0 })

/-- The tokens of the members, by rank, from the collective token table, read at acceptance (R150, R335); none is needed for the member itself. -/
def collTokens (s : State) (ctx : Nat) (ms : List Nat) : State × List DWord × Option RecRes :=
  ms.foldl (fun r n =>
    match r with
    | (s, ts, none) =>
      if n = s.pkgId then (s, ts ++ [0], none)
      else match tableRead s ctx (s.ctxReg ctx 0x40 + 8 * n) 8 4 with
        | (s, .ok bs) => (s, ts ++ [BitVec.ofNat 64 (leNat bs)], none)
        | (s, e) => (s, ts, some e)
    | r => r) (s, [], none)

/-- Send a step's result to a position (R337, R340). A lost member is missing with GONE. -/
def collSend (id k : Nat) (bs : List Byte) (psn : Bool) (missing : List Nat) (phase : Nat) (s : State) (x : Nat) : State :=
  match s.colls.find id with
  | none => s
  | some c =>
    let q := c.q
    let p := c.plane (k / 2)
    let n := c.members.getD (q.rankAt p x) 0
    if s.isLost n then s.collCause id 3
    else
      let ch : Chunk := { src := c.rank, group := q.group, seq := c.seq, crc := c.crc, idx := k / 2, phase := phase, plane := p, bytes := bs, psn := psn, missing := missing }
      s.sendReq n c.ctx (c.toks.getD (q.rankAt p x) 0) (.chunk ch) (.coll id)

/-! ## Steps -/

/-- A step's operands in the order of R338: own, then the children in order; around the ring what came before, then own. Each is read from its slot of STAGE (R339),
and marked when it is poisoned; none when STAGE does not answer. -/
def collOperands (s : State) (c : Coll) (k : Nat) (x : CollStep) : State × Option (List (List Byte × Bool)) :=
  let own := match x.own with | some o => [o] | none => []
  let slots := (c.inputs k).2.filterMap (fun y => x.ins_.find y)
  match slots.foldl (fun (r : State × Option (List (List Byte × Bool))) i =>
      match r with
      | (s, some os) => match stageRead s c i (c.q.len (k / 2)) with
        | (s, some o) => (s, some (os ++ [o]))
        | (s, none) => (s, none)
      | r => r) (s, some []) with
  | (s, some ch) => (s, some (if c.q.kind = 2 then ch ++ own else own ++ ch))
  | r => r

/-- Element-wise reduction of byte strings (R163, R336). -/
def reduceBytes (et op esz : Nat) (a b : List Byte) : List Byte :=
  (List.range (a.length / esz)).flatMap (fun i =>
    leBytes esz (reduceOp et op (leNat ((a.drop (esz * i)).take esz)) (leNat ((b.drop (esz * i)).take esz))))

/-- The result of a step. With no operand at all the bytes never arrived: they are poisoned (R341). -/
def Coll.result (c : Coll) (k : Nat) : List (List Byte × Bool) → List Byte × Bool
  | [] => (List.replicate (c.q.len (k / 2)) 0, true)
  | o :: os => os.foldl (fun a b => (reduceBytes c.q.et c.q.op c.q.esz a.1 b.1, a.2 || b.2)) o

/-- A step whose counter is zero: its result goes to DST and on to its successors (R337, R339). A fault on DST leaves it to be done again. -/
def collFinish (s : State) (id k : Nat) : State :=
  match s.colls.find id with
  | none => s
  | some c =>
    let x := c.step k
    let (wr, dests, ph) := c.outs k
    match collOperands s c k x with
    | (s, none) => s
    | (s, some os) =>
    let (bs, psn) := c.result k os
    let go := fun (s : State) =>
      let s := s.updColl id (fun c => { (c.setStep k { x with done := true, ins_ := [] }) with map := (c.map ++ x.missing).dedup })
      dests.foldl (collSend id k bs psn x.missing ph) s
    if wr then
      match collPlaces s c (c.q.dst + c.dstOff k) bs.length true with
      | (s, .ok ps) =>
        let s := s.writePlaces (s.wg c.wg).uid ps bs psn
        let s := collArrive s c
        go (s.updColl id (fun c => { c with owed := bs.length }))
      | (s, .fault img) => s.collFault c img
      | (s, _) => s.collEndNow id 5
    else
      let i := match x.ins_ with | y :: _ => y.2 | [] => 0
      match stageWrite s c (4 * c.plane (k / 2) + i) bs psn with
      | (s, true) => go s
      | (s, false) => s

/-- A move needs no reduce block: the sequencer does it at once (R339). -/
def collAdvance (s : State) (id k : Nat) : State :=
  match s.colls.find id with
  | none => s
  | some c => if (c.step k).need = 0 && !(c.step k).done && !c.reduces k && !c.ended then collFinish s id k else s

/-- Slots of STAGE in use on a plane (R339): chunks that wait in steps not done. -/
def Coll.slotsUsed (c : Coll) (p : Nat) : List Nat :=
  c.steps.flatMap (fun x => if !x.2.done && c.plane (x.1 / 2) == p then x.2.ins_.map Prod.snd else [])

/-- What becomes of a chunk (R340). -/
inductive ChunkRes where
  | taken | held | dropped | mismatch
  deriving DecidableEq, Repr

/-- A chunk of the collective in progress with its SEQ and CRC: taken into a slot of STAGE, or held while no slot is free or the split is not there. -/
def collTake (s : State) (c : Coll) (ch : Chunk) : State × ChunkRes :=
  let k := 2 * ch.idx + ch.phase
  let x := c.step k
  let y := c.q.pos ch.plane ch.src
  if c.split.isNone then (s, .held)
  else if x.done || x.flushed then (s.updColl c.id (fun c => { c with strag := satAdd 32 c.strag 1 }), .dropped)
  else if !c.isStep k || !(c.inputs k).2.contains y || x.ins_.has y || ch.plane != c.plane ch.idx || ch.bytes.length != c.q.len ch.idx then (s, .dropped)
  else
    let used := c.slotsUsed ch.plane
    match (List.range 4).find? (fun i => !used.contains i) with
    | none => (s, .held)
    | some i =>
      match stageWrite s c (4 * ch.plane + i) ch.bytes ch.psn with
      | (s, false) => (s, .dropped)
      | (s, true) =>
        let x := { x with need := x.need - 1, ins_ := x.ins_.ins y i, missing := (x.missing ++ ch.missing).dedup }
        (collAdvance (s.updColl c.id (fun c => c.setStep k x)) c.id k, .taken)

/-- A chunk against the member's SEQ and CRC (R340). -/
def collJudge (s : State) (c : Coll) (ch : Chunk) : State × ChunkRes :=
  let d := (ch.seq - c.seq).toNat
  if d = 0 then
    if ch.crc ≠ c.crc then (s, .mismatch) else if c.ended then (s, .dropped) else collTake s c ch
  else if d < 2 ^ 31 then (s, .held)
  else (s.updColl c.id (fun c => { c with strag := satAdd 32 c.strag 1 }), .dropped)

/-- A mismatch: a notice to every member, and the collective ends (R340). -/
def collMismatch (s : State) (c : Coll) : State :=
  (c.members.filter (fun n => n != s.pkgId)).foldl (fun s n => s.send (.mismatch n c.q.group)) (s.collEndNow c.id 1)

def State.collOf (s : State) (group : Nat) : Option Coll := (s.colls.find? (fun x => x.2.q.group == group)).map Prod.snd

/-- Does a token's range cover the member's whole STAGE region (R335)? Else the reason of R324. -/
def stageCovered (s : State) (c : Coll) (token : DWord) : State × Option Nat :=
  match rangeEntry s (token.toNat % 2 ^ 16) with
  | (s, none) => (s, some 1)
  | (s, some v) =>
    let lo := bits v 43 12 * 4096
    let off := c.q.stage % 2 ^ 44
    (s, if off < lo ∨ lo + 4096 * bits v 90 64 < off + 9 * 2 ^ 20 then some 5 else none)

/-- Give a held chunk to its collective: one that came before the collective first ends its ingress, and is acknowledged (R324, R335, R340). -/
def collGive (s : State) (c : Coll) (h : HeldChunk) : State :=
  let d := fun (s : State) => { s with collHeld := s.collHeld.erase h }
  let judge := fun (s : State) (h' : HeldChunk) =>
    match collJudge s c h'.ch with
    | (s, .held) => { s with collHeld := s.collHeld.map (fun x => if x = h then h' else x) }
    | (s, .mismatch) => collMismatch (d s) c
    | (s, _) => d s
  if h.acked then judge s h
  else match stageCovered s c h.token with
    | (s, some e) => ((d s).refuse h.ch.plane e).respond 3 h.pkg h.seq .token
    | (s, none) => judge (s.respond 3 h.pkg h.seq .ack) { h with acked := true }

/-- Give held chunks to their collective, in arrival order, once each (R339, R340). -/
def collPump (s : State) (group : Nat) : State :=
  (s.collHeld.filter (fun h => h.ch.group == group)).foldl (fun s h =>
    match s.collOf group with
    | none => s
    | some c => collGive s c h) s

/-! ## COLL and its acceptance -/

/-- COLL (R333): sB and sR are read at issue. -/
def execColl (base bar : BitVec 5) (la : BitVec 4) (rec : BitVec 16) (s : State) : Out :=
  let i := Instr.coll base bar la rec
  runUnit i (instrUses i) (fun c =>
    let q : CollReq := { tok := c.s.nextId, lanes := c.ig, pc := c.u.pc, k := c.u.k, words := c.u.words, ownAt := c.u.ownAt, index := rec.toNat,
                         base := if base = 0 then none else some (c.p.sreg base.toNat),
                         bar := if bar = 0 then none else some ((c.p.sreg bar.toNat).toNat % 2 ^ 32) }
    { s := c.s.updPack c.u.core c.u.slot (fun p => { p with collq := p.collq ++ [q] }), kind := 5 }) s

/-- Shares of n chunks in proportion to weights, by largest remainder, ties to the lower plane (R337); none when the weights are all zero. -/
def sharesOf (n : Nat) (w : List (Nat × Nat)) : Option (List (Nat × Nat)) :=
  let tot := (w.map Prod.snd).sum
  if tot = 0 then none
  else
    let fl := w.map (fun x => (x.1, n * x.2 / tot, n * x.2 % tot))
    let left := n - (fl.map (fun x => x.2.1)).sum
    some (fl.map (fun x =>
      let before := (fl.filter (fun y => decide (y.2.2 > x.2.2) || (y.2.2 == x.2.2 && decide (y.1 < x.1)))).length
      (x.1, x.2.1 + b2n (decide (before < left)))))

/-- Rank 0's split: chunks per plane, given to the planes in ascending order; where every weight is zero the planes are free. -/
def makeSplit (s : State) (q : CRec) : State × List Nat :=
  let ups := let u := (List.range 36).filter s.planeUp; if u.isEmpty then [0] else u
  let w := ups.map (fun p => (p, if q.even then 1 else (s.planeBw.find p).getD 0))
  match sharesOf q.splitLen w with
  | some sh => (s, sh.flatMap (fun x => List.replicate x.2 x.1))
  | none =>
    let (n, s) := s.draw
    (s, (List.range q.splitLen).map (fun i => ups.getD (Config.splitPick n i % ups.length) 0))

/-- COLL_ACCEPT (R333, R335): the oldest unaccepted COLL of a pack; at most 16 are in progress. -/
def execCollAccept (core slot : Nat) (s : State) : Out :=
  let p := s.pack core slot
  match p.collq with
  | [] => .next s
  | r :: rest =>
    let pop := fun (s : State) => s.updPack core slot (fun p => { p with collq := rest })
    let bad := fun (s : State) (k d : Nat) => Host.Outcome.next (reqTrap (pop s) core slot r.tok r.ownAt r.lanes r.pc r.k r.words k d [])
    let wait := fun (s : State) (img : FaultImg) => Host.Outcome.next (reqFault (pop s) core slot r.tok r.lanes r.pc r.k { img with lanes := 0xFFFFFFFF, kind := 4 })
    let other := fun (s : State) (e : RecRes) => match e with
      | .trap k d => bad s k d
      | .fault img => wait s img
      | .ok _ => .next s
    if s.colls.length ≥ 16 then .next s
    else match recordRead s p.ctx 1 r.index (s.ctxReg p.ctx 0x38 + 512 * r.index) 512 4 with
    | (s, .ok img) =>
      let q := crecOf img r.base
      if q.bad s.pkgId then bad s tCOLL 1
      else if (match r.bar with | some f => !barOk s p f | none => false) then bad s tCOLL 1
      else match collMembers s p.ctx q with
        | (s, _, some e) => other s e
        | (s, none, none) => bad s tCOLL 3
        | (s, some ms, none) =>
          if ms.getD q.rank s.pkgId ≠ s.pkgId ∨ ms.length ≤ q.rank then bad s tCOLL 2
          else match collTokens s p.ctx ms with
          | (s, _, some e) => other s e
          | (s, ts, none) =>
            let key := p.ctx * 65536 + q.group
            let seq : Word := (s.collSeq.find key).getD 0 + 1
            let (id, s) := s.fresh
            let s := ((pop s).commitNode (s.wg p.wg).uid).cleanCore core
            let s := s.updPack core slot (fun p => { p with toks := p.toks.filter (fun t => t.id != r.tok) })
            let depth := (p.lane ((lanesOf r.lanes).headD 0)).depth
            let c : Coll := { id := id, core := core, slot := slot, wg := p.wg, ctx := p.ctx, lanes := r.lanes, replay := r.pc, k := r.k, depth := depth,
                              words := r.words, index := r.index, img := img, base := r.base, seq := seq, bar := r.bar, members := ms, toks := ts, rank := q.rank, since := s.cycle,
                              strag := (s.strags.find key).getD 0, ownAt := r.ownAt }
            let s := { s with collSeq := s.collSeq.ins key seq, colls := s.colls.ins id c, strags := s.strags.del key }
            if q.rank = 0 then
              let (s, sp) := makeSplit s q
              let s := (ms.filter (fun n => n != s.pkgId)).foldl (fun s n => s.send (.split n q.group sp)) s
              .next (collPump (s.updColl id (fun c => { c with split := some sp })) q.group)
            else .next s
    | (s, e) => other s e

/-- COLL_SPLIT (R337): the plane of each chunk, from rank 0. -/
def execCollSplit (id : Nat) (shares : List Nat) (s : State) : Out :=
  match s.colls.find id with
  | none => .next s
  | some c =>
    if c.split.isSome || shares.length != c.q.splitLen then .next s
    else .next (collPump (s.updColl id (fun c => { c with split := some shares })) c.q.group)

/-! ## Contributions and chunks -/

/-- COLL_CONTRIBUTION_READ (R339, R341). -/
def execCollContributionRead (id k : Nat) (s : State) : Out :=
  match s.colls.find id with
  | none => .next s
  | some c =>
    let x := c.step k
    if c.ended || s.collPaused id || !c.isStep k || !(c.inputs k).1 || x.own.isSome || x.done then .next s
    else
      match collPlaces s c (c.q.src + c.srcOff k) (c.q.len (k / 2)) false with
      | (s, .ok ps) =>
        let (s, bs, ms) := s.readPlaces ps
        let x := { x with own := some (bs, ms.any (fun b => b)), need := x.need - 1, since := some s.cycle }
        .next (collAdvance (s.updColl id (fun c => c.setStep k x)) id k)
      | (s, .fault img) => .next (s.collFault c img)
      | (s, _) => .next (s.collEndNow id 5)

/-- COLL_CHUNK (R324, R335, R340). While no collective of its group is in progress, its STAGE is not known: a later chunk waits in the sending link for the rest
of its ingress, any other is a straggler. -/
def execCollChunk (pkg ctx rseq : Nat) (token : DWord) (ch : Chunk) (s : State) : Out :=
  if s.isLost pkg then .next (s.refuseGone.send (.response pkg rseq .gone))
  else match s.performed.find (answerKey 3 pkg rseq) with
  | some a => .next (s.send (.response pkg rseq a))
  | none =>
    if s.collHeld.any (fun h => h.pkg == pkg && h.seq == rseq && !h.acked) then .next s
    else
    let c? := s.collOf ch.group
    match ingressCheck s pkg ctx token 3 (c?.map (fun c => c.q.stage % 2 ^ 44)) (9 * 2 ^ 20) with
    | (s, .error e) => .next ((s.refuse ch.plane e).respond 3 pkg rseq .token)
    | (s, .ok _) =>
      let hold := fun (s : State) (acked : Bool) => { s with collHeld := s.collHeld ++ [{ pkg := pkg, seq := rseq, token := token, ch := ch, acked := acked }] }
      match c? with
      | some c => match collJudge (s.respond 3 pkg rseq .ack) c ch with
        | (s, .held) => .next (hold s true)
        | (s, .mismatch) => .next (collMismatch s c)
        | (s, _) => .next (collPump s ch.group)
      | none =>
        match s.collSeq.find? (fun x => x.1 % 65536 == ch.group) with
        | some (key, n) =>
          let d := (ch.seq - n).toNat
          if d = 0 ∨ d ≥ 2 ^ 31 then
            .next ({ s with strags := s.strags.ins key (satAdd 32 ((s.strags.find key).getD 0) 1) }.respond 3 pkg rseq .ack)
          else .next (hold s false)
        | none => .next (hold s false)

/-- Is there a core where a reduce block can run (R339)? -/
def State.reduceRoom (s : State) : Bool :=
  (List.range 160).any (fun c => decide ((s.slotsOf c).length < 48) && decide (4 ≤ s.poolFree c))

/-- COLL_REDUCE_COMPLETE (R339): a reduce block has run; a move that had to wait for a page is done again. -/
def execCollReduceComplete (id k : Nat) (s : State) : Out :=
  match s.colls.find id with
  | none => .next s
  | some c =>
    let x := c.step k
    if c.ended || s.collPaused id || !c.isStep k || decide (x.need ≠ 0) || x.done || (c.reduces k && !s.reduceRoom) then .next s
    else .next (collPump (collFinish s id k) c.q.group)

/-- COLL_STEP_TIMEOUT (R341): a step goes on without inputs of a lost package at once, without any after its time. -/
def execCollStepTimeout (id k : Nat) (s : State) : Out :=
  match s.colls.find id with
  | none => .next s
  | some c =>
    let x := c.step k
    let miss := (c.inputs k).2.filter (fun y => !x.ins_.has y)
    let gone := miss.any (fun y => s.isLost (c.members.getD (c.q.rankAt (c.plane (k / 2)) y) 0))
    let lim := (if c.q.timeout = 0 then bits (s.reg 0x401020) 15 0 else c.q.timeout) * 65536
    let late := match x.since with | some t => decide (t + lim ≤ s.cycle) | none => false
    if c.ended || !c.isStep k || x.done || x.flushed || miss.isEmpty || !(gone || late) then .next s
    else
      let own := if (c.inputs k).1 && x.own.isNone then 1 else 0
      let x := { x with flushed := true, need := own, missing := (x.missing ++ miss.flatMap (c.lostRanks k)).dedup }
      let s := (s.updColl id (fun c => c.setStep k x)).collCause id (if gone then 3 else 2)
      .next (collAdvance s id k)

/-- COLL_MISMATCH_NOTICE (R340). -/
def execCollMismatchNotice (id : Nat) (s : State) : Out := .next (s.collEndNow id 1)

/-! ## The end (R341 to R344) -/

/-- Places of a digest word (R342). -/
def digPlaces (s : State) (c : Coll) (va : Nat) (wr : Bool) : State × PlRes :=
  let v : Via := { wh := 10, ctx := c.ctx, core := none, node := 0, kind := if wr then 5 else 4, need := if wr then needW else needR }
  match decodeVa s.pkgId (va % 2 ^ 64) with
  | .ok (.ctl a) => transRange v 0 2 a 8 s
  | .ok (.ten a) => transRange v 1 2 a 8 s
  | _ => (s, .trap tACCESS 0)

/-- Digests of ranks: written, or compared; answers the ranks whose shard changed (R342), none while a fault on DST waits for its page (R341). -/
def collDigests (c : Coll) : List Nat → State → List Nat → State × Option (List Nat)
  | [], s, ch => (s, some ch)
  | rank :: rest, s, ch =>
    match collPlaces s c (c.q.dst + rank * c.q.b) c.q.b false with
    | (s, .ok ps) =>
      let (s, bs, _) := s.readPlaces ps
      let d := bs.foldl crcByte 0
      match digPlaces s c (c.q.digbase + 8 * rank) (c.q.digmode == 1) with
      | (s, .ok dp) =>
        if c.q.digmode = 1 then collDigests c rest (s.writePlaces 0 dp (leBytes 8 d) false) ch
        else
          let (s, old, _) := s.readPlaces dp
          collDigests c rest s (if leNat old = d then ch else ch ++ [rank])
      | (s, _) => collDigests c rest (s.collCause c.id 5) ch
    | (s, .fault img) => (s.collFault c img, none)
    | (s, _) => collDigests c rest (s.collCause c.id 5) ch

/-- The status by precedence (R341). -/
def collStatusOf (causes : Nat) : Nat := ([1, 5, 4, 3, 2, 6].find? (fun n => bit causes n)).getD 0

/-- COLL_END (R336, R341 to R343): digests, the record's HW fields, COLL_STATUS, the last arrival, the event and the trap. A changed shard traps SHARD_CHANGED under
DIGTRAP, also where TRAP is set too (log 61); under TRAP alone it traps COLL as any other status. -/
def execCollEnd (id : Nat) (s : State) : Out :=
  match s.colls.find id with
  | none => .next s
  | some c =>
    let waiting := s.remotes.any (fun x => match x.2.who with | .coll i => i == id | _ => false)
    if (!c.ended && (c.split.isNone || waiting || s.collPaused id || !c.keys.all (fun k => (c.step k).done))) || barWaits s c.wg c.ctx c.bar then .next s
    else
      let q := c.q
      let dig := q.kind = 1 ∧ q.digmode ≠ 0 ∧ !c.ended
      match if dig then collDigests c ((List.range q.n).filter (fun r => !c.map.contains r)) s [] else (s, some []) with
      | (s, none) => .next s
      | (s, some chg) =>
      let causes := ((s.colls.find id).getD c).causes ||| (if chg.isEmpty then 0 else 2 ^ 6)
      let st := collStatusOf causes
      let map := if st = 6 then chg else c.map
      let hw := leBytes 4 c.seq.toNat ++ leBytes 4 c.strag ++ leBytes 2 (map.length % 2 ^ 12 + st * 2 ^ 12)
      let bm := leBytes 256 ((map.map (fun r => 2 ^ r)).sum)
      let va := s.ctxReg c.ctx 0x38 + 512 * c.index
      let (s, _) := ctlWrite 10 c.ctx false false (va + 60) hw s
      let (s, _) := ctlWrite 10 c.ctx false false (va + 128) bm s
      let s := { s with recCache := s.recCache.map (fun (x : (Nat × Nat × Nat) × List Byte) =>
        if x.1 == (c.ctx, 1, c.index) then (x.1, x.2.take 60 ++ hw ++ (x.2.drop 70).take 58 ++ bm ++ x.2.drop 384) else x) }
      let s := collArrive s c
      let s := { s with colls := s.colls.del id }
      let live := (s.pack c.core c.slot).wg == c.wg
      let s := if live then s.updPack c.core c.slot (fun p =>
          ({ p with collStatus := BitVec.ofNat 64 (st + c.index * 2 ^ 4 + map.length % 2 ^ 12 * 2 ^ 20 + c.seq.toNat * 2 ^ 32) }).post 4) else s
      let s := s.ctxSettle c.ctx
      let shard := q.digtrap && st == 6
      if live && st != 0 && (q.trap || shard) then
        .next (s.raise c.core c.slot { code := if shard then tSHARD else tCOLL, detail := if shard then c.index else 4 + c.index * 2 ^ 8, lanes := c.lanes,
                                       depth := c.depth, replay := c.replay, k := c.k, words := c.words, cycle := BitVec.ofNat 64 s.cycle, ownOrd := c.ownAt })
      else .next s

end Sys2Proof.Machine
end

