-- ==== Sys2Proof/Machine/Launch.lean ====
section
/-! DEFINITION. Launches (R362 to R377, R423): the queues, launch records and their checks, LAUNCH, task-graph nodes and their release, placement and start
of workgroups, and reporting and completion in order. -/

namespace Sys2Proof.Machine

/-! ## Queue registers (R362) -/

def qReg (q : Nat) : Nat := 0x500000 + 0x40 * q
def State.qBaseEn (s : State) (q : Nat) : Bool := bit (s.reg (qReg q)) 0
def State.qCtx (s : State) (q : Nat) : Nat := bits (s.reg (qReg q + 8)) 5 0
def State.qClmax (s : State) (q : Nat) : Nat := bits (s.reg (qReg q + 8)) 7 6
def State.qClmask (s : State) (q : Nat) : Nat := bits (s.reg (qReg q + 8)) 17 8
def State.qTail (s : State) (q : Nat) : Nat := bits (s.reg (qReg q + 0x10)) 8 0
def State.qHead (s : State) (q : Nat) : Nat := bits (s.reg (qReg q + 0x18)) 8 0
def State.qCount (s : State) (q : Nat) : Nat := (s.qTail q + 512 - s.qHead q) % 512
def State.qOrder (s : State) (q : Nat) : List Nat := (s.order.find q).getD []

/-- LAUNCH_QTAIL_WRITE (R363). -/
def execLaunchQtailWrite (q : Nat) (v : DWord) (s : State) : Out :=
  let n := bits v.toNat 8 0
  .next (if q ≥ 64 ∨ (n + 512 - s.qHead q) % 512 > 256 then s else s.setReg (qReg q + 0x10) n)

/-- QBASE_WRITE (R362, R363): entries are read while EN is 1. -/
def execQbaseWrite (q : Nat) (v : DWord) (s : State) : Out :=
  .next (if q ≥ 64 then s else s.setReg (qReg q) (b2n (bit v.toNat 0) + bits v.toNat 51 12 * 4096))

/-! ## Records (R364, R365) -/

/-- The fields of a 128-byte record. -/
def lrecOf (bs : List Byte) : LRec :=
  let v := leNat bs
  let f := fun (hi lo : Nat) => bits v hi lo
  let d := fun (lo : Nat) => BitVec.ofNat 64 (bits v (lo + 63) lo)
  { entry := d 0, nx := f 79 64, ny := f 95 80, nz := f 111 96, lx := f 138 128, ly := f 149 139, lz := f 160 150, nlanes := f 239 192, spad := f 264 256,
    frame := f 268 265, psplit := f 273 269, clm1 := f 277 274, mx := bit v 278, sninit := bit v 279, paired := bit v 280, replay := bit v 281,
    rec_ := bit v 282, serial := bit v 283, irq := bit v 284, cls := f 286 285, ntiles := f 296 288, argsize := f 309 297, queue := f 315 310,
    lpsize := f 351 320, fbsize := f 383 352, argva := d 384, tileva := d 448, lpbase := d 512, crbase := d 576, frbase := d 640, doneva := d 704,
    progva := d 768, deps := f 863 832, nsucc := f 871 864, retries := f 879 872, rbudget := f 895 880, succva := d 896, recva := d 960,
    resv := f 127 112 != 0 || f 191 161 != 0 || f 255 240 != 0 || bit v 287 || f 319 316 != 0 }

/-- A record with its tile image and its successors' addresses. -/
structure LRead where
  raw : List Byte := []
  r : LRec := {}
  tiles : List (Nat × Nat) := []
  succs : List Nat := []
  deriving DecidableEq, Repr

/-- What reading comes to: everything, a fault to wait for, or FAULT (R366). -/
inductive LGot where
  | ok (x : LRead)
  | fault (img : FaultImg)
  | bad
  deriving DecidableEq, Repr

/-- A fault of a reader whose earlier fault was answered FAIL is FAULT (R120, R366). -/
def LGot.failing (fail : Bool) : LGot → LGot
  | .fault img => if fail then .bad else .fault img
  | g => g

/-- The record alone, with KIND 0 (R367). -/
def readRec (s : State) (ctx va : Nat) : State × LGot :=
  match tableRead s ctx va 128 0 with
  | (s, .ok bs) => (s, .ok { raw := bs, r := lrecOf bs })
  | (s, .fault img) => (s, .fault img)
  | (s, .trap _ _) => (s, .bad)

/-- n 8-byte words of a list the record names; an empty list is not read. -/
def readWords (s : State) (ctx va n : Nat) : State × RecRes := if n = 0 then (s, .ok []) else tableRead s ctx va (8 * n) 0

def word8 (bs : List Byte) (i : Nat) : Nat := leNat ((bs.drop (8 * i)).take 8)

/-- The tile image and the successor list of a record. -/
def readLists (s : State) (ctx : Nat) (x : LRead) (node : Bool) : State × LGot :=
  let n := min x.r.ntiles 256
  let m := if node then x.r.nsucc else 0
  match readWords s ctx x.r.tileva.toNat n with
  | (s, .fault img) => (s, .fault img)
  | (s, .trap _ _) => (s, .bad)
  | (s, .ok bs) =>
    match readWords s ctx x.r.succva.toNat m with
    | (s, .fault img) => (s, .fault img)
    | (s, .trap _ _) => (s, .bad)
    | (s, .ok cs) =>
      (s, .ok { x with tiles := (List.range n).map (fun i => (word8 bs i % 2 ^ 32, word8 bs i / 2 ^ 32)), succs := (List.range m).map (word8 cs) })

/-! ## The checks of R366 -/

/-- Who submits: a ring entry, LAUNCH, or the release of a node's successors. -/
inductive SubBy where
  | ring (q : Nat)
  | pack (core slot : Nat)
  | release
  deriving DecidableEq, Repr

/-- Does the record's QUEUE place the launch (R364)? -/
def SubBy.queue (b : SubBy) (node : Bool) (r : LRec) : Nat :=
  match b with
  | .ring q => if node then r.queue else q
  | _ => r.queue

/-- Device slots of a queue in use (R363). -/
def State.devSlots (s : State) (q : Nat) : Nat := (s.launches.filter (fun l => l.2.queue == q && l.2.devSlot)).length

def recvaOk (pkg : Nat) (va : DWord) : Bool :=
  bits va.toNat 63 56 == 0x40 && !bit va.toNat 55 && bits va.toNat 54 44 == pkg

/-- RECORD. -/
def recordBad (s : State) (ctx q va : Nat) (placed node : Bool) (r : LRec) : Bool :=
  r.resv || va % 128 != 0 || r.entry.toNat % 4 != 0 || decide (r.entry.toNat ≥ 2 ^ 48) || r.tileva.toNat % 8 != 0 || r.lpbase.toNat % 4096 != 0 ||
  r.crbase.toNat % 4096 != 0 || r.frbase.toNat % 256 != 0 || r.doneva.toNat % 8 != 0 || r.progva.toNat % 8 != 0 || r.succva.toNat % 8 != 0 ||
  r.recva.toNat % 64 != 0 || decide (r.cls > s.qClmax q) || (placed && s.qCtx q != ctx) ||
  decide (r.argsize > 4096) || r.argsize % 8 != 0 || r.lpsize % 128 != 0 || r.fbsize % 128 != 0 || decide (r.ntiles > 256) ||
  (!node && (r.deps != 0 || r.nsucc != 0 || r.succva != 0)) || (r.rec_ && !recvaOk s.pkgId r.recva)

/-- SHAPE. -/
def shapeStat (r : LRec) : Bool :=
  r.wl % r.lpp != 0 || decide (r.packs = 0) || decide (r.packs > 32) || decide (r.wgs = 0) || r.wgs % (r.clm1 + 1) != 0 ||
  decide (r.nlanes ≤ (r.wgs - 1) * r.wl) || decide (r.nlanes > r.wgs * r.wl)

/-- FRAME (R191). -/
def frameStat (r : LRec) : Bool :=
  decide (r.fbsize < 32 * (r.frame + 1)) || r.frame == 0 || r.frame == 15 || decide (r.packs * r.frame > 480)

/-- Ways of a workgroup (R132). -/
def LRec.ways (r : LRec) : Nat := ceilDiv' r.spad 16

/-- SPAD (R132, R166). -/
def spadStat (r : LRec) (tiles : List (Nat × Nat)) : Bool :=
  decide (r.spad > 288) || tiles.any (fun t => t.2 != 0 && (t.1 % 256 != 0 || t.2 % 256 != 0 || decide (t.1 + t.2 > r.ways * 16384)))

/-- The status of a record that could be read, in the order of the table; `full`: is FULL tested (LAUNCH) or waited for (R370)? -/
def launchStatus (s : State) (ctx va : Nat) (b : SubBy) (node : Bool) (x : LRead) : Nat :=
  let ring := match b with | .ring _ => true | _ => false
  let q := b.queue node x.r
  if recordBad s ctx q va (!ring || node) node x.r then 4
  else if shapeStat x.r then 3
  else if frameStat x.r then 2
  else if spadStat x.r x.tiles then 1
  else if !ring && !s.qBaseEn q then 8
  else match b with
    | .pack _ _ => if s.devSlots q ≥ 64 then 6 else 0
    | _ => 0

/-! ## Acceptance -/

/-- The launch chain of a context (R428). -/
def State.chainOf (s : State) (ctx : Nat) : List Byte := (s.chain.find ctx).getD (List.replicate 48 0)

def State.takeSeq (s : State) (q : Nat) : State × Nat :=
  let n := bits (s.reg (qReg q + 0x20)) 31 0
  (s.setReg (qReg q + 0x20) ((n + 1) % 2 ^ 32), n)

/-- A launch joins its queue's order (R363, R407, R428). -/
def State.accept (s : State) (ctx va : Nat) (b : SubBy) (node : Bool) (x : LRead) : State × Nat :=
  let q := b.queue node x.r
  let (s, seq) := s.takeSeq q
  let (uid, s) := s.fresh
  let dev := match b with | .ring _ => node | _ => true
  let by_ := match b with | .pack c sl => some (c, sl) | _ => none
  let l : Launch := { uid := uid, ctx := ctx, queue := q, seq := some seq, recVA := BitVec.ofNat 64 va, r := x.r, tiles := x.tiles, by_ := by_, devSlot := dev,
                      since := s.cycle, retries := 0, succs := x.succs }
  let s := { s with launches := s.launches.ins uid l, order := s.order.ins q (s.qOrder q ++ [uid]),
                    chain := s.chain.ins ctx (Config.sha384 (s.chainOf ctx ++ Config.sha384 x.raw)),
                    launched := s.launched.ins ctx ((s.launched.find ctx).getD 0 + 1) }
  (if s.ctxState ctx = 0 then s.setCtxState ctx 1 else s, seq)

/-- A rejected launch, which completes at once with its status (R366, R377); queue 64 stands for none, where no record names one. -/
def State.reject (s : State) (ctx va q : Nat) (by_ : Option (Nat × Nat)) (seq : Option Nat) (r : LRec) (status : Nat) : State :=
  let (uid, s) := s.fresh
  let l : Launch := { uid := uid, ctx := ctx, queue := q, seq := seq, recVA := BitVec.ofNat 64 va, r := r, status := status, ended := true, since := s.cycle,
                      by_ := by_ }
  { s with launches := s.launches.ins uid l, order := if seq.isSome then s.order.ins q (s.qOrder q ++ [uid]) else s.order }

/-! ## Task-graph nodes (R369) -/

/-- What a node's decrement comes to. -/
inductive NodeRes where
  | fault (img : FaultImg)
  /-- A status and the sequence number taken; `ran`: the checks ran, so a status other than OK rejects a launch; `r`: the record, where it could be
  read. -/
  | done (status seq : Nat) (ran : Bool) (r : Option LRec)
  /-- Checked, but the target's device slots are full; DEPS is zero by now. -/
  | full
  deriving DecidableEq, Repr

/-- The places of DEPS of the record at a VA, with the rights of an atomic. -/
def depsPlaces (s : State) (ctx va : Nat) : State × PlRes :=
  transRange { wh := 10, ctx := ctx, core := none, node := 0, kind := 0, need := { r := true, w := true } } 0 2 (va % 2 ^ 48 + 104) 4 s

/-- One decrement. Everything it reads is read before DEPS is written, so a fault leaves DEPS as it was; `armed`: DEPS is at zero already; `fail`: an
earlier fault of this decrement was answered FAIL. -/
def decrement (s : State) (ctx va : Nat) (b : SubBy) (armed fail : Bool) : State × NodeRes :=
  if !bit (s.ctxReg ctx 0) 0 then (s, .done 4 0 true none)
  else
    let (s, g) := readRec s ctx va
    match g.failing fail with
    | .fault img => (s, .fault img)
    | .bad => (s, .done 5 0 true none)
    | .ok x =>
      if va % 128 ≠ 0 then (s, .done 4 0 true (some x.r))
      else match depsPlaces s ctx va with
      | (s, .fault img) => if fail then (s, .done 5 0 true (some x.r)) else (s, .fault img)
      | (s, .ok ps) =>
        let old := if armed then 1 else x.r.deps
        if old = 0 then (s, .done 4 0 false (some x.r))
        else if old ≠ 1 then
          if fail then (s, .done 5 0 true (some x.r)) else (s.writePlaces 0 ps (leBytes 4 (old - 1)) false, .done 0 0 false (some x.r))
        else
          let (s, g) := readLists s ctx x true
          match g.failing fail with
          | .fault img => (s, .fault img)
          | g =>
            let s := if armed then s else s.writePlaces 0 ps (leBytes 4 0) false
            match g, fail with
            | .ok y, false =>
              let st := launchStatus s ctx va b true y
              if st ≠ 0 then (s, .done st 0 true (some x.r))
              else if s.devSlots y.r.queue ≥ 64 then (s, .full)
              else
                let a := s.accept ctx va b true y
                (a.1, .done 0 a.2 true (some y.r))
            | _, _ => (s, .done 5 0 true (some x.r))
      | (s, _) => (s, .done 5 0 true (some x.r))

/-- What a decrement that the scheduler makes leaves: a node whose checks fail is completed at once (R370). -/
def State.afterDecrement (s : State) (ctx va : Nat) (by_ : Option (Nat × Nat)) (st : Nat) (ran : Bool) (r : Option LRec) : State :=
  if st ≠ 0 && ran then s.reject ctx va ((r.map LRec.queue).getD 64) by_ none (r.getD {}) st else s

/-! ## LAUNCH (R367) -/

/-- LAUNCH's common end: the status to sS, or the trap LAUNCH_SPAD at completion. -/
def launchEnd (c : Ctx) (s : State) (st : Nat) (status seq : Nat) : Res :=
  if st ≠ 0 then { s := s.updPack c.u.core c.u.slot (fun p => p.setS st (BitVec.ofNat 64 (seq * 2 ^ 32 + status))), kind := 2 }
  else if status = 0 then { s := s, kind := 2 }
  else { s := s, late := groupTrap c tLAUNCH status, kind := 2 }

/-- The whole group waits for translation (R116). -/
def launchWait (c : Ctx) (s : State) (img : FaultImg) : Res :=
  { s := s, faults := (lanesOf c.ig).map (fun l => (l, { img with core := c.u.core, pack := c.u.slot })), kind := 2 }

/-- A grid launch by a pack. -/
def gridSubmit (s : State) (ctx va : Nat) (b : SubBy) (fail : Bool) : State × NodeRes :=
  if !bit (s.ctxReg ctx 0) 0 then (s, .done 4 0 true none)
  else
    let (s, g) := readRec s ctx va
    match g.failing fail with
    | .fault img => (s, .fault img)
    | .bad => (s, .done 5 0 true none)
    | .ok x =>
      let (s, g) := readLists s ctx x false
      match g.failing fail, fail with
      | .fault img, _ => (s, .fault img)
      | .ok y, false =>
        let st := launchStatus s ctx va b false y
        if st ≠ 0 then (s, .done st 0 true (some x.r))
        else let a := s.accept ctx va b false y; (a.1, .done 0 a.2 true (some y.r))
      | _, _ => (s, .done 5 0 true (some x.r))

/-- LAUNCH with a submission: a release at `pkg`, and a replayable node commits first (R422). A fault of its reads answered FAIL gives status FAULT and
no trap (R366); a rejected launch completes at once (R377). -/
def launchBody (c : Ctx) (va st : Nat) (sub : State → Bool → State × NodeRes) : Res :=
  let by_ := some (c.u.core, c.u.slot)
  match sub ((c.s.commitNode (c.s.wg c.p.wg).uid).releaseAt c.u.core 3) (xlateTraps c.p c.ig != []) with
  | (s, .fault img) => launchWait c s img
  | (s, .done status seq ran r) => launchEnd c (s.afterDecrement c.p.ctx va by_ status ran r) st status seq
  | (s, .full) => launchEnd c s st 6 0

/-- LAUNCH.grid (R367). -/
def execLaunchGrid (r st : BitVec 5) (la : BitVec 4) (s : State) : Out :=
  let i := Instr.launchGrid r st la
  runUnit i (instrUses i) (fun c =>
    let va := (c.p.sreg r.toNat).toNat
    launchBody c va st.toNat (fun s fail => gridSubmit s c.p.ctx va (.pack c.u.core c.u.slot) fail)) s

/-- LAUNCH.node (R367, R369). -/
def execLaunchNode (r st : BitVec 5) (la : BitVec 4) (s : State) : Out :=
  let i := Instr.launchNode r st la
  runUnit i (instrUses i) (fun c =>
    let va := (c.p.sreg r.toNat).toNat
    launchBody c va st.toNat (fun s fail => decrement s c.p.ctx va (.pack c.u.core c.u.slot) false fail)) s

/-! ## Ring entries (R363, R366) -/

/-- Is a reader of the scheduler waiting for a page request? -/
def State.readerWaits (s : State) (key : Nat) : Bool := s.prq.any (fun p => p.queue == some key) || s.prqHeld.any (fun p => p.queue == some key)

/-- A reader's fault: posted, or FAIL at once when the function's queue is off (R117). -/
def State.readerFault (s : State) (key ctx : Nat) (img : FaultImg) : State :=
  let f := s.funcOf ctx
  if s.prqEnabled f then s.prqPost { func := f, img := img, queue := some key } else { s with qFail := s.qFail.ins key () }

/-- QHEAD advances (R363). -/
def State.qAdvance (s : State) (q : Nat) : State :=
  { s.setReg (qReg q + 0x18) ((s.qHead q + 1) % 512) with qFail := s.qFail.del q, ringArmed := s.ringArmed.del q }

/-- A grid launch read from a ring takes a sequence number whatever its status. -/
def ringReject (s : State) (ctx va q : Nat) (r : LRec) (status : Nat) : State :=
  let (s, seq) := s.takeSeq q
  (s.reject ctx va q none (some seq) r status).qAdvance q

/-- A ring entry of kind 0: a grid launch. -/
def ringGrid (s : State) (q ctx va : Nat) (resv : Bool) : State :=
  if !bit (s.ctxReg ctx 0) 0 then ringReject s ctx va q {} 4
  else
    let fail := s.qFail.has q
    let (s, g) := readRec s ctx va
    match g.failing fail with
    | .fault img => s.readerFault q ctx img
    | .bad => ringReject s ctx va q {} 5
    | .ok x =>
      let (s, g) := readLists s ctx x false
      match g.failing fail, fail with
      | .fault img, _ => s.readerFault q ctx img
      | .ok y, false =>
        let st := if resv then 4 else launchStatus s ctx va (.ring q) false y
        if st ≠ 0 then ringReject s ctx va q x.r st else ((s.accept ctx va (.ring q) false y).1).qAdvance q
      | _, _ => ringReject s ctx va q x.r 5

/-- A ring entry of kind 1: a decrement. A node that is to be enqueued while its target's slots are full waits with its entry, its DEPS at zero. -/
def ringNode (s : State) (q ctx va : Nat) (resv : Bool) : State :=
  if resv then (s.reject ctx va q none none {} 4).qAdvance q
  else match decrement s ctx va (.ring q) (s.ringArmed.has q) (s.qFail.has q) with
    | (s, .fault img) => s.readerFault q ctx img
    | (s, .full) => { s with ringArmed := s.ringArmed.ins q () }
    | (s, .done st _ ran r) => (if st ≠ 0 && ran then s.reject ctx va q none none (r.getD {}) st else s).qAdvance q

/-- One ring entry: its record's VA and kind are given, its reserved bits are `resv`. -/
def ringEntry (s : State) (q ctx va kind : Nat) (resv : Bool) : State :=
  if kind = 0 then ringGrid s q ctx va resv
  else if kind = 1 then ringNode s q ctx va resv
  else (s.reject ctx va q none none {} 4).qAdvance q

/-- Can the scheduler read an entry of the queue now? -/
def State.ringReady (s : State) (q : Nat) : Bool := s.qBaseEn q && s.qCount q != 0 && !s.readerWaits q

/-- LAUNCH_ENTRY_READ (R363, R366). -/
def execLaunchEntryRead (q : Nat) (s : State) : Out :=
  if q ≥ 64 ∨ !s.ringReady q then .next s
  else
    let pa := bits (s.reg (qReg q)) 51 12 * 4096 + 16 * (s.qHead q % 256)
    let s := s.touch {} pa 16
    let e := s.readNat {} pa 16
    .next (ringEntry s q (s.qCtx q) (e % 2 ^ 64) (bits e 65 64) (bits e 127 66 != 0))

/-! ## Release of successors (R370) -/

/-- NODE_RELEASE: the first successor of a release. One whose queue's device slots are full holds the others back. -/
def execNodeRelease (uid : Nat) (s : State) : Out :=
  match s.releases.find? (fun r => r.uid == uid) with
  | none => .next s
  | some r =>
    let set := fun (s : State) (f : Release → Release) => { s with releases := s.releases.map (fun x => if x.uid == uid then f x else x) }
    match r.vas with
    | [] => .next { s with releases := s.releases.filter (fun x => x.uid != uid) }
    | va :: rest =>
      let next := fun (s : State) => { set s (fun x => { x with vas := rest, armed := false }) with qFail := s.qFail.del (64 + uid) }
      if s.readerWaits (64 + uid) then .next s
      else match decrement s r.ctx va .release r.armed (s.qFail.has (64 + uid)) with
        | (s, .fault img) => .next (s.readerFault (64 + uid) r.ctx img)
        | (s, .full) => .next (set s (fun x => { x with armed := true }))
        | (s, .done st _ ran q) => .next (next (s.afterDecrement r.ctx va none st ran q))

/-! ## Placement (R371 to R373) -/

/-- Workgroups of launches before one in its queue's order, that are not yet reported (R376). -/
def State.ahead (s : State) (q uid : Nat) : Nat :=
  ((s.qOrder q).takeWhile (fun u => u != uid)).foldl (fun a u =>
    let l := s.launch u
    if l.ended then a else a + (l.r.wgs - l.reported)) 0

/-- The launch whose workgroups a queue places now, if it may (R371, R372, R376). -/
def State.candidate (s : State) (q : Nat) : Option Launch :=
  let o := s.qOrder q
  match o.find? (fun u => let l := s.launch u; !l.ended && decide (l.next < l.r.wgs)) with
  | none => none
  | some u =>
    let l := s.launch u
    let prev := (o.takeWhile (fun x => x != u)).getLast?
    let serial := match prev with
      | some x => !l.r.serial || (s.launch x).wrote
      | none => true
    if serial && decide (s.ctxState l.ctx ≤ 1) && l.rstate != 2 && decide (s.ahead q u + (l.next - l.reported) < 256) then some l else none

/-- Free run of n of `lim` places, the lowest, given the taken runs (start, length). -/
def lowRun (taken : List (Nat × Nat)) (lim n : Nat) : Option Nat :=
  let starts := (0 :: taken.map (fun r => r.1 + r.2)).filter (fun b =>
    decide (b + n ≤ lim) && taken.all (fun r => r.2 == 0 || n == 0 || decide (r.1 + r.2 ≤ b ∨ b + n ≤ r.1)))
  match starts with
  | [] => none
  | b :: bs => some (bs.foldl min b)

/-- Argument store bytes of a launch's workgroup (R145). -/
def LRec.argRoom (r : LRec) : Nat := (r.argsize + 255) / 256 * 256

/-- Where a workgroup would stand on a core. -/
structure Fit where
  way : Nat
  split : Nat
  tile0 : Nat
  arg0 : Nat
  slots : List Nat
  deriving DecidableEq, Repr

/-- The resources a workgroup of a launch finds on a core (R372), if it fits there. -/
def State.fitCore (s : State) (r : LRec) (c : Nat) : Option Fit :=
  let k := s.core c
  let all := s.wgsOn c
  let live := all.filter (fun w => !w.2.done)
  let free := (List.range 48).filter (fun sl => (s.pack? c sl).isNone)
  let n := r.ways
  let split := if all.isEmpty then min 18 (max n r.psplit) else k.split
  let way := if all.isEmpty then some 0 else lowRun (all.map (fun w => (w.2.way, w.2.ways))) k.split n
  let tile := lowRun (live.map (fun w => (w.2.tile0, (s.launch w.2.uid).r.ntiles))) 256 r.ntiles
  let arg := lowRun (live.map (fun w => (w.2.arg0, (s.launch w.2.uid).r.argRoom))) 65536 r.argRoom
  if free.length < r.packs ∨ s.poolFree c < r.packs * r.frame ∨ s.reqAhead c 48 5 s.ownSteps ∨ (r.mx && live.any (fun w => w.2.mx)) then none
  else match way, tile, arg with
    | some w, some t, some a => some { way := w, split := split, tile0 := t, arg0 := a, slots := free.take r.packs }
    | _, _, _ => none

/-- Core clusters held by a cluster whose members are not all placed (R373). -/
def State.heldClusters (s : State) (uid : Nat) : List Nat := s.launches.filterMap (fun l => if l.1 = uid then none else l.2.cluster)

/-- May the next workgroup of a launch go to a core, by QCFG.CLMASK and R373? -/
def State.mayPlace (s : State) (l : Launch) (c : Nat) : Bool :=
  bit (s.qClmask l.queue) (c / 16) && !(s.heldClusters l.uid).contains (c / 16) &&
  (match l.cluster with
   | some k => c / 16 == k && !l.clCores.contains c
   | none => true)

/-- The core that takes a launch's next workgroup (R372). -/
def State.findCore (s : State) (l : Launch) : Option (Nat × Fit) :=
  let st := l.lastCore.getD s.lastCore
  let cs := (List.range 160).map (fun i => (st + 1 + i) % 160)
  cs.findSome? (fun c => if s.mayPlace l c then (s.fitCore l.r c).map (fun f => (c, f)) else none)

/-- Candidates in the order of R371: classes from 3 down, queues after the one that last placed. A starving launch shuts lower classes out. -/
def State.candidates (s : State) : List Launch :=
  let qs := (List.range 64).map (fun i => (s.lastQueue + 1 + i) % 64)
  let cs := qs.filterMap s.candidate
  let low := match s.starving.bind (fun u => s.launches.find u) with
    | some l => l.r.cls
    | none => 0
  [3, 2, 1, 0].flatMap (fun k => if k < low then [] else cs.filter (fun l => l.r.cls == k))

/-- The launch whose workgroup is placed next, with its core. -/
def State.nextPlace (s : State) : Option (Launch × Nat × Fit) := s.candidates.findSome? (fun l => (s.findCore l).map (fun x => (l, x.1, x.2)))

/-! ## The start of a workgroup (R375) -/

/-- The split change and the zeroing of R133 and R134: L1 ways that become scratchpad are written back, the lines of the others stay as they are; engine arrivals held on objects that were there are gone with them. -/
def State.prepSpad (s : State) (c way ways split : Nat) : State :=
  let old := (s.core c).split
  let s := if split > old then s.dropWays c split else if split < old then s.zeroSpad c (split * 16384) ((old - split) * 16384) else s
  let s := s.zeroSpad c (way * 16384) (ways * 16384)
  s.updCore c (fun k => { k with split := split, power := 0,
                                 barHeld := k.barHeld.filter (fun b => decide (b.1 < way * 16384 ∨ (way + ways) * 16384 ≤ b.1)) })

/-- The argument block is copied (R145): a byte that cannot be read is zero and poisons its block. -/
def State.copyArgs (s : State) (c ctx va arg0 n : Nat) : State :=
  let s := s.updCore c (fun k => { k with args := k.args.filter (fun b => decide (b.1 < arg0 ∨ arg0 + (n + 255) / 256 * 256 ≤ b.1)),
                                          argsPsn := k.argsPsn.filter (fun b => decide (64 * b.1 < arg0 ∨ arg0 + (n + 255) / 256 * 256 ≤ 64 * b.1)) })
  (List.range n).foldl (fun s i =>
    match ctlRead 10 ctx false (va + i) 1 s with
    | (s, some [(b, p)]) => s.updCore c (fun k => { k with args := setCanon k.args (arg0 + i) b,
                                                            argsPsn := if p then k.argsPsn.ins ((arg0 + i) / 64) () else k.argsPsn })
    | (s, _) => s.updCore c (fun k => { k with argsPsn := k.argsPsn.ins ((arg0 + i) / 64) () })) s

/-- Tiles 0 to T - 1 from the image. -/
def Core.setTiles (k : Core) (tile0 : Nat) (tiles : List (Nat × Nat)) : Core :=
  { k with tiles := tiles.zipIdx.foldl (fun m t => m.ins (tile0 + t.2) { size := t.1.2 / 256, off := t.1.1 / 256 }) k.tiles }

/-- The matrix unit begins to be held (R266). -/
def Core.holdMx (k : Core) (wg : Nat) : Core :=
  { k with mxOwner := some wg, acc := [], strA := {}, strB := {}, lastFed := none, mmaQ := [] }

/-- The state a lane of a workgroup starts in (R215): lane l of pack `pkid`, workgroup i. -/
def startLane (r : LRec) (i pkid l : Nat) : Lane :=
  let lid := if r.paired then l % 16 else l
  let g := i * r.wl + pkid * r.lpp + lid
  let st : LaneSt := if r.paired && decide (l ≥ 16) then .exited
    else if g < r.nlanes then .active
    else if g < 4 * ceilDiv' r.nlanes 4 then .helper
    else .exited
  { pc := r.entry, st := st }

/-- A pack at its start (R81, R187, R375). -/
def startPack (r : LRec) (wg ctx i pkid base now : Nat) : Pack :=
  let lanes := lanes32.map (startLane r i pkid)
  let f : Frame := { base := base, size := r.frame, touched := now, cmask := laneMask (lanes32.filter (fun l => (lanes.getD l {}).st != .exited)) }
  let p : Pack := { wg := wg, pkid := pkid, ctx := ctx, lanes := lanes, frames := [f.fillRegs r.sninit 0 (8 * r.frame)],
                    fpc := if r.sninit then 0x10000 else 0 }
  p.reap

/-- Start workgroup i of a launch on a core. -/
def State.startWg (s : State) (l : Launch) (i c : Nat) (f : Fit) : State :=
  let r := l.r
  let (id, s) := s.fresh
  let s := s.prepSpad c f.way r.ways f.split
  let s := s.copyArgs c l.ctx r.argva.toNat f.arg0 r.argsize
  let s := s.updCore c (fun k => let k := k.setTiles f.tile0 l.tiles; if r.mx then k.holdMx id else k)
  let w : Wg := { uid := l.uid, idx := i, ctx := l.ctx, core := c, slots := f.slots, way := f.way, ways := r.ways, tile0 := f.tile0, arg0 := f.arg0,
                  order := id, mx := r.mx }
  let s := { s with wgs := s.wgs.ins id w }
  f.slots.zipIdx.foldl (fun s x =>
    let (s, base) := s.allocRun c r.frame
    { s with packs := s.packs.ins (packKey c x.1) (startPack r id l.ctx i x.2 base s.ownSteps) }) s

/-- The launch after its next workgroup is placed on a core (R373). -/
def Launch.placed (l : Launch) (c now : Nat) : Launch :=
  let n := l.r.clm1 + 1
  let last := decide (l.next % n + 1 = n)
  { l with next := l.next + 1, lastCore := some c, since := now, cluster := if last then none else some (c / 16),
           clCores := if last then [] else l.clCores ++ [c] }

/-- WORKGROUP_PLACE (R371 to R375). -/
def execWorkgroupPlace (s : State) : Out :=
  match s.nextPlace with
  | none => .next s
  | some (l, c, f) =>
    let s := s.startWg l l.next c f
    let s := { s with launches := s.launches.upd l.uid (fun l => l.placed c s.cycle), lastQueue := l.queue, lastCore := c,
                      starving := if s.starving = some l.uid then none else s.starving }
    .next (if s.ctxState l.ctx = 0 then s.setCtxState l.ctx 1 else s)

/-- Is a launch the first of the highest waiting class, and has it waited 2^20 clocks (R371)? -/
def State.starves (s : State) (uid : Nat) : Bool :=
  match s.candidates with
  | l :: _ => l.uid == uid && decide (l.since + 2 ^ 20 ≤ s.cycle) && s.starving != some uid
  | [] => false

/-- PRIORITY_STARVATION (R371). -/
def execPriorityStarvation (uid : Nat) (s : State) : Out := .next (if s.starves uid then { s with starving := some uid } else s)

/-! ## The end of a workgroup (R376) -/

/-- Has every pack exited, with nothing of the workgroup in progress (R166, R376)? -/
def State.wgFinished (s : State) (id : Nat) : Bool :=
  let w := s.wg id
  let l := s.launch w.uid
  !w.done && l.rstate != 2 &&
  s.packs.all (fun p => p.2.wg != id ||
    (p.2.lanes.all (fun x => x.st == .exited) && p.2.toks.isEmpty && p.2.tcq.isEmpty && p.2.collq.isEmpty && p.2.pending.isEmpty && p.2.svc.isNone)) &&
  (List.range l.r.ntiles).all (fun t => let x := s.tile w t; x.st == .empty || (x.st == .ready && x.readers == 0)) &&
  !s.copies.any (fun c => c.2.wg == id) && !s.colls.any (fun c => c.2.wg == id)

/-- Indices of the cluster a workgroup belongs to. -/
def Launch.clusterIdx (l : Launch) (i : Nat) : List Nat :=
  let n := l.r.clm1 + 1
  (List.range n).map (fun j => i / n * n + j)

/-- Free a finished workgroup; its allocation stays until its cluster has finished (R129). -/
def State.endWg (s : State) (id : Nat) : State :=
  let w := s.wg id
  let l := s.launch w.uid
  let s := (s.packs.filter (fun p => p.2.wg == id)).foldl (fun s p => s.barExit (p.1 / 48) (p.1 % 48)) s
  let s := s.freeWg id
  let s := { s with launches := s.launches.upd w.uid (fun l => { l with finished := l.finished ++ [w.idx] }) }
  if (l.clusterIdx w.idx).all (fun i => (w.idx :: l.finished).contains i) then
    { s with wgs := s.wgs.filter (fun x => !(x.2.uid == w.uid && (l.clusterIdx w.idx).contains x.2.idx)) }
  else { s with wgs := s.wgs.ins id { w with done := true, slots := [] } }

/-- Positions of a launch reported after n, as far as they have finished. -/
def reportUpto (fin : List Nat) : Nat → Nat → Nat
  | 0, n => n
  | f + 1, n => if fin.contains n then reportUpto fin f (n + 1) else n

/-- A store of the scheduler through the context's control root, with a release at `dom` (R376). -/
def State.schedStore (s : State) (ctx va v : Nat) : State × Bool :=
  ctlWrite 10 ctx false false va (leBytes 8 v) (s.l1.foldl (fun s x => s.wbLine (x.1 / 2 ^ 46) (x.1 % 2 ^ 46)) s)

/-- Report what can be reported of a queue's launches, in order (R376); a replayable node's PROGVA waits for completion (R423). -/
def reportList (s : State) : List Nat → State
  | [] => s
  | u :: us =>
    let l := s.launch u
    if l.ended then reportList s us
    else
      let n := reportUpto l.finished (l.r.wgs - l.reported) l.reported
      let s := if n = l.reported then s
        else
          let s := { s with launches := s.launches.upd u (fun l => { l with reported := n }) }
          if l.r.progva = 0 ∨ l.r.replay then s
          else match s.schedStore l.ctx l.r.progva.toNat n with
            | (s, true) => s
            | (s, false) => { s with launches := s.launches.upd u (fun l => { l with status := if l.status = 0 then 5 else l.status }) }
      if n < l.r.wgs then s else reportList s us

/-- WORKGROUP_FINISH (R376). -/
def execWorkgroupFinish (uid idx : Nat) (s : State) : Out :=
  match s.wgs.find? (fun w => w.2.uid == uid && w.2.idx == idx && !w.2.done) with
  | none => .next s
  | some (id, _) =>
    if !s.wgFinished id then .next s
    else
      let s := s.endWg id
      .next (reportList s (s.qOrder (s.launch uid).queue))

/-! ## The end of a launch (R377) -/

/-- Are all positions reported, or is the launch rejected or killed; and are its stores, atomics and copies performed? -/
def State.launchOver (s : State) (l : Launch) : Bool :=
  l.ended || (decide (l.reported = l.r.wgs) &&
    !s.remotes.any (fun x => match x.2.who with | .red _ _ _ u => u == l.uid | _ => false))

/-- Steps 1 and 2: provisional lines commit; the completion word is written. -/
def State.writeDone (s : State) (l : Launch) : State :=
  let s := if l.r.replay && !l.ended then s.dropProv l.uid else s
  let (s, st) := if l.r.replay && !l.ended && l.r.progva != 0 then
      (match s.schedStore l.ctx l.r.progva.toNat l.r.wgs with
       | (s, true) => (s, l.status)
       | (s, false) => (s, if l.status = 0 then 5 else l.status))
    else (s, l.status)
  let (s, st) := if l.r.doneva = 0 then (s, st)
    else match s.schedStore l.ctx l.r.doneva.toNat (st + l.retries * 2 ^ 8 + l.seq.getD 0 * 2 ^ 32) with
      | (s, true) => (s, st)
      | (s, false) => (s, 5)
  let s := if st = 0 ∨ st = 7 ∨ l.queue ≥ 64 then s else s.setReg (qReg l.queue + 0x30) (st + l.seq.getD 0 * 2 ^ 8)
  { s with launches := s.launches.upd l.uid (fun l => { l with status := st, wrote := true, devSlot := false }),
           lastDone := s.lastDone.ins l.ctx (l.retries, st) }

/-- Is it the turn of the launch in QDONE.COUNT's order? -/
def State.inTurn (s : State) (l : Launch) : Bool := l.seq.isNone || (s.qOrder l.queue).head? == some l.uid

/-- Steps 3 to 5, and the end of the launch; the pack that submitted it gets its event (R395). -/
def State.closeLaunch (s : State) (l : Launch) : State :=
  let s := if l.seq.isSome then
      let a := qReg l.queue + 0x28
      { s.setReg a ((s.reg a + 1) % 2 ^ 32) with order := s.order.ins l.queue (s.qOrder l.queue).tail }
    else s
  let s := if l.status = 0 && !l.succs.isEmpty then
      let (id, s) := s.fresh
      { s with releases := s.releases ++ [{ uid := id, ctx := l.ctx, vas := l.succs }] }
    else s
  let s := if l.r.irq && decide (l.queue < 64) then s.send (.queueIrq l.queue) else s
  let s := match l.by_ with
    | some (c, sl) => s.updPack c sl (fun p => if p.ctx = l.ctx then p.post 5 else p)
    | none => s
  ({ s with launches := s.launches.del l.uid, starving := if s.starving = some l.uid then none else s.starving }).ctxSettle l.ctx

/-- LAUNCH_COMPLETE (R377): the completion word at once, the count in its turn. -/
def execLaunchComplete (uid : Nat) (s : State) : Out :=
  match s.launches.find uid with
  | none => .next s
  | some l =>
    if !s.launchOver l then .next s
    else
      let s := if l.wrote then s else s.writeDone l
      let l := s.launch uid
      .next (if s.inTurn l then s.closeLaunch l else s)

/-! ## Discard (R423) -/

/-- Everything of a workgroup goes as with a kill. -/
def State.dropWg (s : State) (id : Nat) : State :=
  let w := s.wg id
  let mine := fun (q : PrqWait) => match q.copy with
    | some c => ((s.copies.find c).map (fun x => x.wg == id)).getD false
    | none => q.coll.isNone && q.queue.isNone && q.img.core == w.core && w.slots.contains q.img.pack && q.img.ctx == w.ctx
  let s := { s with prq := s.prq.filter (fun q => !mine q), prqHeld := s.prqHeld.filter (fun q => !mine q),
                    copies := s.copies.filter (fun c => c.2.wg != id), colls := s.colls.filter (fun c => c.2.wg != id) }
  let s := s.updCore w.core (fun k => { k with
    trq := k.trq.filter (fun e => !w.slots.contains e.slot),
    trqHeld := match k.trqHeld with
      | some e => if w.slots.contains e.slot then none else some e
      | none => none })
  s.freeWg id

/-- NODE_DISCARD (R422, R423). -/
def execNodeDiscard (uid : Nat) (s : State) : Out :=
  match s.launches.find uid with
  | none => .next s
  | some l =>
    if l.rstate ≠ 2 then .next s
    else if l.retries ≥ 3 then .next (s.killCtx l.ctx)
    else
      let s := (s.wgs.filter (fun w => w.2.uid == uid)).foldl (fun s w => s.dropWg w.1) s
      let s := s.restoreProv uid
      let v := s.reg 0x706000
      let s := s.setReg 0x706000 (setBits v 31 0 (satAdd 32 (bits v 31 0) 1))
      let (s, _) := ctlWrite 10 l.ctx false false (l.recVA.toNat + 109) [BitVec.ofNat 8 (l.retries + 1)] s
      .next { s with launches := s.launches.upd uid (fun l => { l with retries := l.retries + 1, rstate := 0, next := 0, finished := [], reported := 0,
                                                                        cluster := none, clCores := [], since := s.cycle }) }

end Sys2Proof.Machine
end

