-- ==== Sys2Proof/Machine/Float.lean ====
section
/-! DEFINITION. Floating-point instructions, 0x40 to 0x4F (R247 to R256). -/

namespace Sys2Proof.Machine

/-- The format of a type code (R247). -/
def typeFmt (t : Nat) : Fmt := match t with | 0 => f32 | 1 => f16 | _ => bf16

/-- Element i of a register (R71). -/
def elem (t : Nat) (w : Word) (i : Nat) : Nat := if t = 0 then w.toNat else bits w.toNat (16 * i + 15) (16 * i)

/-- Each element on its own (R247); flags of both elements merge. -/
def perElem (t : Nat) (f : Nat → Nat × Nat) : LaneRes :=
  if t = 0 then { vals := [BitVec.ofNat 32 (f 0).1], flags := (f 0).2 }
  else { vals := [BitVec.ofNat 32 ((f 0).1 + (f 1).1 * 65536)], flags := (f 0).2 ||| (f 1).2 }

/-- A two-operand instruction by element; the pipes are units 0 to 7 (log 19). -/
def flt2 (i : Instr) (d a b : VReg) (t : BitVec 4) (k : ShKind) (f : Fmt → Nat → Nat → Nat → Nat × Nat) (s : State) : Out :=
  runUnit i (instrUses i) (fun c =>
    vopF c d 1 (ab1 a b) 0 k false (fun l =>
      perElem t.toNat (fun k => f (typeFmt t.toNat) c.rm (elem t.toNat (c.rv a l) k) (elem t.toNat (c.rv b l) k)))) s

def execFadd (p : Option Pfx) (d a b : VReg) (t : BitVec 4) (s : State) : Out := flt2 (.fadd p d a b t) d a b t (.fp (typeFmt t.toNat)) fpAdd s
def execFsub (p : Option Pfx) (d a b : VReg) (t : BitVec 4) (s : State) : Out := flt2 (.fsub p d a b t) d a b t (.fp (typeFmt t.toNat)) fpSub s
def execFmul (p : Option Pfx) (d a b : VReg) (t : BitVec 4) (s : State) : Out := flt2 (.fmul p d a b t) d a b t (.fp (typeFmt t.toNat)) fpMul s

/-- FFMA (R237, R248). -/
def execFfma (p : Option Pfx) (d a b : VReg) (t : BitVec 4) (s : State) : Out :=
  let i := Instr.ffma p d a b t
  let ad := addend p d 1
  runUnit i (instrUses i) (fun c =>
    vopF c d 1 (ab1 a b ++ [ad]) 0 (.fp (typeFmt t.toNat)) false (fun l =>
      perElem t.toNat (fun k => fpFma (typeFmt t.toNat) c.rm (elem t.toNat (c.rv a l) k) (elem t.toNat (c.rv b l) k)
        (elem t.toNat (c.rv ad.reg l) k)))) s

/-- FMIN, FMAX, FMINP, FMAXP (R249). -/
def execFmin (p : Option Pfx) (d a b : VReg) (t : BitVec 4) (s : State) : Out :=
  flt2 (.fmin p d a b t) d a b t (.bits (typeFmt t.toNat).width) (fun f _ v w => fpMin f false v w) s
def execFmax (p : Option Pfx) (d a b : VReg) (t : BitVec 4) (s : State) : Out :=
  flt2 (.fmax p d a b t) d a b t (.bits (typeFmt t.toNat).width) (fun f _ v w => fpMin f true v w) s
def execFminp (p : Option Pfx) (d a b : VReg) (t : BitVec 4) (s : State) : Out :=
  flt2 (.fminp p d a b t) d a b t (.bits (typeFmt t.toNat).width) (fun f _ v w => fpMinP f false v w) s
def execFmaxp (p : Option Pfx) (d a b : VReg) (t : BitVec 4) (s : State) : Out :=
  flt2 (.fmaxp p d a b t) d a b t (.bits (typeFmt t.toNat).width) (fun f _ v w => fpMinP f true v w) s

/-- `mop` with the shadow check of R263 (R264). -/
def mopF (c : Ctx) (m : Nat) (us : List VUse) (f : Nat → Bool × Nat) : Res :=
  let checked := (lanesOf c.act).filter (fun l => !c.isHelper (c.lid l) && !c.psnOf us l)
  let word := fun l => [BitVec.ofNat 32 (b2n (f l).1)]
  let main := fun l => if c.isHelper (c.lid l) then word l else c.shadowMain (.bits 1) l (word l)
  let bad := checked.filter (fun l => c.shadowBad (.bits 1) l (word l))
  let hold := withPartners c.q.paired (laneMask (bad.map (c.lid ·)))
  let r := mop { c with act := c.act &&& ~~~hold } m us (fun l => ((main l).headD 0 != 0, (f l).2))
  { r with s := c.noteShadow 0 checked bad r.s, traps := r.traps ++ bad.map (fun l => c.shadowTrap 0 us l ((main l).headD 0)) }

/-- FCMP (R250): element 0 for the packed types. -/
def execFcmp (p : Option Pfx) (m : BitVec 3) (cc : BitVec 4) (a b : VReg) (x : BitVec 4) (s : State) : Out :=
  let i := Instr.fcmp p m cc a b x
  runUnit i (instrUses i) (fun c =>
    mopF c m.toNat (ab1 a b) (fun l =>
      fpCmp (typeFmt x.toNat) cc.toNat (elem x.toNat (c.rv a l) 0) (elem x.toNat (c.rv b l) 0))) s

/-- FCLASS (R251). -/
def execFclass (p : Option Pfx) (d a : VReg) (t : BitVec 4) (s : State) : Out :=
  let i := Instr.fclass p d a t
  runUnit i (instrUses i) (fun c =>
    vopF c d 1 [⟨.A, a, 1⟩] 0 (.bits (typeFmt t.toNat).width) false (fun l =>
      perElem t.toNat (fun k => (fpClass (typeFmt t.toNat) (elem t.toNat (c.rv a l) k), 0)))) s

/-- FRND (R252). -/
def execFrnd (p : Option Pfx) (d a : VReg) (n : BitVec 7) (t : BitVec 4) (s : State) : Out :=
  let i := Instr.frnd p d a n t
  runUnit i (instrUses i) (fun c =>
    let rm := if n == 7 then bits c.p.fpc.toNat 2 0 else n.toNat
    vopF c d 1 [⟨.A, a, 1⟩] 0 (.fp (typeFmt t.toNat)) false (fun l =>
      perElem t.toNat (fun k => fpRnd (typeFmt t.toNat) rm (elem t.toNat (c.rv a l) k)))) s

/-- FSCALB (R253). -/
def execFscalb (p : Option Pfx) (d a b : VReg) (t : BitVec 4) (s : State) : Out :=
  flt2 (.fscalb p d a b t) d a b t (.fp (typeFmt t.toNat)) (fun f rm v w => fpScalb f rm v (sgn (if t == 0 then 32 else 16) w)) s

/-- FABS FNEG FNABS FCPSGN (R254). -/
def execFabs (p : Option Pfx) (d a : VReg) (s : State) : Out := int1 (.fabs p d a) d a (fun v => v &&& 0x7FFFFFFF) s
def execFneg (p : Option Pfx) (d a : VReg) (s : State) : Out := int1 (.fneg p d a) d a (fun v => v ^^^ 0x80000000) s
def execFnabs (p : Option Pfx) (d a : VReg) (s : State) : Out := int1 (.fnabs p d a) d a (fun v => v ||| 0x80000000) s
def execFcpsgn (p : Option Pfx) (d a b : VReg) (s : State) : Out :=
  int2 (.fcpsgn p d a b) d a b (fun v w => (v &&& 0x7FFFFFFF) ||| (w &&& 0x80000000)) s

/-- FDOT2 (R255). -/
def execFdot2 (p : Option Pfx) (d a b : VReg) (t : BitVec 4) (s : State) : Out :=
  let i := Instr.fdot2 p d a b t
  let ad := addend p d 1
  runUnit i (instrUses i) (fun c =>
    vopF c d 1 (ab1 a b ++ [ad]) 0 (.fp f32) false (fun l =>
      let e := fun r k => elem 1 (c.rv r l) k
      let r := fpDot2 (typeFmt t.toNat) c.rm (e a 0) (e a 1) (e b 0) (e b 1) (c.rv ad.reg l).toNat
      { vals := [BitVec.ofNat 32 r.1], flags := r.2 })) s

/-- FCLAMP (R249): fmin(fmax(A, B), C). -/
def execFclamp (p : Option Pfx) (d a b : VReg) (t : BitVec 4) (s : State) : Out :=
  let i := Instr.fclamp p d a b t
  let ad := addend p d 1
  runUnit i (instrUses i) (fun c =>
    vopF c d 1 (ab1 a b ++ [ad]) 0 (.bits (typeFmt t.toNat).width) false (fun l =>
      perElem t.toNat (fun k =>
        let f := typeFmt t.toNat
        let m := fpMin f true (elem t.toNat (c.rv a l) k) (elem t.toNat (c.rv b l) k)
        let r := fpMin f false m.1 (elem t.toNat (c.rv ad.reg l) k)
        (r.1, m.2 ||| r.2)))) s

/-- PACK (R256). -/
def execPack (p : Option Pfx) (d a b : VReg) (x : BitVec 4) (s : State) : Out :=
  let i := Instr.pack p d a b x
  runUnit i (instrUses i) (fun c =>
    vopF c d 1 (ab1 a b) 0 (.fp (fpCode (x.toNat + 1))) false (fun l =>
      let f := fpCode (x.toNat + 1)
      let r0 := roundFmt f c.rm c.pfx.sat (f32.dec (c.rv a l).toNat)
      let r1 := roundFmt f c.rm c.pfx.sat (f32.dec (c.rv b l).toNat)
      { vals := [BitVec.ofNat 32 (r0.1 + r1.1 * 2 ^ f.width)], flags := r0.2 ||| r1.2 })) s

end Sys2Proof.Machine
end

