-- ==== Sys2Proof/Machine/Sfu.lean ====
section
/-! DEFINITION. Division, square root, the special functions and conversions, 0x50 to 0x55 (R257 to R262). The special functions are evaluated in
256-bit fixed point, far beyond what the nearest f32 value needs (log 11). -/

namespace Sys2Proof.Machine

/-! ## Fixed-point functions: a number v stands for v / 2^256 -/

def fxP : Nat := 256
def fxOne : Nat := 2 ^ fxP

/-- exp t for 0 ≤ t < 1. -/
def fxExp (t : Nat) : Nat :=
  ((List.range 70).foldl (fun (a : Nat × Nat) k => (a.1 + a.2, a.2 * t / (k + 1) / fxOne)) (0, fxOne)).1

/-- Sum over k < n of w^(2k+1) / (2k+1), alternating when `alt`: atan or atanh of w. -/
def fxAtan (alt : Bool) (n w P : Nat) : Int :=
  ((List.range n).foldl (fun (a : Int × Nat) k =>
    let term : Int := (a.2 / (2 * k + 1) : Nat)
    (if alt && k % 2 == 1 then a.1 - term else a.1 + term, a.2 * w / 2 ^ P * w / 2 ^ P)) (0, w)).1

/-- ln y for 1 ≤ y < 2. -/
def fxLn (y : Nat) : Nat := 2 * (fxAtan false 90 ((y - fxOne) * fxOne / (y + fxOne)) fxP).toNat

/-- ln 2. -/
def fxLn2 : Nat := 2 * (fxAtan false 90 (fxOne / 3) fxP).toNat

/-- Pi with 448 fraction bits (Machin). -/
def piHP : Nat := (16 * fxAtan true 120 (2 ^ 480 / 5) 480 - 4 * fxAtan true 60 (2 ^ 480 / 239) 480).toNat / 2 ^ 32

/-- sin and cos of 0 ≤ t < 1.6. -/
def fxSin (t : Nat) : Nat :=
  ((List.range 40).foldl (fun (a : Int × Nat) k =>
    (if k % 2 == 1 then a.1 - (a.2 : Int) else a.1 + a.2, a.2 * t / fxOne * t / fxOne / ((2 * k + 2) * (2 * k + 3)))) ((0 : Int), t)).1.toNat
def fxCos (t : Nat) : Nat :=
  ((List.range 40).foldl (fun (a : Int × Nat) k =>
    (if k % 2 == 1 then a.1 - (a.2 : Int) else a.1 + a.2, a.2 * t / fxOne * t / fxOne / ((2 * k + 1) * (2 * k + 2)))) ((0 : Int), fxOne)).1.toNat

/-- m 2^e as a fixed-point number with P fraction bits, rounded down. -/
def toFx (P m : Nat) (e : Int) : Nat := (roundAt 1 false m e (-(P : Int))).1

/-- exp(-t) for t = m 2^e ≥ 0, in fixed point; 0 once t reaches 256. -/
def fxExpNeg (m : Nat) (e : Int) : Nat :=
  if (Nat.log2 m : Int) + e ≥ 8 ∧ m ≠ 0 then 0
  else
    let t := toFx fxP m e
    fxOne * fxOne / fxExp (t % fxLn2) / 2 ^ (t / fxLn2)

/-- An inexact result: v / 2^256 with a last bit that keeps it from being exact; rounded to nearest, NX raised, UF when subnormal or zero (R258). -/
def fxRound (s : Bool) (v : Nat) (e : Int) : Nat × Nat :=
  let r := roundFmt f32 0 false (.fin s (2 * v + 1) (e - fxP - 1))
  (r.1, r.2 ||| fNX)

/-! ## The functions (R258, R259) -/

def sExp2 (rm : Nat) (s : Bool) (m : Nat) (e : Int) : Nat × Nat :=
  if (Nat.log2 m : Int) + e ≥ 10 ∧ m ≠ 0 then
    -- beyond 2^10 every operand is integral or overflows and vanishes like one
    if e ≥ 0 ∨ m % 2 ^ (-e).toNat = 0 then roundFmt f32 rm false (.fin false 1 (if s then -4096 else 4096))
    else fxRound false fxOne (if s then -4096 else 4096)
  else
    let x := toFx fxP m e
    let n : Int := if s then -((x / fxOne : Nat) : Int) else (x / fxOne : Nat)
    let fr := x % fxOne
    if m = 0 ∨ (fr = 0 ∧ (e ≥ 0 ∨ m % 2 ^ (-e).toNat = 0)) then roundFmt f32 rm false (.fin false 1 n)
    else if s then fxRound false (fxExp ((fxOne - fr) * fxLn2 / fxOne)) (n - 1)
    else fxRound false (fxExp (fr * fxLn2 / fxOne)) n

def sLog2 (rm : Nat) (m : Nat) (e : Int) : Nat × Nat :=
  let k := Nat.log2 m
  let E : Int := k + e
  if m = 2 ^ k then roundFmt f32 rm false (intVal E)
  else
    let y := m * fxOne / 2 ^ k
    let v : Int := E * fxOne + (fxLn y * fxOne / fxLn2 : Nat)
    fxRound (decide (v < 0)) v.natAbs 0

/-- sin (q = 0) and cos (q = 1) of a finite operand. -/
def sTrig (cosine s : Bool) (m : Nat) (e : Int) : Nat × Nat :=
  let x := toFx 448 m e
  let h := piHP / 2
  let r := x % h / 2 ^ 192
  let k := x / h % 4 + (if cosine then 1 else 0)
  let v := if k % 2 = 0 then fxSin r else fxCos r
  fxRound ((decide (k % 4 ≥ 2)) != (s && !cosine)) v 0

def sRcp (rm : Nat) (s : Bool) (m : Nat) (e : Int) : Nat × Nat :=
  if m = 2 ^ Nat.log2 m then roundFmt f32 rm false (quot s 1 0 m e) else roundFmt f32 0 false (quot s 1 0 m e)

def sRsq (rm : Nat) (m : Nat) (e : Int) : Nat × Nat :=
  let k := Nat.log2 m
  if m = 2 ^ k ∧ ((k : Int) + e) % 2 = 0 then roundFmt f32 rm false (.fin false 1 (-(((k : Int) + e) / 2)))
  else match rootOf m e with
    | .fin _ q qe => let r := roundFmt f32 0 false (quot false 1 0 q qe); (r.1, r.2 ||| fNX)
    | _ => (0, 0)

def sTanh (s : Bool) (m : Nat) (e : Int) : Nat × Nat :=
  let x := fxExpNeg m (e + 1)
  fxRound s ((fxOne - x) * fxOne / (fxOne + x)) 0

def sSigm (rm : Nat) (s : Bool) (m : Nat) (e : Int) : Nat × Nat :=
  if m = 0 then roundFmt f32 rm false (.fin false 1 (-1))
  else
    let x := fxExpNeg m e
    fxRound false ((if s then x else fxOne) * fxOne / (fxOne + x)) 0

/-- One special function of an f32 operand (R258, R259); codes as in R46's map of 0x52. -/
def sfu (n rm a : Nat) : Nat × Nat :=
  let nanv := invalid f32
  let one := 0x3F800000
  let half := 0x3F000000
  let inf := 0x7F800000
  let neg := 0x80000000
  match f32.dec a with
  | .nan s sig fr fb => nanTo f32 s sig fr fb
  | .inf s =>
    match n with
    | 0 => (if s then 0 else inf, 0)
    | 1 => if s then nanv else (inf, 0)
    | 2 => nanv
    | 3 => nanv
    | 4 => (if s then neg else 0, 0)
    | 5 => if s then nanv else (0, 0)
    | 6 => (if s then neg + one else one, 0)
    | _ => (if s then 0 else one, 0)
  | .fin s m e =>
    if m = 0 then
      match n with
      | 0 => (one, 0)
      | 1 => (neg + inf, fDZ)
      | 2 => (a, 0)
      | 3 => (one, 0)
      | 4 => (if s then neg + inf else inf, fDZ)
      | 5 => (if s then neg + inf else inf, fDZ)
      | 6 => (a, 0)
      | _ => (half, 0)
    else
      match n with
      | 0 => sExp2 rm s m e
      | 1 => if s then nanv else sLog2 rm m e
      | 2 => sTrig false s m e
      | 3 => sTrig true s m e
      | 4 => sRcp rm s m e
      | 5 => if s then nanv else sRsq rm m e
      | 6 => sTanh s m e
      | _ => sSigm rm s m e

/-- A one-operand f32 function on the special-function unit (unit 8 of R416). -/
def sfu1 (i : Instr) (d a : VReg) (f : Nat → Nat → Nat × Nat) (s : State) : Out :=
  runUnit i (instrUses i) (fun c =>
    vopF c d 1 [⟨.A, a, 1⟩] 8 (.fp f32) true (fun l =>
      let r := f c.rm (c.rv a l).toNat
      { vals := [BitVec.ofNat 32 r.1], flags := r.2 })) s

def execFdiv (p : Option Pfx) (d a b : VReg) (la : BitVec 4) (s : State) : Out :=
  let i := Instr.fdiv p d a b la
  runUnit i (instrUses i) (fun c =>
    vopF c d 1 (ab1 a b) 8 (.fp f32) true (fun l =>
      let r := fpDiv f32 c.rm (c.rv a l).toNat (c.rv b l).toNat
      { vals := [BitVec.ofNat 32 r.1], flags := r.2 })) s

def execFsqrt (p : Option Pfx) (d a : VReg) (la : BitVec 4) (s : State) : Out := sfu1 (.fsqrt p d a la) d a (fpSqrt f32) s
def execFexp2 (p : Option Pfx) (d a : VReg) (la : BitVec 4) (s : State) : Out := sfu1 (.fexp2 p d a la) d a (sfu 0) s
def execFlog2 (p : Option Pfx) (d a : VReg) (la : BitVec 4) (s : State) : Out := sfu1 (.flog2 p d a la) d a (sfu 1) s
def execFsin (p : Option Pfx) (d a : VReg) (la : BitVec 4) (s : State) : Out := sfu1 (.fsin p d a la) d a (sfu 2) s
def execFcos (p : Option Pfx) (d a : VReg) (la : BitVec 4) (s : State) : Out := sfu1 (.fcos p d a la) d a (sfu 3) s
def execFrcp (p : Option Pfx) (d a : VReg) (la : BitVec 4) (s : State) : Out := sfu1 (.frcp p d a la) d a (sfu 4) s
def execFrsq (p : Option Pfx) (d a : VReg) (la : BitVec 4) (s : State) : Out := sfu1 (.frsq p d a la) d a (sfu 5) s
def execFtanh (p : Option Pfx) (d a : VReg) (la : BitVec 4) (s : State) : Out := sfu1 (.ftanh p d a la) d a (sfu 6) s
def execFsigm (p : Option Pfx) (d a : VReg) (la : BitVec 4) (s : State) : Out := sfu1 (.fsigm p d a la) d a (sfu 7) s

/-! ## Conversions -/

/-- Width and signedness of an integer code, as the CVTI destination codes list them (R47). -/
def intCode (n : Nat) : Nat × Bool :=
  (match n / 2 with | 0 => 32 | 1 => 64 | 2 => 16 | _ => 8, n % 2 == 0)

/-- The source of a CVTF (R260): an FP value, or an integer of the low bits or of the pair. -/
def cvtSrc (src : Nat) (w : DWord) : Fv :=
  if src ≤ 5 then (fpCode src).dec (w.toNat % 2 ^ (fpCode src).width)
  else
    let k := intCode (src - 6)
    intVal (if k.2 then sgn k.1 w.toNat else (w.toNat % 2 ^ k.1 : Nat))

/-- CVTF (R86, R87, R260). An infinite operand under {sat} becomes the largest number (R80), where R86 calls the conversion exact too (log 64). -/
def execCvtf (p : Option Pfx) (d a : VReg) (src : BitVec 4) (dst : BitVec 3) (la : BitVec 4) (s : State) : Out :=
  let i := Instr.cvtf p d a src dst la
  runUnit i (instrUses i) (fun c =>
    let n := cvtfSrcN src
    vopF c d 1 [⟨.A, a, n⟩] 8 (.fp (fpCode dst.toNat)) true (fun l =>
      let w : DWord := if n = 2 then c.rv2 a l else (c.rv a l).setWidth 64
      let r := roundFmt (fpCode dst.toNat) c.rm c.pfx.sat (cvtSrc src.toNat w)
      { vals := [BitVec.ofNat 32 r.1], flags := r.2 })) s

/-- CVTI (R88, R261). -/
def execCvti (p : Option Pfx) (d a : VReg) (src dst : BitVec 3) (sat : BitVec 1) (la : BitVec 4) (s : State) : Out :=
  let i := Instr.cvti p d a src dst sat la
  runUnit i (instrUses i) (fun c =>
    vopF c d (cvtiDstN dst) [⟨.A, a, 1⟩] 8 (.bits (32 * cvtiDstN dst)) true (fun l =>
      let k := intCode dst.toNat
      let r := fpToInt c.rm k.1 k.2 (sat == 1) (cvtSrc src.toNat ((c.rv a l).setWidth 64))
      if k.1 = 64 then { vals := (two (BitVec.ofNat 64 r.1)).vals, flags := r.2 }
      else { vals := [if k.2 then BitVec.ofInt 32 (sgn k.1 r.1) else BitVec.ofNat 32 r.1], flags := r.2 })) s

/-- Scale and reciprocal of QSCALE (R262), with the flag it raises. -/
def qscale (f : Fmt) (sat : Bool) (a : Nat) : Nat × Nat × Nat :=
  match f32.dec a with
  | .nan _ sig _ _ => (0x7FC0, 0x7FC0, if sig then fNV else 0)
  | .inf _ => (0x7F80, 0, 0)
  | .fin _ m e =>
    if m = 0 then (0x3F80, 0x3F80, 0)
    else
      -- M = mm 2^me; compare m 2^e with M 2^k by the exponents first, then by the fractions at one exponent
      match f.dec f.maxCode with
      | .fin _ mm me =>
        let la := Nat.log2 m
        let lm := Nat.log2 mm
        let k0 : Int := (la : Int) + e - (lm : Int) - me
        let x := m * 2 ^ lm
        let y := mm * 2 ^ la
        let k := if sat then (if y ≤ x then k0 else k0 - 1) else (if x ≤ y then k0 else k0 + 1)
        let k := clampI (-126) 126 k
        ((k + 127).toNat * 128, (127 - k).toNat * 128, 0)
      | _ => (0, 0, 0)

/-- QSCALE (R262). -/
def execQscale (p : Option Pfx) (d a : VReg) (fmt : BitVec 3) (la : BitVec 4) (s : State) : Out :=
  let i := Instr.qscale p d a fmt la
  runUnit i (instrUses i) (fun c =>
    vopF c d 1 [⟨.A, a, 1⟩] 8 (.fp bf16) true (fun l =>
      let r := qscale (fpCode fmt.toNat) c.pfx.sat (c.rv a l).toNat
      { vals := [BitVec.ofNat 32 (r.1 + r.2.1 * 65536)], flags := r.2.2 })) s

end Sys2Proof.Machine
end

