-- ==== Sys2Proof/Machine/Matrix.lean ====
section
/-! DEFINITION. The matrix unit (R89 to R94, R266 to R283): MMA and its queue, the accumulator instructions, power gating; and the completion of
instructions in flight (R39, R143, R268, R293). -/

namespace Sys2Proof.Machine

/-! ## Accumulator tiles (R267) -/

def Core.accT (k : Core) (a : Nat) : AccTile := (k.acc.find a).getD {}

def AccTile.cell (t : AccTile) (r c : Nat) : Nat := ((t.cells.find (64 * r + c)).getD 0).toNat

def AccTile.set (t : AccTile) (r c v : Nat) : AccTile :=
  let x : BitVec 48 := BitVec.ofNat 48 v
  { t with cells := if x = 0 then t.cells.del (64 * r + c) else t.cells.ins (64 * r + c) x }

def AccTile.row (t : AccTile) (r : Nat) : List Nat := (List.range 64).map (fun c => t.cell r c)

def AccTile.mapRow (t : AccTile) (r : Nat) (f : Nat → Nat → Nat) : AccTile :=
  (List.range 64).foldl (fun t c => t.set r c (f c (t.cell r c))) t

def AccTile.psn (t : AccTile) (r : Nat) : Bool := t.pmask.lane r
def AccTile.setPsn (t : AccTile) (r : Nat) (b : Bool) : AccTile := { t with pmask := if b then t.pmask ||| laneMask [r] else t.pmask &&& ~~~(laneMask [r]) }

def State.setAcc (s : State) (c a : Nat) (t : AccTile) : State := s.updCore c (fun k => { k with acc := k.acc.ins a t })

/-- Does an instruction in flight on the core name the tile, or, for what does not queue, an MMA (R268)? -/
def accBusy (s : State) (c a : Nat) (mma : Bool) : Bool :=
  (s.slotsOf c).any (fun sl => (s.pack c sl).toks.any (fun t => t.acc == some a)) || (!mma && (s.core c).mmaQ.any (fun e => e.acc == a))

/-! ## Conversions (R89) -/

/-- A48 to a format, RNE; `sat` for e4m3 and e5m2. -/
def a48To (f : Fmt) (sat : Bool) (x : Nat) : Nat := (roundFmt f 0 sat (a48.dec x)).1

/-- A format to A48, exactly. -/
def toA48 (f : Fmt) (x : Nat) : Nat := (roundFmt a48 0 false (f.dec x)).1

/-- A 48-bit integer clamped to i32. -/
def clampI32 (x : Int) : Nat := wrapTo 32 (max (-(2 ^ 31 : Nat)) (min ((2 ^ 31 : Nat) - 1) x))

/-! ## MMA at issue (R270 to R272) -/

def mmaEmul (ty : Nat) : Bool := ty == 2

/-- MMA (R272). -/
def execMma (acc : BitVec 6) (ty kch : BitVec 3) (asc : VReg) (la : BitVec 4) (zf : BitVec 1) (bsel : BitVec 2) (bsc : BitVec 5) (s : State) : Out :=
  let i := Instr.mma acc ty kch asc la zf bsel bsc
  runUnit i (instrUses i) (fun c =>
    let k := c.s.core c.u.core
    let a := acc.toNat
    if k.mmaQ.length ≥ 16 || accBusy c.s c.u.core a true then { s := c.s, stall := some 6 }
    else if (k.accT a).int != (ty == 5) then { s := c.s, traps := groupTrap c tILLOP 1 }
    else
      let scaled := decide (ty.toNat ≤ 2)
      let nb := if scaled then mmaNB ty kch else 0
      let at' := fun (b : Nat) => b + bsel.toNat
      let sa := fun (l : Nat) => (List.range nb).map (fun b =>
        let w := (c.cell (asc.toNat + at' b / 2) l).val
        if at' b % 2 = 0 then w.setWidth 16 else (w >>> 16).setWidth 16)
      let sp := (lanesOf c.act).filter (fun l => scaled && c.psn asc ((nb - 1 + bsel.toNat) / 2 + 1) l)
      let sb := (List.range nb).map (fun b => ((c.p.sreg (bsc.toNat + at' b / 4)) >>> (16 * (at' b % 4))).setWidth 16)
      let e : MmaEntry := { wg := c.p.wg, slot := c.u.slot, acc := a, ty := ty.toNat, kch := kch.toNat + 1, zf := zf == 1, u := c.act, ownAt := c.s.ownSteps,
                            sa := lanes32.map (fun l => if c.act.lane l then sa l else []), sb := sb, sp := laneMask sp, paired := c.q.paired }
      if c.act = 0 then { s := c.s } else { s := c.s.updCore c.u.core (fun k => { k with mmaQ := k.mmaQ ++ [e] }) }) s

/-! ## The arithmetic of an entry (R90 to R94) -/

/-- Elements of 256 bytes under a type. -/
def chunkElems (ty : Nat) (bs : List Byte) : List Nat :=
  if ty = 2 then bs.flatMap (fun b => [b.toNat % 16, b.toNat / 16])
  else if ty = 3 ∨ ty = 4 then (List.range 128).map (fun i => leNat ((bs.drop (2 * i)).take 2))
  else bs.map BitVec.toNat

def mmaFmt (ty : Nat) : Fmt := match ty with | 0 => e4m3 | 1 => e5m2 | 2 => e2m1 | 3 => bf16 | _ => f16

/-- The exact sum of products of a block (R91, R92); none stands for NaN. -/
def blockSum (f : Fmt) (a b : List Nat) : Option Fv :=
  let xs := (a.zip b).map (fun x => (f.dec x.1, f.dec x.2))
  if xs.any (fun x => x.1.isNan || x.2.isNan) then none
  else match sumVal 0 (some (.fin false 0 0) :: xs.map (fun x => mulVal x.1 x.2)) with
    | some (.fin s m e) => if m = 0 then some (.fin false 0 0) else some (.fin s m e)
    | r => r

/-- Is a scale a zero? -/
def scaleZero (x : Half) : Bool := x.toNat % 2 ^ 15 == 0

/-- The promotion of a scaled block (R91, R92), as an A48 code. -/
def promote (sa sb : Half) (sum : Option Fv) : Nat :=
  if scaleZero sa || scaleZero sb then 0
  else
    let x := bf16.dec sa.toNat
    let y := bf16.dec sb.toNat
    match sum with
    | none => a48.canon
    | some v =>
      if x.isNan || y.isNan then a48.canon
      else match mulVal x y with
        | none => a48.canon
        | some z => match mulVal z v with
          | none => a48.canon
          | some w => (roundFmt a48 0 false w).1

/-- One block of one cell. -/
def blockStep (ty : Nat) (sa sb : Half) (a b : List Nat) (cell : Nat) : Nat :=
  if ty = 5 then wrapTo 48 (sgn 48 cell + ((a.zip b).map (fun x => sgn 8 x.1 * sgn 8 x.2)).sum)
  else
    let sm := blockSum (mmaFmt ty) a b
    let c := if ty ≤ 2 then promote sa sb sm
      else match sm with
        | none => a48.canon
        | some v => (roundFmt a48 0 false v).1
    (fpAdd a48 0 cell c).1

/-- Elements per block (R90). -/
def blockLen (ty : Nat) : Nat := 128 + (if ty = 5 then 128 else 0)

/-- All blocks of one chunk for one cell, from block number b0 on. -/
def chunkStep (ty : Nat) (sa sb : List Half) (b0 : Nat) (a b : List Byte) (cell : Nat) : Nat :=
  let ea := chunkElems ty a
  let eb := chunkElems ty b
  let n := blockLen ty
  (List.range (ea.length / n)).foldl (fun v k =>
    blockStep ty (sa.getD (b0 + k) 0) (sb.getD (b0 + k) 0) ((ea.drop (n * k)).take n) ((eb.drop (n * k)).take n) v) cell

/-- Blocks per chunk. -/
def chunkBlocks (ty : Nat) : Nat := match ty with | 0 => 2 | 1 => 2 | 2 => 4 | _ => 1

def rowBytes (r : Nat) (bs : List Byte) : List Byte := (bs.drop (256 * r)).take 256

/-- Is row r of a position of A poisoned; is a position of B (R176)? -/
def rowPoisoned (r : Nat) (ps : List Bool) : Bool := ((ps.drop (4 * r)).take 4).any id

/-- A started entry's effect on one row (R273, R420). -/
def mmaRow (e : MmaEntry) (ty : Nat) (pa pb : List (List Byte)) (poA poB : List (List Bool)) (t : AccTile) (r : Nat) : AccTile :=
  let ra := if e.paired then r % 16 else r
  let nb := chunkBlocks ty
  let sa := e.sa.getD r []
  let t := if e.zf then (t.mapRow r (fun _ _ => 0)).setPsn r false else t
  let t := t.mapRow r (fun j v => ((pa.zip pb).zipIdx).foldl (fun v x =>
    chunkStep ty sa e.sb (nb * x.2) (rowBytes ra x.1.1) (rowBytes j x.1.2) v) v)
  let other := e.paired && (t.psn ((r + 16) % 32))
  if poA.any (rowPoisoned ra) || poB.any (fun p => p.any id) || e.sp.lane r || (e.paired && e.sp.lane ((r + 16) % 32)) || other then t.setPsn r true else t

def mmaRows (e : MmaEntry) (ty : Nat) (pa pb : List (List Byte)) (poA poB : List (List Bool)) (t : AccTile) : AccTile :=
  (lanesOf e.u).foldl (mmaRow e ty pa pb poA poB) t

/-! ## The queue (R273, R275, R281, R282) -/

/-- May the head of the queue start? -/
def mmaCanStart (s : State) (c : Nat) : Option MmaEntry :=
  let k := s.core c
  match k.mmaQ with
  | [] => none
  | e :: _ =>
    let head := fun (x : Strm) => match x.q with | p :: _ => p.data.isSome | [] => false
    if e.popped.isNone && decide (e.kch ≤ k.strA.avail) && decide (e.kch ≤ k.strB.avail) && head k.strA && head k.strB then some e else none

/-- Pop n positions of a stream. -/
def popN (c : Nat) (b : Bool) : Nat → State → State × List (List Byte × List Bool)
  | 0, s => (s, [])
  | n + 1, s =>
    let (s, d) := popPos s c b
    let (s, r) := popN c b n s
    (s, d :: r)

/-- MMA_ENTRY_START (R273, R275, R282): the entry pops its positions; an emulated one asks the supervisor core (R405). -/
def execMmaEntryStart (c : Nat) (s : State) : Out :=
  match mmaCanStart s c with
  | none => .next s
  | some e =>
    let (s, pa) := popN c false e.kch s
    let (s, pb) := popN c true e.kch s
    let s := s.updCore c (fun k => { k with
      mmaQ := k.mmaQ.modify 0 (fun e => { e with popped := some (pa, pb) }), mxGated := false, mxUsed := s.cycle })
    let s := flushSettle s c
    .next (if mmaEmul e.ty then s.updCore c (fun k => { k with trq := k.trq ++ [{ slot := e.slot, code := 0x0D, ctx := (s.wg e.wg).ctx }] }) else s)

/-- Staged positions of the emulation (R405) as bytes. -/
def stagedPos (k : Core) (b : Bool) (pos : Nat) : List Byte :=
  (List.range (posSize b / 8)).flatMap (fun w => leBytes 8 ((k.emStage.find ((b2n b * 16 + pos) * 2048 + w)).getD 0).toNat)

/-- MMA_ENTRY_COMPLETE (R273, R275): results are written; an emulated entry's come from the staged chunks with the popped positions' poison. -/
def execMmaEntryComplete (c : Nat) (s : State) : Out :=
  let k := s.core c
  match k.mmaQ with
  | [] => .next s
  | e :: rest =>
    match e.popped with
    | none => .next s
    | some (pa, pb) =>
      if mmaEmul e.ty && !e.emul then .next s
      else
        let t := k.accT e.acc
        let em := mmaEmul e.ty
        let da := if em then (List.range (2 * e.kch)).map (stagedPos k false) else pa.map Prod.fst
        let db := if em then (List.range (2 * e.kch)).map (stagedPos k true) else pb.map Prod.fst
        let t := mmaRows e (if em then 0 else e.ty) da db (pa.map Prod.snd) (pb.map Prod.snd) t
        let s := (s.setAcc c e.acc t).updCore c (fun k => { k with mmaQ := rest, mxUsed := s.cycle })
        .next (s.count c 4 (s.wg e.wg).ctx e.kch)

/-- MX_GATE (R282). -/
def execMxGate (c : Nat) (s : State) : Out :=
  let k := s.core c
  let busy := match k.mmaQ with | e :: _ => e.popped.isSome | [] => false
  if k.mxIdle = 0 || k.mxGated || busy || decide (s.cycle < k.mxUsed + k.mxIdle.toNat) then .next s
  else .next (s.updCore c (fun k => { k with mxGated := true }))

/-! ## Accumulator instructions -/

/-- The common form: ordering on the tile (R268), the tag (R269; none: either), then the effect. -/
def accOp (i : Instr) (a : Nat) (tag : Option Bool) (eff : Ctx → AccTile → Res) (s : State) : Out :=
  runUnit i (instrUses i) (fun c =>
    if accBusy c.s c.u.core a false then { s := c.s, stall := some 6 }
    else
      let t := (c.s.core c.u.core).accT a
      if (match tag with | some b => t.int != b | none => false) then { s := c.s, traps := groupTrap c tILLOP 1 }
      else eff c t) s

/-- The new tile stands. -/
def accPut (c : Ctx) (a : Nat) (t : AccTile) : Res := { s := c.s.setAcc c.u.core a t, kind := 3 }

/-- ACCZ (R276). -/
def execAccz (acc : BitVec 6) (x : BitVec 1) (s : State) : Out :=
  accOp (.accz acc x) acc.toNat none (fun c _ => accPut c acc.toNat { int := x == 1 }) s

/-- Compare a cell, or all cells, of a pair's rows (R419). -/
def rowsDiffer (c : Ctx) (t : AccTile) (l : Nat) (cols : List Nat) : Option LTrap :=
  if c.q.paired then
    (cols.find? (fun j => t.cell l j != t.cell (l + 16) j)).map (fun j =>
      { l := l, code := tPAIR, info := pairInfo l (BitVec.ofNat 32 (t.cell l j)) (BitVec.ofNat 32 (t.cell (l + 16) j)) 0 })
  else none

/-- What ACCRD puts in the destination registers (R276). -/
def accRead (int : Bool) (x v : Nat) : List Word :=
  if x = 2 then [BitVec.ofNat 32 v, BitVec.ofNat 32 (v / 2 ^ 32)]
  else if int then [BitVec.ofNat 32 (clampI32 (sgn 48 v))]
  else [BitVec.ofNat 32 (a48To f32 false v)]

def accTag (x : Nat) : Option Bool := if x = 0 then some false else if x = 1 then some true else none

/-- ACCRD (R276): a poisoned row is consumed; its lanes trap when it completes. -/
def execAccrd (d : VReg) (acc col : BitVec 6) (x : BitVec 4) (s : State) : Out :=
  accOp (.accrd d acc col x) acc.toNat (accTag x.toNat) (fun c t =>
    let j := col.toNat
    let df := c.accessors.filterMap (fun l => rowsDiffer c t l [j])
    let ls := c.accessors.filter (fun l => !df.any (fun x => x.l == l))
    let bad := ls.filter (fun l => t.psn l || (c.q.paired && t.psn (l + 16)))
    let s := (ls.filter (fun l => !bad.contains l)).foldl (fun s l =>
      s.updPack c.u.core c.u.slot (fun p =>
        let p := p.writeRegs c.u.depth d.toNat l ((accRead t.int x.toNat (t.cell l j)).map (fun v => { val := v }))
        if c.q.paired then p.writeRegs c.u.depth d.toNat (l + 16) ((accRead t.int x.toNat (t.cell (l + 16) j)).map (fun v => { val := v })) else p)) c.s
    { s := s, traps := df, late := bad.map (fun l => { l := l, code := tPOISON }), kind := 3 }) s

/-- ACCWR (R276). -/
def execAccwr (a : VReg) (acc col : BitVec 6) (x : BitVec 4) (s : State) : Out :=
  accOp (.accwr a acc col x) acc.toNat (accTag x.toNat) (fun c t =>
    accPut c acc.toNat ((lanesOf c.act).foldl (fun t l =>
      let v := (c.rv a l).toNat
      let w := if x = 2 then v + (c.rv2 a l).toNat / 2 ^ 32 % 2 ^ 16 * 2 ^ 32
        else if t.int then wrapTo 48 (sgn 32 v) else toA48 f32 v
      let t := t.set l col.toNat w
      if c.psn a (if x = 2 then 2 else 1) l then t.setPsn l true else t) t)) s

/-- A row operation with an operand lane: each cell by column; an operand's poison goes to the row (R277). -/
def rowOp (c : Ctx) (a : VReg) (acc : Nat) (t : AccTile) (f : Bool → Nat → Nat → Nat) : Res :=
  accPut c acc ((lanesOf c.act).foldl (fun t l =>
    let t := t.mapRow l (fun _ v => f t.int v (c.rv a l).toNat)
    if c.psn a 1 l then t.setPsn l true else t) t)

/-- ACCOP.scale (R277). -/
def execAccopScale (a : VReg) (acc : BitVec 6) (s : State) : Out :=
  accOp (.accopScale a acc) acc.toNat (some false) (fun c t => rowOp c a acc.toNat t (fun _ v x => (fpMul a48 0 v (toA48 f32 x)).1)) s

/-- ACCOP.addrow (R277). -/
def execAccopAddrow (a : VReg) (acc : BitVec 6) (s : State) : Out :=
  accOp (.accopAddrow a acc) acc.toNat none (fun c t => rowOp c a acc.toNat t (fun int v x =>
    if int then wrapTo 48 (sgn 48 v + sgn 32 x) else (fpAdd a48 0 v (toA48 f32 x)).1)) s

/-- exps (R278). -/
def expsCell (cell cc v : Nat) : Nat :=
  let x := a48.dec cell
  let y := f32.dec cc
  let z := f32.dec v
  let posInf := a48.infCode
  if x.isNan || y.isNan || z.isNan then a48.canon
  else match mulVal x y with
  | none => a48.canon
  | some p =>
    if p = .inf true then 0
    else if z = .inf false then 0
    else if p = .inf false || z = .inf true then posInf
    else match addVal 0 p z.neg with
      | none => a48.canon
      | some dv =>
        let xr := (roundFmt f32 0 false dv).1
        match f32.dec xr with
        | .fin sg m e =>
          let ge := fun (n : Nat) => !fvLt (.fin false m e) (.fin false n 0)
          if sg && ge 32 then 0
          else if !sg && ge 128 then posInf
          else
            let q := roundAt 1 false m e 0
            if !q.2 then (roundFmt a48 0 false (.fin false 1 (if sg then -(q.1 : Int) else q.1))).1
            else toA48 f32 (sfu 0 0 xr).1
        | .inf sg => if sg then 0 else posInf
        | .nan _ _ _ _ => a48.canon

/-- ACCOP.exps (R278): c is bits [31:0] of the s register. -/
def execAccopExps (a : VReg) (acc : BitVec 6) (sc : BitVec 5) (s : State) : Out :=
  accOp (.accopExps a acc sc) acc.toNat (some false) (fun c t =>
    rowOp c a acc.toNat t (fun _ v x => expsCell v ((c.p.sreg sc.toNat).toNat % 2 ^ 32) x)) s

/-- ACCOP.maskc (R277); a partner's row follows its lane's. -/
def execAccopMaskc (acc : BitVec 6) (off : BitVec 8) (s : State) : Out :=
  accOp (.accopMaskc acc off) acc.toNat (some false) (fun c t =>
    accPut c acc.toNat ((lanesOf c.act).foldl (fun t l =>
      t.mapRow l (fun j v => if (j : Int) > (c.lid l : Int) + off.toInt then 0xFFE000000000 else v)) t)) s

/-- The maximum of a row (R277). -/
def rowMax (int : Bool) (vs : List Nat) : Nat :=
  match vs with
  | [] => 0
  | v :: r =>
    if int then clampI32 ((r.map (sgn 48)).foldl max (sgn 48 v))
    else if vs.all (fun x => (a48.dec x).isNan) then f32.canon
    else a48To f32 false (r.foldl (fun a b => (fpMin a48 true a b).1) v)

/-- The sum of a row (R277). -/
def rowSum (int : Bool) (vs : List Nat) : Nat :=
  if int then clampI32 ((vs.map (sgn 48)).sum)
  else
    let xs := vs.map a48.dec
    if xs.any Fv.isNan then f32.canon
    else match sumVal 0 (xs.map some) with
      | none => f32.canon
      | some (.fin _ 0 _) => 0
      | some v => (roundFmt f32 0 false v).1

/-- ROWMAX and ROWSUM: a poisoned row marks the destination. -/
def rowRead (c : Ctx) (d : VReg) (t : AccTile) (f : Bool → List Nat → Nat) : Res :=
  { s := c.s.updPack c.u.core c.u.slot (fun p => (lanesOf c.act).foldl (fun p l =>
      p.writeV c.u.depth d.toNat l { val := BitVec.ofNat 32 (f t.int (t.row l)), psn := t.psn l }) p), kind := 3 }

/-- ACCOP.rowmax (R277). -/
def execAccopRowmax (d : VReg) (acc : BitVec 6) (s : State) : Out :=
  accOp (.accopRowmax d acc) acc.toNat none (fun c t => rowRead c d t rowMax) s

/-- ACCOP.rowsum (R277). -/
def execAccopRowsum (d : VReg) (acc : BitVec 6) (s : State) : Out :=
  accOp (.accopRowsum d acc) acc.toNat none (fun c t => rowRead c d t rowSum) s

/-! ## ACCMV (R279, R280) -/

/-- The shared tests of ACCMV in their order: RANGE, tag, BOUNDS, poison (and the pair's rows, R419), the gate; then the effect on the tile's bytes. -/
def accmv (i : Instr) (t a n : Nat) (writer : Bool) (tag : Option Bool) (eff : Ctx → AccTile → Nat → State) (s : State) : Out :=
  runUnit i (instrUses i) (fun c =>
    if accBusy c.s c.u.core a false then { s := c.s, stall := some 1 }
    else if t ≥ c.q.ntiles then tileTrap c 1 t 0
    else
      let w := c.s.wg c.p.wg
      let x := c.s.tile w t
      let at' := (c.s.core c.u.core).accT a
      let df := (lanesOf (c.ig &&& 0xFFFF)).filterMap (fun l => rowsDiffer c at' l (List.range 64))
      if (match tag with | some b => at'.int != b | none => false) then { s := c.s, traps := groupTrap c tILLOP 1 }
      else if x.size * 256 < n then tileTrap c 3 t 0
      else if writer && at'.pmask != 0 then { s := c.s, traps := groupTrap c tPOISON at'.pmask.toNat }
      else if writer && !df.isEmpty then { s := c.s, traps := df }
      else if (if writer then x.st != .empty else !readerOk x) then { s := c.s, stall := some 1 }
      else
        let s := eff c at' (w.tileByte x)
        { s := s.updTile w t (fun x => if writer then { x with st := .filling, err := 0, psn := false } else { x with readers := x.readers + 1 }),
          kind := 3, tile := some (t, writer) }) s

/-- Write bytes of a tile. -/
def tilePut (c : Ctx) (base : Nat) (bs : List Byte) : State :=
  bs.zipIdx.foldl (fun s x => (s.spadTouch c.u.core (base + x.2)).setSpad c.u.core (base + x.2) x.1 false) c.s

/-- Read n bytes of a tile from an offset, with poison. -/
def tileGet (s : State) (core base off n : Nat) : List Byte × Bool :=
  ((List.range n).map (fun k => s.spadByte core (base + off + k)), (List.range n).any (fun k => s.spadPoisoned core (base + off + k)))

def tileTouch (s : State) (core base n : Nat) : State := (List.range ((n + 63) / 64)).foldl (fun s k => s.spadTouch core (base + 64 * k)) s

def mvSize (et : Nat) : Nat := match et with | 0 => 4 | 1 => 2 | 2 => 2 | _ => 1

/-- ACCMV.totile (R279). -/
def execAccmvTotile (t : BitVec 8) (acc : BitVec 6) (et : BitVec 3) (s : State) : Out :=
  let z := mvSize et.toNat
  accmv (.accmvTotile t acc et) t.toNat acc.toNat (2048 * z) true (if et = 0 then none else some false) (fun c x base =>
    tilePut c base ((List.range 32).flatMap (fun i => (x.row i).flatMap (fun v =>
      leBytes z (if x.int then clampI32 (sgn 48 v) else a48To (fpCode et.toNat) (decide (3 ≤ et.toNat)) v))))) s

/-- ACCMV.fromtile (R279). -/
def execAccmvFromtile (t : BitVec 8) (acc : BitVec 6) (et : BitVec 3) (s : State) : Out :=
  let z := mvSize et.toNat
  accmv (.accmvFromtile t acc et) t.toNat acc.toNat (2048 * z) false (if et = 0 then none else some false) (fun c x base =>
    let k := c.u.core
    let s := tileTouch c.s k base (2048 * z)
    let x := (List.range 32).foldl (fun x i =>
      let x := x.mapRow i (fun j _ =>
        let v := leNat (tileGet s k base ((64 * i + j) * z) z).1
        if x.int then wrapTo 48 (sgn 32 v) else toA48 (fpCode et.toNat) v)
      x.setPsn i (tileGet s k base (64 * i * z) (64 * z)).2) x
    s.setAcc k acc.toNat x) s

/-- The save layout of a tile (R280) with a poison mask. -/
def AccTile.saveBytes (x : AccTile) (pm : Word) : List Byte :=
  (List.range 32).flatMap (fun i => (x.row i).flatMap (leBytes 6)) ++ leBytes 4 pm.toNat ++ [BitVec.ofNat 8 (b2n x.int)] ++ List.replicate 59 0

/-- A tile from the save layout; `ps` is the poison of each byte. Every row reads the trailer's block, which holds its own poison bit (R279). -/
def accLoad (bs : List Byte) (ps : List Bool) : AccTile :=
  let pm : Word := BitVec.ofNat 32 (leNat ((bs.drop 12288).take 4))
  (List.range 32).foldl (fun (x : AccTile) i =>
    (x.mapRow i (fun j _ => leNat ((bs.drop (384 * i + 6 * j)).take 6))).setPsn i (pm.lane i || ((ps.drop (384 * i)).take 384).any id || (ps.drop 12288).any id))
    { int := bit (leNat ((bs.drop 12292).take 1)) 0 }

/-- ACCMV.save (R279, R280). -/
def execAccmvSave (t : BitVec 8) (acc : BitVec 6) (s : State) : Out :=
  accmv (.accmvSave t acc) t.toNat acc.toNat 12352 true none (fun c x base => tilePut c base (x.saveBytes 0)) s

/-- ACCMV.load (R279, R280). -/
def execAccmvLoad (t : BitVec 8) (acc : BitVec 6) (s : State) : Out :=
  accmv (.accmvLoad t acc) t.toNat acc.toNat 12352 false none (fun c _ base =>
    let k := c.u.core
    let s := tileTouch c.s k base 12352
    let bs := (List.range 12352).map (fun i => s.spadByte k (base + i))
    let ps := (List.range 12352).map (fun i => s.spadPoisoned k (base + i))
    s.setAcc k acc.toNat (accLoad bs ps)) s

/-! ## Completion -/

/-- An instruction in flight of one of some kinds completes: its registers are free, its tile changes, its trap is raised (R39, R41, R268). -/
def completeTok (core slot id : Nat) (kinds : List Nat) (s : State) : State :=
  let p := s.pack core slot
  match p.toks.find? (fun t => t.id == id && kinds.contains t.kind && t.pend.isNone && !(t.kind == 6 && s.atomrOut id)) with
  | none => s
  | some t =>
    let s := s.updPack core slot (fun p => { p with toks := p.toks.filter (fun x => x.id != id) })
    let s := match t.tile with
      | some (n, true) => s.tileReady p.wg n
      | some (n, false) => s.readerDone p.wg n
      | none => s
    match t.trap with
    | some tr => s.raise core slot tr
    | none => s

/-- MEMORY_ACCESS_COMPLETE (R143). -/
def execMemoryAccessComplete (c slot id : Nat) (s : State) : Out := .next (completeTok c slot id [0] s)

/-- ATOM_RESULT (R293). -/
def execAtomResult (c slot id : Nat) (s : State) : Out := .next (completeTok c slot id [1, 6] s)

/-- LONG_LATENCY_COMPLETE (R39, R264). -/
def execLongLatencyComplete (c slot id : Nat) (s : State) : Out := .next (completeTok c slot id [2] s)

/-- ACCUMULATOR_INSTRUCTION_COMPLETE (R268). -/
def execAccumulatorInstructionComplete (c slot id : Nat) (s : State) : Out := .next (completeTok c slot id [3] s)

end Sys2Proof.Machine
end

