-- ==== Sys2Proof/Machine/Pick.lean ====
section
/-! DEFINITION. Which group of a pack issues (R209 to R212), which pack of a core (R378, R379), which trap is delivered next (R384), breakpoints (R441),
and the charging of idle clocks (R380). -/

namespace Sys2Proof.Machine

/-! ## The group of a pack -/

def maxOf : List Nat → Option Nat
  | [] => none
  | x :: xs => some (xs.foldl max x)

def minKey : List (Nat × Nat) → Option (Nat × Nat)
  | [] => none
  | x :: xs => some (xs.foldl (fun a b => if keyLt b a then b else a) x)

/-- A group that may issue: its lanes, depth and key. -/
structure Grp where
  ig : Word
  depth : Nat
  key : Nat × Nat
  deriving DecidableEq, Repr

/-- The issue group (R210, R211). -/
def Pack.group (p : Pack) : Option Grp :=
  let el := lanes32.filter p.eligible
  match maxOf (el.map p.selDepth) with
  | none => none
  | some d =>
    let at_ := el.filter (fun l => p.selDepth l == d)
    let old := at_.filter (fun l => decide ((p.lane l).age ≥ 256))
    match minKey ((if old.isEmpty then at_ else old).map p.key) with
    | none => none
    | some k => some { ig := laneMask (at_.filter (fun l => p.key l == k)), depth := d, key := k }

/-- The yield-parked lanes of the level the pack is at (R209, R212). -/
def Pack.parkedNow (p : Pack) : Word :=
  p.lanesWhere (fun x => x.st == .parked) &&& (match p.handler with | some d => d.h | none => BitVec.allOnes 32)

/-- With no lane eligible every yield-parked lane becomes active, with no issue (R212); a delivery's last act none of whose lanes can issue is over. -/
def Pack.unparkLanes (p : Pack) : Pack :=
  if p.lastAct != 0 then { p with lastAct := 0 }
  else p.updLanes p.parkedNow (fun x => { x with st := .active, rejoin := 0, age := 0 })

def Pack.canUnpark (p : Pack) : Bool := p.group.isNone && (p.lastAct != 0 || p.parkedNow != 0)

/-! ## Traps to deliver -/

/-- The pending trap to deliver now (R384, R391): none while an escalated one is served or a delivery's last act is due; at handler level only those
raised there. -/
def Pack.deliverable (p : Pack) : Option Trap :=
  if p.svc.isSome || p.lastAct != 0 then none
  else if p.handler.isSome then p.pending.find? (fun t => t.hlvl)
  else p.pending.head?

/-- Take the deliverable trap off the pack. -/
def Pack.popTrap (p : Pack) : Pack :=
  if p.handler.isSome then { p with pending := p.pending.eraseP (fun t => t.hlvl) } else { p with pending := p.pending.tail }

/-- Deliver the next trap of a pack when its way passes a test. While its context is SAVING the trap stays pending (R409). -/
def deliverTrap (c slot : Nat) (ok : TrapWay → Bool) (s : State) : State :=
  match (s.pack c slot).deliverable with
  | none => s
  | some t => if s.ctxState (s.pack c slot).ctx = 2 then s else if ok (trapWay s c slot t) then takeTrap (s.updPack c slot Pack.popTrap) c slot t else s

/-- TRAP_DELIVERY (R388). -/
def execTrapDelivery (c slot : Nat) (s : State) : Out := .next (deliverTrap c slot (fun w => w == .handler) s)

/-- ESCALATION (R391); DOUBLE ends the context instead (R408). -/
def execEscalation (c slot : Nat) (s : State) : Out := .next (deliverTrap c slot (fun w => w != .handler) s)

/-- PENDING_TRAP_DELIVERY (R384). -/
def execPendingTrapDelivery (c slot : Nat) (s : State) : Out := .next (deliverTrap c slot (fun _ => true) s)

/-! ## The pack of a core -/

/-- Is the pack's launch being discarded (R422)? -/
def State.discarding (s : State) (p : Pack) : Bool := (s.launch (s.wg p.wg).uid).rstate == 2

/-- Is nothing but the choice of a group needed for the pack to issue? -/
def State.mayIssue (s : State) (c sl : Nat) : Bool :=
  let p := s.pack c sl
  (!p.park || p.stepping) && p.svc.isNone && p.deliverable.isNone && !p.evicted && !s.discarding p &&
  (match p.req with | some r => r.granted | none => true)

def State.readyPack (s : State) (c sl : Nat) : Bool := s.mayIssue c sl && ((s.pack c sl).group.isSome || (s.pack c sl).canUnpark)

/-- The order of R378 and R379 as a number: handler level, then aged packs, then classes, then age. -/
def State.packRank (s : State) (c sl : Nat) : Nat :=
  let p := s.pack c sl
  let w := s.wg p.wg
  let cls := (s.launch w.uid).r.cls
  (if p.handler.isSome then 4 - cls else if p.aged then 5 else 9 - cls) * 2 ^ 80 + w.order * 32 + p.pkid

def minBy (f : Nat → Nat) : List Nat → Option Nat
  | [] => none
  | x :: xs => some (xs.foldl (fun a b => if f b < f a then b else a) x)

/-- The pack that issues next on a core: the first in order among those not known to be held back. -/
def State.choosePack (s : State) (c : Nat) : Option Nat :=
  minBy (s.packRank c) ((s.slotsOf c).filter (fun sl => s.readyPack c sl && (s.pack c sl).ownStall.isNone))

/-- An issue of a core: the chosen pack's count is cleared, those of the other packs that could have issued (`can`) go up (R379); a pack that could not is
not ready, so its count and mark go; stalled packs try again. -/
def State.noteIssue (s : State) (c slot : Nat) (can : Nat → Bool) : State :=
  (s.slotsOf c).foldl (fun s sl =>
    if sl = slot then s.updPack c sl (fun p => { p with passed := 0, aged := false, stepping := false, ownCause := none })
    else if can sl then s.updPack c sl (fun p => { p with passed := p.passed + 1, ownStall := none })
    else s.updPack c sl (fun p => { p with passed := 0, aged := false, ownStall := none, ownCause := p.ownStall.or p.ownCause })) s

/-- PACK_AGED (R379). -/
def execPackAged (c slot : Nat) (s : State) : Out :=
  .next (s.updPack c slot (fun p => if p.passed ≥ 256 then { p with aged := true } else p))

/-- LANE_AGE_SATURATE (R211): the age of an eligible lane stays at 256, where group choice prefers it. -/
def execLaneAgeSaturate (c slot l : Nat) (s : State) : Out :=
  .next (s.updPack c slot (fun p => if l < 32 && p.eligible l then p.updLane l (fun x => { x with age := min 256 x.age }) else p))

/-! ## Breakpoints (R440, R441) -/

def State.csrOf (s : State) (c n : Nat) : Nat := (((s.core c).csr.find n).getD 0).toNat

/-- The breakpoint that the pack's next group meets. -/
def State.breakHit (s : State) (c slot : Nat) : Option Nat :=
  let p := s.pack c slot
  let f := s.csrOf c 0x7E0
  if p.stepping || (bit f 6 && bits f 5 0 != p.ctx) || !s.mayIssue c slot then none
  else match p.group with
    | none => none
    | some g => (List.range 4).find? (fun i => let b := s.csrOf c (0x7D8 + i); bit b 0 && g.key == (bits b 63 2 * 4, 0))

/-- BREAKPOINT: the pack parks before the group issues, and the mailbox event is posted. -/
def execBreakpoint (c slot : Nat) (s : State) : Out :=
  match s.breakHit c slot with
  | none => .next s
  | some i => .next ((s.updPack c slot (fun p => { p with park := true })).mbxPost c slot 1 i)

/-! ## WAITEV's limit (R395) -/

/-- A wait whose limit has passed. -/
def Pack.expired (p : Pack) (now : Nat) : Option (Word × Nat × Byte × Option Nat) :=
  p.waitev.find? (fun w => match w.2.2.2 with | some t => decide (t ≤ now) | none => false)

/-- WAITEV_TIMEOUT: sD is 0. -/
def execWaitevTimeout (c slot : Nat) (s : State) : Out :=
  match (s.pack c slot).expired s.cycle with
  | none => .next s
  | some w => .next (s.updPack c slot (fun p => { (p.endWait w.1 w.2.1 0) with waitev := p.waitev.erase w }))

/-! ## Idle clocks (R380) -/

/-- The cause of a pack, as the number of its IDLE register: the first that applies in the order frame, fault, collective, copy, barrier, matrix, dependence. -/
def State.idleCause (s : State) (c slot : Nat) : Nat :=
  let p := s.pack c slot
  let why := p.ownStall.or p.ownCause
  let live := p.lanes.filter (fun x => x.st != .exited && x.st != .returned)
  let fault := fun (x : Lane) => x.st == .waiting && (match x.why with | .fault _ => true | _ => false)
  let barLane := fun (x : Lane) => x.st == .waiting && (match x.why with | .barrier _ _ _ _ => true | .psync _ => true | .event => true | _ => false)
  let onColl := fun (x : Lane) => x.st == .waiting && (match x.why with
    | .barrier k o _ _ => s.colls.any (fun y => y.2.wg == p.wg && collBar s y.2 == some (k, o))
    | _ => false)
  if p.evicted || why == some 3 || (match p.req with | some r => !r.granted | none => false) then 3
  else if !live.isEmpty && live.all fault then 4
  else if !p.collq.isEmpty || why == some 0 || live.any onColl then 0
  else if !p.tcq.isEmpty || why == some 1 then 1
  else if live.any barLane then 2
  else if why == some 6 then 6
  else 7

/-- n clocks in which a core starts no instruction. -/
def State.idleClocks (s : State) (c n : Nat) : State :=
  let i := match minBy (fun sl => (s.wg (s.pack c sl).wg).order * 32 + (s.pack c sl).pkid) (s.slotsOf c) with
    | none => 5
    | some sl => s.idleCause c sl
  s.updCore c (fun k => { k with idle := k.idle.modify i (fun x => x + BitVec.ofNat 64 n) })

/-- IDLE_CLOCK: one such clock. -/
def execIdleClock (c : Nat) (s : State) : Out := .next (if c < 160 then s.idleClocks c 1 else s)

end Sys2Proof.Machine
end

