-- ==== Sys2Proof/Machine/Spill.lean ====
section
/-! DEFINITION. Grants of granules (R199), the escape spill engine and the frame backing store (R190, R200 to R202), refills, and the read-back of frame
records (R189). -/

namespace Sys2Proof.Machine

/-! ## The backing store (R190) -/

/-- Per-lane backing offset of the frame at a depth. -/
def State.backOff (s : State) (p : Pack) (d : Nat) : Nat := (s.lrecOf p).lpsize + backBelow p d

/-- The words of one frame's backing, by their position in the lane's block: registers, then poison marks, then tags. -/
def Frame.backWord (f : Frame) (l i : Nat) : Nat :=
  let n := 8 * f.size
  let marks := fun (t : VCell → Bool) (j : Nat) => ((List.range 32).filter (fun b => decide (32 * j + b < n) && t (f.cell (32 * j + b) l))).foldl (fun a b => a + 2 ^ b) 0
  if i < n then (f.cell i l).val.toNat
  else if i < n + 4 then marks VCell.psn (i - n)
  else marks VCell.tag (i - n - 4)

/-- The 32 lanes' words of a position lie side by side (R103). -/
def Frame.backLine (f : Frame) (i : Nat) : List Byte := lanes32.flatMap (fun l => leBytes 4 (f.backWord l i))

/-- Write a frame to its backing; false when a byte of that pinned area cannot be reached. -/
def State.writeBack (s : State) (core slot d : Nat) : State × Bool :=
  let p := s.pack core slot
  let f := p.frames.getD d {}
  let va := s.lpBase p + 32 * s.backOff p d
  (List.range (8 * f.size + 8)).foldl (fun (r : State × Bool) i =>
    if r.2 then r.1.pinWrite core p.ctx (va + 128 * i) (f.backLine i) else r) (s, true)

/-- Read a frame's registers back: a lane is marked by its mark bit or by the poison of the line it came from. -/
def State.readBack (s : State) (core slot d : Nat) : State × Option (FMap VCell) :=
  let p := s.pack core slot
  let f := p.frames.getD d {}
  let n := 8 * f.size
  let va := s.lpBase p + 32 * s.backOff p d
  match ctlRead (core / 16) p.ctx true va (128 * (n + 8)) s with
  | (s, none) => (s, none)
  | (s, some bs) =>
    let w := fun (i l : Nat) => let x := (bs.drop (128 * i + 4 * l)).take 4; (leNat (x.map Prod.fst), x.any Prod.snd)
    let cell := fun (i l : Nat) => ({ val := BitVec.ofNat 32 (w i l).1, psn := (w i l).2 || bit (w (n + i / 32) l).1 (i % 32),
                                      tag := bit (w (n + 4 + i / 32) l).1 (i % 32) } : VCell)
    (s, some ((List.range n).flatMap (fun i => lanes32.map (fun l => (32 * i + l, cell i l)))))

/-- A unit's access to a pinned area that fails is DOUBLE (R123). -/
def State.pinFail (s : State) (core slot detail : Nat) : State := s.double core slot detail { code := tDOUBLE, cycle := BitVec.ofNat 64 s.cycle }

/-! ## Waiting requests (R199) -/

def firstWant (ws : List Want) : Option Want :=
  match ws with
  | [] => none
  | x :: xs => some (xs.foldl (fun a b => if b.cls < a.cls ∨ (b.cls = a.cls ∧ b.ord < a.ord) then b else a) x)

/-- The request that is granted next, if it can be. -/
def State.grantable (s : State) (c : Nat) : Option Want :=
  match firstWant (s.wants c) with
  | some w => if w.n ≤ s.poolFree c then some w else none
  | none => none

/-- FRAME_GRANT (R198, R199). -/
def execFrameGrant (c : Nat) (s : State) : Out :=
  match s.grantable c with
  | none => .next s
  | some w =>
    match w.depth with
    | none => .next (s.updPack c w.slot (fun p => { p with req := p.req.map (fun r => { r with granted := true }), ownStall := none }))
    | some d =>
      let (s, b) := s.allocRun c w.n
      .next (s.updPack c w.slot (fun p =>
        { p with frames := p.frames.modify d (fun f => { f with st := .refilling, base := b }), req := p.req.filter (fun r => !(r.cls == 1 && r.depth == d)),
                 evicted := if w.cls = 4 then false else p.evicted, ownStall := none }))

/-- A record that is not on chip shows the frame's state in the call-record area (R188, R190, R198). -/
def State.markRecord (s : State) (c slot d : Nat) : State × Bool :=
  let p := s.pack c slot
  let f := p.frames.getD d {}
  if f.onChip then (s, true) else s.pinWrite c p.ctx (s.crBase p + 32 * d) f.record

/-- A refill in progress of a pack. -/
def Pack.refilling (p : Pack) : Option Nat := p.frames.findIdx? (fun f => f.st == .refilling)

/-- REFILL_COMPLETE (R190, R198). -/
def execRefillComplete (c slot : Nat) (s : State) : Out :=
  match (s.pack c slot).refilling with
  | none => .next s
  | some d =>
    match s.readBack c slot d with
    | (s, none) => .next (s.pinFail c slot 1)
    | (s, some cells) =>
      let s := s.updPack c slot (fun p => { p with
        refills := satAdd 24 p.refills 1,
        frames := p.frames.modify d (fun f => { f with st := .resident, cells := cells, fill := {}, touched := s.ownSteps }) })
      match s.markRecord c slot d with
      | (s, false) => .next (s.pinFail c slot 1)
      | (s, true) => .next (s.count c 9 (s.pack c slot).ctx 1)

/-! ## Victims (R201, R202) -/

/-- The request the engine serves: the oldest of classes 1 to 3. -/
def State.served (s : State) (c : Nat) : Option Want := firstWant ((s.wants c).filter (fun w => decide (w.cls ≤ 3)))

/-- Frames of a core that may be chosen for a request: slot and depth. -/
def State.victims (s : State) (c : Nat) (w : Want) (top : Bool) : List (Nat × Nat) :=
  (s.slotsOf c).flatMap (fun sl =>
    let p := s.pack c sl
    if p.handler.isSome then []
    else (List.range p.frames.length).filterMap (fun d =>
      let isTop := d + 1 == p.frames.length
      if (p.frames.getD d {}).st == .resident && isTop == top && !(isTop && sl == w.slot) && !(sl == w.slot && w.depth == some d) then some (sl, d) else none))

/-- The next victim: the least recently touched frame below a top; else the top frame of the pack of the lowest class, placed last. -/
def State.victim (s : State) (c : Nat) (w : Want) : Option (Nat × Nat) :=
  let low := s.victims c w false
  let touched := fun (v : Nat × Nat) => ((s.pack c v.1).frames.getD v.2 {}).touched
  match low with
  | v :: vs => some (vs.foldl (fun a b => if touched b < touched a ∨ (touched b = touched a ∧ (b.1 < a.1 ∨ (b.1 = a.1 ∧ b.2 < a.2))) then b else a) v)
  | [] =>
    let cls := fun (v : Nat × Nat) => (s.lrecOf (s.pack c v.1)).cls
    let ord := fun (v : Nat × Nat) => (s.wg (s.pack c v.1).wg).order * 32 + (s.pack c v.1).pkid
    match s.victims c w true with
    | [] => none
    | v :: vs => some (vs.foldl (fun a b => if cls b < cls a ∨ (cls b = cls a ∧ ord a < ord b) then b else a) v)

/-- Start on the next victim, or stop. -/
def State.nextVictim (s : State) (c : Nat) : State :=
  match s.served c with
  | none => s.updCore c (fun k => { k with spill := none })
  | some w =>
    match s.victim c w with
    | none => s.updCore c (fun k => { k with spill := none })
    | some (sl, d) =>
      (s.updCore c (fun k => { k with spill := some { slot := sl, depth := d } })).updPack c sl (fun p =>
        { p with frames := p.frames.modify d (fun f => { f with st := .spilling }) })

/-- Is a pack unable to issue, and not for its own instructions in flight (R200)? -/
def State.packStuck (s : State) (c sl : Nat) : Bool :=
  let p := s.pack c sl
  let early := p.toks.any (fun t => t.kind ≤ 3)
  p.evicted || (match p.req with | some r => !r.granted | none => false) || p.park || p.svc.isSome ||
  (p.group.isNone && !p.canUnpark) || p.ownStall == some 1 || p.ownStall == some 0 ||
  (p.ownStall == some 7 && p.toks.any (fun t => t.kind == 4 || t.kind == 5) && !early)

/-- May the engine start now, for a request that waits and with a victim? -/
def State.spillIdle (s : State) (c : Nat) : Bool :=
  (s.core c).spill.isNone && (s.grantable c).isNone && (match s.served c with | some w => (s.victim c w).isSome | none => false)

/-- The first condition of R200. -/
def State.escapeDue (s : State) (c : Nat) : Bool := s.spillIdle c && (s.slotsOf c).all (s.packStuck c)

/-- ESCAPE_SPILL_START (R200). -/
def execEscapeSpillStart (c : Nat) (s : State) : Out := .next (if s.escapeDue c then s.nextVictim c else s)

/-- The second condition of R200. -/
def State.waitOver (s : State) (c slot : Nat) : Bool :=
  let lim := bits (s.core c).frameWait.toNat 31 0
  s.spillIdle c && lim != 0 && (match (s.pack c slot).req with
    | some r => !r.granted && decide (r.cls ≤ 3) && decide (r.since + lim ≤ s.cycle)
    | none => false)

/-- FRAME_WAIT_EXPIRY (R200). -/
def execFrameWaitExpiry (c slot : Nat) (s : State) : Out := .next (if s.waitOver c slot then s.nextVictim c else s)

/-- Does an instruction in flight still write a register of a frame (R202)? -/
def Pack.writesFrame (p : Pack) (d : Nat) : Bool := p.toks.any (fun t => t.wr.any (fun r => r / 128 == d))

/-- The spilled frame's state; its record says so too (R188, R190). -/
def State.markSpilled (s : State) (c slot d : Nat) : State × Bool :=
  (s.updPack c slot (fun p => { p with frames := p.frames.modify d (fun f => { f with st := .spilled, cells := [], fill := {} }) })).markRecord c slot d

/-- SPILL_COMPLETE (R190, R198, R202): the victim's registers and marks are in its backing; a top frame's pack is evicted. -/
def execSpillComplete (c : Nat) (s : State) : Out :=
  match (s.core c).spill with
  | none => .next s
  | some j =>
    let p := s.pack c j.slot
    if (p.frames.getD j.depth {}).st != .spilling then .next (s.nextVictim c)
    else if p.writesFrame j.depth then .next s
    else match s.writeBack c j.slot j.depth with
      | (s, false) => .next (s.pinFail c j.slot 1)
      | (s, true) =>
        match s.markSpilled c j.slot j.depth with
        | (s, false) => .next (s.pinFail c j.slot 1)
        | (s, true) =>
          let top := decide (j.depth + 1 = p.frames.length)
          let s := s.updPack c j.slot (fun p => { p with
            spills := satAdd 24 p.spills 1, evicts := if top then satAdd 16 p.evicts 1 else p.evicts,
            evicted := p.evicted || top, evictAt := if top then s.ownSteps else p.evictAt })
          let s := s.count c 8 p.ctx 1
          .next (match s.served c with
            | some w => if w.n ≤ s.poolFree c then s.updCore c (fun k => { k with spill := none }) else s.nextVictim c
            | none => s.updCore c (fun k => { k with spill := none }))

/-! ## Record read-back (R189) -/

/-- The depth of the record to read back: the deepest that is not on chip, while fewer than eight are. -/
def Pack.readbackDepth (p : Pack) : Option Nat :=
  if (p.frames.filter (fun f => f.onChip)).length ≥ 8 then none
  else maxOf ((List.range p.frames.length).filter (fun d => !(p.frames.getD d {}).onChip))

/-- RECORD_READBACK (R189). -/
def execRecordReadback (c slot : Nat) (s : State) : Out :=
  let p := s.pack c slot
  match p.readbackDepth with
  | none => .next s
  | some d =>
    match s.pinRead c p.ctx (s.crBase p + 32 * d) 32 with
    | (s, none) => .next (s.pinFail c slot 1)
    | (s, some bs) =>
      let v := leNat bs
      if badRecord v then .next (s.pinFail c slot 2)
      else .next (s.updPack c slot (fun p => { p with frames := p.frames.modify d (fun f =>
        { f with onChip := true, rpc := BitVec.ofNat 64 (bits v 63 0), cmask := BitVec.ofNat 32 (bits v 95 64), ab := bits v 115 109, retc := bits v 119 116 }) }))

end Sys2Proof.Machine
end

