-- ==== Sys2Proof/Machine/Paging.lean ====
section
/-! DEFINITION. Walks, invalidations and page requests as steps of their own (R110, R114, R115, R119 to R122), the LLC carve (R126) and the windows of
the chip scratchpad (R127). -/

namespace Sys2Proof.Machine

/-! ## Walks -/

/-- The rights that a KIND of R118 needs (R106). -/
def kindNeed (kind : Nat) : Need :=
  if kind = 1 ∨ kind = 5 then needW else if kind = 2 then { r := true, w := true } else if kind = 3 then needX else needR

/-- WALK_COMPLETE (R110, R112): a translation is placed, with A and D set; a walk that faults leaves no entry. -/
def execWalkComplete (ctx root va kind : Nat) (s : State) : Out := .next (xlate s 10 ctx root va (kindNeed kind)).1

/-! ## Replies (R120, R121) -/

/-- A lane is released: it replays, and traps XLATE there when the answer was FAIL. -/
def Lane.release (fail : Option FaultImg) (x : Lane) : Lane :=
  { x with st := if x.helps then .helper else .active, why := .none, helps := false, released := true, failx := fail, age := 0 }

/-- Release those of `lanes` that wait on an image's fault; a pack of which some did has its event (R395). -/
def State.releaseLanes (s : State) (img : FaultImg) (lanes : Word) (fail : Bool) : State :=
  s.updPack img.core img.pack (fun p =>
    let q := p.mapAll (fun l x => if lanes.lane l && x.onFault img l then x.release (if fail then some img else none) else x)
    if q = p then p else q.post 6)

/-- Answer a page request: lanes, a copy, a collective, or a reader of launch records. -/
def State.prqAnswer (s : State) (q : PrqWait) (fail : Bool) : State :=
  match q.copy, q.coll, q.queue with
  | some id, _, _ => { s with copies := s.copies.upd id (fun c => if c.status ≠ 2 then c else if fail then { c with status := 4, err := 1 } else { c with status := 0 }) }
  | _, some id, _ => if fail then s.collEndNow id 5 else s
  | _, _, some k => if fail then { s with qFail := s.qFail.ins k () } else s
  | none, none, none => s.releaseLanes q.img q.img.who fail

/-- A write to PRQ_REPLY: only a pending tag has an effect. -/
def prqReply (f tag : Nat) (fail : Bool) (s : State) : State :=
  match s.prq.find? (fun q => q.func == f && q.img.tag == tag) with
  | none => s
  | some q => { s with prq := s.prq.filter (fun x => !(x.func == f && x.img.tag == tag)) }.prqAnswer q fail

/-- PRQ_REPLY with RETRY. -/
def execPrqReplyRetry (f tag : Nat) (s : State) : Out := .next (prqReply f tag false s)

/-- PRQ_REPLY with FAIL. -/
def execPrqReplyFail (f tag : Nat) (s : State) : Out := .next (prqReply f tag true s)

/-- PRQ_HEAD_WRITE (R119). -/
def execPrqHeadWrite (f : Nat) (v : DWord) (s : State) : Out :=
  let n := bits v.toNat 8 0
  .next (if f > 32 ∨ (bits (s.reg (prqReg f + 8)) 8 0 + 512 - n) % 512 > 256 then s else s.setReg (prqReg f + 16) n)

/-- Is a held entry one that waits for room, not a copy's that has still to pause (R165)? -/
def State.heldReady (s : State) (q : PrqWait) : Bool :=
  match q.copy with
  | none => true
  | some id => match s.copies.find id with
    | some c => (s.tile (s.wg c.wg) c.q.tile).paused
    | none => true

/-- The entry of a function that is posted next, when there is room. -/
def State.postable (s : State) (f : Nat) : Option PrqWait :=
  match s.prqHeld.find? (fun q => q.func == f) with
  | some q => if s.heldReady q && (!s.prqEnabled f || decide (s.prqCount f < 256)) then some q else none
  | none => none

/-- PRQ_ENTRY_POST (R117, R119): a waiting entry is posted, or answered FAIL when the queue is off. -/
def execPrqEntryPost (f : Nat) (s : State) : Out :=
  match s.postable f with
  | none => .next s
  | some q =>
    let s := { s with prqHeld := s.prqHeld.eraseP (fun x => x.func == f) }
    .next (if s.prqEnabled f then s.prqPut q else s.prqAnswer q true)

/-! ## Invalidation (R114, R115) -/

def rangesMeet (a n b m : Nat) : Bool := decide (a < b + m) && decide (b < a + n)

/-- The root and the address in it of a VA whose pages a command names (R95, R104): tensor space has the offset of this package's own addresses. -/
def invVa (pkg va : Nat) : Option (Nat × Nat) :=
  if bits va 63 56 = 0 then some (0, va % 2 ^ 48)
  else if bits va 63 56 = 0x40 ∧ bits va 54 44 = pkg then some (1, va % 2 ^ 44)
  else if bits va 63 56 = 0xFF then some (2, va % 2 ^ 48)
  else none

/-- Does a TLB entry match an invalidation? -/
def invMatch (s : State) (v : Nat) (e : TlbEntry) : Bool :=
  let fn := bits v 13 8
  let cx := bits v 21 16
  let n := 4096 * bits v 47 32
  let va := s.reg 0x100000
  let ofCtx := e.ctx == cx || (e.g && e.func == s.funcOf cx)
  match bits v 2 0 with
  | 0 => true
  | 1 => e.func == fn
  | 2 => ofCtx
  | 3 => ofCtx && (match invVa s.pkgId va with
    | some (root, a) => e.root == root && rangesMeet e.va (2 ^ e.size) a n
    | none => false)
  | 4 => e.func == fn && rangesMeet e.gpa (2 ^ e.size) va n
  | 5 => e.func == fn && !e.g
  | _ => false

/-- Is a write to XLT_INVC ignored? -/
def invRefused (s : State) (v : Nat) : Bool :=
  bit (s.reg 0x100008) 63 || bits v 7 3 != 0 || bits v 15 14 != 0 || bits v 31 22 != 0 || bits v 62 48 != 0 || decide (bits v 2 0 ≥ 6) ||
  ((bits v 2 0 == 3 || bits v 2 0 == 4) && bits v 47 32 == 0)

/-- A write to XLT_INVC: with GO the matching entries leave every TLB. -/
def invWrite (v : Nat) (s : State) : State :=
  if invRefused s v then s
  else
    let s' := s.setReg 0x100008 v
    if bit v 63 then { s' with tlb := s'.tlb.filter (fun e => !invMatch s v e) } else s'

/-- The write of an event, with its KIND. -/
def invEvent (kind : Nat) (v : DWord) (s : State) : Out := .next (invWrite (setBits v.toNat 2 0 kind) s)

def execXltInvAll (v : DWord) (s : State) : Out := invEvent 0 v s
def execXltInvFunc (v : DWord) (s : State) : Out := invEvent 1 v s
def execXltInvCtx (v : DWord) (s : State) : Out := invEvent 2 v s
def execXltInvCtxPages (v : DWord) (s : State) : Out := invEvent 3 v s
def execXltInvStage2Pages (v : DWord) (s : State) : Out := invEvent 4 v s
def execXltInvNonglobal (v : DWord) (s : State) : Out := invEvent 5 v s

/-- XLT_INV_DONE (R115): GO reads 0. -/
def execXltInvDone (s : State) : Out := .next (s.setReg 0x100008 (setBits (s.reg 0x100008) 63 63 0))

/-! ## The chip scratchpad (R126, R127) -/

/-- Drop chip bytes from an offset upward. -/
def State.cutChip (s : State) (n : Nat) : State :=
  { s with chip := s.chip.filter (fun b => decide (b.1 < n)), chipPsn := s.chipPsn.filter (fun b => decide (64 * b.1 < n)) }

/-- LLC_CARVE_WRITE (R126): the ways taken are zeroed, the contents of those released are discarded. -/
def execLlcCarveWrite (v : DWord) (s : State) : Out :=
  let old := bits (s.reg 0x300000) 1 0
  let new := bits v.toNat 1 0
  if new = old ∨ bit (s.reg 0x300000) 63 ∨ (List.range 64).any (fun c => (s.chipWin c).2 != 0) then .next s
  else .next ((s.cutChip (min old new * 2 ^ 25)).setReg 0x300000 (new + 2 ^ 63))

/-- LLC_CARVE_DONE (R126). -/
def execLlcCarveDone (s : State) : Out := .next (s.setReg 0x300000 (bits (s.reg 0x300000) 1 0))

/-- CSPWIN_WRITE (R127). -/
def execCspwinWrite (ctx : Nat) (v : DWord) (s : State) : Out :=
  let x := v.toNat
  if ctx ≥ 64 ∨ bits x 6 0 + bits x 22 16 > 32 * bits (s.reg 0x300000) 1 0 ∨ s.wgs.any (fun w => w.2.ctx == ctx) ∨ bits x 15 7 ≠ 0 ∨ bits x 63 23 ≠ 0
  then .next s else .next (s.setReg (0x310000 + 8 * ctx) x)

end Sys2Proof.Machine
end

