-- ==== Sys2Proof/Machine/Firmware.lean ====
section
/-! DEFINITION. What the supervisor core does to its core through the custom CSRs (R398 to R406): the trap queue, PKCTL, PKDATA, SRDATA, INJCTL, the e4m3
emulation and the control store. -/

namespace Sys2Proof.Machine

def State.setCsr (s : State) (c n v : Nat) : State := s.updCore c (fun k => { k with csr := k.csr.ins n (BitVec.ofNat 64 v) })

/-- PKSTAT.ERR (R399): was the last access refused? -/
def State.setErr (s : State) (c : Nat) (b : Bool) : State := s.setCsr c 0x7C3 (b2n b * 2 ^ 12)

def State.setRdata (s : State) (c v : Nat) : State := s.updCore c (fun k => { k with rdata := BitVec.ofNat 64 v })

/-! ## The trap queue (R398) -/

def TrqE.word (e : TrqE) : Nat := e.slot % 64 + e.code % 256 * 2 ^ 8 + e.ctx % 64 * 2 ^ 16 + b2n e.img.isSome * 2 ^ 62 + 2 ^ 63

/-- TRQ_POP: the image of a popped fault is held. -/
def execTrqPop (c : Nat) (s : State) : Out :=
  match (s.core c).trq with
  | [] => .next (s.setRdata c 0)
  | e :: r =>
    .next ((s.updCore c (fun k => { k with trq := r, trqHeld := if e.img.isSome then some e else k.trqHeld,
                                           trqxNext := if e.img.isSome then 0 else k.trqxNext })).setRdata c e.word)

/-- TRQX_READ: the next word of the held image, with TAG zero. -/
def execTrqxRead (c : Nat) (s : State) : Out :=
  let k := s.core c
  match k.trqHeld.bind (fun e => e.img) with
  | none => .next (s.setRdata c 0)
  | some img =>
    let v := word8 ({ img with tag := 0 } : FaultImg).bytes k.trqxNext
    .next ((s.updCore c (fun k => { k with trqxNext := k.trqxNext + 1 })).setRdata c (if k.trqxNext < 4 then v else 0))

/-! ## PKCTL (R399) -/

/-- A PKCTL command on a resident pack; on an empty slot it is refused. -/
def pkctl (c slot : Nat) (f : Pack → State → Option State) (s : State) : State :=
  match s.pack? c slot with
  | none => s.setErr c true
  | some p => match f p s with
    | some s => s.setErr c false
    | none => s.setErr c true

def doPark (c slot : Nat) (s : State) : State := pkctl c slot (fun _ s => some (s.updPack c slot (fun p => { p with park := true }))) s
def doUnpark (c slot : Nat) (s : State) : State := pkctl c slot (fun _ s => some (s.updPack c slot (fun p => { p with park := false }))) s
def doEndtrap (c slot : Nat) (s : State) : State := pkctl c slot (fun p s => if p.svc.isSome then some (endEscalation s c slot) else none) s

/-- PARK. -/
def execPark (c slot : Nat) (s : State) : Out := .next (doPark c slot s)

/-- UNPARK: an escalation stays. -/
def execUnpark (c slot : Nat) (s : State) : Out := .next (doUnpark c slot s)

/-- SIGNAL. -/
def execSignal (c slot : Nat) (s : State) : Out := .next (pkctl c slot (fun _ s => some (s.updPack c slot (fun p => p.post 0))) s)

/-- ENDTRAP (R391). -/
def execEndtrap (c slot : Nat) (s : State) : Out := .next (doEndtrap c slot s)

/-- KILL (R408). -/
def execKill (c slot : Nat) (s : State) : Out := .next (pkctl c slot (fun p s => some (s.killCtx p.ctx)) s)

/-- The lanes of a pack that wait on an image's fault. -/
def State.onImg (s : State) (img : FaultImg) : Word :=
  let p := s.pack img.core img.pack
  laneMask (lanes32.filter (fun l => (p.lane l).onFault img l))

/-- A command on the held fault; refused when none is held. What is left of its lanes stays held. -/
def onHeld (c : Nat) (lanes : FaultImg → Word) (f : FaultImg → State → State) (s : State) : State :=
  match (s.core c).trqHeld with
  | none => s.setErr c true
  | some e => match e.img with
    | none => s.setErr c true
    | some img =>
      let s := f img s
      let left := if img.who = img.lanes then img.lanes &&& ~~~(lanes img) else s.onImg img
      (s.updCore c (fun k => { k with trqHeld :=
        if left = 0 then none else some { e with img := some (if img.who = img.lanes then { img with lanes := left } else img) } })).setErr c false

/-- RELEASE (R121, R403). -/
def execRelease (c : Nat) (lanes : Word) (s : State) : Out := .next (onHeld c (fun _ => lanes) (fun img s => s.releaseLanes img lanes false) s)

/-- FAILX (R120). -/
def execFailx (c : Nat) (lanes : Word) (s : State) : Out := .next (onHeld c (fun _ => lanes) (fun img s => s.releaseLanes img lanes true) s)

/-- POST (R117): with the function's queue off it is as answered FAIL at once. -/
def execPost (c : Nat) (s : State) : Out :=
  .next (onHeld c (fun img => img.who) (fun img s =>
    let f := s.funcOf img.ctx
    if s.prqEnabled f then s.prqPost { func := f, img := img } else s.releaseLanes img img.who true) s)

/-! ## PKDATA (R400) -/

/-- Is a pack parked with its instructions complete, or awaiting ENDTRAP? -/
def Pack.reachable (p : Pack) : Bool := (p.park && p.toks.isEmpty) || p.svc.isSome

/-- PKSTAT (R399): what it says of the pack in a slot, with ERR. -/
def pkstat (s : State) (c slot : Nat) : Nat :=
  bits (s.csrOf c 0x7C3) 12 12 * 2 ^ 12 +
  (match s.pack? c slot with
   | none => 0
   | some p => 1 + b2n (p.park && p.toks.isEmpty) * 2 + b2n p.handler.isSome * 4 + b2n p.svc.isSome * 8 +
       (match p.svc with | some d => d.trap.code % 256 * 16 | none => 0))

/-- A lane as PKDATA shows it: as kept, when a handler runs for it (R388). -/
def Pack.keptLane (p : Pack) (l : Nat) : Lane :=
  match p.handler with
  | some d => (d.kept.find l).getD (p.lane l)
  | none => p.lane l

def Pack.updKept (p : Pack) (l : Nat) (f : Lane → Lane) : Pack :=
  match p.handler with
  | some d => if d.kept.has l then { p with handler := some { d with kept := d.kept.upd l f } } else p.updLane l f
  | none => p.updLane l f

def LaneSt.code : LaneSt → Nat
  | .active => 0
  | .parked => 1
  | .waiting => 2
  | .returned => 3
  | .exited => 4
  | .helper => 5

/-- The state word of R410; H is that of a delivery to the handler or of an escalated one. -/
def Pack.stateWord (p : Pack) (l : Nat) : Nat :=
  let x := p.keptLane l
  let inH := fun (d : Option Delivery) => match d with | some d => d.h.lane l | none => false
  let h := inH p.handler || inH p.svc
  x.st.code + x.depth % 256 * 2 ^ 3 + x.target % 256 * 2 ^ 11 + x.k.getD 0 % 32 * 2 ^ 19 + b2n x.k.isSome * 2 ^ 24 + x.count % 8 * 2 ^ 25 +
    b2n x.blocked * 2 ^ 28 + b2n h * 2 ^ 29

/-- PKSEL's fields. -/
structure PkSel where
  slot : Nat
  lane : Nat
  idx : Nat
  kind : Nat
  depth : Nat
  deriving DecidableEq, Repr

def State.pksel (s : State) (c : Nat) : PkSel :=
  let v := s.csrOf c 0x7C0
  { slot := bits v 5 0, lane := bits v 12 8, idx := bits v 22 16, kind := bits v 27 24, depth := bits v 39 32 }

/-- Does the selection name something, for a read or a write? -/
def pkOk (p : Pack) (q : PkSel) (wr : Bool) : Bool :=
  let f := p.frames.getD q.depth {}
  let inFrame := decide (q.depth < p.frames.length) && decide (q.idx < 8 * f.size)
  p.reachable && (match q.kind with
    | 0 => if wr then inFrame else (decide (q.depth < p.frames.length) && (inFrame || (decide (112 ≤ q.idx) && decide (q.idx ≤ 122))))
    | 1 => decide (q.idx < 32)
    | 2 => decide (q.idx < 8) && !(wr && q.idx == 0)
    | 3 => true
    | 4 => !wr
    | 5 => !wr && decide (q.depth < p.frames.length) && decide (q.idx < 4)
    | 6 => inFrame
    | 7 => (match p.trapFrame with | some t => p.handler.isSome && decide (q.idx < 8 * t.1.size) | none => false)
    | 8 => true
    | 9 => !wr
    | _ => false)

/-- Does the access wait for a refill? -/
def pkWaits (p : Pack) (q : PkSel) : Bool :=
  (q.kind == 0 || q.kind == 6) && decide (q.idx ≤ 111) && (let f := (p.frames.getD q.depth {}).st; f == .spilled || f == .refilling)

/-- The item that PKSEL selects. -/
def pkRead (s : State) (c : Nat) (q : PkSel) : State × Nat :=
  let p := s.pack c q.slot
  let f := p.frames.getD q.depth {}
  match q.kind with
  | 0 => (s, if q.idx ≤ 111 then (f.cell q.idx q.lane).val.toNat else s.roReg p q.idx q.lane)
  | 1 => (s, (p.sreg q.idx).toNat)
  | 2 => if q.idx = 0 then (let d := s.draw; (d.2, (Config.pkMask d.1).toNat)) else (s, (p.m.getD q.idx 0).toNat)
  | 3 => (s, (p.keptLane q.lane).pc.toNat)
  | 4 => (s, p.stateWord q.lane)
  | 5 => (s, word8 f.record q.idx)
  | 6 => (s, let x := f.cell q.idx q.lane; b2n x.psn + 2 * b2n x.tag)
  | 7 => (s, match p.trapFrame with | some t => (t.1.cell q.idx q.lane).val.toNat | none => 0)
  | 8 => (s, p.fpc.toNat)
  | _ => (s, (p.keptLane q.lane).replay.toNat)

/-- Write the item. -/
def pkWrite (q : PkSel) (v : DWord) (p : Pack) : Pack :=
  let val := fun (f : Frame) => f.setCell q.idx q.lane { (f.cell q.idx q.lane) with val := v.setWidth 32 }
  match q.kind with
  | 0 => { p with frames := p.frames.modify q.depth val }
  | 1 => p.setS q.idx v
  | 2 => { p with m := setAt 0 p.m q.idx (v.setWidth 32) }
  | 3 => p.updKept q.lane (fun x => { x with pc := v, count := 0 })
  | 6 => { p with frames := p.frames.modify q.depth (fun f =>
      f.setCell q.idx q.lane { (f.cell q.idx q.lane) with psn := bit v.toNat 0, tag := bit v.toNat 1 }) }
  | 7 => { p with trapFrame := p.trapFrame.map (fun t => (val t.1, t.2)) }
  | 8 => { p with fpc := BitVec.ofNat 64 (writeFpc p.fpc.toNat v.toNat) }
  | _ => p

/-- A PKDATA access: refused, waiting for a refill, or performed (R400). -/
def pkAccess (c : Nat) (w : Option DWord) (s : State) : State :=
  let q := s.pksel c
  match s.pack? c q.slot with
  | none => ((s.setErr c true).setRdata c 0).updCore c (fun k => { k with pkWait := none })
  | some p =>
    if !pkOk p q w.isSome then ((s.setErr c true).setRdata c 0).updCore c (fun k => { k with pkWait := none })
    else if pkWaits p q then
      s.updCore c (fun k => { k with pkWait := match k.pkWait with
        | some x => some x
        | none => some (s.ownSteps, w) })
    else
      let s := (s.setErr c false).updCore c (fun k => { k with pkWait := none })
      match w with
      | some v => s.updPack c q.slot (pkWrite q v)
      | none => let r := pkRead s c q; r.1.setRdata c r.2

/-- PKDATA_READ. -/
def execPkdataRead (c : Nat) (s : State) : Out := .next (pkAccess c none s)

/-- PKDATA_WRITE. -/
def execPkdataWrite (c : Nat) (v : DWord) (s : State) : Out := .next (pkAccess c (some v) s)

/-- Has the frame come back that a PKDATA access waits for? -/
def State.pkDue (s : State) (c : Nat) : Option (Option DWord) :=
  match (s.core c).pkWait with
  | none => none
  | some (_, w) =>
    let q := s.pksel c
    if pkWaits (s.pack c q.slot) q && pkOk (s.pack c q.slot) q w.isSome then none else some w

/-! ## SRDATA (R401) -/

/-- The access that SRSEL selects: refused (none), or the number and the slot. -/
def srSel (s : State) (c : Nat) : Option (Nat × Nat) :=
  let v := s.csrOf c 0x7C6
  let n := bits v 11 0
  let sl := bits v 21 16
  match srInfo n with
  | none => none
  | some (_, false) => some (n, sl)
  | some (_, true) => match s.pack? c sl with
    | some p => if p.reachable then some (n, sl) else none
    | none => none

/-- The depth that FRAME_DEPTH and FRAME_SIZE report for a pack that does not issue: that of the group it would issue next. -/
def Pack.showDepth (p : Pack) : Nat := match p.group with | some g => g.depth | none => p.frames.length - 1

/-- SRDATA_READ. -/
def execSrdataRead (c : Nat) (s : State) : Out :=
  match srSel s c with
  | none => .next ((s.setErr c true).setRdata c 0)
  | some (n, sl) => .next ((s.setErr c false).setRdata c (srValue s c sl (s.pack c sl).showDepth n))

/-- SRDATA_WRITE. -/
def execSrdataWrite (c : Nat) (v : DWord) (s : State) : Out :=
  match srSel s c with
  | none => .next (s.setErr c true)
  | some (n, sl) => .next (srWrite (s.setErr c false) c sl n v.toNat)

/-! ## INJCTL (R402) -/

/-- INJECT: a write to INJCTL; with GO the word takes effect at once. -/
def execInject (c : Nat) (v : DWord) (s : State) : Out :=
  let x := v.toNat
  let ctx := bits x 6 1
  let s := s.setCsr c 0x7CC (ctx * 2)
  if !bit x 0 then .next s
  else if !bit (s.ctxReg ctx 0) 0 then .next (s.setErr c true)
  else match decode [bits (s.csrOf c 0x7CB) 31 0] with
    | .ok (.shinv i) => .next (shinvOne (s.setErr c false) ctx i.toNat)
    | .ok .shinvAll => .next (shinvEvery (s.setErr c false) ctx)
    | _ => .next (s.setErr c true)

/-! ## The emulation (R405) -/

/-- The emulated entry that waits for the firmware. -/
def Core.emulEntry (k : Core) : Option MmaEntry :=
  match k.mmaQ with
  | e :: _ => if mmaEmul e.ty && e.popped.isSome && !e.emul then some e else none
  | [] => none

/-- EMSEL with WORD advanced by 1. -/
def emNext (v : Nat) : Nat := setBits v 15 5 (bits v 15 5 + 1)

/-- EMDATA_READ: a word of a popped position of the waiting entry. -/
def execEmdataRead (c : Nat) (s : State) : Out :=
  let v := s.csrOf c 0x7C8
  let k := s.core c
  let w := match k.emulEntry.bind (fun e => e.popped) with
    | some (pa, pb) => if bit v 16 then 0 else word8 (((if bit v 0 then pb else pa).getD (bits v 4 1) ([], [])).1) (bits v 15 5)
    | none => 0
  .next ((s.setCsr c 0x7C8 (emNext v)).setRdata c w)

/-- EMCTL as it reads (R405). -/
def emctl (s : State) (c : Nat) : Nat :=
  match (s.core c).emulEntry with
  | some e => (e.kch - 1) % 8 + 2 ^ 63
  | none => 0

/-- EMDATA_WRITE: a word of a staged position. WORD stays, since only reads advance it. -/
def execEmdataWrite (c : Nat) (w : DWord) (s : State) : Out :=
  let v := s.csrOf c 0x7C8
  if !bit v 16 then .next s
  else .next (s.updCore c (fun k => { k with emStage := k.emStage.ins ((bits v 0 0 * 16 + bits v 4 1) * 2048 + bits v 15 5) w }))

/-- EMCTL_GO: the staged positions go to the array with the waiting entry. -/
def execEmctlGo (c : Nat) (s : State) : Out :=
  if (s.core c).emulEntry.isSome then .next (s.updCore c (fun k => { k with mmaQ := k.mmaQ.modify 0 (fun e => { e with emul := true }) })) else .next s

/-! ## The control store (R65, R406) -/

/-- May the instruction stand in a microprogram, its own word being word b of an image of n words? -/
def mprogAllows (i : Instr) (b n : Nat) : Bool :=
  let inside := fun (o : Int) => decide (0 ≤ (b : Int) + o) && decide ((b : Int) + o < n)
  match i with
  | .call _ _ _ _ _ => false
  | .callx _ _ _ _ _ => false
  | .ret => false
  | .unwind _ => false
  | .mprog _ _ => false
  | .syscall _ => false
  | .brx _ => false
  | .bra o => inside o.toInt
  | .brc _ _ o => inside o.toInt
  | .sbr _ _ j => inside (immI j).toInt
  | _ => true

/-- Is an image legal, read unit by unit from word b? A parameter field counts here as register 96 to 111 (log 21). The first argument bounds the units. -/
def imageOkFrom (img : List Nat) : Nat → Nat → Bool
  | 0, _ => true
  | f + 1, b =>
    let ws := img.drop b
    if ws.isEmpty then true
    else match decode ws with
      | .ok i => mprogAllows i (b + (i.len - (if twoWordOp ((ws.drop (prefixWords (ws.take i.len))).headD 0) then 2 else 1))) img.length &&
          decide (b + i.len ≤ img.length) && imageOkFrom img f (b + i.len)
      | .error _ => false

/-- CSDATA_WRITE: a staged word; WORD advances. -/
def execCsdataWrite (c : Nat) (v : Word) (s : State) : Out :=
  let q := s.csrOf c 0x7D0
  .next ((s.updCore c (fun k => { k with csStage := k.csStage.ins (bits q 12 8) v })).setCsr c 0x7D0 (setBits q 12 8 (bits q 12 8 + 1)))

/-- CSCTL_GO: a legal image waits to install, another is rejected. -/
def execCsctlGo (c : Nat) (len : BitVec 6) (s : State) : Out :=
  let k := s.core c
  let n := len.toNat
  let slot := bits (s.csrOf c 0x7D0) 5 0
  let img := (List.range n).map (fun i => ((k.csStage.find i).getD 0).toNat)
  if n > 32 ∨ !imageOkFrom img 33 0 then .next (s.setCsr c 0x7D2 (n + 2 ^ 63))
  else .next ((s.updCore c (fun k => { k with csWait := k.csWait.ins slot img })).setCsr c 0x7D2 n)

/-- Is the lane inside slot k: does it execute there, or replay there next (R116)? -/
def Lane.inSlot (x : Lane) (k : Nat) : Bool :=
  x.st != .exited && x.mslot == k && (x.k.isSome || ((x.st == .waiting || x.released) && x.replayK.isSome))

/-- Is no lane of the core inside a slot, neither one that a handler runs for nor one that it keeps? -/
def State.slotFree (s : State) (c k : Nat) : Bool :=
  (s.slotsOf c).all (fun sl =>
    let p := s.pack c sl
    (List.range 32).all (fun l => !(p.lane l).inSlot k && !(p.keptLane l).inSlot k))

/-- CONTROL_STORE_INSTALL (R406, R428). -/
def execControlStoreInstall (c k : Nat) (s : State) : Out :=
  match (s.core c).csWait.find k with
  | none => .next s
  | some img =>
    if !s.slotFree c k then .next s
    else
      let bs := img.flatMap wordBytes
      .next { s.updCore c (fun m => { m with csWait := m.csWait.del k, mprogs := m.mprogs.ins k img }) with
              micro := Config.sha384 (s.micro ++ Config.sha384 bs) }

end Sys2Proof.Machine
end

