-- ==== Sys2Proof/Machine/Context.lean ====
section
/-! DEFINITION. Contexts (R407): CTXCFG and CTXCMD, pre-emption into the save area (R409, R410) and restore from it (R411). -/

namespace Sys2Proof.Machine

def State.ctxCmd (s : State) (ctx : Nat) : Nat := s.ctxReg ctx 0x68
def State.setCtxCmd (s : State) (ctx v : Nat) : State := s.setReg (0x600000 + 0x80 * ctx + 0x68) v

/-- CTXCFG_WRITE (R407). FUNC holds 0 to 32: another value leaves the field as it was (log 57). -/
def execCtxcfgWrite (ctx : Nat) (v : DWord) (s : State) : Out :=
  let st := s.ctxState ctx
  let a := 0x600000 + 0x80 * ctx
  let x := bits v.toNat 0 0 + 2 * (if bits v.toNat 6 1 ≤ 32 then bits v.toNat 6 1 else bits (s.reg a) 6 1)
  if ctx ≥ 64 then .next s
  else if bit x 0 then .next (s.setReg a x)
  else if st = 0 ∨ st = 3 then .next (s.setReg a x)
  else if st = 5 then .next ((s.setReg a x).setCtxState ctx 0)
  else .next s

/-- CTX_KILL (R408). -/
def execCtxKill (ctx : Nat) (s : State) : Out :=
  if ctx ≥ 64 ∨ bit (s.ctxCmd ctx) 63 then .next s else .next ((s.setCtxCmd ctx 3).killCtx ctx)

/-! ## The save area (R410) -/

/-- A piece of a save block: offset, bytes, poison. -/
abbrev Piece := Nat × List Byte × Bool

def saveVa (s : State) (ctx core : Nat) : Nat := s.ctxReg ctx 0x60 + 0x200000 * core

/-- Write a piece: a whole line sets or clears its poison bit, as R136 has it for one operation on a line. -/
def State.savePiece (s : State) (ctx core : Nat) (x : Piece) : State × Bool :=
  let va := saveVa s ctx core + x.1
  if x.2.1.length = 64 ∧ va % 64 = 0 then
    match ctlAddr s (core / 16) ctx va needW false with
    | (s, none) => (s, false)
    | (s, some p) => (s.writeLine {} p.pa x.2.1 x.2.2, true)
  else ctlWrite (core / 16) ctx false x.2.2 va x.2.1 s

def savePieces (ctx core : Nat) : List Piece → State → State × Bool
  | [], s => (s, true)
  | x :: xs, s => match s.savePiece ctx core x with
    | (s, true) => savePieces ctx core xs s
    | r => r

/-- Lines of a store from a byte on, `n` of them, as pieces from an offset of the block. -/
def linePieces (byte : Nat → Byte) (psn : Nat → Bool) (at_ off n : Nat) : List Piece :=
  (List.range n).map (fun j => (off + 64 * j, (List.range 64).map (fun i => byte (at_ + 64 * j + i)), psn ((at_ + 64 * j) / 64)))

/-- The progress record of R178, with the EXT image behind it. -/
def progBytes (c : Copy) : List Byte :=
  let z := shapeOf c.img c.q.base
  let (i0, i1, i2, i3) := z.idx c.at_
  let v := i0 % 2 ^ 16 + i1 % 2 ^ 16 * 2 ^ 16 + i2 % 2 ^ 16 * 2 ^ 32 + i3 % 2 ^ 16 * 2 ^ 48 + c.q.shape % 4096 * 2 ^ 64 + c.q.scope % 8 * 2 ^ 76 +
    c.q.rop % 16 * 2 ^ 79 + b2n c.q.acq * 2 ^ 83 + b2n c.q.rel * 2 ^ 84 + b2n c.q.dig * 2 ^ 85 + b2n c.acqDone * 2 ^ 86 + b2n c.q.base.isSome * 2 ^ 87 +
    2 * 2 ^ 88 + (c.q.bar.getD 0xFFFFFFFF) % 2 ^ 32 * 2 ^ 96
  leBytes 16 v ++ leBytes 8 (c.q.base.getD 0).toNat ++ leBytes 8 c.crc.toNat ++ (c.img ++ List.replicate 64 0).take 64 ++ c.ext

/-- An entry of a stream's queue (R180). -/
def posWord (q : List Pos) (i : Nat) : Nat :=
  match q[i]? with
  | none => 0
  | some x =>
    let first := x.gid != 0 && (i == 0 || ((q.getD (i - 1) {}).gid != x.gid))
    x.tile % 256 + x.p % 64 * 2 ^ 8 + b2n (x.gid != 0) * 2 ^ 14 + b2n first * 2 ^ 15 + (if first then x.passes % 128 * 2 ^ 16 else 0)

def strmBytes (x : Strm) : List Byte := (List.range 64).flatMap (fun i => leBytes 4 (posWord x.q i))

/-- The copy whose progress a tile's area holds: the oldest paused one. -/
def savedCopy (cs : FMap Copy) (t : Nat) : Option Copy := (cs.vals).find? (fun c => c.q.tile == t)

/-- The records of a pack block in delivery order (R410): that of the delivery to the handler, of which the pack keeps the lanes (R388), that of an
escalated one, and the pending traps'. A trap raised at handler level is one of the handler's lanes. -/
def packRecords (p : Pack) : List (List Byte) :=
  let more := decide (p.pending ≠ [])
  let ln := fun (t : Trap) => if t.hlvl then p.lane else p.keptLane
  ((match p.handler with | some d => [faultRecord p.keptLane d.trap false more p.traps] | none => []) ++
   (match p.svc with | some d => [faultRecord (ln d.trap) d.trap true more p.traps] | none => []) ++
   p.pending.map (fun t => faultRecord (ln t) t false false p.traps)).take 17

/-- The pack block. -/
def packPieces (p : Pack) (idx slot : Nat) : List Piece :=
  let b := 0x120000 + 8192 * slot
  let ln := fun (f : Nat → List Byte) => lanes32.flatMap f
  let flags := b2n p.handler.isSome + b2n p.evicted * 2 + b2n p.svc.isSome * 4 + p.evpend.toNat * 2 ^ 8 + p.pending.length % 32 * 2 ^ 16 +
    p.pkid % 256 * 2 ^ 24 + idx % 2 ^ 32 * 2 ^ 32
  let bars := (p.bars.take 8).flatMap (fun r => leBytes 16 (r.off % 2 ^ 32 + b2n r.obs * 2 ^ 32))
  [(b, ln (fun l => leBytes 8 (p.keptLane l).pc.toNat), false), (b + 256, ln (fun l => leBytes 4 (p.stateWord l)), false),
   (b + 384, (List.range 32).flatMap (fun i => leBytes 8 (p.sreg i).toNat), false),
   (b + 640, leBytes 4 0 ++ (List.range 7).flatMap (fun i => leBytes 4 (p.m.getD (i + 1) 0).toNat), false),
   (b + 672, leBytes 8 p.fpc.toNat ++ leBytes 8 flags ++ bars ++ List.replicate (128 - bars.length) 0, false),
   (b + 1024, ln (fun l => leBytes 8 (p.keptLane l).replay.toNat), false)] ++
  (match p.trapFrame with
   | some t => [(b + 2048, (List.range 8).flatMap (fun i => ln (fun l => leBytes 4 (t.1.cell i l).val.toNat)), false)]
   | none => []) ++
  (packRecords p).zipIdx.map (fun x => (b + 3840 + 256 * x.2, x.1, false))

/-- Everything a workgroup leaves in its core's save block. -/
def wgPieces (s : State) (id : Nat) : List Piece :=
  let w := s.wg id
  let k := s.core w.core
  let r := (s.launch w.uid).r
  let mine := s.copies.filter (fun c => c.2.wg == id)
  let tiles := (List.range r.ntiles).flatMap (fun t =>
    let x := s.tile w t
    let a := w.tileIx t
    let c := savedCopy mine t
    (0xF0000 + 16 * a, leBytes 16 (x.stat + (x.link.getD 0xFFFFFFFF) % 2 ^ 32 * 2 ^ 64 + b2n c.isSome * 2 ^ 96), false) ::
      (match c with | some c => [(0xF1000 + 256 * a, progBytes c, false)] | none => []))
  (if k.mxOwner = some id then
     (List.range 48).map (fun a => (12352 * a, (let x := k.accT a; x.saveBytes x.pmask), false)) ++ [(0x101000, strmBytes k.strA ++ strmBytes k.strB, false)]
   else []) ++
  linePieces (s.spadByte w.core) k.spadPsn.has (w.way * 16384) (0xA0000 + w.way * 16384) (w.ways * 256) ++ tiles ++
  linePieces (fun i => (k.args.find i).getD 0) k.argsPsn.has w.arg0 (0x110000 + w.arg0) ((r.argsize + 255) / 256 * 4) ++
  w.slots.flatMap (fun sl => packPieces (s.pack w.core sl) w.idx sl)

/-! ## Pre-emption (R409) -/

/-- A TCOPY that is not accepted is withdrawn: its lanes are back at it (R180). The oldest is withdrawn last. -/
def Pack.withdraw (p : Pack) : Pack :=
  let q := p.tcq.reverse.foldl (fun p x =>
    { (p.updLanes x.lanes (fun l => { l with pc := x.pc, k := x.k })) with toks := p.toks.filter (fun t => t.id != x.tok) }) p
  { q with tcq := [] }

/-- Steps 1 to 3: packs park, TCOPYs are withdrawn, copies pause with CAUSE 2. -/
def State.preemptStart (s : State) (ctx : Nat) : State :=
  let s := (s.setCtxCmd ctx (1 + 2 ^ 63)).setCtxState ctx 2
  let stop := fun (c : Copy) => c.ctx == ctx && decide (c.status ≤ 2)
  let ids := (s.copies.filter (fun c => stop c.2)).map Prod.fst
  let mine := fun (q : PrqWait) => match q.copy with | some c => ids.contains c | none => false
  let s := { s with
    packs := s.packs.map (fun (p : Nat × Pack) => if p.2.ctx == ctx then (p.1, { p.2.withdraw with ownPark := p.2.park, park := true }) else p),
    copies := s.copies.map (fun (c : Nat × Copy) => if stop c.2 then (c.1, { c.2 with status := 2, cause := 2 }) else c),
    prq := s.prq.filter (fun q => !mine q), prqHeld := s.prqHeld.filter (fun q => !mine q) }
  s.copies.foldl (fun s c => if stop c.2 then s.updTile (s.wg c.2.wg) c.2.q.tile (fun t => { t with paused := true }) else s) s

/-- Have steps 2 to 5 ended: instructions in flight, but for lanes that wait for a cluster member to start (R129), which are saved as they stand (log 31), copies at element boundaries, collectives, the MMA queue (R281)? -/
def State.saveReady (s : State) (ctx : Nat) : Bool :=
  s.packs.all (fun p => p.2.ctx != ctx || (p.2.toks.all (fun t => t.pend.isSome) && p.2.collq.isEmpty)) &&
  s.copies.all (fun c => c.2.ctx != ctx || (c.2.cause == 2 && c.2.status == 2 && c.2.waits == 0)) &&
  !s.colls.any (fun c => c.2.ctx == ctx) &&
  s.cores.all (fun k => k.2.mmaQ.all (fun e => (s.wg e.wg).ctx != ctx))

/-- Lanes that wait in WAITEV are back at it (R395). -/
def Pack.rewind (p : Pack) : Pack :=
  { (p.mapAll (fun _ x => if x.st == .waiting && x.why == .event then { x with st := .active, why := .none, pc := x.replay, k := x.replayK, age := 0 } else x)) with waitev := [] }

/-- Page requests of the context are cancelled, its trap queue entries go, and an escalated trap whose entry was still queued is pending again. -/
def State.preemptTraps (s : State) (ctx : Nat) : State :=
  let s := { s with prq := s.prq.filter (fun q => q.img.ctx != ctx), prqHeld := s.prqHeld.filter (fun q => q.img.ctx != ctx),
                    packs := s.packs.map (fun (p : Nat × Pack) =>
                      let p := (p.1, if p.2.ctx == ctx then p.2.rewind else p.2)
                      if p.2.ctx == ctx then
                        match p.2.svc with
                        | some d =>
                          if (s.core (p.1 / 48)).trq.any (fun e => e.slot == p.1 % 48 && e.img.isNone && e.code == d.trap.code) then
                            (p.1, { p.2 with svc := none, pending := d.trap :: p.2.pending })
                          else p
                        | none => p
                      else p) }
  { s with cores := s.cores.map (fun (k : Nat × Core) => (k.1, { k.2 with
      trq := k.2.trq.filter (fun e => e.ctx != ctx),
      trqHeld := match k.2.trqHeld with
        | some e => if e.ctx = ctx then none else some e
        | none => none })) }

/-- Step 7 for the frames of one pack from depth d up (R205): registers to the backing, records to the call-record area. -/
def spillFrom (core slot : Nat) : Nat → Nat → State → State × Bool
  | 0, _, s => (s, true)
  | n + 1, d, s =>
    let st := ((s.pack core slot).frames.getD d {}).st
    match (if st == .resident || st == .spilling then s.writeBack core slot d else (s, true)) with
    | (s, false) => (s, false)
    | (s, true) =>
      let s := s.updPack core slot (fun p => { p with frames := p.frames.modify d (fun f => { f with st := .spilled, cells := [], fill := {}, onChip := false }) })
      let p := s.pack core slot
      match s.pinWrite core p.ctx (s.crBase p + 32 * d) (p.frames.getD d {}).record with
      | (s, false) => (s, false)
      | (s, true) => spillFrom core slot n (d + 1) s

/-- Step 7 for a list of packs; false when the context died of a DOUBLE. -/
def spillPacks : List (Nat × Nat) → State → State × Bool
  | [], s => (s, true)
  | (c, sl) :: r, s => match spillFrom c sl (s.pack c sl).frames.length 0 s with
    | (s, true) => spillPacks r s
    | (s, false) => (s.pinFail c sl 1, false)

/-- Steps 8 and 9 for one workgroup: its save block is written, and it is kept aside. -/
def State.saveWg (s : State) (id : Nat) : State × Bool :=
  let w := s.wg id
  match savePieces w.ctx w.core (wgPieces s id) s with
  | (s, false) => (s, false)
  | (s, true) =>
    let k := s.core w.core
    let own := k.mxOwner == some id
    let n := (s.launch w.uid).r.ntiles
    let held := k.barHeld.filter (fun b => decide (w.way * 16384 ≤ b.1 ∧ b.1 < (w.way + w.ways) * 16384))
    let sv : SavedWg := { wg := w, packs := s.packs.filter (fun p => p.2.wg == id),
                          tiles := k.tiles.filter (fun t => decide (w.tile0 ≤ t.1 ∧ t.1 < w.tile0 + n)), copies := s.copies.filter (fun c => c.2.wg == id),
                          strA := if own then k.strA else {}, strB := if own then k.strB else {}, lastFed := if own then k.lastFed else none,
                          barHeld := held, split := k.split }
    (({ s with saved := s.saved.ins id sv, copies := s.copies.filter (fun c => c.2.wg != id) }).freeWg id, true)

def saveAll : List Nat → State → State × Bool
  | [], s => (s, true)
  | id :: r, s => match s.saveWg id with
    | (s, true) => saveAll r s
    | q => q

/-- Steps 6 to 9. While a byte of the save area cannot be reached nothing is done, and GO stays 1. -/
def State.preemptEnd (s : State) (ctx : Nat) : State :=
  let s0 := s.preemptTraps ctx
  let ids := (s0.wgs.filter (fun w => w.2.ctx == ctx)).map Prod.fst
  match spillPacks (ids.flatMap (fun i => (s0.wg i).slots.map (fun sl => ((s0.wg i).core, sl)))) s0 with
  | (s1, false) => s1
  | (s1, true) => match saveAll ids s1 with
    | (_, false) => s
    | (s2, true) => (s2.setCtxCmd ctx 1).setCtxState ctx 3

/-- May pre-emption go on to steps 6 to 9? -/
def State.preemptDue (s : State) (ctx : Nat) : Bool :=
  bit (s.ctxCmd ctx) 63 && bits (s.ctxCmd ctx) 1 0 == 1 && s.ctxState ctx == 2 && s.saveReady ctx

/-- CTX_PREEMPT (R409): the command starts the work; the same event, while GO reads 1, ends it. -/
def execCtxPreempt (ctx : Nat) (s : State) : Out :=
  if ctx ≥ 64 then .next s
  else if s.preemptDue ctx then .next (s.preemptEnd ctx)
  else if !bit (s.ctxCmd ctx) 63 ∧ s.ctxState ctx = 1 then .next (s.preemptStart ctx)
  else .next s

/-! ## Restore (R411) -/

/-- Are the core, slots and allocations free that a saved workgroup had? -/
def State.canRestore (s : State) (v : SavedWg) : Bool :=
  let w := v.wg
  let all := s.wgsOn w.core
  let argRoom := fun (x : Wg) => ((s.launch x.uid).r.argsize + 255) / 256 * 256
  let apart := fun (a n b m : Nat) => decide (a + n ≤ b ∨ b + m ≤ a)
  w.slots.all (fun sl => (s.pack? w.core sl).isNone) &&
  all.all (fun x => apart w.way w.ways x.2.way x.2.ways && apart w.tile0 (s.launch w.uid).r.ntiles x.2.tile0 (s.launch x.2.uid).r.ntiles &&
    apart w.arg0 (argRoom w) x.2.arg0 (argRoom x.2) && !(w.mx && x.2.mx)) &&
  (all.isEmpty || decide (w.way + w.ways ≤ (s.core w.core).split))

/-- Read n bytes of the save block and go on with them. -/
def withSaved (ctx core off n : Nat) (f : List (Byte × Bool) → State → State) (s : State) : State × Bool :=
  match ctlRead (core / 16) ctx false (saveVa s ctx core + off) n s with
  | (s, none) => (s, false)
  | (s, some bs) => (f bs s, true)

def runAll : List (State → State × Bool) → State → State × Bool
  | [], s => (s, true)
  | f :: fs, s => match f s with
    | (s, true) => runAll fs s
    | r => r

def natOf (bs : List (Byte × Bool)) (off n : Nat) : Nat := leNat (((bs.drop off).take n).map Prod.fst)

/-- A tile entry from its image. -/
def tileOf (v : Nat) : Tile :=
  { st := match bits v 1 0 with | 0 => .empty | 1 => .filling | 2 => .ready | _ => .draining,
    readers := bits v 7 2, err := bits v 11 8, paused := bit v 12, psn := bit v 13, size := bits v 26 16, off := bits v 42 32,
    link := if bits v 95 64 = 0xFFFFFFFF then none else some (bits v 95 64) }

/-- A copy from its progress record: it runs on at I0 to I3. -/
def Copy.ofProg (c : Copy) (bs : List (Byte × Bool)) : Copy :=
  let v := natOf bs 0 160
  let img := ((bs.drop 32).take 64).map Prod.fst
  let z := shapeOf img none
  let q := { c.q with shape := bits v 75 64, scope := bits v 78 76, rop := bits v 82 79, acq := bit v 83, rel := bit v 84, dig := bit v 85,
                      base := if bit v 87 then some (BitVec.ofNat 64 (bits v 191 128)) else none,
                      bar := if bits v 127 96 = 0xFFFFFFFF then none else some (bits v 127 96) }
  { c with q := q, img := img, ext := if c.ext = [] then [] else ((bs.drop 96).take 64).map Prod.fst, acqDone := bit v 86, crc := BitVec.ofNat 64 (bits v 255 192),
           at_ := bits v 15 0 + z.ext' 0 * (bits v 31 16 + z.ext' 1 * (bits v 47 32 + z.ext' 2 * bits v 63 48)) }

def Strm.reload (x : Strm) (bs : List (Byte × Bool)) (off : Nat) : Strm :=
  { q := x.q.zipIdx.map (fun y => let v := natOf bs (off + 4 * y.2) 4; { y.1 with tile := bits v 7 0, p := bits v 13 8, data := none }) }

/-- A trap from a 256-byte record (R385). -/
def trapOf (bs : List (Byte × Bool)) (off : Nat) : Trap :=
  let v := natOf bs off 96
  { code := bits v 7 0, hlvl := bit v 9, depth := bits v 23 16, detail := bits v 63 32, lanes := BitVec.ofNat 32 (bits v 95 64),
    defer := BitVec.ofNat 32 (bits v 127 96), replay := BitVec.ofNat 64 (bits v 191 128), k := if bit v 197 then some (bits v 196 192) else none,
    words := (List.range 4).map (fun i => bits v (415 + 32 * i) (384 + 32 * i)), va := BitVec.ofNat 64 (bits v 575 512),
    info := ((bs.drop (off + 96)).take 96).map Prod.fst, cycle := BitVec.ofNat 64 (natOf bs (off + 192) 8) }

/-- A kept lane from its lpc, state word and replay address: parked lanes are active (R212); one that waited for translation replays at once (R122). -/
def Lane.reload (x : Lane) (pc sw rp : Nat) : Lane :=
  let st : LaneSt := match bits sw 2 0 with | 0 => .active | 1 => .active | 2 => .waiting | 3 => .returned | 4 => .exited | _ => .helper
  let y := { x with pc := BitVec.ofNat 64 pc, depth := bits sw 10 3, target := bits sw 18 11, k := if bit sw 24 then some (bits sw 23 19) else none,
                    count := bits sw 27 25, blocked := bit sw 28, replay := BitVec.ofNat 64 rp, age := 0, rejoin := 0, st := st }
  let other := match x.why with
    | .barrier _ _ _ _ => true
    | .psync _ => true
    | .event => true
    | _ => false
  if st == .waiting && !other then { y with st := if x.helps then .helper else .active, helps := false, why := .none, released := true } else y

/-- A pack from its block and what was kept of it. -/
def Pack.reload (p : Pack) (bs : List (Byte × Bool)) (now ord : Nat) : Pack :=
  let p := lanes32.foldl (fun p l => p.updKept l (fun x => x.reload (natOf bs (8 * l) 8) (natOf bs (256 + 4 * l) 4) (natOf bs (1024 + 8 * l) 8))) p
  let flags := natOf bs 680 8
  let np := bits flags 20 16
  let nh := b2n p.handler.isSome
  let nl := nh + b2n p.svc.isSome
  let top := p.frames.length - 1
  let ev := bit flags 1
  { p with
    lanes := p.lanes.map (fun x => { x with age := 0 }),
    s := (List.range 32).map (fun i => BitVec.ofNat 64 (natOf bs (384 + 8 * i) 8)),
    m := (List.range 8).map (fun i => BitVec.ofNat 32 (natOf bs (640 + 4 * i) 4)),
    fpc := BitVec.ofNat 64 (natOf bs 672 8),
    evicted := ev, evpend := BitVec.ofNat 8 (bits flags 15 8),
    pending := (List.range np).map (fun i => trapOf bs (3840 + 256 * (i + nl))),
    svc := p.svc.map (fun d => { d with trap := trapOf bs (3840 + 256 * nh) }),
    handler := p.handler.map (fun d => { d with trap := trapOf bs 3840 }),
    bars := p.bars.zipIdx.map (fun r => { r.1 with off := natOf bs (688 + 16 * r.2) 4, obs := bit (natOf bs (688 + 16 * r.2) 16) 32 }),
    trapFrame := p.trapFrame.map (fun t => ((List.range 8).foldl (fun f i => lanes32.foldl (fun f l =>
      f.setCell i l { (f.cell i l) with val := BitVec.ofNat 32 (natOf bs (2048 + 128 * i + 4 * l) 4) }) f) t.1, t.2)),
    req := if ev ∨ p.frames = [] then none else some { cls := 1, n := (p.frames.getD top {}).size, depth := top, since := now, ownOrd := ord },
    park := p.ownPark, passed := 0, aged := false, ownStall := none, ownCause := none }

/-- Reload one workgroup; its pieces are read in the order of the block. -/
def State.restoreWg (s : State) (id : Nat) (v : SavedWg) : State × Bool :=
  let w := v.wg
  let c := w.core
  let rd := withSaved w.ctx c
  let s := s.prepSpad c w.way w.ways (if (s.wgsOn c).isEmpty then v.split else (s.core c).split)
  let s := s.updCore c (fun k => { k with tiles := v.tiles.foldl (fun m t => m.ins t.1 t.2) k.tiles, barHeld := v.barHeld.foldl (fun m b => m.ins b.1 b.2) k.barHeld })
  let s := if w.mx then s.updCore c (fun k => { (k.holdMx id) with lastFed := v.lastFed }) else s
  let s := { s with wgs := s.wgs.ins id w, saved := s.saved.del id,
                    packs := v.packs.foldl (fun m p => m.ins p.1 p.2) s.packs, copies := v.copies.foldl (fun m x => m.ins x.1 x.2) s.copies }
  let lines := fun (off n : Nat) (f : Nat → List (Byte × Bool) → State → State) =>
    (List.range n).map (fun j => rd (off + 64 * j) 64 (f j))
  let room := ((s.launch w.uid).r.argsize + 255) / 256 * 256
  runAll (
    (if w.mx then (List.range 48).map (fun a => rd (12352 * a) 12352 (fun bs s => s.updCore c (fun k => { k with acc := k.acc.ins a (accLoad (bs.map Prod.fst) (bs.map Prod.snd)) }))) ++
        [rd 0x101000 512 (fun bs s => s.updCore c (fun k => { k with strA := v.strA.reload bs 0, strB := v.strB.reload bs 256 }))]
     else []) ++
    lines (0xA0000 + w.way * 16384) (w.ways * 256) (fun j bs s =>
      bs.zipIdx.foldl (fun s x => s.setSpad c (w.way * 16384 + 64 * j + x.2) x.1.1 x.1.2) s) ++
    v.tiles.flatMap (fun t => [rd (0xF0000 + 16 * t.1) 16 (fun bs s => s.updCore c (fun k => { k with tiles := k.tiles.ins t.1 (tileOf (natOf bs 0 16)) }))] ++
      (match savedCopy v.copies (t.1 - w.tile0) with
       | some x => [rd (0xF1000 + 256 * t.1) 160 (fun bs s => { s with copies := s.copies.upd x.id (fun y => y.ofProg bs) })]
       | none => [])) ++
    lines (0x110000 + w.arg0) (room / 64) (fun j bs s =>
      s.updCore c (fun k => { k with args := bs.zipIdx.foldl (fun m x => setCanon m (w.arg0 + 64 * j + x.2) x.1.1) k.args,
                                     argsPsn := if bs.any Prod.snd then k.argsPsn.ins ((w.arg0 + 64 * j) / 64) () else k.argsPsn.del ((w.arg0 + 64 * j) / 64) })) ++
    w.slots.map (fun sl => rd (0x120000 + 8192 * sl) 8192 (fun bs s => s.updPack c sl (fun p => p.reload bs s.cycle s.ownSteps)))) s

/-- TRESUME on every tile with a progress record, and the trap queue entries of packs that await ENDTRAP. -/
def State.restoreEnd (s : State) (id : Nat) : State :=
  let w := s.wg id
  let s := { s with copies := s.copies.map (fun (x : Nat × Copy) => if x.2.wg == id && x.2.status == 2 && x.2.cause == 2 then (x.1, { x.2 with status := 0 }) else x) }
  w.slots.foldl (fun s sl => match (s.pack w.core sl).svc with
    | some d => s.updCore w.core (fun k => { k with trq := k.trq ++ [{ slot := sl, code := d.trap.code, ctx := w.ctx }] })
    | none => s) s

/-- The next saved workgroup of a context whose place is free. -/
def State.restorable (s : State) (ctx : Nat) : Option (Nat × SavedWg) := s.saved.find? (fun v => v.2.wg.ctx == ctx && s.canRestore v.2)

/-- Place one saved workgroup; with the last one GO reads 0. One whose block cannot be read stays saved. -/
def State.restoreStep (s : State) (ctx : Nat) : State :=
  let s := match s.restorable ctx with
    | none => s
    | some (id, v) => match s.restoreWg id v with
      | (_, false) => s
      | (s', true) => s'.restoreEnd id
  if s.saved.any (fun v => v.2.wg.ctx == ctx) then s
  else
    let s := s.setCtxCmd ctx 2
    if s.ctxState ctx = 4 ∧ !s.wgs.any (fun w => w.2.ctx == ctx) then (s.setCtxState ctx 1).ctxSettle ctx else s

/-- Is a restore under way? -/
def State.restoring (s : State) (ctx : Nat) : Bool := bit (s.ctxCmd ctx) 63 && bits (s.ctxCmd ctx) 1 0 == 2

/-- CTX_RESTORE (R411): the command starts the work; the same event, while GO reads 1, places the next workgroup. -/
def execCtxRestore (ctx : Nat) (s : State) : Out :=
  if ctx ≥ 64 then .next s
  else if s.restoring ctx then .next (s.restoreStep ctx)
  else if !bit (s.ctxCmd ctx) 63 ∧ s.ctxState ctx = 3 then .next (((s.setCtxCmd ctx (2 + 2 ^ 63)).setCtxState ctx 4).restoreStep ctx)
  else .next s

end Sys2Proof.Machine
end

