-- ==== Sys2Proof/Machine/Control.lean ====
section
/-! DEFINITION. Branches, NOP and YIELD (R212, R222 to R226). -/

namespace Sys2Proof.Machine

/-- Lanes of `m` go to `t`; a replayed lane too, since a branch's effect is the lane's `lpc` (log 29). -/
def sendLanes (c : Ctx) (m : Word) (t : DWord × Option Nat) (s : State) : State :=
  s.updPack c.u.core c.u.slot (fun p => p.updLanes m (Lane.goto t))

/-- NOP (R222). -/
def execNop (s : State) : Out := runUnit .nop {} (fun c => { s := c.s }) s

/-- BRA (R224). -/
def execBra (o : BitVec 25) (s : State) : Out :=
  let i := Instr.bra o
  runUnit i (instrUses i) (fun c => { s := sendLanes c c.ig (c.target o.toInt) c.s, stay := c.ig }) s

/-- BRC (R224); in paired-lane mode the outcome is the mask's, which both copies share (R417, R419). -/
def execBrc (m : BitVec 3) (k : BitVec 1) (o : BitVec 21) (s : State) : Out :=
  let i := Instr.brc m k o
  runUnit i (instrUses i) (fun c =>
    let mm := c.p.mreg c.ig m.toNat
    let taken := c.ig &&& (if k == 1 then mm else ~~~mm)
    let s1 := sendLanes c taken (c.target o.toInt) c.s
    { s := sendLanes c (c.ig &&& ~~~taken) (c.next, c.nextK) s1, stay := c.ig }) s

/-- BRX (R225): poison, then alignment, then, in paired-lane mode, the two copies of the target (R419). -/
def execBrx (a : VReg) (s : State) : Out :=
  let i := Instr.brx a
  runUnit i (instrUses i) (fun c =>
    let tgt := fun l => c.rv2 a l
    let ls := (lanesOf c.ig).filter (fun l => c.act.lane l)
    let tr := ls.filterMap (fun l =>
      if c.psn a 2 l then some { l := l, code := tPOISON }
      else if c.q.paired && tgt l != tgt (l + 16) then
        some { l := l, code := tPAIR, info := pairInfoW l (tgt l).toNat (tgt (l + 16)).toNat 2 }
      else if (tgt l).toNat % 4 ≠ 0 then some { l := l, code := tMISALIGN, va := tgt l }
      else none)
    let bad := tr.map LTrap.l
    let ok := ls.filter (fun l => !bad.contains l)
    { s := ok.foldl (fun s l => sendLanes c (laneMask [l]) (tgt l, none) s) c.s, traps := tr, stay := laneMask ok }) s
where
  pairInfoW (l v w kind : Nat) : List Byte := leBytes 13 (l + v % 2 ^ 32 * 2 ^ 32 + w % 2 ^ 32 * 2 ^ 64 + kind * 2 ^ 96)

/-- Conditions of SBR (R226). -/
def sbrTaken (cc : Nat) (v : DWord) : Bool :=
  match cc with
  | 0 => v == 0
  | 1 => v != 0
  | 2 => v.msb
  | 3 => !v.msb
  | 4 => !v.msb && v != 0
  | _ => v.msb || v == 0

/-- SBR (R226). -/
def execSbr (d cc : BitVec 7) (i : Imm 11) (s : State) : Out :=
  let n := Instr.sbr d cc i
  runUnit n (instrUses n) (fun c =>
    let t := if sbrTaken cc.toNat (c.p.sreg d.toNat) then c.target (immI i).toInt else (c.next, c.nextK)
    { s := sendLanes c c.ig t c.s, stay := c.ig }) s

/-- YIELD (R212): the group parks behind the other eligible lanes at its depth. -/
def execYield (s : State) : Out :=
  runUnit .yield (instrUses .yield) (fun c =>
    let others := laneMask (lanes32.filter (fun l =>
      !c.ig.lane l && c.p.eligible l && c.p.selDepth l == c.u.depth))
    { s := c.s.updPack c.u.core c.u.slot (fun p => p.updLanes c.ig (fun x =>
        { x.past (c.next, c.nextK) with st := .parked, rejoin := others, count := 0 })),
      stay := c.ig }) s

end Sys2Proof.Machine
end

