-- ==== Sys2Proof/Machine/CrossLane.lean ====
section
/-! DEFINITION. Cross-lane instructions, 0x58 to 0x5F (R227 to R232). In paired-lane mode lanes 0 to 15 exchange among themselves and the partners
among themselves (R417). -/

namespace Sys2Proof.Machine

/-- The supplying lanes (R227). -/
def Ctx.supply (c : Ctx) : Word := c.ig &&& ~~~c.masked

/-- Where a lane's copy of the register file starts: 16 for a partner. -/
def Ctx.half (c : Ctx) (l : Nat) : Nat := l - c.lid l

/-- Write each unmasked lane's value; a lane for which `tag` names a register traps SNAN_INIT instead (R85, R227).
`chk` is the source of an instruction whose combines are checked (R263), and how they are. -/
def xwrite (c : Ctx) (d : VReg) (tag : Nat → Option Nat) (opd : Nat) (chk : Option (VReg × ShKind)) (f : Nat → VCell × Nat) : Res :=
  let ls := lanesOf c.act
  let tg := ls.filterMap (fun l => if c.isHelper (c.lid l) then none else
    (tag l).map (fun r => ({ l := c.lid l, code := tSNAN, info := [BitVec.ofNat 8 opd, BitVec.ofNat 8 r] } : LTrap)))
  let bad := withPartners c.q.paired (laneMask (tg.map LTrap.l))
  let checked := ls.filter (fun l => !bad.lane l && !c.isHelper (c.lid l))
  let sh := match chk with
    | none => []
    | some k => checked.filter (fun l => c.shadowBad k.2 l [(f l).1.val])
  let out := fun l => match chk with
    | none => (f l).1
    | some k => if c.isHelper (c.lid l) then (f l).1 else { (f l).1 with val := (c.shadowMain k.2 l [(f l).1.val]).headD 0 }
  let hold := bad ||| withPartners c.q.paired (laneMask (sh.map (c.lid ·)))
  let p := lanes32.foldl (fun p l =>
    if c.act.lane l && !hold.lane l then p.writeV c.u.depth d.toNat l (out l)
    else if c.masked.lane l && c.pfx.mz then p.writeV c.u.depth d.toNat l {}
    else p) (c.s.pack c.u.core c.u.slot)
  let flags := (ls.filter (fun l => !hold.lane l && !c.isHelper (c.lid l))).foldl (fun a l => a ||| (f l).2) 0
  let s := c.s.updPack c.u.core c.u.slot (fun _ => p.mergeFlags flags)
  match chk with
  | none => { s := s, traps := tg }
  | some k => { s := c.noteShadow 0 checked sh s, traps := tg ++ sh.map (fun l => c.shadowTrap 0 [⟨.A, k.1, 1⟩] l (out l).val) }

/-- A lane's value comes from its source lane when that supplies, else from itself (R227, R228). `ix` is the index register of SHFL. -/
def shuffle (c : Ctx) (d a : VReg) (ix : Option VReg) (src : Nat → Option Nat) : Res :=
  let from_ := fun l => match src l with
    | some j => if c.supply.lane j then j + c.half l else l
    | none => l
  xwrite c d (fun l => if (c.cell a.toNat (from_ l)).tag && decide (a.toNat ≤ 111) then some a.toNat else none) 0 none (fun l =>
    let v := c.cell a.toNat (from_ l)
    let ip := match ix with | some b => c.psn b 1 l | none => false
    ({ val := v.val, psn := v.psn || ip }, 0))

/-- Lanes of a segment (R228); in paired-lane mode segment code 0 is a segment of 16 (R417). -/
def segLen (c : Ctx) (seg : BitVec 2) : Nat := if c.q.paired && seg == 0 then 16 else 32 / 2 ^ seg.toNat

/-- SHFL (R228). -/
def execShfl (p : Option Pfx) (d a b : VReg) (seg : BitVec 2) (s : State) : Out :=
  let i := Instr.shfl p d a b seg
  runUnit i (instrUses i) (fun c =>
    let z := segLen c seg
    shuffle c d a (some b) (fun l => let k := c.lid l; some (k - k % z + (c.rv b l).toNat % z))) s

/-- SHFLUP (R228). -/
def execShflup (p : Option Pfx) (d a : VReg) (seg : BitVec 2) (n : BitVec 5) (s : State) : Out :=
  let i := Instr.shflup p d a seg n
  runUnit i (instrUses i) (fun c =>
    let z := segLen c seg
    shuffle c d a none (fun l => let k := c.lid l; if n.toNat ≤ k % z then some (k - n.toNat) else none)) s

/-- SHFLDN (R228). -/
def execShfldn (p : Option Pfx) (d a : VReg) (seg : BitVec 2) (n : BitVec 5) (s : State) : Out :=
  let i := Instr.shfldn p d a seg n
  runUnit i (instrUses i) (fun c =>
    let z := segLen c seg
    shuffle c d a none (fun l => let k := c.lid l; if k % z + n.toNat < z then some (k + n.toNat) else none)) s

/-- SHFLX (R228). A pattern that leaves lanes 0 to 15 of a paired pack names no supplying lane. -/
def execShflx (p : Option Pfx) (d a : VReg) (seg : BitVec 2) (n : BitVec 5) (s : State) : Out :=
  let i := Instr.shflx p d a seg n
  runUnit i (instrUses i) (fun c => shuffle c d a none (fun l => some (c.lid l ^^^ n.toNat))) s

/-- QSWZ (R229). -/
def execQswz (p : Option Pfx) (d a : VReg) (pat : BitVec 8) (s : State) : Out :=
  let i := Instr.qswz p d a pat
  runUnit i (instrUses i) (fun c =>
    shuffle c d a none (fun l => let k := c.lid l; some (4 * (k / 4) + bits pat.toNat (2 * (k % 4) + 1) (2 * (k % 4))))) s

/-- The operators of R48: value and flags. -/
def redOp (k rm : Nat) (a b : Word) : Word × Nat :=
  let i := fun (v : Word) => (v, 0)
  let f := fun (r : Nat × Nat) => (BitVec.ofNat 32 r.1, r.2)
  match k with
  | 0 => i (a + b)
  | 1 => i (if a.sle b then a else b)
  | 2 => i (if b.sle a then a else b)
  | 3 => i (if a.ule b then a else b)
  | 4 => i (if b.ule a then a else b)
  | 5 => i (a &&& b)
  | 6 => i (a ||| b)
  | 7 => i (a ^^^ b)
  | 8 => f (fpAdd f32 rm a.toNat b.toNat)
  | 9 => f (fpMin f32 false a.toNat b.toNat)
  | _ => f (fpMin f32 true a.toNat b.toNat)

/-- How a combine of an f32 operator is checked (R263): FADD as a number, FMIN and FMAX bit for bit. -/
def redKind (k : Nat) : ShKind := if k = 8 then .fp f32 else .bits 32

/-- The tree of R230 over lanes lo to lo + 2^n - 1; lanes outside S are empty. -/
def redTree (k rm : Nat) (x : Nat → Option Word) : Nat → Nat → Option (Word × Nat)
  | 0, lo => (x lo).map (fun v => (v, 0))
  | n + 1, lo =>
    match redTree k rm x n lo, redTree k rm x n (lo + 2 ^ n) with
    | none, b => b
    | a, none => a
    | some a, some b => let r := redOp k rm a.1 b.1; some (r.1, a.2 ||| b.2 ||| r.2)

/-- REDUX (R230). -/
def execRedux (p : Option Pfx) (d a : VReg) (k : BitVec 4) (s : State) : Out :=
  let i := Instr.redux p d a k
  runUnit i (instrUses i) (fun c =>
    let res := fun h => redTree k.toNat c.rm (fun j => if c.supply.lane j then some (c.rv a (j + h)) else none) 5 0
    let any := fun (h : Nat) (t : VCell → Bool) => (lanesOf c.supply).any (fun j => decide (a.toNat ≤ 111) && t (c.cell a.toNat (j + h)))
    xwrite c d (fun l => if any (c.half l) VCell.tag then some a.toNat else none) 0 (if 8 ≤ k.toNat then some (a, redKind k.toNat) else none) (fun l =>
      match res (c.half l) with
      | some r => ({ val := r.1, psn := any (c.half l) VCell.psn }, r.2)
      | none => ({}, 0))) s

/-- Identities of the operators (R231). -/
def redIdentity (k : Nat) : Word :=
  match k with
  | 1 => 0x7FFFFFFF
  | 2 => 0x80000000
  | 3 => 0xFFFFFFFF
  | 5 => 0xFFFFFFFF
  | 9 => 0x7F800000
  | 10 => 0xFF800000
  | _ => 0

/-- Running combination of a list, with flags (R231). -/
def scanFold (k rm : Nat) (xs : List Word) : Option (Word × Nat) :=
  xs.foldl (fun acc v => match acc with
    | none => some (v, 0)
    | some a => let r := redOp k rm a.1 v; some (r.1, a.2 ||| r.2)) none

/-- SCAN (R231): serial in ascending lane order; flags of every combine merge. -/
def execScan (p : Option Pfx) (d a : VReg) (ex : BitVec 1) (k : BitVec 4) (s : State) : Out :=
  let i := Instr.scan p d a ex k
  runUnit i (instrUses i) (fun c =>
    let below := fun l => (lanesOf c.supply).filter (fun j => decide (j < c.lid l) || (ex == 0 && j == c.lid l))
    let any := fun l (t : VCell → Bool) => (below l).any (fun j => decide (a.toNat ≤ 111) && t (c.cell a.toNat (j + c.half l)))
    let all := fun l => match scanFold k.toNat c.rm ((lanesOf c.supply).map (fun j => c.rv a (j + c.half l))) with
      | some r => r.2
      | none => 0
    xwrite c d (fun l => if any l VCell.tag then some a.toNat else none) 0 (if 8 ≤ k.toNat then some (a, redKind k.toNat) else none) (fun l =>
      match scanFold k.toNat c.rm ((below l).map (fun j => c.rv a (j + c.half l))) with
      | some r => ({ val := r.1, psn := any l VCell.psn }, all l)
      | none => ({ val := redIdentity k.toNat }, all l))) s

/-- MATCH (R232): lanes of S with the same value. -/
def execMatchl (p : Option Pfx) (d a : VReg) (x : BitVec 1) (s : State) : Out :=
  let i := Instr.matchl p d a x
  runUnit i (instrUses i) (fun c =>
    let n := if x == 1 then 2 else 1
    let val := fun l => if n = 2 then c.rv2 a l else (c.rv a l).setWidth 64
    let any := fun l (t : VCell → Bool) => (lanesOf c.supply).any (fun j =>
      decide (a.toNat ≤ 111) && (List.range n).any (fun k => t (c.cell (a.toNat + k) (j + c.half l))))
    xwrite c d (fun l => if any l VCell.tag then some a.toNat else none) 0 none (fun l =>
      ({ val := laneMask ((lanesOf c.supply).filter (fun j => val (j + c.half l) == val l)), psn := any l VCell.psn }, 0))) s

end Sys2Proof.Machine
end

