-- ==== Sys2Proof/Machine/Security.lean ====
section
/-! DEFINITION. Key slots (R430) and the execution record (R428). -/

namespace Sys2Proof.Machine

def keyReg (k : Nat) : Nat := 0x710000 + 8 * k

/-- KLOAD (R430). The key that a load puts into a slot is named by the slot and its generation. A blob outside class 0x8, one that cannot be reached, and slot 0
fail. -/
def execKload (v : DWord) (s : State) : Out :=
  let x := v.toNat
  let pa := bits x 51 7 * 128
  let k := bits x 4 0
  let fields := pa + k
  if !bit x 63 then .next (s.setReg 0x710100 (fields + bits (s.reg 0x710100) 62 62 * 2 ^ 62))
  else
    let ok := k != 0 && paOk pa && paClass pa == 8 && !s.homeLost pa
    let s := if ok then s.touch {} pa 128 else s
    if ok && Config.unwraps (s.readBytes {} pa 128) then
      let g := bits (s.reg (keyReg k)) 63 32
      .next ((s.setReg 0x710100 fields).setReg (keyReg k) (1 + (g + 1) % 2 ^ 32 * 2 ^ 32))
    else .next (s.setReg 0x710100 (fields + 2 ^ 62))

/-- KSLOT_ZERO (R430): later translations that name the slot fault, those held in TLBs too. -/
def execKslotZero (k : Nat) (s : State) : Out :=
  if k = 0 ∨ k ≥ 32 then .next s
  else .next { s.setReg (keyReg k) (bits (s.reg (keyReg k)) 63 32 * 2 ^ 32) with tlb := s.tlb.filter (fun e => !(e.root == 1 && e.key == k)) }

/-- What the record says (R428), in the order of the rule. -/
def recordFacts (s : State) (ctx : Nat) : List Byte :=
  let d := (s.lastDone.find ctx).getD (0, 0)
  leBytes 2 s.pkgId ++ leBytes 1 ctx ++ leBytes 1 (s.funcOf ctx) ++ leBytes 8 (s.reg 0x720008) ++ Config.firmwareDigest 0 ++ Config.firmwareDigest 1 ++
    Config.firmwareDigest 2 ++ s.micro ++ s.chainOf ctx ++ leBytes 8 ((s.launched.find ctx).getD 0) ++ leBytes 1 d.1 ++ leBytes 1 d.2

/-- EXREQ (R428). -/
def execExreq (v : DWord) (s : State) : Out :=
  let x := v.toNat
  let pa := bits x 51 12 * 4096
  let s := s.setReg 0x720000 (pa + bits x 5 0)
  if bit x 63 && paOk pa && paClass pa == 8 && !s.homeLost pa then
    let f := recordFacts s (bits x 5 0)
    .next (s.writeBytes {} pa ((List.range 4096).map (Config.recordByte f)) false)
  else .next s

end Sys2Proof.Machine
end

