-- ==== Sys2Proof/Machine/Operation.lean ====
section
/-! DEFINITION. Power states (R432 to R434), package reset and bring-up (R427, R446, R448). -/

namespace Sys2Proof.Machine

/-! ## Latency tolerance (R433) -/

/-- LATTOL.NS as it reads: 0 until bring-up is complete (R448). -/
def State.lattol (s : State) : Nat := if s.boot.stage ≥ 6 then bits (s.reg 0x800000) 31 0 else 0

/-- LATTOL.DEEP: the deepest state whose wake time the tolerance allows. -/
def deepOf (ns : Nat) : Nat := if ns < 50 then 0 else if ns < 8000 then 1 else if ns < 200000 then 2 else 3

def State.deep (s : State) : Nat := deepOf s.lattol

/-- LATTOL as it reads. -/
def State.lattolWord (s : State) : Nat := s.lattol + s.deep * 2 ^ 32

/-- Units in a deeper state than `d` wake (R434). -/
def State.wakeTo (s : State) (d : Nat) : State :=
  { s with cores := s.cores.map (fun (k : Nat × Core) => if k.2.power > d then (k.1, { k.2 with power := 0 }) else k),
           diePower := s.diePower.map (fun p => if p > d then 0 else p) }

/-- LATTOL_WRITE (R433, R434). -/
def execLattolWrite (v : DWord) (s : State) : Out :=
  let s := s.setReg 0x800000 (bits v.toNat 31 0)
  .next (s.wakeTo s.deep)

/-! ## Entries (R432) -/

/-- No resident pack, the supervisor core in WFI (or held in reset) with nothing to serve, no copy of the core outstanding. -/
def State.coreIdle (s : State) (c : Nat) : Bool :=
  let k := s.core c
  let h := (s.harts.find c).getD {}
  (!h.on || h.wfi) &&
  (s.slotsOf c).isEmpty && k.trq.isEmpty && k.mbxRing == 0 && k.mbxStep.isNone && !s.copies.any (fun x => x.2.core == c)

/-- Has a core been idle for 256 clocks? -/
def State.coreRested (s : State) (c : Nat) : Bool := decide (c < 160) && s.coreIdle c && decide ((s.core c).idleSince + 256 ≤ s.cycle)

def State.c1Due (s : State) (c : Nat) : Bool := (s.core c).power == 0 && s.deep == 1 && s.coreRested c
def State.c2Due (s : State) (c : Nat) : Bool := decide ((s.core c).power ≤ 1) && decide (s.deep ≥ 2) && s.coreRested c

/-- C1_ENTRY. -/
def execC1Entry (c : Nat) (s : State) : Out := .next (if s.c1Due c then s.updCore c (fun k => { k with power := 1 }) else s)

/-- C2_ENTRY: dirty L1 lines are written back; the register file, unified array, accumulators, tile table and streams are lost. -/
def execC2Entry (c : Nat) (s : State) : Out :=
  .next (if s.c2Due c then
    (s.dropWays c 20).updCore c (fun k => { k with power := 2, spad := [], spadPsn := [], barHeld := [], tiles := [], acc := [], strA := {}, strB := {} })
  else s)

def State.c3Due (s : State) (d : Nat) : Bool :=
  decide (d < 2) && s.diePower.getD d 0 == 0 && decide (s.deep ≥ 3) && (List.range 80).all (fun i => (s.core (80 * d + i)).power == 2) &&
    decide (s.dieIdle.getD d 0 + 2 ^ 20 ≤ s.cycle)

/-- C3_ENTRY: nothing is lost. -/
def execC3Entry (d : Nat) (s : State) : Out := .next (if s.c3Due d then { s with diePower := s.diePower.set d 3 } else s)

/-- WAKE (R434). Ports have no power state of their own. -/
def execWake (u : PowerUnit) (s : State) : Out :=
  match u with
  | .core c => .next (s.updCore c (fun k => { k with power := 0, idleSince := s.cycle }))
  | .die d => .next { s with diePower := s.diePower.set d 0, dieIdle := s.dieIdle.set d s.cycle }
  | .port _ => .next s

/-! ## Errors of memories (R413, R414) -/

/-- A lane register becomes poisoned (R413): of a resident frame, or, at the depth above the stack, of the trap frame. -/
def Pack.hitReg (p : Pack) (d r l : Nat) : Pack :=
  let hit := fun (f : Frame) => if decide (r < 8 * f.size) && decide (l < 32) then f.setCell r l { f.cell r l with psn := true } else f
  { p with frames := p.frames.modify d (fun f => if f.st == .resident then hit f else f),
           trapFrame := if d = p.frames.length then p.trapFrame.map (fun t => (hit t.1, t.2)) else p.trapFrame }

/-- A block of a buffered position becomes poisoned (R176). -/
def Strm.hitBlock (x : Strm) (e blk : Nat) : Strm :=
  { x with q := x.q.modify e (fun p => { p with data := p.data.map (fun d => (d.1, d.2.set blk true)) }) }

/-- A block of a position of a stream: one in its queue, or, numbered on from there, one that the started MMA has popped and stages as an operand. -/
def Core.hitStream (k : Core) (b : Bool) (n blk : Nat) : Core :=
  let m := (k.strm b).q.length
  if n < m then k.setStrm b ((k.strm b).hitBlock n blk)
  else
    let hit := fun (ps : List (List Byte × List Bool)) => ps.modify (n - m) (fun d => (d.1, d.2.set blk true))
    { k with mmaQ := k.mmaQ.modify 0 (fun e => { e with popped := e.popped.map (fun x => if b then (x.1, hit x.2) else (hit x.1, x.2)) }) }

/-- The context that uses a core's matrix unit, where one does (R414). -/
def State.mxCtx (s : State) (c : Nat) : Nat := ((s.core c).mxOwner.map (fun w => (s.wg w).ctx)).getD 0

/-- An error is found: what it becomes at its level (R413), and its count (R414). -/
def State.meetError (e : HwError) (s : State) : State :=
  match e with
  | .corrected v =>
    if v ≥ 8 then s
    else let a := 0x700000 + 16 * v
         s.setReg a (setBits (s.reg a) 31 0 (satAdd 32 (bits (s.reg a) 31 0) 1))
  | .line llc pa ctx => if s.localHome pa then (s.setLinePsn pa true).countUE (b2n llc) (pa / 64 * 64) ctx else s
  | .chip off ctx => ({ s with chipPsn := s.chipPsn.ins (off / 64) () }).countUE 1 off ctx
  | .tags pa ctxs => (ctxs.foldl State.killCtx s).countUE 2 (pa / 64 * 64) (ctxs.headD 0)
  | .l1 core pa ctx => ({ s with l1 := s.l1.upd (l1Key core (pa / 64)) (fun x => { x with psn := true }) }).countUE 3 core ctx
  | .block core off ctx => (s.updCore core (fun k => { k with spadPsn := k.spadPsn.ins (off / 64) () })).countUE 3 core ctx
  | .reg core slot d r l => (s.updPack core slot (fun p => p.hitReg d r l)).countUE 4 core (s.pack core slot).ctx
  | .acc core a row => (s.setAcc core a (((s.core core).accT a).setPsn row true)).countUE 5 core (s.mxCtx core)
  | .stream core b n blk => (s.updCore core (fun k => k.hitStream b n blk)).countUE 6 core (s.mxCtx core)
  | .entry core t n =>
    let ctx := if t then (s.tlb[n]?.map TlbEntry.ctx).getD 0 else (s.recCache[n]?.map (fun x => x.1.1)).getD 0
    (if t then { s with tlb := s.tlb.eraseIdx n } else { s with recCache := s.recCache.eraseIdx n }).countUE 7 core ctx

/-! ## Reset and bring-up -/

/-- PACKAGE_RESET (R448): every reset value; fuses stay, and HBM holds what it held until stage 2. What is left of the outside's inputs still comes. -/
def execPackageReset (s : State) : Out :=
  .next { State.reset with cores := (List.range 160).map (fun c => (c, ({ lanemap := (s.core c).lanemap } : Core))), mem := s.mem, memPsn := s.memPsn,
                           mirror := s.mirror, latent := s.latent, shadowErr := s.shadowErr, errors := s.errors, outbox := s.outbox, agenda := s.agenda,
                           ownSteps := s.ownSteps, ownDraws := s.ownDraws }

/-- BOOTSTAT (R446). -/
def State.bootstat (s : State) : Nat := s.boot.stage % 16 + b2n s.boot.slot * 16 + b2n s.boot.failed * 32

/-- Harts leave reset, in M mode. -/
def State.startHarts (s : State) (hs : List Nat) : State :=
  { s with harts := hs.foldl (fun m h => m.ins h { on := true, pc := Config.hartStart h &&& 0xFFFFFFFFFFFFFFFE }) s.harts }

/-- BRINGUP_STAGE (R427, R448): the next stage completes. Stage 4 sets PKG_ID to `pkg` and releases the host cores;
stage 5 makes the homes of `peers` reachable; stage 6 releases the supervisor cores with the compute cores. -/
def execBringupStage (n pkg : Nat) (peers : List Nat) (s : State) : Out :=
  if s.boot.failed ∨ n ≠ s.boot.stage + 1 ∨ n > 6 then .next s
  else
    let up := fun (s : State) => { s with boot := { s.boot with stage := n } }
    match n with
    | 1 =>
      if Config.imageOk 0 then .next (up s)
      else if Config.imageOk 1 then .next { s with boot := { stage := 1, slot := true } }
      else .next { s with boot := { s.boot with slot := true, failed := true } }
    | 2 => .next (up { s with mem := [], memPsn := [], lineKey := [], mirror := [], latent := s.latent.filter (fun x => decide (2 ^ 60 ≤ x.1)) })
    | 4 => .next (up ({ s with pkgId := pkg % 2048 }.startHarts ((List.range 16).map (160 + ·))))
    | 5 => .next (up { s with members := peers.foldl (fun m p => if p = s.pkgId then m else m.ins p ()) s.members })
    | 6 => .next (up (s.startHarts (List.range 160)))
    | _ => .next (up s)

end Sys2Proof.Machine
end

