-- ==== Sys2Proof/Machine/Debug.lean ====
section
/-! DEFINITION. The debug mailbox of a core (R443 to R445). A command that cannot end at once is kept in Core.mbxStep and answered later. -/

namespace Sys2Proof.Machine

def mbxReg (c : Nat) : Nat := 0x830000 + 8 * c
def State.mbxOn (s : State) (c : Nat) : Bool := bit (s.reg (mbxReg c)) 0
def State.mbxPage (s : State) (c : Nat) : Nat := bits (s.reg (mbxReg c)) 51 12 * 4096

/-- STATUS codes. -/
def mbOK := 0
def mbBADSLOT := 1
def mbNOTHALTED := 2
def mbTRAPPED := 3
def mbNOELIG := 4
def mbREFUSED := 5

/-- An answer: status, trap code, the value read. -/
structure MbxAns where
  status : Nat := 0
  code : Nat := 0
  rdata : Option Nat := none
  deriving DecidableEq, Repr

/-- Write the answer; NEXTPC and the masks are those after the command; RSEQ comes last. -/
def State.mbxAnswer (s : State) (c slot : Nat) (a : MbxAns) : State :=
  let pa := s.mbxPage c
  let p := s.pack? c slot
  let g := p.bind (fun p => p.group)
  let mask := fun (t : LaneSt) => match p with | some p => (p.lanesWhere (fun x => x.st == t)).toNat | none => 0
  let w := fun (o : Nat) (bs : List Byte) (s : State) => s.writeBytes {} (pa + o) bs false
  let s := w 32 (leBytes 4 (a.status + a.code * 2 ^ 8)) s
  let s := w 40 (leBytes 8 ((g.map (fun g => g.key.1)).getD 0) ++ leBytes 4 ((g.map (fun g => g.ig.toNat)).getD 0) ++ leBytes 4 (mask .exited) ++
    leBytes 4 (mask .parked) ++ leBytes 4 (mask .waiting)) s
  let s := match a.rdata with | some v => w 64 (leBytes 8 v) s | none => s
  w 36 (leBytes 4 ((s.core c).mbxSeq.getD 0).toNat) s

def State.mbxPend (s : State) (c v : Nat) : State := s.updCore c (fun k => { k with mbxStep := some v })

/-- What a PKDATA access came to: pending (none) while it waits for a refill. -/
def mbxData (c slot cmd : Nat) (rd : Bool) (s : State) : State × Option MbxAns :=
  if (s.core c).pkWait.isSome then (s.mbxPend c (2 ^ 60 + slot + 64 * cmd), none)
  else if bit (s.csrOf c 0x7C3) 12 then (s, some { status := mbREFUSED })
  else (s, some { rdata := if rd then some (s.core c).rdata.toNat else none })

/-- Fields of PKSEL that are kept. -/
def pkselMask (v : Nat) : Nat := bits v 5 0 + bits v 12 8 * 2 ^ 8 + bits v 22 16 * 2 ^ 16 + bits v 27 24 * 2 ^ 24 + bits v 39 32 * 2 ^ 32

def dbpcMask (v : Nat) : Nat := bits v 0 0 + bits v 63 2 * 4
def dwpMask (v : Nat) : Nat := bits v 2 0 + bits v 31 8 * 2 ^ 8

/-- The effect of a command (R444, R445); none: it is under way. -/
def mbxEffect (c cmd slot : Nat) (arg data : DWord) (s : State) : State × Option MbxAns :=
  match cmd with
  | 6 => (s.setCsr c (0x7D8 + bits arg.toNat 1 0) (dbpcMask data.toNat), some {})
  | 7 => (s.setCsr c (0x7DC + bits arg.toNat 1 0) (dwpMask data.toNat), some {})
  | _ =>
    if cmd = 0 ∨ cmd > 7 then (s, some { status := mbREFUSED })
    else match s.pack? c slot with
    | none => (s, some { status := mbBADSLOT })
    | some p =>
      match cmd with
      | 1 => (doPark c slot s, some {})
      | 2 => (if p.svc.isSome then doEndtrap c slot s else doUnpark c slot s, some {})
      | 3 =>
        if !p.reachable then (s, some { status := mbNOTHALTED })
        else
          let s := if p.canUnpark then s.updPack c slot Pack.unparkLanes else s
          if p.svc.isSome || (s.pack c slot).group.isNone then (s, some { status := mbNOELIG })
          else ((s.updPack c slot (fun p => { p with stepping := true, ownStall := none })).mbxPend c (slot + 64 * p.traps), none)
      | 4 =>
        if !p.reachable then (s, some { status := mbNOTHALTED })
        else mbxData c slot 4 true (pkAccess c none (s.setCsr c 0x7C0 (pkselMask arg.toNat)))
      | _ =>
        if !p.reachable then (s, some { status := mbNOTHALTED })
        else mbxData c slot 5 false (pkAccess c (some data) (s.setCsr c 0x7C0 (pkselMask arg.toNat)))

/-- Perform a command and answer it when it has ended. -/
def mbxPerform (c cmd slot : Nat) (arg data : DWord) (seq : Word) (s : State) : State :=
  let s := s.updCore c (fun k => { k with mbxSeq := some seq, power := 0 })
  match mbxEffect c cmd slot arg data s with
  | (s, some a) => s.mbxAnswer c slot a
  | (s, none) => s

/-- Has the command under way ended, and how? A STEP ends when its unit has completed or trapped; a READ or WRITE when the frame is there. -/
def State.mbxEnded (s : State) (c : Nat) : Option (Nat × MbxAns) :=
  match (s.core c).mbxStep with
  | none => none
  | some v =>
    let slot := v % 64
    match s.pack? c slot with
    | none => some (slot, { status := mbBADSLOT })
    | some p =>
      if v ≥ 2 ^ 60 then
        if (s.core c).pkWait.isSome then none
        else if bit (s.csrOf c 0x7C3) 12 then some (slot, { status := mbREFUSED })
        else some (slot, { rdata := if (v - 2 ^ 60) / 64 = 4 then some (s.core c).rdata.toNat else none })
      else if p.stepping then
        if p.group.isNone && !p.canUnpark && p.pending.isEmpty then some (slot, { status := mbNOELIG }) else none
      else if !p.toks.isEmpty || p.deliverable.isSome then none
      else if p.traps = v / 64 then some (slot, {})
      else some (slot, { status := mbTRAPPED, code := match p.svc, p.handler with
        | some d, _ => d.trap.code
        | none, some d => d.trap.code
        | none, none => 0 })

/-- Serve the next ring, when no command is under way: a command whose SEQ is the last answered one is not performed again (R443). -/
def State.mbxServe (s : State) (c : Nat) : State :=
  let k := s.core c
  if k.mbxStep.isSome ∨ k.mbxRing = 0 then s
  else
    let s := s.updCore c (fun k => { k with mbxRing := k.mbxRing - 1 })
    let pa := s.mbxPage c
    let s := s.touch {} pa 24
    let v := s.readNat {} pa 24
    let seq := BitVec.ofNat 32 (bits v 63 32)
    if k.mbxSeq = some seq then s
    else mbxPerform c (bits v 3 0) (bits v 9 4) (BitVec.ofNat 64 (bits v 127 64)) (BitVec.ofNat 64 (bits v 191 128)) seq s

/-- The firmware goes on: the ended command is answered, then the next ring is served. -/
def State.mbxGo (s : State) (c : Nat) : State :=
  match s.mbxEnded c with
  | some (slot, a) =>
    (((s.updCore c (fun k => { k with mbxStep := none })).updPack c slot (fun p => { p with stepping := false })).mbxAnswer c slot a).mbxServe c
  | none => s.mbxServe c

/-- DBGDB_RING (R443). -/
def execDbgdbRing (c : Nat) (s : State) : Out :=
  if !s.mbxOn c then .next s else .next ((s.updCore c (fun k => { k with mbxRing := k.mbxRing + 1 })).mbxServe c)

/-- A command of the mailbox as an event of its own: its SEQ is the page's. -/
def mbxEvent (c cmd slot : Nat) (arg data : DWord) (s : State) : Out :=
  if !s.mbxOn c ∨ (s.core c).mbxStep.isSome then .next s
  else .next (mbxPerform c cmd slot arg data (BitVec.ofNat 32 (s.readNat {} (s.mbxPage c + 4) 4)) s)

/-- HALT (R444). -/
def execHalt (c slot : Nat) (s : State) : Out := mbxEvent c 1 slot 0 0 s
/-- RESUME (R444). -/
def execResume (c slot : Nat) (s : State) : Out := mbxEvent c 2 slot 0 0 s
/-- STEP (R445). -/
def execStep (c slot : Nat) (s : State) : Out := mbxEvent c 3 slot 0 0 s
/-- READ (R444). -/
def execRead (c slot : Nat) (v : DWord) (s : State) : Out := mbxEvent c 4 slot v 0 s
/-- WRITE (R444). -/
def execWrite (c slot : Nat) (v w : DWord) (s : State) : Out := mbxEvent c 5 slot v w s
/-- SETBP (R444). -/
def execSetbp (c k : Nat) (v : DWord) (s : State) : Out := mbxEvent c 6 0 (BitVec.ofNat 64 k) v s
/-- SETWP (R444). -/
def execSetwp (c k : Nat) (v : DWord) (s : State) : Out := mbxEvent c 7 0 (BitVec.ofNat 64 k) v s

end Sys2Proof.Machine
end

