-- ==== Sys2Proof/Machine/Registers.lean ====
section
/-! DEFINITION. REGISTER_WRITE (R6, R7): the maps of class 0xC and of the custom CSRs. A register whose write has a row of its own in the opcode table
acts as that row says. -/

namespace Sys2Proof.Machine

/-- Bits [hi:lo]. -/
def ones (hi lo : Nat) : Nat := 2 ^ (hi + 1) - 2 ^ lo

/-- A plain write: RW bits take the value's, W1C bits are cleared where it has 1, the others stay (R6). -/
def State.fieldWrite (s : State) (a rw w1c v : Nat) : State :=
  let old := s.reg a
  s.setReg a (((old &&& (2 ^ 64 - 1 - rw)) ||| (v &&& rw)) &&& (2 ^ 64 - 1 - (v &&& w1c)))

/-- An event counter's selector outside the cores (R436, R439): a reserved code leaves EVENT as it was. -/
def selWrite (old v : Nat) : Nat := (if 1 ≤ bits v 7 0 ∧ bits v 7 0 ≤ 8 then bits v 7 0 else bits old 7 0) + bits v 8 8 * 2 ^ 8 + bits v 16 16 * 2 ^ 16

/-- The selectors and counters of one unit, at an offset inside its 128 bytes. -/
def counterWrite (a o : Nat) (v : DWord) (s : State) : State :=
  if o < 64 then s.setReg a (selWrite (s.reg a) v.toNat) else s.setReg a v.toNat

/-- Launch queues (R362). A write of a register marked HW, which R6 tells software to leave alone, has no effect (log 57). -/
def queueWrite (off : Nat) (v : DWord) (s : State) : Out :=
  let q := (off - 0x500000) / 0x40
  match (off - 0x500000) % 0x40 with
  | 0x00 => execQbaseWrite q v s
  | 0x08 => .next (if s.qBaseEn q then s else s.fieldWrite off (ones 17 0) 0 v.toNat)
  | 0x10 => execLaunchQtailWrite q v s
  | 0x30 => .next (s.fieldWrite off (ones 7 0) 0 v.toNat)
  | 0x18 => .next s
  | 0x20 => .next s
  | 0x28 => .next s
  | _ => .fault (.noSuchRegister off)

/-- CTXCMD (R407): without GO the OP field takes the value. -/
def ctxCmdWrite (ctx : Nat) (v : Nat) (s : State) : Out :=
  if bit (s.ctxCmd ctx) 63 then .next s
  else if !bit v 63 then .next (s.setCtxCmd ctx (bits v 1 0))
  else match bits v 1 0 with
    | 1 => execCtxPreempt ctx s
    | 2 => execCtxRestore ctx s
    | 3 => execCtxKill ctx s
    | _ => .next s

/-- Context descriptors (R407): +0x08 to +0x60 take a write only in IDLE and SAVED. -/
def descWrite (off : Nat) (v : DWord) (s : State) : Out :=
  let ctx := (off - 0x600000) / 0x80
  let free := decide (s.ctxState ctx = 0 ∨ s.ctxState ctx = 3)
  let put := fun (rw : Nat) => Host.Outcome.next (if free then s.fieldWrite off rw 0 v.toNat else s)
  match (off - 0x600000) % 0x80 with
  | 0x00 => execCtxcfgWrite ctx v s
  | 0x08 => put (ones 51 12)
  | 0x10 => put (ones 51 12)
  | 0x18 => put (ones 51 12)
  | 0x20 => put (ones 63 0)
  | 0x28 => put (ones 63 0)
  | 0x30 => put (ones 63 0)
  | 0x38 => put (ones 63 0)
  | 0x40 => put (ones 63 0)
  | 0x48 => put (ones 63 0)
  | 0x50 => put (ones 63 0)
  | 0x58 => put (ones 31 0)
  | 0x60 => put (ones 63 0)
  | 0x68 => ctxCmdWrite ctx v.toNat s
  | 0x70 => .next s
  | _ => .fault (.noSuchRegister off)

/-- Page request queues (R114); a write of PRQ_TAIL has no effect (log 57). -/
def prqRegWrite (off : Nat) (v : DWord) (s : State) : Out :=
  let f := (off - 0x200000) / 0x40
  match (off - 0x200000) % 0x40 with
  | 0x00 => .next (s.fieldWrite off (1 + ones 51 12) 0 v.toNat)
  | 0x08 => .next s
  | 0x10 => execPrqHeadWrite f v s
  | 0x18 => match bits v.toNat 17 16 with
    | 0 => execPrqReplyRetry f (bits v.toNat 15 0) s
    | 1 => execPrqReplyFail f (bits v.toNat 15 0) s
    | _ => .next s
  | _ => .fault (.noSuchRegister off)

/-- Class 0xC, by offset; every register is 8 bytes wide and aligned. -/
def mmioWrite (off : Nat) (v : DWord) (s : State) : Out :=
  let x := v.toNat
  let rw := fun (m : Nat) => Host.Outcome.next (s.fieldWrite off m 0 x)
  let w1c := fun (m : Nat) => Host.Outcome.next (s.fieldWrite off 0 m x)
  let within := fun (a n stride : Nat) => decide (a ≤ off) && decide (off < a + n * stride)
  if off % 8 ≠ 0 then .fault (.noSuchRegister off)
  else if off = 0x100000 then (if bit (s.reg 0x100008) 63 then .next s else rw (ones 63 0))
  else if off = 0x100008 then .next (invWrite x s)
  else if within 0x200000 33 0x40 then prqRegWrite off v s
  else if off = 0x300000 then execLlcCarveWrite v s
  else if within 0x310000 64 8 then execCspwinWrite ((off - 0x310000) / 8) v s
  else if within 0x400000 36 8 then execPortDisable ((off - 0x400000) / 8) (bit x 32) s
  else if off = 0x401000 then rw (ones 31 0)
  else if off = 0x401008 then execPeerClr v s
  else if off = 0x401010 then w1c (ones 31 0)
  else if off = 0x401018 then w1c (ones 31 0)
  else if off = 0x401020 then rw (ones 15 0)
  else if off = 0x402000 then rw (ones 51 12)
  else if off = 0x402008 then rw (ones 16 0)
  else if off = 0x402010 then .next (mintWrite x s)
  else if off = 0x402018 ∨ off = 0x402020 then .next s
  else if within 0x500000 64 0x40 then queueWrite off v s
  else if within 0x600000 64 0x80 then descWrite off v s
  else if within 0x620000 33 8 then rw (1 + ones 51 12)
  else if within 0x700000 9 16 then (if off % 16 = 0 then w1c (ones 63 0) else .next s)
  else if within 0x701000 160 128 && decide ((off - 0x701000) / 8 % 16 ≤ 8) then w1c (ones 47 0)
  else if off = 0x706000 then w1c (ones 63 0)
  else if within 0x710000 32 8 then (if bit x 1 then execKslotZero ((off - 0x710000) / 8) s else .next s)
  else if off = 0x710100 then execKload v s
  else if off = 0x720000 then execExreq v s
  else if off = 0x720008 then rw (ones 63 0)
  else if off = 0x800000 then execLattolWrite v s
  else if within 0x810000 256 128 then .next (counterWrite off ((off - 0x810000) % 128) v s)
  else if within 0x820000 36 128 then .next (counterWrite off ((off - 0x820000) % 128) v s)
  else if within 0x830000 160 8 then rw (1 + ones 51 12)
  else if within 0x831000 160 8 then (if bit x 0 then execDbgdbRing ((off - 0x831000) / 8) s else .next s)
  else .fault (.noSuchRegister off)

/-- PKCTL (R399): a command that is none of the eight is refused. -/
def pkctlWrite (c : Nat) (x : Nat) (s : State) : Out :=
  let slot := bits x 9 4
  let lanes := BitVec.ofNat 32 (bits x 63 32)
  match bits x 3 0 with
  | 1 => execPark c slot s
  | 2 => execUnpark c slot s
  | 3 => execRelease c lanes s
  | 4 => execSignal c slot s
  | 5 => execEndtrap c slot s
  | 6 => execPost c s
  | 7 => execFailx c lanes s
  | 8 => execKill c slot s
  | _ => .next (s.setErr c true)

/-- A custom CSR of core c (R399 to R406, R440). -/
def csrWrite (c n : Nat) (v : DWord) (s : State) : Out :=
  let x := v.toNat
  if c ≥ 160 then .fault (.noSuchRegister n)
  else match n with
  | 0x7C0 => .next (s.setCsr c n (pkselMask x))
  | 0x7C1 => execPkdataWrite c v s
  | 0x7C2 => pkctlWrite c x s
  | 0x7C3 => .next s
  | 0x7C4 => .next s
  | 0x7C5 => .next s
  | 0x7C6 => .next (s.setCsr c n (bits x 11 0 + bits x 21 16 * 2 ^ 16))
  | 0x7C7 => execSrdataWrite c v s
  | 0x7C8 => .next (s.setCsr c n (bits x 16 0))
  | 0x7C9 => execEmdataWrite c v s
  | 0x7CA => if bit x 3 then execEmctlGo c s else .next s
  | 0x7CB => .next (s.setCsr c n (bits x 31 0))
  | 0x7CC => execInject c v s
  | 0x7D0 => .next (s.setCsr c n (bits x 5 0 + bits x 12 8 * 2 ^ 8))
  | 0x7D1 => execCsdataWrite c (v.setWidth 32) s
  | 0x7D2 => if bit x 6 then execCsctlGo c (BitVec.ofNat 6 x) s else .next (s.setCsr c n (setBits (s.csrOf c n) 5 0 (bits x 5 0)))
  | 0x7E0 => .next (s.setCsr c n (bits x 6 0))
  | _ =>
    if 0x7D8 ≤ n ∧ n ≤ 0x7DB then .next (s.setCsr c n (dbpcMask x))
    else if 0x7DC ≤ n ∧ n ≤ 0x7DF then .next (s.setCsr c n (dwpMask x))
    else .fault (.noSuchRegister n)

/-- Eight bytes of a core's own scratchpad, from its supervisor core (R397); beyond S × 16 KiB nothing is written (log 57), where
a store of the hart itself has an access fault (`rvStore`). -/
def supSpadWrite (c off : Nat) (v : DWord) (s : State) : State :=
  if off + 8 ≤ (s.core c).split * 16384 then s.writePlaces 0 ((List.range 8).map (fun i => .spad c (off + i))) (leBytes 8 v.toNat) false else s

/-- REGISTER_WRITE (R6). -/
def execRegisterWrite (t : RegTarget) (v : DWord) (s : State) : Out :=
  match t with
  | .mmio off => mmioWrite off v s
  | .csr c n => csrWrite c n v s
  | .spad c off => .next (supSpadWrite c off v s)

end Sys2Proof.Machine
end

