-- ==== Sys2Proof/Machine/Dispatch.lean ====
section
/-! DEFINITION. Which meaning each row of the opcode table has. -/

namespace Sys2Proof.Machine

def exec (i : Instr) (s : State) : Host.Outcome State Fault Refusal :=
  match i with
  | .nop => Sys2Proof.Machine.execNop s
  | .bra o => Sys2Proof.Machine.execBra o s
  | .brc m k o => Sys2Proof.Machine.execBrc m k o s
  | .brx a => Sys2Proof.Machine.execBrx a s
  | .call dem argc retc ab off => Sys2Proof.Machine.execCall dem argc retc ab off s
  | .callx dem argc retc ab r => Sys2Proof.Machine.execCallx dem argc retc ab r s
  | .ret => Sys2Proof.Machine.execRet s
  | .unwind n => Sys2Proof.Machine.execUnwind n s
  | .resize n => Sys2Proof.Machine.execResize n s
  | .yield => Sys2Proof.Machine.execYield s
  | .exit => Sys2Proof.Machine.execExit s
  | .trap n => Sys2Proof.Machine.execTrap n s
  | .bkpt n => Sys2Proof.Machine.execBkpt n s
  | .syscall n => Sys2Proof.Machine.execSyscall n s
  | .mprog q k => Sys2Proof.Machine.execMprog q k s
  | .iadd p d a b x => Sys2Proof.Machine.execIadd p d a b x s
  | .isub p d a b x => Sys2Proof.Machine.execIsub p d a b x s
  | .iaddi p d a im => Sys2Proof.Machine.execIaddi p d a im s
  | .imul p d a b x => Sys2Proof.Machine.execImul p d a b x s
  | .imuli p d a im => Sys2Proof.Machine.execImuli p d a im s
  | .imad p d a b x => Sys2Proof.Machine.execImad p d a b x s
  | .imin p d a b x => Sys2Proof.Machine.execImin p d a b x s
  | .imax p d a b x => Sys2Proof.Machine.execImax p d a b x s
  | .iabs p d a => Sys2Proof.Machine.execIabs p d a s
  | .ineg p d a => Sys2Proof.Machine.execIneg p d a s
  | .inot p d a => Sys2Proof.Machine.execInot p d a s
  | .popc p d a => Sys2Proof.Machine.execPopc p d a s
  | .clz p d a => Sys2Proof.Machine.execClz p d a s
  | .ctz p d a => Sys2Proof.Machine.execCtz p d a s
  | .brev p d a => Sys2Proof.Machine.execBrev p d a s
  | .bswap p d a => Sys2Proof.Machine.execBswap p d a s
  | .isad p d a b x => Sys2Proof.Machine.execIsad p d a b x s
  | .shl p d a b x => Sys2Proof.Machine.execShl p d a b x s
  | .shr p d a b x => Sys2Proof.Machine.execShr p d a b x s
  | .sar p d a b x => Sys2Proof.Machine.execSar p d a b x s
  | .rotl p d a b => Sys2Proof.Machine.execRotl p d a b s
  | .rotr p d a b => Sys2Proof.Machine.execRotr p d a b s
  | .shli p d a pr n => Sys2Proof.Machine.execShli p d a pr n s
  | .shri p d a pr n => Sys2Proof.Machine.execShri p d a pr n s
  | .sari p d a pr n => Sys2Proof.Machine.execSari p d a pr n s
  | .and p d a b => Sys2Proof.Machine.execAnd p d a b s
  | .or p d a b => Sys2Proof.Machine.execOr p d a b s
  | .xor p d a b => Sys2Proof.Machine.execXor p d a b s
  | .andn p d a b => Sys2Proof.Machine.execAndn p d a b s
  | .orn p d a b => Sys2Proof.Machine.execOrn p d a b s
  | .xnor p d a b => Sys2Proof.Machine.execXnor p d a b s
  | .andi p d a im => Sys2Proof.Machine.execAndi p d a im s
  | .ori p d a im => Sys2Proof.Machine.execOri p d a im s
  | .xori p d a im => Sys2Proof.Machine.execXori p d a im s
  | .bfx p d a len pos => Sys2Proof.Machine.execBfx p d a len pos s
  | .bfxs p d a len pos => Sys2Proof.Machine.execBfxs p d a len pos s
  | .bfi p d a len pos => Sys2Proof.Machine.execBfi p d a len pos s
  | .icmp p m c a b x => Sys2Proof.Machine.execIcmp p m c a b x s
  | .icmpi p m c a im => Sys2Proof.Machine.execIcmpi p m c a im s
  | .sel p d a b m => Sys2Proof.Machine.execSel p d a b m s
  | .mov p d a => Sys2Proof.Machine.execMov p d a s
  | .movs p d a => Sys2Proof.Machine.execMovs p d a s
  | .movm p d m => Sys2Proof.Machine.execMovm p d m s
  | .mvm p m a => Sys2Proof.Machine.execMvm p m a s
  | .movi p d im => Sys2Proof.Machine.execMovi p d im s
  | .lea p d a b x => Sys2Proof.Machine.execLea p d a b x s
  | .idiv p d a b la => Sys2Proof.Machine.execIdiv p d a b la s
  | .ndiv p d a b la => Sys2Proof.Machine.execNdiv p d a b la s
  | .sadd d a b => Sys2Proof.Machine.execSadd d a b s
  | .saddi d a im => Sys2Proof.Machine.execSaddi d a im s
  | .ssub d a b => Sys2Proof.Machine.execSsub d a b s
  | .smul d a b => Sys2Proof.Machine.execSmul d a b s
  | .sand d a b => Sys2Proof.Machine.execSand d a b s
  | .sor d a b => Sys2Proof.Machine.execSor d a b s
  | .sxor d a b => Sys2Proof.Machine.execSxor d a b s
  | .sshl d a b => Sys2Proof.Machine.execSshl d a b s
  | .sshr d a b => Sys2Proof.Machine.execSshr d a b s
  | .ssar d a b => Sys2Proof.Machine.execSsar d a b s
  | .scmp d a b c => Sys2Proof.Machine.execScmp d a b c s
  | .smovi d im => Sys2Proof.Machine.execSmovi d im s
  | .smov d a => Sys2Proof.Machine.execSmov d a s
  | .rdlane d a n => Sys2Proof.Machine.execRdlane d a n s
  | .wrlane d a n => Sys2Proof.Machine.execWrlane d a n s
  | .smask d m => Sys2Proof.Machine.execSmask d m s
  | .mset m a => Sys2Proof.Machine.execMset m a s
  | .sld d a w im la => Sys2Proof.Machine.execSld d a w im la s
  | .sst d a w im la => Sys2Proof.Machine.execSst d a w im la s
  | .sbr d c im => Sys2Proof.Machine.execSbr d c im s
  | .vany d a => Sys2Proof.Machine.execVany d a s
  | .vall d a => Sys2Proof.Machine.execVall d a s
  | .ballot m a => Sys2Proof.Machine.execBallot m a s
  | .vcount d a => Sys2Proof.Machine.execVcount d a s
  | .waitev d c => Sys2Proof.Machine.execWaitev d c s
  | .ldc d a w im la => Sys2Proof.Machine.execLdc d a w im la s
  | .srd d r => Sys2Proof.Machine.execSrd d r s
  | .swr d r => Sys2Proof.Machine.execSwr d r s
  | .fadd p d a b t => Sys2Proof.Machine.execFadd p d a b t s
  | .fsub p d a b t => Sys2Proof.Machine.execFsub p d a b t s
  | .fmul p d a b t => Sys2Proof.Machine.execFmul p d a b t s
  | .ffma p d a b t => Sys2Proof.Machine.execFfma p d a b t s
  | .fmin p d a b t => Sys2Proof.Machine.execFmin p d a b t s
  | .fmax p d a b t => Sys2Proof.Machine.execFmax p d a b t s
  | .fminp p d a b t => Sys2Proof.Machine.execFminp p d a b t s
  | .fmaxp p d a b t => Sys2Proof.Machine.execFmaxp p d a b t s
  | .fcmp p m c a b x => Sys2Proof.Machine.execFcmp p m c a b x s
  | .fclass p d a t => Sys2Proof.Machine.execFclass p d a t s
  | .frnd p d a n t => Sys2Proof.Machine.execFrnd p d a n t s
  | .fscalb p d a b t => Sys2Proof.Machine.execFscalb p d a b t s
  | .fabs p d a => Sys2Proof.Machine.execFabs p d a s
  | .fneg p d a => Sys2Proof.Machine.execFneg p d a s
  | .fnabs p d a => Sys2Proof.Machine.execFnabs p d a s
  | .fcpsgn p d a b => Sys2Proof.Machine.execFcpsgn p d a b s
  | .fdot2 p d a b t => Sys2Proof.Machine.execFdot2 p d a b t s
  | .fclamp p d a b t => Sys2Proof.Machine.execFclamp p d a b t s
  | .pack p d a b x => Sys2Proof.Machine.execPack p d a b x s
  | .fdiv p d a b la => Sys2Proof.Machine.execFdiv p d a b la s
  | .fsqrt p d a la => Sys2Proof.Machine.execFsqrt p d a la s
  | .fexp2 p d a la => Sys2Proof.Machine.execFexp2 p d a la s
  | .flog2 p d a la => Sys2Proof.Machine.execFlog2 p d a la s
  | .fsin p d a la => Sys2Proof.Machine.execFsin p d a la s
  | .fcos p d a la => Sys2Proof.Machine.execFcos p d a la s
  | .frcp p d a la => Sys2Proof.Machine.execFrcp p d a la s
  | .frsq p d a la => Sys2Proof.Machine.execFrsq p d a la s
  | .ftanh p d a la => Sys2Proof.Machine.execFtanh p d a la s
  | .fsigm p d a la => Sys2Proof.Machine.execFsigm p d a la s
  | .cvtf p d a src dst la => Sys2Proof.Machine.execCvtf p d a src dst la s
  | .cvti p d a src dst sat la => Sys2Proof.Machine.execCvti p d a src dst sat la s
  | .qscale p d a fmt la => Sys2Proof.Machine.execQscale p d a fmt la s
  | .shfl p d a b seg => Sys2Proof.Machine.execShfl p d a b seg s
  | .shflup p d a seg n => Sys2Proof.Machine.execShflup p d a seg n s
  | .shfldn p d a seg n => Sys2Proof.Machine.execShfldn p d a seg n s
  | .shflx p d a seg n => Sys2Proof.Machine.execShflx p d a seg n s
  | .qswz p d a pat => Sys2Proof.Machine.execQswz p d a pat s
  | .redux p d a k => Sys2Proof.Machine.execRedux p d a k s
  | .scan p d a ex k => Sys2Proof.Machine.execScan p d a ex k s
  | .matchl p d a x => Sys2Proof.Machine.execMatchl p d a x s
  | .ld p d a w im la => Sys2Proof.Machine.execLd p d a w im la s
  | .lds p d a w im la => Sys2Proof.Machine.execLds p d a w im la s
  | .ldx p d a w im la => Sys2Proof.Machine.execLdx p d a w im la s
  | .st p d a w im la => Sys2Proof.Machine.execSt p d a w im la s
  | .sts p d a w im la => Sys2Proof.Machine.execSts p d a w im la s
  | .stx p d a w im la => Sys2Proof.Machine.execStx p d a w im la s
  | .ldm p d a w im la => Sys2Proof.Machine.execLdm p d a w im la s
  | .stm p d a w im la => Sys2Proof.Machine.execStm p d a w im la s
  | .atom d a b la sm hint c width scope order k => Sys2Proof.Machine.execAtom d a b la sm hint c width scope order k s
  | .atomr d a b la sm hint c width scope order k => Sys2Proof.Machine.execAtomr d a b la sm hint c width scope order k s
  | .red d a b la sm hint c width scope order k => Sys2Proof.Machine.execRed d a b la sm hint c width scope order k s
  | .barinit a b => Sys2Proof.Machine.execBarinit a b s
  | .bararv m a b => Sys2Proof.Machine.execBararv m a b s
  | .baraw m a b => Sys2Proof.Machine.execBaraw m a b s
  | .barwait a => Sys2Proof.Machine.execBarwait a s
  | .bartest m a => Sys2Proof.Machine.execBartest m a s
  | .barexp a b => Sys2Proof.Machine.execBarexp a b s
  | .bardrop a b => Sys2Proof.Machine.execBardrop a b s
  | .psync a => Sys2Proof.Machine.execPsync a s
  | .fence scope k => Sys2Proof.Machine.execFence scope k s
  | .fenceLite scope => Sys2Proof.Machine.execFenceLite scope s
  | .fenceHeavy scope => Sys2Proof.Machine.execFenceHeavy scope s
  | .fenceTc scope => Sys2Proof.Machine.execFenceTc scope s
  | .fenceShape scope => Sys2Proof.Machine.execFenceShape scope s
  | .cctl a w im la => Sys2Proof.Machine.execCctl a w im la s
  | .tcopy tile base bar acq rel dig la shape scope rop => Sys2Proof.Machine.execTcopy tile base bar acq rel dig la shape scope rop s
  | .tstat d t => Sys2Proof.Machine.execTstat d t s
  | .trel t => Sys2Proof.Machine.execTrel t s
  | .strmFeeda t => Sys2Proof.Machine.execStrmFeeda t s
  | .strmFeedb t => Sys2Proof.Machine.execStrmFeedb t s
  | .strmReplay n k => Sys2Proof.Machine.execStrmReplay n k s
  | .strmFlush => Sys2Proof.Machine.execStrmFlush s
  | .coll base bar la rec => Sys2Proof.Machine.execColl base bar la rec s
  | .tresume t => Sys2Proof.Machine.execTresume t s
  | .launchGrid r st la => Sys2Proof.Machine.execLaunchGrid r st la s
  | .launchNode r st la => Sys2Proof.Machine.execLaunchNode r st la s
  | .shinv im => Sys2Proof.Machine.execShinv im s
  | .shinvAll => Sys2Proof.Machine.execShinvAll s
  | .mma acc ty kch asc la zf bsel bsc => Sys2Proof.Machine.execMma acc ty kch asc la zf bsel bsc s
  | .accz acc x => Sys2Proof.Machine.execAccz acc x s
  | .accrd d acc col x => Sys2Proof.Machine.execAccrd d acc col x s
  | .accwr a acc col x => Sys2Proof.Machine.execAccwr a acc col x s
  | .accopScale a acc => Sys2Proof.Machine.execAccopScale a acc s
  | .accopAddrow a acc => Sys2Proof.Machine.execAccopAddrow a acc s
  | .accopRowmax d acc => Sys2Proof.Machine.execAccopRowmax d acc s
  | .accopRowsum d acc => Sys2Proof.Machine.execAccopRowsum d acc s
  | .accopExps a acc c => Sys2Proof.Machine.execAccopExps a acc c s
  | .accopMaskc acc off => Sys2Proof.Machine.execAccopMaskc acc off s
  | .accmvTotile t acc et => Sys2Proof.Machine.execAccmvTotile t acc et s
  | .accmvFromtile t acc et => Sys2Proof.Machine.execAccmvFromtile t acc et s
  | .accmvSave t acc => Sys2Proof.Machine.execAccmvSave t acc s
  | .accmvLoad t acc => Sys2Proof.Machine.execAccmvLoad t acc s
  | .laneAgeSaturate c slot l => Sys2Proof.Machine.execLaneAgeSaturate c slot l s
  | .breakpoint c slot => Sys2Proof.Machine.execBreakpoint c slot s
  | .memoryAccessComplete c slot id => Sys2Proof.Machine.execMemoryAccessComplete c slot id s
  | .atomResult c slot id => Sys2Proof.Machine.execAtomResult c slot id s
  | .walkComplete ctx root va kind => Sys2Proof.Machine.execWalkComplete ctx root va kind s
  | .prqEntryPost f => Sys2Proof.Machine.execPrqEntryPost f s
  | .prqHeadWrite f v => Sys2Proof.Machine.execPrqHeadWrite f v s
  | .prqReplyRetry f tag => Sys2Proof.Machine.execPrqReplyRetry f tag s
  | .prqReplyFail f tag => Sys2Proof.Machine.execPrqReplyFail f tag s
  | .xltInvAll v => Sys2Proof.Machine.execXltInvAll v s
  | .xltInvFunc v => Sys2Proof.Machine.execXltInvFunc v s
  | .xltInvCtx v => Sys2Proof.Machine.execXltInvCtx v s
  | .xltInvCtxPages v => Sys2Proof.Machine.execXltInvCtxPages v s
  | .xltInvStage2Pages v => Sys2Proof.Machine.execXltInvStage2Pages v s
  | .xltInvNonglobal v => Sys2Proof.Machine.execXltInvNonglobal v s
  | .xltInvDone => Sys2Proof.Machine.execXltInvDone s
  | .llcCarveWrite v => Sys2Proof.Machine.execLlcCarveWrite v s
  | .llcCarveDone => Sys2Proof.Machine.execLlcCarveDone s
  | .cspwinWrite ctx v => Sys2Proof.Machine.execCspwinWrite ctx v s
  | .copyStart => Sys2Proof.Machine.execCopyStart s
  | .tcopyAccept c slot => Sys2Proof.Machine.execTcopyAccept c slot s
  | .barrierEngineArrival id => Sys2Proof.Machine.execBarrierEngineArrival id s
  | .copyComplete id => Sys2Proof.Machine.execCopyComplete id s
  | .copyFaultPause id => Sys2Proof.Machine.execCopyFaultPause id s
  | .copyFail id => Sys2Proof.Machine.execCopyFail id s
  | .streamFill c b => Sys2Proof.Machine.execStreamFill c b s
  | .mmaEntryStart c => Sys2Proof.Machine.execMmaEntryStart c s
  | .mmaEntryComplete c => Sys2Proof.Machine.execMmaEntryComplete c s
  | .mxGate c => Sys2Proof.Machine.execMxGate c s
  | .frameGrant c => Sys2Proof.Machine.execFrameGrant c s
  | .frameWaitExpiry c slot => Sys2Proof.Machine.execFrameWaitExpiry c slot s
  | .escapeSpillStart c => Sys2Proof.Machine.execEscapeSpillStart c s
  | .spillComplete c => Sys2Proof.Machine.execSpillComplete c s
  | .refillComplete c slot => Sys2Proof.Machine.execRefillComplete c slot s
  | .recordReadback c slot => Sys2Proof.Machine.execRecordReadback c slot s
  | .trapDelivery c slot => Sys2Proof.Machine.execTrapDelivery c slot s
  | .escalation c slot => Sys2Proof.Machine.execEscalation c slot s
  | .pendingTrapDelivery c slot => Sys2Proof.Machine.execPendingTrapDelivery c slot s
  | .waitevTimeout c slot => Sys2Proof.Machine.execWaitevTimeout c slot s
  | .packAged c slot => Sys2Proof.Machine.execPackAged c slot s
  | .trqPop c => Sys2Proof.Machine.execTrqPop c s
  | .trqxRead c => Sys2Proof.Machine.execTrqxRead c s
  | .park c slot => Sys2Proof.Machine.execPark c slot s
  | .unpark c slot => Sys2Proof.Machine.execUnpark c slot s
  | .release c lanes => Sys2Proof.Machine.execRelease c lanes s
  | .signal c slot => Sys2Proof.Machine.execSignal c slot s
  | .endtrap c slot => Sys2Proof.Machine.execEndtrap c slot s
  | .post c => Sys2Proof.Machine.execPost c s
  | .failx c lanes => Sys2Proof.Machine.execFailx c lanes s
  | .kill c slot => Sys2Proof.Machine.execKill c slot s
  | .pkdataRead c => Sys2Proof.Machine.execPkdataRead c s
  | .pkdataWrite c v => Sys2Proof.Machine.execPkdataWrite c v s
  | .srdataRead c => Sys2Proof.Machine.execSrdataRead c s
  | .srdataWrite c v => Sys2Proof.Machine.execSrdataWrite c v s
  | .inject c v => Sys2Proof.Machine.execInject c v s
  | .emdataRead c => Sys2Proof.Machine.execEmdataRead c s
  | .emdataWrite c v => Sys2Proof.Machine.execEmdataWrite c v s
  | .emctlGo c => Sys2Proof.Machine.execEmctlGo c s
  | .csdataWrite c v => Sys2Proof.Machine.execCsdataWrite c v s
  | .csctlGo c len => Sys2Proof.Machine.execCsctlGo c len s
  | .controlStoreInstall c k => Sys2Proof.Machine.execControlStoreInstall c k s
  | .ctxPreempt ctx => Sys2Proof.Machine.execCtxPreempt ctx s
  | .ctxRestore ctx => Sys2Proof.Machine.execCtxRestore ctx s
  | .ctxKill ctx => Sys2Proof.Machine.execCtxKill ctx s
  | .ctxcfgWrite ctx v => Sys2Proof.Machine.execCtxcfgWrite ctx v s
  | .launchQtailWrite q v => Sys2Proof.Machine.execLaunchQtailWrite q v s
  | .qbaseWrite q v => Sys2Proof.Machine.execQbaseWrite q v s
  | .launchEntryRead q => Sys2Proof.Machine.execLaunchEntryRead q s
  | .nodeRelease uid => Sys2Proof.Machine.execNodeRelease uid s
  | .workgroupPlace => Sys2Proof.Machine.execWorkgroupPlace s
  | .priorityStarvation uid => Sys2Proof.Machine.execPriorityStarvation uid s
  | .workgroupFinish uid idx => Sys2Proof.Machine.execWorkgroupFinish uid idx s
  | .launchComplete uid => Sys2Proof.Machine.execLaunchComplete uid s
  | .nodeDiscard uid => Sys2Proof.Machine.execNodeDiscard uid s
  | .remoteRequestIngress r => Sys2Proof.Machine.execRemoteRequestIngress r s
  | .remoteResponse id r => Sys2Proof.Machine.execRemoteResponse id r s
  | .controlRequest r => Sys2Proof.Machine.execControlRequest r s
  | .mirrorUpdate m bytes => Sys2Proof.Machine.execMirrorUpdate m bytes s
  | .lossNotice n => Sys2Proof.Machine.execLossNotice n s
  | .fabLossTo id => Sys2Proof.Machine.execFabLossTo id s
  | .peerClr v => Sys2Proof.Machine.execPeerClr v s
  | .linkCrcError port => Sys2Proof.Machine.execLinkCrcError port s
  | .portTrained port => Sys2Proof.Machine.execPortTrained port s
  | .linkRekey port vc => Sys2Proof.Machine.execLinkRekey port vc s
  | .portDisable port b => Sys2Proof.Machine.execPortDisable port b s
  | .mint v => Sys2Proof.Machine.execMint v s
  | .roll v => Sys2Proof.Machine.execRoll v s
  | .collAccept c slot => Sys2Proof.Machine.execCollAccept c slot s
  | .collSplit id shares => Sys2Proof.Machine.execCollSplit id shares s
  | .collChunk pkg ctx rseq token ch => Sys2Proof.Machine.execCollChunk pkg ctx rseq token ch s
  | .collReduceComplete id k => Sys2Proof.Machine.execCollReduceComplete id k s
  | .collStepTimeout id k => Sys2Proof.Machine.execCollStepTimeout id k s
  | .collMismatchNotice id => Sys2Proof.Machine.execCollMismatchNotice id s
  | .collEnd id => Sys2Proof.Machine.execCollEnd id s
  | .planeBwWindow credits => Sys2Proof.Machine.execPlaneBwWindow credits s
  | .kload v => Sys2Proof.Machine.execKload v s
  | .kslotZero k => Sys2Proof.Machine.execKslotZero k s
  | .exreq v => Sys2Proof.Machine.execExreq v s
  | .lattolWrite v => Sys2Proof.Machine.execLattolWrite v s
  | .c1Entry c => Sys2Proof.Machine.execC1Entry c s
  | .c2Entry c => Sys2Proof.Machine.execC2Entry c s
  | .c3Entry die => Sys2Proof.Machine.execC3Entry die s
  | .wake u => Sys2Proof.Machine.execWake u s
  | .dbgdbRing c => Sys2Proof.Machine.execDbgdbRing c s
  | .halt c slot => Sys2Proof.Machine.execHalt c slot s
  | .resume c slot => Sys2Proof.Machine.execResume c slot s
  | .step c slot => Sys2Proof.Machine.execStep c slot s
  | .read c slot v => Sys2Proof.Machine.execRead c slot v s
  | .write c slot v w => Sys2Proof.Machine.execWrite c slot v w s
  | .setbp c k v => Sys2Proof.Machine.execSetbp c k v s
  | .setwp c k v => Sys2Proof.Machine.execSetwp c k v s
  | .packageReset => Sys2Proof.Machine.execPackageReset s
  | .bringupStage n pkg peers => Sys2Proof.Machine.execBringupStage n pkg peers s
  | .registerWrite t v => Sys2Proof.Machine.execRegisterWrite t v s
  | .longLatencyComplete c slot id => Sys2Proof.Machine.execLongLatencyComplete c slot id s
  | .accumulatorInstructionComplete c slot id => Sys2Proof.Machine.execAccumulatorInstructionComplete c slot id s
  | .idleClock c => Sys2Proof.Machine.execIdleClock c s
  | .collContributionRead id k => Sys2Proof.Machine.execCollContributionRead id k s

end Sys2Proof.Machine
end

