-- ==== Sys2Proof/Machine/Rv.lean ====
section
/-! DEFINITION. The harts (R15, R396, R397): CSRs, traps and interrupts, PMP, Sv39 and Sv48, and the memory that a hart reaches. The spec names the RISC-V
architecture by its extensions and modes; what it does not say itself is taken from that architecture (log 5). -/

namespace Sys2Proof.Machine

/-! ## Harts -/

def State.hart (s : State) (h : Nat) : Hart := (s.harts.find h).getD {}
def State.setHart (s : State) (h : Nat) (k : Hart) : State := { s with harts := s.harts.ins h k }

/-- Harts 160 to 175 are the host cores. -/
def isHost (h : Nat) : Bool := decide (160 ≤ h)

def Hart.reg (k : Hart) (r : Nat) : Nat := if r = 0 then 0 else (k.x.getD r 0).toNat
def Hart.setX (k : Hart) (r v : Nat) : Hart := if r = 0 then k else { k with x := setAt 0 k.x r (BitVec.ofNat 64 v) }
def Hart.c (k : Hart) (n : Nat) : Nat := ((k.csr.find n).getD 0).toNat
def Hart.setC (k : Hart) (n v : Nat) : Hart := { k with csr := if v % 2 ^ 64 = 0 then k.csr.del n else k.csr.ins n (BitVec.ofNat 64 v) }

/-- A value with the bits of a mask taken from another. -/
def maskIn (old v m : Nat) : Nat := (old &&& (2 ^ 64 - 1 - m)) ||| (v &&& m)

/-! ## CSRs -/

def cMstatus := 0x300
def cMedeleg := 0x302
def cMideleg := 0x303
def cMie := 0x304
def cMtvec := 0x305
def cMepc := 0x341
def cMcause := 0x342
def cMtval := 0x343
def cMip := 0x344
def cStvec := 0x105
def cSepc := 0x141
def cScause := 0x142
def cStval := 0x143
def cSatp := 0x180

/-- Bits of mstatus that are kept: SIE, MIE, SPIE, MPIE, SPP, MPP, MPRV, SUM, MXR, TVM, TW, TSR; of a host core FS also. -/
def mstatusMask (host : Bool) : Nat := 0x7E19AA + (if host then 0x6000 else 0)
def sstatusMask (host : Bool) : Nat := 0xC0122 + (if host then 0x6000 else 0)

/-- mstatus as it reads: UXL and SXL are 64 bits, SD sums FS up. -/
def Hart.mstatus (k : Hart) : Nat := k.c cMstatus + 0xA00000000 + (if bits (k.c cMstatus) 14 13 = 3 then 2 ^ 63 else 0)

/-- misa: RV64IMACSU, with F and D for a host core. -/
def misaOf (host : Bool) : Nat := 2 ^ 63 + 0x141105 + (if host then 0x28 else 0)

/-- Pending interrupts: those software has set, and for a supervisor core the machine external interrupt while its trap queue is not empty (R396). -/
def State.mip (s : State) (h : Nat) : Nat :=
  maskIn 0 ((s.hart h).c cMip) 0x222 + (if !isHost h && !(s.core h).trq.isEmpty then 0x800 else 0)

/-- A standard CSR as it reads; none where there is no such register. -/
def rvCsr (s : State) (h n : Nat) : Option Nat :=
  let k := s.hart h
  let host := isHost h
  if n = 1 ∨ n = 2 ∨ n = 3 then
    if !host || bits (k.c cMstatus) 14 13 == 0 then none
    else some (match n with | 1 => bits (k.c 3) 4 0 | 2 => bits (k.c 3) 7 5 | _ => bits (k.c 3) 7 0)
  else match n with
  | 0x100 => some (k.mstatus &&& (sstatusMask host + 0x8000000300000000))
  | 0x104 => some (k.c cMie &&& k.c cMideleg)
  | 0x144 => some (s.mip h &&& k.c cMideleg)
  | 0x300 => some k.mstatus
  | 0x301 => some (misaOf host)
  | 0x344 => some (s.mip h)
  | 0xB00 => some ((s.cycle + k.c 0xB00) % 2 ^ 64)
  | 0xF14 => some h
  | _ =>
    if n = 0x105 ∨ n = 0x106 ∨ n = 0x10A ∨ (0x140 ≤ n ∧ n ≤ 0x143) ∨ n = 0x180 ∨ (0x302 ≤ n ∧ n ≤ 0x306) ∨ n = 0x30A ∨ n = 0x320 ∨
        (0x340 ≤ n ∧ n ≤ 0x343) ∨ n = 0x3A0 ∨ n = 0x3A2 ∨ (0x3B0 ≤ n ∧ n ≤ 0x3BF) ∨ n = 0xB02 then some (k.c n)
    else if (0xB03 ≤ n ∧ n ≤ 0xB1F) ∨ (0x323 ≤ n ∧ n ≤ 0x33F) ∨ (0xF11 ≤ n ∧ n ≤ 0xF15) then some 0
    else none

/-- The configuration byte of PMP entry i. -/
def Hart.pmpCfg (k : Hart) (i : Nat) : Nat := bits (k.c (0x3A0 + 2 * (i / 8))) (8 * (i % 8) + 7) (8 * (i % 8))

/-- Is the address of PMP entry i locked, by itself or by a locked range above that ends it? -/
def Hart.pmpLocked (k : Hart) (i : Nat) : Bool :=
  bit (k.pmpCfg i) 7 || (decide (i < 15) && bit (k.pmpCfg (i + 1)) 7 && bits (k.pmpCfg (i + 1)) 4 3 == 1)

/-- Eight configuration bytes written: a locked one stays. -/
def pmpCfgWrite (old v : Nat) : Nat :=
  leNat ((List.range 8).map (fun i =>
    let o := bits old (8 * i + 7) (8 * i)
    BitVec.ofNat 8 (if bit o 7 then o else bits v (8 * i + 7) (8 * i) &&& 0x9F)))

/-- A write of a standard CSR that exists (WARL fields keep a legal value). -/
def rvCsrWrite (h n v : Nat) (k : Hart) : Hart :=
  let host := isHost h
  let put := fun (m : Nat) => k.setC n (maskIn (k.c n) v m)
  match n with
  | 1 => k.setC 3 (setBits (k.c 3) 4 0 v)
  | 2 => k.setC 3 (setBits (k.c 3) 7 5 v)
  | 3 => k.setC 3 (bits v 7 0)
  | 0x100 => k.setC cMstatus (maskIn (k.c cMstatus) v (sstatusMask host))
  | 0x104 => k.setC cMie (maskIn (k.c cMie) v (k.c cMideleg))
  | 0x144 => k.setC cMip (maskIn (k.c cMip) v (k.c cMideleg &&& 2))
  | 0x105 => put (2 ^ 64 - 3)
  | 0x10A => put 1
  | 0x140 => put (2 ^ 64 - 1)
  | 0x141 => put (2 ^ 64 - 2)
  | 0x142 => put (2 ^ 64 - 1)
  | 0x143 => put (2 ^ 64 - 1)
  | 0x180 => if bits v 63 60 = 0 ∨ bits v 63 60 = 8 ∨ bits v 63 60 = 9 then k.setC cSatp v else k
  | 0x300 =>
    let v := if bits v 12 11 = 2 then setBits v 12 11 (bits (k.c cMstatus) 12 11) else v
    k.setC cMstatus (maskIn (k.c cMstatus) v (mstatusMask host))
  | 0x302 => put 0xB3FF
  | 0x303 => put 0x222
  | 0x304 => put 0xAAA
  | 0x305 => put (2 ^ 64 - 3)
  | 0x30A => put 1
  | 0x340 => put (2 ^ 64 - 1)
  | 0x341 => put (2 ^ 64 - 2)
  | 0x342 => put (2 ^ 64 - 1)
  | 0x343 => put (2 ^ 64 - 1)
  | 0x344 => put 0x222
  | 0x3A0 => k.setC n (pmpCfgWrite (k.c n) v)
  | 0x3A2 => k.setC n (pmpCfgWrite (k.c n) v)
  | 0xB02 => put (2 ^ 64 - 1)
  | _ => if 0x3B0 ≤ n ∧ n ≤ 0x3BF then (if k.pmpLocked (n - 0x3B0) then k else put (2 ^ 54 - 1)) else k

/-- A custom CSR of a supervisor core as it reads (R398 to R406, R440): PKDATA, TRQ, TRQX, SRDATA and EMDATA act as their rules say. -/
def customRead (c n : Nat) (s : State) : Option (State × Nat) :=
  let via := fun (o : Out) => match o with
    | .next t => some (t, (t.core c).rdata.toNat)
    | _ => none
  match n with
  | 0x7C1 => via (execPkdataRead c s)
  | 0x7C2 => some (s, 0)
  | 0x7C3 => some (s, pkstat s c (s.pksel c).slot)
  | 0x7C4 => via (execTrqPop c s)
  | 0x7C5 => via (execTrqxRead c s)
  | 0x7C7 => via (execSrdataRead c s)
  | 0x7C9 => via (execEmdataRead c s)
  | 0x7CA => some (s, emctl s c)
  | 0x7D1 => some (s, (((s.core c).csStage.find (bits (s.csrOf c 0x7D0) 12 8)).getD 0).toNat)
  | _ =>
    if n = 0x7C0 ∨ n = 0x7C6 ∨ n = 0x7C8 ∨ n = 0x7CB ∨ n = 0x7CC ∨ n = 0x7D0 ∨ n = 0x7D2 ∨ (0x7D8 ≤ n ∧ n ≤ 0x7E0) then some (s, s.csrOf c n) else none

/-! ## Traps and interrupts -/

/-- A hart takes an exception or an interrupt, in S mode when it is delegated. -/
def Hart.trap (k : Hart) (cause : Nat) (intr : Bool) (tval : Nat) : Hart :=
  let code := cause + b2n intr * 2 ^ 63
  let st := k.c cMstatus
  let go := fun (v : Nat) => BitVec.ofNat 64 (v / 4 * 4 + (if intr && v % 4 == 1 then 4 * cause else 0))
  if k.priv ≤ 1 && bit (k.c (if intr then cMideleg else cMedeleg)) cause then
    let st := setBits (setBits (setBits st 5 5 (b2n (bit st 1))) 1 1 0) 8 8 k.priv
    { (((k.setC cScause code).setC cSepc k.pc.toNat).setC cStval tval).setC cMstatus st with priv := 1, pc := go (k.c cStvec) }
  else
    let st := setBits (setBits (setBits st 7 7 (b2n (bit st 3))) 3 3 0) 12 11 k.priv
    { (((k.setC cMcause code).setC cMepc k.pc.toNat).setC cMtval tval).setC cMstatus st with priv := 3, pc := go (k.c cMtvec) }

/-- The interrupt that a hart takes before its next instruction. -/
def State.rvIrq (s : State) (h : Nat) : Option Nat :=
  let k := s.hart h
  let st := k.c cMstatus
  let on := s.mip h &&& k.c cMie
  let m := if k.priv < 3 || bit st 3 then on &&& (2 ^ 64 - 1 - k.c cMideleg) else 0
  let sv := if k.priv = 0 || (k.priv = 1 && bit st 1) then on &&& k.c cMideleg else 0
  let first := fun (v : Nat) => [11, 3, 7, 9, 1, 5].find? (fun i => bit v i)
  (first m).or (first sv)

/-- MRET. -/
def Hart.mret (k : Hart) : Hart :=
  let st := k.c cMstatus
  let p := bits st 12 11
  let st := setBits (setBits (setBits st 3 3 (b2n (bit st 7))) 7 7 1) 12 11 0
  { k.setC cMstatus (if p = 3 then st else setBits st 17 17 0) with priv := p, pc := BitVec.ofNat 64 (k.c cMepc) }

/-- SRET. -/
def Hart.sret (k : Hart) : Hart :=
  let st := k.c cMstatus
  let p := bits st 8 8
  let st := setBits (setBits (setBits st 1 1 (b2n (bit st 5))) 5 5 1) 8 8 0
  { k.setC cMstatus (setBits st 17 17 0) with priv := p, pc := BitVec.ofNat 64 (k.c cSepc) }

/-! ## Physical memory (R97, R397) -/

def hartSrc (h : Nat) : CtlSrc := if isHost h then .host (h - 160) else .sup h

/-- Is there a register at an offset of class 0xC? -/
def isRegister (off : Nat) : Bool := match mmioWrite off 0 State.reset with | .next _ => true | _ => false

/-- The offset in its core's scratchpad that a supervisor core names (R397), where n bytes from it lie in the S × 16 KiB. -/
def spadWindow (s : State) (h pa n : Nat) : Option Nat :=
  let off := pa % 2 ^ 32
  if !isHost h && paClass pa == 12 && decide (2 ^ 31 ≤ off) && decide (off - 2 ^ 31 + n ≤ (s.core h).split * 16384) then some (off - 2 ^ 31) else none

/-- May a hart reach memory at a physical address: a control home, or for a host core the tensor range? -/
def rvMemOk (s : State) (h pa : Nat) : Bool := ctlReaches { src := hartSrc h, pa := pa, op := .load 1 } && !s.homeLost pa

/-- A load of n bytes, aligned; none: an access fault. -/
def rvLoad (h pa n : Nat) (s : State) : State × Option Nat :=
  if rvMemOk s h pa then
    let (s, bs) := ctlPerform s { src := hartSrc h, pa := pa, op := .load n }
    (s, some (leNat bs))
  else match spadWindow s h pa n with
    | some off =>
      let (s, bs, _) := s.readPlaces ((List.range n).map (fun i => .spad h (off + i)))
      (s, some (leNat bs))
    | none =>
      if paOk pa && paClass pa == 12 && n == 8 && isRegister (pa % 2 ^ 32) then
        (s, some (if pa % 2 ^ 32 = 0x800000 then s.lattolWord else s.reg (pa % 2 ^ 32)))
      else (s, none)

/-- A store of n bytes, aligned; none: an access fault. -/
def rvStore (h pa n v : Nat) (s : State) : Option State :=
  if rvMemOk s h pa then some (ctlPerform s { src := hartSrc h, pa := pa, op := .store (leBytes n v) }).1
  else match spadWindow s h pa n with
    | some off => some (s.writePlaces 0 ((List.range n).map (fun i => .spad h (off + i))) (leBytes n v) false)
    | none =>
      if paOk pa && paClass pa == 12 && n == 8 then
        match mmioWrite (pa % 2 ^ 32) (BitVec.ofNat 64 v) s with
        | .next t => some t
        | _ => none
      else none

/-! ## PMP -/

/-- Ones at the low end of a number, at most n. -/
def lowOnes : Nat → Nat → Nat
  | 0, _ => 0
  | n + 1, v => if v % 2 = 1 then lowOnes n (v / 2) + 1 else 0

/-- The range of PMP entry i: first address and the one after its last. -/
def Hart.pmpRange (k : Hart) (i : Nat) : Nat × Nat :=
  let a := k.c (0x3B0 + i)
  match bits (k.pmpCfg i) 4 3 with
  | 1 => ((if i = 0 then 0 else 4 * k.c (0x3B0 + i - 1)), 4 * a)
  | 2 => (4 * a, 4 * a + 4)
  | 3 => let b := 2 ^ (lowOnes 54 a + 3); (4 * a / b * b, 4 * a / b * b + b)
  | _ => (0, 0)

/-- May a hart in a mode access n bytes for fetch (0), load (1) or store (2)? The lowest entry that meets a byte decides. -/
def Hart.pmpOk (k : Hart) (priv x pa n : Nat) : Bool :=
  match (List.range 16).find? (fun i => let r := k.pmpRange i; decide (r.1 < pa + n ∧ pa < r.2)) with
  | none => priv == 3
  | some i =>
    let r := k.pmpRange i
    let cfg := k.pmpCfg i
    decide (r.1 ≤ pa ∧ pa + n ≤ r.2) && ((priv == 3 && !bit cfg 7) || bit cfg (match x with | 0 => 2 | 1 => 0 | _ => 1))

/-! ## Translation (Sv39, Sv48) -/

/-- Exception codes of a page fault and an access fault by kind of access. -/
def pageCause (x : Nat) : Nat := match x with | 0 => 12 | 1 => 13 | _ => 15
def accCause (x : Nat) : Nat := match x with | 0 => 1 | 1 => 5 | _ => 7

/-- Does a leaf permit the access? A clear A, or a clear D on a store, is a page fault. -/
def leafOk (st priv x e : Nat) : Bool :=
  (if bit e 4 then priv == 0 || (bit st 18 && x != 0) else priv == 1) &&
  (match x with
   | 0 => bit e 3
   | 1 => bit e 1 || (bit st 19 && bit e 3)
   | _ => bit e 2 && bit e 7) && bit e 6

/-- The walk: levels left, the table's address; a physical address or an exception code. -/
def rvWalk (h priv x va : Nat) : Nat → Nat → State → State × Except Nat Nat
  | 0, _, s => (s, .error (pageCause x))
  | l + 1, t, s =>
    let k := s.hart h
    let a := t + 8 * (va / 2 ^ (12 + 9 * l) % 512)
    if decide (2 ^ 52 ≤ a) || !k.pmpOk 1 1 a 8 then (s, .error (accCause x))
    else match rvLoad h a 8 s with
      | (s, none) => (s, .error (accCause x))
      | (s, some e) =>
        if !bit e 0 || (bit e 2 && !bit e 1) || bits e 63 54 != 0 then (s, .error (pageCause x))
        else if !bit e 1 && !bit e 3 then rvWalk h priv x va l (bits e 53 10 * 4096) s
        else if bits e 53 10 % 2 ^ (9 * l) ≠ 0 || !leafOk (k.c cMstatus) priv x e then (s, .error (pageCause x))
        else (s, .ok (bits e 53 10 * 4096 + va % 2 ^ (12 + 9 * l)))

/-- The mode whose rules a data access follows (MPRV). -/
def Hart.dataPriv (k : Hart) : Nat := if bit (k.c cMstatus) 17 then bits (k.c cMstatus) 12 11 else k.priv

/-- The physical address of n bytes that lie in one page, or an exception code. -/
def rvAddr (h x va n : Nat) (s : State) : State × Except Nat Nat :=
  let k := s.hart h
  let priv := if x = 0 then k.priv else k.dataPriv
  let mode := bits (k.c cSatp) 63 60
  let levels := if mode = 8 then 3 else 4
  let top := 12 + 9 * levels
  let r : State × Except Nat Nat :=
    if priv = 3 ∨ mode = 0 then (s, .ok va)
    else if wrapTo 64 (sgn top va) ≠ va then (s, .error (pageCause x))
    else rvWalk h priv x va levels (bits (k.c cSatp) 43 0 * 4096) s
  match r with
  | (s, .error e) => (s, .error e)
  | (s, .ok pa) => if decide (2 ^ 52 ≤ pa) || !k.pmpOk priv x pa n then (s, .error (accCause x)) else (s, .ok pa)

/-- A load from a virtual address; a misaligned one traps. -/
def rvLoadV (h va n : Nat) (s : State) : State × Except Nat Nat :=
  if va % n ≠ 0 then (s, .error 4)
  else match rvAddr h 1 va n s with
    | (s, .error e) => (s, .error e)
    | (s, .ok pa) => match rvLoad h pa n s with
      | (s, some v) => (s, .ok v)
      | (s, none) => (s, .error 5)

/-- A store to a virtual address. -/
def rvStoreV (h va n v : Nat) (s : State) : State × Except Nat Unit :=
  if va % n ≠ 0 then (s, .error 6)
  else match rvAddr h 2 va n s with
    | (s, .error e) => (s, .error e)
    | (s, .ok pa) => match rvStore h pa n v s with
      | some s => (s, .ok ())
      | none => (s, .error 7)

/-- Two bytes of an instruction: only memory is executable. -/
def rvFetch2 (h va : Nat) (s : State) : State × Except Nat Nat :=
  match rvAddr h 0 va 2 s with
  | (s, .error e) => (s, .error e)
  | (s, .ok pa) =>
    if !rvMemOk s h pa then (s, .error 1)
    else match rvLoad h pa 2 s with
      | (s, some v) => (s, .ok v)
      | (s, none) => (s, .error 1)

end Sys2Proof.Machine
end

