-- ==== Sys2Proof/Machine/RvExec.lean ====
section
/-! DEFINITION. The instructions of the harts (R15, R396): RV64IMAC with Zicsr and Zifencei, and of a host core F and D. `rvAct` says what an instruction does as
a function of the hart alone; `State.rvDo` does it. The encodings and effects are those of the RISC-V architecture that the spec names (log 5). -/

namespace Sys2Proof.Machine

/-- What an instruction does: the hart goes on, a trap, or an access to memory, a CSR or the fabric. Registers 32 to 63 are the floating-point ones. -/
inductive RvAct where
  | go (k : Hart)
  | trap (cause tval : Nat)
  | load (va n : Nat) (sg : Bool) (rd : Nat)
  | store (va n v : Nat)
  | amo (va n op v rd : Nat) (rel : Bool)
  | lr (va n rd : Nat)
  | sc (va n v rd : Nat) (rel : Bool)
  | csr (n op rd src : Nat) (writes : Bool)
  | fence
  deriving DecidableEq, Repr

/-! ## Compressed instructions -/

def rvR (op f3 f7 rd a b : Nat) : Nat := op + rd * 2 ^ 7 + f3 * 2 ^ 12 + a * 2 ^ 15 + b * 2 ^ 20 + f7 * 2 ^ 25
def rvI (op f3 rd a : Nat) (imm : Int) : Nat := op + rd * 2 ^ 7 + f3 * 2 ^ 12 + a * 2 ^ 15 + wrapTo 12 imm * 2 ^ 20
def rvS (op f3 a b imm : Nat) : Nat := op + bits imm 4 0 * 2 ^ 7 + f3 * 2 ^ 12 + a * 2 ^ 15 + b * 2 ^ 20 + bits imm 11 5 * 2 ^ 25
def rvB (f3 a b : Nat) (imm : Int) : Nat :=
  let v := wrapTo 13 imm
  0x63 + bits v 11 11 * 2 ^ 7 + bits v 4 1 * 2 ^ 8 + f3 * 2 ^ 12 + a * 2 ^ 15 + b * 2 ^ 20 + bits v 10 5 * 2 ^ 25 + bits v 12 12 * 2 ^ 31
def rvJ (rd : Nat) (imm : Int) : Nat :=
  let v := wrapTo 21 imm
  0x6F + rd * 2 ^ 7 + bits v 19 12 * 2 ^ 12 + bits v 11 11 * 2 ^ 20 + bits v 10 1 * 2 ^ 21 + bits v 20 20 * 2 ^ 31

/-- The 32-bit instruction that a 16-bit one stands for; none: illegal. -/
def rvC (w : Nat) : Option Nat :=
  let f := fun (hi lo at_ : Nat) => bits w hi lo * 2 ^ at_
  let rd := bits w 11 7
  let b := bits w 6 2
  let ra := 8 + bits w 9 7
  let rb := 8 + bits w 4 2
  let imm6 := sgn 6 (f 12 12 5 + b)
  let sh := f 12 12 5 + b
  let offD := f 12 10 3 + f 6 5 6
  let offW := f 12 10 3 + f 6 6 2 + f 5 5 6
  let spD := f 12 12 5 + f 6 5 3 + f 4 2 6
  let spW := f 12 12 5 + f 6 4 2 + f 3 2 6
  let stD := f 12 10 3 + f 9 7 6
  let stW := f 12 9 2 + f 8 7 6
  let offB := sgn 9 (f 12 12 8 + f 11 10 3 + f 6 5 6 + f 4 3 1 + f 2 2 5)
  match w % 4, bits w 15 13 with
  | 0, 0 => let imm := f 12 11 4 + f 10 7 6 + f 6 6 2 + f 5 5 3; if imm = 0 then none else some (rvI 0x13 0 rb 2 imm)
  | 0, 1 => some (rvI 0x07 3 rb ra offD)
  | 0, 2 => some (rvI 0x03 2 rb ra offW)
  | 0, 3 => some (rvI 0x03 3 rb ra offD)
  | 0, 5 => some (rvS 0x27 3 ra rb offD)
  | 0, 6 => some (rvS 0x23 2 ra rb offW)
  | 0, 7 => some (rvS 0x23 3 ra rb offD)
  | 1, 0 => some (rvI 0x13 0 rd rd imm6)
  | 1, 1 => if rd = 0 then none else some (rvI 0x1B 0 rd rd imm6)
  | 1, 2 => some (rvI 0x13 0 rd 0 imm6)
  | 1, 3 =>
    if sh = 0 then none
    else if rd = 2 then some (rvI 0x13 0 2 2 (sgn 10 (f 12 12 9 + f 6 6 4 + f 5 5 6 + f 4 3 7 + f 2 2 5)))
    else some (0x37 + rd * 2 ^ 7 + wrapTo 20 imm6 * 2 ^ 12)
  | 1, 4 =>
    match bits w 11 10, bit w 12, bits w 6 5 with
    | 0, _, _ => some (rvI 0x13 5 ra ra sh)
    | 1, _, _ => some (rvI 0x13 5 ra ra (sh + 1024))
    | 2, _, _ => some (rvI 0x13 7 ra ra imm6)
    | _, false, 0 => some (rvR 0x33 0 32 ra ra rb)
    | _, false, 1 => some (rvR 0x33 4 0 ra ra rb)
    | _, false, 2 => some (rvR 0x33 6 0 ra ra rb)
    | _, false, _ => some (rvR 0x33 7 0 ra ra rb)
    | _, true, 0 => some (rvR 0x3B 0 32 ra ra rb)
    | _, true, 1 => some (rvR 0x3B 0 0 ra ra rb)
    | _, true, _ => none
  | 1, 5 => some (rvJ 0 (sgn 12 (f 12 12 11 + f 11 11 4 + f 10 9 8 + f 8 8 10 + f 7 7 6 + f 6 6 7 + f 5 3 1 + f 2 2 5)))
  | 1, 6 => some (rvB 0 ra 0 offB)
  | 1, 7 => some (rvB 1 ra 0 offB)
  | 2, 0 => some (rvI 0x13 1 rd rd sh)
  | 2, 1 => some (rvI 0x07 3 rd 2 spD)
  | 2, 2 => if rd = 0 then none else some (rvI 0x03 2 rd 2 spW)
  | 2, 3 => if rd = 0 then none else some (rvI 0x03 3 rd 2 spD)
  | 2, 4 =>
    if bit w 12 then
      if b = 0 then some (if rd = 0 then 0x100073 else rvI 0x67 0 1 rd 0) else some (rvR 0x33 0 0 rd rd b)
    else if b = 0 then (if rd = 0 then none else some (rvI 0x67 0 0 rd 0)) else some (rvR 0x33 0 0 rd 0 b)
  | 2, 5 => some (rvS 0x27 3 2 b stD)
  | 2, 6 => some (rvS 0x23 2 2 b stW)
  | 2, 7 => some (rvS 0x23 3 2 b stD)
  | _, _ => none

/-! ## Integers -/

/-- The w low bits of a value, sign-extended to 64. -/
def sext64 (w v : Nat) : Nat := wrapTo 64 (sgn w v)

/-- OP and OP-IMM on w bits: `alt` is SUB or an arithmetic shift. -/
def rvAlu (w f3 : Nat) (alt : Bool) (a b : Nat) : Nat :=
  let m := 2 ^ w
  let sh := b % w
  sext64 w (match f3 with
    | 0 => if alt then (a + (m - b % m)) % m else (a + b) % m
    | 1 => a * 2 ^ sh % m
    | 2 => b2n (decide (sgn w a < sgn w b))
    | 3 => b2n (decide (a < b))
    | 4 => a ^^^ b
    | 5 => if alt then wrapTo w (sgn w a / (2 ^ sh : Nat)) else a % m / 2 ^ sh
    | 6 => a ||| b
    | _ => a &&& b)

/-- The M extension on w bits. -/
def rvMul (w f3 a b : Nat) : Nat :=
  let a := a % 2 ^ w
  let b := b % 2 ^ w
  sext64 w (match f3 with
    | 0 => a * b % 2 ^ w
    | 1 => wrapTo w (sgn w a * sgn w b / (2 ^ w : Nat))
    | 2 => wrapTo w (sgn w a * (b : Int) / (2 ^ w : Nat))
    | 3 => a * b / 2 ^ w
    | 4 => if b = 0 then 2 ^ w - 1 else wrapTo w (Int.tdiv (sgn w a) (sgn w b))
    | 5 => if b = 0 then 2 ^ w - 1 else a / b
    | 6 => if b = 0 then a else wrapTo w (Int.tmod (sgn w a) (sgn w b))
    | _ => if b = 0 then a else a % b)

/-- Is a branch taken? -/
def rvTaken (f3 a b : Nat) : Bool :=
  match f3 with
  | 0 => a == b
  | 1 => a != b
  | 4 => decide (sgn 64 a < sgn 64 b)
  | 5 => decide (sgn 64 b ≤ sgn 64 a)
  | 6 => decide (a < b)
  | _ => decide (b ≤ a)

/-- The atomic operation of an AMO by its funct5, as `atomicOp` numbers it; 9 is the exchange. -/
def rvAmoOp (f5 : Nat) : Option Nat :=
  match f5 with
  | 0 => some 0
  | 1 => some 9
  | 4 => some 8
  | 8 => some 7
  | 12 => some 6
  | 16 => some 2
  | 20 => some 3
  | 24 => some 4
  | 28 => some 5
  | _ => none

/-! ## Floating point, of a host core -/

def f64 : Fmt := ⟨11, 52, 1023, .ieee⟩

def rvFmt (d : Bool) : Fmt := if d then f64 else f32

/-- A floating-point register as a value of a format: a single that is not NaN-boxed is the canonical NaN. -/
def Hart.fr (k : Hart) (d : Bool) (r : Nat) : Nat :=
  let v := (k.f.getD r 0).toNat
  if d then v else if v / 2 ^ 32 = 2 ^ 32 - 1 then v % 2 ^ 32 else f32.canon

/-- Write register 0 to 31, or the floating-point register r - 32, a single NaN-boxed; the floating-point state is then dirty. -/
def Hart.setD (k : Hart) (r v : Nat) : Hart :=
  if r < 32 then k.setX r v
  else { k.setC cMstatus (setBits (k.c cMstatus) 14 13 3) with f := setAt 0 k.f (r - 32) (BitVec.ofNat 64 v) }

def boxF (d : Bool) (v : Nat) : Nat := if d then v else v % 2 ^ 32 + (2 ^ 64 - 2 ^ 32)

/-- Flags of an operation enter fflags. -/
def Hart.raise (k : Hart) (fl : Nat) : Hart :=
  let v := b2n (fl &&& fNX != 0) + b2n (fl &&& fUF != 0) * 2 + b2n (fl &&& fOF != 0) * 4 + b2n (fl &&& fDZ != 0) * 8 + b2n (fl &&& fNV != 0) * 16
  (k.setC 3 (k.c 3 ||| v)).setC cMstatus (setBits (k.c cMstatus) 14 13 3)

/-- A rounding mode field as `roundFmt` numbers the modes; 7 takes frm. None: reserved. -/
def Hart.rvRm (k : Hart) (m : Nat) : Option Nat :=
  match (if m = 7 then bits (k.c 3) 7 5 else m) with
  | 0 => some 0
  | 1 => some 1
  | 2 => some 3
  | 3 => some 2
  | 4 => some 4
  | _ => none

/-- A NaN result is the canonical one. -/
def canonOut (f : Fmt) (r : Nat × Nat) : Nat × Nat := (if (f.dec r.1).isNan then f.canon else r.1, r.2)

/-- A value to an integer of w bits: out of range it saturates, a NaN is the largest. -/
def rvToInt (rm w : Nat) (sg : Bool) (x : Fv) : Nat × Nat :=
  if x.isNan then (if sg then 2 ^ (w - 1) - 1 else 2 ^ w - 1, fNV) else fpToInt rm w sg true x

/-- The result register, its value and the flags of an OP-FP instruction; none: illegal. -/
def rvFop (k : Hart) (w : Nat) : Option (Nat × Nat × Nat) :=
  let d := bit w 25
  let f := rvFmt d
  let f3 := bits w 14 12
  let x := bits w 24 20
  let a := k.fr d (bits w 19 15)
  let b := k.fr d x
  let xa := k.reg (bits w 19 15)
  let sb := f.width - 1
  let toF := fun (r : Nat × Nat) => some (32 + bits w 11 7, boxF d (canonOut f r).1, r.2)
  let toX := fun (r : Nat × Nat) => some (bits w 11 7, r.1, r.2)
  let rnd := fun (g : Nat → Option (Nat × Nat × Nat)) => (k.rvRm f3).bind g
  let sgnTo := fun (s : Nat) => some (32 + bits w 11 7, boxF d (setBits a sb sb s), 0)
  if bit w 26 then none
  else match bits w 31 27 with
  | 0 => rnd (fun rm => toF (fpAdd f rm a b))
  | 1 => rnd (fun rm => toF (fpSub f rm a b))
  | 2 => rnd (fun rm => toF (fpMul f rm a b))
  | 3 => rnd (fun rm => toF (fpDiv f rm a b))
  | 4 => match f3 with
    | 0 => sgnTo (bits b sb sb)
    | 1 => sgnTo (1 - bits b sb sb)
    | 2 => sgnTo ((bits a sb sb + bits b sb sb) % 2)
    | _ => none
  | 5 => if f3 ≤ 1 then toF (fpMin f (f3 == 1) a b) else none
  | 8 =>
    if d then (if x = 0 then rnd (fun rm => toF (roundFmt f64 rm false (f32.dec (k.fr false (bits w 19 15))))) else none)
    else (if x = 1 then rnd (fun rm => toF (roundFmt f32 rm false (f64.dec (k.fr true (bits w 19 15))))) else none)
  | 11 => if x = 0 then rnd (fun rm => toF (fpSqrt f rm a)) else none
  | 20 => match f3 with
    | 0 => let r := fpCmp f 3 a b; toX (b2n r.1, r.2)
    | 1 => let r := fpCmp f 2 a b; toX (b2n r.1, r.2)
    | 2 => let r := fpCmp f 0 a b; toX (b2n r.1, r.2)
    | _ => none
  | 24 =>
    if x < 4 then rnd (fun rm => let n := if x < 2 then 32 else 64; let r := rvToInt rm n (x % 2 == 0) (f.dec a); toX (sext64 n r.1, r.2)) else none
  | 26 =>
    if x < 4 then rnd (fun rm => let n := if x < 2 then 32 else 64; toF (roundFmt f rm false (intVal (if x % 2 = 0 then sgn n xa else (xa % 2 ^ n : Nat))))) else none
  | 28 =>
    if x ≠ 0 then none
    else if f3 = 0 then toX (if d then a else sext64 32 ((k.f.getD (bits w 19 15) 0).toNat % 2 ^ 32), 0)
    else if f3 = 1 then toX (fpClass f a, 0) else none
  | 30 => if x = 0 ∧ f3 = 0 then some (32 + bits w 11 7, boxF d xa, 0) else none
  | _ => none

/-- A fused multiply-add, by the opcode's signs. -/
def rvFma (k : Hart) (w : Nat) : Option (Nat × Nat × Nat) :=
  let d := bit w 25
  let f := rvFmt d
  let sb := f.width - 1
  let flip := fun (c : Bool) (v : Nat) => if c then setBits v sb sb (1 - bits v sb sb) else v
  let op := bits w 3 2
  if bit w 26 then none
  else (k.rvRm (bits w 14 12)).map (fun rm =>
    let r := fpFma f rm (flip (decide (2 ≤ op)) (k.fr d (bits w 19 15))) (k.fr d (bits w 24 20)) (flip (op == 1 || op == 3) (k.fr d (bits w 31 27)))
    (32 + bits w 11 7, boxF d (canonOut f r).1, r.2))

/-! ## What an instruction does -/

/-- Environment calls, returns, WFI and SFENCE.VMA. -/
def rvSystem (k : Hart) (w ill : Nat) (nx : Hart) : RvAct :=
  let st := k.c cMstatus
  let must := fun (c : Bool) (a : RvAct) => if c then a else .trap 2 ill
  if w = 0x73 then .trap (8 + k.priv) 0
  else if w = 0x100073 then .trap 3 k.pc.toNat
  else if w = 0x10200073 then must (k.priv == 3 || (k.priv == 1 && !bit st 22)) (.go k.sret)
  else if w = 0x30200073 then must (k.priv == 3) (.go k.mret)
  else if w = 0x10500073 then must (k.priv == 3 || (k.priv == 1 && !bit st 21)) (.go { nx with wfi := true })
  else if bits w 31 25 = 9 ∧ bits w 11 7 = 0 then must (k.priv == 3 || (k.priv == 1 && !bit st 20)) (.go nx)
  else .trap 2 ill

/-- A 32-bit instruction of length `len` in memory; `ill` is what an illegal one reports. -/
def rvAct (host : Bool) (k : Hart) (w len ill : Nat) : RvAct :=
  let rd := bits w 11 7
  let f3 := bits w 14 12
  let f7 := bits w 31 25
  let a := k.reg (bits w 19 15)
  let b := k.reg (bits w 24 20)
  let pc := k.pc.toNat
  let goTo := fun (p : Int) (k : Hart) => { k with pc := BitVec.ofNat 64 (wrapTo 64 p / 2 * 2) }
  let nx := goTo (pc + len) k
  let put := fun (v : Nat) => RvAct.go (nx.setX rd v)
  let immI := sgn 12 (bits w 31 20)
  let va := fun (i : Int) => wrapTo 64 (a + i)
  let immS := sgn 12 (f7 * 32 + rd)
  let bad := RvAct.trap 2 ill
  let fOn := host && bits (k.c cMstatus) 14 13 != 0
  let fput := fun (r : Option (Nat × Nat × Nat)) => match r with
    | some (r, v, fl) => if fOn then RvAct.go ((nx.setD r v).raise fl) else bad
    | none => bad
  match w % 128 with
  | 0x37 => put (sext64 32 (bits w 31 12 * 4096))
  | 0x17 => put (wrapTo 64 (pc + sgn 32 (bits w 31 12 * 4096)))
  | 0x6F =>
    .go (goTo (pc + sgn 21 (bits w 31 31 * 2 ^ 20 + bits w 19 12 * 2 ^ 12 + bits w 20 20 * 2 ^ 11 + bits w 30 21 * 2)) (k.setX rd ((pc + len) % 2 ^ 64)))
  | 0x67 => if f3 = 0 then .go (goTo (a + immI) (k.setX rd ((pc + len) % 2 ^ 64))) else bad
  | 0x63 =>
    if f3 = 2 ∨ f3 = 3 then bad
    else .go (if rvTaken f3 a b then goTo (pc + sgn 13 (bits w 31 31 * 2 ^ 12 + bits w 7 7 * 2 ^ 11 + bits w 30 25 * 32 + bits w 11 8 * 2)) k else nx)
  | 0x03 => if f3 = 7 then bad else .load (va immI) (2 ^ (f3 % 4)) (decide (f3 < 4)) rd
  | 0x23 => if f3 < 4 then .store (va immS) (2 ^ f3) b else bad
  | 0x13 =>
    let sh := bits w 25 20
    if f3 = 1 ∨ f3 = 5 then
      (if bits w 31 26 = 0 ∨ (f3 = 5 ∧ bits w 31 26 = 16) then put (rvAlu 64 f3 (bits w 31 26 == 16) a sh) else bad)
    else put (rvAlu 64 f3 false a (wrapTo 64 immI))
  | 0x1B =>
    if f3 = 0 then put (rvAlu 32 0 false a (wrapTo 64 immI))
    else if (f3 = 1 ∧ f7 = 0) ∨ (f3 = 5 ∧ (f7 = 0 ∨ f7 = 32)) then put (rvAlu 32 f3 (f7 == 32) a (bits w 24 20)) else bad
  | 0x33 =>
    if f7 = 1 then put (rvMul 64 f3 a b)
    else if f7 = 0 ∨ (f7 = 32 ∧ (f3 = 0 ∨ f3 = 5)) then put (rvAlu 64 f3 (f7 == 32) a b) else bad
  | 0x3B =>
    if f7 = 1 ∧ (f3 = 0 ∨ 4 ≤ f3) then put (rvMul 32 f3 a b)
    else if (f7 = 0 ∧ (f3 = 0 ∨ f3 = 1 ∨ f3 = 5)) ∨ (f7 = 32 ∧ (f3 = 0 ∨ f3 = 5)) then put (rvAlu 32 f3 (f7 == 32) a b) else bad
  | 0x0F => if f3 = 0 then .fence else if f3 = 1 then .go nx else bad
  | 0x2F =>
    if f3 ≠ 2 ∧ f3 ≠ 3 then bad
    else match bits w 31 27 with
      | 2 => if bits w 24 20 = 0 then .lr a (2 ^ f3) rd else bad
      | 3 => .sc a (2 ^ f3) b rd (bit w 25)
      | f5 => match rvAmoOp f5 with
        | some op => .amo a (2 ^ f3) op b rd (bit w 25)
        | none => bad
  | 0x73 =>
    if f3 = 0 then rvSystem k w ill nx
    else if f3 = 4 then bad
    else .csr (bits w 31 20) (f3 % 4) rd (if f3 < 4 then a else bits w 19 15) (f3 % 4 == 1 || bits w 19 15 != 0)
  | 0x07 => if fOn && (f3 == 2 || f3 == 3) then .load (va immI) (2 ^ f3) false (32 + rd) else bad
  | 0x27 => if fOn && (f3 == 2 || f3 == 3) then .store (va immS) (2 ^ f3) (k.f.getD (bits w 24 20) 0).toNat else bad
  | 0x43 => fput (rvFma k w)
  | 0x47 => fput (rvFma k w)
  | 0x4B => fput (rvFma k w)
  | 0x4F => fput (rvFma k w)
  | 0x53 => fput (rvFop k w)
  | _ => bad

/-! ## Doing it -/

/-- One more instruction has retired. -/
def Hart.retire (k : Hart) : Hart := k.setC 0xB02 (k.c 0xB02 + 1)

/-- The hart goes on behind its instruction, with a register written. -/
def State.rvDone (s : State) (h len rd v : Nat) : State :=
  let k := s.hart h
  s.setHart h { (k.setD rd v).retire with pc := k.pc + BitVec.ofNat 64 len }

def State.rvTrap (s : State) (h cause tval : Nat) : State := s.setHart h ((s.hart h).trap cause false tval)

/-- What a release by a hart needs: a supervisor core's dirty lines reach their homes; a host core writes at the homes (R361). -/
def State.rvRelease (s : State) (h : Nat) : State := if isHost h then s else s.cleanCore h

/-- A CSR instruction. A custom CSR exists in the supervisor cores, in M mode alone (R399); PKDATA may have to wait for a frame, and the instruction is then
issued again (R400). -/
def State.rvCsrDo (s : State) (h n op rd src : Nat) (writes : Bool) (len ill : Nat) : State :=
  let k := s.hart h
  let new : Nat → Nat := fun old => match op with | 1 => src | 2 => old ||| src | _ => old &&& (2 ^ 64 - 1 - src)
  if k.priv < bits n 9 8 || (writes && bits n 11 10 == 3) || (n == cSatp && k.priv == 1 && bit (k.c cMstatus) 20) then s.rvTrap h 2 ill
  else match rvCsr s h n with
    | some old =>
      let s := s.rvDone h len rd old
      if !writes then s
      else if n = 0xB00 then s.setHart h ((s.hart h).setC n (wrapTo 64 ((new old : Int) - s.cycle)))
      else
        let k := rvCsrWrite h n (new old) (s.hart h)
        s.setHart h (if n ≤ 3 then k.setC cMstatus (setBits (k.c cMstatus) 14 13 3) else k)
    | none =>
      if isHost h then s.rvTrap h 2 ill
      else
        let r := if op = 1 ∧ rd = 0 then (if (customRead h n s).isSome then some (s, 0) else none) else customRead h n s
        match r with
        | none => s.rvTrap h 2 ill
        | some (s1, old) =>
          if (s1.core h).pkWait.isSome then s1
          else if !writes then s1.rvDone h len rd old
          else match csrWrite h n (BitVec.ofNat 64 (new old)) s1 with
            | .next s2 => if (s2.core h).pkWait.isSome then s2 else s2.rvDone h len rd old
            | _ => s1.rvTrap h 2 ill

/-- An atomic on n bytes at a physical address; none: an access fault. -/
def rvAmo (h pa n op v : Nat) (s : State) : Option (State × Nat) :=
  if rvMemOk s h pa then
    let (s, bs) := ctlPerform s { src := hartSrc h, pa := pa, op := .amo op (n == 8) (BitVec.ofNat 64 (v % 256 ^ n)) 0 }
    some (s, leNat bs)
  else if (spadWindow s h pa n).isSome then
    match rvLoad h pa n s with
    | (s, some old) => (rvStore h pa n (atomicOp op (8 * n) old (v % 256 ^ n) 0).1 s).map (fun s => (s, old))
    | _ => none
  else none

/-- What an instruction does, done. -/
def State.rvDo (s : State) (h len ill : Nat) : RvAct → State
  | .go k => s.setHart h k.retire
  | .trap c t => s.rvTrap h c t
  | .load va n sg rd =>
    match rvLoadV h va n s with
    | (s, .error e) => s.rvTrap h e va
    | (s, .ok v) => s.rvDone h len rd (if 32 ≤ rd then boxF (n == 8) v else if sg then sext64 (8 * n) v else v)
  | .store va n v =>
    match rvStoreV h va n v s with
    | (s, .error e) => s.rvTrap h e va
    | (s, .ok _) => s.rvDone h len 0 0
  | .amo va n op v rd rel =>
    let s := if rel then s.rvRelease h else s
    if va % n ≠ 0 then s.rvTrap h 6 va
    else match rvAddr h 2 va n s with
      | (s, .error e) => s.rvTrap h e va
      | (s, .ok pa) => match rvAmo h pa n op v s with
        | none => s.rvTrap h 7 va
        | some (s, old) => s.rvDone h len rd (sext64 (8 * n) old)
  | .lr va n rd =>
    if va % n ≠ 0 then s.rvTrap h 4 va
    else match rvAddr h 1 va n s with
      | (s, .error e) => s.rvTrap h e va
      | (s, .ok pa) =>
        if !rvMemOk s h pa then s.rvTrap h 5 va
        else match rvLoad h pa n s with
          | (s, none) => s.rvTrap h 5 va
          | (s, some v) =>
            let s := s.rvDone h len rd (sext64 (8 * n) v)
            s.setHart h { s.hart h with resv := some (pa / 64) }
  | .sc va n v rd rel =>
    let s := if rel then s.rvRelease h else s
    if va % n ≠ 0 then s.rvTrap h 6 va
    else match rvAddr h 2 va n s with
      | (s, .error e) => s.rvTrap h e va
      | (s, .ok pa) =>
        if !rvMemOk s h pa then s.rvTrap h 7 va
        else
          let ok := (s.hart h).resv == some (pa / 64)
          let s := s.setHart h { s.hart h with resv := none }
          match (if ok then rvStore h pa n v s else some s) with
          | none => s.rvTrap h 7 va
          | some s => s.rvDone h len rd (b2n (!ok))
  | .csr n op rd src writes => s.rvCsrDo h n op rd src writes len ill
  | .fence => (s.rvRelease h).rvDone h len 0 0

/-- Fetch at the pc: 16 or 32 bits, or the exception and the address it reports. -/
def rvFetch (h : Nat) (s : State) : State × Except (Nat × Nat) Nat :=
  let pc := (s.hart h).pc.toNat
  match rvFetch2 h pc s with
  | (s, .error e) => (s, .error (e, pc))
  | (s, .ok lo) =>
    if lo % 4 ≠ 3 then (s, .ok lo)
    else match rvFetch2 h ((pc + 2) % 2 ^ 64) s with
      | (s, .error e) => (s, .error (e, (pc + 2) % 2 ^ 64))
      | (s, .ok hi) => (s, .ok (lo + hi * 2 ^ 16))

/-- One step of a hart: an interrupt that is pending and enabled is taken; else one instruction. A core in a power state wakes (R434). -/
def State.hartStep (h : Nat) (s : State) : State :=
  let s := s.setHart h { s.hart h with wfi := false }
  let s := if !isHost h && (s.core h).power != 0 then s.updCore h (fun k => { k with power := 0, idleSince := s.cycle }) else s
  match s.rvIrq h with
  | some i => s.setHart h ((s.hart h).trap i true 0)
  | none =>
    match rvFetch h s with
    | (s, .error (e, t)) => s.rvTrap h e t
    | (s, .ok w) =>
      if w % 4 = 3 then s.rvDo h 4 w (rvAct (isHost h) (s.hart h) w 4 w)
      else match rvC w with
        | some x => s.rvDo h 2 w (rvAct (isHost h) (s.hart h) x 2 w)
        | none => s.rvTrap h 2 w

/-- Can a hart take a step? It is out of reset, it waits for no frame (R400), and if it waits for an interrupt one is pending that mie enables. -/
def State.hartReady (s : State) (h : Nat) : Bool :=
  let k := s.hart h
  k.on && (!k.wfi || s.mip h &&& k.c cMie != 0) && (isHost h || (s.core h).pkWait.isNone)

/-- The hart whose turn it is. -/
def State.nextHart (s : State) : Option Nat :=
  (s.harts.map Prod.fst |>.filter s.hartReady).foldl (fun b h => match b with
    | some x => if (h + 176 - s.ownHart) % 176 < (x + 176 - s.ownHart) % 176 then some h else some x
    | none => some h) none

end Sys2Proof.Machine
end

