-- ==== Sys2Proof/Machine/Sched.lean ====
section
/-! DEFINITION. What the next step of the package is (log 1, log 3): the next input from outside, else the next due event of the package, else one instruction of a
hart or one unit of one pack, else time alone passes. `run` is exec, which Step.lean gives; it runs the
decoded unit and the outside's events. -/

namespace Sys2Proof.Machine

/-! ## Time (R9, R380, R435) -/

/-- Clocks pass: CYCLE, the idle counters of the cores that start nothing, the clock counters of R437. How many is not said (log 2). -/
def State.advance (s : State) (issuing : Option Nat) : State :=
  let (d, s) := s.draw
  let n := Config.clocks d + 1
  let t := (List.range 160).foldl (fun s c =>
    let s := s.idleClocks c (if issuing = some c then n - 1 else n)
    let s := s.count c 1 64 n
    if s.coreIdle c then s else s.updCore c (fun k => { k with idleSince := s.cycle + n })) s
  { s with cores := t.cores, outbox := t.outbox, cycle := s.cycle + n }

/-- Packs whose lanes have all exited leave the barrier objects they are registered on (R304). -/
def State.settleBars (s : State) : State :=
  (s.packs.filter (fun p => !p.2.bars.isEmpty && p.2.lanes.all (fun x => x.st == .exited))).foldl (fun s p => s.barExit (p.1 / 48) (p.1 % 48)) s

/-- Packs that could not issue try again; until one issues the cause of its last attempt stands (R380). -/
def State.clearStalls (s : State) : State :=
  { s with packs := s.packs.map (fun (p : Nat × Pack) => if p.2.ownStall.isSome then (p.1, { p.2 with ownStall := none, ownCause := p.2.ownStall }) else p) }

/-- What follows every event: its clocks are charged to what the packs wait for (R380), then they try again. -/
def afterEvent (s : State) : State := (s.settleBars.advance none).clearStalls

/-! ## Due events -/

/-- An event that is due, as what it comes to. -/
abbrev Due := Option Out

def dueIf (c : Bool) (o : Out) : Due := if c then some o else none

/-- Due when it changes anything. -/
def dueChange (s : State) (o : Out) : Due :=
  match o with
  | .next t => if t != s then some o else none
  | _ => none

/-- Cores that hold a pack, ascending. -/
def State.busyCores (s : State) : List Nat := ((s.packs.map (fun p => p.1 / 48))).dedup

/-- Is a pack unable to go on without one of its instructions in flight? -/
def Pack.waitsForToks (p : Pack) : Bool :=
  p.ownStall.isSome || p.park || p.svc.isSome || p.evicted || !p.pending.isEmpty || p.req.isSome || p.group.isNone

/-- The completion of an instruction in flight (R39): the oldest that needs nothing from an engine, once the pack cannot go on; an accumulator instruction's,
for which other packs may wait (R268), once its pack has issued another. -/
def tokEvent (s : State) (c sl : Nat) (p : Pack) : Due :=
  let stuck := p.waitsForToks
  match p.toks.find? (fun t => (stuck || (t.kind == 3 && decide (t.left ≤ 1))) && (decide (t.kind ≤ 3) || (t.kind == 6 && !s.atomrOut t.id)) && t.pend.isNone) with
  | none => none
  | some t => some (match t.kind with
    | 0 => execMemoryAccessComplete c sl t.id s
    | 1 | 6 => execAtomResult c sl t.id s
    | 2 => execLongLatencyComplete c sl t.id s
    | _ => execAccumulatorInstructionComplete c sl t.id s)

/-- Traps to deliver; none of a context that is SAVING (R409). -/
def trapEvent (s : State) (c sl : Nat) (p : Pack) : Due :=
  match p.deliverable with
  | none => none
  | some t =>
    if s.ctxState p.ctx = 2 then none
    else if trapWay s c sl t == .handler then some (execTrapDelivery c sl s) else some (execEscalation c sl s)

/-- The oldest TCOPY that waits for acceptance: its tables are read (R150, R154), or it is accepted when its gate opens (R161, R168). -/
def acceptEvent (s : State) (c sl : Nat) (p : Pack) : Due :=
  match p.tcq with
  | [] => none
  | q :: _ => dueIf (!q.seen || acceptGate s c sl q) (execTcopyAccept c sl s)

/-- Events of a copy. -/
def copyEvent (s : State) (id : Nat) (c : Copy) : Due :=
  let total := (shapeOf c.img c.q.base).total
  if c.waits ≠ 0 then none
  else if c.status = 4 then some (execCopyFail id s)
  else if c.status = 0 then dueIf (decide ((s.copies.filter (fun x => x.2.status == 1)).length < 48)) (execCopyStart s)
  else if c.status = 1 then (if c.at_ ≥ total then some (execCopyComplete id s) else dueChange s (execBarrierEngineArrival id s))
  else none

/-- Events of the matrix unit and the streams of a core. -/
def matrixEvent (s : State) (c : Nat) : Due :=
  let k := s.core c
  if k.mxOwner.isNone then none
  else if (streamFillable s c false).isSome then some (execStreamFill c false s)
  else if (streamFillable s c true).isSome then some (execStreamFill c true s)
  else match k.mmaQ with
    | [] => none
    | e :: _ =>
      if e.popped.isSome then dueIf (!(mmaEmul e.ty && !e.emul)) (execMmaEntryComplete c s)
      else dueIf (mmaCanStart s c).isSome (execMmaEntryStart c s)

/-- Events of a core's frames. -/
def frameEvent (s : State) (c : Nat) : Due :=
  let sl := s.slotsOf c
  if (s.grantable c).isSome then some (execFrameGrant c s)
  else match sl.find? (fun x => (s.pack c x).refilling.isSome) with
  | some x => some (execRefillComplete c x s)
  | none =>
    match sl.find? (fun x => (s.pack c x).readbackDepth.isSome) with
    | some x => some (execRecordReadback c x s)
    | none =>
      match (s.core c).spill with
      | some j => dueIf (((s.pack c j.slot).frames.getD j.depth {}).st != .spilling || !(s.pack c j.slot).writesFrame j.depth) (execSpillComplete c s)
      | none =>
        if s.escapeDue c then some (execEscapeSpillStart c s)
        else (sl.find? (fun x => s.waitOver c x)).map (fun x => execFrameWaitExpiry c x s)

/-- A PKDATA access whose frame has come back (R400). -/
def pkEvent (s : State) (c : Nat) : Due :=
  (s.pkDue c).map (fun w => match w with | some v => execPkdataWrite c v s | none => execPkdataRead c s)

/-- Events of a collective: any step of its chunks may read its contribution or run out of time (R339, R341). -/
def collEvent (s : State) (id : Nat) (c : Coll) : Due :=
  match c.keys.findSome? (fun k => (dueChange s (execCollContributionRead id k s)).orElse (fun _ => dueChange s (execCollStepTimeout id k s))) with
  | some d => some d
  | none => dueChange s (execCollEnd id s)

/-- Reduce blocks, which go before every pack but those at handler level (R339, R378). -/
def State.reduceEvent (s : State) : Due :=
  let room := fun (c : Nat) => decide ((s.slotsOf c).length < 48) && decide (4 ≤ s.poolFree c) &&
    (match s.choosePack c with | some sl => (s.pack c sl).handler.isNone | none => true)
  if s.colls.isEmpty then none
  else s.colls.findSome? (fun x => x.2.keys.findSome? (fun k =>
    if x.2.reduces k && !(List.range 160).any room then none else dueChange s (execCollReduceComplete x.1 k s)))

/-- Events of registers of the package. -/
def registerEvent (s : State) : Due :=
  if bit (s.reg 0x100008) 63 then some (execXltInvDone s)
  else if bit (s.reg 0x300000) 63 then some (execLlcCarveDone s)
  else none

/-- Events that the time of units with nothing to do brings; the matrix array's clocks count from reset, with and without a holder (R282). -/
def restEvent (s : State) (c : Nat) (k : Core) : Due :=
  let busy := match k.mmaQ with | e :: _ => e.popped.isSome | [] => false
  if !k.mxGated && k.mxIdle != 0 && decide (k.mxUsed + k.mxIdle.toNat ≤ s.cycle) && !busy then some (execMxGate c s)
  else if s.deep = 0 then none
  else if s.c2Due c then some (execC2Entry c s)
  else if s.c1Due c then some (execC1Entry c s)
  else none

/-- Events of launches, their queues and nodes, in the scheduler's order. -/
def State.launchEvent (s : State) : Due :=
  ([fun _ => s.wgs.findSome? (fun w => dueIf (s.wgFinished w.1) (execWorkgroupFinish w.2.uid w.2.idx s)),
    fun _ => s.launches.findSome? (fun l => dueIf (s.launchOver l.2 && (!l.2.wrote || s.inTurn l.2)) (execLaunchComplete l.1 s)),
    fun _ => s.releases.findSome? (fun r => dueChange s (execNodeRelease r.uid s)),
    fun _ => (List.range 64).findSome? (fun q => if s.qBaseEn q && s.qCount q != 0 then dueChange s (execLaunchEntryRead q s) else none)]
    : List (Unit → Due)).findSome? (fun f => f ())

/-- Placement, when nothing of the engines and the frames is due; a launch that starves shuts the lower classes out first (R371). -/
def State.placeEvent (s : State) : Due :=
  if !s.launches.any (fun l => decide (l.2.next < l.2.r.wgs)) then none
  else match s.launches.findSome? (fun l => dueIf (decide (l.2.since + 2 ^ 20 ≤ s.cycle) && s.starves l.1) (execPriorityStarvation l.1 s)) with
    | some d => some d
    | none => dueIf (s.nextPlace).isSome (execWorkgroupPlace s)

/-- Page requests that wait to be posted (R119, R165). -/
def State.prqEvent (s : State) : Due :=
  match s.prqHeld.findSome? (fun q => match q.copy with
    | some id => dueIf (!s.heldReady q) (execCopyFaultPause id s)
    | none => none) with
  | some d => some d
  | none => s.prqHeld.findSome? (fun q => dueIf (s.postable q.func).isSome (execPrqEntryPost q.func s))

/-- The core and pack that issue next: cores in turn (log 1), packs by R378 and R379. -/
def State.nextIssue (s : State) : Option (Nat × Nat) :=
  match minBy (fun c => (c + 160 - s.ownTurn) % 160) (s.busyCores.filter (fun c => (s.choosePack c).isSome)) with
  | none => none
  | some c => (s.choosePack c).map (fun sl => (c, sl))

/-- Engines take their turn when no pack can issue, and at every 64th step (log 1). -/
def State.engineTurn (s : State) : Bool := s.ownSteps % 64 == 0 || s.nextIssue.isNone

/-- Events of the engines: copies, the matrix unit and its streams, collectives. -/
def State.engineEvent (s : State) : Due :=
  ([fun _ => s.copies.findSome? (fun c => copyEvent s c.1 c.2),
    fun _ => s.busyCores.findSome? (matrixEvent s),
    fun _ => s.colls.findSome? (fun c => collEvent s c.1 c.2)] : List (Unit → Due)).findSome? (fun f => f ())

/-- The first due event, in a fixed order (log 1). -/
def State.nextEvent (s : State) : Due :=
  let packs := fun (f : Nat → Nat → Pack → Due) (_ : Unit) => s.packs.findSome? (fun p => f (p.1 / 48) (p.1 % 48) p.2)
  let cores := fun (f : Nat → Due) (_ : Unit) => s.busyCores.findSome? f
  ([fun _ => match s.errors with
      | e :: r => some (.next (State.meetError e { s with errors := r }))
      | [] => none,
    fun _ => s.launches.findSome? (fun l => dueIf (l.2.rstate == 2) (execNodeDiscard l.1 s)),
    packs (trapEvent s),
    fun _ => s.launchEvent,
    fun _ => s.prqEvent,
    packs (tokEvent s),
    packs (acceptEvent s),
    packs (fun c sl p => if p.collq.isEmpty then none else dueChange s (execCollAccept c sl s)),
    cores (frameEvent s), cores (pkEvent s),
    fun _ => s.placeEvent,
    fun _ => s.remotes.findSome? (fun r => dueChange s (execFabLossTo r.1 s)),
    packs (fun c sl p => dueIf (!p.waitev.isEmpty && (p.expired s.cycle).isSome) (execWaitevTimeout c sl s)),
    packs (fun c sl p => dueIf (decide (p.passed ≥ 256) && !p.aged) (execPackAged c sl s)),
    fun _ => s.cores.findSome? (fun k => k.2.csWait.findSome? (fun w => dueIf (s.slotFree k.1 w.1) (execControlStoreInstall k.1 w.1 s))),
    fun _ => registerEvent s,
    fun _ => (List.range 64).findSome? (fun x => if s.preemptDue x then dueChange s (execCtxPreempt x s) else none),
    fun _ => (List.range 64).findSome? (fun x => if s.restoring x then dueChange s (execCtxRestore x s) else none),
    fun _ => s.cores.findSome? (fun k => restEvent s k.1 k.2),
    fun _ => [0, 1].findSome? (fun d => if s.c3Due d then some (execC3Entry d s) else none),
    fun _ => s.reduceEvent,
    fun _ => if s.engineTurn then s.engineEvent else none] : List (Unit → Due)).findSome? (fun f => f ())

/-- A core whose firmware has mailbox work it can end or begin (R443). -/
def State.mbxDue (s : State) : Option Nat :=
  (s.cores.find? (fun k => if k.2.mbxStep.isSome then (s.mbxEnded k.1).isSome else k.2.mbxRing != 0)).map Prod.fst

/-! ## Fetch (R25, R27, R57, R64) -/

inductive Fetched where
  | ok (ws : List Nat)
  | fault (img : FaultImg)
  | trap (code detail : Nat) (ws : List Nat)
  deriving DecidableEq, Repr

/-- One word through the control root, with X. -/
def fetchWord (core ctx node va : Nat) (ws : List Nat) (s : State) : State × Fetched :=
  match decodeVa s.pkgId (va % 2 ^ 64) with
  | .error (k, d) => (s, .trap k d ws)
  | .ok (.ctl v) =>
    match transRange { wh := core / 16, ctx := ctx, core := some core, node := node, kind := 3, need := needX } 0 2 v 4 s with
    | (s, .ok ps) => let r := s.readPlaces ps; (r.1, .ok (ws ++ [leNat r.2.1]))
    | (s, .fault img) => (s, .fault img)
    | (s, .trap k d) => (s, .trap k d ws)
    | (s, .wait) => (s, .trap tACCESS 0 ws)
  | .ok _ => (s, .trap tACCESS 0 ws)

/-- Words until the unit is whole; the first argument bounds them. -/
def fetchUnit (core ctx node pc : Nat) : Nat → List Nat → State → State × Fetched
  | 0, ws, s => (s, .ok ws)
  | n + 1, ws, s =>
    match fetchWord core ctx node (pc + 4 * ws.length) ws s with
    | (s, .ok ws) => if ws.length ≥ unitLen ws then (s, .ok ws) else fetchUnit core ctx node pc n ws s
    | r => r

/-- Register fields 96 to 111 inside a microprogram stand for its parameters (R64). -/
def paramReg (base : Nat) (r : VReg) : VReg := if 96 ≤ r.toNat ∧ r.toNat ≤ 111 then BitVec.ofNat 7 (base + (r.toNat - 96)) else r

/-- The instruction that words are, with parameters put in; none: ILLOP (R56). An F4 field that names v0 after that is no fourth operand (R237, log 21). -/
def unitInstr (mbase : Option Nat) (ws : List Nat) : Option Instr :=
  match decode ws with
  | .error _ => none
  | .ok i => match mbase with
    | none => some i
    | some b => let j := instrMapV (paramReg b) i; if j.wf then some j else none

/-! ## One unit of one pack -/

/-- A unit that traps for its whole group before it executes; `va` is the address that trapped, if one did (R385). -/
def stopUnit (code detail : Nat) (va : DWord) (s : State) : Out :=
  runUnit .nop {} (fun c => { s := c.s, traps := groupTrap c code detail va }) s

/-- Lanes leave every rejoin set (R212). -/
def Pack.leaveRejoin (p : Pack) (m : Word) : Pack := p.mapAll (fun _ x => if x.st == .parked then { x with rejoin := x.rejoin &&& ~~~m } else x)

/-- The group's fetch faults: its lanes wait, with the unit's address as replay and resume address (R116). Helpers wait with the others, since the word
that could make them leave has not been read (R216). -/
def fetchFault (u : Cur) (img : FaultImg) (s : State) : State :=
  let img := { img with core := u.core, pack := u.slot, lanes := u.ig }
  let s := s.updPack u.core u.slot (fun p => (p.updLanes u.ig (Lane.waitOn u (u.pc, u.k) img)).leaveRejoin u.ig)
  s.updCore u.core (fun k => { k with trq := k.trq ++ faultEntries u ((lanesOf u.ig).map (fun l => (l, img))) })

/-- Lanes of the group whose fetch was answered FAIL (R120). -/
def failedFetch (p : Pack) (ig : Word) : Word :=
  laneMask ((lanesOf ig).filter (fun l => let x := p.lane l; x.released && (match x.failx with | some i => i.kind == 3 | none => false)))

/-- The group of a pack issues its next unit: fetch, decode, then the meaning. -/
def issueUnit (run : Instr → State → Out) (c slot : Nat) (g : Grp) (s : State) : Out :=
  let p := s.pack c slot
  let x := p.lane ((lanesOf g.ig).headD 0)
  let pc := BitVec.ofNat 64 g.key.1
  let bad := failedFetch p g.ig
  let u : Cur := { core := c, slot := slot, ig := g.ig, depth := g.depth, pc := pc, ownAt := s.ownSteps }
  if bad != 0 then stopUnit tXLATE 0 pc { s with cur := some { u with ig := bad } }
  else if g.key.2 = 0 then
    if g.key.1 % 4 ≠ 0 then stopUnit tMISALIGN 0 pc { s with cur := some u }
    else match fetchUnit c p.ctx (s.wg p.wg).uid g.key.1 4 [] s with
      | (s, .fault img) => .next (fetchFault u img s)
      | (s, .trap k d ws) => stopUnit k d pc { s with cur := some { u with words := ws } }
      | (s, .ok ws) =>
        match unitInstr none ws with
        | none => stopUnit tILLOP 0 0 { s with cur := some { u with words := ws } }
        | some i => run i { s with cur := some { u with words := ws.take i.len } }
  else
    let k := g.key.2 - 1
    let img := ((s.core c).mprogs.find x.mslot).getD []
    let u := { u with k := some k, mlen := img.length, mbase := x.mbase }
    match unitInstr (some x.mbase) (img.drop k) with
    | none => stopUnit tILLOP 0 0 { s with cur := some { u with words := (img.drop k).take (unitLen (img.drop k)) } }
    | some i => run i { s with cur := some { u with words := (img.drop k).take i.len } }

/-- Could a pack issue now? It is ready (R378) when its next group's unit, tried, is not held back. -/
def State.canIssue (run : Instr → State → Out) (c slot : Nat) (s : State) : Bool :=
  let p := s.pack c slot
  s.readyPack c slot && (p.canUnpark || (match p.group with
    | none => false
    | some g =>
      match (if p.handler.isSome then (s, true) else s.needFrame c slot g.depth) with
      | (_, false) => false
      | (s, true) => match issueUnit run c slot g (s.updPack c slot (fun p => { p with ownStall := none })) with
        | .next t => (t.pack c slot).ownStall.isNone
        | _ => true))

/-- What follows an issue: no unit is issuing; a pack that could not issue is passed over; else ages of packs, RUNNING after a restore (R411), time. -/
def afterIssue (run : Instr → State → Out) (c slot : Nat) (s : State) : State :=
  let s := { s with cur := none }
  let p := s.pack c slot
  if p.ownStall.isSome then s
  else
    let s := if s.ctxState p.ctx = 4 then s.setCtxState p.ctx 1 else s
    ({ (s.noteIssue c slot (fun sl => s.canIssue run c sl)).settleBars with ownTurn := (c + 1) % 160 }).advance (some c)

/-- Apply a function to the state a run goes on with. -/
def thenDo (f : State → State) : Out → Out
  | .next s => .next (f s)
  | .fault e => .fault e
  | .refused e => .refused e

/-- A pack is chosen: lanes parked by YIELD come back (R212), a breakpoint stops it (R441), its frame must be resident (R198); else its unit issues. -/
def issuePack (run : Instr → State → Out) (c slot : Nat) (s : State) : Out :=
  let p := s.pack c slot
  if p.canUnpark then .next (s.updPack c slot Pack.unparkLanes)
  else if (s.breakHit c slot).isSome then thenDo afterEvent (execBreakpoint c slot s)
  else match p.group with
    | none => .next s
    | some g =>
      match (if p.handler.isSome then (s, true) else s.needFrame c slot g.depth) with
      | (s, false) => .next (s.updPack c slot (fun p => { p with ownStall := some 3 }))
      | (s, true) => thenDo (afterIssue run c slot) (issueUnit run c slot g s)

/-- Lanes that wait in an instruction in flight for a cluster member to start go on with it once they can (R129). -/
def State.resumeEvent (run : Instr → State → Out) (s : State) : Due :=
  s.packs.findSome? (fun p => p.2.toks.findSome? (fun t => match t.pend with
    | none => none
    | some u => match unitInstr (if u.k.isSome then some u.mbase else none) u.words with
      | none => none
      | some i => match run i { s with cur := some { u with resume := some t.id } } with
        | .next r => if r.packs != s.packs then some (.next { r with cur := none }) else none
        | o => some o))

/-- The hart that steps now: at every second step, and whenever no pack can issue (log 1). -/
def State.hartTurn (s : State) : Option Nat := if s.ownSteps % 2 = 0 ∨ s.nextIssue.isNone then s.nextHart else none

/-- What the package does when nothing comes from outside and no event is due: a hart's step, a pack's, or time alone passes. -/
def stepUnits (run : Instr → State → Out) (s : State) : Out :=
  match s.hartTurn with
  | some h => .next (afterEvent { s.hartStep h with ownHart := (h + 1) % 176 })
  | none =>
    match (if s.boot.stage ≥ 6 then s.nextIssue else none) with
    | some (c, slot) => issuePack run c slot s
    | none => .next (s.advance none).clearStalls

/-- One step, given what an instruction does. -/
def stepWith (run : Instr → State → Out) (s0 : State) : Out :=
  let s := { s0 with ownSteps := s0.ownSteps + 1 }
  match s.agenda with
  | e :: r => thenDo afterEvent (run e { s with agenda := r })
  | [] =>
    match s.nextEvent.orElse (fun _ => s.resumeEvent run) with
    | some o => thenDo afterEvent o
    | none =>
      match s.mbxDue with
      | some c => .next (afterEvent (s.mbxGo c))
      | none => stepUnits run s

end Sys2Proof.Machine
end

