-- ==== Sys2Proof/Machine/Step.lean ====
section
/-! DEFINITION. One step of the package, and how an instruction is placed where the next step fetches (log 4). -/

namespace Sys2Proof.Machine

/-- One step: the next input from outside, else the next due event of the package, else one instruction of a hart or one
unit of one pack (Machine/Sched.lean), run by exec. -/
def step (s : State) : Host.Outcome State Fault Refusal := stepWith exec s

/-- A physical address of this package's control home. -/
def State.homePa (s : State) (off : Nat) : Nat := 8 * 2 ^ 48 + s.pkgId * 2 ^ 34 + off

/-- The launch that stands for the load of a program: one workgroup of one pack, frames of 14 granules. -/
def loadRec : LRec :=
  { entry := 0x10000, frame := 14, lpsize := 256, fbsize := 4096, lpbase := 0x100000, crbase := 0x200000, frbase := 0x300000 }

/-- Bytes of the page table: a pointer at level 0, and one leaf of 1 GiB with every right, pinned, that maps VA to the same offset of the home. -/
def State.loadTable (s : State) : List (Nat × Byte) :=
  let put := fun (pa v : Nat) => (leBytes 8 v).zipIdx.map (fun x => (pa + x.2, x.1))
  put (s.homePa 0x1000) (s.homePa 0x2000 + 1) ++ put (s.homePa 0x2000) (s.homePa 0 + 0x34F)

/-- The package after bring-up, with one context, one launch and one pack, and an instruction at the pack's lpc: what loading a program comes to. Memory keeps
its other bytes. -/
def State.withFetchWord (s : State) (nbits w : Nat) : State :=
  let code := ((tableWords nbits w).flatMap wordBytes).zipIdx.map (fun x => (s.homePa (0x10000 + x.2), x.1))
  let m := (s.loadTable ++ code).foldl (fun m x => setCanon m x.1 x.2) s.mem
  let r := loadRec
  { s with
    boot := { stage := 6 }, mem := m, memPsn := [], lineKey := [], l1 := [], prov := [], provPsn := [], latent := [], shadowErr := [], errors := [], tlb := [],
    regs := [(0x600000, 1), (0x600008, BitVec.ofNat 64 (s.homePa 0x1000)), (0x600070, 1)],
    cores := (List.range 160).map (fun c => (c, ({ lanemap := (s.core c).lanemap, mxUsed := s.cycle, idleSince := s.cycle } : Core))),
    launches := [(1, { uid := 1, ctx := 0, r := r, next := 1 })],
    wgs := [(2, { uid := 1, idx := 0, ctx := 0, core := 0, slots := [0], order := 2 })],
    packs := [(0, startPack r 2 0 0 0 0 0)],
    order := [], saved := [], releases := [], copies := [], colls := [], collHeld := [], remotes := [], lost := [], prq := [], prqHeld := [], qFail := [],
    starving := none, harts := [], dir := [], unmirrored := [], mirrorPend := [], ctlHeld := [], ringArmed := [], strags := [], agenda := [], cur := none, ownTurn := 0, nextId := 3 }

end Sys2Proof.Machine
end

