-- ==== Sys2Proof/Safety.lean ====
section
/-! DEFINITION. The terms statements are made in: legal states and safe runs, when a unit issues, and what an instruction leaves alone. -/

namespace Sys2Proof.Machine

/-! ## Legal states, safe runs -/

/-- The canonical form of memory: rising addresses, no zero byte listed. -/
def Memory.wf (m : List Host.Cell) : Bool := FMap.sorted m && m.all (fun x => x.2 != 0)

/-- A legal state: every memory has its canonical form (HBM, the buddy's mirror, the chip scratchpad, core scratchpads and argument stores; dirty L1 bytes, poisoned lines and registers, accumulator cells are listed in order), and the
package has its 160 cores (R2). -/
def State.legal (s : State) : Bool :=
  Memory.wf s.mem && Memory.wf s.mirror && Memory.wf s.chip && s.cores.all (fun k => Memory.wf k.2.spad && Memory.wf k.2.args && k.2.acc.all (fun a => FMap.sorted a.2.cells)) && FMap.sorted s.l1 &&
    s.l1.all (fun x => FMap.sorted x.2.home && x.2.home.all (fun b => decide (b.1 < 64))) && FMap.sorted s.memPsn &&
    FMap.sorted s.chipPsn && FMap.sorted s.regs && decide (s.cores.keys = List.range 160)

/-- A run of n steps that stops nowhere. -/
def safeRun : Nat → State → Bool
  | 0, _ => true
  | n + 1, s =>
    match step s with
    | .next t => safeRun n t
    | _ => false

/-! ## When a unit issues -/

/-- What a unit of an instruction names, the mask of its prefix included. -/
def usesOf (i : Instr) : Uses :=
  { instrUses i with mr := match instrPfx i with | some f => f.mr.toNat :: (instrUses i).mr | none => (instrUses i).mr }

/-- What the meaning of the instruction works from. -/
def ctxOf (i : Instr) (s : State) (u : Cur) (p : Pack) : Ctx := mkCtx s u p (usesOf i) (instrPfx i) u.ig

/-- Instruction i is the unit u that pack p issues, and nothing holds it back or stops it before its own effect: no interlock (R39, R40), no helper
lanes that would leave (R216), and the tests of R57 that come before the operands are passed. -/
abbrev Issues (i : Instr) (s : State) (u : Cur) (p : Pack) : Prop :=
  s.cur = some u ∧ u.resume = none ∧ s.pack? u.core u.slot = some p ∧ (s.cores.find u.core).isSome = true ∧ u.ig ≠ 0 ∧
  ((instrUses i).helper = true ∨ u.ig &&& p.lanesWhere (fun x => x.st == .helper) = 0) ∧
  p.blockers (usesOf i) u.ig u.depth = [] ∧ ((instrUses i).mx = true → (s.core u.core).mxOwner = some p.wg) ∧
  outOfFrame (ctxOf i s u p) (usesOf i) = false ∧ xlateTraps p u.ig = []

/-! ## What an instruction leaves alone -/

/-- Nothing outside the packs, the cores and the messages sent has changed: memory, translations, class 0xC registers, launches, copies, collectives. -/
abbrev SameRest (s t : State) : Prop := t = { s with packs := t.packs, cores := t.cores, nextId := t.nextId, outbox := t.outbox }

/-- Of each core only event counters and the trap queue may have changed: scratchpads, tiles, streams, accumulators, the control store stay. -/
abbrev SameCores (s t : State) : Prop := ∀ c, t.core c = { s.core c with evcnt := (t.core c).evcnt, trq := (t.core c).trq }

/-- No other pack has changed. -/
abbrev SameOthers (s t : State) (u : Cur) : Prop := ∀ k, k ≠ packKey u.core u.slot → t.packs.find k = s.packs.find k

/-- Every byte of memory reads as before: HBM, core scratchpads, the chip scratchpad. -/
abbrev SameBytes (s t : State) : Prop := ∀ pl : Place, t.placeByte pl = s.placeByte pl

/-- What the end of a unit may change of a lane beside where it stands: its age, transfer count and rejoin set, its replay marks; a parked lane may become active. -/
abbrev SameLane (x y : Lane) : Prop :=
  y = { x with pc := y.pc, k := y.k, age := y.age, count := y.count, rejoin := y.rejoin, released := y.released, failx := y.failx, st := y.st } ∧
  (y.st = x.st ∨ x.st = .parked ∧ y.st = .active)

/-- Lanes of `moved` stand behind the unit (a replayed lane at its resume address, R121); the others where they were. Of no lane has anything else changed. -/
abbrev LanesOn (c : Ctx) (p q : Pack) (moved : Word) : Prop :=
  ∀ l, SameLane (p.lane l) (q.lane l) ∧ (q.lane l).pc = (if moved.getLsbD l ∧ (p.lane l).stands = false then c.next else (p.lane l).pc) ∧
       (q.lane l).k = (if moved.getLsbD l ∧ (p.lane l).stands = false then c.nextK else (p.lane l).k)

/-- What the end of every unit may change of its pack beside lanes, registers and frames: of a delivery the rejoin sets of the lanes it keeps (R212). -/
abbrev PackBut (p q : Pack) : Prop :=
  q = { p with lanes := q.lanes, frames := q.frames, trapFrame := q.trapFrame, s := q.s, m := q.m, fpc := q.fpc, toks := q.toks, pending := q.pending,
               handler := q.handler, lastIg := q.lastIg, lastAct := q.lastAct, ownStall := q.ownStall } ∧
  ∃ el, q.handler = p.handler.map (Delivery.rejoinIn el)

/-- The traps that wait, with those of a unit among them (R383, R384). -/
def withTraps (pend : List Trap) (s : State) (u : Cur) (ts : List LTrap) : List Trap :=
  match pickTrap ts with
  | some (t, ls, df) => queueTrap (mkTrap s u t ls df) pend
  | none => pend

/-- A unit whose effect is on registers of its pack alone: from s to t, its pack from p to q. -/
abbrev RegUnit (c : Ctx) (s t : State) (u : Cur) (p q : Pack) (moved : Word) : Prop :=
  t.pack? u.core u.slot = some q ∧ SameRest s t ∧ SameCores s t ∧ SameOthers s t u ∧ SameBytes s t ∧ PackBut p q ∧ LanesOn c p q moved

/-- A frame's record (R188), size, place and state are as before. -/
abbrev SameRec (f g : Frame) : Prop := g = { f with cells := g.cells, touched := g.touched }

/-- The registers of the frames of other depths are as before, and so is all else of every frame. -/
abbrev OtherFrames (p q : Pack) (d : Nat) : Prop :=
  (∀ e, SameRec (p.frames.getD e {}) (q.frames.getD e {}) ∧
    (∀ r l, l < 32 → (e ≠ d ∨ p.handler.isSome = true ∧ p.trapFrame.isSome = true) → (q.frames.getD e {}).cell r l = (p.frames.getD e {}).cell r l)) ∧
  (p.handler.isSome = false → q.trapFrame = p.trapFrame)

/-- Registers lo to lo + n - 1 of the unit's frame have, in each lane, what f gives (none: as before); every other register is as before. -/
abbrev CellsAre (p q : Pack) (d lo n : Nat) (f : Nat → Nat → Option VCell) : Prop :=
  ∀ l, l < 32 → ∀ r, (q.frameAt d).cell r l =
    (if lo ≤ r ∧ r < lo + n then (f l (r - lo)).getD ((p.frameAt d).cell r l) else (p.frameAt d).cell r l)

end Sys2Proof.Machine
end

