-- ==== Sys2Proof/Certificates/Slice0/Obligations.lean ====
section
/-! DEFINITION. The statements. Each docstring names the rules it comes from; what rests on a choice of the model names its log entry. -/

open Sys2Proof Sys2Proof.Machine

namespace Sys2Proof.Claims

/-! ## Per-lane results (R235) -/

/-- What a per-lane instruction should give: `n` registers from `d`, each lane's values (the even register first), and the sources whose marks it passes on. -/
structure VecWant where
  d : VReg
  n : Nat
  us : List VUse
  val : Nat → List Word

/-- A number as one 32-bit register. -/
def narrow (v : Int) : List Word := [BitVec.ofInt 32 v]

/-- A number as a pair: bits [31:0] in the even register (R71). -/
def wide (v : Int) : List Word := [BitVec.ofInt 32 v, BitVec.ofInt 32 (v / 4294967296)]

/-- The registers of a lane afterwards: its result with the mark of its sources, zero when it is masked under MZ, else as before (R235). -/
def wantCells (c : Ctx) (w : VecWant) (l k : Nat) : Option VCell :=
  if c.act.getLsbD l then some { val := (w.val l).getD k 0, psn := c.psnOf w.us l }
  else if c.masked.getLsbD l && c.pfx.mz then some {}
  else none

/-- The instruction completes with the wanted result in every lane, and nothing else changes: no other register, no s or m register, no byte of memory, no other
pack; FPC becomes `fpc`; lanes go on behind it, and lanes with a tagged source trap SNAN instead (R85). -/
abbrev VecEnds (i : Instr) (s : State) (u : Cur) (p : Pack) (w : VecWant) (fpc : DWord) : Prop :=
  ∃ t q, exec i s = .next t ∧ RegUnit (ctxOf i s u p) s t u p q u.ig ∧
    CellsAre p q u.depth w.d.toNat w.n (wantCells (ctxOf i s u p) w) ∧ OtherFrames p q u.depth ∧ q.s = p.s ∧ q.m = p.m ∧ q.fpc = fpc ∧
    q.pending = withTraps p.pending s u (ctxOf i s u p).tagged

/-- With no flag raised: no integer instruction touches FPC (R73). -/
abbrev VecDone (i : Instr) (s : State) (u : Cur) (p : Pack) (w : VecWant) : Prop := VecEnds i s u p w p.fpc

def rA (a : VReg) (n : Nat) : VUse := ⟨.A, a, n⟩
def rB (b : VReg) (n : Nat) : VUse := ⟨.B, b, n⟩
def rD (d : VReg) (n : Nat) : VUse := ⟨.D, d, n⟩

/-- The addend C (R237): the old D, or the register F4 names. -/
def rC (p : Option Pfx) (d : VReg) (n : Nat) : VUse :=
  match p with
  | none => ⟨.D, d, n⟩
  | some q => if q.f4 = 0 then ⟨.D, d, n⟩ else ⟨.F4, q.f4, n⟩

/-- Immediates (R29, R30): sign-extended, zero-extended, or V. -/
def immSigned {n : Nat} (i : Imm n) : Int := match i.hi with | none => i.lo.toInt | some h => h.toNat * 2048 + i.lo.toNat % 2048
def immZero (i : Imm 11) : Int := match i.hi with | none => i.lo.toNat | some h => h.toNat * 2048 + i.lo.toNat

/-- Integer arithmetic of R238, R239, R240 and R244, on exact integers. -/
def arithWant (c : Ctx) : Instr → Option VecWant
  | .iadd _ d a b x =>
    if x = 3 then some ⟨d, 2, [rA a 2, rB b 2], fun l => wide ((c.rv2 a l).toNat + (c.rv2 b l).toNat)⟩
    else some ⟨d, 1, [rA a 1, rB b 1], fun l => narrow (
      if x = 1 then max (-2147483648) (min 2147483647 ((c.rv a l).toInt + (c.rv b l).toInt))
      else if x = 2 then min 4294967295 ((c.rv a l).toNat + (c.rv b l).toNat)
      else (c.rv a l).toNat + (c.rv b l).toNat)⟩
  | .isub _ d a b x =>
    if x = 3 then some ⟨d, 2, [rA a 2, rB b 2], fun l => wide ((c.rv2 a l).toNat - (c.rv2 b l).toNat)⟩
    else some ⟨d, 1, [rA a 1, rB b 1], fun l => narrow (
      if x = 1 then max (-2147483648) (min 2147483647 ((c.rv a l).toInt - (c.rv b l).toInt))
      else if x = 2 then max 0 ((c.rv a l).toNat - (c.rv b l).toNat)
      else (c.rv a l).toNat - (c.rv b l).toNat)⟩
  | .iaddi _ d a v => some ⟨d, 1, [rA a 1], fun l => narrow ((c.rv a l).toNat + immSigned v)⟩
  | .imul _ d a b x =>
    if x = 3 then some ⟨d, 2, [rA a 1, rB b 1], fun l => wide ((c.rv a l).toInt * (c.rv b l).toInt)⟩
    else some ⟨d, 1, [rA a 1, rB b 1], fun l => narrow (
      if x = 1 then (c.rv a l).toInt * (c.rv b l).toInt / 4294967296
      else if x = 2 then ((c.rv a l).toNat * (c.rv b l).toNat / 4294967296 : Nat)
      else ((c.rv a l).toNat * (c.rv b l).toNat : Nat))⟩
  | .imuli _ d a v => some ⟨d, 1, [rA a 1], fun l => narrow ((c.rv a l).toNat * immSigned v)⟩
  | .imad p d a b x =>
    if x = 1 then some ⟨d, 2, [rA a 1, rB b 1, rC p d 2], fun l => wide ((c.rv a l).toInt * (c.rv b l).toInt + (c.rv2 (rC p d 2).reg l).toNat)⟩
    else some ⟨d, 1, [rA a 1, rB b 1, rC p d 1], fun l => narrow ((c.rv a l).toNat * (c.rv b l).toNat + (c.rv (rC p d 1).reg l).toNat)⟩
  | .imin _ d a b x => some ⟨d, 1, [rA a 1, rB b 1], fun l => narrow (
      if x = 0 then min (c.rv a l).toInt (c.rv b l).toInt else (min (c.rv a l).toNat (c.rv b l).toNat : Nat))⟩
  | .imax _ d a b x => some ⟨d, 1, [rA a 1, rB b 1], fun l => narrow (
      if x = 0 then max (c.rv a l).toInt (c.rv b l).toInt else (max (c.rv a l).toNat (c.rv b l).toNat : Nat))⟩
  | .isad _ d a b x => some ⟨d, 1, [rA a 1, rB b 1, rD d 1], fun l => narrow ((c.rv d l).toNat +
      if x = 0 then (((c.rv a l).toInt - (c.rv b l).toInt).natAbs : Int) else (((c.rv a l).toNat : Int) - (c.rv b l).toNat).natAbs)⟩
  | .iabs _ d a => some ⟨d, 1, [rA a 1], fun l => narrow ((c.rv a l).toInt.natAbs)⟩
  | .ineg _ d a => some ⟨d, 1, [rA a 1], fun l => narrow (0 - (c.rv a l).toNat)⟩
  | .lea _ d a b sh => some ⟨d, 1, [rA a 1, rB b 1], fun l => narrow ((c.rv a l).toNat + (c.rv b l).toNat * 2 ^ sh.toNat)⟩
  | .idiv _ d a b _ => some ⟨d, 1, [rA a 1, rB b 1], fun l => narrow (if c.rv b l = 0 then 0xFFFFFFFF else (c.rv a l).toInt.tdiv (c.rv b l).toInt)⟩
  | .ndiv _ d a b _ => some ⟨d, 1, [rA a 1, rB b 1], fun l => narrow (if c.rv b l = 0 then 0xFFFFFFFF else ((c.rv a l).toNat / (c.rv b l).toNat : Nat))⟩
  | .movi _ d v => some ⟨d, 1, [], fun _ => narrow (immSigned v)⟩
  | .movs _ d a => some ⟨d, 1, [], fun _ => narrow (c.p.sreg a.toNat).toNat⟩
  | .movm _ d m => some ⟨d, 1, [], fun _ => [if m = 0 then c.ig else c.p.m.getD m.toNat 0]⟩
  | _ => none

/-- Shifts and rotations of R238 and R240: a count at or above the width leaves zero, or copies of the sign. -/
def shiftWant (c : Ctx) : Instr → Option VecWant
  | .shl _ d a b x =>
    if x = 1 then some ⟨d, 2, [rA a 2, rB b 1], fun l => wide ((c.rv2 a l).toNat * 2 ^ (c.rv b l).toNat)⟩
    else some ⟨d, 1, [rA a 1, rB b 1], fun l => narrow ((c.rv a l).toNat * 2 ^ (c.rv b l).toNat)⟩
  | .shr _ d a b x =>
    if x = 1 then some ⟨d, 2, [rA a 2, rB b 1], fun l => wide ((c.rv2 a l).toNat / 2 ^ (c.rv b l).toNat : Nat)⟩
    else some ⟨d, 1, [rA a 1, rB b 1], fun l => narrow ((c.rv a l).toNat / 2 ^ (c.rv b l).toNat : Nat)⟩
  | .sar _ d a b x =>
    if x = 1 then some ⟨d, 2, [rA a 2, rB b 1], fun l => wide ((c.rv2 a l).toInt / 2 ^ (c.rv b l).toNat)⟩
    else some ⟨d, 1, [rA a 1, rB b 1], fun l => narrow ((c.rv a l).toInt / 2 ^ (c.rv b l).toNat)⟩
  | .rotl _ d a b => some ⟨d, 1, [rA a 1, rB b 1], fun l =>
      narrow ((c.rv a l).toNat * 2 ^ ((c.rv b l).toNat % 32) + (c.rv a l).toNat / 2 ^ (32 - (c.rv b l).toNat % 32) : Nat)⟩
  | .rotr _ d a b => some ⟨d, 1, [rA a 1, rB b 1], fun l =>
      narrow ((c.rv a l).toNat * 2 ^ (32 - (c.rv b l).toNat % 32) + (c.rv a l).toNat / 2 ^ ((c.rv b l).toNat % 32) : Nat)⟩
  | .shli _ d a pr n =>
    if pr = 1 then some ⟨d, 2, [rA a 2], fun l => wide ((c.rv2 a l).toNat * 2 ^ n.toNat)⟩
    else some ⟨d, 1, [rA a 1], fun l => narrow ((c.rv a l).toNat * 2 ^ n.toNat)⟩
  | .shri _ d a pr n =>
    if pr = 1 then some ⟨d, 2, [rA a 2], fun l => wide ((c.rv2 a l).toNat / 2 ^ n.toNat : Nat)⟩
    else some ⟨d, 1, [rA a 1], fun l => narrow ((c.rv a l).toNat / 2 ^ n.toNat : Nat)⟩
  | .sari _ d a pr n =>
    if pr = 1 then some ⟨d, 2, [rA a 2], fun l => wide ((c.rv2 a l).toInt / 2 ^ n.toNat)⟩
    else some ⟨d, 1, [rA a 1], fun l => narrow ((c.rv a l).toInt / 2 ^ n.toNat)⟩
  | _ => none

/-- Bit k of a word as 0 or 1. -/
def bitOf (w : Word) (k : Nat) : Nat := (w.getLsbD k).toNat

/-- Bitwise instructions of R238 to R241. -/
def bitsWant (c : Ctx) : Instr → Option VecWant
  | .inot _ d a => some ⟨d, 1, [rA a 1], fun l => narrow (4294967295 - (c.rv a l).toNat)⟩
  | .popc _ d a => some ⟨d, 1, [rA a 1], fun l => narrow (((List.range 32).map (bitOf (c.rv a l))).sum : Nat)⟩
  | .clz _ d a => some ⟨d, 1, [rA a 1], fun l => narrow ((List.range 32).countP (fun k => decide ((c.rv a l).toNat < 2 ^ k)) : Nat)⟩
  | .ctz _ d a => some ⟨d, 1, [rA a 1], fun l => narrow ((List.range 32).countP (fun k => decide ((c.rv a l).toNat % 2 ^ (k + 1) = 0)) : Nat)⟩
  | .brev _ d a => some ⟨d, 1, [rA a 1], fun l => narrow (((List.range 32).map (fun k => bitOf (c.rv a l) k * 2 ^ (31 - k))).sum : Nat)⟩
  | .bswap _ d a => some ⟨d, 1, [rA a 1], fun l => narrow (((List.range 4).map (fun k => (c.rv a l).toNat / 256 ^ k % 256 * 256 ^ (3 - k))).sum : Nat)⟩
  | .and _ d a b => some ⟨d, 1, [rA a 1, rB b 1], fun l => [c.rv a l &&& c.rv b l]⟩
  | .or _ d a b => some ⟨d, 1, [rA a 1, rB b 1], fun l => [c.rv a l ||| c.rv b l]⟩
  | .xor _ d a b => some ⟨d, 1, [rA a 1, rB b 1], fun l => [c.rv a l ^^^ c.rv b l]⟩
  | .andn _ d a b => some ⟨d, 1, [rA a 1, rB b 1], fun l => [c.rv a l &&& ~~~c.rv b l]⟩
  | .orn _ d a b => some ⟨d, 1, [rA a 1, rB b 1], fun l => [c.rv a l ||| ~~~c.rv b l]⟩
  | .xnor _ d a b => some ⟨d, 1, [rA a 1, rB b 1], fun l => [~~~(c.rv a l ^^^ c.rv b l)]⟩
  | .andi _ d a v => some ⟨d, 1, [rA a 1], fun l => [c.rv a l &&& BitVec.ofInt 32 (immZero v)]⟩
  | .ori _ d a v => some ⟨d, 1, [rA a 1], fun l => [c.rv a l ||| BitVec.ofInt 32 (immZero v)]⟩
  | .xori _ d a v => some ⟨d, 1, [rA a 1], fun l => [c.rv a l ^^^ BitVec.ofInt 32 (immZero v)]⟩
  | .bfx _ d a len pos => some ⟨d, 1, [rA a 1], fun l => narrow ((c.rv a l).toNat / 2 ^ pos.toNat % 2 ^ len.toNat : Nat)⟩
  | .bfxs _ d a len pos => some ⟨d, 1, [rA a 1], fun l => narrow (
      let v : Int := (c.rv a l).toNat / 2 ^ pos.toNat % 2 ^ len.toNat
      if v < 2 ^ (len.toNat - 1) then v else v - 2 ^ len.toNat)⟩
  | .bfi _ d a len pos => some ⟨d, 1, [rA a 1, rD d 1], fun l => narrow (
      (c.rv d l).toNat / 2 ^ (pos.toNat + len.toNat) * 2 ^ (pos.toNat + len.toNat) + (c.rv a l).toNat % 2 ^ len.toNat * 2 ^ pos.toNat
        + (c.rv d l).toNat % 2 ^ pos.toNat : Nat)⟩
  | _ => none

end Sys2Proof.Claims

open Sys2Proof.Claims

/-- R238, R239, R240, R244: integer additions, products, minima, distances, quotients and moves of constants, s and m registers complete and write their result. -/
def Obligations.IntegerArithmeticWritesItsResult : Prop :=
  ∀ (i : Instr) (s : State) (u : Cur) (p : Pack) (w : VecWant), i.wf = true → Issues i s u p → arithWant (ctxOf i s u p) i = some w → VecDone i s u p w

/-- R238, R240: shifts and rotations complete and write their result; a count at or above the width shifts everything out. -/
def Sys2Proof.Claims.ShiftsWriteTheirResult : Prop :=
  ∀ (i : Instr) (s : State) (u : Cur) (p : Pack) (w : VecWant), i.wf = true → Issues i s u p → shiftWant (ctxOf i s u p) i = some w → VecDone i s u p w

/-- R238 to R241: bitwise instructions, bit counts, reversals and bit fields complete and write their result. -/
def Sys2Proof.Claims.BitInstructionsWriteTheirResult : Prop :=
  ∀ (i : Instr) (s : State) (u : Cur) (p : Pack) (w : VecWant), i.wf = true → Issues i s u p → bitsWant (ctxOf i s u p) i = some w → VecDone i s u p w

/-- The shifts and the bit instructions write their results. -/
def Obligations.ShiftsAndBitsWriteTheirResult : Prop := Claims.ShiftsWriteTheirResult ∧ Claims.BitInstructionsWriteTheirResult

namespace Sys2Proof.Claims

/-! ## Floating point over exact rationals (R66 to R80) -/

def fSign (f : Fmt) (x : Nat) : Bool := x / 2 ^ (f.eb + f.fb) % 2 == 1
def fExp (f : Fmt) (x : Nat) : Nat := x / 2 ^ f.fb % 2 ^ f.eb
def fFrac (f : Fmt) (x : Nat) : Nat := x % 2 ^ f.fb

/-- NaN codes (R66, R68, R69). -/
def fNan (f : Fmt) (x : Nat) : Bool :=
  match f.kind with
  | .ieee => fExp f x == 2 ^ f.eb - 1 && fFrac f x != 0
  | .e4m3 => fExp f x == 15 && fFrac f x == 7
  | .e2m1 => false

/-- A signalling NaN: the top fraction bit is 0 (R66). -/
def fSnan (f : Fmt) (x : Nat) : Bool := f.kind == .ieee && fNan f x && decide (fFrac f x < 2 ^ (f.fb - 1))

def fInf (f : Fmt) (x : Nat) : Bool := f.kind == .ieee && fExp f x == 2 ^ f.eb - 1 && fFrac f x == 0

/-- The number a finite code stands for (R66). -/
def fVal (f : Fmt) (x : Nat) : ℚ :=
  (if fSign f x then -1 else 1) *
    (if fExp f x = 0 then (fFrac f x : ℚ) * 2 ^ (1 - (f.bias : ℤ) - f.fb) else ((2 ^ f.fb + fFrac f x : Nat) : ℚ) * 2 ^ ((fExp f x : ℤ) - f.bias - f.fb))

def fZero (f : Fmt) (s : Bool) : Nat := if s then 2 ^ (f.eb + f.fb) else 0

/-- A number to an integer by a rounding mode (R74). -/
def roundInt (rm : Nat) (x : ℚ) : ℤ :=
  match rm with
  | 0 => if x - ⌊x⌋ < 1 / 2 then ⌊x⌋ else if 1 / 2 < x - ⌊x⌋ then ⌊x⌋ + 1 else if ⌊x⌋ % 2 = 0 then ⌊x⌋ else ⌊x⌋ + 1
  | 1 => if 0 ≤ x then ⌊x⌋ else ⌈x⌉
  | 2 => ⌈x⌉
  | 3 => ⌊x⌋
  | _ => if 0 ≤ x then ⌊x + 1 / 2⌋ else ⌈x - 1 / 2⌉

/-- A number rounded to a multiple of 2^t. -/
def roundTo (rm : Nat) (x : ℚ) (t : ℤ) : ℚ := roundInt rm (x / 2 ^ t) * 2 ^ t

/-- The code of a number that the format can represent. -/
def fCode (f : Fmt) (y : ℚ) : Nat :=
  fZero f (decide (y < 0)) +
    (if |y| < 2 ^ (1 - (f.bias : ℤ)) then (|y| / 2 ^ (1 - (f.bias : ℤ) - f.fb)).floor.toNat
     else (Int.log 2 |y| + f.bias).toNat * 2 ^ f.fb + ((|y| / 2 ^ (Int.log 2 |y| - f.fb)).floor.toNat - 2 ^ f.fb))

/-- Overflow (R76): which way each format goes. -/
def fOver (f : Fmt) (s : Bool) (rm : Nat) (sat : Bool) : Nat :=
  fZero f s + (match f.kind with
    | .e2m1 => 7
    | .e4m3 => if sat then 0x7E else 0x7F
    | .ieee => if sat = true ∨ rm = 1 ∨ rm = 2 ∧ s = true ∨ rm = 3 ∧ s = false then f.maxCode else f.infCode)

/-- round_fmt of a number (R75): code and flags. `zs` is the sign of an exact zero. -/
def roundNum (f : Fmt) (rm : Nat) (sat : Bool) (x : ℚ) (zs : Bool) : Nat × Nat :=
  if x = 0 then (fZero f zs, 0)
  else
    let y := roundTo rm x (Int.log 2 |x| - f.fb)
    if fVal f f.maxCode < |y| then (fOver f (decide (x < 0)) rm sat, fOF ||| fNX)
    else if |y| < 2 ^ (1 - (f.bias : ℤ)) then
      let z := roundTo rm x (1 - (f.bias : ℤ) - f.fb)
      (if z = 0 then fZero f (decide (x < 0)) else fCode f z, if z = x then 0 else fNX ||| fUF)
    else (fCode f y, if y = x then 0 else fNX)

/-- A NaN result: the first NaN operand with its quiet bit set; NV when any signals (R79). -/
def nanOf (f : Fmt) (xs : List Nat) : Option (Nat × Nat) :=
  (xs.find? (fNan f)).map (fun x => (x ||| 2 ^ (f.fb - 1), if xs.any (fSnan f) then fNV else 0))

/-- An operation that is invalid gives the canonical NaN and NV (R79). -/
def bad (f : Fmt) : Nat × Nat := (f.canon, fNV)

/-- The sign of an exact zero sum (R78). -/
def zSum (rm : Nat) (s t : Bool) : Bool := if s = t then s else rm == 3

def addF (f : Fmt) (rm a b : Nat) : Nat × Nat :=
  match nanOf f [a, b] with
  | some r => r
  | none =>
    if fInf f a then (if fInf f b ∧ fSign f a ≠ fSign f b then bad f else (a, 0))
    else if fInf f b then (b, 0)
    else roundNum f rm false (fVal f a + fVal f b) (zSum rm (fSign f a) (fSign f b))

/-- A − B; a NaN operand keeps its sign (R79). -/
def subF (f : Fmt) (rm a b : Nat) : Nat × Nat :=
  match nanOf f [a, b] with
  | some r => r
  | none =>
    if fInf f a then (if fInf f b ∧ fSign f a = fSign f b then bad f else (a, 0))
    else if fInf f b then (fZero f (!fSign f b) + f.infCode, 0)
    else roundNum f rm false (fVal f a - fVal f b) (zSum rm (fSign f a) (!fSign f b))

/-- Is A × B invalid: zero times infinity? -/
def badMul (f : Fmt) (a b : Nat) : Bool :=
  !fNan f a && !fNan f b && (fInf f a && fVal f b == 0 && !fInf f b || fInf f b && fVal f a == 0 && !fInf f a)

def mulF (f : Fmt) (rm a b : Nat) : Nat × Nat :=
  match nanOf f [a, b] with
  | some r => r
  | none =>
    if badMul f a b then bad f
    else if fInf f a ∨ fInf f b then (fZero f (fSign f a != fSign f b) + f.infCode, 0)
    else roundNum f rm false (fVal f a * fVal f b) (fSign f a != fSign f b)

/-- A × B + C with one rounding (R248). -/
def fmaF (f : Fmt) (rm a b c : Nat) : Nat × Nat :=
  let ps := fSign f a != fSign f b
  match nanOf f [a, b, c] with
  | some r => (r.1, r.2 ||| (if badMul f a b then fNV else 0))
  | none =>
    if badMul f a b then bad f
    else if fInf f a ∨ fInf f b then (if fInf f c ∧ fSign f c ≠ ps then bad f else (fZero f ps + f.infCode, 0))
    else if fInf f c then (c, 0)
    else roundNum f rm false (fVal f a * fVal f b + fVal f c) (zSum rm ps (fSign f c))

/-- Order of codes that are no NaN, −0 below +0 (R249). -/
def fRank (f : Fmt) (x : Nat) : Int := if fSign f x then -((x % 2 ^ (f.eb + f.fb) : Nat) : Int) - 1 else (x % 2 ^ (f.eb + f.fb) : Nat)

/-- fmin and, with `mx`, fmax of R249. -/
def minF (mx : Bool) (f : Fmt) (a b : Nat) : Nat × Nat :=
  let nv := if fSnan f a || fSnan f b then fNV else 0
  if fNan f a ∧ fNan f b then (a ||| 2 ^ (f.fb - 1), nv)
  else if fNan f a then (b, nv)
  else if fNan f b then (a, nv)
  else (if (if mx then fRank f b ≤ fRank f a else fRank f a ≤ fRank f b) then a else b, 0)

/-- fminp and fmaxp of R249. -/
def minpF (mx : Bool) (f : Fmt) (a b : Nat) : Nat × Nat :=
  match nanOf f [a, b] with
  | some r => r
  | none => minF mx f a b

/-- FCMP's conditions (R46, R250). -/
def cmpF (f : Fmt) (cc a b : Nat) : Bool × Nat :=
  let un := fNan f a || fNan f b
  let eq := !un && (fRank f a == fRank f b || (a % 2 ^ (f.eb + f.fb) == 0 && b % 2 ^ (f.eb + f.fb) == 0))
  let lt := !un && !eq && decide (fRank f a < fRank f b)
  let sg := if fSnan f a || fSnan f b then fNV else 0
  let nv := if un then fNV else 0
  match cc with
  | 0 => (eq, sg)
  | 1 => (!eq, sg)
  | 2 => (lt, nv)
  | 3 => (lt || eq, nv)
  | 4 => (!un && !eq && !lt, nv)
  | 5 => (!un && !lt, nv)
  | 6 => (un, sg)
  | _ => (!un, sg)

/-- FCLASS (R251). -/
def classF (f : Fmt) (a : Nat) : Nat :=
  if fNan f a then (if fSnan f a then 2 ^ 8 else 2 ^ 9)
  else if fInf f a then (if fSign f a then 2 ^ 0 else 2 ^ 7)
  else if fExp f a = 0 ∧ fFrac f a = 0 then (if fSign f a then 2 ^ 3 else 2 ^ 4)
  else if fExp f a = 0 then (if fSign f a then 2 ^ 2 else 2 ^ 5)
  else (if fSign f a then 2 ^ 1 else 2 ^ 6)

/-- FRND (R252). -/
def rndF (f : Fmt) (rm a : Nat) : Nat × Nat :=
  match nanOf f [a] with
  | some r => r
  | none =>
    if fInf f a then (a, 0)
    else if roundInt rm (fVal f a) = 0 then (fZero f (fSign f a), 0)
    else (fCode f (roundInt rm (fVal f a)), 0)

/-- FSCALB (R253). -/
def scalbF (f : Fmt) (rm a : Nat) (n : Int) : Nat × Nat :=
  match nanOf f [a] with
  | some r => r
  | none => if fInf f a then (a, 0) else roundNum f rm false (fVal f a * 2 ^ n) (fSign f a)

/-- FDOT2 (R255). -/
def dotF (f : Fmt) (rm a0 a1 b0 b1 c : Nat) : Nat × Nat :=
  let up := fun x => fZero f32 (fSign f x) + f32.infCode + (fFrac f x * 2 ^ (23 - f.fb) ||| 2 ^ 22)
  let nans := [a0, a1, b0, b1].filter (fNan f)
  let inf := ([(a0, b0), (a1, b1)].filter (fun x => (fInf f x.1 || fInf f x.2) && !fNan f x.1 && !fNan f x.2 && !badMul f x.1 x.2)).map (fun x => fSign f x.1 != fSign f x.2)
    ++ (if fInf f32 c then [fSign f32 c] else [])
  let inv := badMul f a0 b0 || badMul f a1 b1 || inf.contains true && inf.contains false
  let sg := [a0, a1, b0, b1].any (fSnan f) || fSnan f32 c || inv
  let prod := fVal f a0 * fVal f b0 + fVal f a1 * fVal f b1
  if nans ≠ [] then (up (nans.headD 0), if sg then fNV else 0)
  else if fNan f32 c then (c ||| 2 ^ 22, if sg then fNV else 0)
  else if inv then bad f32
  else match inf with
    | [] => roundNum f32 rm false (prod + fVal f32 c)
        (zSum rm (if prod = 0 then zSum rm (fSign f a0 != fSign f b0) (fSign f a1 != fSign f b1) else decide (prod < 0)) (fSign f32 c))
    | s :: _ => (fZero f32 s + f32.infCode, 0)

/-- A value of one format to another: round_fmt with the results of R76, R79, R80 and R87. -/
def convF (src dst : Fmt) (rm : Nat) (sat : Bool) (x : Nat) : Nat × Nat :=
  if fNan src x then
    let nv := if fSnan src x then fNV else 0
    match dst.kind with
    | .e2m1 => (0, fNV)
    | .e4m3 => (fZero dst (fSign src x) + 0x7F, nv)
    | .ieee =>
      if dst.fb = 2 then (fZero dst (fSign src x) + 0x7E, nv)
      else (fZero dst (fSign src x) + dst.infCode +
        ((if src.fb ≤ dst.fb then fFrac src x * 2 ^ (dst.fb - src.fb) else fFrac src x / 2 ^ (src.fb - dst.fb)) ||| 2 ^ (dst.fb - 1)), nv)
  else if fInf src x then
    match dst.kind with
    | .ieee => (fZero dst (fSign src x) + if sat then dst.maxCode else dst.infCode, 0)
    | .e4m3 => if sat then (fZero dst (fSign src x) + 0x7E, 0) else (fZero dst (fSign src x) + 0x7F, fNV)
    | .e2m1 => (fZero dst (fSign src x) + 7, fNV)
  else roundNum dst rm sat (fVal src x) (fSign src x)

/-- FDIV (R257). -/
def divF (f : Fmt) (rm a b : Nat) : Nat × Nat :=
  let s := fSign f a != fSign f b
  match nanOf f [a, b] with
  | some r => r
  | none =>
    if fInf f a then (if fInf f b then bad f else (fZero f s + f.infCode, 0))
    else if fInf f b then (fZero f s, 0)
    else if fVal f b = 0 then (if fVal f a = 0 then bad f else (fZero f s + f.infCode, fDZ))
    else roundNum f rm false (fVal f a / fVal f b) s

/-- A number with the same neighbours as the square root of x = n / 4^300, for rounding to far fewer bits (R257): the root itself when it is rational. -/
def rootQ (x : ℚ) : ℚ :=
  let n := (x * 4 ^ 300).floor.toNat
  (((Nat.sqrt n : Nat) : ℚ) + if Nat.sqrt n * Nat.sqrt n = n then 0 else 1 / 2) / 2 ^ 300

/-- FSQRT (R257). -/
def sqrtF (f : Fmt) (rm a : Nat) : Nat × Nat :=
  match nanOf f [a] with
  | some r => r
  | none =>
    if fInf f a then (if fSign f a then bad f else (a, 0))
    else if fVal f a = 0 then (a, 0)
    else if fSign f a then bad f
    else roundNum f rm false (rootQ (fVal f a)) false

/-- The special functions (R258, R259): special operands, exact cases, 1/x in full; elsewhere the value is the model's (log 11), the same for every mode, with NX. -/
def sfuF (n rm a : Nat) : Nat × Nat :=
  let x := fVal f32 a
  let neg := fSign f32 a
  let one := 0x3F800000
  let inf := fZero f32 neg + 0x7F800000
  match nanOf f32 [a] with
  | some r => r
  | none =>
    if fInf f32 a then
      (match n with
      | 0 => (if neg then 0 else 0x7F800000, 0)
      | 1 => if neg then bad f32 else (0x7F800000, 0)
      | 2 => bad f32
      | 3 => bad f32
      | 4 => (fZero f32 neg, 0)
      | 5 => if neg then bad f32 else (0, 0)
      | 6 => (fZero f32 neg + one, 0)
      | _ => (if neg then 0 else one, 0))
    else if x = 0 then
      (match n with
      | 0 => (one, 0)
      | 1 => (0xFF800000, fDZ)
      | 2 => (a, 0)
      | 3 => (one, 0)
      | 4 => (inf, fDZ)
      | 5 => (inf, fDZ)
      | 6 => (a, 0)
      | _ => (0x3F000000, 0))
    else if n = 0 ∧ x.den = 1 then roundNum f32 rm false (2 ^ x.num) false
    else if (n = 1 ∨ n = 5) ∧ x < 0 then bad f32
    else if n = 1 ∧ x = 2 ^ Int.log 2 x then roundNum f32 rm false (Int.log 2 x) false
    else if n = 4 then roundNum f32 (if |x| = 2 ^ Int.log 2 |x| then rm else 0) false (1 / x) neg
    else if n = 5 ∧ x = 4 ^ Int.log 4 x then roundNum f32 rm false (2 ^ (-Int.log 4 x)) false
    else ((sfu n 0 a).1, (sfu n 0 a).2 ||| fNX)

/-- An integer of a width and signedness, of the low bits of a value (R47). -/
def cvtInt (n : Nat) (w : Nat) : Int :=
  match n with
  | 0 => (BitVec.ofNat 32 w).toInt
  | 1 => w % 2 ^ 32
  | 2 => (BitVec.ofNat 64 w).toInt
  | 3 => w % 2 ^ 64
  | 4 => (BitVec.ofNat 16 w).toInt
  | 5 => w % 2 ^ 16
  | 6 => (BitVec.ofNat 8 w).toInt
  | _ => w % 2 ^ 8

/-- Lowest and highest value of a destination integer (R47, R88). -/
def intRange (n : Nat) : Int × Int :=
  match n with
  | 0 => (-2147483648, 2147483647)
  | 1 => (0, 4294967295)
  | 2 => (-9223372036854775808, 9223372036854775807)
  | 3 => (0, 18446744073709551615)
  | 4 => (-32768, 32767)
  | 5 => (0, 65535)
  | 6 => (-128, 127)
  | _ => (0, 255)

/-- CVTI (R88): the integer and its flags. An invalid conversion without `sat` gives the least value of a signed type, all ones of an unsigned one. -/
def toIntF (f : Fmt) (rm n : Nat) (sat : Bool) (x : Nat) : Int × Nat :=
  let lo := (intRange n).1
  let hi := (intRange n).2
  let inv := if lo < 0 then lo else hi
  if fNan f x then (if sat then 0 else inv, fNV)
  else if fInf f x then (if sat then (if fSign f x then lo else hi) else inv, fNV)
  else
    let v := roundInt rm (fVal f x)
    if v < lo then (if sat then lo else inv, fNV)
    else if hi < v then (if sat then hi else inv, fNV)
    else (v, if (v : ℚ) = fVal f x then 0 else fNX)

/-- QSCALE (R262): the word of reciprocal and scale, and its flags. -/
def qscaleF (f : Fmt) (sat : Bool) (x : Nat) : Nat × Nat :=
  if fNan f32 x then (0x7FC07FC0, if fSnan f32 x then fNV else 0)
  else if fInf f32 x then (0x00007F80, 0)
  else if fVal f32 x = 0 then (0x3F803F80, 0)
  else
    let r := |fVal f32 x| / fVal f f.maxCode
    let e := max (-126) (min 126 (if sat then Int.log 2 r else Int.clog 2 r))
    ((127 - e).toNat * 2 ^ 23 + (127 + e).toNat * 2 ^ 7, 0)

end Sys2Proof.Claims

namespace Sys2Proof.Claims

/-! ## Floating-point instructions (R247 to R262) -/

/-- A floating-point result: registers and raised flags of each lane. -/
structure FltWant where
  d : VReg
  n : Nat
  us : List VUse
  res : Nat → List Word × Nat

def FltWant.vec (w : FltWant) : VecWant := ⟨w.d, w.n, w.us, fun l => (w.res l).1⟩

/-- The flags of the lanes that execute and are no helpers, merged (R82). -/
def FltWant.flags (w : FltWant) (c : Ctx) : Nat := ((lanesOf c.act).filter (fun l => !c.isHelper (c.lid l))).foldl (fun a l => a ||| (w.res l).2) 0

/-- PFX.RM, or FPC.RM when it is 7 (R74). -/
def rmOf (c : Ctx) : Nat := if c.pfx.rm = 7 then c.p.fpc.toNat % 8 else c.pfx.rm.toNat

def tyFmt (t : BitVec 4) : Fmt := if t = 0 then f32 else if t = 1 then f16 else bf16

/-- One f32, or each 16-bit element on its own (R71, R247). -/
def elems (t : BitVec 4) (g : Fmt → Nat → Nat → Nat → Nat × Nat) (a b c : Word) : List Word × Nat :=
  if t = 0 then ([BitVec.ofNat 32 (g f32 a.toNat b.toNat c.toNat).1], (g f32 a.toNat b.toNat c.toNat).2)
  else
    let lo := g (tyFmt t) (a.toNat % 65536) (b.toNat % 65536) (c.toNat % 65536)
    let hi := g (tyFmt t) (a.toNat / 65536) (b.toNat / 65536) (c.toNat / 65536)
    ([BitVec.ofNat 32 (lo.1 + hi.1 * 65536)], lo.2 ||| hi.2)

def single (r : Nat × Nat) : List Word × Nat := ([BitVec.ofNat 32 r.1], r.2)

/-- What each instruction of 0x40 to 0x4F with a vector destination should give (R247 to R256). -/
def floatWant (c : Ctx) : Instr → Option FltWant
  | .fadd _ d a b t => some ⟨d, 1, [rA a 1, rB b 1], fun l => elems t (fun f x y _ => addF f (rmOf c) x y) (c.rv a l) (c.rv b l) 0⟩
  | .fsub _ d a b t => some ⟨d, 1, [rA a 1, rB b 1], fun l => elems t (fun f x y _ => subF f (rmOf c) x y) (c.rv a l) (c.rv b l) 0⟩
  | .fmul _ d a b t => some ⟨d, 1, [rA a 1, rB b 1], fun l => elems t (fun f x y _ => mulF f (rmOf c) x y) (c.rv a l) (c.rv b l) 0⟩
  | .ffma p d a b t => some ⟨d, 1, [rA a 1, rB b 1, rC p d 1], fun l =>
      elems t (fun f x y z => fmaF f (rmOf c) x y z) (c.rv a l) (c.rv b l) (c.rv (rC p d 1).reg l)⟩
  | .fmin _ d a b t => some ⟨d, 1, [rA a 1, rB b 1], fun l => elems t (fun f x y _ => minF false f x y) (c.rv a l) (c.rv b l) 0⟩
  | .fmax _ d a b t => some ⟨d, 1, [rA a 1, rB b 1], fun l => elems t (fun f x y _ => minF true f x y) (c.rv a l) (c.rv b l) 0⟩
  | .fminp _ d a b t => some ⟨d, 1, [rA a 1, rB b 1], fun l => elems t (fun f x y _ => minpF false f x y) (c.rv a l) (c.rv b l) 0⟩
  | .fmaxp _ d a b t => some ⟨d, 1, [rA a 1, rB b 1], fun l => elems t (fun f x y _ => minpF true f x y) (c.rv a l) (c.rv b l) 0⟩
  | .fclamp p d a b t => some ⟨d, 1, [rA a 1, rB b 1, rC p d 1], fun l =>
      elems t (fun f x y z => ((minF false f (minF true f x y).1 z).1, (minF true f x y).2 ||| (minF false f (minF true f x y).1 z).2))
        (c.rv a l) (c.rv b l) (c.rv (rC p d 1).reg l)⟩
  | .fclass _ d a t => some ⟨d, 1, [rA a 1], fun l => elems t (fun f x _ _ => (classF f x, 0)) (c.rv a l) 0 0⟩
  | .frnd _ d a n t => some ⟨d, 1, [rA a 1], fun l =>
      elems t (fun f x _ _ => rndF f (if n = 7 then c.p.fpc.toNat % 8 else n.toNat) x) (c.rv a l) 0 0⟩
  | .fscalb _ d a b t => some ⟨d, 1, [rA a 1, rB b 1], fun l =>
      elems t (fun f x y _ => scalbF f (rmOf c) x (if t = 0 then (BitVec.ofNat 32 y).toInt else (BitVec.ofNat 16 y).toInt)) (c.rv a l) (c.rv b l) 0⟩
  | .fabs _ d a => some ⟨d, 1, [rA a 1], fun l => single ((c.rv a l).toNat % 2 ^ 31, 0)⟩
  | .fneg _ d a => some ⟨d, 1, [rA a 1], fun l => single ((c.rv a l).toNat + 2 ^ 31, 0)⟩
  | .fnabs _ d a => some ⟨d, 1, [rA a 1], fun l => single ((c.rv a l).toNat % 2 ^ 31 + 2 ^ 31, 0)⟩
  | .fcpsgn _ d a b => some ⟨d, 1, [rA a 1, rB b 1], fun l => single ((c.rv a l).toNat % 2 ^ 31 + (c.rv b l).toNat / 2 ^ 31 * 2 ^ 31, 0)⟩
  | .fdot2 p d a b t => some ⟨d, 1, [rA a 1, rB b 1, rC p d 1], fun l =>
      single (dotF (tyFmt t) (rmOf c) ((c.rv a l).toNat % 65536) ((c.rv a l).toNat / 65536) ((c.rv b l).toNat % 65536) ((c.rv b l).toNat / 65536)
        (c.rv (rC p d 1).reg l).toNat)⟩
  | .pack _ d a b x => some ⟨d, 1, [rA a 1, rB b 1], fun l =>
      let g := if x = 0 then f16 else if x = 1 then bf16 else if x = 2 then e4m3 else e5m2
      let r0 := convF f32 g (rmOf c) c.pfx.sat (c.rv a l).toNat
      let r1 := convF f32 g (rmOf c) c.pfx.sat (c.rv b l).toNat
      single (r0.1 + r1.1 * (if x.toNat < 2 then 65536 else 256), r0.2 ||| r1.2)⟩
  | _ => none

/-- What each instruction of 0x50 to 0x55 should give (R257 to R262). -/
def sfuWant (c : Ctx) : Instr → Option FltWant
  | .fdiv _ d a b _ => some ⟨d, 1, [rA a 1, rB b 1], fun l => single (divF f32 (rmOf c) (c.rv a l).toNat (c.rv b l).toNat)⟩
  | .fsqrt _ d a _ => some ⟨d, 1, [rA a 1], fun l => single (sqrtF f32 (rmOf c) (c.rv a l).toNat)⟩
  | .fexp2 _ d a _ => some ⟨d, 1, [rA a 1], fun l => single (sfuF 0 (rmOf c) (c.rv a l).toNat)⟩
  | .flog2 _ d a _ => some ⟨d, 1, [rA a 1], fun l => single (sfuF 1 (rmOf c) (c.rv a l).toNat)⟩
  | .fsin _ d a _ => some ⟨d, 1, [rA a 1], fun l => single (sfuF 2 (rmOf c) (c.rv a l).toNat)⟩
  | .fcos _ d a _ => some ⟨d, 1, [rA a 1], fun l => single (sfuF 3 (rmOf c) (c.rv a l).toNat)⟩
  | .frcp _ d a _ => some ⟨d, 1, [rA a 1], fun l => single (sfuF 4 (rmOf c) (c.rv a l).toNat)⟩
  | .frsq _ d a _ => some ⟨d, 1, [rA a 1], fun l => single (sfuF 5 (rmOf c) (c.rv a l).toNat)⟩
  | .ftanh _ d a _ => some ⟨d, 1, [rA a 1], fun l => single (sfuF 6 (rmOf c) (c.rv a l).toNat)⟩
  | .fsigm _ d a _ => some ⟨d, 1, [rA a 1], fun l => single (sfuF 7 (rmOf c) (c.rv a l).toNat)⟩
  | .cvtf _ d a src dst _ =>
    let wide := src = 8 ∨ src = 9
    some ⟨d, 1, [rA a (if wide then 2 else 1)], fun l =>
      let v := if wide then (c.rv2 a l).toNat else (c.rv a l).toNat
      single (if src.toNat ≤ 5 then convF (fpCode src.toNat) (fpCode dst.toNat) (rmOf c) c.pfx.sat (v % 2 ^ (fpCode src.toNat).width)
              else roundNum (fpCode dst.toNat) (rmOf c) c.pfx.sat (cvtInt (src.toNat - 6) v) false)⟩
  | .cvti _ d a src dst sat _ =>
    some ⟨d, if dst = 2 ∨ dst = 3 then 2 else 1, [rA a 1], fun l =>
      let r := toIntF (fpCode src.toNat) (rmOf c) dst.toNat (sat == 1) ((c.rv a l).toNat % 2 ^ (fpCode src.toNat).width)
      (if dst = 2 ∨ dst = 3 then wide r.1 else narrow r.1, r.2)⟩
  | .qscale _ d a fmt _ => some ⟨d, 1, [rA a 1], fun l => single (qscaleF (fpCode fmt.toNat) c.pfx.sat (c.rv a l).toNat)⟩
  | _ => none

/-- No error stands in the unit that computes a lane's next element or in its shadow (R263), the input of log 19, and none is executed again after such a failure (R416). -/
abbrev NoShadow (i : Instr) (s : State) (u : Cur) (p : Pack) : Prop := ∀ l, l < 32 → (ctxOf i s u p).shadowAt l = none ∧ (p.lane l).shadow = none

end Sys2Proof.Claims

/-- R247 to R256: floating-point instructions complete, write the rounded exact result of each element, and merge their flags into FPC. -/
def Obligations.FloatInstructionsWriteRoundedResults : Prop :=
  ∀ (i : Instr) (s : State) (u : Cur) (p : Pack) (w : FltWant), i.wf = true → Issues i s u p → NoShadow i s u p → floatWant (ctxOf i s u p) i = some w →
    VecEnds i s u p w.vec (p.fpc ||| BitVec.ofNat 64 (w.flags (ctxOf i s u p)))

/-- R257 to R262: quotients, roots, special functions, conversions and block scales complete and write their result; flags merge into FPC. Where the rules give
a special function no closed result, its value is the model's (log 11) and the statement says only that it is one value for every rounding mode, with NX. An infinite operand under {sat} gives the
largest number by R80, where R86 calls the conversion exact (log 64). -/
def Obligations.SpecialFunctionsAndConversionsWriteTheirResult : Prop :=
  ∀ (i : Instr) (s : State) (u : Cur) (p : Pack) (w : FltWant), i.wf = true → Issues i s u p → NoShadow i s u p → sfuWant (ctxOf i s u p) i = some w →
    VecEnds i s u p w.vec (p.fpc ||| BitVec.ofNat 64 (w.flags (ctxOf i s u p)))

namespace Sys2Proof.Claims

/-! ## Registers kept, masks, scalars (R236, R242, R243, R245, R233) -/

/-- No vector register has changed. -/
abbrev SameRegs (p q : Pack) (d : Nat) : Prop := (∀ r l, l < 32 → (q.frameAt d).cell r l = (p.frameAt d).cell r l) ∧ OtherFrames p q d

/-- MOV and SEL (R243): the register lane each lane takes whole, value, mark and tag. -/
def copyWant (c : Ctx) : Instr → Option (VReg × (Nat → VCell))
  | .mov _ d a => some (d, fun l => c.cell a.toNat l)
  | .sel _ d a b m => some (d, fun l => if m = 0 ∨ (c.p.m.getD m.toNat 0).getLsbD (c.lid l) = true then c.cell a.toNat l else c.cell b.toNat l)
  | _ => none

abbrev CopyDone (i : Instr) (s : State) (u : Cur) (p : Pack) (d : VReg) (f : Nat → VCell) : Prop :=
  ∃ t q, exec i s = .next t ∧ RegUnit (ctxOf i s u p) s t u p q u.ig ∧
    CellsAre p q u.depth d.toNat 1 (fun l _ => if (ctxOf i s u p).act.getLsbD l then some (f l)
      else if (ctxOf i s u p).masked.getLsbD l && (ctxOf i s u p).pfx.mz then some {} else none) ∧
    OtherFrames p q u.depth ∧ q.s = p.s ∧ q.m = p.m ∧ q.fpc = p.fpc ∧ q.pending = p.pending

/-- A mask result: the mask register, the sources whose poison is consumed, each lane's bit and flags. -/
structure MaskWant where
  m : Nat
  us : List VUse
  bit : Nat → Bool × Nat

/-- A condition of R44 on two numbers, read signed (x, y) and unsigned (v, w). -/
def condOn (cc : Nat) (x y : Int) (v w : Nat) : Bool :=
  match cc with
  | 0 => v == w
  | 1 => v != w
  | 2 => decide (x < y)
  | 3 => decide (x ≤ y)
  | 4 => decide (y < x)
  | 5 => decide (y ≤ x)
  | 6 => decide (v < w)
  | 7 => decide (v ≤ w)
  | 8 => decide (w < v)
  | _ => decide (w ≤ v)

/-- ICMP, ICMPI, MVM (R242, R243) and FCMP (R250). The types n32 and n64 compare lt to ge unsigned. -/
def maskWant (c : Ctx) : Instr → Option MaskWant
  | .icmp _ m cc a b x =>
    if x.toNat ≤ 1 then some ⟨m.toNat, [rA a 1, rB b 1], fun l =>
      (condOn cc.toNat (if x = 0 then (c.rv a l).toInt else (c.rv a l).toNat) (if x = 0 then (c.rv b l).toInt else (c.rv b l).toNat) (c.rv a l).toNat (c.rv b l).toNat, 0)⟩
    else some ⟨m.toNat, [rA a 2, rB b 2], fun l =>
      (condOn cc.toNat (if x = 2 then (c.rv2 a l).toInt else (c.rv2 a l).toNat) (if x = 2 then (c.rv2 b l).toInt else (c.rv2 b l).toNat) (c.rv2 a l).toNat (c.rv2 b l).toNat, 0)⟩
  | .icmpi _ m cc a v => some ⟨m.toNat, [rA a 1], fun l =>
      (condOn cc.toNat (c.rv a l).toInt (BitVec.ofInt 32 (immSigned v)).toInt (c.rv a l).toNat (BitVec.ofInt 32 (immSigned v)).toNat, 0)⟩
  | .mvm _ m a => some ⟨m.toNat, [rA a 1], fun l => ((c.rv a l).getLsbD l, 0)⟩
  | .fcmp _ m cc a b x => some ⟨m.toNat, [rA a 1, rB b 1], fun l =>
      if x = 0 then cmpF f32 cc.toNat (c.rv a l).toNat (c.rv b l).toNat
      else cmpF (tyFmt x) cc.toNat ((c.rv a l).toNat % 65536) ((c.rv b l).toNat % 65536)⟩
  | _ => none

/-- The program's lanes: 32, or 16 in paired-lane mode (R417). -/
def viewLanes (c : Ctx) : Nat := if c.q.paired then 16 else 32

/-- Unmasked lanes with a poisoned source, as the program numbers lanes (R236). -/
def poisoned (c : Ctx) (us : List VUse) : List Nat := (((lanesOf c.act).filter (fun l => c.psnOf us l && !c.isHelper (c.lid l))).map c.lid).dedup

/-- Lanes that write their bit: unmasked, no poison consumed. -/
def writes (c : Ctx) (w : MaskWant) (l : Nat) : Bool := decide (l < viewLanes c) && c.act.getLsbD l && !(poisoned c w.us).contains l

/-- The mask bits, and POISON for the lanes that would move a poisoned value into one; nothing else changes. -/
abbrev MaskDone (i : Instr) (s : State) (u : Cur) (p : Pack) (w : MaskWant) : Prop :=
  ∃ t q, exec i s = .next t ∧ RegUnit (ctxOf i s u p) s t u p q u.ig ∧ SameRegs p q u.depth ∧ q.s = p.s ∧ (∀ j, j ≠ w.m → q.m.getD j 0 = p.m.getD j 0) ∧
    (∀ l, l < 32 → (q.m.getD w.m 0).getLsbD l =
      if writes (ctxOf i s u p) w l then (w.bit l).1
      else if (ctxOf i s u p).masked.getLsbD l && (ctxOf i s u p).pfx.mz && decide (l < viewLanes (ctxOf i s u p)) then false
      else (p.m.getD w.m 0).getLsbD l) ∧
    q.fpc = p.fpc ||| BitVec.ofNat 64 (((List.range 32).filter (fun l => writes (ctxOf i s u p) w l && !(ctxOf i s u p).isHelper l)).foldl (fun a l => a ||| (w.bit l).2) 0) ∧
    q.pending = withTraps p.pending s u ((ctxOf i s u p).tagged ++ (poisoned (ctxOf i s u p) w.us).map (fun l => { l := l, code := tPOISON }))

/-- Lanes of the group whose register is not 0. -/
def nonzero (c : Ctx) (a : VReg) : List Nat := (lanesOf c.ig).filter (fun l => c.rv a l != 0)

/-- The s register and value a pack-scalar instruction or a vote gives (R233, R245). -/
def scalarWant (c : Ctx) : Instr → Option (Nat × DWord)
  | .sadd d a b => some (d.toNat, BitVec.ofInt 64 ((c.p.sreg a.toNat).toNat + (c.p.sreg b.toNat).toNat))
  | .saddi d a v => some (d.toNat, BitVec.ofInt 64 ((c.p.sreg a.toNat).toNat + (BitVec.ofInt 32 (immSigned v)).toInt))
  | .ssub d a b => some (d.toNat, BitVec.ofInt 64 ((c.p.sreg a.toNat).toNat - (c.p.sreg b.toNat).toNat))
  | .smul d a b => some (d.toNat, BitVec.ofInt 64 ((c.p.sreg a.toNat).toNat * (c.p.sreg b.toNat).toNat))
  | .sand d a b => some (d.toNat, c.p.sreg a.toNat &&& c.p.sreg b.toNat)
  | .sor d a b => some (d.toNat, c.p.sreg a.toNat ||| c.p.sreg b.toNat)
  | .sxor d a b => some (d.toNat, c.p.sreg a.toNat ^^^ c.p.sreg b.toNat)
  | .sshl d a b => some (d.toNat, BitVec.ofInt 64 ((c.p.sreg a.toNat).toNat * 2 ^ ((c.p.sreg b.toNat).toNat % 64)))
  | .sshr d a b => some (d.toNat, BitVec.ofInt 64 ((c.p.sreg a.toNat).toNat / 2 ^ ((c.p.sreg b.toNat).toNat % 64) : Nat))
  | .ssar d a b => some (d.toNat, BitVec.ofInt 64 ((c.p.sreg a.toNat).toInt / 2 ^ ((c.p.sreg b.toNat).toNat % 64)))
  | .scmp d a b cc => some (d.toNat,
      if condOn cc.toNat (c.p.sreg a.toNat).toInt (c.p.sreg b.toNat).toInt (c.p.sreg a.toNat).toNat (c.p.sreg b.toNat).toNat then 1 else 0)
  | .smovi d v => some (d.toNat, BitVec.ofInt 64 (BitVec.ofInt 32 (immSigned v)).toInt)
  | .smov d a => some (d.toNat, c.p.sreg a.toNat)
  | .rdlane d a n => some (d.toNat, BitVec.ofNat 64 (c.rv a n.toNat).toNat)
  | .smask d m => some (d.toNat, BitVec.ofNat 64 (if m = 0 then c.ig else c.p.m.getD m.toNat 0).toNat)
  | .vany d a => some (d.toNat, if nonzero c a = [] then 0 else 1)
  | .vall d a => some (d.toNat, if (nonzero c a).length = (lanesOf c.ig).length then 1 else 0)
  | .vcount d a => some (d.toNat, BitVec.ofNat 64 (nonzero c a).length)
  | _ => none

/-- What a scalar instruction or vote traps before it writes anything: tagged and poisoned values that would lose their tag or mark (R233, R236, R245), and in
paired-lane mode lanes 16 to 31 and copies that differ (R417, R419). -/
def scalarTraps (c : Ctx) : Instr → List LTrap
  | .rdlane _ a n =>
    if c.q.paired = true ∧ 16 ≤ n.toNat then groupTrap c tILLOP 3
    else if (c.cell a.toNat n.toNat).tag then groupTrap c tSNAN 0 0 [0, BitVec.ofNat 8 a.toNat]
    else if (c.cell a.toNat n.toNat).psn then groupTrap c tPOISON 0
    else if c.q.paired = true ∧ c.rv a n.toNat ≠ c.rv a (n.toNat + 16) then groupTrap c tPAIR 0 0 (pairInfo n.toNat (c.rv a n.toNat) (c.rv a (n.toNat + 16)) 0)
    else []
  | .wrlane _ _ n => if c.q.paired = true ∧ 16 ≤ n.toNat then groupTrap c tILLOP 3 else []
  | .vany _ a => vote a
  | .vall _ a => vote a
  | .ballot _ a => vote a
  | .vcount _ a => vote a
  | _ => []
where
  vote (a : VReg) : List LTrap :=
    match c.tagged with
    | t :: _ => groupTrap c tSNAN 0 0 t.info
    | [] => ((lanesOf c.ig).filter (fun l => c.psn a 1 l)).map (fun l => { l := l, code := tPOISON })

abbrev ScalarDone (i : Instr) (s : State) (u : Cur) (p : Pack) (d : Nat) (v : DWord) : Prop :=
  ∃ t q, exec i s = .next t ∧ RegUnit (ctxOf i s u p) s t u p q u.ig ∧ SameRegs p q u.depth ∧ (∀ j, q.sreg j = if j = d then v else p.sreg j) ∧
    q.m = p.m ∧ q.fpc = p.fpc ∧ q.pending = p.pending

/-- The unit writes nothing and its traps are raised. -/
abbrev OnlyTraps (i : Instr) (s : State) (u : Cur) (p : Pack) (ts : List LTrap) : Prop :=
  ∃ t q, exec i s = .next t ∧ RegUnit (ctxOf i s u p) s t u p q u.ig ∧ SameRegs p q u.depth ∧ q.s = p.s ∧ q.m = p.m ∧ q.fpc = p.fpc ∧
    q.pending = withTraps p.pending s u ((ctxOf i s u p).tagged ++ ts)

end Sys2Proof.Claims

/-- R243: MOV and SEL copy a register lane with its mark and tag; SEL with m0 takes A in every lane. -/
def Obligations.MovesCopyValueMarkAndTag : Prop :=
  ∀ (i : Instr) (s : State) (u : Cur) (p : Pack) (d : VReg) (f : Nat → VCell), i.wf = true → Issues i s u p → copyWant (ctxOf i s u p) i = some (d, f) →
    CopyDone i s u p d f

/-- R236, R242, R243, R250: ICMP, ICMPI, FCMP and MVM write one mask bit for each unmasked lane, keep the bits of other lanes, and trap POISON before writing
the bit of a lane whose source is poisoned. -/
def Obligations.ComparesWriteMaskBits : Prop :=
  ∀ (i : Instr) (s : State) (u : Cur) (p : Pack) (w : MaskWant), i.wf = true → Issues i s u p → NoShadow i s u p → maskWant (ctxOf i s u p) i = some w →
    MaskDone i s u p w

/-- R233, R245: pack-scalar instructions, RDLANE, SMASK and the votes with an s destination write that register once for the pack, and nothing else. -/
def Sys2Proof.Claims.ScalarsAndVotesWriteOneRegister : Prop :=
  ∀ (i : Instr) (s : State) (u : Cur) (p : Pack) (d : Nat) (v : DWord), i.wf = true → Issues i s u p → scalarWant (ctxOf i s u p) i = some (d, v) →
    scalarTraps (ctxOf i s u p) i = [] → ScalarDone i s u p d v

/-- R233, R236, R245, R417, R419: a vote or RDLANE that would move a tagged or poisoned value, and RDLANE or WRLANE of a lane a paired pack has not, trap the
lanes the rules name and write nothing. -/
def Sys2Proof.Claims.ScalarReadsOfPoisonTrap : Prop :=
  ∀ (i : Instr) (s : State) (u : Cur) (p : Pack), i.wf = true → Issues i s u p → scalarTraps (ctxOf i s u p) i ≠ [] →
    OnlyTraps i s u p (scalarTraps (ctxOf i s u p) i)

/-- R233, R236, R245, R417, R419: pack-scalar instructions, votes and lane reads write one register, or trap and write nothing. -/
def Obligations.ScalarsAndVotesWriteOrTrap : Prop := Claims.ScalarsAndVotesWriteOneRegister ∧ Claims.ScalarReadsOfPoisonTrap

/-- R233, R245, R417: MSET and BALLOT write all 32 bits of a mask register; WRLANE writes one register lane (and its partner's in paired-lane mode), clearing mark and tag. -/
def Obligations.MaskSetsBallotsAndLaneWrites : Prop :=
  ∀ (s : State) (u : Cur) (p : Pack) (m : BitVec 3) (a n : BitVec 7) (d v : VReg),
    (∀ i, i = Instr.mset m a ∨ i = Instr.ballot m v → i.wf = true → Issues i s u p → scalarTraps (ctxOf i s u p) i = [] →
      ∃ t q, exec i s = .next t ∧ RegUnit (ctxOf i s u p) s t u p q u.ig ∧ SameRegs p q u.depth ∧ q.s = p.s ∧ q.fpc = p.fpc ∧ q.pending = p.pending ∧
        (∀ j, q.m.getD j 0 = if j = m.toNat then
            (if i = .mset m a then (p.sreg a.toNat).setWidth 32 &&& (if (ctxOf i s u p).q.paired then 0xFFFF else 0xFFFFFFFF) else laneMask (nonzero (ctxOf i s u p) v))
          else p.m.getD j 0)) ∧
    (∀ i, i = Instr.wrlane d a n → i.wf = true → Issues i s u p → scalarTraps (ctxOf i s u p) i = [] →
      ∃ t q, exec i s = .next t ∧ RegUnit (ctxOf i s u p) s t u p q u.ig ∧ OtherFrames p q u.depth ∧ q.s = p.s ∧ q.m = p.m ∧ q.fpc = p.fpc ∧ q.pending = p.pending ∧
        (∀ r l, l < 32 → (q.frameAt u.depth).cell r l =
          if r = d.toNat ∧ (l = n.toNat ∨ (ctxOf i s u p).q.paired = true ∧ l = n.toNat + 16) then { val := (p.sreg a.toNat).setWidth 32 }
          else (p.frameAt u.depth).cell r l))

namespace Sys2Proof.Claims

/-! ## Cross-lane instructions (R227 to R232, R417) -/

/-- What a cross-lane instruction gives: each lane's value with its mark, the flags its combines raise, and whether a register lane that supplies it is tagged. -/
structure CrossWant where
  d : VReg
  a : VReg
  val : Nat → VCell
  fl : Nat → Nat
  tag : Nat → Bool

/-- S: the issue group less its masked lanes (R227). -/
def supplies (c : Ctx) (j : Nat) : Bool := c.ig.getLsbD j && !c.masked.getLsbD j

/-- The lanes of S, in the half of the register file a lane belongs to (R417). -/
def members (c : Ctx) (l : Nat) : List Nat := ((List.range 32).filter (supplies c)).map (fun j => j + (l - c.lid l))

def frameReg (a : VReg) : Bool := decide (a.toNat ≤ 111)

/-- A shuffle: the lane whose value a lane takes, when it supplies; otherwise its own (R227). -/
def shuffleWant (c : Ctx) (d a : VReg) (index : Option VReg) (src : Nat → Option Nat) : CrossWant :=
  let from_ := fun l => match src (c.lid l) with
    | some j => if supplies c j then j + (l - c.lid l) else l
    | none => l
  { d := d, a := a,
    val := fun l => { val := (c.cell a.toNat (from_ l)).val,
                      psn := (c.cell a.toNat (from_ l)).psn || (match index with | some b => frameReg b && (c.cell b.toNat l).psn | none => false) },
    fl := fun _ => 0, tag := fun l => frameReg a && (c.cell a.toNat (from_ l)).tag }

/-- Lanes of a segment: 32 >> seg (R228); in paired-lane mode code 0 is 16 (R417). -/
def segment (c : Ctx) (seg : BitVec 2) : Nat := if c.q.paired = true ∧ seg = 0 then 16 else 32 / 2 ^ seg.toNat

/-- The operators of R48 and R230. -/
def combine (k rm : Nat) (x y : Word) : Word × Nat :=
  match k with
  | 0 => (x + y, 0)
  | 1 => (if x.toInt ≤ y.toInt then x else y, 0)
  | 2 => (if y.toInt ≤ x.toInt then x else y, 0)
  | 3 => (if x.toNat ≤ y.toNat then x else y, 0)
  | 4 => (if y.toNat ≤ x.toNat then x else y, 0)
  | 5 => (x &&& y, 0)
  | 6 => (x ||| y, 0)
  | 7 => (x ^^^ y, 0)
  | 8 => (BitVec.ofNat 32 (addF f32 rm x.toNat y.toNat).1, (addF f32 rm x.toNat y.toNat).2)
  | 9 => (BitVec.ofNat 32 (minF false f32 x.toNat y.toNat).1, (minF false f32 x.toNat y.toNat).2)
  | _ => (BitVec.ofNat 32 (minF true f32 x.toNat y.toNat).1, (minF true f32 x.toNat y.toNat).2)

/-- Two operands, EMPTY ones left out; flags merge. -/
def combineOpt (k rm : Nat) : Option (Word × Nat) → Option (Word × Nat) → Option (Word × Nat)
  | none, y => y
  | x, none => x
  | some x, some y => some ((combine k rm x.1 y.1).1, x.2 ||| y.2 ||| (combine k rm x.1 y.1).2)

/-- red(lo, lo + 2^n) of R230. -/
def red (k rm : Nat) (x : Nat → Option Word) : Nat → Nat → Option (Word × Nat)
  | 0, lo => (x lo).map (fun v => (v, 0))
  | n + 1, lo => combineOpt k rm (red k rm x n lo) (red k rm x n (lo + 2 ^ n))

/-- acc of R231 after a list of values. -/
def serial (k rm : Nat) (xs : List Word) : Option (Word × Nat) := xs.foldl (fun acc v => combineOpt k rm acc (some (v, 0))) none

/-- Identities (R231). -/
def identity (k : Nat) : Word := [0, 0x7FFFFFFF, 0x80000000, 0xFFFFFFFF, 0, 0xFFFFFFFF, 0, 0, 0, 0x7F800000, 0xFF800000].getD k 0

/-- Cross-lane instructions (R228 to R232). -/
def crossWant (c : Ctx) : Instr → Option CrossWant
  | .shfl _ d a b seg => some {
      shuffleWant c d a (some b) (fun _ => none) with
      val := fun l => (shuffleWant c d a (some b) (fun k => some (k - k % segment c seg + (c.rv b l).toNat % segment c seg))).val l
      tag := fun l => (shuffleWant c d a (some b) (fun k => some (k - k % segment c seg + (c.rv b l).toNat % segment c seg))).tag l }
  | .shflup _ d a seg n => some (shuffleWant c d a none (fun k => if n.toNat ≤ k % segment c seg then some (k - n.toNat) else none))
  | .shfldn _ d a seg n => some (shuffleWant c d a none (fun k => if k % segment c seg + n.toNat < segment c seg then some (k + n.toNat) else none))
  | .shflx _ d a _ n => some (shuffleWant c d a none (fun k => some (k ^^^ n.toNat)))
  | .qswz _ d a pat => some (shuffleWant c d a none (fun k => some (k / 4 * 4 + pat.toNat / 4 ^ (k % 4) % 4)))
  | .redux _ d a k => some {
      d := d, a := a
      val := fun l => { val := match red k.toNat (rmOf c) (fun j => if supplies c j then some (c.rv a (j + (l - c.lid l))) else none) 5 0 with | some r => r.1 | none => 0,
                        psn := frameReg a && (members c l).any (fun j => (c.cell a.toNat j).psn) }
      fl := fun l => match red k.toNat (rmOf c) (fun j => if supplies c j then some (c.rv a (j + (l - c.lid l))) else none) 5 0 with | some r => r.2 | none => 0
      tag := fun l => frameReg a && (members c l).any (fun j => (c.cell a.toNat j).tag) }
  | .scan _ d a ex k =>
    let below := fun l => ((List.range 32).filter (fun j => supplies c j && (decide (j < c.lid l) || (ex == 0 && j == c.lid l)))).map (fun j => j + (l - c.lid l))
    some {
      d := d, a := a
      val := fun l => { val := match serial k.toNat (rmOf c) ((below l).map (c.rv a)) with | some r => r.1 | none => identity k.toNat,
                        psn := frameReg a && (below l).any (fun j => (c.cell a.toNat j).psn) }
      fl := fun l => match serial k.toNat (rmOf c) ((members c l).map (c.rv a)) with | some r => r.2 | none => 0
      tag := fun l => frameReg a && (below l).any (fun j => (c.cell a.toNat j).tag) }
  | .matchl _ d a x =>
    let same := fun i j => c.rv a i == c.rv a j && (x != 1 || c.rv2 a i == c.rv2 a j)
    let regs := if x = 1 then [a.toNat, a.toNat + 1] else [a.toNat]
    some {
      d := d, a := a
      val := fun l => { val := laneMask ((List.range 32).filter (fun j => supplies c j && same (j + (l - c.lid l)) l)),
                        psn := frameReg a && (members c l).any (fun j => regs.any (fun r => (c.cell r j).psn)) }
      fl := fun _ => 0
      tag := fun l => frameReg a && (members c l).any (fun j => regs.any (fun r => (c.cell r j).tag)) }
  | _ => none

/-- Destination lanes that a tagged supplier stops, as the program numbers lanes. -/
def stopped (c : Ctx) (w : CrossWant) : List Nat := ((lanesOf c.act).filter (fun l => !c.isHelper (c.lid l) && w.tag l)).map c.lid

/-- The lanes that write: unmasked, and neither they nor their partner stopped. -/
def crosses (c : Ctx) (w : CrossWant) (l : Nat) : Bool := c.act.getLsbD l && !(stopped c w).contains (c.lid l)

abbrev CrossDone (i : Instr) (s : State) (u : Cur) (p : Pack) (w : CrossWant) : Prop :=
  ∃ t q, exec i s = .next t ∧ RegUnit (ctxOf i s u p) s t u p q u.ig ∧
    CellsAre p q u.depth w.d.toNat 1 (fun l _ => if crosses (ctxOf i s u p) w l then some (w.val l)
      else if (ctxOf i s u p).masked.getLsbD l && (ctxOf i s u p).pfx.mz then some {} else none) ∧
    OtherFrames p q u.depth ∧ q.s = p.s ∧ q.m = p.m ∧
    q.fpc = p.fpc ||| BitVec.ofNat 64 (((List.range 32).filter (fun l => crosses (ctxOf i s u p) w l && !(ctxOf i s u p).isHelper ((ctxOf i s u p).lid l))).foldl (fun a l => a ||| w.fl l) 0) ∧
    q.pending = withTraps p.pending s u ((ctxOf i s u p).tagged ++
      (stopped (ctxOf i s u p) w).map (fun l => { l := l, code := tSNAN, info := [0, BitVec.ofNat 8 w.a.toNat] }))

end Sys2Proof.Claims

/-- R227 to R232: shuffles, reductions, scans and matches complete with the value the rules give each lane from the lanes of S; a lane that a tagged register lane
would supply traps SNAN instead. -/
def Obligations.CrossLaneInstructionsExchangeValues : Prop :=
  ∀ (i : Instr) (s : State) (u : Cur) (p : Pack) (w : CrossWant), i.wf = true → Issues i s u p → NoShadow i s u p → crossWant (ctxOf i s u p) i = some w →
    CrossDone i s u p w

namespace Sys2Proof.Claims

/-! ## Branches (R222, R224 to R226) -/

/-- Where a branch of `off` words leads (R26): from the instruction's own word; inside a microprogram, a word index (R65). -/
def dest (c : Ctx) (off : Int) : DWord × Option Nat :=
  match c.u.k with
  | none => (c.u.pc + BitVec.ofInt 64 (4 * (prefixWords c.u.words + off)), none)
  | some k => (c.u.pc, some ((k + prefixWords c.u.words : Nat) + off).toNat)

/-- Lanes of a BRX that branch: no poison in the target, no tag, the two copies of a paired pack agree, the target is aligned. -/
def brxOk (c : Ctx) (a : VReg) (l : Nat) : Bool :=
  c.act.getLsbD l && !c.psn a 2 l && !(c.q.paired && c.rv2 a l != c.rv2 a (l + 16)) && (c.rv2 a l).toNat % 4 == 0

/-- Where each lane of the group goes. -/
def branchTo (c : Ctx) : Instr → Option (Nat → DWord × Option Nat)
  | .nop => some (fun l => if (c.p.lane l).stands then ((c.p.lane l).pc, (c.p.lane l).k) else (c.next, c.nextK))
  | .bra o => some (fun _ => dest c o.toInt)
  | .brc m k o => some (fun l => if (if m = 0 then c.ig else c.p.m.getD m.toNat 0).getLsbD l = (k == 1) then dest c o.toInt else (c.next, c.nextK))
  | .sbr d cc v =>
    let x := (c.p.sreg d.toNat).toInt
    let taken := match cc.toNat with
      | 0 => decide (x = 0)
      | 1 => decide (x ≠ 0)
      | 2 => decide (x < 0)
      | 3 => decide (0 ≤ x)
      | 4 => decide (0 < x)
      | _ => decide (x ≤ 0)
    some (fun _ => if taken then dest c (BitVec.ofInt 32 (immSigned v)).toInt else (c.next, c.nextK))
  | .brx a => some (fun l => if brxOk c a l then (c.rv2 a l, none)
      else if (c.p.lane l).stands then ((c.p.lane l).pc, (c.p.lane l).k) else (c.next, c.nextK))
  | _ => none

/-- The traps of a BRX: poison, then the copies, then alignment (R225, R419). -/
def branchTraps (c : Ctx) : Instr → List LTrap
  | .brx a => (lanesOf c.ig).filterMap (fun l =>
      if !c.act.getLsbD l || brxOk c a l then none
      else if c.psn a 2 l then some { l := l, code := tPOISON }
      else if c.q.paired && c.rv2 a l != c.rv2 a (l + 16) then
        some { l := l, code := tPAIR, info := leBytes 13 (l + (c.rv2 a l).toNat % 2 ^ 32 * 2 ^ 32 + (c.rv2 a (l + 16)).toNat % 2 ^ 32 * 2 ^ 64 + 2 * 2 ^ 96) }
      else some { l := l, code := tMISALIGN, va := c.rv2 a l })
  | _ => []

end Sys2Proof.Claims

/-- R222, R224 to R226: NOP, BRA, BRC, BRX and SBR complete; each lane of the group stands where the rule sends it, every other lane where it was, and no
register, flag or byte of memory changes. A BRX lane with a poisoned or misaligned target traps and goes on behind the BRX. -/
def Sys2Proof.Claims.BranchesMoveTheIssueGroup : Prop :=
  ∀ (i : Instr) (s : State) (u : Cur) (p : Pack) (to_ : Nat → DWord × Option Nat), i.wf = true → Issues i s u p → branchTo (ctxOf i s u p) i = some to_ →
    ∃ t q, exec i s = .next t ∧ t.pack? u.core u.slot = some q ∧ SameRest s t ∧ SameCores s t ∧ SameOthers s t u ∧ SameBytes s t ∧ PackBut p q ∧
      (∀ l, SameLane (p.lane l) (q.lane l) ∧ ((q.lane l).pc, (q.lane l).k) = if u.ig.getLsbD l then to_ l else ((p.lane l).pc, (p.lane l).k)) ∧
      SameRegs p q u.depth ∧ q.s = p.s ∧ q.m = p.m ∧ q.fpc = p.fpc ∧
      q.pending = withTraps p.pending s u ((ctxOf i s u p).tagged ++ branchTraps (ctxOf i s u p) i)

/-- R212, R222: YIELD parks its group, at the address behind it, with the other eligible lanes of its depth as rejoin set; nothing else changes. -/
def Sys2Proof.Claims.YieldParksTheIssueGroup : Prop :=
  ∀ (s : State) (u : Cur) (p : Pack), Issues .yield s u p →
    ∃ t q, exec .yield s = .next t ∧ t.pack? u.core u.slot = some q ∧ SameRest s t ∧ SameCores s t ∧ SameOthers s t u ∧ SameBytes s t ∧ PackBut p q ∧
      (∀ l, l < 32 → u.ig.getLsbD l = false → SameLane (p.lane l) (q.lane l) ∧ (q.lane l).pc = (p.lane l).pc ∧ (q.lane l).k = (p.lane l).k) ∧
      (∀ l, l < 32 → u.ig.getLsbD l = true → (q.lane l).st = .parked ∧
        (∀ j, j < 32 → (q.lane l).rejoin.getLsbD j = (!u.ig.getLsbD j && p.eligible j && p.selDepth j == u.depth)) ∧
        (q.lane l).pc = (if (p.lane l).stands then (p.lane l).pc else (ctxOf .yield s u p).next)) ∧
      SameRegs p q u.depth ∧ q.s = p.s ∧ q.m = p.m ∧ q.fpc = p.fpc ∧ q.pending = p.pending

/-- R212, R222, R224 to R226: NOP, the branches and YIELD. -/
def Obligations.BranchesAndYieldMoveTheGroup : Prop := Claims.BranchesMoveTheIssueGroup ∧ Claims.YieldParksTheIssueGroup

namespace Sys2Proof.Claims

/-! ## Units whose effect is on their pack (R191 to R197, R223, R392 to R395) -/

/-- The pack q is `pre`, the pack after the instruction's own effect, with what the end of every unit does: the lanes of `moved` go on, ages and marks. No
register and no other part of a frame changes. -/
abbrev Ends (c : Ctx) (pre q : Pack) (moved : Word) : Prop :=
  PackBut pre q ∧ LanesOn c pre q moved ∧ q.s = pre.s ∧ q.m = pre.m ∧ q.fpc = pre.fpc ∧ q.trapFrame = pre.trapFrame ∧ q.frames.length = pre.frames.length ∧
  ∀ e, SameRec (pre.frames.getD e {}) (q.frames.getD e {}) ∧ ∀ r l, (q.frames.getD e {}).cell r l = (pre.frames.getD e {}).cell r l

/-- The instruction completes; of the state only its pack has changed, to `pre` and the end of the unit, and its lanes' traps are raised. -/
abbrev UnitDone (i : Instr) (s : State) (u : Cur) (p pre : Pack) (moved : Word) (ts : List LTrap) : Prop :=
  ∃ t q, exec i s = .next t ∧ t.pack? u.core u.slot = some q ∧ SameRest s t ∧ SameCores s t ∧ SameOthers s t u ∧ SameBytes s t ∧
    Ends (ctxOf i s u p) pre q moved ∧ q.pending = withTraps pre.pending s u ((ctxOf i s u p).tagged ++ ts)

/-- Bytes of backing for the frames of depths below d and one of n granules (R191). -/
def backing (p : Pack) (d n : Nat) : Nat := 32 * (((p.frames.take d).map (fun f => f.size + 1)).sum + (n + 1))

/-- What the frame instructions trap, in the order of R192, R193, R195 and R191. -/
def frameTraps (c : Ctx) : Instr → List LTrap
  | .call dem _ _ _ _ =>
    if c.p.handler.isSome then groupTrap c tFRAME 4
    else if c.u.depth = 255 then groupTrap c tFRAME 2
    else if c.q.fbsize < backing c.p (c.u.depth + 1) dem.toNat then groupTrap c tFRAME 3 else []
  | .callx dem _ _ _ r =>
    if c.p.handler.isSome then groupTrap c tFRAME 4
    else if c.u.depth = 255 then groupTrap c tFRAME 2
    else if (c.p.sreg r.toNat).toNat % 4 ≠ 0 then groupTrap c tMISALIGN 0
    else if c.q.fbsize < backing c.p (c.u.depth + 1) dem.toNat then groupTrap c tFRAME 3 else []
  | .ret =>
    if c.p.handler.isSome then []
    else if c.u.depth = 0 then groupTrap c tFRAME 2
    else if 8 * (c.p.frames.getD c.u.depth {}).size < (c.p.frames.getD c.u.depth {}).retc then groupTrap c tFRAME 1 else []
  | .unwind n => if c.p.handler.isSome then groupTrap c tFRAME 4 else if c.u.depth < n.toNat then groupTrap c tFRAME 2 else []
  | .resize n =>
    if c.p.handler.isNone ∧ c.p.frames.length ≤ c.u.depth + 1 ∧ (c.p.frameAt c.u.depth).size < n.toNat ∧ c.q.fbsize < backing c.p c.u.depth n.toNat
    then groupTrap c tFRAME 3 else []
  | _ => []

/-- The new frame of a call (R187, R192): its record, the arguments copied with marks and tags, the other registers filled. -/
abbrev Callee (c : Ctx) (n : Frame) (dem argc retc : BitVec 4) (ab : VReg) (rpc : DWord) : Prop :=
  n.rpc = rpc ∧ n.cmask = c.u.ig ∧ n.size = dem.toNat ∧ n.ab = ab.toNat ∧ n.retc = retc.toNat ∧ n.st = .resident ∧ n.onChip = true ∧
  (∀ r l, l < 32 → r < argc.toNat → c.all.getLsbD l = true → n.cell r l = c.cell (ab.toNat + r) l) ∧
  (∀ r l, l < 32 → argc.toNat ≤ r → r < 8 * dem.toNat → n.cell r l = initCell c.q.sninit r)

/-- The words of CALL and CALLX (R43), the target and the return address (R192). -/
def callParts (c : Ctx) : Instr → Option (BitVec 4 × BitVec 4 × BitVec 4 × VReg × (DWord × Option Nat) × DWord)
  | .call dem argc retc ab off => some (dem, argc, retc, ab, dest c off.toInt, c.ipc + 8)
  | .callx dem argc retc ab r => some (dem, argc, retc, ab, (c.p.sreg r.toNat, none), c.ipc + 4)
  | _ => none

/-- The granules asked for are granted at once: enough are free, and no request of the same or an earlier class waits (R199). -/
abbrev Granted (s : State) (u : Cur) (p : Pack) (cls n : Nat) : Prop :=
  p.req = none ∧ n ≤ s.poolFree u.core ∧ s.reqAhead u.core u.slot cls s.ownSteps = false

end Sys2Proof.Claims

/-- R191, R192, R193, R194, R195, R197: CALL, CALLX, RET, UNWIND and RESIZE trap FRAME or MISALIGN by the tests of their rules, in that order, and change nothing. -/
def Obligations.FrameInstructionsTrapBeforeAnyChange : Prop :=
  ∀ (i : Instr) (s : State) (u : Cur) (p : Pack), i.wf = true → Issues i s u p → frameTraps (ctxOf i s u p) i ≠ [] →
    OnlyTraps i s u p (frameTraps (ctxOf i s u p) i)

/-- R187, R188, R192: CALL and CALLX of the deepest frame, with their granules granted, complete: a frame one deeper with its record and arguments, and the callees at
the target. (At depth 7 and below the record of the frame seven above leaves the chip; there the statement leaves memory out.) -/
def Obligations.CallsEnterANewFrame : Prop :=
  ∀ (i : Instr) (s : State) (u : Cur) (p : Pack) (dem argc retc : BitVec 4) (ab : VReg) (tgt : DWord × Option Nat) (rpc : DWord) (b : Nat),
    i.wf = true → Issues i s u p → callParts (ctxOf i s u p) i = some (dem, argc, retc, ab, tgt, rpc) → frameTraps (ctxOf i s u p) i = [] →
    p.handler = none → p.frames.length = u.depth + 1 → Granted s u p 3 dem.toNat → findRun (s.poolRuns u.core) dem.toNat = some b →
    ∃ n : Frame, Callee (ctxOf i s u p) n dem argc retc ab rpc ∧ n.base = b ∧
      (u.depth + 1 < 8 → UnitDone i s u p
        { p.updLanes u.ig (fun x => { x.goto tgt with depth := u.depth + 1 }) with frames := p.frames ++ [n] } 0 []) ∧
      (8 ≤ u.depth + 1 → ∃ t q, exec i s = .next t ∧ t.pack? u.core u.slot = some q ∧ q.frames.length = u.depth + 2 ∧
        SameRec n (q.frames.getD (u.depth + 1) {}) ∧ (∀ r l, (q.frames.getD (u.depth + 1) {}).cell r l = n.cell r l) ∧
        (∀ l, u.ig.getLsbD l = true → (q.lane l).depth = u.depth + 1 ∧ (q.lane l).pc = tgt.1 ∧ (q.lane l).k = tgt.2) ∧ q.s = p.s ∧ q.m = p.m ∧ q.fpc = p.fpc)

/-- R193: RET copies its results to the caller's registers, value, mark and tag, makes its lanes returned to the caller's depth with the return address, and then
applies R186. -/
def Sys2Proof.Claims.RetCopiesResultsAndReturns : Prop :=
  ∀ (s : State) (u : Cur) (p : Pack) (g : Frame), Issues .ret s u p → frameTraps (ctxOf .ret s u p) .ret = [] → p.handler = none →
    (p.frames.getD u.depth {}).onChip = true → p.frames[u.depth - 1]? = some g → g.st = .resident →
    ∃ p1 : Pack, p1 = { p with frames := p1.frames } ∧ p1.frames.length = p.frames.length ∧
      (∀ e, SameRec (p.frames.getD e {}) (p1.frames.getD e {})) ∧
      (∀ e r l, e ≠ u.depth - 1 → (p1.frames.getD e {}).cell r l = (p.frames.getD e {}).cell r l) ∧
      (∀ r l, l < 32 → (p1.frames.getD (u.depth - 1) {}).cell r l =
        let f := p.frames.getD u.depth {}
        if f.ab ≤ r ∧ r < f.ab + f.retc ∧ r < 8 * g.size ∧ (ctxOf .ret s u p).all.getLsbD l = true then f.cell (r - f.ab) l else g.cell r l) ∧
      UnitDone .ret s u p ((p1.updLanes u.ig (Lane.ret (u.depth - 1) (p.frames.getD u.depth {}).rpc)).reap) 0 []

/-- R195: UNWIND makes its lanes returned over the frames it names, with the address of the last record it passes, copies nothing, and then applies R186;
UNWIND #0 at depth 0 goes on. -/
def Sys2Proof.Claims.UnwindReturnsAcrossFrames : Prop :=
  ∀ (s : State) (u : Cur) (p : Pack) (n : BitVec 8), Issues (.unwind n) s u p → frameTraps (ctxOf (.unwind n) s u p) (.unwind n) = [] →
    let k := if n = 0 then u.depth else n.toNat
    (k = 0 → UnitDone (.unwind n) s u p p u.ig []) ∧
    (k ≠ 0 → (p.frames.getD (u.depth - k + 1) {}).onChip = true →
      UnitDone (.unwind n) s u p ((p.updLanes u.ig (Lane.ret (u.depth - k) (p.frames.getD (u.depth - k + 1) {}).rpc)).reap) 0 [])

/-- R193, R195: with the record they need on chip, RET copies its results and returns, and UNWIND returns across frames. -/
def Obligations.RetAndUnwindReturnLanes : Prop := Claims.RetCopiesResultsAndReturns ∧ Claims.UnwindReturnsAcrossFrames

/-- R187, R194, R204: RESIZE of the deepest frame keeps the registers below the smaller size, drops those above it, and fills the ones it adds (a trap frame's with
zeros). A trap frame takes the granules it adds from the pool, at run b, and gives up its latest ones first (log 12). -/
def Sys2Proof.Claims.ResizeKeepsRegistersBelow : Prop :=
  ∀ (s : State) (u : Cur) (p : Pack) (n : BitVec 4) (b : Nat), (Instr.resize n).wf = true → Issues (.resize n) s u p → frameTraps (ctxOf (.resize n) s u p) (.resize n) = [] →
    (p.handler.isSome = true ∧ p.trapFrame.isSome = true ∨ p.handler = none ∧ p.frames.length = u.depth + 1) →
    let z := (p.frameAt u.depth).size
    let fill := if p.handler.isSome then VCell.mk 0 false false else {}
    (z < n.toNat → Granted s u p (if p.handler.isSome then 2 else 3) (n.toNat - z) ∧
      (p.handler.isSome = true ∧ findRun (s.poolRuns u.core) (n.toNat - z) = some b ∨ p.handler = none ∧ (p.frameAt u.depth).base + n.toNat ≤ 480 ∧
        ∀ r ∈ s.poolRuns u.core, r.1 = (p.frameAt u.depth).base ∨ r.1 + r.2 ≤ (p.frameAt u.depth).base ∨ (p.frameAt u.depth).base + n.toNat ≤ r.1)) →
    ∃ f : Frame, f.size = n.toNat ∧ f.rpc = (p.frameAt u.depth).rpc ∧ f.cmask = (p.frameAt u.depth).cmask ∧ f.ab = (p.frameAt u.depth).ab ∧ f.retc = (p.frameAt u.depth).retc ∧
      (∀ r l, l < 32 → r < 8 * n.toNat → f.cell r l =
        if r < 8 * z then (p.frameAt u.depth).cell r l
        else if p.handler.isSome then fill else initCell (ctxOf (.resize n) s u p).q.sninit r) ∧
      UnitDone (.resize n) s u p { p.updFrameAt u.depth (fun _ => f) with
        trapRuns := if p.handler = none ∨ n.toNat = z then p.trapRuns
          else if n.toNat < z then keepRuns (match p.trapFrame with | some (_, true) => n.toNat - 1 | _ => n.toNat) p.trapRuns
          else p.trapRuns ++ [(b, n.toNat - z)] } u.ig []

/-- R186, R196: after lanes return or exit, no finished frame is left on top; only the deepest frames were freed; a lane returned to the depth below a freed frame is
active there, at the address its RET or UNWIND gave it; exited lanes stay exited. -/
def Sys2Proof.Claims.FinishedFramesAreFreed : Prop :=
  ∀ p : Pack, (p.reap).topDone = false ∧ (p.reap).frames = p.frames.take (p.reap).frames.length ∧
    (∀ l, (p.lane l).st = .returned → (p.reap).frames.length ≤ (p.lane l).target + 1 → (p.lane l).target + 1 < p.frames.length →
      ((p.reap).lane l).st = .active ∧ ((p.reap).lane l).depth = (p.lane l).target ∧ ((p.reap).lane l).pc = (p.lane l).pc) ∧
    (∀ m l, l < 32 → m.getLsbD l = true → ((p.exitLanes m).lane l).st = .exited)

/-- R186, R187, R194, R196, R204: RESIZE, and the freeing of finished frames. -/
def Obligations.FramesResizeAndAreFreed : Prop := Claims.ResizeKeepsRegistersBelow ∧ Claims.FinishedFramesAreFreed

/-- R196, R223: EXIT below handler level makes its lanes exited and applies R186; nothing else changes. -/
def Sys2Proof.Claims.ExitEndsItsLanes : Prop :=
  ∀ (s : State) (u : Cur) (p : Pack), Issues .exit s u p → p.handler = none → UnitDone .exit s u p (p.exitLanes u.ig) 0 []

/-- R390, R193, R223: RET and EXIT at handler level end the delivery as endHandler says (EXIT as ACTION 3); the lanes of the group do not go on behind it. -/
def Sys2Proof.Claims.HandlerReturnEndsTheDelivery : Prop :=
  ∀ (i : Instr) (s : State) (u : Cur) (p e : Pack), i = .ret ∨ i = .exit → Issues i s u p → p.handler.isSome = true →
    (endHandler s u.core u.slot (i == .exit)).pack? u.core u.slot = some e →
    ∃ t q, exec i s = .next t ∧ t.pack? u.core u.slot = some q ∧ SameRest (endHandler s u.core u.slot (i == .exit)) t ∧
      SameCores (endHandler s u.core u.slot (i == .exit)) t ∧ Ends (ctxOf i s u p) e q 0 ∧ q.pending = e.pending

/-- R193, R196, R223, R390: EXIT ends its lanes; at handler level RET and EXIT end the delivery. -/
def Obligations.ExitAndHandlerReturnEndLanes : Prop := Claims.ExitEndsItsLanes ∧ Claims.HandlerReturnEndsTheDelivery

/-- R390: the end of a delivery reloads s24 to s31, m6 and m7 from the save area, frees the trap frame, and gives the lanes of H what ACTION says: their kept state
(CONTINUE), one execution at REPLAY first (REPLAY), NEWPC at their kept depth (REDIRECT), or exit (EXIT). Lanes outside H stay as they are but for R186 after an exit. -/
def Sys2Proof.Claims.EndOfDeliveryAppliesTheAction : Prop :=
  ∀ (s s1 s2 : State) (c sl : Nat) (p : Pack) (d : Delivery) (sv : List Byte) (exit : Bool) (a0 : Nat) (npc : DWord),
    s.pack? c sl = some p → p.handler = some d →
    s.pinRead c p.ctx (s.stackVa c sl p.ctx) 72 = (s1, some sv) → s1.readAction c p.ctx (s1.frBase p) = (s2, some (a0, npc)) →
    (∀ l, l < 32 → (d.h.getLsbD l = true ↔ (d.kept.find l).isSome = true)) →
    let a := if exit then 3 else a0
    ∃ q, (endHandler s c sl exit).pack? c sl = some q ∧ q.handler = none ∧ q.trapFrame = none ∧
      (∀ k, k < 8 → q.sreg (24 + k) = BitVec.ofNat 64 (leNat ((sv.drop (8 * k)).take 8))) ∧ (∀ k, k < 24 → q.sreg k = p.sreg k) ∧
      q.m.getD 6 0 = BitVec.ofNat 32 (leNat ((sv.drop 64).take 4)) ∧ q.m.getD 7 0 = BitVec.ofNat 32 (leNat ((sv.drop 68).take 4)) ∧
      (∀ l, l < 32 → d.h.getLsbD l = true → (p.lane l).st ≠ .exited → ∀ x, d.kept.find l = some x → x.st ≠ .exited →
        (a = 0 → (q.lane l).st = .active ∧ (q.lane l).released = true ∧ (q.lane l).replay = d.trap.replay ∧ (q.lane l).replayK = d.trap.k ∧
          (q.lane l).depth = x.depth ∧ (q.lane l).count = x.count) ∧
        (a = 1 → (q.lane l).pc = x.pc ∧ (q.lane l).k = x.k ∧ (q.lane l).depth = x.depth ∧ (q.lane l).st = x.st) ∧
        (a = 2 → (q.lane l).pc = npc ∧ (q.lane l).k = none ∧ (q.lane l).depth = x.depth ∧ (q.lane l).st = .active ∧ (q.lane l).count = 0) ∧
        (a = 3 → (q.lane l).st = .exited)) ∧
      (a ≠ 3 → ∀ l, l < 32 → d.h.getLsbD l = false → q.lane l = p.lane l)

/-- R392: TRAP, BKPT and SYSCALL raise TRAPI, BKPT and SYSCALL for the group with the immediate as detail; the lanes stand behind the instruction. -/
def Obligations.SoftwareTrapsAreRaised : Prop :=
  ∀ (i : Instr) (n : BitVec 18) (code : Nat) (s : State) (u : Cur) (p : Pack),
    (i = .trap n ∧ code = 17) ∨ (i = .bkpt n ∧ code = 16) ∨ (i = .syscall n ∧ code = 18) → Issues i s u p →
    OnlyTraps i s u p ((lanesOf u.ig).map (fun l => { l := l, code := code, detail := n.toNat }))

/-- R64, R393: MACRO sends its group to word 0 of the image in its slot, under its own address; an empty slot traps ILLOP with detail 2. -/
def Obligations.MacroEntersTheMicroprogram : Prop :=
  ∀ (q : BitVec 7) (k : BitVec 6) (s : State) (u : Cur) (p : Pack), Issues (.mprog q k) s u p → (s.core u.core).csWait.has k.toNat = false →
    (∀ w ws, (s.core u.core).mprogs.find k.toNat = some (w :: ws) →
      UnitDone (.mprog q k) s u p (p.updLanes u.ig (fun x => { x.goto (u.pc, some 0) with mslot := k.toNat, mbase := q.toNat })) 0 []) ∧
    (((s.core u.core).mprogs.find k.toNat).getD [] = [] → OnlyTraps (.mprog q k) s u p (groupTrap (ctxOf (.mprog q k) s u p) tILLOP 2))

/-- R6, R45, R81, R394: SRD writes the register's value to sD; SWR of FPC replaces the flags and takes rounding modes 0 to 4 only; SWR of a read-only register does
nothing; unassigned numbers trap ILLOP and SWR of a supervisor register traps PRIV. -/
def Sys2Proof.Claims.SpecialRegisterAccess : Prop :=
  ∀ (d : BitVec 7) (r : BitVec 12) (s : State) (u : Cur) (p : Pack),
    (Issues (.srd d r) s u p → (srInfo r.toNat).isSome = true → (r = 0x30 → fpcWait p = false) →
      ScalarDone (.srd d r) s u p d.toNat (BitVec.ofNat 64 (srValue s u.core u.slot u.depth r.toNat))) ∧
    (Issues (.swr d r) s u p → r = 0x30 → fpcWait p = false →
      ∃ q : Pack, UnitDone (.swr d r) s u p { p with fpc := q.fpc } u.ig [] ∧
        (∀ k, k < 64 → q.fpc.getLsbD k =
          if k < 3 then (if (p.sreg d.toNat).toNat % 8 ≤ 4 then (p.sreg d.toNat).getLsbD k else p.fpc.getLsbD k)
          else if 4 ≤ k ∧ k ≤ 8 then (p.sreg d.toNat).getLsbD k else p.fpc.getLsbD k)) ∧
    (Issues (.swr d r) s u p → (∃ x, srInfo r.toNat = some (.ro, x)) → UnitDone (.swr d r) s u p p u.ig []) ∧
    (Issues (.swr d r) s u p → (∃ x, srInfo r.toNat = some (.sw, x)) → OnlyTraps (.swr d r) s u p (groupTrap (ctxOf (.swr d r) s u p) tPRIV 1)) ∧
    (Issues (.srd d r) s u p → srInfo r.toNat = none → OnlyTraps (.srd d r) s u p (groupTrap (ctxOf (.srd d r) s u p) tILLOP 0)) ∧
    (Issues (.swr d r) s u p → srInfo r.toNat = none → OnlyTraps (.swr d r) s u p (groupTrap (ctxOf (.swr d r) s u p) tILLOP 0))

/-- R447: what the special registers of the core, the pack and the package read as. -/
def Sys2Proof.Claims.SpecialRegisterValues : Prop :=
  ∀ (s : State) (c sl d : Nat), srValue s c sl d 0x000 = c ∧ srValue s c sl d 0x001 = c / 16 ∧ srValue s c sl d 0x002 = s.pkgId ∧ srValue s c sl d 0x004 = s.cycle % 2 ^ 64 ∧
    srValue s c sl d 0x010 = (s.core c).lanemap.toNat ∧ srValue s c sl d 0x021 = (match (s.pack c sl).handler with | some h => h.trap.depth + 256 | none => d) ∧
    srValue s c sl d 0x022 = ((s.pack c sl).frameAt d).size ∧ srValue s c sl d 0x030 = (s.pack c sl).fpc.toNat ∧ srValue s c sl d 0x060 = (s.pack c sl).collStatus.toNat ∧
    (∀ k, k < 16 → srValue s c sl d (0x100 + k) = ((s.core c).evsel.getD k 0).toNat ∧ srValue s c sl d (0x110 + k) = ((s.core c).evcnt.getD k 0).toNat) ∧
    (∀ k, k < 8 → srValue s c sl d (0x120 + k) = ((s.core c).idle.getD k 0).toNat)

/-- R6, R45, R81, R394, R447: SRD and SWR, and what every special register reads as. -/
def Obligations.SpecialRegistersReadAndWrite : Prop := Claims.SpecialRegisterAccess ∧ Claims.SpecialRegisterValues

/-- R395: WAITEV with a pending event of its classes returns them in sD and clears them; otherwise its group waits, its limit counted from now. -/
def Obligations.WaitevTakesOrAwaitsEvents : Prop :=
  ∀ (d : BitVec 7) (cl : BitVec 8) (s : State) (u : Cur) (p : Pack), Issues (.waitev d cl) s u p →
    (p.evpend &&& cl ≠ 0 → UnitDone (.waitev d cl) s u p { p.setS d.toNat ((p.evpend &&& cl).setWidth 64) with evpend := p.evpend &&& ~~~cl } u.ig []) ∧
    (p.evpend &&& cl = 0 → ∃ f : Lane → Lane, (∀ x, (f x).st = .waiting ∧ (f x).why = .event ∧ (f x).depth = x.depth ∧
        (f x).pc = (if x.stands then x.pc else (ctxOf (.waitev d cl) s u p).next)) ∧
      UnitDone (.waitev d cl) s u p { p.updLanes u.ig f with
        waitev := p.waitev ++ [(u.ig, d.toNat, cl, if p.sreg d.toNat = 0 then none else some (s.cycle + (p.sreg d.toNat).toNat))] } 0 [])

namespace Sys2Proof.Claims

/-! ## Memory accesses (R139 to R146, R246) -/

/-- A load or store: first data register, address register and its width in registers, each lane's address (R139), width code (R49). -/
structure MemWant where
  d : VReg
  a : VReg
  na : Nat
  addr : Nat → LAddr
  w : Nat

/-- The three address forms of R139: a VA, an offset into the scratchpad family, a lane-private offset. -/
def addrOf (c : Ctx) (form : Nat) (a : VReg) (im : Imm 4) (scale l : Nat) : LAddr :=
  match form with
  | 0 => .va (c.rv2 a l + BitVec.ofInt 64 (immM im scale))
  | 1 => .off ((c.rv a l).toNat + immM im scale)
  | _ => .priv ((c.rv a l).toNat + immM im scale)

def loadWant (c : Ctx) : Instr → Option MemWant
  | .ld _ d a w im _ => some ⟨d, a, 2, addrOf c 0 a im (wBytes w.toNat), w.toNat⟩
  | .lds _ d a w im _ => some ⟨d, a, 1, addrOf c 1 a im (wBytes w.toNat), w.toNat⟩
  | .ldx _ d a w im _ => some ⟨d, a, 1, addrOf c 2 a im (wBytes w.toNat), w.toNat⟩
  | _ => none

def storeWant (c : Ctx) : Instr → Option MemWant
  | .st _ d a w im _ => some ⟨d, a, 2, addrOf c 0 a im (wBytes w.toNat), w.toNat⟩
  | .sts _ d a w im _ => some ⟨d, a, 1, addrOf c 1 a im (wBytes w.toNat), w.toNat⟩
  | .stx _ d a w im _ => some ⟨d, a, 1, addrOf c 2 a im (wBytes w.toNat), w.toNat⟩
  | _ => none

/-- Registers of a width code (R49, R140). -/
def regsOf (w : Nat) : Nat := if w = 6 then 4 else if w = 5 then 2 else 1

/-- Register k of a loaded value from its bytes, the lowest address first (R4, R140). -/
def loaded (w : Nat) (b : Nat → Byte) (k : Nat) : Word :=
  match w with
  | 0 => (b 0).setWidth 32
  | 1 => (b 0).signExtend 32
  | 2 => (b 1 ++ b 0).setWidth 32
  | 3 => (b 1 ++ b 0).signExtend 32
  | _ => b (4 * k + 3) ++ b (4 * k + 2) ++ b (4 * k + 1) ++ b (4 * k)

/-- The bytes register k takes. -/
def bytesOf (w k : Nat) : List Nat := if w ≤ 4 then List.range (wBytes w) else (List.range 4).map (4 * k + ·)

/-- Is the register that gives byte j of a lane's store poisoned (R137)? And the byte: its registers, lowest first; the computed registers hold one register (R34). -/
def storedPsn (c : Ctx) (d : VReg) (l j : Nat) : Bool := decide (d.toNat ≤ 111) && (c.cell (d.toNat + j / 4) l).psn

def stored (c : Ctx) (d : VReg) (w l j : Nat) : Byte :=
  if d.toNat ≤ 111 ∨ w ≤ 4 then BitVec.ofNat 8 ((c.cell (d.toNat + j / 4) l).val.toNat / 256 ^ (j % 4)) else 0

/-- Every accessing lane has an address without poison; in paired-lane mode its partner's is the same (R137, R419). -/
abbrev CleanAddr (c : Ctx) (a : VReg) (na : Nat) (addr : Nat → LAddr) : Prop :=
  ∀ l, l ∈ c.accessors → c.psn a na l = false ∧ (c.q.paired = true → c.psn a na (l + 16) = false ∧ addr l = addr (l + 16))

/-- Every lane's access has its n places, found without a page walk: space, bounds, alignment, rights and watchpoints let it go (R96, R106, R140, R142, R442). -/
abbrev Reaches (c : Ctx) (s0 : State) (v : Via) (w : MemWant) (rd wr : Bool) (pl : Nat → List Place) : Prop :=
  ∀ l, l ∈ c.accessors → (pl l).length = wBytes w.w ∧
    laneAccess c v l (w.addr l) 0 (wBytes w.w) (wBytes w.w) (wAlign w.w) rd wr s0 = (s0, .go (pl l))

/-- No L1's copy of a place's line has met an error that its home does not know of (R413). -/
def placeWhole (s : State) : Place → Bool
  | .mem _ pa => s.l1.all (fun x => x.1 % 2 ^ 46 != pa / 64 || !x.2.psn)
  | _ => true

/-- The line of a place has no latent error and no L1 a copy that met one (R413), its home is this package's or another's that is there (R99), it was last
written under the key it is accessed with (R429). -/
def placeSound (s : State) : Place → Bool
  | .mem a pa => !s.latent.has (pa / 64) && !s.inMirror pa && s.lineTag pa == s.keyTag a pa && placeWhole s (.mem a pa)
  | .spad c off => (s.cores.find c).isSome && !s.latent.has (spadLatent c off)
  | .chip _ => true

/-- No pack waits on the barrier object that a place lies in, and no engine's arrival is held on it (R298). -/
def placeCalm (s : State) : Place → Bool
  | .spad c off => !(s.core c).barHeld.has (off / 16 * 16) && !s.packs.any (fun kp => kp.2.anyWhere (Lane.waitsBar c (off / 16 * 16)) != 0)
  | _ => true

def samePlace : Place → Place → Bool
  | .mem _ x, .mem _ y => x == y
  | .spad c x, .spad d y => c == d && x == y
  | .chip x, .chip y => x == y
  | _, _ => false

def sameLine : Place → Place → Bool
  | .mem _ x, .mem _ y => x / 64 == y / 64
  | .spad c x, .spad d y => c == d && x / 64 == y / 64
  | .chip x, .chip y => x / 64 == y / 64
  | _, _ => false

/-- What L1 lines that come, go and are written back may change (R135, R138, R356, R432): no byte of memory is among it. -/
def l1Moved (s t : State) : State :=
  { s with l1 := t.l1, memPsn := t.memPsn, mirrorPend := t.mirrorPend, diePower := t.diePower, dieIdle := t.dieIdle, ownDraws := t.ownDraws }

/-- What writes to memory may change beside the bytes: the L1s, the directory and its counters (R138), the buddy's mirror (R99); harts lose reservations. -/
def linesWritten (s t : State) : State :=
  { l1Moved s t with mem := t.mem, mirror := t.mirror, chip := t.chip, chipPsn := t.chipPsn, dir := t.dir, predict := t.predict, harts := t.harts }

/-- Of a hart only its reservation may have gone. -/
abbrev SameHarts (s t : State) : Prop := ∀ k, t.harts.find k = s.harts.find k ∨ t.harts.find k = (s.harts.find k).map (fun h => { h with resv := none })

/-- A memory unit's end: of the state beside packs, cores and messages only what the L1s hold may have changed; a line becomes poisoned only by a copy of it. -/
abbrev ReadUnit (c : Ctx) (s t : State) (u : Cur) (p q : Pack) : Prop :=
  t.pack? u.core u.slot = some q ∧ t = { l1Moved s t with packs := t.packs, cores := t.cores, nextId := t.nextId, outbox := t.outbox } ∧ SameCores s t ∧
  (∀ x, placeWhole s x = true → t.placePsn x = s.placePsn x) ∧ SameOthers s t u ∧ SameBytes s t ∧ PackBut p q ∧ LanesOn c p q u.ig

/-- A storing unit's end: memory, its poison marks and its L1 marks have changed. -/
abbrev WriteUnit (c : Ctx) (s t : State) (u : Cur) (p q : Pack) : Prop :=
  t.pack? u.core u.slot = some q ∧ t = { linesWritten s t with packs := t.packs, cores := t.cores, nextId := t.nextId, outbox := t.outbox } ∧ SameHarts s t ∧
  (∀ k, t.core k = { s.core k with evcnt := (t.core k).evcnt, trq := (t.core k).trq, spad := (t.core k).spad, spadPsn := (t.core k).spadPsn }) ∧
  SameOthers s t u ∧ PackBut p q ∧ LanesOn c p q u.ig

/-- Memory after byte writes in this order, poisoned or not: the last one to a byte stays, every other byte (read under the key its line was written under, or of a
line not written) reads as before; where no byte is written twice, the lines that take a poisoned byte become poisoned and no other (R136, R142). -/
abbrev Stored (s t : State) (ws : List (Place × Byte × Bool)) : Prop :=
  (∀ x : Place, (match x with | .mem a pa => s.lineTag pa == s.keyTag a pa || !ws.any (fun y => sameLine y.1 x) | _ => true) = true →
    t.placeByte x = match ws.reverse.find? (fun y => samePlace y.1 x) with | some y => y.2.1 | none => s.placeByte x) ∧
  (ws.Pairwise (fun y z => samePlace y.1 z.1 = false) → ∀ x : Place, placeWhole s x = true → t.placePsn x = (s.placePsn x || ws.any (fun y => y.2.2 && sameLine y.1 x)))

/-- No byte is provisional (R421), and the launch records no reads (R425). -/
abbrev PlainRun (c : Ctx) : Prop := c.s.prov = [] ∧ c.s.isReplayable (c.s.wg c.p.wg).uid = false ∧ c.q.rec_ = false

/-- Does lane l take what its accessor (itself, or its partner's lane) reads (R419)? -/
def takes (c : Ctx) (l : Nat) : Bool := c.accessors.contains (c.lid l)

/-- Words a lane still has to move in LDM and STM (R144). -/
def wordsLeft (c : Ctx) (n l : Nat) : List Nat := (List.range n).filter (fun i => decide ((c.p.lane l).count ≤ i))

/-- The access of a CCTL lane (R146): in the scratchpad family the 64-byte block of its offset, elsewhere a byte at its address. -/
def lineAccess (c : Ctx) (v : Via) (op l : Nat) (la : LAddr) : State × LaneGot :=
  match la.decode c.s.pkgId with
  | .ok (.spad f) => laneAccess c v l (.off (f / 64 * 64 : Nat)) 0 (if op = 5 then 64 else 1) (if op = 5 then 64 else 1) 1 false (op == 5) c.s
  | _ => laneAccess c v l la 0 1 1 1 (op != 5) (op == 5) c.s

end Sys2Proof.Claims

/-- R137, R139, R140, R141, R143, R419: LD, LDS and LDX give each unmasked lane the bytes at its address, extended as W says, with the poison of their lines; masked lanes
keep or zero theirs; no byte of memory changes. -/
def Obligations.LoadsGiveLanesTheirBytes : Prop :=
  ∀ (i : Instr) (s : State) (u : Cur) (p : Pack) (w : MemWant) (pl : Nat → List Place), i.wf = true → Issues i s u p → loadWant (ctxOf i s u p) i = some w →
    (ctxOf i s u p).q.rec_ = false → CleanAddr (ctxOf i s u p) w.a w.na w.addr →
    Reaches (ctxOf i s u p) (zeroMasked (ctxOf i s u p) w.d.toNat (regsOf w.w) s) ((ctxOf i s u p).via 0 needR) w true false pl →
    (∀ l ∈ (ctxOf i s u p).accessors, ∀ x ∈ pl l, placeSound s x = true) →
    ∃ t q, exec i s = .next t ∧ ReadUnit (ctxOf i s u p) s t u p q ∧
      CellsAre p q u.depth w.d.toNat (regsOf w.w) (fun l k =>
        if takes (ctxOf i s u p) l then
          let b := fun j => (pl ((ctxOf i s u p).lid l)).getD j (.chip 0)
          some { val := loaded w.w (fun j => s.placeByte (b j)) k, psn := (bytesOf w.w k).any (fun j => s.placePsn (b j)) }
        else if (ctxOf i s u p).masked.getLsbD l && (ctxOf i s u p).pfx.mz then some {} else none) ∧
      OtherFrames p q u.depth ∧ q.s = p.s ∧ q.m = p.m ∧ q.fpc = p.fpc ∧ q.pending = withTraps p.pending s u (ctxOf i s u p).tagged

/-- R136, R137, R139 to R143, R419: ST, STS and STX write each unmasked lane's bytes at its address, the highest lane's last, and no other byte; no register changes. -/
def Obligations.StoresWriteTheirBytes : Prop :=
  ∀ (i : Instr) (s : State) (u : Cur) (p : Pack) (w : MemWant) (pl : Nat → List Place), i.wf = true → s.legal = true → Issues i s u p →
    storeWant (ctxOf i s u p) i = some w → PlainRun (ctxOf i s u p) → CleanAddr (ctxOf i s u p) w.a w.na w.addr →
    ((ctxOf i s u p).q.paired = true → ∀ l ∈ (ctxOf i s u p).accessors, ∀ j, j < wBytes w.w →
      stored (ctxOf i s u p) w.d w.w l j = stored (ctxOf i s u p) w.d w.w (l + 16) j) →
    Reaches (ctxOf i s u p) s ((ctxOf i s u p).via 1 needW) w false true pl →
    (∀ l ∈ (ctxOf i s u p).accessors, ∀ x ∈ pl l, placeSound s x = true ∧ placeCalm s x = true) →
    ∃ t q, exec i s = .next t ∧ WriteUnit (ctxOf i s u p) s t u p q ∧
      Stored s t ((ctxOf i s u p).accessors.flatMap (fun l => (List.range (wBytes w.w)).map (fun j =>
        ((pl l).getD j (.chip 0), stored (ctxOf i s u p) w.d w.w l j, storedPsn (ctxOf i s u p) w.d l j)))) ∧
      SameRegs p q u.depth ∧ q.s = p.s ∧ q.m = p.m ∧ q.fpc = p.fpc ∧ q.pending = withTraps p.pending s u (ctxOf i s u p).tagged

/-- R144: LDM and STM move the words a lane's transfer count leaves, of W + 1 words, between its registers and its address, and set the count to 0. -/
def Obligations.MultipleTransfersMoveTheirWords : Prop :=
  ∀ (pf : Option Pfx) (d a : VReg) (w : BitVec 3) (im : Imm 4) (la : BitVec 4) (s : State) (u : Cur) (p : Pack) (pl : Nat → Nat → List Place),
    (let i := Instr.ldm pf d a w im la
     let c := ctxOf i s u p
     let s0 := zeroMasked c d.toNat (w.toNat + 1) s
     i.wf = true → Issues i s u p → c.q.rec_ = false → CleanAddr c a 2 (addrOf c 0 a im 4) →
     (∀ l ∈ c.accessors, ∀ k ∈ wordsLeft c (w.toNat + 1) l, (pl l k).length = 4 ∧ (∀ x ∈ pl l k, placeSound s x = true) ∧
       laneAccess c (c.via 0 needR) l (addrOf c 0 a im 4 l) (4 * k) 4 (4 * (w.toNat + 1)) 4 true false s0 = (s0, .go (pl l k))) →
     ∃ t q, exec i s = .next t ∧ ReadUnit c s t u p q ∧
       CellsAre p q u.depth d.toNat (w.toNat + 1) (fun l k =>
         if takes c l && (wordsLeft c (w.toNat + 1) (c.lid l)).contains k then
           some { val := loaded 4 (fun j => s.placeByte ((pl (c.lid l) k).getD j (.chip 0))) 0, psn := (pl (c.lid l) k).any s.placePsn }
         else if c.masked.getLsbD l && c.pfx.mz then some {} else none) ∧
       (∀ l ∈ c.accessors, (q.lane l).count = 0) ∧
       OtherFrames p q u.depth ∧ q.s = p.s ∧ q.m = p.m ∧ q.fpc = p.fpc ∧ q.pending = withTraps p.pending s u c.tagged) ∧
    (let i := Instr.stm pf d a w im la
     let c := ctxOf i s u p
     i.wf = true → s.legal = true → Issues i s u p → PlainRun c → CleanAddr c a 2 (addrOf c 0 a im 4) →
     (c.q.paired = true → ∀ l ∈ c.accessors, ∀ k, k < w.toNat + 1 → (c.cell (d.toNat + k) l).val = (c.cell (d.toNat + k) (l + 16)).val) →
     (∀ l ∈ c.accessors, ∀ k ∈ wordsLeft c (w.toNat + 1) l, (pl l k).length = 4 ∧ (∀ x ∈ pl l k, placeSound s x = true ∧ placeCalm s x = true) ∧
       laneAccess c (c.via 1 needW) l (addrOf c 0 a im 4 l) (4 * k) 4 (4 * (w.toNat + 1)) 4 false true s = (s, .go (pl l k))) →
     ∃ t q, exec i s = .next t ∧ WriteUnit c s t u p q ∧
       Stored s t (c.accessors.flatMap (fun l => (wordsLeft c (w.toNat + 1) l).flatMap (fun k => (List.range 4).map (fun j =>
         ((pl l k).getD j (.chip 0), BitVec.ofNat 8 ((c.cell (d.toNat + k) l).val.toNat / 256 ^ j), (c.cell (d.toNat + k) l).psn))))) ∧
       (∀ l ∈ c.accessors, (q.lane l).count = 0) ∧
       SameRegs p q u.depth ∧ q.s = p.s ∧ q.m = p.m ∧ q.fpc = p.fpc ∧ q.pending = withTraps p.pending s u c.tagged)

/-- R145, R246: SLD, SST and LDC move one value between an s register and memory or the argument store, once for the pack; SLD and LDC of poison, and an LDC
outside its arguments or misaligned, trap the group and write nothing. -/
def Obligations.ScalarLoadsAndStores : Prop :=
  ∀ (d a : BitVec 7) (w : BitVec 3) (im : Imm 4) (la : BitVec 4) (s : State) (u : Cur) (p : Pack) (pl : List Place),
    (let i := Instr.sld d a w im la
     let c := ctxOf i s u p
     let va := p.sreg a.toNat + BitVec.ofInt 64 (immM im (wBytes w.toNat))
     i.wf = true → Issues i s u p → c.q.rec_ = false → va.toNat / 2 ^ 56 ≠ 0xF1 → pl.length = wBytes w.toNat → (∀ x ∈ pl, placeSound s x = true) →
     laneAccess c (c.via 0 needR) ((lanesOf u.ig).headD 0) (.va va) 0 (wBytes w.toNat) (wBytes w.toNat) (wAlign w.toNat) true false s = (s, .go pl) →
     ∃ t q, exec i s = .next t ∧ ReadUnit c s t u p q ∧ SameRegs p q u.depth ∧ q.m = p.m ∧ q.fpc = p.fpc ∧
       (pl.any s.placePsn = false → q.pending = p.pending ∧ ∀ j, q.sreg j = if j = d.toNat then
          (let b := fun k => s.placeByte (pl.getD k (.chip 0))
           if w = 5 then loaded 5 b 1 ++ loaded 5 b 0 else if w = 1 ∨ w = 3 then (loaded w.toNat b 0).signExtend 64 else (loaded w.toNat b 0).setWidth 64)
          else p.sreg j) ∧
       (pl.any s.placePsn = true → q.s = p.s ∧ q.pending = withTraps p.pending s u (groupTrap c tPOISON 0))) ∧
    (let i := Instr.sst d a w im la
     let c := ctxOf i s u p
     let va := p.sreg a.toNat + BitVec.ofInt 64 (immM im (wBytes w.toNat))
     i.wf = true → s.legal = true → Issues i s u p → PlainRun c → va.toNat / 2 ^ 56 ≠ 0xF1 → pl.length = wBytes w.toNat → (∀ x ∈ pl, placeSound s x = true ∧ placeCalm s x = true) →
     laneAccess c (c.via 1 needW) ((lanesOf u.ig).headD 0) (.va va) 0 (wBytes w.toNat) (wBytes w.toNat) (wAlign w.toNat) false true s = (s, .go pl) →
     ∃ t q, exec i s = .next t ∧ WriteUnit c s t u p q ∧
       Stored s t (pl.zipIdx.map (fun x => (x.1, BitVec.ofNat 8 ((p.sreg d.toNat).toNat / 256 ^ x.2), false))) ∧
       SameRegs p q u.depth ∧ q.s = p.s ∧ q.m = p.m ∧ q.fpc = p.fpc ∧ q.pending = p.pending) ∧
    (let i := Instr.ldc d a w im la
     let c := ctxOf i s u p
     let x : Int := (p.sreg a.toNat).toNat + immM im (wBytes w.toNat)
     let at_ := (s.wg p.wg).arg0 + x.toNat
     let b := fun k => ((s.core u.core).args.find (at_ + k)).getD 0
     i.wf = true → Issues i s u p → c.q.rec_ = false →
     (x < 0 ∨ c.q.argsize < x + wBytes w.toNat → OnlyTraps i s u p (groupTrap c tACCESS 0 (BitVec.ofInt 64 x))) ∧
     (0 ≤ x → x + wBytes w.toNat ≤ c.q.argsize → x % wBytes w.toNat ≠ 0 → OnlyTraps i s u p (groupTrap c tMISALIGN 0 (BitVec.ofInt 64 x))) ∧
     (0 ≤ x → x + wBytes w.toNat ≤ c.q.argsize → x % wBytes w.toNat = 0 → (s.core u.core).argsPsn.has (at_ / 64) = true → OnlyTraps i s u p (groupTrap c tPOISON 0)) ∧
     (0 ≤ x → x + wBytes w.toNat ≤ c.q.argsize → x % wBytes w.toNat = 0 → (s.core u.core).argsPsn.has (at_ / 64) = false →
       ScalarDone i s u p d.toNat
         (if w = 5 then loaded 5 b 1 ++ loaded 5 b 0 else if w = 1 ∨ w = 3 then (loaded w.toNat b 0).signExtend 64 else (loaded w.toNat b 0).setWidth 64)))

/-- R135, R136, R146: CCTL zero writes 64 zero bytes to each line it names and clears its poison; inv drops what this core's L1 holds dirty of a line not of class 01,
so that the bytes and the poison of its home show; the other operations change no byte. No register changes. -/
def Obligations.CacheControlActsOnLines : Prop :=
  ∀ (a : VReg) (w : BitVec 3) (im : Imm 4) (la : BitVec 4) (s : State) (u : Cur) (p : Pack) (pl : Nat → Place) (ps : Nat → List Place),
    let i := Instr.cctl a w im la
    let c := ctxOf i s u p
    let v := c.via 6 (if w = 5 then needW else if w = 3 ∨ w = 4 then {} else needR)
    i.wf = true → s.legal = true → Issues i s u p → PlainRun c → CleanAddr c a 2 (addrOf c 0 a im 64) →
    (∀ l ∈ c.accessors, lineAccess c v w.toNat l (addrOf c 0 a im 64 l) = (s, .go (pl l :: ps l)) ∧ placeSound s (pl l) = true) →
    ∃ t q, exec i s = .next t ∧ SameRegs p q u.depth ∧ q.s = p.s ∧ q.m = p.m ∧ q.fpc = p.fpc ∧ q.pending = withTraps p.pending s u c.tagged ∧
      WriteUnit c s t u p q ∧
      (w = 5 → ∀ x, placeSound s x = true → t.placeByte x = (if c.accessors.any (fun l => sameLine (pl l) x) then 0 else s.placeByte x) ∧
        t.placePsn x = (s.placePsn x && !c.accessors.any (fun l => sameLine (pl l) x))) ∧
      (w = 1 → ∀ x, placeSound s x = true →
        let named := fun (pa : Nat) => c.accessors.any (fun l => (match pl l with | .mem e b => e.oc != 1 && b / 64 == pa / 64 | _ => false))
        t.placePsn x = (match x with
          | .mem _ pa => (match s.l1Line u.core (pa / 64) with
            | some y => if named pa && !y.home.isEmpty then y.homePsn else s.placePsn x
            | none => s.placePsn x)
          | _ => s.placePsn x) ∧
        t.placeByte x = (match x with
          | .mem _ pa => (match s.l1Line u.core (pa / 64) with
            | some y => if named pa then (y.home.find (pa % 64)).getD (s.placeByte x) else s.placeByte x
            | none => s.placeByte x)
          | _ => s.placeByte x)) ∧
      (w ≠ 1 → w ≠ 5 → SameBytes s t)

namespace Sys2Proof.Claims

/-! ## Atomics (R286 to R294) -/

/-- `atomic_op` of R287: the new value and ok, from numbers of w bits. -/
def atomicWant (k w old v c : Nat) : Nat × Bool :=
  let int := fun (x : Nat) => (BitVec.ofNat w x).toInt
  let wrap := fun (x : Int) => (BitVec.ofInt w x).toNat
  match k with
  | 0 => (wrap (old + v), true)
  | 1 => (wrap (old - v), true)
  | 2 => (wrap (min (int old) (int v)), true)
  | 3 => (wrap (max (int old) (int v)), true)
  | 4 => (min old v, true)
  | 5 => (max old v, true)
  | 6 => ((BitVec.ofNat w old &&& BitVec.ofNat w v).toNat, true)
  | 7 => ((BitVec.ofNat w old ||| BitVec.ofNat w v).toNat, true)
  | 8 => ((BitVec.ofNat w old ^^^ BitVec.ofNat w v).toNat, true)
  | 9 => (v, true)
  | 10 => (v, decide (old = c))
  | 11 => (if c ≤ old then 0 else old + 1, true)
  | 12 => (old + v, decide (old + v ≤ c))
  | _ => ((addF f32 0 old v).1, true)

/-- An ATOM or RED: operands, width in bits, operation (R284, R285). -/
structure AtomWant where
  a : VReg
  b : VReg
  c : VReg
  w64 : Bool
  k : Nat

def atomWant : Instr → Option AtomWant
  | .atom _ a b _ _ _ cc width _ _ k => some ⟨a, b, cc, width == 1, k.toNat⟩
  | .red _ a b _ _ _ cc width _ _ k => some ⟨a, b, cc, width == 1, k.toNat⟩
  | _ => none

def AtomWant.n (x : AtomWant) : Nat := if x.w64 then 8 else 4
def AtomWant.regs (x : AtomWant) : Nat := if x.w64 then 2 else 1

/-- A lane's v and c (R284); operations that have none read nothing. -/
def vOf (x : AtomWant) (c : Ctx) (l : Nat) : Nat := if x.k = 11 then 0 else if x.w64 then (c.rv2 x.b l).toNat else (c.rv x.b l).toNat
def cOf (x : AtomWant) (c : Ctx) (l : Nat) : Nat := if x.k = 10 ∨ x.k = 11 ∨ x.k = 12 then (if x.w64 then (c.rv2 x.c l).toNat else (c.rv x.c l).toNat) else 0
def psnIn (x : AtomWant) (c : Ctx) (l : Nat) : Bool := (x.k != 11 && c.psn x.b x.regs l) || ((x.k == 10 || x.k == 11 || x.k == 12) && c.psn x.c x.regs l)

/-- Do two lanes act on the same location? -/
def sameLoc (pl : Nat → List Place) (l j : Nat) : Bool := samePlace ((pl l).headD (.chip 0)) ((pl j).headD (.chip 0))

/-- Lanes that perform their step: not those of a `faddb` whose location is poisoned (R294). -/
def performs (x : AtomWant) (s : State) (pl : Nat → List Place) (l : Nat) : Bool := !(x.k == 12 && (pl l).any s.placePsn)

/-- What a lane's location holds before its step: what the lanes below it left, in ascending order (R286). -/
def oldOf (x : AtomWant) (c : Ctx) (s : State) (pl : Nat → List Place) (l : Nat) : Nat :=
  (c.accessors.filter (fun j => decide (j < l) && sameLoc pl l j && performs x s pl j)).foldl
    (fun v j => let r := atomicWant x.k (8 * x.n) v (vOf x c j) (cOf x c j); if r.2 then r.1 else v)
    (leNat ((pl l).map s.placeByte))

def resOf (x : AtomWant) (c : Ctx) (s : State) (pl : Nat → List Place) (l : Nat) : Nat × Bool :=
  atomicWant x.k (8 * x.n) (oldOf x c s pl l) (vOf x c l) (cOf x c l)

/-- The bytes the steps write, in order; a poisoned operand poisons its line whether or not the step stores a new value (R294). -/
def atomStores (x : AtomWant) (c : Ctx) (s : State) (pl : Nat → List Place) : List (Place × Byte × Bool) :=
  (c.accessors.filter (fun l => performs x s pl l && ((resOf x c s pl l).2 || psnIn x c l))).flatMap (fun l => (pl l).zipIdx.map (fun y =>
    (y.1, BitVec.ofNat 8 ((if (resOf x c s pl l).2 then (resOf x c s pl l).1 else oldOf x c s pl l) / 256 ^ y.2), psnIn x c l)))

/-- The location's poison as a lane meets it (R294): its line's, and that of a poisoned operand a lane below wrote. -/
def psnMet (x : AtomWant) (c : Ctx) (s : State) (pl : Nat → List Place) (l : Nat) : Bool :=
  (pl l).any s.placePsn || (c.accessors.filter (fun j => decide (j < l) && performs x s pl j && psnIn x c j)).any
    (fun j => sameLine ((pl l).headD (.chip 0)) ((pl j).headD (.chip 0)))

/-- The operands of an atomic are clean (R294, R419), every lane reaches its location, and a release has no earlier access of its lanes to await (R309, R331). -/
abbrev AtomReady (x : AtomWant) (c : Ctx) (s : State) (need : Need) (order : BitVec 2) (pl : Nat → List Place) : Prop :=
  (order = 2 ∨ order = 3 → c.p.owes c.ig = false) ∧
  CleanAddr c x.a 2 (fun l => .va (c.rv2 x.a l)) ∧
  (∀ l ∈ c.accessors, (x.k = 12 → psnIn x c l = false ∧ (c.q.paired = true → psnIn x c (l + 16) = false)) ∧
    (c.q.paired = true → vOf x c l = vOf x c (l + 16) ∧ cOf x c l = cOf x c (l + 16)) ∧
    (pl l).length = x.n ∧ (∀ y ∈ pl l, placeSound s y = true ∧ placeCalm s y = true) ∧
    laneAccess c (c.via 2 need) l (.va (c.rv2 x.a l)) 0 x.n x.n x.n true true s = (s, .go (pl l)))

/-- What an atomic may change beside a storing unit: the event counters of the home slices (R439). -/
abbrev AtomUnit (c : Ctx) (s t : State) (u : Cur) (p q : Pack) : Prop :=
  t.pack? u.core u.slot = some q ∧ t = { linesWritten s t with packs := t.packs, cores := t.cores, nextId := t.nextId, outbox := t.outbox, regs := t.regs } ∧ SameHarts s t ∧
  (∀ a, a < 0x810000 ∨ 0x820000 ≤ a → t.reg a = s.reg a) ∧
  (∀ k, t.core k = { s.core k with evcnt := (t.core k).evcnt, trq := (t.core k).trq, spad := (t.core k).spad, spadPsn := (t.core k).spadPsn }) ∧
  SameOthers s t u ∧ PackBut p q ∧ LanesOn c p q u.ig

/-! ## Barrier objects (R297 to R303) -/

/-- A unit that acts on the object at `off` of core k, leaving it as `o`; no other byte, no other pack and nothing else of the state changes; its pack ends as `pre`. -/
abbrev BarDone (i : Instr) (s : State) (u : Cur) (p pre : Pack) (moved : Word) (k off : Nat) (o : BarObj) (ts : List LTrap) : Prop :=
  ∃ t q, exec i s = .next t ∧ t.pack? u.core u.slot = some q ∧
    t = { l1Moved s t with packs := t.packs, cores := t.cores, nextId := t.nextId, outbox := t.outbox } ∧
    (∀ j, t.core j = { s.core j with evcnt := (t.core j).evcnt, trq := (t.core j).trq, spad := (t.core j).spad, barHeld := (t.core j).barHeld }) ∧
    (∀ x : Place, (∀ j, j < 16 → samePlace x (.spad k (off + j)) = false) → t.placeByte x = s.placeByte x) ∧ t.bar k off = o ∧
    SameOthers s t u ∧ Ends (ctxOf i s u p) pre q moved ∧ q.pending = withTraps pre.pending s u ts

/-- The fields fit their widths (R297). -/
def BarObj.fits (o : BarObj) : Prop := o.exp < 2 ^ 31 ∧ o.arr < 2 ^ 31 ∧ o.waiters < 1023 ∧ o.pend < 1023 ∧ o.ovr < 2 ^ 32

/-- The operands of a barrier instruction name an object of a core and count n (R298); no engine's arrival is held on it, and its lanes owe no earlier access (R309). -/
abbrev OnBar (i : Instr) (s : State) (u : Cur) (p : Pack) (a : VReg) (b : Option VReg) (dflt f k off n : Nat) : Prop :=
  i.wf = true ∧ s.legal = true ∧ Issues i s u p ∧ p.owes u.ig = false ∧ barArg (ctxOf i s u p) a b dflt = .go f k off n ∧ (s.cores.find k).isSome = true ∧
  ((s.core k).barHeld.find off).getD [] = [] ∧ BarObj.fits (s.bar k off)

/-- The pack registered on the object, having observed the phase it stands in (R299). -/
def registered (p : Pack) (f k off : Nat) (ph : Bool) : Pack :=
  if (p.barReg k off).isSome then p else { p with bars := p.bars ++ [{ off := f, core := k, arr := off, obs := ph }] }

def waitersOf (p : Pack) (k off : Nat) (o : BarObj) : BarObj := if (p.barReg k off).isSome then o else { o with waiters := o.waiters + 1 }

/-- Mask register m with the group's bits set or cleared. -/
def maskTo (p : Pack) (m : BitVec 3) (ig : Word) (b : Bool) : Pack := p.setM m.toNat ig (if b then ig else 0)

/-- What a lane becomes that waits for the object's phase to change. -/
abbrev BarWait (c : Ctx) (k off : Nat) (ph : Bool) (f : Nat) (g : Lane → Lane) : Prop :=
  ∀ x, (g x).st = .waiting ∧ (g x).why = .barrier k off ph f ∧ (g x).depth = x.depth ∧ (g x).replay = c.u.pc ∧ (g x).pc = (if x.stands then x.pc else c.next)

/-- Has the pack a completion of the object it has not observed? -/
def unseen (p : Pack) (k off : Nat) (o : BarObj) : Bool := match p.barReg k off with | some r => r.obs != o.ph | none => false

/-- The pack observes the phase. -/
def observed (p : Pack) (k off : Nat) (o : BarObj) : Pack :=
  { p with bars := p.bars.map (fun r => if r.core == k && r.arr == off then { r with obs := o.ph } else r) }

end Sys2Proof.Claims

/-- R286 to R291, R294: ATOM performs one atomic step for each unmasked lane in ascending order, and gives each lane its location's value before the step; `faddb` writes
success into mS. No other byte, register or mask bit changes. -/
def Obligations.AtomicsStepInLaneOrder : Prop :=
  ∀ (d a b cc : VReg) (la : BitVec 4) (sm : BitVec 3) (hint width order : BitVec 2) (scope : BitVec 3) (k : BitVec 4) (s : State) (u : Cur) (p : Pack)
    (x : AtomWant) (pl : Nat → List Place),
    let i := Instr.atom d a b la sm hint cc width scope order k
    let c := ctxOf i s u p
    i.wf = true → s.legal = true → Issues i s u p → atomWant i = some x → PlainRun c → AtomReady x c s { r := true, w := true } order pl →
    ∃ t q, exec i s = .next t ∧ AtomUnit c s t u p q ∧ Stored s t (atomStores x c s pl) ∧
      CellsAre p q u.depth d.toNat x.regs (fun l j => if takes c l && performs x s pl (c.lid l) then
        some { val := BitVec.ofNat 32 (oldOf x c s pl (c.lid l) / 2 ^ (32 * j)), psn := psnMet x c s pl (c.lid l) } else none) ∧
      OtherFrames p q u.depth ∧ q.s = p.s ∧ q.fpc = p.fpc ∧
      (∀ j l, q.m.getD j 0 = p.m.getD j 0 ∨ (x.k = 12 ∧ j = sm.toNat) ∧ (l < 32 → (q.m.getD j 0).getLsbD l =
        if l ∈ c.accessors ∧ performs x s pl l = true then (resOf x c s pl l).2 else (p.m.getD j 0).getLsbD l)) ∧
      q.pending = withTraps p.pending s u (c.tagged ++ (c.accessors.filter (fun l => !performs x s pl l)).map (fun l => { l := l, code := tPOISON }))

/-- R300, R301, R303: what BARINIT, BARARV, BARAW, BARWAIT, BARTEST, BAREXP and BARDROP do to an object when no phase completes: initialise, count or refuse,
overrun, register and wait, observe, change EXP; and their BAR_OVER traps. -/
def Sys2Proof.Claims.BarrierInstructionsActOnTheirObject : Prop :=
  ∀ (s : State) (u : Cur) (p : Pack) (m : BitVec 3) (a b : VReg) (f k off n : Nat),
    let o := s.bar k off
    (OnBar (.barinit a b) s u p a (some b) 0 f k off n → n % 2 ^ 31 ≠ 0 → (∀ r ∈ s.packs, r.2.anyWhere (Lane.waitsBar k off) = 0 ∧ r.2.barReg k off = none) →
      BarDone (.barinit a b) s u p p u.ig k off { exp := n % 2 ^ 31, kind := n / 2 ^ 31 % 2 == 1 } []) ∧
    (∀ i dflt bb, (i = .bararv m a b ∨ i = .baraw m a b) ∧ dflt = 1 ∧ bb = some b ∨ (i = .barexp a b ∨ i = .bardrop a b) ∧ dflt = 0 ∧ bb = some b ∨
        (i = .barwait a ∨ i = .bartest m a) ∧ dflt = 0 ∧ bb = none → OnBar i s u p a bb dflt f k off n → (o.err = true ∨ o.exp = 0) →
      BarDone i s u p p u.ig k off o (barTrap (ctxOf i s u p) s f k off (if o.err then 2 else 3)).traps) ∧
    (∀ i, i = .bararv m a b ∨ i = .baraw m a b → OnBar i s u p a (some b) 1 f k off n → o.err = false → o.exp ≠ 0 →
      let reg := decide (i = .baraw m a b)
      let p1 := if reg then registered p f k off o.ph else p
      let o1 := if reg then waitersOf p k off o else o
      let full := { o1 with arr := o.exp, err := true, ovr := min (o.ovr + (o.arr + n - o.exp)) (2 ^ 32 - 1) }
      (reg = true → p.bars.length < 8 ∧ unseen p k off o = false) →
      (0 < o.pend ∨ o.kind = false ∧ 0 < n ∧ n ≤ o.exp ∧ o.exp < o.arr + n → BarDone i s u p (maskTo p1 m u.ig true) u.ig k off o1 []) ∧
      (o.pend = 0 → o.kind = false → n = 0 ∨ o.exp < n →
        ∃ ts, BarDone i s u p p1 u.ig k off o1 ts ∧ (ts.map (fun t => (t.l, t.code, t.detail)) = (groupTrap (ctxOf i s u p) tBAROVER 3).map (fun t => (t.l, t.code, t.detail)))) ∧
      (o.pend = 0 → o.kind = true → o.exp < o.arr + n → (∀ r ∈ s.packs, r.2.anyWhere (Lane.waitsBar k off) = 0) →
        ∃ ts, BarDone i s u p p1 u.ig k off full ts ∧ (ts.map (fun t => (t.l, t.code, t.detail)) = (groupTrap (ctxOf i s u p) tBAROVER 1).map (fun t => (t.l, t.code, t.detail)))) ∧
      (o.pend = 0 → (o.kind = true ∨ 0 < n) → o.arr + n < o.exp →
        (reg = false → BarDone i s u p (maskTo p1 m u.ig false) u.ig k off { o1 with arr := o.arr + n } []) ∧
        (reg = true → ∃ g, BarWait (ctxOf i s u p) k off o.ph f g ∧ BarDone i s u p ((maskTo p1 m u.ig false).updLanes u.ig g) 0 k off { o1 with arr := o.arr + n } []))) ∧
    (∀ i, i = .barwait a ∨ i = .bartest m a → OnBar i s u p a none 0 f k off n → o.err = false → o.exp ≠ 0 → ((p.barReg k off).isSome = true ∨ p.bars.length < 8) →
      let p1 := registered p f k off o.ph
      let o1 := waitersOf p k off o
      let test := decide (i = .bartest m a)
      (unseen p k off o = true → BarDone i s u p (if test then maskTo (observed p k off o) m u.ig true else observed p k off o) u.ig k off { o with pend := o.pend - 1 } []) ∧
      (unseen p k off o = false → test = true → BarDone i s u p (maskTo p1 m u.ig false) u.ig k off o1 []) ∧
      (unseen p k off o = false → test = false → ∃ g, BarWait (ctxOf i s u p) k off o.ph f g ∧ BarDone i s u p (p1.updLanes u.ig g) 0 k off o1 [])) ∧
    (OnBar (.barexp a b) s u p a (some b) 0 f k off n → o.err = false → o.exp ≠ 0 →
      (n % 2 ^ 31 = 0 ∨ n % 2 ^ 31 < o.arr → BarDone (.barexp a b) s u p p u.ig k off o (barTrap (ctxOf (.barexp a b) s u p) s f k off 3).traps) ∧
      (o.arr < n % 2 ^ 31 → BarDone (.barexp a b) s u p p u.ig k off { o with exp := n % 2 ^ 31 } [])) ∧
    (OnBar (.bardrop a b) s u p a (some b) 0 f k off n → o.err = false → o.exp ≠ 0 →
      (o.exp ≤ n ∨ o.exp - n < o.arr → BarDone (.bardrop a b) s u p p u.ig k off o (barTrap (ctxOf (.bardrop a b) s u p) s f k off 3).traps) ∧
      (n < o.exp → o.arr < o.exp - n → BarDone (.bardrop a b) s u p { p with bars := p.bars.filter (fun r => !(r.core == k && r.arr == off)) } u.ig k off
        { o with exp := o.exp - n, waiters := if (p.barReg k off).isSome then o.waiters - 1 else o.waiters, pend := if unseen p k off o then o.pend - 1 else o.pend } []))

/-- R299, R301, R395: the arrival that makes ARR equal EXP completes the phase: ARR is 0, PHASE flips, PEND is WAITERS less the packs that observe at once because
their lanes wait; those lanes go on, and every registered pack gets the barrier event. -/
def Sys2Proof.Claims.LastArrivalCompletesThePhase : Prop :=
  ∀ (s : State) (u : Cur) (p : Pack) (m : BitVec 3) (a b : VReg) (f k off n : Nat),
    let i := Instr.bararv m a b
    let o := s.bar k off
    let waits := fun (r : Pack) => (r.barReg k off).isSome && r.anyWhere (Lane.waitsBar k off) != 0
    OnBar i s u p a (some b) 1 f k off n → o.err = false → o.exp ≠ 0 → o.pend = 0 → 0 < n → o.arr + n = o.exp → s.packs.sorted = true →
    ∃ t, exec i s = .next t ∧ t.bar k off = { o with arr := 0, ph := !o.ph, pend := o.waiters - (s.packs.filter (fun r => waits r.2)).length } ∧
      (∀ x : Place, (∀ j, j < 16 → samePlace x (.spad k (off + j)) = false) → t.placeByte x = s.placeByte x) ∧
      (∀ key r, key ≠ packKey u.core u.slot → s.packs.find key = some r → ∃ r', t.packs.find key = some r' ∧
        (r.barReg k off = none → r.anyWhere (Lane.waitsBar k off) = 0 → r' = r) ∧
        ((r.barReg k off).isSome = true → r.waitev = [] → r'.evpend = r.evpend ||| 4) ∧
        (waits r = true → (∀ l, l < 32 → Lane.waitsBar k off (r.lane l) = true → (r'.lane l).st = .active ∧ (r'.lane l).pc = (r.lane l).pc) ∧
          ∀ g ∈ r'.bars, g.core = k → g.arr = off → g.obs = !o.ph))

/-- R297 to R304: the barrier instructions, and the completion of a phase. -/
def Obligations.BarriersCountArrivals : Prop := Claims.BarrierInstructionsActOnTheirObject ∧ Claims.LastArrivalCompletesThePhase

/-- R306, R307: PSYNC posts each lane's mask; a set whose members have all posted or exited goes on behind it, the other lanes wait; lanes whose masks disagree trap PSYNC. -/
def Obligations.PsyncJoinsItsMembers : Prop :=
  ∀ (a : VReg) (s : State) (u : Cur) (p : Pack),
    let i := Instr.psync a
    let c := ctxOf i s u p
    let post := fun l => if u.ig.getLsbD l then some (c.rv a l) else (p.lane l).posted
    let posts := (List.range 32).filterMap (fun l => (post l).map (fun w => (l, w)))
    let agree := ∀ x ∈ posts, x.2.getLsbD x.1 = true ∧ ∀ y ∈ posts, (x.2.getLsbD y.1 = true ∨ y.2.getLsbD x.1 = true) → x.2 = y.2
    let now := fun (w : Word) (j : Nat) => (p.lane j).st = .exited ∧ u.ig.getLsbD j = false ∨ post j = some w
    let full := fun (w : Word) => (∀ j, j < 32 → w.getLsbD j = true → now w j) ∨ ∀ j, j < 32 → w.getLsbD j = true →
      match p.handler.bind (fun d => d.kept.find j) with | some x => x.st = .exited ∨ x.posted = some w | none => now w j
    Issues i s u p → c.tagged = [] → (∀ l ∈ lanesOf u.ig, c.psn a 1 l = false) → p.lanes.length = 32 →
    ∃ t q, exec i s = .next t ∧ t.pack? u.core u.slot = some q ∧ SameRest s t ∧ SameCores s t ∧ SameOthers s t u ∧ SameBytes s t ∧ SameRegs p q u.depth ∧
      q.s = p.s ∧ q.m = p.m ∧ q.fpc = p.fpc ∧
      (agree → q.pending = p.pending ∧ ∀ l, l < 32 →
        (u.ig.getLsbD l = true → (q.lane l).pc = (if (p.lane l).stands then (p.lane l).pc else c.next) ∧
          (full (c.rv a l) → (q.lane l).st = .active) ∧ (¬ full (c.rv a l) → (q.lane l).st = .waiting ∧ (q.lane l).why = .psync (c.rv a l))) ∧
        (u.ig.getLsbD l = false → ∀ w, (p.lane l).posted = some w → (full w → (q.lane l).st = .active) ∧ (¬ full w → (q.lane l).st = .waiting) ∧ (q.lane l).pc = (p.lane l).pc)) ∧
      (¬ agree → ∃ info, q.pending = withTraps p.pending s u (posts.map (fun z => { l := z.1, code := tPSYNC, info := info })))

/-- The unit could not issue: nothing has changed but that its pack was passed over for the reason given (R380). -/
abbrev Stalls (i : Instr) (s : State) (u : Cur) (p : Pack) (why : Nat) : Prop :=
  ∃ t, exec i s = .next t ∧ t.pack? u.core u.slot = some { p with ownStall := some why } ∧ SameOthers s t u ∧ t = { s with packs := t.packs }

/-- No line of the cores that a test names is dirty in its L1. -/
abbrev Drained (t : State) (cs : Nat → Prop) : Prop := ∀ k x, t.l1.find k = some x → cs (k / 2 ^ 46) → x.home = []

/-- R309 to R311, R313: the fences other than `tc` complete once their lanes owe no access that they order; no register and no byte of memory changes. What they
make visible: `heavy` at a scope above the core, and the ordering and `shape` fences, leave no dirty byte in the L1s they drain; every line stays. -/
def Sys2Proof.Claims.FencesDrainStores : Prop :=
  ∀ (scope : BitVec 3) (k : BitVec 2) (s : State) (u : Cur) (p : Pack) (i : Instr),
    i = .fence scope k ∨ i = .fenceLite scope ∨ i = .fenceHeavy scope ∨ i = .fenceShape scope → i.wf = true → s.legal = true → Issues i s u p →
    let orders := decide (i = .fenceHeavy scope) || decide (i = .fence scope k) && (k == 0 || k == 3)
    let waits := (decide (i = .fence scope k) || decide (i = .fenceHeavy scope)) && p.owes u.ig || orders && p.unaccepted u.ig
    (waits = true → Stalls i s u p 7) ∧
    (waits = false → ∃ t q, exec i s = .next t ∧ ReadUnit (ctxOf i s u p) s t u p q ∧ SameRegs p q u.depth ∧ q.s = p.s ∧ q.m = p.m ∧ q.fpc = p.fpc ∧ q.pending = p.pending ∧
      (∀ a, (t.l1.find a).map (fun x => { x with home := [], homePsn := false }) = (s.l1.find a).map (fun x => { x with home := [], homePsn := false })) ∧
      (i = .fence scope k → k ≠ 2 → 2 ≤ scope.toNat → Drained t (· = u.core)) ∧
      (i = .fenceHeavy scope → 3 ≤ scope.toNat → Drained t (· < 160)) ∧
      (i = .fenceHeavy scope → scope = 2 → Drained t (· / 16 = u.core / 16)) ∧
      (i = .fenceShape scope → Drained t (· = u.core)))

namespace Sys2Proof.Claims

/-! ## Remote atomics (R295, R328 to R332) -/

/-- The location a lane names in another package: package, offset (R101). -/
def awayOf (s : State) (c : Ctx) (a : VReg) (l : Nat) : Option (Nat × Nat) :=
  let v := (c.rv2 a l).toNat
  if v / 2 ^ 56 = 0x40 ∧ v / 2 ^ 55 % 2 = 0 ∧ v / 2 ^ 44 % 2 ^ 11 ≠ s.pkgId then some (v / 2 ^ 44 % 2 ^ 11, v % 2 ^ 44) else none

/-- What the lanes of one location send (R329, R330): `add` to `xor` one combined value (a sum for `sub`), `fadd` every value in lane order, the others their own. -/
def sentVals (x : AtomWant) (c : Ctx) (ls : List Nat) : List DWord :=
  let vs := ls.map (vOf x c)
  if x.k = 13 then vs.map (BitVec.ofNat 64)
  else match vs with
    | [] => []
    | v :: r => [BitVec.ofNat 64 (r.foldl (fun a b => (atomicWant (if x.k = 1 then 0 else x.k) (8 * x.n) a b 0).1) v)]

def redParts : Instr → Option (VReg × BitVec 3 × BitVec 2 × BitVec 3 × BitVec 4 × Bool)
  | .red _ a _ _ sm _ _ _ scope order k => some (a, scope, order, sm, k, true)
  | .atomr _ a _ _ sm _ _ _ scope order k => some (a, scope, order, sm, k, false)
  | _ => none

/-! ## Tiles and operand streams (R166 to R176) -/

/-- A unit that touches the tile table, the streams and the events of its workgroup's packs; the registers of its pack are as before. -/
abbrev TileUnit (i : Instr) (s : State) (u : Cur) (p : Pack) (Q : State → Pack → Prop) : Prop :=
  ∃ t q, exec i s = .next t ∧ t.pack? u.core u.slot = some q ∧ t = { s with packs := t.packs, cores := t.cores, nextId := t.nextId, outbox := t.outbox, copies := t.copies, recCache := t.recCache, memPsn := t.memPsn } ∧
    (∀ j, t.core j = { s.core j with evcnt := (t.core j).evcnt, trq := (t.core j).trq, tiles := (t.core j).tiles, strA := (t.core j).strA, strB := (t.core j).strB,
                                     lastFed := (t.core j).lastFed }) ∧
    (∀ k r, k ≠ packKey u.core u.slot → s.packs.find k = some r → t.packs.find k = some r ∨ ∃ cls, r.wg = p.wg ∧ t.packs.find k = some (r.post cls)) ∧
    PackBut { p with evpend := q.evpend } q ∧ LanesOn (ctxOf i s u p) p q u.ig ∧ SameRegs p q u.depth ∧ q.m = p.m ∧ q.fpc = p.fpc ∧ Q t q

/-- Entry n of the workgroup's tiles is x, the core's other tiles are as before. -/
abbrev TileIs (s t : State) (w : Wg) (n : Nat) (x : Tile) : Prop :=
  t.tile w n = x ∧ (∀ c k, (c ≠ w.core ∨ k ≠ w.tileIx n) → (t.core c).tiles.find k = (s.core c).tiles.find k)

abbrev SameStreams (s t : State) : Prop :=
  ∀ j, (t.core j).strA = (s.core j).strA ∧ (t.core j).strB = (s.core j).strB ∧ (t.core j).lastFed = (s.core j).lastFed

/-- A tile instruction that the RANGE check lets through (R166). -/
abbrev OnTile (i : Instr) (s : State) (u : Cur) (p : Pack) (n : Nat) (x : Tile) : Prop :=
  i.wf = true ∧ Issues i s u p ∧ n < (ctxOf i s u p).q.ntiles ∧ (s.core (s.wg p.wg).core).tiles.find ((s.wg p.wg).tileIx n) = some x ∧
  (s.cores.find (s.wg p.wg).core).isSome = true ∧ (s.wg p.wg).core = u.core

end Sys2Proof.Claims

/-- R286, R295, R332: RED, and ATOMR on lanes of this package, perform the steps of ATOM; RED writes no register. -/
def Sys2Proof.Claims.LocalRedsAndAtomrsStepInLaneOrder : Prop :=
  ∀ (i : Instr) (a : VReg) (scope sm : BitVec 3) (order : BitVec 2) (k : BitVec 4) (red : Bool) (s : State) (u : Cur) (p : Pack) (x : AtomWant) (pl : Nat → List Place),
    let c := ctxOf i s u p
    redParts i = some (a, scope, order, sm, k, red) →
    (match i with | .atomr d a b la sm h cc w sc o k => atomWant (.atom d a b la sm h cc w sc o k) | i => atomWant i) = some x →
    i.wf = true → s.legal = true → Issues i s u p → PlainRun c → AtomReady x c s (if red then needW else { r := true, w := true }) order pl →
    (scope = 4 → order = 2 ∨ order = 3 → remotesOut s u.core u.slot p = false) →
    (∀ l ∈ c.accessors, awayOf s c a l = none ∧ (red = false → (c.rv2 a l).toNat / 2 ^ 56 = 0x40)) →
    ∃ t q, exec i s = .next t ∧ AtomUnit c s t u p q ∧ Stored s t (atomStores x c s pl) ∧ q.s = p.s ∧ q.fpc = p.fpc ∧
      q.pending = withTraps p.pending s u (c.tagged ++ (c.accessors.filter (fun l => !performs x s pl l)).map (fun l => { l := l, code := tPOISON })) ∧
      (red = true → SameRegs p q u.depth ∧ q.m = p.m) ∧
      (∀ d, red = false → (match i with | .atomr d' _ _ _ _ _ _ _ _ _ _ => d' = d | _ => False) →
        CellsAre p q u.depth d.toNat x.regs (fun l j => if takes c l && performs x s pl (c.lid l) then
          some { val := BitVec.ofNat 32 (oldOf x c s pl (c.lid l) / 2 ^ (32 * j)), psn := psnMet x c s pl (c.lid l) } else none) ∧ OtherFrames p q u.depth ∧
        (∀ j l, q.m.getD j 0 = p.m.getD j 0 ∨ (x.k = 12 ∧ j = sm.toNat) ∧ (l < 32 → (q.m.getD j 0).getLsbD l =
          if l ∈ c.accessors ∧ performs x s pl l = true then (resOf x c s pl l).2 else (p.m.getD j 0).getLsbD l)))

/-- R316, R318, R325, R328 to R332: an ATOMR, or a RED of scope `dom`, whose lanes name one location of another package sends it one request, with the token of the table and
the lanes' combined value; no register and no byte of this package changes. (Of an operation that is not combined, one lane.) -/
def Sys2Proof.Claims.RemoteAtomicsSendOneRequest : Prop :=
  ∀ (i : Instr) (a : VReg) (scope sm : BitVec 3) (order : BitVec 2) (k : BitVec 4) (red : Bool) (s : State) (u : Cur) (p : Pack) (x : AtomWant) (pk off : Nat) (tk : DWord),
    let c := ctxOf i s u p
    let s1 := if order = 2 ∨ order = 3 then s.releaseAt u.core scope.toNat else s
    let ch := 2048 + pk
    let s2 := if red = false ∧ k = 12 then s1.updPack u.core u.slot (fun p => p.setM sm.toNat 0 0) else s1
    redParts i = some (a, scope, order, sm, k, red) →
    (match i with | .atomr d a b la sm h cc w sc o k => atomWant (.atom d a b la sm h cc w sc o k) | i => atomWant i) = some x →
    i.wf = true → scope = 4 → Issues i s u p → s.isReplayable (s.wg p.wg).uid = false → c.q.rec_ = false → CleanAddr c a 2 (fun l => .va (c.rv2 a l)) →
    (∀ l ∈ c.accessors, (x.k = 12 → psnIn x c l = false ∧ (c.q.paired = true → psnIn x c (l + 16) = false)) ∧
      (c.q.paired = true → vOf x c l = vOf x c (l + 16) ∧ cOf x c l = cOf x c (l + 16)) ∧ awayOf s c a l = some (pk, off)) →
    c.accessors ≠ [] → (x.k ≤ 8 ∨ x.k = 13 ∨ c.accessors.length = 1) → off + x.n ≤ 2 ^ 44 → off % x.n = 0 → s.isLost pk = false →
    (order = 2 ∨ order = 3 → p.owes u.ig = false ∧ remotesOut s u.core u.slot p = false) →
    (∀ y ∈ [s, s2], tokenFor y p.ctx pk off 2 = (y, .ok tk)) →
    ∃ t q r, exec i s = .next t ∧ t.pack? u.core u.slot = some q ∧
      t = { l1Moved s t with packs := t.packs, cores := t.cores, nextId := t.nextId, outbox := t.outbox, remotes := s.remotes.ins s.nextId r, sent := t.sent } ∧
      SameCores s t ∧ SameOthers s t u ∧ SameBytes s t ∧ PackBut p q ∧ LanesOn c p q u.ig ∧ SameRegs p q u.depth ∧ q.s = p.s ∧ q.fpc = p.fpc ∧
      (∀ j, q.m.getD j 0 = p.m.getD j 0) ∧ q.pending = withTraps p.pending s u c.tagged ∧
      r.target = pk ∧ r.req.pkg = s.pkgId ∧ r.req.ctx = p.ctx ∧ r.req.token = tk ∧ r.req.seq = (s.sent.find ch).getD 0 ∧ t.sent.find ch = some (r.req.seq + 1) ∧
      r.sentAt = s.cycle ∧ r.tries = 1 ∧
      r.req.kind = .atom off x.k x.w64 (sentVals x c c.accessors) (BitVec.ofNat 64 (cOf x c (c.accessors.headD 0))) (c.accessors.any (psnIn x c)) red ∧
      (r.held = false → r.noPort = false → .request pk r.req ∈ t.outbox)

/-- R286, R295, R316, R318, R325, R328 to R332: RED and ATOMR, here and in another package. -/
def Obligations.RedsAndAtomrsLocalAndRemote : Prop := Claims.LocalRedsAndAtomrsStepInLaneOrder ∧ Claims.RemoteAtomicsSendOneRequest

/-- R312: FENCE.tc completes once no transfer of its pack in tensor space is under way, with its stores visible; until then its pack only is passed over. -/
def Sys2Proof.Claims.FenceTcAwaitsTransfers : Prop :=
  ∀ (scope : BitVec 3) (s : State) (u : Cur) (p : Pack), Issues (.fenceTc scope) s u p →
    (packTransfers s u.core u.slot p = true → Stalls (.fenceTc scope) s u p 7) ∧
    (packTransfers s u.core u.slot p = false → ∃ t q, exec (.fenceTc scope) s = .next t ∧ ReadUnit (ctxOf (.fenceTc scope) s u p) s t u p q ∧ SameRegs p q u.depth ∧
      q.s = p.s ∧ q.m = p.m ∧ q.fpc = p.fpc ∧ q.pending = p.pending ∧ (s.legal = true → 2 ≤ scope.toNat → Drained t (· = u.core)))

/-- R309 to R313: every fence completes; `tc` after the transfers of its pack. -/
def Obligations.FencesMakeStoresVisible : Prop := Claims.FencesDrainStores ∧ Claims.FenceTcAwaitsTransfers

/-- R149, R157, R160, R166 to R171, R178, R179: TSTAT reads a tile's entry, TREL releases a READY tile (DRAINING while it has readers) and waits for a FILLING one, TCOPY hands
its request to the engine, TRESUME restarts copies saved by pre-emption; a tile outside the allocation or a bad barrier operand traps TILE. -/
def Obligations.TileInstructions : Prop :=
  ∀ (s : State) (u : Cur) (p : Pack) (x : Tile) (n : BitVec 8) (d : BitVec 7) (base bar : BitVec 5) (acq rel dig : BitVec 1) (la rop : BitVec 4) (shape : BitVec 12) (scope : BitVec 3),
    let w := s.wg p.wg
    let cp := Instr.tcopy n base bar acq rel dig la shape scope rop
    let bv := (p.sreg bar.toNat).toNat % 2 ^ 32
    (∀ i sh, (i = .tstat d n ∨ i = .trel n ∨ i = .tresume n ∨ i = .strmFeeda n ∨ i = .strmFeedb n) ∧ sh = 0 ∨ i = cp ∧ sh = shape.toNat → i.wf = true → Issues i s u p →
      (ctxOf i s u p).q.ntiles ≤ n.toNat → OnlyTraps i s u p (groupTrap (ctxOf i s u p) tTILE 1 0 (leBytes 4 (n.toNat + sh * 2 ^ 16)))) ∧
    (OnTile (.tstat d n) s u p n.toNat x → ScalarDone (.tstat d n) s u p d.toNat (BitVec.ofNat 64
      ((match x.st with | .empty => 0 | .filling => 1 | .ready => 2 | .draining => 3) + x.readers * 4 + x.err * 256 + (if x.paused then 4096 else 0) +
        (if x.psn then 8192 else 0) + x.size * 65536 + x.off * 4294967296))) ∧
    (OnTile (.trel n) s u p n.toNat x → x.st = .filling → Stalls (.trel n) s u p 1) ∧
    (OnTile (.trel n) s u p n.toNat x → x.st ≠ .filling → p.waitev = [] → TileUnit (.trel n) s u p (fun t q => q.s = p.s ∧ q.pending = p.pending ∧ SameBytes s t ∧ SameStreams s t ∧
      t.copies = s.copies ∧ t.recCache = s.recCache ∧ t.memPsn = s.memPsn ∧
      TileIs s t w n.toNat { x with st := if x.st = .ready then (if x.readers = 0 then .empty else .draining) else x.st })) ∧
    (OnTile (.tresume n) s u p n.toNat x → TileUnit (.tresume n) s u p (fun t q => q.s = p.s ∧ q.pending = p.pending ∧ SameBytes s t ∧ SameStreams s t ∧
      TileIs s t w n.toNat { x with paused := t.copies.any (fun c => c.2.wg == p.wg && c.2.q.tile == n.toNat && c.2.status == 2) } ∧
      t.recCache = s.recCache ∧ t.memPsn = s.memPsn ∧ t.copies.keys = s.copies.keys ∧
      ∀ k c, s.copies.find k = some c → t.copies.find k = some { c with status :=
        if c.wg = p.wg ∧ c.q.tile = n.toNat ∧ c.status = 2 ∧ c.cause = 2 then 0 else c.status })) ∧
    (OnTile cp s u p n.toNat x → (bar ≠ 0 ∧ barOk s p bv = false → OnlyTraps cp s u p (groupTrap (ctxOf cp s u p) tTILE 4 0 (leBytes 4 (n.toNat + shape.toNat * 2 ^ 16)))) ∧
      (bar = 0 ∨ barOk s p bv = true → ∃ r : TcopyReq, r.tile = n.toNat ∧ r.shape = shape.toNat ∧ r.lanes = u.ig ∧ r.scope = scope.toNat ∧ r.rop = rop.toNat ∧
        r.acq = (acq == 1) ∧ r.rel = (rel == 1) ∧ r.dig = (dig == 1) ∧ r.base = (if base = 0 then none else some (p.sreg base.toNat)) ∧ r.bar = (if bar = 0 then none else some bv) ∧
        ∃ t q, exec cp s = .next t ∧ t.pack? u.core u.slot = some q ∧ SameRest s t ∧ SameCores s t ∧ SameOthers s t u ∧ SameBytes s t ∧
          Ends (ctxOf cp s u p) { p with tcq := p.tcq ++ [r] } q u.ig ∧ q.pending = p.pending))

/-- R156, R172 to R176: STRM.feed appends a READY tile's positions to its stream and makes it a reader, STRM.replay groups the last positions, STRM.flush empties both streams
once no queued MMA has still to pop, SHINV drops cached records; feeds that do not fit the tile, and replays of what is not there, trap TILE. -/
def Obligations.StreamsAndRecordCache : Prop :=
  ∀ (s : State) (u : Cur) (p : Pack) (x : Tile) (n : BitVec 8) (m : BitVec 6) (k : BitVec 7) (j : BitVec 12),
    let w := s.wg p.wg
    (∀ i b, i = .strmFeeda n ∧ b = false ∨ i = .strmFeedb n ∧ b = true → OnTile i s u p n.toNat x →
      let sz := if b then 16384 else 8192
      let q0 := ((s.core u.core).strm b).q
      (x.size = 0 ∨ x.size * 256 % sz ≠ 0 → OnlyTraps i s u p (groupTrap (ctxOf i s u p) tTILE 5 0 (leBytes 4 n.toNat))) ∧
      (0 < x.size → x.size * 256 % sz = 0 → (x.st ≠ .ready ∨ 63 ≤ x.readers ∨ 64 < q0.length + x.size * 256 / sz) → Stalls i s u p 1) ∧
      (0 < x.size → x.size * 256 % sz = 0 → x.st = .ready → x.readers < 63 → q0.length + x.size * 256 / sz ≤ 64 →
        TileUnit i s u p (fun t q => q.s = p.s ∧ q.pending = p.pending ∧ SameBytes s t ∧ t.copies = s.copies ∧ t.recCache = s.recCache ∧ t.memPsn = s.memPsn ∧
          TileIs s t w n.toNat { x with readers := x.readers + 1 } ∧
          ((t.core u.core).strm b).q.map (fun y => (y.tile, y.p, y.last, y.gid, y.data)) = q0.map (fun y => (y.tile, y.p, y.last, y.gid, y.data)) ++
            (List.range (x.size * 256 / sz)).map (fun e => (n.toNat, e, e + 1 == x.size * 256 / sz, 0, none)) ∧
          (t.core u.core).strm (!b) = (s.core u.core).strm (!b) ∧ (t.core u.core).lastFed = some b))) ∧
    (∀ b, Issues (.strmReplay m k) s u p → (Instr.strmReplay m k).wf = true → (s.core u.core).lastFed = some b →
      let q0 := ((s.core u.core).strm b).q
      let grp := q0.drop (q0.length - m.toNat)
      (q0.length < m.toNat ∨ grp.any (fun y => y.gid != 0) → OnlyTraps (.strmReplay m k) s u p (groupTrap (ctxOf (.strmReplay m k) s u p) tTILE 6 0 (leBytes 4 0))) ∧
      (m.toNat ≤ q0.length → grp.all (fun y => y.gid == 0) = true →
        TileUnit (.strmReplay m k) s u p (fun t q => q.s = p.s ∧ q.pending = p.pending ∧ SameBytes s t ∧ t.copies = s.copies ∧ t.recCache = s.recCache ∧ t.memPsn = s.memPsn ∧
          (∀ c, (t.core c).tiles = (s.core c).tiles) ∧ (t.core u.core).strm (!b) = (s.core u.core).strm (!b) ∧ (t.core u.core).lastFed = some b ∧
          ∃ g, g ≠ 0 ∧ ((t.core u.core).strm b).q = q0.take (q0.length - m.toNat) ++ grp.map (fun y => { y with gid := g, passes := k.toNat })))) ∧
    (Issues (.strmReplay m k) s u p → (s.core u.core).lastFed = none → OnlyTraps (.strmReplay m k) s u p (groupTrap (ctxOf (.strmReplay m k) s u p) tTILE 6 0 (leBytes 4 0))) ∧
    (Issues .strmFlush s u p → (∀ r ∈ s.packs, r.2.flushes = []) → let kk := s.core u.core
      let left := kk.mmaQ.any (fun e => e.popped.isNone && decide (e.ownAt < s.ownSteps))
      (left = true → ∃ t f, exec .strmFlush s = .next t ∧ f.at_ = s.ownSteps ∧ f.done = false ∧
        t.pack? u.core u.slot = some { p with flushes := [f], ownStall := some 1 } ∧ t = { s with packs := t.packs, cores := t.cores } ∧ SameOthers s t u ∧
        ∀ j, t.core j = { s.core j with lastFed := if j = u.core then none else (s.core j).lastFed }) ∧
      (left = false → kk.strA.q.all (fun y => !y.last && decide (y.feed < s.ownSteps)) = true → kk.strB.q.all (fun y => !y.last && decide (y.feed < s.ownSteps)) = true →
        TileUnit .strmFlush s u p (fun t q => q.s = p.s ∧ q.pending = p.pending ∧ SameBytes s t ∧ t.copies = s.copies ∧ t.recCache = s.recCache ∧ t.memPsn = s.memPsn ∧
          (∀ c, (t.core c).tiles = (s.core c).tiles) ∧ (t.core u.core).strA.q = [] ∧ (t.core u.core).strB.q = [] ∧ (t.core u.core).lastFed = none))) ∧
    (∀ i, i = .shinv j ∨ i = .shinvAll → i.wf = true → Issues i s u p →
      TileUnit i s u p (fun t q => q.s = p.s ∧ q.pending = p.pending ∧ SameBytes s t ∧ SameStreams s t ∧ t.copies = s.copies ∧ t.memPsn = s.memPsn ∧
        (∀ c, (t.core c).tiles = (s.core c).tiles) ∧
        ∀ y, y ∈ t.recCache ↔ y ∈ s.recCache ∧ ¬ (y.1.1 = p.ctx ∧ (i = .shinvAll ∨ y.1.2.1 = 0 ∧ (y.1.2.2 = j.toNat ∨ y.1.2.2 = j.toNat + 1 ∧ j.toNat < 4095)))))

namespace Sys2Proof.Claims

/-! ## COLL and LAUNCH (R333, R363 to R369) -/

/-- The state a LAUNCH submits from: the core's stores are visible in the package (R367). -/
def published (s : State) (u : Cur) : State := s.cleanCore u.core

/-- A LAUNCH ends: sS gets status and sequence number; with S = 0 a refusal leaves the trap LAUNCH_SPAD for its completion. Memory takes the writes `ws`; of the rest only
what a submission touches has changed (R364, R367). -/
abbrev LaunchEnds (i : Instr) (s : State) (u : Cur) (p : Pack) (st status seq : Nat) (ws : List (Place × Byte × Bool)) (Q : State → Prop) : Prop :=
  ∃ t q, exec i s = .next t ∧ t.pack? u.core u.slot = some q ∧
    t = { linesWritten s t with packs := t.packs, cores := t.cores, nextId := t.nextId, outbox := t.outbox, launches := t.launches, order := t.order, chain := t.chain,
                                launched := t.launched, regs := t.regs } ∧
    SameHarts s t ∧ SameCores s t ∧ SameOthers s t u ∧ Stored s t ws ∧ PackBut p q ∧ LanesOn (ctxOf i s u p) p q u.ig ∧ SameRegs p q u.depth ∧ q.m = p.m ∧ q.fpc = p.fpc ∧
    q.pending = p.pending ∧ (∀ j, q.sreg j = if st ≠ 0 ∧ j = st then BitVec.ofNat 64 (seq * 2 ^ 32 + status) else p.sreg j) ∧
    (st = 0 → status ≠ 0 → ∃ k ∈ q.toks, ∃ tr, k.trap = some tr ∧ tr.code = tLAUNCH ∧ tr.detail = status) ∧ Q t

/-- The launch of a record is accepted in queue n with its next sequence number (R363, R364). -/
abbrev Accepted (s t : State) (u : Cur) (p : Pack) (va n : Nat) (y : LRead) : Prop :=
  let seq := bits (s.reg (qReg n + 0x20)) 31 0
  (∃ l : Launch, t.launches = s.launches.ins s.nextId l ∧ l.uid = s.nextId ∧ l.ctx = p.ctx ∧ l.queue = n ∧ l.seq = some seq ∧ l.recVA = BitVec.ofNat 64 va ∧ l.r = y.r ∧
    l.tiles = y.tiles ∧ l.succs = y.succs ∧ l.by_ = some (u.core, u.slot) ∧ l.devSlot = true ∧ l.next = 0 ∧ l.ended = false) ∧
  t.order = s.order.ins n (s.qOrder n ++ [s.nextId]) ∧ bits (t.reg (qReg n + 0x20)) 31 0 = (seq + 1) % 2 ^ 32

/-- No launch has come of it. -/
abbrev Refused (s t : State) : Prop := t.launches = s.launches ∧ t.order = s.order ∧ t.regs = s.regs

/-- A launch that a check rejects completes with its status and no sequence number (R377; that one of LAUNCH does, too, is log 63). -/
abbrev Rejected (s t : State) (u : Cur) (p : Pack) (va status : Nat) (r : Option LRec) : Prop :=
  (∃ l : Launch, t.launches = s.launches.ins s.nextId l ∧ l.uid = s.nextId ∧ l.ctx = p.ctx ∧ l.queue = (r.map LRec.queue).getD 64 ∧ l.seq = none ∧
    l.recVA = BitVec.ofNat 64 va ∧ l.r = r.getD {} ∧ l.status = status ∧ l.ended = true ∧ l.by_ = some (u.core, u.slot)) ∧
  t.order = s.order ∧ t.regs = s.regs

end Sys2Proof.Claims

/-- R333, R367: COLL hands its request to the engines; LAUNCH.grid accepts the record at sR when the checks of R366 pass, in the queue the record names, or answers their
status. (The record and its lists are readable without a page walk.) -/
def Sys2Proof.Claims.CollAndGridLaunchesSubmit : Prop :=
  ∀ (s : State) (u : Cur) (p : Pack) (base bar r st : BitVec 5) (la : BitVec 4) (rec_ : BitVec 16) (x y : LRead),
    (let i := Instr.coll base bar la rec_
     i.wf = true → Issues i s u p → ∃ e : CollReq, e.index = rec_.toNat ∧ e.lanes = u.ig ∧ e.base = (if base = 0 then none else some (p.sreg base.toNat)) ∧
       e.bar = (if bar = 0 then none else some ((p.sreg bar.toNat).toNat % 2 ^ 32)) ∧
       ∃ t q, exec i s = .next t ∧ t.pack? u.core u.slot = some q ∧ SameRest s t ∧ SameCores s t ∧ SameOthers s t u ∧ SameBytes s t ∧
         Ends (ctxOf i s u p) { p with collq := p.collq ++ [e] } q u.ig ∧ q.pending = p.pending) ∧
    (let i := Instr.launchGrid r st la
     let va := (p.sreg r.toNat).toNat
     let s1 := published s u
     let status := launchStatus s p.ctx va (.pack u.core u.slot) false y
     i.wf = true → s.legal = true → Issues i s u p → s.isReplayable (s.wg p.wg).uid = false →
       (s.ctxReg p.ctx 0 % 2 = 0 → LaunchEnds i s u p st.toNat 4 0 [] (fun t => Rejected s t u p va 4 none)) ∧
       (s.ctxReg p.ctx 0 % 2 = 1 → readRec s1 p.ctx va = (s1, .bad) → LaunchEnds i s u p st.toNat 5 0 [] (fun t => Rejected s t u p va 5 none)) ∧
       (s.ctxReg p.ctx 0 % 2 = 1 → readRec s1 p.ctx va = (s1, .ok x) → readLists s1 p.ctx x false = (s1, .ok y) →
         (status = 0 → y.r.queue < 64 → LaunchEnds i s u p st.toNat 0 (bits (s.reg (qReg y.r.queue + 0x20)) 31 0) [] (fun t => Accepted s t u p va y.r.queue y)) ∧
         (status ≠ 0 → LaunchEnds i s u p st.toNat status 0 [] (fun t => Rejected s t u p va status (some y.r)))))

/-- R367, R369: LAUNCH.node decrements DEPS of the record at sR; at zero it checks and accepts the node; a DEPS that is zero already, and a misaligned record, are RECORD. -/
def Sys2Proof.Claims.NodeLaunchesDecrementDeps : Prop :=
  ∀ (s : State) (u : Cur) (p : Pack) (r st : BitVec 5) (la : BitVec 4) (x y : LRead) (ps : List Place),
    let i := Instr.launchNode r st la
    let va := (p.sreg r.toNat).toNat
    let s1 := published s u
    let status := launchStatus s p.ctx va (.pack u.core u.slot) true y
    i.wf = true → s.legal = true → Issues i s u p → s.isReplayable (s.wg p.wg).uid = false → s.prov = [] → s.isReplayable 0 = false →
    s.ctxReg p.ctx 0 % 2 = 1 → readRec s1 p.ctx va = (s1, .ok x) →
    (va % 128 ≠ 0 → LaunchEnds i s u p st.toNat 4 0 [] (fun t => Rejected s t u p va 4 (some x.r))) ∧
    (va % 128 = 0 → depsPlaces s1 p.ctx va = (s1, .ok ps) → ps.length = 4 → ps.all (placeSound s1) = true →
      (x.r.deps = 0 → LaunchEnds i s u p st.toNat 4 0 [] (fun t => Refused s t)) ∧
      (1 < x.r.deps → LaunchEnds i s u p st.toNat 0 0 (ps.zipIdx.map (fun z => (z.1, BitVec.ofNat 8 ((x.r.deps - 1) / 256 ^ z.2), false))) (fun t => Refused s t)) ∧
      (x.r.deps = 1 → readLists s1 p.ctx x true = (s1, .ok y) →
        let ws := ps.map (fun z => (z, (0 : Byte), false))
        (status = 0 → y.r.queue < 64 → LaunchEnds i s u p st.toNat 0 (bits (s.reg (qReg y.r.queue + 0x20)) 31 0) ws (fun t => Accepted s t u p va y.r.queue y)) ∧
        (status ≠ 0 → LaunchEnds i s u p st.toNat status 0 ws (fun t => Rejected s t u p va status (some x.r)))))

/-- R333, R364 to R367, R369: COLL, LAUNCH.grid and LAUNCH.node. -/
def Obligations.CollAndLaunchSubmit : Prop := Claims.CollAndGridLaunchesSubmit ∧ Claims.NodeLaunchesDecrementDeps

namespace Sys2Proof.Claims

/-! ## The matrix unit (R89 to R94, R266 to R282) -/

/-- The integer of a code of w bits (R72). -/
def intOf (w x : Nat) : Int := (BitVec.ofNat w x).toInt

/-- i32 of an integer cell: clamped (R89). -/
def clamp32 (v : Int) : Nat := (BitVec.ofInt 32 (max (-2147483648) (min 2147483647 v))).toNat

/-- A value to A48 and back (R89): RNE; e4m3 and e5m2 saturate. -/
def toAcc (f : Fmt) (x : Nat) : Nat := (convF f a48 0 false x).1
def fromAcc (f : Fmt) (sat : Bool) (x : Nat) : Nat := (convF a48 f 0 sat x).1

/-- The elements of 256 bytes (R90). -/
def elemsOf (ty : Nat) (bs : List Byte) : List Nat :=
  if ty = 3 ∨ ty = 4 then (List.range (bs.length / 2)).map (fun k => (bs.getD (2 * k) 0).toNat + 256 * (bs.getD (2 * k + 1) 0).toNat) else bs.map BitVec.toNat

def typeFmt (ty : Nat) : Fmt := if ty = 0 then e4m3 else if ty = 1 then e5m2 else if ty = 3 then bf16 else f16

/-- What one block adds to a float cell (R91, R92), as an A48 code: the exact sum of products, promoted with its scales. -/
def blockC (ty sa sb : Nat) (as bs : List Nat) : Nat :=
  let f := typeFmt ty
  let ps := as.zip bs
  let infs := (ps.filter (fun x => fInf f x.1 || fInf f x.2)).map (fun x => fSign f x.1 != fSign f x.2)
  let sg := fSign bf16 sa != fSign bf16 sb
  let x : ℚ := (ps.map (fun x => fVal f x.1 * fVal f x.2)).sum
  if sa % 32768 = 0 ∨ sb % 32768 = 0 then 0
  else if ps.any (fun x => fNan f x.1 || fNan f x.2 || badMul f x.1 x.2) || (infs.contains true && infs.contains false) || fNan bf16 sa || fNan bf16 sb then a48.canon
  else match infs with
    | s :: _ => fZero a48 (s != sg) + a48.infCode
    | [] =>
      if fInf bf16 sa ∨ fInf bf16 sb then (if x = 0 then a48.canon else fZero a48 (decide (x < 0) != sg) + a48.infCode)
      else (roundNum a48 0 false (fVal bf16 sa * fVal bf16 sb * x) sg).1

/-- A cell after an entry (R91, R94): its row of A against its column of B, block by block. Unscaled types have scales of 1. -/
def cellAfter (ty : Nat) (sa sb : Nat → Nat) (as bs : List (List Byte)) (v0 : Nat) : Nat :=
  let n := if ty ≤ 1 then 2 else 1
  (List.range (n * as.length)).foldl (fun v b =>
    let ea := elemsOf ty (((as.getD (b / n) []).drop (b % n * 128)).take (256 / n))
    let eb := elemsOf ty (((bs.getD (b / n) []).drop (b % n * 128)).take (256 / n))
    if ty = 5 then (BitVec.ofInt 48 (intOf 48 v + ((ea.zip eb).map (fun x => intOf 8 x.1 * intOf 8 x.2)).sum)).toNat
    else (addF a48 0 v (if ty ≤ 1 then blockC ty (sa b) (sb b) ea eb else blockC ty 0x3F80 0x3F80 ea eb)).1) v0

/-- EXPS of R278. -/
def expsQ (cell cc v : Nat) : Nat :=
  let ps := fSign a48 cell != fSign f32 cc
  let pinf := fInf a48 cell || fInf f32 cc
  if fNan a48 cell ∨ fNan f32 cc ∨ fNan f32 v then a48.canon
  else if (fInf a48 cell ∧ fVal f32 cc = 0) ∨ (fInf f32 cc ∧ fVal a48 cell = 0) then a48.canon
  else if pinf = true ∧ ps = true then 0
  else if fInf f32 v ∧ fSign f32 v = false then 0
  else if pinf = true ∨ fInf f32 v then a48.infCode
  else
    let xr := (roundNum f32 0 false (fVal a48 cell * fVal f32 cc - fVal f32 v) false).1
    if fInf f32 xr then (if fSign f32 xr then 0 else a48.infCode)
    else if fVal f32 xr ≤ -32 then 0
    else if 128 ≤ fVal f32 xr then a48.infCode
    else if (fVal f32 xr).den = 1 then (roundNum a48 0 false (2 ^ (fVal f32 xr).num) false).1
    else toAcc f32 (sfuF 0 0 xr).1

def theAcc (s : State) (c a : Nat) : AccTile := ((s.core c).acc.find a).getD {}

/-- Cell [r][c] of a tile (R267). -/
def cellOf (x : AccTile) (r c : Nat) : Nat := ((x.cells.find (64 * r + c)).getD 0).toNat

/-- Nothing in flight names the tile (R268). -/
abbrev AccFree (s : State) (c a : Nat) (mma : Bool) : Prop :=
  (∀ sl ∈ s.slotsOf c, ∀ k ∈ (s.pack c sl).toks, k.acc ≠ some a) ∧ (mma = false → ∀ e ∈ (s.core c).mmaQ, e.acc ≠ a)

/-- An accumulator unit: of the cores only the tile a may have changed, and tiles, streams and queue as Q says. -/
abbrev AccUnit (i : Instr) (s : State) (u : Cur) (p : Pack) (a : Nat) (Q : State → Pack → Prop) : Prop :=
  ∃ t q, exec i s = .next t ∧ t.pack? u.core u.slot = some q ∧ SameRest s t ∧ SameOthers s t u ∧ PackBut p q ∧ LanesOn (ctxOf i s u p) p q u.ig ∧
    (∀ j, t.core j = { s.core j with evcnt := (t.core j).evcnt, trq := (t.core j).trq, acc := (t.core j).acc, spad := (t.core j).spad, tiles := (t.core j).tiles }) ∧
    (∀ j b, j ≠ u.core ∨ b ≠ a → (t.core j).acc.find b = (s.core j).acc.find b) ∧ SameRegs p q u.depth ∧ q.s = p.s ∧ q.m = p.m ∧ q.fpc = p.fpc ∧ Q t q

/-- What an instruction makes of its tile: the tag it asks for (R269), new tag, cells and poisoned rows. -/
structure AccWant where
  a : Nat
  tag : Option Bool
  int : Bool
  cell : Nat → Nat → Nat
  psn : Nat → Bool

def accWant (c : Ctx) (x : Nat → AccTile) : Instr → Option AccWant
  | .accz a f => some ⟨a.toNat, none, f == 1, fun _ _ => 0, fun _ => false⟩
  | .accwr va a col f =>
    let X := x a.toNat
    some ⟨a.toNat, if f = 0 then some false else if f = 1 then some true else none, X.int,
      fun r j => if c.act.getLsbD r ∧ j = col.toNat then
          (if f = 2 then (c.rv2 va r).toNat % 2 ^ 48 else if X.int then (BitVec.ofInt 48 (c.rv va r).toInt).toNat else toAcc f32 (c.rv va r).toNat)
        else cellOf X r j,
      fun r => X.pmask.getLsbD r || (c.act.getLsbD r && c.psn va (if f = 2 then 2 else 1) r)⟩
  | .accopScale va a =>
    let X := x a.toNat
    some ⟨a.toNat, some false, false, fun r j => if c.act.getLsbD r then (mulF a48 0 (cellOf X r j) (toAcc f32 (c.rv va r).toNat)).1 else cellOf X r j,
      fun r => X.pmask.getLsbD r || (c.act.getLsbD r && c.psn va 1 r)⟩
  | .accopAddrow va a =>
    let X := x a.toNat
    some ⟨a.toNat, none, X.int, fun r j =>
        if c.act.getLsbD r then (if X.int then (BitVec.ofInt 48 (intOf 48 (cellOf X r j) + (c.rv va r).toInt)).toNat
          else (addF a48 0 (cellOf X r j) (toAcc f32 (c.rv va r).toNat)).1) else cellOf X r j,
      fun r => X.pmask.getLsbD r || (c.act.getLsbD r && c.psn va 1 r)⟩
  | .accopExps va a sc =>
    let X := x a.toNat
    some ⟨a.toNat, some false, false, fun r j => if c.act.getLsbD r then expsQ (cellOf X r j) ((c.p.sreg sc.toNat).toNat % 2 ^ 32) (c.rv va r).toNat else cellOf X r j,
      fun r => X.pmask.getLsbD r || (c.act.getLsbD r && c.psn va 1 r)⟩
  | .accopMaskc a off =>
    let X := x a.toNat
    some ⟨a.toNat, some false, false, fun r j => if c.act.getLsbD r ∧ (c.lid r : Int) + off.toInt < j then 0xFFE000000000 else cellOf X r j, fun r => X.pmask.getLsbD r⟩
  | _ => none

/-- The largest of the numbers among codes, −0 below +0; the canonical f32 NaN when there is none (R277). -/
def maxRow (vs : List Nat) : Nat :=
  if vs.all (fNan a48) then f32.canon else fromAcc f32 false (vs.foldl (fun a b => (minF true a48 a b).1) (vs.headD 0))

/-- The exact sum of a row's codes, rounded once (R277). -/
def sumRow (vs : List Nat) : Nat :=
  if vs.any (fNan a48) || (vs.any (fun x => fInf a48 x && fSign a48 x) && vs.any (fun x => fInf a48 x && !fSign a48 x)) then f32.canon
  else match vs.find? (fInf a48) with
    | some x => fZero f32 (fSign a48 x) + f32.infCode
    | none => (roundNum f32 0 false ((vs.map (fVal a48)).sum) false).1

def rowOf (x : AccTile) (r : Nat) : List Nat := (List.range 64).map (cellOf x r)

/-- ROWMAX and ROWSUM (R277): the destination lane, with the row's poison. -/
def rowWant (x : Nat → AccTile) : Instr → Option (VReg × Nat × (Nat → VCell))
  | .accopRowmax d a => some (d, a.toNat, fun l => let X := x a.toNat
      { val := BitVec.ofNat 32 (if X.int then clamp32 ((rowOf X l).map (intOf 48) |>.foldl max (intOf 48 (cellOf X l 0))) else maxRow (rowOf X l)), psn := X.pmask.getLsbD l })
  | .accopRowsum d a => some (d, a.toNat, fun l => let X := x a.toNat
      { val := BitVec.ofNat 32 (if X.int then clamp32 (((rowOf X l).map (intOf 48)).sum) else sumRow (rowOf X l)), psn := X.pmask.getLsbD l })
  | _ => none

/-- ACCMV's forms (R279): tile, accumulator, bytes moved, writer, the tag it asks for. -/
def accmvParts : Instr → Option (Nat × Nat × Nat × Bool × Option Bool)
  | .accmvTotile t a et => some (t.toNat, a.toNat, 2048 * (if et = 0 then 4 else if et.toNat ≤ 2 then 2 else 1), true, if et = 0 then none else some false)
  | .accmvFromtile t a et => some (t.toNat, a.toNat, 2048 * (if et = 0 then 4 else if et.toNat ≤ 2 then 2 else 1), false, if et = 0 then none else some false)
  | .accmvSave t a => some (t.toNat, a.toNat, 12352, true, none)
  | .accmvLoad t a => some (t.toNat, a.toNat, 12352, false, none)
  | _ => none

def etFmt (et : Nat) : Fmt := if et = 0 then f32 else if et = 1 then f16 else if et = 2 then bf16 else if et = 3 then e4m3 else e5m2

/-- Byte n of what TOTILE and SAVE write (R279, R280). -/
def accOut (X : AccTile) : Instr → Nat → Byte
  | .accmvTotile _ _ et, n =>
    let z := if et = 0 then 4 else if et.toNat ≤ 2 then 2 else 1
    let v := cellOf X (n / z / 64) (n / z % 64)
    BitVec.ofNat 8 ((if X.int then clamp32 (intOf 48 v) else fromAcc (etFmt et.toNat) (decide (3 ≤ et.toNat)) v) / 256 ^ (n % z))
  | _, n => if n < 12288 then BitVec.ofNat 8 (cellOf X (n / 384) (n % 384 / 6) / 256 ^ (n % 6)) else if n = 12292 ∧ X.int then 1 else 0

/-- What FROMTILE and LOAD make of the tile (R279, R280): tag, cells, poisoned rows, of the bytes b and the poison of their blocks. -/
def accIn (X : AccTile) (b : Nat → Byte) (ps : Nat → Bool) : Instr → Bool × (Nat → Nat → Nat) × (Nat → Bool)
  | .accmvFromtile _ _ et =>
    let z := if et = 0 then 4 else if et.toNat ≤ 2 then 2 else 1
    (X.int, fun r j => let v := ((List.range z).map (fun k => (b ((64 * r + j) * z + k)).toNat * 256 ^ k)).sum
                       if X.int then (BitVec.ofInt 48 (intOf 32 v)).toNat else toAcc (etFmt et.toNat) v,
      fun r => (List.range (64 * z)).any (fun k => ps (64 * z * r + k)))
  | _ => ((b 12292).getLsbD 0, fun r j => ((List.range 6).map (fun k => (b (384 * r + 6 * j + k)).toNat * 256 ^ k)).sum,
      fun r => (b (12288 + r / 8)).getLsbD (r % 8) || (List.range 384).any (fun k => ps (384 * r + k)) || (List.range 64).any (fun k => ps (12288 + k)))

end Sys2Proof.Claims

/-- R270 to R272: an MMA queues its entry with its lanes, its scales (R271) and their poison; it waits while the queue holds 16 entries or an instruction in flight names its tile, and
traps ILLOP with detail TAG on a tile of the other tag. -/
def Sys2Proof.Claims.MmaQueuesItsEntry : Prop :=
  ∀ (acc : BitVec 6) (ty kch : BitVec 3) (asc : VReg) (la : BitVec 4) (zf : BitVec 1) (bsel : BitVec 2) (bsc : BitVec 5) (s : State) (u : Cur) (p : Pack),
    let i := Instr.mma acc ty kch asc la zf bsel bsc
    let c := ctxOf i s u p
    let nb := (kch.toNat + 1) * (if ty = 2 then 4 else 2)
    let Q := (s.core u.core).mmaQ
    i.wf = true → Issues i s u p →
    (16 ≤ Q.length ∨ ¬AccFree s u.core acc.toNat true → Stalls i s u p 6) ∧
    (Q.length < 16 → AccFree s u.core acc.toNat true →
      ((theAcc s u.core acc.toNat).int ≠ (ty == 5) → OnlyTraps i s u p (groupTrap c tILLOP 1)) ∧
      ((theAcc s u.core acc.toNat).int = (ty == 5) → c.act ≠ 0 →
        ∃ t q e, exec i s = .next t ∧ t.pack? u.core u.slot = some q ∧ SameRest s t ∧ SameOthers s t u ∧ SameBytes s t ∧
          (∀ j, t.core j = { s.core j with evcnt := (t.core j).evcnt, trq := (t.core j).trq, mmaQ := if j = u.core then Q ++ [e] else (s.core j).mmaQ }) ∧
          Ends c p q u.ig ∧ q.pending = withTraps p.pending s u c.tagged ∧
          e.wg = p.wg ∧ e.acc = acc.toNat ∧ e.ty = ty.toNat ∧ e.kch = kch.toNat + 1 ∧ e.zf = (zf == 1) ∧ e.u = c.act ∧ e.popped = none ∧ e.emul = false ∧
          (ty.toNat ≤ 2 → ∀ b, b < nb →
            (e.sb.getD b 0).toNat = (p.sreg (bsc.toNat + (b + bsel.toNat) / 4)).toNat / 2 ^ (16 * ((b + bsel.toNat) % 4)) % 2 ^ 16 ∧
            ∀ l, c.act.getLsbD l = true → ((e.sa.getD l []).getD b 0).toNat =
              (c.cell (asc.toNat + (b + bsel.toNat) / 2) l).val.toNat / 2 ^ (16 * ((b + bsel.toNat) % 2)) % 2 ^ 16) ∧
          ∀ l, e.sp.getLsbD l = (decide (ty.toNat ≤ 2) && c.act.getLsbD l &&
            (List.range ((nb - 1 + bsel.toNat) / 2 + 1)).any (fun k => (c.cell (asc.toNat + k) l).psn))))

/-- R89, R266 to R269, R274, R276 to R278: ACCZ, ACCWR and ACCOP give the rows of their lanes the cells of their rules and mark poisoned rows; ROWMAX and ROWSUM write one
register; they wait while something in flight names the tile, and trap ILLOP with detail TAG on a tile of the other tag. (EXPS with the model's FEXP2, log 11.) -/
def Obligations.AccumulatorRowsAreComputed : Prop :=
  ∀ (i : Instr) (s : State) (u : Cur) (p : Pack), i.wf = true → s.legal = true → Issues i s u p →
    let c := ctxOf i s u p
    (∀ w : AccWant, accWant c (theAcc s u.core) i = some w →
      (¬AccFree s u.core w.a false → Stalls i s u p 6) ∧
      (AccFree s u.core w.a false → (w.tag.isSome = true ∧ w.tag ≠ some (theAcc s u.core w.a).int) → OnlyTraps i s u p (groupTrap c tILLOP 1)) ∧
      (AccFree s u.core w.a false → (w.tag = none ∨ w.tag = some (theAcc s u.core w.a).int) →
        AccUnit i s u p w.a (fun t q => q.pending = withTraps p.pending s u c.tagged ∧ SameBytes s t ∧ (∀ j, (t.core j).tiles = (s.core j).tiles) ∧
          (theAcc t u.core w.a).int = w.int ∧
          ∀ r, r < 32 → (theAcc t u.core w.a).pmask.getLsbD r = w.psn r ∧ ∀ j, j < 64 → cellOf (theAcc t u.core w.a) r j = w.cell r j))) ∧
    (∀ (d : VReg) (a : Nat) (f : Nat → VCell), rowWant (theAcc s u.core) i = some (d, a, f) →
      (¬AccFree s u.core a false → Stalls i s u p 6) ∧
      (AccFree s u.core a false → ∃ t q, exec i s = .next t ∧ RegUnit c s t u p q u.ig ∧
        CellsAre p q u.depth d.toNat 1 (fun l _ => if c.act.getLsbD l then some (f l) else none) ∧ OtherFrames p q u.depth ∧
        q.s = p.s ∧ q.m = p.m ∧ q.fpc = p.fpc ∧ q.pending = withTraps p.pending s u c.tagged))

/-- R89, R268, R269, R274, R276: ACCRD writes the converted cell of each lane's row; lanes of poisoned rows keep their destination and trap POISON when it completes.
(Paired lanes' rows alike, R419.) -/
def Sys2Proof.Claims.AccrdReadsCleanRows : Prop :=
  ∀ (d : VReg) (acc col : BitVec 6) (x : BitVec 4) (s : State) (u : Cur) (p : Pack),
    let i := Instr.accrd d acc col x
    let c := ctxOf i s u p
    let X := theAcc s u.core acc.toNat
    let bad := c.accessors.filter (fun l => X.pmask.getLsbD l || (c.q.paired && X.pmask.getLsbD (l + 16)))
    i.wf = true → Issues i s u p →
    (¬AccFree s u.core acc.toNat false → Stalls i s u p 6) ∧
    (AccFree s u.core acc.toNat false → (x = 0 ∧ X.int = true ∨ x = 1 ∧ X.int = false) → OnlyTraps i s u p (groupTrap c tILLOP 1)) ∧
    (AccFree s u.core acc.toNat false → (x = 0 → X.int = false) → (x = 1 → X.int = true) →
      (c.q.paired = true → ∀ l ∈ c.accessors, cellOf X l col.toNat = cellOf X (l + 16) col.toNat) →
      ∃ t q, exec i s = .next t ∧ RegUnit c s t u p q u.ig ∧ OtherFrames p q u.depth ∧ q.s = p.s ∧ q.m = p.m ∧ q.fpc = p.fpc ∧ q.pending = withTraps p.pending s u c.tagged ∧
        CellsAre p q u.depth d.toNat (if x = 2 then 2 else 1) (fun l k => if takes c l && !bad.contains (c.lid l) then
          let v := cellOf X l col.toNat
          some { val := BitVec.ofNat 32 (if x = 2 then v / 2 ^ (32 * k) else if X.int then clamp32 (intOf 48 v) else fromAcc f32 false v) } else none) ∧
        (bad ≠ [] → ∃ k ∈ q.toks, ∃ tr, k.trap = some tr ∧ tr.code = tPOISON ∧ tr.lanes = laneMask bad) ∧ (bad = [] → ∀ k ∈ q.toks, k ∉ p.toks → k.trap.isSome = true → k.id ≠ s.nextId))

/-- R89, R268 to R272, R274, R276: MMA queues its entry; ACCRD reads rows. -/
def Obligations.MmaQueuesAndAccrdReads : Prop := Claims.MmaQueuesItsEntry ∧ Claims.AccrdReadsCleanRows

/-- R89, R166, R168, R268, R269, R279, R280: ACCMV checks RANGE, tag, BOUNDS, poison and the gate in that order; TOTILE and SAVE write the tile's bytes and make it FILLING,
FROMTILE and LOAD read them into the accumulator as one reader, until they complete. -/
def Obligations.AccumulatorTilesMove : Prop :=
  ∀ (i : Instr) (tl a n : Nat) (wr : Bool) (tag : Option Bool) (s : State) (u : Cur) (p : Pack), accmvParts i = some (tl, a, n, wr, tag) → i.wf = true → s.legal = true →
    Issues i s u p →
    let c := ctxOf i s u p
    let w := s.wg p.wg
    let X := theAcc s u.core a
    (¬AccFree s u.core a false → Stalls i s u p 1) ∧
    (AccFree s u.core a false → c.q.ntiles ≤ tl → OnlyTraps i s u p (groupTrap c tTILE 1 0 (leBytes 4 tl))) ∧
    (∀ x : Tile, AccFree s u.core a false → OnTile i s u p tl x →
      let tagOk := tag = none ∨ tag = some X.int
      let base := w.way * 16384 + x.off * 256
      (¬tagOk → OnlyTraps i s u p (groupTrap c tILLOP 1)) ∧
      (tagOk → x.size * 256 < n → OnlyTraps i s u p (groupTrap c tTILE 3 0 (leBytes 4 tl))) ∧
      (tagOk → n ≤ x.size * 256 → wr = true → X.pmask ≠ 0 → OnlyTraps i s u p (groupTrap c tPOISON X.pmask.toNat)) ∧
      (tagOk → n ≤ x.size * 256 → (c.q.paired = true → ∀ r j, r < 16 → j < 64 → cellOf X r j = cellOf X (r + 16) j) →
        (wr = true → X.pmask = 0 → x.st ≠ .empty → Stalls i s u p 1) ∧ (wr = false → x.st ≠ .ready ∨ 63 ≤ x.readers → Stalls i s u p 1) ∧
        ((∀ k, k < n → s.latent.has (spadLatent u.core (base + k)) = false) →
          (wr = true → X.pmask = 0 → x.st = .empty → AccUnit i s u p a (fun t q => q.pending = withTraps p.pending s u c.tagged ∧ t.core u.core = { t.core u.core with acc := (s.core u.core).acc } ∧
            TileIs s t w tl { x with st := .filling, err := 0, psn := false } ∧ (∃ k ∈ q.toks, k.tile = some (tl, true)) ∧
            ∀ pl : Place, t.placeByte pl = match pl with
              | .spad k o => if k = u.core ∧ base ≤ o ∧ o < base + n then accOut X i (o - base) else s.spadByte k o
              | pl => s.placeByte pl)) ∧
          (wr = false → x.st = .ready → x.readers < 63 → AccUnit i s u p a (fun t q => q.pending = withTraps p.pending s u c.tagged ∧ SameBytes s t ∧
            TileIs s t w tl { x with readers := x.readers + 1 } ∧ (∃ k ∈ q.toks, k.tile = some (tl, false)) ∧
            let r := accIn X (fun k => s.spadByte u.core (base + k)) (fun k => s.spadPoisoned u.core (base + k)) i
            (theAcc t u.core a).int = r.1 ∧ ∀ y, y < 32 → (theAcc t u.core a).pmask.getLsbD y = r.2.2 y ∧ ∀ j, j < 64 → cellOf (theAcc t u.core a) y j = r.2.1 y j)))))

/-- R172, R173, R176, R273, R282: the first unfetched position of a stream takes its tile's bytes and poison when the buffer has room; the head of the MMA queue starts when both streams
hold its positions and the first are fetched, and pops them; it then completes: its rows take the sums of R91 to R94 and the poison of R273. (Positions in no replay group; paired
rows read A's row i mod 16, log 23; an e2m1 entry is driven with the positions the firmware staged, R275, R405.) -/
def Obligations.MatrixEntriesRun : Prop :=
  ∀ (s : State) (c : Nat), s.legal = true → c < 160 →
    let k := s.core c
    let own := k.mxOwner.getD 0
    (∀ (b : Bool) (j : Nat) (x : Pos),
      let q := (if b then k.strB else k.strA).q
      let sz := if b then 16384 else 8192
      let base := (s.wg own).way * 16384 + (s.tile (s.wg own) x.tile).off * 256 + x.p * sz
      q[j]? = some x → x.data = none → (∀ y ∈ q.take j, y.data.isSome = true) →
      ((q.filter (fun y => y.data.isSome)).length < (if b then 4 else 8) → (∀ o, o < sz → s.latent.has (spadLatent c (base + o)) = false) →
        ∃ t, exec (.streamFill c b) s = .next t ∧ t = { s with cores := t.cores } ∧
          (∀ e, t.core e = { s.core e with strA := (t.core e).strA, strB := (t.core e).strB }) ∧ (∀ e, e ≠ c → t.core e = s.core e) ∧ (t.core c).strm (!b) = k.strm (!b) ∧
          ((t.core c).strm b).q = q.take j ++ { x with data := some ((List.range sz).map (fun o => s.spadByte c (base + o)),
            (List.range (sz / 64)).map (fun o => s.spadPoisoned c (base + 64 * o))) } :: q.drop (j + 1)) ∧
      ((if b then 4 else 8) ≤ (q.filter (fun y => y.data.isSome)).length → exec (.streamFill c b) s = .next s)) ∧
    (∀ (e : MmaEntry) (es : List MmaEntry), k.mmaQ = e :: es →
      (e.popped = none → (∀ r ∈ s.packs, r.2.flushes = []) → e.kch ≤ k.strA.q.length → e.kch ≤ k.strB.q.length → 0 < e.kch →
        (∀ y ∈ k.strA.q.take e.kch ++ k.strB.q.take e.kch, y.gid = 0 ∧ y.data.isSome = true) → (s.wg own).core = c →
        ∃ t, exec (.mmaEntryStart c) s = .next t ∧ t = { s with cores := t.cores, packs := t.packs } ∧ (∀ j, j ≠ c → t.core j = s.core j) ∧
          (∀ j r, s.packs.find j = some r → r.wg ≠ own → t.packs.find j = some r) ∧
          t.core c = { k with tiles := (t.core c).tiles, strA := { q := k.strA.q.drop e.kch }, strB := { q := k.strB.q.drop e.kch }, mxGated := false, mxUsed := s.cycle, mmaQ := { e with popped := some ((k.strA.q.take e.kch).filterMap Pos.data, (k.strB.q.take e.kch).filterMap Pos.data) } :: es, trq := if e.ty = 2 then k.trq ++ [{ slot := e.slot, code := 0x0D, ctx := (s.wg e.wg).ctx }] else k.trq } ∧
          ∀ n, (s.tile (s.wg own) n).readers = (t.tile (s.wg own) n).readers + min (s.tile (s.wg own) n).readers
            ((k.strA.q.take e.kch ++ k.strB.q.take e.kch).filter (fun y => y.last && y.tile == n)).length) ∧
      (∀ pa pb, e.popped = some (pa, pb) → e.ty ≤ 5 → (e.ty = 2 → e.emul = true) → pa.length = e.kch → pb.length = e.kch →
        (∀ y ∈ pa, y.1.length = 8192 ∧ y.2.length = 128) → (∀ y ∈ pb, y.1.length = 16384 ∧ y.2.length = 256) →
        let X := theAcc s c e.acc
        let staged := fun (str pos sz : Nat) => (List.range sz).map (fun o => BitVec.ofNat 8 (((k.emStage.find ((str * 16 + pos) * 2048 + o / 8)).getD 0).toNat / 256 ^ (o % 8)))
        let da := if e.ty = 2 then (List.range (2 * e.kch)).map (fun x => staged 0 x 8192) else pa.map Prod.fst
        let db := if e.ty = 2 then (List.range (2 * e.kch)).map (fun x => staged 1 x 16384) else pb.map Prod.fst
        let ra := fun r => if e.paired then r % 16 else r
        ∃ t, exec (.mmaEntryComplete c) s = .next t ∧ t = { s with cores := t.cores, outbox := t.outbox } ∧ (∀ j, j ≠ c → t.core j = s.core j) ∧
          t.core c = { k with mmaQ := es, acc := (t.core c).acc, mxUsed := s.cycle, evcnt := (t.core c).evcnt } ∧
          (∀ b, b ≠ e.acc → (t.core c).acc.find b = k.acc.find b) ∧ (theAcc t c e.acc).int = X.int ∧
          (∀ r j, r < 32 → j < 64 → cellOf (theAcc t c e.acc) r j =
            if e.u.getLsbD r then cellAfter (if e.ty = 2 then 0 else e.ty) (fun b => ((e.sa.getD r []).getD b 0).toNat) (fun b => (e.sb.getD b 0).toNat)
              (da.map (fun y => (y.drop (256 * ra r)).take 256)) (db.map (fun y => (y.drop (256 * j)).take 256)) (if e.zf then 0 else cellOf X r j)
            else cellOf X r j) ∧
          (e.paired = false → ∀ r, r < 32 → (theAcc t c e.acc).pmask.getLsbD r =
            if e.u.getLsbD r then (X.pmask.getLsbD r && !e.zf) || e.sp.getLsbD r || pa.any (fun y => ((y.2.drop (4 * r)).take 4).any id) || pb.any (fun y => y.2.any id)
            else X.pmask.getLsbD r))) ∧
    (let busy := ∃ e es, k.mmaQ = e :: es ∧ e.popped.isSome = true
     (k.mxIdle = 0 ∨ k.mxGated = true ∨ busy ∨ s.cycle < k.mxUsed + k.mxIdle.toNat → exec (.mxGate c) s = .next s) ∧
     (k.mxIdle ≠ 0 → k.mxGated = false → ¬busy → k.mxUsed + k.mxIdle.toNat ≤ s.cycle → ∃ t, exec (.mxGate c) s = .next t ∧ t = { s with cores := t.cores } ∧
       (∀ j, j ≠ c → t.core j = s.core j) ∧ t.core c = { k with mxGated := true }))

/-- R39, R41, R143, R268, R279, R293: an instruction in flight completes: its registers and its tile are free, the trap it met is raised, the tile it wrote is READY, the reader it
was is done; for what is not in flight nothing happens. -/
def Obligations.InstructionsInFlightComplete : Prop :=
  ∀ (i : Instr) (kind c sl id : Nat) (s : State) (p : Pack), s.pack? c sl = some p →
    i = .memoryAccessComplete c sl id ∧ kind = 0 ∨ i = .atomResult c sl id ∧ kind = 1 ∨ i = .longLatencyComplete c sl id ∧ kind = 2 ∨ i = .accumulatorInstructionComplete c sl id ∧ kind = 3 →
    let fit := fun (k : Tok) => k.id == id && (k.kind == kind || kind == 1 && k.kind == 6) && k.pend.isNone && !(k.kind == 6 && s.atomrOut id)
    (∀ k : Tok, p.toks.find? fit = some k →
      (k.tile = none → exec i s = .next { s with packs := s.packs.upd (packKey c sl) (fun p => { p with toks := p.toks.filter (fun x => x.id != id), pending := k.trap.toList.foldl (fun ts tr => queueTrap tr ts) p.pending }) }) ∧
      (∀ n w x, k.tile = some (n, w) → (s.wg p.wg).core = c → (s.core c).tiles.find ((s.wg p.wg).tileIx n) = some x → p.waitev = [] → k.trap = none →
        ∃ t q, exec i s = .next t ∧ t.pack? c sl = some q ∧ q = { p with toks := p.toks.filter (fun x => x.id != id), evpend := q.evpend } ∧
          t = { s with packs := t.packs, cores := t.cores } ∧ (∀ j, t.core j = { s.core j with tiles := (t.core j).tiles }) ∧
          TileIs s t (s.wg p.wg) n (if w then { x with st := .ready } else
            { x with readers := x.readers - 1, st := if x.st = .draining ∧ x.readers ≤ 1 then .empty else x.st }))) ∧
    (p.toks.find? fit = none → exec i s = .next s)

namespace Sys2Proof.Claims

/-! ## Frame grants, spills and refills (R189, R190, R198 to R202) -/

/-- The request that is served first: the lowest class, then the oldest (R199). -/
abbrev FirstOf (ws : List Want) (w : Want) : Prop := w ∈ ws ∧ ∀ v ∈ ws, v ≠ w → w.cls < v.cls ∨ w.cls = v.cls ∧ w.ord < v.ord

/-- Frame d of the pack in a slot, changed to f; nothing else of that pack's frames has changed. -/
abbrev FrameNow (p q : Pack) (d : Nat) (f : Frame) : Prop := q.frames = p.frames.set d f

/-- Bytes n to n + k - 1 of a list as a number. -/
def numAt (bs : List Byte) (n k : Nat) : Nat := ((List.range k).map (fun j => (bs.getD (n + j) 0).toNat * 256 ^ j)).sum

/-- The context is dead: no pack of it is left, and its state is 5 (R407, R408). -/
abbrev Dead (t : State) (ctx : Nat) : Prop := (∀ k r, t.packs.find k = some r → r.ctx ≠ ctx) ∧ t.reg (0x600000 + 0x80 * ctx + 0x70) % 8 = 5

/-! ## Traps (R383 to R391) -/

/-- The fields of a fault record (R385): last bit, first bit, value. -/
def recordFields (p : Pack) (t : Trap) (esc pend : Bool) (cnt : Nat) : List (Nat × Nat × Nat) :=
  let low := (lanesOf (t.lanes ||| t.defer)).headD 0
  let b := fun (x : Bool) => if x then 1 else 0
  [(7, 0, t.code), (8, 8, b esc), (9, 9, b t.hlvl), (10, 10, b pend), (15, 11, 0), (23, 16, t.depth), (31, 24, 0), (63, 32, t.detail), (95, 64, t.lanes.toNat),
   (127, 96, t.defer.toNat), (191, 128, t.replay.toNat), (196, 192, t.k.getD 0), (197, 197, b t.k.isSome),
   (199, 198, if [15, 16, 17, 18, 21, 22].contains t.code then 1 else 0), (255, 200, 0), (319, 256, (p.lane low).pc.toNat), (383, 320, 0),
   (415, 384, t.words.getD 0 0), (447, 416, t.words.getD 1 0), (479, 448, t.words.getD 2 0), (511, 480, t.words.getD 3 0), (575, 512, t.va.toNat), (767, 672, 0),
   (1599, 1536, t.cycle.toNat), (1631, 1600, cnt), (2047, 1632, 0)] ++
  (List.range 32).map (fun l => (576 + 3 * l + 2, 576 + 3 * l, (p.lane l).count % 8)) ++
  (List.range 96).map (fun k => (768 + 8 * k + 7, 768 + 8 * k, (t.info.getD k 0).toNat))

/-- The next trap to deliver, and what stays pending (R384, R391). -/
abbrev NextTrap (p : Pack) (t : Trap) (ts : List Trap) : Prop :=
  p.svc = none ∧
  (p.handler = none ∧ p.lastAct = 0 ∧ t.hlvl = false ∧ p.pending = t :: ts ∨
   p.handler.isSome = true ∧ t.hlvl = true ∧ ∃ a b, p.pending = a ++ t :: b ∧ ts = a ++ b ∧ ∀ x ∈ a, x.hlvl = false)

/-- Does R387 send the trap to the in-pack handler? -/
def toHandler (s : State) (c : Nat) (p : Pack) (t : Trap) : Bool :=
  p.handler.isNone && !([18, 19, 20].contains t.code) && !(t.code == 12 && t.detail == 4) &&
  !([15, 22].contains t.code && (lanesOf t.lanes).all (fun l => (p.lane l).st == .exited)) &&
  s.reg (0x600000 + 0x80 * p.ctx + 0x48) != 0 && decide (s.reg (0x600000 + 0x80 * p.ctx + 0x58) / 2 ^ t.code % 2 = 1) &&
  (decide (0 < s.rsvFree c) || decide (0 < s.poolFree c))

def lanesH (t : Trap) : Word := t.lanes ||| t.defer

/-- A lane after an escalation's or handler's end (R390). -/
abbrev AfterAction (t : Trap) (a : Nat) (npc : DWord) (x y : Lane) : Prop :=
  (a = 0 → y.st = .active ∧ y.released = true ∧ y.replay = t.replay ∧ y.replayK = t.k ∧ y.depth = x.depth ∧ y.count = x.count) ∧
  (a = 1 → y.pc = x.pc ∧ y.k = x.k ∧ y.depth = x.depth ∧ y.st = x.st) ∧
  (a = 2 → y.pc = npc ∧ y.k = none ∧ y.depth = x.depth ∧ y.st = .active ∧ y.count = 0) ∧
  (a = 3 → y.st = .exited)

end Sys2Proof.Claims

/-- R189, R190, R198 to R202: the first waiting request is granted when its granules are free (a refill gets its run); the escape spill engine starts on its victim when every pack is
stuck or a request's wait is over; a spill writes the frame to its backing and evicts the pack of a top frame; a refill and a record's read-back bring back what was written; a record that
R189 refuses kills the context. -/
def Obligations.FrameEventsGrantSpillAndRefill : Prop :=
  ∀ (s : State) (c sl : Nat) (w : Want), (s.cores.find c).isSome = true → c < 160 → sl < 48 →
    let k := s.core c
    (FirstOf (s.wants c) w → w.n ≤ s.poolFree c → w.slot < 48 →
      (w.depth = none → exec (.frameGrant c) s = .next { s with packs := s.packs.upd (packKey c w.slot) (fun p => { p with req := p.req.map (fun r => { r with granted := true }), ownStall := none }) }) ∧
      (∀ d b, w.depth = some d → findRun (s.poolRuns c) w.n = some b → d < (s.pack c w.slot).frames.length →
        ∃ t q, exec (.frameGrant c) s = .next t ∧ t.pack? c w.slot = some q ∧ t = { s with packs := t.packs } ∧ (∀ j, j ≠ packKey c w.slot → t.packs.find j = s.packs.find j) ∧
          FrameNow (s.pack c w.slot) q d { (s.pack c w.slot).frames.getD d {} with st := .refilling, base := b } ∧ q.evicted = ((s.pack c w.slot).evicted && w.cls != 4))) ∧
    (FirstOf (s.wants c) w → s.poolFree c < w.n → exec (.frameGrant c) s = .next s) ∧
    (∀ i v, (i = .escapeSpillStart c ∧ (∀ x ∈ s.slotsOf c, s.packStuck c x = true) ∨
        i = .frameWaitExpiry c sl ∧ k.frameWait.toNat % 2 ^ 32 ≠ 0 ∧ ∃ r, (s.pack c sl).req = some r ∧ r.granted = false ∧ r.cls ≤ 3 ∧ r.since + k.frameWait.toNat % 2 ^ 32 ≤ s.cycle) →
      k.spill = none → s.grantable c = none → s.served c = some w → s.victim c w = some v →
      (s.victims c w false ≠ [] → v ∈ s.victims c w false ∧ ∀ x ∈ s.victims c w false,
        ((s.pack c v.1).frames.getD v.2 {}).touched ≤ ((s.pack c x.1).frames.getD x.2 {}).touched) ∧
      ∃ t q, exec i s = .next t ∧ t.pack? c v.1 = some q ∧ t = { s with packs := t.packs, cores := t.cores } ∧ (∀ j, j ≠ packKey c v.1 → t.packs.find j = s.packs.find j) ∧
        (∀ j, t.core j = { s.core j with spill := if j = c then some { slot := v.1, depth := v.2 } else (s.core j).spill }) ∧
        FrameNow (s.pack c v.1) q v.2 { (s.pack c v.1).frames.getD v.2 {} with st := .spilling }) ∧
    (∀ (j : SpillJob) (p : Pack) (f : Frame) (s1 s2 : State), k.spill = some j → s.pack? c j.slot = some p → p.frames[j.depth]? = some f → f.st = .spilling →
      (∀ x ∈ p.toks, ∀ r ∈ x.wr, r / 128 ≠ j.depth) → s.writeBack c j.slot j.depth = (s1, true) → s1.markSpilled c j.slot j.depth = (s2, true) → j.slot < 48 →
      ∃ t q, exec (.spillComplete c) s = .next t ∧ t.pack? c j.slot = some q ∧
        (q.frames.getD j.depth {}).st = .spilled ∧ (q.frames.getD j.depth {}).size = f.size ∧ q.spills = min (p.spills + 1) (2 ^ 24 - 1) ∧
        (j.depth + 1 = p.frames.length → q.evicted = true) ∧ (j.depth + 1 ≠ p.frames.length → q.evicted = p.evicted)) ∧
    (∀ (p : Pack) (d : Nat) (f : Frame) (s1 : State) (bs : List (Byte × Bool)), s.pack? c sl = some p → p.refilling = some d → p.frames[d]? = some f → f.onChip = true →
      ctlRead (c / 16) p.ctx true (s.lpBase p + 32 * s.backOff p d) (128 * (8 * f.size + 8)) s = (s1, some bs) →
      ∃ t q, exec (.refillComplete c sl) s = .next t ∧ t.pack? c sl = some q ∧ q.refills = min (p.refills + 1) (2 ^ 24 - 1) ∧
        (q.frames.getD d {}).st = .resident ∧ (∀ e, e ≠ d → q.frames.getD e {} = p.frames.getD e {}) ∧
        ∀ r l, r < 8 * f.size → l < 32 →
          let by_ := bs.map Prod.fst
          let n := 8 * f.size
          (q.frames.getD d {}).cell r l = { val := BitVec.ofNat 32 (numAt by_ (128 * r + 4 * l) 4), psn := (List.range 4).any (fun j => (bs.getD (128 * r + 4 * l + j) (0, false)).2) || decide (numAt by_ (128 * (n + r / 32) + 4 * l) 4 / 2 ^ (r % 32) % 2 = 1), tag := decide (numAt by_ (128 * (n + 4 + r / 32) + 4 * l) 4 / 2 ^ (r % 32)% 2 = 1) }) ∧
    (∀ (p : Pack) (d : Nat) (f : Frame) (s1 : State) (bs : List Byte), s.pack? c sl = some p → p.frames[d]? = some f → f.onChip = false →
      (∀ e, d < e → e < p.frames.length → (p.frames.getD e {}).onChip = true) → (p.frames.filter (fun x => x.onChip)).length < 8 →
      s.pinRead c p.ctx (s.crBase p + 32 * d) 32 = (s1, some bs) → bs.length = 32 →
      let z := numAt bs 0 32 / 2 ^ 105 % 16
      let refused := z < 1 ∨ 14 < z ∨ (numAt bs 0 32 / 2 ^ 120 % 2 = 0 ∧ 479 < numAt bs 0 32 / 2 ^ 96 % 512) ∨ numAt bs 0 32 / 2 ^ 121 ≠ 0
      (¬refused → ∃ t q, exec (.recordReadback c sl) s = .next t ∧ t = { s1 with packs := t.packs } ∧ t.pack? c sl = some q ∧
        FrameNow p q d { f with onChip := true, rpc := BitVec.ofNat 64 (numAt bs 0 8), cmask := BitVec.ofNat 32 (numAt bs 8 4), ab := numAt bs 12 4 / 2 ^ 13 % 128, retc := numAt bs 14 1 / 2 ^ 4 }) ∧
      (refused → s.legal = true → p.ctx < 64 → ∃ t, exec (.recordReadback c sl) s = .next t ∧ Dead t p.ctx))

/-- R383 to R388, R391, R398: a pending trap is delivered in order: to the in-pack handler when R387 says so (fault record and save area in memory, trap frame, lanes of H at HENTRY, s29 to
s31, m6 and m7), else to the supervisor core (record with ESC, pack parked, trap queue entry); DOUBLE ends the context. While the context is SAVING it stays pending. -/
def Obligations.TrapsAreDelivered : Prop :=
  ∀ (s : State) (c sl : Nat) (p : Pack) (t : Trap) (ts : List Trap), s.pack? c sl = some p → p.ctx < 64 → (s.cores.find c).isSome = true → NextTrap p t ts →
    (s.launch (s.wg p.wg).uid).r.replay = false →
    let s0 := { s with packs := s.packs.upd (packKey c sl) (fun p => { p with pending := ts }) }
    let h := toHandler s c p t
    let cnt := min (p.traps + 1) (2 ^ 32 - 1)
    let rec_ := faultRecord p.lane { t with hlvl := t.hlvl || p.handler.isSome } (!h) (decide (ts ≠ [])) cnt
    let st := s.stackVa c sl p.ctx
    let tf : Nat × Bool := match s.rsvRuns c with
      | g :: _ => (g, true)
      | [] => ((findRun (s.poolRuns c) 1).getD 0, false)
    let save := (List.range 8).flatMap (fun k => leBytes 8 (p.sreg (24 + k)).toNat) ++ leBytes 4 (p.m.getD 6 0).toNat ++ leBytes 4 (p.m.getD 7 0).toNat
    (rec_.length = 256 ∧ (t.code < 256 → t.depth < 256 → t.detail < 2 ^ 32 → (∀ k, t.k = some k → k < 32) → (∀ w ∈ t.words, w < 2 ^ 32) →
      ∀ x ∈ recordFields p { t with hlvl := t.hlvl || p.handler.isSome } (!h) (decide (ts ≠ [])) cnt, fieldOf rec_ x.1 x.2.1 = x.2.2)) ∧
    (s.reg (0x600000 + 0x80 * p.ctx + 0x70) % 8 = 2 → ∀ i, i = .trapDelivery c sl ∨ i = .escalation c sl ∨ i = .pendingTrapDelivery c sl → exec i s = .next s) ∧
    (s.reg (0x600000 + 0x80 * p.ctx + 0x70) % 8 ≠ 2 →
      (h = true → ∀ i s1 s2, i = .trapDelivery c sl ∨ i = .pendingTrapDelivery c sl → s0.pinWrite c p.ctx (s.frBase p) rec_ = (s1, true) → s1.pinWrite c p.ctx st save = (s2, true) →
        ∃ u q d, exec i s = .next u ∧ u.pack? c sl = some q ∧ u = { s2 with packs := u.packs, cores := u.cores, outbox := u.outbox } ∧
          (∀ j, j ≠ packKey c sl → u.packs.find j = s.packs.find j) ∧ (∀ j, u.core j = { s2.core j with evcnt := (u.core j).evcnt }) ∧
          q = { p with pending := ts, traps := cnt, lanes := q.lanes, s := q.s, m := q.m, trapFrame := some ({ size := 1, base := tf.1 }, tf.2), trapRuns := if tf.2 then [] else [(tf.1, 1)], req := none, handler := some d } ∧
          d.trap = t ∧ d.req = p.req.map (fun r => { r with granted := false }) ∧ (∀ l, l < 32 → d.kept.find l = if (lanesH t).getLsbD l then some (p.lane l) else none) ∧
          (∀ l, l < 32 → q.lane l = if (lanesH t).getLsbD l then
            { p.lane l with pc := BitVec.ofNat 64 (s.reg (0x600000 + 0x80 * p.ctx + 0x48)), k := none, st := .active, released := false, failx := none, blocked := false, count := 0, age := 0, why := .none, shadow := none } else p.lane l) ∧
          (∀ k, q.sreg k = if k = 31 then BitVec.ofNat 64 (s.frBase p) else if k = 30 then BitVec.ofNat 64 (st + 128) else if k = 29 then BitVec.ofNat 64 (leNat (rec_.take 8)) else p.sreg k) ∧
          (∀ k, q.m.getD k 0 = if k = 7 then t.lanes else if k = 6 then t.defer else p.m.getD k 0)) ∧
      (h = false → t.code ≠ 20 → ∀ i s1, i = .escalation c sl ∨ i = .pendingTrapDelivery c sl → s0.pinWrite c p.ctx (if p.handler.isSome then st + 256 else s.frBase p) rec_ = (s1, true) →
        ∃ u q, exec i s = .next u ∧ u.pack? c sl = some q ∧ (t.code ≠ 19 → u = { s1 with packs := u.packs, cores := u.cores, outbox := u.outbox }) ∧
          (∀ j, j ≠ packKey c sl → u.packs.find j = s.packs.find j) ∧
          q = { p with pending := ts, traps := cnt, svc := some { trap := { t with hlvl := t.hlvl || p.handler.isSome } } } ∧
          (u.core c).trq = (s.core c).trq ++ [{ slot := sl, code := t.code, ctx := p.ctx }]) ∧
      (t.code = 20 → s.legal = true → ∀ i, i = .escalation c sl ∨ i = .pendingTrapDelivery c sl → ∃ u, exec i s = .next u ∧ Dead u p.ctx))

/-- R390, R391, R399: ENDTRAP ends an escalated delivery with the ACTION of its record; the lanes outside H stay as they are. Without one it is refused. -/
def Sys2Proof.Claims.EndtrapEndsTheEscalation : Prop :=
  ∀ (s s1 : State) (c sl : Nat) (p : Pack) (a : Nat) (npc : DWord), s.pack? c sl = some p → (s.cores.find c).isSome = true →
    (p.svc = none → ∃ t, exec (.endtrap c sl) s = .next t ∧ t = { s with cores := t.cores } ∧ (t.core c).csr.find 0x7C3 = some 0x1000) ∧
    (∀ d : Delivery, p.svc = some d → p.handler = none → s.readAction c p.ctx (if d.trap.hlvl then s.stackVa c sl p.ctx + 256 else s.frBase p) = (s1, some (a, npc)) → a < 4 →
      ∃ t q, exec (.endtrap c sl) s = .next t ∧ t.pack? c sl = some q ∧ t = { s1 with packs := t.packs, cores := t.cores } ∧ (t.core c).csr.find 0x7C3 = some 0 ∧ q.svc = none ∧
        q.s = p.s ∧ q.m = p.m ∧ q.fpc = p.fpc ∧ q.pending = p.pending ∧
        (∀ l, l < 32 → (lanesH d.trap).getLsbD l = true → (p.lane l).st ≠ .exited → AfterAction d.trap a npc (p.lane l) (q.lane l)) ∧
        (a ≠ 3 → ∀ l, l < 32 → (lanesH d.trap).getLsbD l = false → q.lane l = p.lane l))

/-- R390, R391, R399: the end of a delivery, in the pack or by ENDTRAP. -/
def Obligations.DeliveriesEndWithTheirAction : Prop := Claims.EndOfDeliveryAppliesTheAction ∧ Claims.EndtrapEndsTheEscalation

namespace Sys2Proof.Claims

/-- Of the cores only core c has changed, by f. -/
abbrev CoreNow (s t : State) (c : Nat) (k : Core) : Prop := t.core c = k ∧ ∀ j, j ≠ c → t.core j = s.core j

/-- The pack in a slot is now q; no other pack has changed. -/
abbrev PackNow (s t : State) (c sl : Nat) (q : Pack) : Prop := t.pack? c sl = some q ∧ ∀ j, j ≠ packKey c sl → t.packs.find j = s.packs.find j

/-- A custom CSR's value (R399). -/
def csrVal (s : State) (c n : Nat) : Nat := (((s.core c).csr.find n).getD 0).toNat

/-- A custom CSR now has a value, the others are as before. -/
abbrev CsrNow (k k' : Core) (n v : Nat) : Prop := ∀ j, (k'.csr.find j).map BitVec.toNat = if j = n then some v else (k.csr.find j).map BitVec.toNat

/-- A command was taken (PKSTAT.ERR reads 0) or refused (1): of its core only the CSR has changed. -/
abbrev Took (s t : State) (c : Nat) (ok : Bool) : Prop :=
  (∀ j, t.core j = { s.core j with csr := (t.core j).csr }) ∧ (∀ j, j ≠ c → t.core j = s.core j) ∧ CsrNow (s.core c) (t.core c) 0x7C3 (if ok then 0 else 4096)

/-- A refused command. -/
abbrev RefusedCmd (i : Instr) (s : State) (c : Nat) : Prop := ∃ t, exec i s = .next t ∧ t = { s with cores := t.cores } ∧ Took s t c false

/-- The words of a held fault's image (R118), TAG zero. -/
def imageWord (g : FaultImg) (n : Nat) : Nat :=
  match n with
  | 0 => g.va.toNat
  | 1 => g.gpa.toNat
  | 2 => g.lanes.toNat + g.ctx * 2 ^ 32 + g.pack * 2 ^ 38 + g.core * 2 ^ 44 + g.kind * 2 ^ 52 + g.stage * 2 ^ 55 + g.level * 2 ^ 56 + g.cause * 2 ^ 58
  | _ => 0

/-- The lanes an image may stand for: those of its LANES, or for a copy's, whose LANES holds a tile (R118), any. -/
def imageLanes (g : FaultImg) : Word := if g.kind = 4 ∨ g.kind = 5 then BitVec.allOnes 32 else g.lanes

/-- A lane that waits on the fault of an image. -/
abbrev WaitsOn (g : FaultImg) (l : Nat) (x : Lane) : Prop :=
  (imageLanes g).getLsbD l = true ∧ x.st = .waiting ∧ ∃ f, x.why = .fault f ∧ f.va.toNat / 4096 = g.va.toNat / 4096 ∧ f.tag = g.tag ∧
    (imageLanes g = g.lanes ∨ f.lanes = g.lanes)

/-- Lanes of a mask that wait on a fault are released, to replay and, with `fail`, to trap XLATE then; the other lanes are as before (R120, R121). -/
abbrev ReleasedLanes (p q : Pack) (g : FaultImg) (m : Word) (fail : Bool) : Prop :=
  q = { p with lanes := q.lanes, evpend := q.evpend } ∧ ((∃ l, l < 32 ∧ m.getLsbD l = true ∧ WaitsOn g l (p.lane l)) → q.evpend = p.evpend ||| 64) ∧
  ((∀ l, l < 32 → ¬(m.getLsbD l = true ∧ WaitsOn g l (p.lane l))) → q.evpend = p.evpend) ∧
  ∀ l, l < 32 → (m.getLsbD l = true ∧ WaitsOn g l (p.lane l) →
      q.lane l = { p.lane l with st := if (p.lane l).helps then .helper else .active, why := .none, helps := false, released := true, failx := if fail then some g else none, age := 0 }) ∧
    (¬(m.getLsbD l = true ∧ WaitsOn g l (p.lane l)) → q.lane l = p.lane l)

/-- The fields of PKSEL (R399). -/
abbrev Sel (v slot lane idx kind depth : Nat) : Prop := v % 64 = slot ∧ v / 2 ^ 8 % 32 = lane ∧ v / 2 ^ 16 % 128 = idx ∧ v / 2 ^ 24 % 16 = kind ∧ v / 2 ^ 32 % 256 = depth

/-- What PKDATA shows (R399, R400) of a pack without a handler. -/
def itemOf (s : State) (p : Pack) (lane idx kind depth : Nat) : Option Nat :=
  let f := p.frames.getD depth {}
  let x := p.lane lane
  let n := fun (b : Bool) => if b then 1 else 0
  match kind with
  | 0 => if depth < p.frames.length ∧ f.st = .resident then (if idx ≤ 111 then (if idx < 8 * f.size then some (f.cell idx lane).val.toNat else none)
      else if idx ≤ 122 then some (s.roReg p idx lane) else none) else none
  | 1 => if idx < 32 then some (p.sreg idx).toNat else none
  | 2 => if 0 < idx ∧ idx < 8 then some (p.m.getD idx 0).toNat else none
  | 3 => some x.pc.toNat
  | 4 => some ((match x.st with | .active => 0 | .parked => 1 | .waiting => 2 | .returned => 3 | .exited => 4 | .helper => 5) + x.depth % 256 * 8 + x.target % 256 * 2 ^ 11 +
      x.k.getD 0 % 32 * 2 ^ 19 + n x.k.isSome * 2 ^ 24 + x.count % 8 * 2 ^ 25 + n x.blocked * 2 ^ 28 +
      n (match p.svc with | some d => d.h.getLsbD lane | none => false) * 2 ^ 29)
  | 6 => if depth < p.frames.length ∧ f.st = .resident ∧ idx < 8 * f.size then some (n (f.cell idx lane).psn + 2 * n (f.cell idx lane).tag) else none
  | 8 => some p.fpc.toNat
  | 9 => some x.replay.toNat
  | _ => none

/-- A page table entry (R105): flags and the page it names. -/
def pteOf (w x : Bool) (oc : Nat) (pin g d : Bool) (page key : Nat) : Nat :=
  let n := fun (b : Bool) => if b then 1 else 0
  3 + 4 * n w + 8 * n x + 16 * oc + 64 * n pin + 128 * n g + 256 + 512 * n d + 4096 * page + 2 ^ 52 * key

end Sys2Proof.Claims

/-- R211, R378 to R380, R395, R398, R399, R403, R408, R441: what the supervisor core's commands, the timeouts and the choice of packs do to a core: PARK, UNPARK, SIGNAL, KILL, RELEASE, FAILX,
POST, TRQ and TRQX, breakpoints, WAITEV's limit, ages and idle clocks. -/
def Obligations.PackControlActsOnItsPack : Prop :=
  ∀ (s : State) (c sl : Nat), (s.cores.find c).isSome = true → c < 160 → sl < 48 →
    let k := s.core c
    (∀ i, i = .park c sl ∨ i = .unpark c sl ∨ i = .signal c sl ∨ i = .kill c sl → s.pack? c sl = none → RefusedCmd i s c) ∧
    (∀ p, s.pack? c sl = some p →
      (∀ i b, i = .park c sl ∧ b = true ∨ i = .unpark c sl ∧ b = false → ∃ t, exec i s = .next t ∧ t = { s with packs := t.packs, cores := t.cores } ∧ Took s t c true ∧
        PackNow s t c sl { p with park := b }) ∧
      (p.waitev = [] → ∃ t, exec (.signal c sl) s = .next t ∧ t = { s with packs := t.packs, cores := t.cores } ∧ Took s t c true ∧ PackNow s t c sl { p with evpend := p.evpend ||| 1 }) ∧
      (s.legal = true → p.ctx < 64 → ∃ t, exec (.kill c sl) s = .next t ∧ Dead t p.ctx ∧ (∀ j r, s.packs.find j = some r → r.ctx ≠ p.ctx → (∀ w ∈ s.wgs, w.2.ctx = p.ctx → w.1 ≠ r.wg) → t.packs.find j = some r)) ∧
      (∀ w, p.waitev = w :: p.waitev.tail → (∃ d, w.2.2.2 = some d ∧ d ≤ s.cycle) → p.handler = none → ∃ t q, exec (.waitevTimeout c sl) s = .next t ∧ t = { s with packs := t.packs } ∧ PackNow s t c sl q ∧
        q = { p with s := q.s, lanes := q.lanes, waitev := p.waitev.tail } ∧ (∀ j, q.sreg j = if j = w.2.1 then 0 else p.sreg j) ∧
        ∀ l, l < 32 → q.lane l = if w.1.getLsbD l ∧ (p.lane l).st = .waiting ∧ (p.lane l).why = .event then { p.lane l with st := .active, why := .none, age := 0 } else p.lane l) ∧
      ((∀ w ∈ p.waitev, ∀ d, w.2.2.2 = some d → s.cycle < d) → exec (.waitevTimeout c sl) s = .next s) ∧
      (∃ t, exec (.packAged c sl) s = .next t ∧ t = { s with packs := t.packs } ∧ PackNow s t c sl { p with aged := p.aged || decide (256 ≤ p.passed) }) ∧
      (∀ l, l < 32 → ∃ t q, exec (.laneAgeSaturate c sl l) s = .next t ∧ t = { s with packs := t.packs } ∧ PackNow s t c sl q ∧ q = { p with lanes := q.lanes } ∧
        ∀ j, j < 32 → q.lane j = if j = l ∧ p.eligible l = true then { p.lane l with age := min 256 (p.lane l).age } else p.lane j) ∧
      (∀ n, s.breakHit c sl = some n → bits (s.reg (0x830000 + 8 * c)) 0 0 = 0 → n < 4 ∧ csrVal s c (0x7D8 + n) % 2 = 1 ∧
        (∃ g, p.group = some g ∧ g.key = (csrVal s c (0x7D8 + n) / 4 % 2 ^ 62 * 4, 0)) ∧
        ∃ t, exec (.breakpoint c sl) s = .next t ∧ t = { s with packs := t.packs, cores := t.cores } ∧ PackNow s t c sl { p with park := true } ∧ CoreNow s t c { k with mbxEvents := k.mbxEvents + 1 }) ∧
      (s.breakHit c sl = none → exec (.breakpoint c sl) s = .next s)) ∧
    (k.trq = [] → ∃ t, exec (.trqPop c) s = .next t ∧ t = { s with cores := t.cores } ∧ CoreNow s t c { k with rdata := 0 }) ∧
    (∀ e es, k.trq = e :: es → e.slot < 64 → e.code < 256 → e.ctx < 64 → ∃ t, exec (.trqPop c) s = .next t ∧ t = { s with cores := t.cores } ∧
      CoreNow s t c { k with trq := es, trqHeld := if e.img.isSome then some e else k.trqHeld, trqxNext := if e.img.isSome then 0 else k.trqxNext, rdata := BitVec.ofNat 64 (e.slot + e.code * 2 ^ 8 + e.ctx * 2 ^ 16 + (if e.img.isSome then 2 ^ 62 else 0) + 2 ^ 63) }) ∧
    (k.trqHeld = none → (∃ t, exec (.trqxRead c) s = .next t ∧ t = { s with cores := t.cores } ∧ CoreNow s t c { k with rdata := 0 }) ∧
      ∀ i m, i = .release c m ∨ i = .failx c m ∨ i = .post c → RefusedCmd i s c) ∧
    (∀ e g, k.trqHeld = some e → e.img = some g →
      (g.ctx < 64 → g.pack < 64 → g.core < 256 → g.kind < 8 → g.stage < 2 → g.level < 4 → g.cause < 8 → ∃ t, exec (.trqxRead c) s = .next t ∧ t = { s with cores := t.cores } ∧
        CoreNow s t c { k with trqxNext := k.trqxNext + 1, rdata := BitVec.ofNat 64 (imageWord g k.trqxNext) }) ∧
      (∀ i m fail p, i = .release c m ∧ fail = false ∨ i = .failx c m ∧ fail = true → g.core = c → s.pack? c g.pack = some p → g.pack < 48 → p.waitev = [] → p.handler = none → p.lanes.length = 32 →
        ∃ t q, exec i s = .next t ∧ t = { s with packs := t.packs, cores := t.cores } ∧ PackNow s t c g.pack q ∧ ReleasedLanes p q g m fail ∧
          (∀ j, j ≠ c → t.core j = s.core j) ∧ t.core c = { k with csr := (t.core c).csr, trqHeld := (t.core c).trqHeld } ∧ CsrNow k (t.core c) 0x7C3 0 ∧
          (imageLanes g = g.lanes → (t.core c).trqHeld = if g.lanes &&& ~~~m = 0 then none else some { e with img := some { g with lanes := g.lanes &&& ~~~m } }) ∧
          (imageLanes g ≠ g.lanes → ((t.core c).trqHeld = none ∨ (t.core c).trqHeld = some e) ∧ ((t.core c).trqHeld = none ↔ ∀ l, l < 32 → ¬WaitsOn g l (q.lane l)))) ∧
      (g.tag = 0 → s.prqEnabled (s.funcOf g.ctx) = true → s.prqHeld = [] → s.prqCount (s.funcOf g.ctx) < 256 →
        ∃ t w, exec (.post c) s = .next t ∧ t.prq = s.prq ++ [w] ∧ w.func = s.funcOf g.ctx ∧ w.img = { g with tag := w.img.tag } ∧ 1 ≤ w.img.tag ∧ w.img.tag ≤ 65535 ∧
          (t.core c).trqHeld = none)) ∧
    (∃ n t, n < 8 ∧ exec (.idleClock c) s = .next t ∧ t = { s with cores := t.cores } ∧ CoreNow s t c { k with idle := k.idle.modify n (· + 1) } ∧
      (s.slotsOf c = [] → n = 5) ∧ (∀ x, s.slotsOf c = [x] → n = s.idleCause c x))

/-- R399 to R402, R405, R406: PKDATA and SRDATA reach a parked pack (or one that awaits ENDTRAP) and are refused otherwise; PKDATA waits for a spilled frame; INJCTL executes SHINV; the
emulation and control store ports read and stage words, and a commit installs a legal image once no lane is inside its slot. (m0 and trap frames through PKDATA are left out here.) -/
def Sys2Proof.Claims.PortsActOnTheCore : Prop :=
  ∀ (s : State) (c : Nat) (v : DWord), (s.cores.find c).isSome = true → FMap.sorted (s.core c).csr = true → FMap.sorted (s.core c).csStage = true → FMap.sorted (s.core c).csWait = true →
    let k := s.core c
    (∀ sl lane idx kind depth, Sel (csrVal s c 0x7C0) sl lane idx kind depth → sl < 48 →
      (∀ i, i = .pkdataRead c ∨ i = .pkdataWrite c v → (∀ p, s.pack? c sl = some p → (p.park = false ∨ p.toks ≠ []) ∧ p.svc = none) →
        ∃ t, exec i s = .next t ∧ t = { s with cores := t.cores } ∧ (∀ j, j ≠ c → t.core j = s.core j) ∧ t.core c = { k with csr := (t.core c).csr, rdata := 0, pkWait := none } ∧
          CsrNow k (t.core c) 0x7C3 4096) ∧
      (∀ p, s.pack? c sl = some p → p.park = true ∧ p.toks = [] ∨ p.svc.isSome = true → p.handler = none →
        (∀ x, itemOf s p lane idx kind depth = some x → ∃ t, exec (.pkdataRead c) s = .next t ∧ t = { s with cores := t.cores } ∧ (∀ j, j ≠ c → t.core j = s.core j) ∧
          t.core c = { k with csr := (t.core c).csr, rdata := BitVec.ofNat 64 x, pkWait := none } ∧ CsrNow k (t.core c) 0x7C3 0) ∧
        ((kind = 0 ∨ kind = 6) → depth < p.frames.length → idx < 8 * (p.frames.getD depth {}).size → idx ≤ 111 → (p.frames.getD depth {}).st = .spilled → k.pkWait = none →
          (exec (.pkdataRead c) s = .next (s.updCore c (fun k => { k with pkWait := some (s.ownSteps, none) })) ∧
           exec (.pkdataWrite c v) s = .next (s.updCore c (fun k => { k with pkWait := some (s.ownSteps, some v) })))) ∧
        (∀ q : Pack, (match kind with
            | 0 => depth < p.frames.length ∧ idx < 8 * (p.frames.getD depth {}).size ∧ (p.frames.getD depth {}).st = .resident ∧
                q = { p with frames := p.frames.modify depth (fun f => f.setCell idx lane { f.cell idx lane with val := v.setWidth 32 }) }
            | 1 => idx < 32 ∧ q = p.setS idx v
            | 2 => 0 < idx ∧ idx < 8 ∧ q = { p with m := setAt 0 p.m idx (v.setWidth 32) }
            | 3 => q = p.updLane lane (fun x => { x with pc := v, count := 0 })
            | 6 => depth < p.frames.length ∧ idx < 8 * (p.frames.getD depth {}).size ∧ (p.frames.getD depth {}).st = .resident ∧
                q = { p with frames := p.frames.modify depth (fun f => f.setCell idx lane { f.cell idx lane with psn := v.getLsbD 0, tag := v.getLsbD 1 }) }
            | _ => False) →
          ∃ t, exec (.pkdataWrite c v) s = .next t ∧ t = { s with packs := t.packs, cores := t.cores } ∧ PackNow s t c sl q ∧ (∀ j, j ≠ c → t.core j = s.core j) ∧
            t.core c = { k with csr := (t.core c).csr, pkWait := none } ∧ CsrNow k (t.core c) 0x7C3 0) ∧
        ((kind = 4 ∨ kind = 5 ∨ kind = 9 ∨ kind = 2 ∧ idx = 0 ∨ kind = 0 ∧ 112 ≤ idx ∧ (p.frames.getD depth {}).size ≤ 14 ∨ 9 < kind) → ∃ t, exec (.pkdataWrite c v) s = .next t ∧ t = { s with cores := t.cores } ∧
          CsrNow k (t.core c) 0x7C3 4096))) ∧
    (∀ n sl, csrVal s c 0x7C6 % 2 ^ 12 = n → csrVal s c 0x7C6 / 2 ^ 16 % 64 = sl →
      ((srInfo n = none ∨ (∃ a, srInfo n = some (a, true)) ∧ ∀ p, s.pack? c sl = some p → (p.park = false ∨ p.toks ≠ []) ∧ p.svc = none) →
        (∃ t, exec (.srdataRead c) s = .next t ∧ t = { s with cores := t.cores } ∧ t.core c = { k with csr := (t.core c).csr, rdata := 0 } ∧ CsrNow k (t.core c) 0x7C3 4096) ∧
        ∃ t, exec (.srdataWrite c v) s = .next t ∧ t = { s with cores := t.cores } ∧ Took s t c false) ∧
      ((∃ a, srInfo n = some (a, false)) → ∃ t, exec (.srdataRead c) s = .next t ∧ t = { s with cores := t.cores } ∧
        t.core c = { k with csr := (t.core c).csr, rdata := BitVec.ofNat 64 (srValue s c sl (s.pack c sl).showDepth n) } ∧ CsrNow k (t.core c) 0x7C3 0) ∧
      ((n = 0x24 → ∃ t, exec (.srdataWrite c v) s = .next t ∧ t = { s with cores := t.cores } ∧ t.core c = { k with csr := (t.core c).csr, frameWait := BitVec.ofNat 64 (v.toNat % 2 ^ 32) }) ∧
       (n = 0x50 → ∃ t, exec (.srdataWrite c v) s = .next t ∧ t = { s with cores := t.cores } ∧ t.core c = { k with csr := (t.core c).csr, mxIdle := BitVec.ofNat 32 (v.toNat % 2 ^ 20) }) ∧
       (∀ j, j < 16 → n = 0x110 + j → ∃ t, exec (.srdataWrite c v) s = .next t ∧ t = { s with cores := t.cores } ∧ t.core c = { k with csr := (t.core c).csr, evcnt := k.evcnt.set j v }))) ∧
    (let x := v.toNat
     let ctx := x / 2 % 64
     (x % 2 = 1 → s.reg (0x600000 + 0x80 * ctx) % 2 = 1 →
       (∀ im, decode [csrVal s c 0x7CB % 2 ^ 32] = .ok (.shinv im) ∨ decode [csrVal s c 0x7CB % 2 ^ 32] = .ok .shinvAll → ∃ t, exec (.inject c v) s = .next t ∧
         t = { s with cores := t.cores, recCache := t.recCache } ∧ (∀ j, j ≠ c → t.core j = s.core j) ∧ csrVal t c 0x7CC = ctx * 2 ∧ csrVal t c 0x7C3 = 0 ∧
         (decode [csrVal s c 0x7CB % 2 ^ 32] = .ok (.shinv im) → ∀ y, y ∈ t.recCache ↔ y ∈ s.recCache ∧ ¬(y.1.1 = ctx ∧ y.1.2.1 = 0 ∧ (y.1.2.2 = im.toNat ∨ y.1.2.2 = im.toNat + 1 ∧ im.toNat < 4095))) ∧
         (decode [csrVal s c 0x7CB % 2 ^ 32] = .ok .shinvAll → ∀ y, y ∈ t.recCache ↔ y ∈ s.recCache ∧ y.1.1 ≠ ctx))) ∧
     (x % 2 = 1 → s.reg (0x600000 + 0x80 * ctx) % 2 = 0 → ∃ t, exec (.inject c v) s = .next t ∧ t = { s with cores := t.cores } ∧ csrVal t c 0x7C3 = 4096)) ∧
    (let y := csrVal s c 0x7C8
     let next := y / 2 ^ 16 * 2 ^ 16 + (y / 2 ^ 5 + 1) % 2 ^ 11 * 2 ^ 5 + y % 2 ^ 5
     (∀ e es pa pb, k.mmaQ = e :: es → e.ty = 2 → e.emul = false → e.popped = some (pa, pb) → y / 2 ^ 16 % 2 = 0 → ∃ t, exec (.emdataRead c) s = .next t ∧ t = { s with cores := t.cores } ∧
       t.core c = { k with csr := (t.core c).csr, rdata := BitVec.ofNat 64 (numAt (((if y % 2 = 1 then pb else pa).getD (y / 2 % 16) ([], [])).1) (8 * (y / 2 ^ 5 % 2 ^ 11)) 8) } ∧ csrVal t c 0x7C8 = next) ∧
     (y / 2 ^ 16 % 2 = 1 → ∃ t, exec (.emdataWrite c v) s = .next t ∧ t = { s with cores := t.cores } ∧
       t.core c = { k with emStage := k.emStage.ins ((y % 2 * 16 + y / 2 % 16) * 2048 + y / 2 ^ 5 % 2 ^ 11) v }) ∧
     (∀ e es, k.mmaQ = e :: es → e.ty = 2 → e.emul = false → e.popped.isSome = true → exec (.emctlGo c) s = .next (s.updCore c (fun k => { k with mmaQ := { e with emul := true } :: es })))) ∧
    (∀ w : Word, let y := csrVal s c 0x7D0
      ∃ t, exec (.csdataWrite c w) s = .next t ∧ t = { s with cores := t.cores } ∧ csrVal t c 0x7D0 = y / 2 ^ 13 * 2 ^ 13 + (y / 2 ^ 8 + 1) % 32 * 2 ^ 8 + y % 2 ^ 8 ∧
        ∀ j, ((t.core c).csStage.find j).getD 0 = if j = y / 2 ^ 8 % 32 then w else (k.csStage.find j).getD 0) ∧
    (∀ n : BitVec 6, let img := (List.range n.toNat).map (fun j => ((k.csStage.find j).getD 0).toNat)
      (n.toNat ≤ 32 → imageOkFrom img 33 0 = true → ∃ t, exec (.csctlGo c n) s = .next t ∧ t = { s with cores := t.cores } ∧
        (∀ j, (t.core c).csWait.find j = if j = csrVal s c 0x7D0 % 64 then some img else k.csWait.find j) ∧ (t.core c).mprogs = k.mprogs ∧ csrVal t c 0x7D2 = n.toNat) ∧
      (32 < n.toNat ∨ imageOkFrom img 33 0 = false → ∃ t, exec (.csctlGo c n) s = .next t ∧ t = { s with cores := t.cores } ∧ t.core c = { k with csr := (t.core c).csr } ∧
        csrVal t c 0x7D2 = n.toNat + 2 ^ 63)) ∧
    (∀ m img, k.csWait.find m = some img → s.slotFree c m = true → ∃ t, exec (.controlStoreInstall c m) s = .next t ∧ t = { s with cores := t.cores, micro := t.micro } ∧
      t.core c = { k with csWait := k.csWait.del m, mprogs := k.mprogs.ins m img }) ∧
    (∀ m, k.csWait.find m = none ∨ s.slotFree c m = false → exec (.controlStoreInstall c m) s = .next s)

/-- R396, R399, R15: a step of a hart (of a supervisor core, or of a host core) that takes no interrupt: it wakes its core, and the word at its pc does what the
architecture of log 5 gives it. Shown for ADDI, ECALL, MRET and the CSR instructions that name a custom register; no other hart changes. -/
def Sys2Proof.Claims.HartsRunTheirInstructions : Prop :=
  ∀ (s s1 : State) (h w : Nat) (x : Hart), h < 176 → FMap.sorted s.harts = true → s.harts.find h = some x → FMap.sorted x.csr = true → x.wfi = false → (h < 160 → (s.core h).power = 0) → s.rvIrq h = none →
    rvFetch h s = (s1, .ok w) → s1.hart h = x →
    let t := s.hartStep h
    let y := t.hart h
    let trapped := fun (cause : Nat) =>
      (x.priv ≤ 1 ∧ (x.c 0x302).testBit cause = true → y.priv = 1 ∧ y.c 0x142 = cause ∧ y.c 0x141 = x.pc.toNat ∧ y.pc = BitVec.ofNat 64 (x.c 0x105 / 4 * 4)) ∧
      (¬(x.priv ≤ 1 ∧ (x.c 0x302).testBit cause = true) → y.priv = 3 ∧ y.c 0x342 = cause ∧ y.c 0x341 = x.pc.toNat ∧ y.pc = BitVec.ofNat 64 (x.c 0x305 / 4 * 4)) ∧ y.x = x.x
    (∀ (rd a : Nat) (imm : Int), rd < 32 → a < 32 → w = rvI 0x13 0 rd a imm → -2048 ≤ imm → imm < 2048 →
      (∀ r, y.reg r = if r = rd ∧ rd ≠ 0 then (((x.reg a : Int) + imm) % 2 ^ 64).toNat else x.reg r) ∧ y.pc = x.pc + 4 ∧ y.priv = x.priv ∧ t.mem = s1.mem ∧ ∀ j, j ≠ h → t.hart j = s1.hart j) ∧
    (w = 0x73 → x.priv ≤ 3 → trapped (8 + x.priv) ∧ ∀ j, j ≠ h → t.hart j = s1.hart j) ∧
    (w = 0x30200073 → (x.priv = 3 → y.pc = BitVec.ofNat 64 (x.c 0x341) ∧ y.priv = x.c 0x300 / 2 ^ 11 % 4 ∧ y.x = x.x) ∧ (x.priv ≠ 3 → trapped 2)) ∧
    (∀ n rd a f, 0x7C0 ≤ n → n < 0x7E0 → rd < 32 → a < 32 → f = 1 ∨ f = 2 ∨ f = 3 → w = 0x73 + rd * 2 ^ 7 + f * 2 ^ 12 + a * 2 ^ 15 + n * 2 ^ 20 → x.priv < 3 → trapped 2)

/-- R397: a supervisor core's stores to its scratchpad window: 8 bytes inside the S × 16 KiB of its core are stored there, a store that ends behind them is an access fault. -/
def Sys2Proof.Claims.ScratchpadWindowOfAHart : Prop :=
  ∀ (s : State) (h off v : Nat), h < 160 → (s.cores.find h).isSome = true → v < 2 ^ 64 → off < 2 ^ 24 →
    (off + 8 ≤ (s.core h).split * 16384 → s.prov = [] → s.isReplayable 0 = false → (∀ j, j < 8 → placeSound s (.spad h (off + j)) = true ∧ placeCalm s (.spad h (off + j)) = true) →
      ∃ t, rvStore h (12 * 2 ^ 48 + 2 ^ 31 + off) 8 v s = some t ∧ Stored s t ((List.range 8).map (fun j => (.spad h (off + j), BitVec.ofNat 8 (v / 256 ^ j), false)))) ∧
    ((s.core h).split * 16384 < off + 8 → rvStore h (12 * 2 ^ 48 + 2 ^ 31 + off) 8 v s = none)

/-- R396, R397, R399 to R402, R405, R406: the supervisor core's ports, and the instructions and the scratchpad window of its hart. -/
def Obligations.SupervisorPortsActOnTheCore : Prop := Claims.PortsActOnTheCore ∧ Claims.HartsRunTheirInstructions ∧ Claims.ScratchpadWindowOfAHart

/-- R106, R110, R112, R114, R115, R117 to R120, R126, R127: a walk of four sound levels enters its translation; an invalidation removes exactly the matching entries; page requests are posted
in order and answered; the carve and the windows change only as their rules allow. -/
def Obligations.TranslationAndPageRequestEvents : Prop :=
  ∀ (s : State) (v : DWord), s.legal = true →
    (∀ (ctx root va kind page key oc : Nat) (wr x pin g d : Bool) (T : Nat → Nat),
      let ix := fun k => va % 2 ^ 48 / 2 ^ (39 - 9 * k) % 512
      let need := kindNeed kind
      ctx < 64 → root ≤ 1 → kind < 7 → s.funcOf ctx = 0 → (∀ e ∈ s.tlb, e.where_ ≠ 10) → T 0 = s.reg (0x600000 + 0x80 * ctx + 8 + 8 * root) / 4096 % 2 ^ 40 →
      (∀ k, k < 4 → 8 * 2 ^ 36 ≤ T k ∧ T k < 8 * 2 ^ 36 + 2 ^ 33 ∧ s.homeLost (4096 * T k) = false ∧ s.latent.has ((4096 * T k + 8 * ix k) / 64) = false ∧ s.l1.all (fun x => x.1 % 2 ^ 46 != (4096 * T k + 8 * ix k) / 64 || !x.2.psn) = true) →
      (∀ k, k < 3 → s.readNat {} (4096 * T k + 8 * ix k) 8 = 1 + 4096 * T (k + 1)) → s.readNat {} (4096 * T 3 + 8 * ix 3) 8 = pteOf wr x oc pin g d page key →
      page < 2 ^ 40 → key < 32 → oc < 3 → (root = 1 → oc = 0) → (need.w = true → wr = true ∧ d = true) → (need.x = true → x = true) → rootAllows root (4096 * page) = true →
      (root = 1 → s.reg (0x710000 + 8 * key) % 2 = 1) →
      ∃ t e, exec (.walkComplete ctx root va kind) s = .next t ∧ t = { l1Moved s t with tlb := t.tlb, outbox := t.outbox } ∧ t.tlb.head? = some e ∧
        e = { e with where_ := 10, func := 0, ctx := ctx, root := root, va := va % 2 ^ 48 / 4096 * 4096, size := 12, pa := 4096 * page, r := true, w := wr, x := x, oc := oc, pin := pin, g := g, d := d, key := key } ∧
        (xlate t 10 ctx root va need).2 = .ok { pa := 4096 * page + va % 4096, oc := oc, pin := pin, key := key }) ∧
    (∀ i kind, i = .xltInvAll v ∧ kind = 0 ∨ i = .xltInvFunc v ∧ kind = 1 ∨ i = .xltInvCtx v ∧ kind = 2 ∨ i = .xltInvCtxPages v ∧ kind = 3 ∨ i = .xltInvStage2Pages v ∧ kind = 4 ∨
        i = .xltInvNonglobal v ∧ kind = 5 →
      let x := v.toNat
      let fn := x / 2 ^ 8 % 64
      let cx := x / 2 ^ 16 % 64
      let n := 4096 * (x / 2 ^ 32 % 2 ^ 16)
      let a := s.reg 0x100000
      let pg : Option (Nat × Nat) := if a / 2 ^ 56 = 0 then some (0, a % 2 ^ 48) else if a / 2 ^ 56 = 0x40 ∧ a / 2 ^ 44 % 2 ^ 11 = s.pkgId then some (1, a % 2 ^ 44)
        else if a / 2 ^ 56 = 0xFF then some (2, a % 2 ^ 48) else none
      let busy := s.reg 0x100008 / 2 ^ 63 = 1
      let badf := x / 2 ^ 3 % 32 ≠ 0 ∨ x / 2 ^ 14 % 4 ≠ 0 ∨ x / 2 ^ 22 % 2 ^ 10 ≠ 0 ∨ x / 2 ^ 48 % 2 ^ 15 ≠ 0 ∨ ((kind = 3 ∨ kind = 4) ∧ n = 0)
      (busy ∨ badf → exec i s = .next s) ∧
      (¬busy → ¬badf → ∃ t, exec i s = .next t ∧ t = { s with regs := t.regs, tlb := t.tlb } ∧ t.reg 0x100008 = x / 8 * 8 + kind ∧ (∀ o, o ≠ 0x100008 → t.reg o = s.reg o) ∧
        (x < 2 ^ 63 → t.tlb = s.tlb) ∧
        (2 ^ 63 ≤ x → t.tlb.Sublist s.tlb ∧ ∀ e, e ∈ t.tlb ↔ e ∈ s.tlb ∧ ¬(kind = 0 ∨ kind = 1 ∧ e.func = fn ∨ kind = 5 ∧ e.func = fn ∧ e.g = false ∨
          (kind = 2 ∨ kind = 3 ∧ ∃ y, pg = some y ∧ e.root = y.1 ∧ e.va < y.2 + n ∧ y.2 < e.va + 2 ^ e.size) ∧ (e.ctx = cx ∨ e.g = true ∧ e.func = s.funcOf cx) ∨
          kind = 4 ∧ e.func = fn ∧ e.gpa < a + n ∧ a < e.gpa + 2 ^ e.size)))) ∧
    (∃ t, exec .xltInvDone s = .next t ∧ t = { s with regs := t.regs } ∧ t.reg 0x100008 = s.reg 0x100008 % 2 ^ 63 ∧ ∀ o, o ≠ 0x100008 → t.reg o = s.reg o) ∧
    (∀ f, f ≤ 32 →
      let base := 0x200000 + 0x40 * f
      let tail := s.reg (base + 8) % 512
      let head := s.reg (base + 16) % 512
      let h := v.toNat % 512
      ((tail + 512 - h) % 512 ≤ 256 → ∃ t, exec (.prqHeadWrite f v) s = .next t ∧ t = { s with regs := t.regs } ∧ t.reg (base + 16) = h ∧ ∀ o, o ≠ base + 16 → t.reg o = s.reg o) ∧
      (256 < (tail + 512 - h) % 512 → exec (.prqHeadWrite f v) s = .next s) ∧
      (∀ q rest, s.prqHeld = q :: rest → q.func = f → q.copy = none →
        (s.reg base % 2 = 1 → (tail + 512 - head) % 512 < 256 → ∃ t w, exec (.prqEntryPost f) s = .next t ∧ t.prqHeld = rest ∧ t.prq = s.prq ++ [w] ∧ w = { q with img := { q.img with tag := w.img.tag } } ∧
          1 ≤ w.img.tag ∧ w.img.tag ≤ 65535 ∧ (s.prq.length < 65535 → ∀ y ∈ s.prq, y.func = f → y.img.tag ≠ w.img.tag) ∧ t.reg (base + 8) % 512 = (tail + 1) % 512 ∧ (tail = head → .prqIrq f ∈ t.outbox)) ∧
        (s.reg base % 2 = 1 → 256 ≤ (tail + 512 - head) % 512 → exec (.prqEntryPost f) s = .next s)) ∧
      (∀ tag i fail, i = .prqReplyRetry f tag ∧ fail = false ∨ i = .prqReplyFail f tag ∧ fail = true →
        ((∀ q ∈ s.prq, ¬(q.func = f ∧ q.img.tag = tag)) → exec i s = .next s) ∧
        (∀ q p, s.prq.find? (fun q => q.func == f && q.img.tag == tag) = some q → q.copy = none → q.coll = none → q.queue = none → s.pack? q.img.core q.img.pack = some p →
          p.waitev = [] → p.handler = none → p.lanes.length = 32 → ∃ t r, exec i s = .next t ∧ t = { s with packs := t.packs, prq := t.prq } ∧
            t.prq = s.prq.filter (fun x => !(x.func == f && x.img.tag == tag)) ∧ PackNow s t q.img.core q.img.pack r ∧ ReleasedLanes p r q.img (imageLanes q.img) fail) ∧
        (∀ q k c, s.prq.find? (fun q => q.func == f && q.img.tag == tag) = some q → q.copy = some k → s.copies.find k = some c → c.status = 2 → ∃ t, exec i s = .next t ∧
          t = { s with copies := t.copies, prq := t.prq } ∧ t.copies.find k = some (if fail then { c with status := 4, err := 1 } else { c with status := 0 })))) ∧
    (let old := s.reg 0x300000 % 4
     let new := v.toNat % 4
     let busy := s.reg 0x300000 / 2 ^ 63 % 2 = 1
     let win := ∃ c, c < 64 ∧ s.reg (0x310000 + 8 * c) / 2 ^ 16 % 128 ≠ 0
     (new = old ∨ busy ∨ win → exec (.llcCarveWrite v) s = .next s) ∧
     (new ≠ old → ¬busy → ¬win → ∃ t, exec (.llcCarveWrite v) s = .next t ∧ t = { s with regs := t.regs, chip := t.chip, chipPsn := t.chipPsn } ∧ t.reg 0x300000 = new + 2 ^ 63 ∧
       (∀ o, o ≠ 0x300000 → t.reg o = s.reg o) ∧ ∀ o, (t.chip.find o).getD 0 = if o < min old new * 2 ^ 25 then (s.chip.find o).getD 0 else 0) ∧
     (∃ t, exec .llcCarveDone s = .next t ∧ t = { s with regs := t.regs } ∧ t.reg 0x300000 = old ∧ ∀ o, o ≠ 0x300000 → t.reg o = s.reg o)) ∧
    (∀ ctx, let x := v.toNat
      let ok := ctx < 64 ∧ x % 128 + x / 2 ^ 16 % 128 ≤ 32 * (s.reg 0x300000 % 4) ∧ (∀ w ∈ s.wgs, w.2.ctx ≠ ctx) ∧ x / 2 ^ 7 % 512 = 0 ∧ x / 2 ^ 23 = 0
      (ok → ∃ t, exec (.cspwinWrite ctx v) s = .next t ∧ t = { s with regs := t.regs } ∧ t.reg (0x310000 + 8 * ctx) = x ∧ ∀ o, o ≠ 0x310000 + 8 * ctx → t.reg o = s.reg o) ∧
      (¬ok → exec (.cspwinWrite ctx v) s = .next s))

namespace Sys2Proof.Claims

/-! ## The fabric (R316 to R332, R344, R355, R356) -/

/-- Why a request is refused (R324); E is its range table entry as a number. -/
def refuseReason (s : State) (r : RemoteReq) (E : Nat) : Option Nat :=
  let t := r.token.toNat
  let left := (t / 2 ^ 20 % 4096 + 4096 - s.cycle / 2 ^ 22 % 4096) % 4096
  let need := match r.kind with | .read _ _ => 0 | .write _ _ _ => 1 | .chunk _ => 3 | _ => 2
  let span := match r.kind with | .read o n => (o, n) | .write o bs _ => (o, bs.length) | .reduce o _ _ bs _ => (o, bs.length) | .atom o _ w _ _ _ _ => (o, if w then 8 else 4) | .chunk _ => (0, 0)
  let lo := E / 2 ^ 12 % 2 ^ 32 * 4096
  let pages := E / 2 ^ 64 % 2 ^ 27
  let resv := E / 2 ^ 5 % 2 ^ 7 ≠ 0 ∨ E / 2 ^ 44 % 2 ^ 20 ≠ 0 ∨ E / 2 ^ 91 % 2 ^ 37 ≠ 0 ∨ E / 2 ^ 167 % 2 ^ 25 ≠ 0 ∨ E / 2 ^ 197 ≠ 0
  if s.reg 0x402008 % 2 ^ 17 ≤ t % 2 ^ 16 ∨ E % 2 = 0 ∨ resv ∨ 480 * 2 ^ 30 < E / 2 ^ 128 % 2 ^ 39 + 4096 * pages then some 1
  else if t / 2 ^ 32 ≠ (Config.cmac s.tokenKey (leBytes 4 (t % 2 ^ 32) ++ leBytes 2 r.pkg ++ leBytes 1 r.ctx ++ [0])).toNat then some 2
  else if left = 0 ∨ 2047 < left then some 3
  else if t / 2 ^ (16 + need) % 2 = 0 ∨ E / 2 ^ (1 + need) % 2 = 0 then some 4
  else if span.1 < lo ∨ lo + 4096 * pages < span.1 + span.2 then some 5
  else none

/-- What a state changes by an access from outside: what a write to memory may, registers that count, answers kept, messages. -/
abbrev Outside (s t : State) : Prop := t = { linesWritten s t with regs := t.regs, performed := t.performed, outbox := t.outbox } ∧ SameHarts s t

/-- Messages sent: these, after what the buddy is sent of lines that reached their home (R356). -/
abbrev Sends (s t : State) (ms : List OutMsg) : Prop := ∃ xs, (∀ m ∈ xs, ∃ n o bs, m = .mirror n o bs) ∧ t.outbox = s.outbox ++ xs ++ ms

/-- Bytes at places from an address on. -/
def bytesAt (a : Acc) (pa : Nat) (bs : List Byte) (psn : Bool) : List (Place × Byte × Bool) := bs.zipIdx.map (fun x => (.mem a (pa + x.2), x.1, psn))

/-- n bytes from an address are sound, and nothing is provisional. -/
abbrev SoundRun (s : State) (a : Acc) (pa n : Nat) : Prop := s.prov = [] ∧ s.isReplayable 0 = false ∧ ∀ k, k < n → placeSound s (.mem a (pa + k)) = true

def rdNat (s : State) (a : Acc) (pa n : Nat) : Nat := ((List.range n).map (fun k => (s.placeByte (.mem a (pa + k))).toNat * 256 ^ k)).sum

end Sys2Proof.Claims

/-- R318, R319, R321, R323, R324, R326, R329, R330: a request from another package is answered GONE by a package that holds its sender lost, answered again when it was performed, refused with
TOKEN and counted when a check of R324 fails, and else performed at the mapped offset and answered. -/
def Obligations.RemoteRequestsAreCheckedAndPerformed : Prop :=
  ∀ (s : State) (r : RemoteReq), s.legal = true → (∀ ch, r.kind ≠ .chunk ch) →
    let i := Instr.remoteRequestIngress r
    let slot := s.reg 0x402000 / 4096 % 2 ^ 40 * 4096 + 32 * (r.token.toNat % 2 ^ 16)
    let E := rdNat s {} slot 32
    let key := E / 2 ^ 192 % 32
    let pa := fun off => E / 2 ^ 128 % 2 ^ 39 + (off - E / 2 ^ 12 % 2 ^ 32 * 4096)
    (s.isLost r.pkg = true → ∃ t, exec i s = .next t ∧ t = { s with regs := t.regs, outbox := s.outbox ++ [.response r.pkg r.seq .gone] } ∧
      t.reg 0x401010 = s.reg 0x401010 / 2 ^ 32 * 2 ^ 32 + min (s.reg 0x401010 % 2 ^ 32 + 1) (2 ^ 32 - 1) ∧ ∀ o, o ≠ 0x401010 → t.reg o = s.reg o) ∧
    (∀ a, s.isLost r.pkg = false → s.performed.find ((2048 + r.pkg) * 2 ^ 64 + r.seq) = some a → exec i s = .next { s with outbox := s.outbox ++ [.response r.pkg r.seq a] }) ∧
    (s.isLost r.pkg = false → s.performed.find ((2048 + r.pkg) * 2 ^ 64 + r.seq) = none → SoundRun s {} slot 32 →
      (∀ e, refuseReason s r E = some e → ∃ t, exec i s = .next t ∧ SameBytes s t ∧
        t = { l1Moved s t with regs := t.regs, performed := s.performed.ins ((2048 + r.pkg) * 2 ^ 64 + r.seq) .token, outbox := t.outbox } ∧
        Sends s t [.response r.pkg r.seq .token] ∧ t.reg 0x401010 = min (s.reg 0x401010 % 2 ^ 32 + 1) (2 ^ 32 - 1) + e * 2 ^ 32) ∧
      (refuseReason s r E = none → (∀ off n, reqOff r.kind = some off → n = (reqNeed r.kind).2 → SoundRun s { key := key } (pa off) n) →
        ∃ t ans, exec i s = .next t ∧ Outside s t ∧ t.performed = s.performed.ins ((2048 + r.pkg) * 2 ^ 64 + r.seq) ans ∧ Sends s t [.response r.pkg r.seq ans] ∧
        (match r.kind with
         | .read off n => ans = .data ((List.range n).map (fun k => s.placeByte (.mem { key := key } (pa off + k)))) ((List.range n).any (fun k => s.placePsn (.mem { key := key } (pa off + k)))) ∧
             SameBytes s t
         | .write off bs psn => ans = .ack ∧ Stored s t (bytesAt { key := key } (pa off) bs psn)
         | .reduce off et op bs psn => ans = .ack ∧
             Stored s t (bytesAt { key := key } (pa off) (leBytes bs.length (reduceOp et op (rdNat s { key := key } (pa off) bs.length) (leNat bs))) psn)
         | .atom off op w vals cmp psn _ =>
             let n := if w then 8 else 4
             let old := rdNat s { key := key } (pa off) n
             let bad := s.placePsn (.mem { key := key } (pa off))
             let new := if op = 13 then (vals.foldl (fun v x => (atomicWant 13 32 v x.toNat 0).1) old, true) else atomicWant op (8 * n) old (vals.headD 0).toNat cmp.toNat
             op ≤ 13 → off % n = 0 → if op = 12 ∧ bad = true then ans = .old (BitVec.ofNat 64 old) true false ∧ SameBytes s t
               else ans = .old (BitVec.ofNat 64 old) bad new.2 ∧ (if new.2 ∨ psn = true then Stored s t (bytesAt { key := key } (pa off) (leBytes n (if new.2 then new.1 else old)) psn) else SameBytes s t)
         | .chunk _ => True)))

/-- R317 to R322, R329 to R331, R344, R355, R356, R414, R431: responses, loss of a peer, ports and links, minting, requests to control homes, the buddy's mirror and the plane credits. -/
def Obligations.FabricEventsActOnThePackage : Prop :=
  ∀ (s : State), s.legal = true → FMap.sorted s.remotes = true → FMap.sorted s.lost = true →
    (∀ id a, s.remotes.find id = none → exec (.remoteResponse id a) s = .next s) ∧
    (∀ id r a, s.remotes.find id = some r → (s.isLost r.target = true ∨ r.held = true ∨ r.noPort = true ∨ respFits r.req.kind a = false) → exec (.remoteResponse id a) s = .next s) ∧
    (∀ id r a, s.remotes.find id = some r → s.isLost r.target = false → r.held = false → r.noPort = false → respFits r.req.kind a = true → (∀ x ∈ s.remotes, x.2.held = false) →
      (∀ c sl w u, r.who = .red c sl w u → ∃ t, exec (.remoteResponse id a) s = .next t ∧ t = { s with remotes := s.remotes.del id, portFails := s.portFails.del r.req.plane, regs := t.regs } ∧
        (∀ o, o ≠ 0x401018 → t.reg o = s.reg o) ∧ t.reg 0x401018 % 2 ^ 32 = if a = .token ∨ a = .gone then min (s.reg 0x401018 % 2 ^ 32 + 1) (2 ^ 32 - 1) else s.reg 0x401018 % 2 ^ 32) ∧
      (∀ c sl tok dp d w op ls vs ps sm tr p, r.who = .atomr c sl tok dp d w op ls vs ps sm tr → s.pack? c sl = some p → (∃ k ∈ p.toks, k.id = tok) → dp < p.frames.length → tr.hlvl = false → ls.Nodup →
        vs.length = ls.length → ps.length = ls.length → (∀ l ∈ ls, l < 32) → (s.lrecOf p).rec_ = false → (s.lrecOf p).paired = false → (op ≤ 8 ∨ op = 13 ∨ ls.length = 1) → op ≤ 13 →
        ∃ t q, exec (.remoteResponse id a) s = .next t ∧ t.pack? c sl = some q ∧ t = { s with remotes := s.remotes.del id, portFails := s.portFails.del r.req.plane, packs := t.packs } ∧
          q = { p with frames := q.frames, m := q.m, pending := q.pending, toks := q.toks } ∧
          ((∀ y ∈ s.remotes, y.1 ≠ id → ∀ c' sl' dp' d' w' op' ls' vs' ps' sm' tr', y.2.who ≠ .atomr c' sl' tok dp' d' w' op' ls' vs' ps' sm' tr') → q.toks = p.toks.filter (fun k => k.id != tok || k.pend.isSome)) ∧
          (∀ v psn ok, a = .old v psn ok →
            let n := if w then 2 else 1
            let old := fun j => if op = 13 ∨ op ≤ 8 then (vs.take j).foldl (fun x y => (atomicWant op (32 * n) x y.toNat 0).1) v.toNat else v.toNat
            (op = 12 ∧ psn = true → q.frames = p.frames ∧ ∃ y, q.pending = queueTrap y p.pending ∧ y.code = tPOISON ∧ y.lanes = laneMask ls) ∧
            (¬(op = 12 ∧ psn = true) → q.pending = p.pending ∧ (∀ e, e ≠ dp → q.frames.getD e {} = p.frames.getD e {}) ∧
              (∀ x l, l < 32 → (q.frames.getD dp {}).cell x l = match ls.findIdx? (fun y => y == l) with
                | some j => if d ≤ x ∧ x < d + n then { val := BitVec.ofNat 32 (old j / 2 ^ (32 * (x - d))), psn := psn || (ps.take j).any (fun y => y) } else (p.frames.getD dp {}).cell x l
                | none => (p.frames.getD dp {}).cell x l) ∧
              (∀ j l, l < 32 → (q.m.getD j 0).getLsbD l = if op = 12 ∧ j = sm ∧ sm ≠ 0 ∧ l ∈ ls then ok else (p.m.getD j 0).getLsbD l))) ∧
          (a = .token ∨ a = .gone → q.frames = p.frames ∧ q.m = p.m ∧ ∃ y, q.pending = queueTrap y p.pending ∧ y.code = tr.code ∧ y.detail = (if a = .token then 3 else 4) ∧ y.lanes = laneMask ls))) ∧
    (∀ n, n = s.pkgId ∨ s.lost.has n = true → exec (.lossNotice n) s = .next s) ∧
    (∀ n i, (i = .lossNotice n ∨ ∃ id r, i = .fabLossTo id ∧ s.remotes.find id = some r ∧ r.target = n ∧ s.reg 0x401000 % 2 ^ 32 ≠ 0 ∧ r.held = false ∧ r.noPort = false ∧ r.sentAt + s.reg 0x401000 % 2 ^ 32 ≤ s.cycle ∧ 2 ≤ r.tries) →
      n ≠ s.pkgId → s.lost.has n = false → (∀ x ∈ s.remotes, x.2.target = n → ∃ c sl w u, x.2.who = .red c sl w u) → s.ctlHeld = [] → FMap.sorted s.unmirrored = true →
      ∃ t, exec i s = .next t ∧ t = { s with lost := s.lost.ins n (), unmirrored := t.unmirrored, mirrorPend := t.mirrorPend, regs := t.regs, packs := t.packs, remotes := t.remotes, outbox := t.outbox } ∧
        (∀ k, t.unmirrored.has k = (s.unmirrored.has k || k == buddy n && !s.isLost (buddy n))) ∧ (t.mirrorPend = if n = buddy s.pkgId then [] else s.mirrorPend) ∧
        t.outbox = s.outbox ++ ((List.range 36).filter s.planeUp).map (fun p => .lossNotice p n) ∧ (∀ id x, t.remotes.find id = some x ↔ s.remotes.find id = some x ∧ x.target ≠ n) ∧
        ∀ k p, s.packs.find k = some p → p.waitev = [] → t.packs.find k = some { p with evpend := p.evpend ||| 128 }) ∧
    (∀ id r, s.remotes.find id = some r →
      let lim := s.reg 0x401000 % 2 ^ 32
      (lim = 0 ∨ r.held = true ∨ r.noPort = true ∨ s.cycle < r.sentAt + lim → exec (.fabLossTo id) s = .next s) ∧
      (lim ≠ 0 → r.held = false → r.noPort = false → r.sentAt + lim ≤ s.cycle → r.tries = 1 → ∃ t pl, exec (.fabLossTo id) s = .next t ∧
        t = { s with remotes := s.remotes.upd id (fun r => { r with req := { r.req with plane := pl }, resent := true, noPort := !s.planeUp pl, sentAt := s.cycle, tries := 2 }), outbox := (if s.planeUp pl then s.outbox ++ [.request r.target { r.req with plane := pl }] else s.outbox) } ∧
        (s.planeUp pl = true ∧ pl ≠ r.req.plane ∨ pl = r.req.plane ∧ ∀ j, j < 36 → j ≠ r.req.plane % 36 → s.planeUp j = false))) ∧
    (∀ v : DWord, let n := v.toNat % 2 ^ 11
      ∃ t, exec (.peerClr v) s = .next t ∧ t = { s with lost := t.lost, regs := t.regs } ∧ t.reg 0x401008 = n ∧ (∀ o, o ≠ 0x401008 → t.reg o = s.reg o) ∧
        ∀ k, t.lost.has k = (s.lost.has k && !(v.getLsbD 63 && k == n))) ∧
    (∀ p, p < 36 →
      let a := 0x400000 + 8 * p
      let f := (s.portFails.find p).getD 0
      (s.planeUp p = false → exec (.linkCrcError p) s = .next s) ∧
      (s.planeUp p = true → f < 16 → ∃ t, exec (.linkCrcError p) s = .next t ∧ t = { s with regs := t.regs, portFails := s.portFails.ins p (f + 1) } ∧
        t.reg a = s.reg a / 2 ^ 32 * 2 ^ 32 + min (s.reg a / 2 ^ 16 % 2 ^ 16 + 1) (2 ^ 16 - 1) * 2 ^ 16 + s.reg a % 2 ^ 16 ∧ t.reg 0x700080 % 2 ^ 32 = min (s.reg 0x700080 % 2 ^ 32 + 1) (2 ^ 32 - 1)) ∧
      (∀ i, (i = .linkCrcError p ∧ 16 ≤ f ∨ i = .portDisable p true) → s.planeUp p = true → ∃ t, exec i s = .next t ∧ t = { s with regs := t.regs, portFails := t.portFails, remotes := t.remotes, outbox := t.outbox } ∧
        t.planeUp p = false ∧ (∀ j, j ≠ p → j < 36 → t.planeUp j = s.planeUp j) ∧ (i = .portDisable p true → t.reg a / 2 ^ 32 % 2 = 1) ∧
        (∀ id r, s.remotes.find id = some r → (r.req.plane ≠ p ∨ r.held = true ∨ r.noPort = true → t.remotes.find id = some r) ∧
          (r.req.plane = p → r.held = false → r.noPort = false → ∃ y, t.remotes.find id = some y ∧
            y = { r with req := { r.req with plane := y.req.plane }, resent := true, noPort := !t.planeUp y.req.plane, sentAt := s.cycle } ∧
            (t.planeUp y.req.plane = true → .request r.target y.req ∈ t.outbox) ∧ (t.planeUp y.req.plane = false → ∀ j, j < 36 → t.planeUp j = false)))) ∧
      (s.planeUp p = false → s.reg a / 2 ^ 32 % 2 = 0 → ∃ t, exec (.portTrained p) s = .next t ∧
        t = { s with regs := t.regs, portFails := t.portFails, remotes := t.remotes, outbox := t.outbox } ∧ t.reg a % 4 = 3 ∧
        (∀ id r, s.remotes.find id = some r → (r.noPort = false → t.remotes.find id = some r) ∧ (r.noPort = true → ∃ y, t.remotes.find id = some y ∧
          y = { r with req := { r.req with plane := y.req.plane }, held := false, noPort := false, sentAt := s.cycle } ∧ t.planeUp y.req.plane = true ∧ .request r.target y.req ∈ t.outbox)) ∧
        t.reg a / 2 ^ 8 % 256 = (if s.portFails.find p = some 17 then min (s.reg a / 2 ^ 8 % 256 + 1) 255 else s.reg a / 2 ^ 8 % 256) ∧ ∀ o, o ≠ a → t.reg o = s.reg o) ∧
      (s.planeUp p = true ∨ s.reg a / 2 ^ 32 % 2 = 1 → exec (.portTrained p) s = .next s) ∧
      (∀ vc, exec (.linkRekey p vc) s = .next s) ∧
      (∀ b, b = false ∨ s.planeUp p = false → ∃ t, exec (.portDisable p b) s = .next t ∧ t = { s with regs := t.regs } ∧ t.reg a = s.reg a / 2 ^ 33 * 2 ^ 33 + (if b then 2 ^ 32 else 0) + s.reg a % 2 ^ 32 ∧
        ∀ o, o ≠ a → t.reg o = s.reg o)) ∧
    (∀ (v : DWord) i, i = .mint v ∨ i = .roll v →
      let x := v.toNat
      let key := if x / 2 ^ 62 = 3 then s.tokenKey + 1 else s.tokenKey
      ∃ t, exec i s = .next t ∧ t = { s with regs := t.regs, tokenKey := key } ∧ t.reg 0x402010 = x % 2 ^ 32 + x / 2 ^ 32 % 2 ^ 11 * 2 ^ 32 + x / 2 ^ 48 % 2 ^ 6 * 2 ^ 48 + x / 2 ^ 62 % 2 * 2 ^ 62 ∧
        t.reg 0x402018 = (if x / 2 ^ 63 = 1 then x % 2 ^ 32 + (Config.cmac key (leBytes 4 (x % 2 ^ 32) ++ leBytes 2 (x / 2 ^ 32 % 2 ^ 11) ++ leBytes 1 (x / 2 ^ 48 % 2 ^ 6) ++ [0])).toNat * 2 ^ 32
          else s.reg 0x402018) ∧ ∀ o, o ≠ 0x402010 → o ≠ 0x402018 → t.reg o = s.reg o) ∧
    (∀ r : CtlReq,
      let a := ctlAcc r.src
      let n := match r.op with | .load n => n | .store bs => bs.length | .amo _ w _ _ => if w then 8 else 4
      let key := fun p n => (2048 * (16 + r.pa / 2 ^ 34 % 2 ^ 11) + p) * 2 ^ 64 + n
      let reaches := paOk r.pa = true ∧ (paClass r.pa = 8 ∨ paClass r.pa = 0 ∧ ∃ h, r.src = .host h) ∧ s.homeLost r.pa = false
      let early := 0 < n ∧ ∃ x ∈ s.mirrorPend, r.pa / 64 ≤ x ∧ 64 * x < r.pa + n
      (¬reaches → exec (.controlRequest r) s = .next s) ∧
      (∀ p m, r.src = .peer p m → reaches →
        (s.isLost p = true → ∃ t, exec (.controlRequest r) s = .next t ∧ t = { s with regs := t.regs, outbox := s.outbox ++ [.response p m .gone] } ∧
          t.reg 0x401010 = s.reg 0x401010 / 2 ^ 32 * 2 ^ 32 + min (s.reg 0x401010 % 2 ^ 32 + 1) (2 ^ 32 - 1) ∧ ∀ o, o ≠ 0x401010 → t.reg o = s.reg o) ∧
        (∀ bs psn, s.isLost p = false → s.performed.find (key p m) = some (.data bs psn) → exec (.controlRequest r) s = .next { s with outbox := s.outbox ++ [.ctlData r.src r.pa bs] }) ∧
        (s.isLost p = false → s.performed.find (key p m) = none → early → exec (.controlRequest r) s = .next { s with ctlHeld := (if r ∈ s.ctlHeld then s.ctlHeld else s.ctlHeld ++ [r]) })) ∧
      (reaches → (∀ p m, r.src = .peer p m → s.isLost p = false ∧ s.performed.find (key p m) = none ∧ ¬early) → SoundRun s a r.pa n →
        ∃ t bs, exec (.controlRequest r) s = .next t ∧ Outside s t ∧ t.regs = s.regs ∧ .ctlData r.src r.pa bs ∈ t.outbox ∧
          (t.performed = match r.src with | .peer p m => s.performed.ins (key p m) (.data bs false) | _ => s.performed) ∧
          (match r.op with
           | .load n => bs = (List.range n).map (fun k => s.placeByte (.mem a (r.pa + k))) ∧ SameBytes s t
           | .store ws => bs = [] ∧ Stored s t (bytesAt a r.pa ws false)
           | .amo op _ v c => op ≤ 13 → r.pa % n = 0 →
               let old := rdNat s a r.pa n
               let new := atomicWant op (8 * n) old v.toNat c.toNat
               bs = leBytes n old ∧ (if new.2 then Stored s t (bytesAt a r.pa (leBytes n new.1) false) else SameBytes s t)))) ∧
    (s.isLost (buddy s.pkgId) = true → ∀ off bs p n a, exec (.mirrorUpdate (.hold off) bs) s = .next s ∧ exec (.mirrorUpdate (.did p n a) bs) s = .next s) ∧
    (s.isLost (buddy s.pkgId) = false → (∀ off bs, off + bs.length ≤ 2 ^ 34 → ∃ t, exec (.mirrorUpdate (.hold off) bs) s = .next t ∧ t = { linesWritten s t with outbox := t.outbox } ∧
        ∀ o, (t.mirror.find o).getD 0 = if off ≤ o ∧ o < off + bs.length then bs.getD (o - off) 0 else (s.mirror.find o).getD 0) ∧
      ∀ p n a bs, exec (.mirrorUpdate (.did p n a) bs) s = .next { s with performed := s.performed.ins ((2048 * (16 + buddy s.pkgId) + p) * 2 ^ 64 + n) a }) ∧
    (s.ctlHeld = [] → ∀ bs, exec (.mirrorUpdate .held bs) s = .next { s with mirrorPend := s.mirrorPend.tail }) ∧
    (∀ cs, exec (.planeBwWindow cs) s = .next { s with planeBw := (List.range 36).map (fun p => (p, cs.getD p 0)) })

namespace Sys2Proof.Claims

/-- The record of a request: index, its address in the shape table, its image once read (R151, R155); s1 is the package after the read. -/
abbrev RecordIs (s s1 : State) (p : Pack) (q : TcopyReq) (img : List Byte) : Prop :=
  recordRead s p.ctx 0 q.shape (s.ctxReg p.ctx 0x20 + 64 * q.shape) 64 4 = (s1, .ok img)

/-- A copy between a tile and memory of this package, its tile entry tl in the table, in step with its engine. -/
abbrev RunsOn (s : State) (id : Nat) (c : Copy) (w : Wg) (tl : Tile) : Prop :=
  s.copies.find id = some c ∧ c.id = id ∧ c.status = 1 ∧ c.waits = 0 ∧ w = s.wg c.wg ∧ (s.core w.core).tiles.find (w.tileIx c.q.tile) = some tl ∧ (s.cores.find w.core).isSome = true

/-- The copy after its element has been delivered (R157, R160, R162). -/
abbrev OneMore (t : State) (id : Nat) (c : Copy) (n : Nat) (bs : List Byte) (psn : Bool) : Prop :=
  t.copies.find id = some { c with at_ := c.at_ + 1, owed := c.owed + n, psn := c.psn || psn, crc := if c.q.dig then BitVec.ofNat 64 (bs.foldl crcByte c.crc.toNat) else c.crc }

/-- Is a copy of a workgroup's tile paused (R169)? -/
def pausedNow (t : State) (wg tile : Nat) : Bool := t.copies.any (fun c => c.2.wg == wg && c.2.q.tile == tile && c.2.status == 2)

/-- A TCOPY whose record is read and checked is accepted (R161): the copy stands in the table with what the request read, and its tile is FILLING or has a reader more. -/
abbrev CopyAccepted (s t : State) (c sl : Nat) (p : Pack) (q : TcopyReq) (rest : List TcopyReq) (w : Wg) (tl : Tile) : Prop :=
  t = { s with packs := t.packs, cores := t.cores, copies := t.copies, nextId := s.nextId + 1 } ∧
  t.pack? c sl = some { p with tcq := rest, toks := p.toks.filter (fun k => k.id != q.tok), copySeq := p.copySeq + 1 } ∧
  t.copies.find s.nextId = some { id := s.nextId, core := c, slot := sl, wg := p.wg, ctx := p.ctx, img := q.img, ext := q.ext, pkgs := q.toks.map Prod.fst, toks := q.toks, q := { q with bar := if q.bar.isSome then q.bar else tl.link, tok := p.copySeq } } ∧
  (∀ k, k ≠ s.nextId → t.copies.find k = s.copies.find k) ∧
  t.tile w q.tile = (let tl := { tl with link := if q.bar.isSome then q.bar else tl.link }
    if (shapeOf q.img q.base).dkind then { tl with st := .filling, err := 0, psn := false } else { tl with readers := tl.readers + 1 })

/-- Of copies, tiles and packs this is all that has changed. -/
abbrev CopyGone (s t : State) (id : Nat) (c : Copy) (tl : Tile) (e : Nat) (psn : Bool) : Prop :=
  let w := s.wg c.wg
  let r := tl.readers - 1
  let fin := tl.st = .draining ∧ r = 0
  t.copies = s.copies.del id ∧ (∀ k, k ≠ w.tileIx c.q.tile → (t.core w.core).tiles.find k = (s.core w.core).tiles.find k) ∧
  t.tile w c.q.tile = (if (shapeOf c.img c.q.base).dkind then { tl with st := .ready, paused := pausedNow t c.wg c.q.tile, psn := tl.psn || psn, err := if tl.err = 0 then e else tl.err }
    else { tl with st := if fin then .empty else tl.st, readers := r, paused := pausedNow t c.wg c.q.tile, psn := tl.psn || psn, err := if tl.err = 0 then e else tl.err }) ∧
  ∀ p, s.pack? c.core c.slot = some p → p.wg = c.wg → p.waitev = [] → ∃ q, t.pack? c.core c.slot = some q ∧
    q.evpend = p.evpend ||| 8 ||| (if (shapeOf c.img c.q.base).dkind ∨ fin then 2 else 0) ∧ q = { p with evpend := q.evpend }

end Sys2Proof.Claims

/-- R149, R150, R154, R157, R158, R160 to R165, R167, R168, R178: a TCOPY is accepted when its record is sound and its tile's gate is open; the copy starts when an engine is free, moves its elements,
pauses or fails on a fault, and at its end its bytes have arrived and its tile becomes READY or has a reader less. (Local copies; how many elements an event moves is log 16.) -/
def Obligations.CopiesAreAcceptedRunAndEnd : Prop :=
  ∀ (s : State), s.legal = true → FMap.sorted s.copies = true →
    (∀ c sl p, s.pack? c sl = some p → p.tcq = [] → exec (.tcopyAccept c sl) s = .next s) ∧
    (∀ (c sl : Nat) (p : Pack) (q : TcopyReq) (rest : List TcopyReq), s.pack? c sl = some p → p.tcq = q :: rest →
      let withdrawn := fun (t s1 : State) (code detail : Nat) (info : List Byte) => ∃ r y, t = { s1 with packs := t.packs } ∧ t.pack? c sl = some r ∧
        r = { s1.pack c sl with tcq := rest, toks := (s1.pack c sl).toks.filter (fun k => k.id != q.tok), pending := queueTrap y (s1.pack c sl).pending } ∧
        y.code = code ∧ y.detail = detail ∧ y.lanes = q.lanes ∧ y.replay = q.pc ∧ y.info = info ∧ y.ownOrd = q.ownAt
      (∀ s1 k d, q.seen = false → recordRead s p.ctx 0 q.shape (s.ctxReg p.ctx 0x20 + 64 * q.shape) 64 4 = (s1, .trap k d) → s1.pack? c sl = some p → k ≠ tTILE → ∃ t, exec (.tcopyAccept c sl) s = .next t ∧ withdrawn t s1 k d []) ∧
      (∀ s1 img, q.seen = false → recordRead s p.ctx 0 q.shape (s.ctxReg p.ctx 0x20 + 64 * q.shape) 64 4 = (s1, .fault img) → s1.pack? c sl = some p → (s1.cores.find c).isSome = true → p.lanes.length = 32 → (∀ l, l < 32 → (p.lane l).st ≠ .waiting) →
        ∃ t r, exec (.tcopyAccept c sl) s = .next t ∧ t.pack? c sl = some r ∧ r = { p with tcq := rest, toks := p.toks.filter (fun k => k.id != q.tok), lanes := r.lanes } ∧
          (∀ l, l < 32 → if q.lanes.getLsbD l then r.lane l = { p.lane l with st := .waiting, why := (r.lane l).why, replay := q.pc, replayK := q.k, released := false, age := 0 } ∧
              (r.lane l).why = .fault { img with lanes := BitVec.ofNat 32 q.tile, kind := 4, core := c, pack := sl }
            else r.lane l = p.lane l) ∧
          (t.core c).trq = (s1.core c).trq ++ [{ slot := sl, code := 0, ctx := img.ctx, img := some { img with lanes := BitVec.ofNat 32 q.tile, kind := 4, core := c, pack := sl } }]) ∧
      (∀ s1 img w tl, q.seen = false → RecordIs s s1 p q img → s1.pack? c sl = some p → w = s1.wg p.wg → (s1.core w.core).tiles.find (w.tileIx q.tile) = some tl → (s1.cores.find w.core).isSome = true →
        let z := shapeOf img q.base
        let info := leBytes 4 (q.tile + q.shape * 2 ^ 16)
        let gate := if z.dkind then tl.st = .empty else tl.st = .ready ∧ tl.readers < 63
        z.ext = false → remoteVa s1.pkgId z.memBase = false →
        (shapeBad s1 w z [] q.shape q.rop = true → ∃ t, exec (.tcopyAccept c sl) s = .next t ∧ withdrawn t s1 tTILE 2 info) ∧
        (shapeBad s1 w z [] q.shape q.rop = false → z.tileRange.1 < 0 ∨ tl.size * 256 < z.tileRange.2 → ∃ t, exec (.tcopyAccept c sl) s = .next t ∧ withdrawn t s1 tTILE 3 info) ∧
        (shapeBad s1 w z [] q.shape q.rop = false → 0 ≤ z.tileRange.1 → z.tileRange.2 ≤ tl.size * 256 →
          let q' : TcopyReq := { q with seen := true, img := img, ext := [], toks := [] }
          (32 ≤ s1.coreCopies c ∨ ¬gate → exec (.tcopyAccept c sl) s = .next { s1 with packs := s1.packs.upd (packKey c sl) (fun p => { p with tcq := q' :: rest }) }) ∧
          (s1.coreCopies c < 32 → gate → ∃ t, exec (.tcopyAccept c sl) s = .next t ∧ CopyAccepted s1 t c sl p q' rest w tl))) ∧
      (∀ w tl, q.seen = true → w = s.wg p.wg → (s.core w.core).tiles.find (w.tileIx q.tile) = some tl → (s.cores.find w.core).isSome = true →
        let gate := if (shapeOf q.img q.base).dkind then tl.st = .empty else tl.st = .ready ∧ tl.readers < 63
        (32 ≤ s.coreCopies c ∨ ¬gate → exec (.tcopyAccept c sl) s = .next { s with packs := s.packs.upd (packKey c sl) (fun p => { p with tcq := q :: rest }) }) ∧
        (s.coreCopies c < 32 → gate → ∃ t, exec (.tcopyAccept c sl) s = .next t ∧ CopyAccepted s t c sl p q rest w tl))) ∧
    (∀ id c tl, s.copies.find? (fun x => x.2.status == 0) = some (id, c) → c.id = id → (s.core (s.wg c.wg).core).tiles.find ((s.wg c.wg).tileIx c.q.tile) = some tl → (s.cores.find (s.wg c.wg).core).isSome = true →
      (48 ≤ (s.copies.filter (fun x => x.2.status == 1)).length → exec .copyStart s = .next s) ∧
      ((s.copies.filter (fun x => x.2.status == 1)).length < 48 → ∃ t, exec .copyStart s = .next t ∧ t.copies.find id = some { c with status := 1, cause := 0, acqDone := c.q.acq } ∧
        (∀ k, k ≠ id → t.copies.find k = s.copies.find k) ∧ t.tile (s.wg c.wg) c.q.tile = { tl with paused := pausedNow t c.wg c.q.tile } ∧ t.packs = s.packs ∧ t.regs = s.regs ∧ t.mem = s.mem)) ∧
    ((∀ x ∈ s.copies, x.2.status ≠ 0) → exec .copyStart s = .next s) ∧
    (∀ id c w tl, RunsOn s id c w tl → s.prov = [] → s.isReplayable w.uid = false →
      let z := shapeOf c.img c.q.base
      let n := c.at_
      remoteVa s.pkgId z.memBase = false →
      (c.at_ + 1 = z.total → z.isPad n = true → z.dkind = true → (∀ pl ∈ tilePlaces w tl (z.dstAt n) z.esz, placeSound s pl = true ∧ placeCalm s pl = true) → ∃ t, exec (.barrierEngineArrival id) s = .next t ∧ OneMore t id c z.esz (padElem z) false ∧
        Stored s t ((tilePlaces w tl (z.dstAt n) z.esz).zipIdx.map (fun y => (y.1, (padElem z).getD y.2 0, false)))) ∧
      (∀ s1 ps, c.at_ + 1 = z.total → z.isPad n = false → z.skind = false → z.dkind = true → engPlaces s c (z.srcAt n (gatherIx s w z)) z.esz false = (s1, .ok ps) → ps.length = z.esz →
        (s1.launch w.uid).r.rec_ = false → (∀ pl ∈ ps ++ tilePlaces w tl (z.dstAt n) z.esz, placeSound s1 pl = true ∧ placeCalm s1 pl = true) → ∃ t, exec (.barrierEngineArrival id) s = .next t ∧
          OneMore t id c z.esz (ps.map s1.placeByte) (ps.any s1.placePsn) ∧
          Stored s1 t ((tilePlaces w tl (z.dstAt n) z.esz).zipIdx.map (fun y => (y.1, (ps.map s1.placeByte).getD y.2 0, ps.any s1.placePsn)))) ∧
      (∀ s1 ps, let src := tilePlaces w tl (z.srcAt n (fun _ => 0)) z.esz
        c.at_ + 1 = z.total → z.isPad n = false → z.skind = true → z.dkind = false → engPlaces s c (z.dstAt n) z.esz true = (s1, .ok ps) → ps.length = z.esz → c.q.rop = 0 →
        (∀ pl ∈ ps ++ src, placeSound s pl = true ∧ placeSound s1 pl = true ∧ placeCalm s1 pl = true) → ∃ t, exec (.barrierEngineArrival id) s = .next t ∧ OneMore t id c z.esz (src.map s.placeByte) (src.any s.placePsn) ∧
          Stored s1 t (ps.zipIdx.map (fun y => (y.1, (src.map s.placeByte).getD y.2 0, src.any s.placePsn)))) ∧
      (∀ s1 img, c.at_ < z.total → z.isPad n = false → z.skind = false → engPlaces s c (z.srcAt n (gatherIx s w z)) z.esz false = (s1, .fault img) → s1.copies = s.copies → ∃ t, exec (.barrierEngineArrival id) s = .next t ∧
        (∃ r, t.copies.find id = some r ∧ r.status = 2 ∧ r.cause = 1 ∧ r.at_ = n) ∧
        t.prqHeld = s1.prqHeld ++ [{ func := s1.funcOf c.ctx, img := { img with lanes := BitVec.ofNat 32 c.q.tile, core := c.core, pack := c.slot }, copy := some id }]) ∧
      (∀ s1 k d, c.at_ < z.total → z.isPad n = false → z.skind = false → engPlaces s c (z.srcAt n (gatherIx s w z)) z.esz false = (s1, .trap k d) → s1.copies = s.copies → ∃ t r, exec (.barrierEngineArrival id) s = .next t ∧
        t.copies.find id = some r ∧ r.status = 4 ∧ r.err = 2 ∧ r.at_ = n) ∧
      (z.total ≤ c.at_ → c.q.dig = false → copyBar s c = none → copyBarWaits s c = false → ∃ t, exec (.copyComplete id) s = .next t ∧ t = { s with packs := t.packs, cores := t.cores, copies := t.copies } ∧ SameBytes s t ∧ CopyGone s t id c tl c.err c.psn) ∧
      (∀ k o, z.total ≤ c.at_ → c.q.dig = false → copyBar s c = some (k, o) → 0 < c.owed → c.owed ≤ 4096 → s.prov = [] → exec (.copyComplete id) s = .next (
        let s := s.updTile w c.q.tile (fun t => { t with psn := t.psn || c.psn, err := if t.err = 0 then c.err else t.err })
        let s := s.barArriveEngine k o c.owed
        let s := { s with copies := s.copies.upd c.id (fun c => { c with owed := 0 }) }
        let s := if z.dkind then s.tileReady c.wg c.q.tile else s.readerDone c.wg c.q.tile
        State.notePaused { s.updPack c.core c.slot (fun p => if p.wg = c.wg then p.post 3 else p) with copies := s.copies.del id } c.wg c.q.tile)) ∧
      (copyBarWaits s c = true → exec (.copyComplete id) s = .next s) ∧
      (c.at_ < z.total → exec (.copyComplete id) s = .next s)) ∧
    (∀ id c q tl, s.copies.find id = some c → (s.core (s.wg c.wg).core).tiles.find ((s.wg c.wg).tileIx c.q.tile) = some tl → (s.cores.find (s.wg c.wg).core).isSome = true →
      s.prqHeld.find? (fun q => q.copy == some id) = some q →
      ∃ t, exec (.copyFaultPause id) s = .next t ∧ t.tile (s.wg c.wg) c.q.tile = { tl with paused := pausedNow t c.wg c.q.tile } ∧
        (s.prqEnabled q.func = false → t.copies.find id = some { c with status := 4, err := 1 } ∧ t.prq = s.prq) ∧
        (s.prqEnabled q.func = true → t.copies = s.copies ∧ (s.prqHeld.filter (fun x => x.copy != some id) = [] → s.prqCount q.func < 256 → ∃ y, t.prq = s.prq ++ [y] ∧ y = { q with img := { q.img with tag := y.img.tag } }))) ∧
    (∀ id c tl, s.copies.find id = some c → c.id = id → c.status = 4 → c.waits = 0 → copyBar s c = none → copyBarWaits s c = false → (s.core (s.wg c.wg).core).tiles.find ((s.wg c.wg).tileIx c.q.tile) = some tl → (s.cores.find (s.wg c.wg).core).isSome = true →
      let z := shapeOf c.img c.q.base
      ∃ t, exec (.copyFail id) s = .next t ∧ t = { s with packs := t.packs, cores := t.cores, copies := t.copies } ∧ SameBytes s t ∧ CopyGone s t id c tl c.err (c.psn || z.dkind) ∧
        ∀ b, (t.core (s.wg c.wg).core).spadPsn.has b = ((s.core (s.wg c.wg).core).spadPsn.has b ||
          (z.dkind && (List.range (z.total - c.at_)).any (fun j => (List.range z.esz).any (fun e => ((s.wg c.wg).tileByte tl + (z.dstAt (c.at_ + j)).toNat + e) / 64 == b))))) ∧
    (∀ id c, s.copies.find id = some c → (c.status ≠ 4 ∨ c.waits ≠ 0 ∨ copyBarWaits s c = true) → exec (.copyFail id) s = .next s)

namespace Sys2Proof.Claims

/-- A COLL that waited for acceptance is withdrawn with a trap of its lanes (R333, R335). -/
abbrev CollWithdrawn (t s1 : State) (c sl : Nat) (r : CollReq) (rest : List CollReq) (code detail : Nat) : Prop :=
  ∃ q y, t = { s1 with packs := t.packs } ∧ t.pack? c sl = some q ∧
    q = { s1.pack c sl with collq := rest, toks := (s1.pack c sl).toks.filter (fun k => k.id != r.tok), pending := queueTrap y (s1.pack c sl).pending } ∧
    y.code = code ∧ y.detail = detail ∧ y.lanes = r.lanes ∧ y.replay = r.pc ∧ y.ownOrd = r.ownAt

/-- Of the collectives only this one has changed. -/
abbrev CollNow (s t : State) (id : Nat) (c : Coll) : Prop := t.colls.find id = some c ∧ ∀ k, k ≠ id → t.colls.find k = s.colls.find k

/-- A step of a collective on which work may go on (R339, R341). -/
abbrev OpenStep (s : State) (id : Nat) (c : Coll) (k : Nat) : Prop :=
  s.colls.find id = some c ∧ c.id = id ∧ c.ended = false ∧ s.collPaused id = false ∧ c.isStep k = true ∧ (c.step k).done = false

/-- The status of the causes met, by precedence (R341). -/
def statusOf (n : Nat) : Nat :=
  if n.testBit 1 then 1 else if n.testBit 5 then 5 else if n.testBit 4 then 4 else if n.testBit 3 then 3 else if n.testBit 2 then 2 else if n.testBit 6 then 6 else 0

/-- Element-wise reduction of the operands of a step in their order; poison of any (R336, R338). -/
def reduced (c : Coll) (os : List (List Byte × Bool)) : List Byte × Bool :=
  match os with
  | [] => ([], true)
  | o :: os => os.foldl (fun a b => ((List.range (a.1.length / c.q.esz)).flatMap (fun j =>
      leBytes c.q.esz (reduceOp c.q.et c.q.op (numAt a.1 (c.q.esz * j) c.q.esz) (numAt b.1 (c.q.esz * j) c.q.esz))), a.2 || b.2)) o

end Sys2Proof.Claims

/-- R333, R335, R337: the oldest COLL of a pack is accepted when its record is sound, its group's table entries are valid and it is the member of its rank, with the next SEQ of its group; otherwise its
lanes trap COLL. Rank 0 sends the split, the others take it. (SEQ counts from 1, and the split of a sum of zero is free: log 24.) -/
def Sys2Proof.Claims.CollectivesAreAccepted : Prop :=
  ∀ (s : State) (c sl : Nat) (p : Pack), s.pack? c sl = some p →
    (p.collq = [] → exec (.collAccept c sl) s = .next s) ∧
    (∀ r rest, p.collq = r :: rest →
      let read := recordRead s p.ctx 1 r.index (s.ctxReg p.ctx 0x38 + 512 * r.index) 512 4
      (16 ≤ s.colls.length → exec (.collAccept c sl) s = .next s) ∧
      (s.colls.length < 16 →
        (∀ s1 k d, read = (s1, .trap k d) → ∃ t, exec (.collAccept c sl) s = .next t ∧ CollWithdrawn t s1 c sl r rest k d) ∧
        (∀ s1 img, read = (s1, .ok img) → (crecOf img r.base).bad s1.pkgId = true → ∃ t, exec (.collAccept c sl) s = .next t ∧ CollWithdrawn t s1 c sl r rest tCOLL 1) ∧
        (∀ s1 s2 img ms, read = (s1, .ok img) → (crecOf img r.base).bad s1.pkgId = false → r.bar = none → collMembers s1 p.ctx (crecOf img r.base) = (s2, ms, none) →
          let q := crecOf img r.base
          (ms = none → ∃ t, exec (.collAccept c sl) s = .next t ∧ CollWithdrawn t s2 c sl r rest tCOLL 3) ∧
          (∀ m, ms = some m → m[q.rank]? ≠ some s2.pkgId → ∃ t, exec (.collAccept c sl) s = .next t ∧ CollWithdrawn t s2 c sl r rest tCOLL 2) ∧
          (∀ m s3 k d, ms = some m → m[q.rank]? = some s2.pkgId → (collTokens s2 p.ctx m).1 = s3 → (collTokens s2 p.ctx m).2.2 = some (.trap k d) →
            ∃ t, exec (.collAccept c sl) s = .next t ∧ CollWithdrawn t s3 c sl r rest k d) ∧
          (∀ m s3 ts, ms = some m → m[q.rank]? = some s2.pkgId → collTokens s2 p.ctx m = (s3, ts, none) → s3.isReplayable (s3.wg p.wg).uid = false → s3.collHeld = [] → s3.pack? c sl = some p →
              FMap.sorted s3.l1 = true →
            let key := p.ctx * 65536 + q.group
            let seq := ((s3.collSeq.find key).getD 0) + 1
            ∃ t k, exec (.collAccept c sl) s = .next t ∧
              t = { l1Moved s3 t with packs := t.packs, nextId := s3.nextId + 1, collSeq := t.collSeq, colls := t.colls, outbox := t.outbox, strags := s3.strags.del key } ∧
              t.pack? c sl = some { p with collq := rest, toks := p.toks.filter (fun x => x.id != r.tok) } ∧ (∀ k x, t.l1.find k = some x → k / 2 ^ 46 = c → x.home = []) ∧
              t.collSeq.find key = some seq ∧ CollNow s3 t s3.nextId k ∧
              k = { id := s3.nextId, core := c, slot := sl, wg := p.wg, ctx := p.ctx, lanes := r.lanes, replay := r.pc, k := r.k, depth := k.depth, words := r.words, index := r.index, img := img, base := r.base,
                    seq := seq, members := m, toks := ts, rank := q.rank, since := s3.cycle, split := k.split, strag := (s3.strags.find key).getD 0, ownAt := r.ownAt } ∧
              (q.rank ≠ 0 → k.split = none ∧ Sends s3 t []) ∧
              (q.rank = 0 → ∃ sp, k.split = some sp ∧ Sends s3 t ((m.filter (fun n => n != s3.pkgId)).map (fun n => .split n q.group sp)) ∧
                ((q.even = true ∨ ∃ j, j < 36 ∧ s3.planeUp j = true ∧ 0 < (s3.planeBw.find j).getD 0) → (∃ j, j < 36 ∧ s3.planeUp j = true) → ∀ x ∈ sp, s3.planeUp x = true))))))

/-- R324, R336 to R343, R163: what happens to an accepted collective: its split, its contributions, the chunks that arrive, the result of each step written at DST or sent on, the time-out, the mismatch and the end
with COLL_STATUS, the event and the trap. (Log 24 and 28: reduce blocks are one event.) -/
def Sys2Proof.Claims.CollectiveEventsMoveChunks : Prop :=
  ∀ (s : State), s.legal = true → s.prov = [] → FMap.sorted s.colls = true →
    (∀ id c sh, s.colls.find id = some c → c.id = id →
      (c.split.isSome = true ∨ sh.length ≠ c.q.splitLen → exec (.collSplit id sh) s = .next s) ∧
      (c.split = none → sh.length = c.q.splitLen → s.collHeld = [] → ∃ t, exec (.collSplit id sh) s = .next t ∧ t = { s with colls := t.colls } ∧ CollNow s t id { c with split := some sh })) ∧
    (∀ id c k, OpenStep s id c k → s.isReplayable (s.wg c.wg).uid = false →
      let x := c.step k
      let n := c.q.len (k / 2)
      (∀ s1 ps, (c.inputs k).1 = true → x.own = none → c.reduces k = true → collPlaces s c (c.q.src + c.srcOff k) n false = (s1, .ok ps) → (∀ pl ∈ ps, placeSound s1 pl = true) →
        ∃ t, exec (.collContributionRead id k) s = .next t ∧ SameBytes s1 t ∧
          t.colls.find id = some (c.setStep k { x with own := some (ps.map s1.placeByte, ps.any s1.placePsn), need := x.need - 1, since := some s1.cycle }) ∧ ∀ j, j ≠ id → t.colls.find j = s1.colls.find j) ∧
      (∀ s1 img, (c.inputs k).1 = true → x.own = none → collPlaces s c (c.q.src + c.srcOff k) n false = (s1, .fault img) → s1.colls = s.colls → s1.prqEnabled (s1.funcOf c.ctx) = false →
        ∃ t, exec (.collContributionRead id k) s = .next t ∧ CollNow s t id { c with causes := c.causes ||| 32, ended := true }) ∧
      ((c.inputs k).1 = false ∨ x.own.isSome = true → exec (.collContributionRead id k) s = .next s) ∧
      (x.need ≠ 0 ∨ (c.reduces k = true ∧ s.reduceRoom = false) → exec (.collReduceComplete id k) s = .next s) ∧
      (∀ s1 s2 os ps ph, x.need = 0 → (c.reduces k = true → s.reduceRoom = true) → c.outs k = (true, [], ph) → c.bar = none → s.collHeld = [] → collOperands s c k x = (s1, some os) → os ≠ [] →
        let v := reduced c os
        (∀ o ∈ os, o.1.length = v.1.length) → v.1.length % c.q.esz = 0 → collPlaces s1 c (c.q.dst + c.dstOff k) v.1.length true = (s2, .ok ps) → ps.length = v.1.length →
        s2.collHeld = [] → s2.prov = [] → (∀ pl ∈ ps, placeSound s2 pl = true) → s2.colls = s.colls →
        ∃ t, exec (.collReduceComplete id k) s = .next t ∧ Stored s2 t (ps.zipIdx.map (fun y => (y.1, v.1.getD y.2 0, v.2))) ∧
          CollNow s t id { (c.setStep k { x with done := true, ins_ := [] }) with owed := v.1.length, map := (c.map ++ x.missing).dedup }) ∧
      (∀ y s1 s2 os ps, x.need = 0 → c.reduces k = true → s.reduceRoom = true → c.outs k = (false, [y], 0) → s.collHeld = [] → collOperands s c k x = (s1, some os) → os ≠ [] →
        let v := reduced c os
        let i := match x.ins_ with | z :: _ => z.2 | [] => 0
        let rk := c.q.rankAt (c.plane (k / 2)) y
        let dest := c.members.getD rk 0
        (∀ o ∈ os, o.1.length = v.1.length) → v.1.length % c.q.esz = 0 → collPlaces s1 c (c.q.stage + 65536 * (4 * c.plane (k / 2) + i)) v.1.length true = (s2, .ok ps) →
        s2.colls = s.colls → s2.collHeld = [] → s2.isLost dest = false →
        ∃ t r, exec (.collReduceComplete id k) s = .next t ∧ r ∈ t.remotes ∧ r.2.target = dest ∧ r.2.req.token = c.toks.getD rk 0 ∧ r.2.req.ctx = c.ctx ∧ r.2.who = .coll id ∧
          r.2.req.kind = .chunk { src := c.rank, group := c.q.group, seq := c.seq, crc := c.crc, idx := k / 2, phase := 0, plane := c.plane (k / 2), bytes := v.1, psn := v.2, missing := x.missing } ∧
          CollNow s t id { (c.setStep k { x with done := true, ins_ := [] }) with map := (c.map ++ x.missing).dedup }) ∧
      (let miss := (c.inputs k).2.filter (fun y => !x.ins_.has y)
       let gone := miss.any (fun y => s.isLost (c.members.getD (c.q.rankAt (c.plane (k / 2)) y) 0))
       let lim := (if c.q.timeout = 0 then s.reg 0x401020 % 2 ^ 16 else c.q.timeout) * 65536
       let late := ∃ t, x.since = some t ∧ t + lim ≤ s.cycle
       (x.flushed = true ∨ miss = [] ∨ (gone = false ∧ ¬late) → exec (.collStepTimeout id k) s = .next s) ∧
       (x.flushed = false → miss ≠ [] → gone = true ∨ late → c.reduces k = true → ∃ t, exec (.collStepTimeout id k) s = .next t ∧ t = { s with colls := t.colls } ∧
         CollNow s t id { (c.setStep k { x with flushed := true, need := if (c.inputs k).1 = true ∧ x.own = none then 1 else 0, missing := (x.missing ++ miss.flatMap (c.lostRanks k)).dedup }) with causes := c.causes ||| (if gone then 8 else 4) }))) ∧
    (∀ id c, s.colls.find id = some c → ∃ t, exec (.collMismatchNotice id) s = .next t ∧ t = { s with colls := t.colls } ∧ CollNow s t id { c with causes := c.causes ||| 2, ended := true }) ∧
    (∀ pkg ctx n tk ch,
      let i := Instr.collChunk pkg ctx n tk ch
      let key := (2048 * 3 + pkg) * 2 ^ 64 + n
      let again := s.collHeld.any (fun h => h.pkg == pkg && h.seq == n && !h.acked)
      (s.isLost pkg = true → ∃ t, exec i s = .next t ∧ t = { s with regs := t.regs, outbox := s.outbox ++ [.response pkg n .gone] } ∧
        t.reg 0x401010 = s.reg 0x401010 / 2 ^ 32 * 2 ^ 32 + min (s.reg 0x401010 % 2 ^ 32 + 1) (2 ^ 32 - 1) ∧ ∀ o, o ≠ 0x401010 → t.reg o = s.reg o) ∧
      (∀ a, s.isLost pkg = false → s.performed.find key = some a → exec i s = .next { s with outbox := s.outbox ++ [.response pkg n a] }) ∧
      (s.isLost pkg = false → s.performed.find key = none → again = true → exec i s = .next s) ∧
      (s.isLost pkg = false → s.performed.find key = none → again = false →
        (∀ s1 e, ingressCheck s pkg ctx tk 3 ((s.collOf ch.group).map (fun c => c.q.stage % 2 ^ 44)) (9 * 2 ^ 20) = (s1, .error e) → s1.performed = s.performed → s1.outbox = s.outbox → s1.colls = s.colls → ∃ t, exec i s = .next t ∧
          t.performed = s.performed.ins key .token ∧ t.outbox = s.outbox ++ [.response pkg n .token] ∧ t.colls = s.colls ∧ t.collHeld = s1.collHeld ∧
          t.reg 0x401010 = e * 2 ^ 32 + min (s1.reg 0x401010 % 2 ^ 32 + 1) (2 ^ 32 - 1)) ∧
        (∀ s1 v, ingressCheck s pkg ctx tk 3 ((s.collOf ch.group).map (fun c => c.q.stage % 2 ^ 44)) (9 * 2 ^ 20) = (s1, .ok v) → s1.collSeq = s.collSeq → s1.colls = s.colls →
          (s.collOf ch.group = none → (∀ j m, s.collSeq.find? (fun x => x.1 % 65536 == ch.group) = some (j, m) → 0 < (ch.seq - m).toNat ∧ (ch.seq - m).toNat < 2 ^ 31) →
            exec i s = .next { s1 with collHeld := s1.collHeld ++ [{ pkg := pkg, seq := n, token := tk, ch := ch, acked := false }] }) ∧
          (∀ j m, s.collOf ch.group = none → s.collSeq.find? (fun x => x.1 % 65536 == ch.group) = some (j, m) → (ch.seq - m).toNat = 0 ∨ 2 ^ 31 ≤ (ch.seq - m).toNat →
            exec i s = .next { s1 with strags := s1.strags.ins j (min (((s1.strags.find j).getD 0) + 1) (2 ^ 32 - 1)), performed := s1.performed.ins key .ack, outbox := s1.outbox ++ [.response pkg n .ack] }) ∧
          (∀ c, s.collOf ch.group = some c → ch.seq = c.seq → ch.crc ≠ c.crc → s.colls.find c.id = some c → ∃ t, exec i s = .next t ∧ CollNow s t c.id { c with causes := c.causes ||| 2, ended := true } ∧
            t.outbox = s1.outbox ++ [.response pkg n .ack] ++ (c.members.filter (fun m => m != s1.pkgId)).map (fun m => .mismatch m c.q.group)) ∧
          (∀ c j ps s2, s.collOf ch.group = some c → s.colls.find c.id = some c → ch.seq = c.seq → ch.crc = c.crc → c.ended = false → c.split.isSome = true → s1.collHeld = [] →
            let k := 2 * ch.idx + ch.phase
            let x := c.step k
            let y := c.q.pos ch.plane ch.src
            x.done = false → x.flushed = false → c.isStep k = true → (c.inputs k).2.contains y = true → x.ins_.has y = false → ch.plane = c.plane ch.idx → ch.bytes.length = c.q.len ch.idx → c.reduces k = true →
            j < 4 → ¬j ∈ c.slotsUsed ch.plane → (∀ m, m < j → m ∈ c.slotsUsed ch.plane) →
            (let s0 := { s1 with performed := s1.performed.ins key .ack, outbox := s1.outbox ++ [.response pkg n .ack] }
             collPlaces s0 c (c.q.stage + 65536 * (4 * ch.plane + j)) ch.bytes.length true = (s2, .ok ps)) → ps.length = ch.bytes.length → s2.prov = [] → (∀ pl ∈ ps, placeSound s2 pl = true) → s2.colls = s.colls → s2.outbox = s1.outbox ++ [.response pkg n .ack] → s2.collHeld = [] →
            ∃ t, exec i s = .next t ∧ Stored s2 t (ps.zipIdx.map (fun z => (z.1, ch.bytes.getD z.2 0, ch.psn))) ∧ .response pkg n .ack ∈ t.outbox ∧
              CollNow s t c.id (c.setStep k { x with need := x.need - 1, ins_ := x.ins_.ins y j, missing := (x.missing ++ ch.missing).dedup }))))) ∧
    (∀ id c p, s.colls.find id = some c → c.id = id →
      (c.ended = false → c.split = none ∨ s.collPaused id = true ∨ (∃ x ∈ s.remotes, x.2.who = .coll id) ∨ (∃ k ∈ c.keys, (c.step k).done = false) → exec (.collEnd id) s = .next s) ∧
      (c.ended = true → c.bar = none → s.pack? c.core c.slot = some p → p.wg = c.wg → p.waitev = [] → c.causes % 2 = 0 → c.causes < 128 → statusOf c.causes ≠ 6 → c.map.length < 4096 → c.index < 2 ^ 16 →
        let st := statusOf c.causes
        ∃ t q, exec (.collEnd id) s = .next t ∧ t.colls = s.colls.del id ∧ t.pack? c.core c.slot = some q ∧ (∀ k, k ≠ packKey c.core c.slot → t.packs.find k = s.packs.find k) ∧
          q = { p with evpend := p.evpend ||| 16, pending := q.pending, collStatus := BitVec.ofNat 64 (st + c.index * 2 ^ 4 + c.map.length * 2 ^ 20 + c.seq.toNat * 2 ^ 32) } ∧
          (st = 0 ∨ c.q.trap = false → q.pending = p.pending) ∧
          (st ≠ 0 → c.q.trap = true → ∃ y, q.pending = queueTrap y p.pending ∧ y.code = tCOLL ∧ y.detail = 4 + c.index * 2 ^ 8 ∧ y.lanes = c.lanes ∧ y.replay = c.replay ∧ y.ownOrd = c.ownAt)))

/-- R163, R324, R333, R335 to R343: collectives from acceptance to their end. -/
def Obligations.CollectivesAreAcceptedAndRun : Prop := Claims.CollectivesAreAccepted ∧ Claims.CollectiveEventsMoveChunks

namespace Sys2Proof.Claims

/-- The entry of a ring has been read: QHEAD is one further (R363). -/
abbrev HeadMoved (s t : State) (q : Nat) : Prop := t.reg (0x500000 + 0x40 * q + 0x18) = (s.reg (0x500000 + 0x40 * q + 0x18) % 512 + 1) % 512

/-- A ring entry is rejected with a status; a grid launch takes its sequence number and its place in the queue's order all the same (R363, R366). -/
abbrev RingRejects (s t : State) (q va : Nat) (grid : Bool) (status : Nat) : Prop :=
  HeadMoved s t q ∧ ∃ l : Launch, t.launches = s.launches.ins s.nextId l ∧ l.uid = s.nextId ∧ l.ctx = s.qCtx q ∧ l.queue = q ∧ l.status = status ∧ l.ended = true ∧ l.recVA = BitVec.ofNat 64 va ∧
    l.seq = (if grid then some (s.reg (0x500000 + 0x40 * q + 0x20) % 2 ^ 32) else none) ∧ t.order = (if grid then s.order.ins q (s.qOrder q ++ [s.nextId]) else s.order) ∧
    (grid = true → t.reg (0x500000 + 0x40 * q + 0x20) = (s.reg (0x500000 + 0x40 * q + 0x20) % 2 ^ 32 + 1) % 2 ^ 32) ∧
    t = { s with launches := t.launches, order := t.order, regs := t.regs, qFail := s.qFail.del q, ringArmed := s.ringArmed.del q, nextId := s.nextId + 1 }

/-- A launch joins the order of queue n with its next sequence number (R363, R364). -/
abbrev Joins (s t : State) (ctx va n : Nat) (y : LRead) (dev : Bool) : Prop :=
  ∃ l : Launch, t.launches = s.launches.ins s.nextId l ∧ l.uid = s.nextId ∧ l.ctx = ctx ∧ l.queue = n ∧ l.seq = some (s.reg (0x500000 + 0x40 * n + 0x20) % 2 ^ 32) ∧ l.recVA = BitVec.ofNat 64 va ∧
    l.r = y.r ∧ l.tiles = y.tiles ∧ l.succs = y.succs ∧ l.by_ = none ∧ l.devSlot = dev ∧ l.next = 0 ∧ l.ended = false ∧ l.status = 0 ∧ t.order = s.order.ins n (s.qOrder n ++ [s.nextId])

/-- The lane a workgroup i of a record starts in (R215, R375). -/
abbrev StartsAs (r : LRec) (i pkid l : Nat) (x : Lane) : Prop :=
  let wl := r.lx * r.ly * r.lz
  let lpp := if r.paired then 16 else 32
  let g := i * wl + pkid * lpp + l % lpp
  x = { pc := r.entry, st := if lpp ≤ l then .exited else if g < r.nlanes then .active else if g < (r.nlanes + 3) / 4 * 4 then .helper else .exited }

end Sys2Proof.Claims

/-- R362, R363, R366, R369, R370: the registers of the launch queues, the reading of ring entries (grid launches with their status, nodes with their DEPS), and the release of a completed node's successors.
(Records and lists readable without a page walk; a CTXCFG.EN of 0 is RECORD: log 34.) -/
def Obligations.LaunchQueuesAreRead : Prop :=
  ∀ (s : State) (q : Nat), s.legal = true → q < 64 →
    let b := 0x500000 + 0x40 * q
    let head := s.reg (b + 0x18) % 512
    (∀ v : DWord, ((v.toNat % 512 + 512 - head) % 512 ≤ 256 → ∃ t, exec (.launchQtailWrite q v) s = .next t ∧ t = { s with regs := t.regs } ∧ t.reg (b + 0x10) = v.toNat % 512 ∧ ∀ o, o ≠ b + 0x10 → t.reg o = s.reg o) ∧
      (256 < (v.toNat % 512 + 512 - head) % 512 → exec (.launchQtailWrite q v) s = .next s) ∧
      (∃ t, exec (.qbaseWrite q v) s = .next t ∧ t = { s with regs := t.regs } ∧ t.reg b = v.toNat % 2 + v.toNat / 2 ^ 12 % 2 ^ 40 * 2 ^ 12 ∧ ∀ o, o ≠ b → t.reg o = s.reg o)) ∧
    (s.reg b % 2 = 0 ∨ s.reg (b + 0x10) % 512 = head ∨ s.readerWaits q = true → exec (.launchEntryRead q) s = .next s) ∧
    (let pa := s.reg b / 2 ^ 12 % 2 ^ 40 * 4096 + 16 * (head % 256)
     let e := rdNat s {} pa 16
     let va := e % 2 ^ 64
     let kind := e / 2 ^ 64 % 4
     let resv := e / 2 ^ 66 ≠ 0
     let ctx := s.qCtx q
     let i := Instr.launchEntryRead q
     s.reg b % 2 = 1 → s.reg (b + 0x10) % 512 ≠ head → s.readerWaits q = false → s.touch {} pa 16 = s →
       (2 ≤ kind → ∃ t, exec i s = .next t ∧ RingRejects s t q va false 4) ∧
       (kind = 0 → s.ctxReg ctx 0 % 2 = 0 → ∃ t, exec i s = .next t ∧ RingRejects s t q va true 4) ∧
       (kind = 0 → s.ctxReg ctx 0 % 2 = 1 → s.qFail.has q = true ∨ s.qFail.has q = false ∧ readRec s ctx va = (s, .bad) → ∃ t, exec i s = .next t ∧ RingRejects s t q va true 5) ∧
       (∀ x y, kind = 0 → s.ctxReg ctx 0 % 2 = 1 → s.qFail.has q = false → readRec s ctx va = (s, .ok x) → readLists s ctx x false = (s, .ok y) →
         let status := if resv then 4 else launchStatus s ctx va (.ring q) false y
         (status ≠ 0 → ∃ t, exec i s = .next t ∧ RingRejects s t q va true status) ∧
         (status = 0 → ∃ t, exec i s = .next t ∧ HeadMoved s t q ∧ Joins s t ctx va q y false)) ∧
       (∀ img, kind = 0 → s.ctxReg ctx 0 % 2 = 1 → s.qFail.has q = false → readRec s ctx va = (s, .fault img) → s.prqEnabled (s.funcOf ctx) = false →
         exec i s = .next { s with qFail := s.qFail.ins q () }) ∧
       (kind = 1 → resv ∨ s.ctxReg ctx 0 % 2 = 0 → ∃ t, exec i s = .next t ∧ RingRejects s t q va false 4) ∧
       (∀ x ps, kind = 1 → ¬resv → s.ctxReg ctx 0 % 2 = 1 → s.qFail.has q = false → readRec s ctx va = (s, .ok x) → va % 128 = 0 → depsPlaces s ctx va = (s, .ok ps) → ps.length = 4 →
         (∀ z ∈ ps, placeSound s z = true) → s.prov = [] → s.isReplayable 0 = false →
         let waits := s.ringArmed.has q
         (waits = false → x.r.deps = 0 → ∃ t, exec i s = .next t ∧ HeadMoved s t q ∧ t = { s with regs := t.regs, qFail := s.qFail.del q, ringArmed := s.ringArmed.del q }) ∧
         (waits = false → 1 < x.r.deps → ∃ t, exec i s = .next t ∧ HeadMoved s t q ∧ t.launches = s.launches ∧ t.order = s.order ∧
           Stored s t (ps.zipIdx.map (fun z => (z.1, BitVec.ofNat 8 ((x.r.deps - 1) / 256 ^ z.2), false)))) ∧
         (∀ y, waits = true ∨ x.r.deps = 1 → readLists s ctx x true = (s, .ok y) → y.r.queue < 64 → launchStatus s ctx va (.ring q) true y = 0 →
           ∃ t, exec i s = .next t ∧ (waits = false → Stored s t (ps.map (fun z => (z, 0, false)))) ∧ (waits = true → SameBytes s t) ∧
             (s.devSlots y.r.queue < 64 → HeadMoved s t q ∧ Joins s t ctx va y.r.queue y true) ∧
             (64 ≤ s.devSlots y.r.queue → t.ringArmed.has q = true ∧ t.reg (b + 0x18) = s.reg (b + 0x18) ∧ t.launches = s.launches ∧ t.order = s.order)))) ∧
    (∀ id, (s.releases.all (fun r => r.uid != id)) = true → exec (.nodeRelease id) s = .next s) ∧
    (∀ id r, s.releases.find? (fun r => r.uid == id) = some r →
      let k := 64 + id
      let drop := fun (y : Release) => if y.uid = id then { y with vas := r.vas.tail, armed := false } else y
      (r.vas = [] → exec (.nodeRelease id) s = .next { s with releases := s.releases.filter (fun x => x.uid != id) }) ∧
      (s.readerWaits k = true → r.vas ≠ [] → exec (.nodeRelease id) s = .next s) ∧
      (∀ va rest, r.vas = va :: rest → s.readerWaits k = false → s.ctxReg r.ctx 0 % 2 = 0 → ∃ t l, exec (.nodeRelease id) s = .next t ∧ t.releases = s.releases.map drop ∧
        t.launches = s.launches.ins s.nextId l ∧ l.uid = s.nextId ∧ l.ctx = r.ctx ∧ l.queue = 64 ∧ l.status = 4 ∧ l.ended = true ∧ l.seq = none) ∧
      (∀ va rest x ps, r.vas = va :: rest → s.readerWaits k = false → s.ctxReg r.ctx 0 % 2 = 1 → s.qFail.has k = false → readRec s r.ctx va = (s, .ok x) → va % 128 = 0 → depsPlaces s r.ctx va = (s, .ok ps) → ps.length = 4 →
        (∀ z ∈ ps, placeSound s z = true) → s.prov = [] → s.isReplayable 0 = false →
        (r.armed = false → x.r.deps = 0 → exec (.nodeRelease id) s = .next { s with releases := s.releases.map drop, qFail := s.qFail.del k }) ∧
        (r.armed = false → 1 < x.r.deps → ∃ t, exec (.nodeRelease id) s = .next t ∧ t.releases = s.releases.map drop ∧ t.launches = s.launches ∧
          Stored s t (ps.zipIdx.map (fun z => (z.1, BitVec.ofNat 8 ((x.r.deps - 1) / 256 ^ z.2), false)))) ∧
        (∀ y, r.armed = true ∨ x.r.deps = 1 → readLists s r.ctx x true = (s, .ok y) → launchStatus s r.ctx va .release true y = 0 → y.r.queue < 64 →
          (s.devSlots y.r.queue < 64 → ∃ t, exec (.nodeRelease id) s = .next t ∧ Joins s t r.ctx va y.r.queue y true ∧ t.releases = s.releases.map drop) ∧
          (64 ≤ s.devSlots y.r.queue → ∃ t, exec (.nodeRelease id) s = .next t ∧ (r.armed = false → Stored s t (ps.map (fun z => (z, 0, false)))) ∧ t.launches = s.launches ∧ t.releases = s.releases.map (fun y => if y.uid = id then { y with armed := true } else y)))))

/-- R129, R133, R134, R166, R187, R215, R266, R371 to R377, R395, R421 to R423: a workgroup is placed with zeroed scratchpad, its tiles and its packs at ENTRY, or starves its turn; it finishes when all it has begun is done and is
reported in order; a launch completes with its word, QDONE, QERR, successors and event; a discarded node starts over or, after three, kills its context. (The choice of core, slots and
runs is R372's; lowest free ones, log 35. Words stored without a page walk.) -/
def Obligations.WorkgroupsAndLaunchesRunToTheirEnd : Prop :=
  ∀ (s : State), s.legal = true → FMap.sorted s.launches = true → FMap.sorted s.wgs = true → FMap.sorted s.packs = true →
    (s.nextPlace = none → exec .workgroupPlace s = .next s) ∧
    (∀ l c f, s.nextPlace = some (l, c, f) → s.launches.find l.uid = some l → l.tiles.length = l.r.ntiles → l.r.lx * l.r.ly * l.r.lz % (if l.r.paired then 16 else 32) = 0 → f.slots.Nodup → (∀ x ∈ f.slots, x < 48 ∧ s.pack? c x = none) → c < 160 →
      ∃ t, exec .workgroupPlace s = .next t ∧ t.wgs.find s.nextId = some { uid := l.uid, idx := l.next, ctx := l.ctx, core := c, slots := f.slots, way := f.way, ways := (l.r.spad + 15) / 16, tile0 := f.tile0, arg0 := f.arg0, order := s.nextId, mx := l.r.mx } ∧
        (∀ k, k ≠ s.nextId → t.wgs.find k = s.wgs.find k) ∧ t.launches.find l.uid = some (l.placed c s.cycle) ∧ (l.placed c s.cycle).next = l.next + 1 ∧ t.lastQueue = l.queue ∧ t.lastCore = c ∧ (t.core c).split = f.split ∧
        (∀ o, f.way * 16384 ≤ o → o < (f.way + (l.r.spad + 15) / 16) * 16384 → t.spadByte c o = 0 ∧ (t.core c).spadPsn.has (o / 64) = false) ∧
        (∀ o, o < f.way * 16384 ∨ (f.way + (l.r.spad + 15) / 16) * 16384 ≤ o → o < (s.core c).split * 16384 → o < f.split * 16384 → t.spadByte c o = s.spadByte c o) ∧
        (∀ j, j < l.r.ntiles → (t.core c).tiles.find (f.tile0 + j) = some { size := (l.tiles.getD j (0, 0)).2 / 256, off := (l.tiles.getD j (0, 0)).1 / 256 }) ∧
        (l.r.mx = true → (t.core c).mxOwner = some s.nextId ∧ (t.core c).acc = [] ∧ (t.core c).mmaQ = [] ∧ (t.core c).strA.q = [] ∧ (t.core c).strB.q = []) ∧
        (∀ k, (∀ x ∈ f.slots, k ≠ packKey c x) → k / 48 ≠ c → t.packs.find k = s.packs.find k) ∧
        ∀ j x, f.slots[j]? = some x → (∃ l', l' < 32 ∧ ∃ y, StartsAs l.r l.next j l' y ∧ y.st = .active) → ∃ q g, t.pack? c x = some q ∧ q.wg = s.nextId ∧ q.pkid = j ∧ q.ctx = l.ctx ∧ q.frames = [g] ∧ g.size = l.r.frame ∧ g.st = .resident ∧
          (∀ n ln, ln < 32 → n < 8 * l.r.frame → g.cell n ln = { val := if l.r.sninit then BitVec.ofNat 32 (0x7FA00000 + n) else 0, tag := l.r.sninit }) ∧
          (∀ ln, ln < 32 → StartsAs l.r l.next j ln (q.lane ln)) ∧ q.fpc = (if l.r.sninit then 0x10000 else 0) ∧ (∀ n, q.sreg n = 0) ∧ q.pending = [] ∧ q.toks = []) ∧
    (∀ uid, (s.starves uid = true → exec (.priorityStarvation uid) s = .next { s with starving := some uid }) ∧ (s.starves uid = false → exec (.priorityStarvation uid) s = .next s)) ∧
    (∀ uid idx, s.wgs.find? (fun w => w.2.uid == uid && w.2.idx == idx && !w.2.done) = none → exec (.workgroupFinish uid idx) s = .next s) ∧
    (∀ uid idx id w l, s.wgs.find? (fun w => w.2.uid == uid && w.2.idx == idx && !w.2.done) = some (id, w) → s.launches.find uid = some l →
      let mine := fun (p : Pack) => p.wg = id
      let open_ := ∃ k p, s.packs.find k = some p ∧ mine p ∧ ((∃ x ∈ p.lanes, x.st ≠ .exited) ∨ p.toks ≠ [] ∨ p.tcq ≠ [] ∨ p.collq ≠ [] ∨ p.pending ≠ [] ∨ p.svc.isSome = true)
      (open_ ∨ (∃ n, n < l.r.ntiles ∧ ¬((s.tile w n).st = .empty ∨ (s.tile w n).st = .ready ∧ (s.tile w n).readers = 0)) ∨ (∃ c ∈ s.copies, c.2.wg = id) ∨ (∃ c ∈ s.colls, c.2.wg = id) →
        exec (.workgroupFinish uid idx) s = .next s) ∧
      (s.wgFinished id = true → l.r.clm1 = 0 → l.r.progva = 0 → l.ended = false → s.qOrder l.queue = [uid] → l.uid = uid → (∀ k p, s.packs.find k = some p → p.bars = []) → ∃ t n, exec (.workgroupFinish uid idx) s = .next t ∧
        (∀ k p, t.packs.find k = some p ↔ s.packs.find k = some p ∧ p.wg ≠ id) ∧ t.wgs.find id = none ∧ (∀ k y, k ≠ id → s.wgs.find k = some y → y.uid ≠ uid → t.wgs.find k = some y) ∧
        t.launches.find uid = some { l with finished := l.finished ++ [idx], reported := n } ∧ l.reported ≤ n ∧ (∀ j, l.reported ≤ j → j < n → j ∈ l.finished ++ [idx]) ∧ (l.r.wgs ≤ n ∨ ¬n ∈ l.finished ++ [idx]) ∧
        (∀ j, w.tile0 ≤ j → j < w.tile0 + l.r.ntiles → (t.core w.core).tiles.find j = none))) ∧
    (∀ uid, s.launches.find uid = none → exec (.launchComplete uid) s = .next s ∧ exec (.nodeDiscard uid) s = .next s) ∧
    (∀ uid l, s.launches.find uid = some l → l.uid = uid →
      let ran := l.reported = l.r.wgs ∧ ∀ x ∈ s.remotes, ∀ c sl w, x.2.who ≠ .red c sl w uid
      let a := 0x500000 + 0x40 * l.queue
      (l.ended = false → ¬ran → exec (.launchComplete uid) s = .next s) ∧
      (∀ n rest, (l.ended = true ∨ ran) → l.wrote = false → l.r.replay = false → l.seq = some n → n < 2 ^ 32 → s.qOrder l.queue = uid :: rest → l.queue < 64 → l.status < 256 → l.retries < 2 ^ 24 → ∀ s1, (if l.r.doneva = 0 then s1 = s else
          ctlWrite 10 l.ctx false false l.r.doneva.toNat (leBytes 8 (l.status + l.retries * 2 ^ 8 + n * 2 ^ 32)) (s.l1.foldl (fun s x => s.wbLine (x.1 / 2 ^ 46) (x.1 % 2 ^ 46)) s) = (s1, true)) → s1.launches = s.launches → s1.regs = s.regs → s1.order = s.order → s1.packs = s.packs → s1.releases = s.releases →
        ∃ t, exec (.launchComplete uid) s = .next t ∧ t.launches = s.launches.del uid ∧ t.mem = s1.mem ∧ t.reg (a + 0x28) = (s.reg (a + 0x28) + 1) % 2 ^ 32 ∧ t.qOrder l.queue = rest ∧
          t.reg (a + 0x30) = (if l.status = 0 ∨ l.status = 7 then s.reg (a + 0x30) else l.status + n * 2 ^ 8) ∧ t.lastDone.find l.ctx = some (l.retries, l.status) ∧
          (l.status = 0 → l.succs ≠ [] → ∃ r, t.releases = s.releases ++ [r] ∧ r.ctx = l.ctx ∧ r.vas = l.succs ∧ r.armed = false) ∧ (l.status ≠ 0 ∨ l.succs = [] → t.releases = s.releases) ∧
          (l.r.irq = true → .queueIrq l.queue ∈ t.outbox) ∧
          (∀ c sl p, l.by_ = some (c, sl) → s.pack? c sl = some p → p.ctx = l.ctx → p.waitev = [] → t.pack? c sl = some { p with evpend := p.evpend ||| 32 })) ∧
      (∀ x rest, (l.ended = true ∨ ran) → l.wrote = true → l.seq.isSome = true → s.qOrder l.queue = x :: rest → x ≠ uid → exec (.launchComplete uid) s = .next s) ∧
      (l.rstate ≠ 2 → exec (.nodeDiscard uid) s = .next s) ∧
      (l.rstate = 2 → 3 ≤ l.retries → l.ctx < 64 → ∃ t, exec (.nodeDiscard uid) s = .next t ∧ Dead t l.ctx) ∧
      (l.rstate = 2 → l.retries < 3 → ∃ t, exec (.nodeDiscard uid) s = .next t ∧
        t.launches.find uid = some { l with retries := l.retries + 1, rstate := 0, next := 0, finished := [], reported := 0, cluster := none, clCores := [], since := s.cycle } ∧
        (∀ k p, t.packs.find k = some p ↔ s.packs.find k = some p ∧ ∀ w ∈ s.wgs, w.2.uid = uid → p.wg ≠ w.1) ∧
        (∀ w ∈ s.wgs, w.2.uid = uid → t.wgs.find w.1 = none) ∧ t.reg 0x706000 % 2 ^ 32 = min (s.reg 0x706000 % 2 ^ 32 + 1) (2 ^ 32 - 1)))

namespace Sys2Proof.Claims

/-- Only registers of class 0xC have changed, and of them only those listed. -/
abbrev RegsNow (s t : State) (xs : List (Nat × Nat)) : Prop :=
  t = { s with regs := t.regs } ∧ (∀ x ∈ xs, t.reg x.1 = x.2) ∧ ∀ o, o ∉ xs.map Prod.fst → t.reg o = s.reg o

/-- The key register of a slot, as loading and zeroing leave it (R430). -/
def keyWord (s : State) (k : Nat) (valid : Bool) : Nat :=
  let g := s.reg (0x710000 + 8 * k) / 2 ^ 32 % 2 ^ 32
  if valid then 1 + (g + 1) % 2 ^ 32 * 2 ^ 32 else g * 2 ^ 32

/-- A core with no pack, its supervisor core in WFI with nothing to serve, and no copy, for 256 clocks (R432). -/
abbrev Rested (s : State) (c : Nat) : Prop :=
  (let h := (s.harts.find c).getD {}; h.on = true → h.wfi = true) ∧ s.slotsOf c = [] ∧ (s.core c).trq = [] ∧ (s.core c).mbxRing = 0 ∧ (s.core c).mbxStep = none ∧ (∀ x ∈ s.copies, x.2.core ≠ c) ∧ (s.core c).idleSince + 256 ≤ s.cycle

/-- The deepest power state that a tolerance in ns allows (R433). -/
def deepest (ns : Nat) : Nat := if ns < 50 then 0 else if ns < 8000 then 1 else if ns < 200000 then 2 else 3

def tolerance (s : State) : Nat := if s.boot.stage < 6 then 0 else s.reg 0x800000 % 2 ^ 32

end Sys2Proof.Claims

/-- R180, R205, R281, R407 to R411: CTXCFG changes only as a context's state allows; KILL makes it DEAD; PREEMPT parks its packs, pauses its copies and, once nothing is in flight, saves its workgroups;
RESTORE brings them back. (What the core keeps beside the save area, and a save area out of reach, are log 31.) -/
def Obligations.ContextsAreConfiguredSavedAndRestored : Prop :=
  ∀ (s : State) (x : Nat), s.legal = true → x < 64 →
    let a := 0x600000 + 0x80 * x
    let st := s.reg (a + 0x70) % 8
    let cmd := s.reg (a + 0x68)
    (∀ v : DWord, let fn := v.toNat / 2 % 64
      let y := v.toNat % 2 + 2 * (if fn ≤ 32 then fn else s.reg a / 2 % 64)
      (y % 2 = 1 ∨ st = 0 ∨ st = 3 → ∃ t, exec (.ctxcfgWrite x v) s = .next t ∧ RegsNow s t [(a, y)]) ∧
      (y % 2 = 0 → st = 5 → ∃ t, exec (.ctxcfgWrite x v) s = .next t ∧ RegsNow s t [(a, y), (a + 0x70, 0)]) ∧
      (y % 2 = 0 → st ≠ 0 → st ≠ 3 → st ≠ 5 → exec (.ctxcfgWrite x v) s = .next s)) ∧
    (2 ^ 63 ≤ cmd → exec (.ctxKill x) s = .next s) ∧
    (cmd < 2 ^ 63 → ∃ t, exec (.ctxKill x) s = .next t ∧ Dead t x ∧ t.reg (a + 0x68) = 3 ∧ (∀ k ∈ t.copies, k.2.ctx ≠ x) ∧ (∀ k ∈ t.colls, k.2.ctx ≠ x) ∧ (∀ l ∈ t.launches, l.2.ctx = x → l.2.ended = true) ∧
      (∀ q ∈ t.prq ++ t.prqHeld, q.img.ctx ≠ x) ∧ (∀ j r, s.packs.find j = some r → r.ctx ≠ x → (∀ w ∈ s.wgs, w.2.ctx = x → w.1 ≠ r.wg) → t.packs.find j = some r)) ∧
    (cmd < 2 ^ 63 → st = 1 → ∃ t, exec (.ctxPreempt x) s = .next t ∧ t.reg (a + 0x68) = 2 ^ 63 + 1 ∧ t.reg (a + 0x70) = 2 ∧
      (∀ k p, s.packs.find k = some p → p.tcq = [] → t.packs.find k = some (if p.ctx = x then { p with ownPark := p.park, park := true } else p)) ∧
      (∀ k c, s.copies.find k = some c → t.copies.find k = some (if c.ctx = x ∧ c.status ≤ 2 then { c with status := 2, cause := 2 } else c)) ∧ SameBytes s t) ∧
    (2 ^ 63 ≤ cmd → cmd % 4 ≠ 1 ∨ st ≠ 2 ∨ (∃ p ∈ s.packs, p.2.ctx = x ∧ ((∃ k ∈ p.2.toks, k.pend = none) ∨ p.2.collq ≠ [])) ∨ (∃ c ∈ s.copies, c.2.ctx = x ∧ (c.2.cause ≠ 2 ∨ c.2.status ≠ 2 ∨ c.2.waits ≠ 0)) ∨ (∃ c ∈ s.colls, c.2.ctx = x) ∨
      (∃ k ∈ s.cores, ∃ e ∈ k.2.mmaQ, (s.wg e.wg).ctx = x) → exec (.ctxPreempt x) s = .next s) ∧
    (cmd < 2 ^ 63 → st ≠ 1 → exec (.ctxPreempt x) s = .next s) ∧
    (∀ s1, 2 ^ 63 ≤ cmd → cmd % 4 = 1 → st = 2 → (∀ p ∈ s.packs, p.2.ctx = x → (∀ k ∈ p.2.toks, k.pend.isSome = true) ∧ p.2.collq = []) → (∀ c ∈ s.copies, c.2.ctx = x → c.2.cause = 2 ∧ c.2.status = 2 ∧ c.2.waits = 0) → (∀ c ∈ s.colls, c.2.ctx ≠ x) →
      (∀ k ∈ s.cores, ∀ e ∈ k.2.mmaQ, (s.wg e.wg).ctx ≠ x) →
      let s0 := s.preemptTraps x
      let ids := (s0.wgs.filter (fun w => w.2.ctx == x)).map Prod.fst
      spillPacks (ids.flatMap (fun j => (s0.wg j).slots.map (fun sl => ((s0.wg j).core, sl)))) s0 = (s1, true) →
      ∃ t, exec (.ctxPreempt x) s = .next t ∧ ((saveAll ids s1).2 = false → t = s) ∧
        ((saveAll ids s1).2 = true → t.reg (a + 0x68) = 1 ∧ t.reg (a + 0x70) = 3 ∧ (∀ j ∈ ids, t.saved.has j = true ∧ t.wgs.find j = none) ∧ (∀ k p, t.packs.find k = some p → ∀ j ∈ ids, p.wg ≠ j))) ∧
    (cmd < 2 ^ 63 → st ≠ 3 → exec (.ctxRestore x) s = .next s) ∧
    (2 ^ 63 ≤ cmd → cmd % 4 ≠ 2 → exec (.ctxRestore x) s = .next s) ∧
    (cmd < 2 ^ 63 → st = 3 → (∀ v ∈ s.saved, v.2.wg.ctx ≠ x) → (∀ w ∈ s.wgs, w.2.ctx ≠ x) → ∃ t, exec (.ctxRestore x) s = .next t ∧ RegsNow s t [(a + 0x68, 2), (a + 0x70,
      if (∀ l ∈ s.launches, l.2.ctx ≠ x) ∧ (∀ c ∈ s.copies, c.2.ctx ≠ x) ∧ (∀ c ∈ s.colls, c.2.ctx ≠ x) then 0 else 1)]) ∧
    (∀ id v s1, 2 ^ 63 ≤ cmd → cmd % 4 = 2 → s.saved.find? (fun v => v.2.wg.ctx == x && s.canRestore v.2) = some (id, v) → s.restoreWg id v = (s1, true) → ∃ t, exec (.ctxRestore x) s = .next t ∧
      t.wgs.find id = s1.wgs.find id ∧ t.packs = s1.packs ∧ t.mem = s1.mem ∧
      (∀ k c, s1.copies.find k = some c → t.copies.find k = some (if c.wg = id ∧ c.status = 2 ∧ c.cause = 2 then { c with status := 0 } else c)) ∧
      ((∃ y ∈ s1.saved, y.2.wg.ctx = x) → t.regs = s1.regs))

/-- R427 to R430, R432 to R434, R446, R448: key slots are loaded and zeroed, EXREQ fills its page, LATTOL bounds the power states, cores and dies enter them when they have rested and wake, and package
reset and the stages of bring-up leave what R448 says. (Digests, keys and the record's layout are opaque: log 10; power and stages in log 30 and 36.) -/
def Obligations.KeysPowerAndBringUp : Prop :=
  ∀ (s : State), s.legal = true →
    (∀ v : DWord,
      let x := v.toNat
      let pa := x / 2 ^ 7 % 2 ^ 45 * 2 ^ 7
      let k := x % 32
      let bs := (List.range 128).map (fun j => s.placeByte (.mem {} (pa + j)))
      let ok := k ≠ 0 ∧ paOk pa = true ∧ paClass pa = 8 ∧ s.homeLost pa = false
      (x < 2 ^ 63 → ∃ t, exec (.kload v) s = .next t ∧ RegsNow s t [(0x710100, pa + k + s.reg 0x710100 / 2 ^ 62 % 2 * 2 ^ 62)]) ∧
      (2 ^ 63 ≤ x → ¬ok → ∃ t, exec (.kload v) s = .next t ∧ RegsNow s t [(0x710100, pa + k + 2 ^ 62)]) ∧
      (2 ^ 63 ≤ x → ok → SoundRun s {} pa 128 → s.l1 = [] → ∃ t, exec (.kload v) s = .next t ∧
        RegsNow (l1Moved s t) t (if Config.unwraps bs then [(0x710100, pa + k), (0x710000 + 8 * k, keyWord s k true)] else [(0x710100, pa + k + 2 ^ 62)]) ∧ t.l1 = [])) ∧
    (∀ k, (k = 0 ∨ 32 ≤ k → exec (.kslotZero k) s = .next s) ∧
      (k ≠ 0 → k < 32 → ∃ t, exec (.kslotZero k) s = .next t ∧ t = { s with regs := t.regs, tlb := t.tlb } ∧ t.reg (0x710000 + 8 * k) = keyWord s k false ∧ (∀ o, o ≠ 0x710000 + 8 * k → t.reg o = s.reg o) ∧
        ∀ e, e ∈ t.tlb ↔ e ∈ s.tlb ∧ ¬(e.root = 1 ∧ e.key = k))) ∧
    (∀ v : DWord,
      let x := v.toNat
      let pa := x / 2 ^ 12 % 2 ^ 40 * 4096
      let ok := 2 ^ 63 ≤ x ∧ paOk pa = true ∧ paClass pa = 8 ∧ s.homeLost pa = false
      (¬ok → ∃ t, exec (.exreq v) s = .next t ∧ RegsNow s t [(0x720000, pa + x % 64)]) ∧
      (ok → SoundRun s {} pa 4096 → ∃ t f, exec (.exreq v) s = .next t ∧ t.reg 0x720000 = pa + x % 64 ∧ Stored s t (bytesAt {} pa ((List.range 4096).map (Config.recordByte f)) false) ∧
        f.take 4 = leBytes 2 s.pkgId ++ leBytes 1 (x % 64) ++ leBytes 1 (s.funcOf (x % 64)))) ∧
    (∀ v : DWord,
      let ns := if s.boot.stage < 6 then 0 else v.toNat % 2 ^ 32
      ∃ t, exec (.lattolWrite v) s = .next t ∧ t = { s with regs := t.regs, cores := t.cores, diePower := t.diePower } ∧ t.reg 0x800000 = v.toNat % 2 ^ 32 ∧ (∀ o, o ≠ 0x800000 → t.reg o = s.reg o) ∧
        (∀ c k, s.cores.find c = some k → t.cores.find c = some { k with power := if deepest ns < k.power then 0 else k.power }) ∧ t.diePower = s.diePower.map (fun p => if deepest ns < p then 0 else p)) ∧
    (∀ c, c < 160 →
      let k := s.core c
      let d := deepest (tolerance s)
      (k.power = 0 → d = 1 → Rested s c → ∃ t, exec (.c1Entry c) s = .next t ∧ t = { s with cores := t.cores } ∧ CoreNow s t c { k with power := 1 }) ∧
      (k.power ≠ 0 ∨ d ≠ 1 ∨ ¬Rested s c → exec (.c1Entry c) s = .next s) ∧
      (k.power ≤ 1 → 2 ≤ d → Rested s c → ∃ t, exec (.c2Entry c) s = .next t ∧ t = { l1Moved s t with cores := t.cores, outbox := t.outbox } ∧ Sends s t [] ∧
        (∀ j x, s.l1.find j = some x → x.way < 20 → t.l1.find j = if j / 2 ^ 46 = c then none else some x) ∧
        CoreNow s t c { k with power := 2, spad := [], spadPsn := [], barHeld := [], tiles := [], acc := [], strA := {}, strB := {} }) ∧
      (1 < k.power ∨ d < 2 ∨ ¬Rested s c → exec (.c2Entry c) s = .next s) ∧
      (∃ t, exec (.wake (.core c)) s = .next t ∧ t = { s with cores := t.cores } ∧ CoreNow s t c { k with power := 0, idleSince := s.cycle })) ∧
    (∀ d, d < 2 →
      let due := s.diePower.getD d 0 = 0 ∧ deepest (tolerance s) = 3 ∧ (∀ j, j < 80 → (s.core (80 * d + j)).power = 2) ∧ s.dieIdle.getD d 0 + 2 ^ 20 ≤ s.cycle
      (due → exec (.c3Entry d) s = .next { s with diePower := s.diePower.set d 3 }) ∧ (¬due → exec (.c3Entry d) s = .next s) ∧
      exec (.wake (.die d)) s = .next { s with diePower := s.diePower.set d 0, dieIdle := s.dieIdle.set d s.cycle }) ∧
    (∀ p, exec (.wake (.port p)) s = .next s) ∧
    (∃ t, exec .packageReset s = .next t ∧ t.regs = [] ∧ t.packs = [] ∧ t.wgs = [] ∧ t.launches = [] ∧ t.copies = [] ∧ t.colls = [] ∧ t.tlb = [] ∧ t.prq = [] ∧ t.boot = {} ∧ t.cycle = 0 ∧ t.l1 = [] ∧ t.chip = [] ∧ t.harts = [] ∧
      t.mem = s.mem ∧ ∀ c, c < 160 → t.core c = { lanemap := (s.core c).lanemap }) ∧
    (∀ n pkg peers, (s.boot.failed = true ∨ n ≠ s.boot.stage + 1 ∨ 6 < n → exec (.bringupStage n pkg peers) s = .next s) ∧
      (s.boot.failed = false → n = s.boot.stage + 1 → n ≤ 6 → ∃ t, exec (.bringupStage n pkg peers) s = .next t ∧
        (n = 1 → Config.imageOk 0 = true → t = { s with boot := { s.boot with stage := 1 } }) ∧
        (n = 1 → Config.imageOk 0 = false → Config.imageOk 1 = true → t = { s with boot := { stage := 1, slot := true } }) ∧
        (n = 1 → Config.imageOk 0 = false → Config.imageOk 1 = false → t.boot.failed = true ∧ t.boot.stage = 0) ∧
        (n = 2 → t.mem = [] ∧ t.memPsn = [] ∧ t.lineKey = [] ∧ t.mirror = [] ∧ t.boot = { s.boot with stage := 2 }) ∧
        (n = 3 → t = { s with boot := { s.boot with stage := n } }) ∧
        (n = 4 → t = { s with pkgId := pkg % 2048, harts := t.harts, boot := { s.boot with stage := 4 } }) ∧
        (n = 6 → t = { s with harts := t.harts, boot := { s.boot with stage := 6 } }) ∧
        (n = 4 ∨ n = 6 → ∀ h, t.harts.find h = if n = 4 ∧ 160 ≤ h ∧ h < 176 ∨ n = 6 ∧ h < 160 then some { on := true, pc := Config.hartStart h &&& 0xFFFFFFFFFFFFFFFE } else s.harts.find h) ∧
        (n = 5 → t = { s with members := t.members, boot := { s.boot with stage := 5 } } ∧ ∀ p, t.members.has p = (s.members.has p || (peers.contains p && p != s.pkgId)))))

namespace Sys2Proof.Claims

/-- What an answer in the mailbox page writes (R443, R444): status and trap code, the pack's next pc and group with its masks, the value read, and last the SEQ answered. -/
def answerBytes (pa : Nat) (q : Option Pack) (status code seq : Nat) (rd : Option Nat) : List (Place × Byte × Bool) :=
  let mask := fun (t : LaneSt) => match q with | some p => (p.lanesWhere (fun x => x.st == t)).toNat | none => 0
  let g := q.bind Pack.group
  bytesAt {} (pa + 32) (leBytes 4 (status + code * 256)) false ++
  bytesAt {} (pa + 40) (leBytes 8 (match g with | some g => g.key.1 | none => 0) ++ leBytes 4 (match g with | some g => g.ig.toNat | none => 0) ++ leBytes 4 (mask .exited) ++ leBytes 4 (mask .parked) ++
    leBytes 4 (mask .waiting)) false ++
  (match rd with | some v => bytesAt {} (pa + 64) (leBytes 8 v) false | none => []) ++ bytesAt {} (pa + 36) (leBytes 4 seq) false

/-- A command is performed and answered: of packs and cores only what Q says has changed beside the mailbox. -/
abbrev Answered (i : Instr) (s : State) (c sl pa seq status : Nat) (rd : Option Nat) (Q : State → Prop) : Prop :=
  ∃ t, exec i s = .next t ∧ t = { linesWritten s t with packs := t.packs, cores := t.cores, outbox := t.outbox } ∧ SameHarts s t ∧ Sends s t [] ∧
    Stored s t (answerBytes pa (t.pack? c sl) status 0 seq rd) ∧ (∀ j, j ≠ c → t.core j = s.core j) ∧
    t.core c = { s.core c with csr := (t.core c).csr, rdata := (t.core c).rdata, pkWait := (t.core c).pkWait, mbxSeq := some (BitVec.ofNat 32 seq), power := 0 } ∧ Q t

/-- A pack that a debugger may reach (R400, R445). -/
abbrev Held (p : Pack) : Prop := p.park = true ∧ p.toks = [] ∨ p.svc.isSome = true

/-- Registers that take a plain write, with the bits that do. -/
def plainRegs : List (Nat × Nat) :=
  let page := 2 ^ 52 - 2 ^ 12
  [(0x401000, 2 ^ 32 - 1), (0x401020, 2 ^ 16 - 1), (0x402000, page), (0x402008, 2 ^ 17 - 1), (0x720008, 2 ^ 64 - 1)] ++
  (List.range 33).flatMap (fun f => [(0x200000 + 0x40 * f, page + 1), (0x620000 + 8 * f, page + 1)]) ++ (List.range 160).map (fun c => (0x830000 + 8 * c, page + 1)) ++
  (List.range 64).map (fun q => (0x500000 + 0x40 * q + 0x30, 255))

/-- Registers whose bits a 1 clears. -/
def clearRegs : List (Nat × Nat) :=
  [(0x401010, 2 ^ 32 - 1), (0x401018, 2 ^ 32 - 1), (0x706000, 2 ^ 64 - 1)] ++ (List.range 9).map (fun k => (0x700000 + 16 * k, 2 ^ 64 - 1)) ++
  (List.range 160).flatMap (fun c => (List.range 9).map (fun j => (0x701000 + 128 * c + 8 * j, 2 ^ 48 - 1)))

/-- Fields of a context descriptor that are written while the context is IDLE or SAVED (R407). -/
def descRegs : List (Nat × Nat) :=
  [(0x08, 2 ^ 52 - 2 ^ 12), (0x10, 2 ^ 52 - 2 ^ 12), (0x18, 2 ^ 52 - 2 ^ 12), (0x58, 2 ^ 32 - 1)] ++ [0x20, 0x28, 0x30, 0x38, 0x40, 0x48, 0x50, 0x60].map (fun o => (o, 2 ^ 64 - 1))

end Sys2Proof.Claims

/-- R400, R443 to R445: each mailbox command is performed on its slot and answered in the page: HALT, RESUME, STEP, READ, WRITE, SETBP and SETWP; a ring of the doorbell performs the page's command unless its SEQ
was answered before. (A page without provisional lines or latent errors; which SEQ an event of its own answers is log 37.) -/
def Obligations.MailboxCommandsAreAnswered : Prop :=
  ∀ (s : State) (c sl : Nat) (a v : DWord), s.legal = true → c < 160 → sl < 48 → FMap.sorted (s.core c).csr = true →
    let k := s.core c
    let en := s.reg (0x830000 + 8 * c) % 2 = 1
    let pa := s.reg (0x830000 + 8 * c) / 2 ^ 12 % 2 ^ 40 * 4096
    let seq := rdNat s {} (pa + 4) 4
    let cmds := [Instr.halt c sl, .resume c sl, .step c sl, .read c sl a, .write c sl a v]
    (¬en ∨ k.mbxStep.isSome = true → (∀ i ∈ cmds, exec i s = .next s) ∧ ∀ n, exec (.setbp c n v) s = .next s ∧ exec (.setwp c n v) s = .next s) ∧
    (¬en → exec (.dbgdbRing c) s = .next s) ∧
    (en → k.mbxStep.isSome = true → exec (.dbgdbRing c) s = .next (s.updCore c (fun k => { k with mbxRing := k.mbxRing + 1 }))) ∧
    (en → k.mbxStep = none → SoundRun s {} pa 128 → s.l1 = [] →
      (s.pack? c sl = none → ∀ i ∈ cmds, Answered i s c sl pa seq 1 none (fun t => t.packs = s.packs)) ∧
      (∀ n, n < 4 → Answered (.setbp c n v) s c 0 pa seq 0 none (fun t => t.packs = s.packs ∧ CsrNow k (t.core c) (0x7D8 + n) (v.toNat % 2 + v.toNat / 4 * 4)) ∧
        Answered (.setwp c n v) s c 0 pa seq 0 none (fun t => t.packs = s.packs ∧ CsrNow k (t.core c) (0x7DC + n) (v.toNat % 8 + v.toNat / 2 ^ 8 % 2 ^ 24 * 2 ^ 8))) ∧
      (∀ p, s.pack? c sl = some p →
        Answered (.halt c sl) s c sl pa seq 0 none (fun t => PackNow s t c sl { p with park := true } ∧ CsrNow k (t.core c) 0x7C3 0) ∧
        (p.svc = none → Answered (.resume c sl) s c sl pa seq 0 none (fun t => PackNow s t c sl { p with park := false } ∧ CsrNow k (t.core c) 0x7C3 0)) ∧
        (¬Held p → ∀ i, i = .step c sl ∨ i = .read c sl a ∨ i = .write c sl a v → Answered i s c sl pa seq 2 none (fun t => t.packs = s.packs)) ∧
        (Held p → p.canUnpark = false → p.svc.isSome = true ∨ p.group = none → Answered (.step c sl) s c sl pa seq 4 none (fun t => t.packs = s.packs)) ∧
        (∀ g, Held p → p.canUnpark = false → p.svc = none → p.group = some g → ∃ t, exec (.step c sl) s = .next t ∧ t = { s with packs := t.packs, cores := t.cores } ∧
          PackNow s t c sl { p with stepping := true, ownStall := none } ∧ CoreNow s t c { k with mbxSeq := some (BitVec.ofNat 32 seq), power := 0, mbxStep := some (sl + 64 * p.traps) }) ∧
        (∀ lane idx kind depth, Held p → p.handler = none → Sel a.toNat (a.toNat % 64) lane idx kind depth → a.toNat % 64 = sl →
          (∀ x, itemOf s p lane idx kind depth = some x → x < 2 ^ 64 → Answered (.read c sl a) s c sl pa seq 0 (some x) (fun t => t.packs = s.packs)) ∧
          (9 < kind → ∀ i, i = .read c sl a ∨ i = .write c sl a v → Answered i s c sl pa seq 5 none (fun t => t.packs = s.packs)) ∧
          (kind = 1 → idx < 32 → Answered (.write c sl a v) s c sl pa seq 0 none (fun t => PackNow s t c sl (p.setS idx v))))) ∧
      (let w := rdNat s {} pa 8
       k.mbxRing = 0 →
       (k.mbxSeq = some (BitVec.ofNat 32 seq) → ∃ t, exec (.dbgdbRing c) s = .next t ∧ t = { l1Moved s t with cores := t.cores } ∧ t.l1 = [] ∧ CoreNow s t c k) ∧
       (∀ p, k.mbxSeq ≠ some (BitVec.ofNat 32 seq) → w % 16 = 1 → w / 16 % 64 = sl → s.pack? c sl = some p → Answered (.dbgdbRing c) s c sl pa seq 0 none (fun t => PackNow s t c sl { p with park := true })) ∧
       (k.mbxSeq ≠ some (BitVec.ofNat 32 seq) → w % 16 = 0 ∨ 7 < w % 16 → w / 16 % 64 = sl → Answered (.dbgdbRing c) s c sl pa seq 5 none (fun t => t.packs = s.packs))))

/-- R6, R7, R114, R119, R127, R317, R320, R322, R344, R362, R363, R397, R399, R407, R413, R428, R430, R433, R439, R443: a write to a register of class 0xC or to a CSR does what its row of the opcode table says,
or sets or clears the bits that its map gives it; an address no map has stops (log 27). -/
def Obligations.RegisterWritesActAsTheirRows : Prop :=
  ∀ (s : State) (v : DWord),
    let x := v.toNat
    let W := fun (o : Nat) => exec (.registerWrite (.mmio o) v) s
    let C := fun (c n : Nat) => exec (.registerWrite (.csr c n) v) s
    (∀ y ∈ plainRegs, ∃ t, W y.1 = .next t ∧ RegsNow s t [(y.1, (s.reg y.1 &&& (2 ^ 64 - 1 - y.2)) ||| (x &&& y.2))]) ∧
    (∀ y ∈ clearRegs, ∃ t, W y.1 = .next t ∧ RegsNow s t [(y.1, s.reg y.1 &&& (2 ^ 64 - 1 - (x &&& y.2)))]) ∧
    (∀ ctx, ctx < 64 →
      let a := 0x600000 + 0x80 * ctx
      let st := s.reg (a + 0x70) % 8
      let cmd := s.reg (a + 0x68)
      (∀ y ∈ descRegs, (st = 0 ∨ st = 3 → ∃ t, W (a + y.1) = .next t ∧ RegsNow s t [(a + y.1, (s.reg (a + y.1) &&& (2 ^ 64 - 1 - y.2)) ||| (x &&& y.2))]) ∧ (st ≠ 0 → st ≠ 3 → W (a + y.1) = .next s)) ∧
      W a = exec (.ctxcfgWrite ctx v) s ∧ W (a + 0x70) = .next s ∧
      (2 ^ 63 ≤ cmd → W (a + 0x68) = .next s) ∧ (cmd < 2 ^ 63 → x < 2 ^ 63 → ∃ t, W (a + 0x68) = .next t ∧ RegsNow s t [(a + 0x68, x % 4)]) ∧
      (cmd < 2 ^ 63 → 2 ^ 63 ≤ x → (x % 4 = 0 → W (a + 0x68) = .next s) ∧ (x % 4 = 1 → W (a + 0x68) = exec (.ctxPreempt ctx) s) ∧ (x % 4 = 2 → W (a + 0x68) = exec (.ctxRestore ctx) s) ∧
        (x % 4 = 3 → W (a + 0x68) = exec (.ctxKill ctx) s)) ∧ W (0x310000 + 8 * ctx) = exec (.cspwinWrite ctx v) s) ∧
    (∀ q, q < 64 → let a := 0x500000 + 0x40 * q
      W a = exec (.qbaseWrite q v) s ∧ W (a + 0x10) = exec (.launchQtailWrite q v) s ∧ W (a + 0x18) = .next s ∧ W (a + 0x20) = .next s ∧ W (a + 0x28) = .next s ∧
      (s.reg a % 2 = 1 → W (a + 8) = .next s) ∧ (s.reg a % 2 = 0 → ∃ t, W (a + 8) = .next t ∧ RegsNow s t [(a + 8, s.reg (a + 8) / 2 ^ 18 * 2 ^ 18 + x % 2 ^ 18)])) ∧
    (∀ f, f ≤ 32 → let a := 0x200000 + 0x40 * f
      W (a + 8) = .next s ∧ W (a + 16) = exec (.prqHeadWrite f v) s ∧ (x / 2 ^ 16 % 4 = 0 → W (a + 24) = exec (.prqReplyRetry f (x % 2 ^ 16)) s) ∧ (x / 2 ^ 16 % 4 = 1 → W (a + 24) = exec (.prqReplyFail f (x % 2 ^ 16)) s) ∧
      (2 ≤ x / 2 ^ 16 % 4 → W (a + 24) = .next s)) ∧
    (∀ p, p < 36 → W (0x400000 + 8 * p) = exec (.portDisable p (v.getLsbD 32)) s) ∧ (∀ k, k < 32 → W (0x710000 + 8 * k) = if v.getLsbD 1 then exec (.kslotZero k) s else .next s) ∧
    (∀ c, c < 160 → W (0x831000 + 8 * c) = if v.getLsbD 0 then exec (.dbgdbRing c) s else .next s) ∧
    ((2 ^ 63 ≤ s.reg 0x100008 → W 0x100000 = .next s) ∧ (s.reg 0x100008 < 2 ^ 63 → ∃ t, W 0x100000 = .next t ∧ RegsNow s t [(0x100000, x)])) ∧
    (x % 8 = 0 → W 0x100008 = exec (.xltInvAll v) s) ∧ (x % 8 = 1 → W 0x100008 = exec (.xltInvFunc v) s) ∧ (x % 8 = 2 → W 0x100008 = exec (.xltInvCtx v) s) ∧ (x % 8 = 3 → W 0x100008 = exec (.xltInvCtxPages v) s) ∧
    (x % 8 = 4 → W 0x100008 = exec (.xltInvStage2Pages v) s) ∧ (x % 8 = 5 → W 0x100008 = exec (.xltInvNonglobal v) s) ∧
    W 0x300000 = exec (.llcCarveWrite v) s ∧ W 0x401008 = exec (.peerClr v) s ∧ W 0x402010 = exec (.mint v) s ∧ W 0x402018 = .next s ∧ W 0x402020 = .next s ∧ W 0x710100 = exec (.kload v) s ∧
    W 0x720000 = exec (.exreq v) s ∧ W 0x800000 = exec (.lattolWrite v) s ∧
    (∀ o, o % 8 ≠ 0 → W o = .fault (.noSuchRegister o)) ∧ W 0x402028 = .fault (.noSuchRegister 0x402028) ∧
    (∀ c, c < 160 →
      C c 0x7C1 = exec (.pkdataWrite c v) s ∧ C c 0x7C7 = exec (.srdataWrite c v) s ∧ C c 0x7C9 = exec (.emdataWrite c v) s ∧ C c 0x7CC = exec (.inject c v) s ∧ C c 0x7D1 = exec (.csdataWrite c (v.setWidth 32)) s ∧
      C c 0x7C3 = .next s ∧ C c 0x7C4 = .next s ∧ C c 0x7C5 = .next s ∧ (v.getLsbD 3 = true → C c 0x7CA = exec (.emctlGo c) s) ∧ (v.getLsbD 6 = true → C c 0x7D2 = exec (.csctlGo c (BitVec.ofNat 6 x)) s) ∧
      (let sl := x / 16 % 64
       let m := BitVec.ofNat 32 (x / 2 ^ 32)
       (x % 16 = 1 → C c 0x7C2 = exec (.park c sl) s) ∧ (x % 16 = 2 → C c 0x7C2 = exec (.unpark c sl) s) ∧ (x % 16 = 3 → C c 0x7C2 = exec (.release c m) s) ∧ (x % 16 = 4 → C c 0x7C2 = exec (.signal c sl) s) ∧
       (x % 16 = 5 → C c 0x7C2 = exec (.endtrap c sl) s) ∧ (x % 16 = 6 → C c 0x7C2 = exec (.post c) s) ∧ (x % 16 = 7 → C c 0x7C2 = exec (.failx c m) s) ∧ (x % 16 = 8 → C c 0x7C2 = exec (.kill c sl) s)) ∧
      (∀ y, y ∈ [(0x7C0, x % 64 + x / 2 ^ 8 % 32 * 2 ^ 8 + x / 2 ^ 16 % 128 * 2 ^ 16 + x / 2 ^ 24 % 16 * 2 ^ 24 + x / 2 ^ 32 % 256 * 2 ^ 32), (0x7C6, x % 2 ^ 12 + x / 2 ^ 16 % 64 * 2 ^ 16), (0x7C8, x % 2 ^ 17), (0x7CB, x % 2 ^ 32),
          (0x7D0, x % 64 + x / 2 ^ 8 % 32 * 2 ^ 8), (0x7E0, x % 128)] ++ (List.range 4).flatMap (fun j => [(0x7D8 + j, x % 2 + x / 4 * 4), (0x7DC + j, x % 8 + x / 2 ^ 8 % 2 ^ 24 * 2 ^ 8)]) →
        C c y.1 = .next (s.updCore c (fun k => { k with csr := k.csr.ins y.1 (BitVec.ofNat 64 y.2) }))) ∧
      C c 0x7F0 = .fault (.noSuchRegister 0x7F0)) ∧
    (∀ c off, off + 8 ≤ (s.core c).split * 16384 → s.prov = [] → (∀ j, j < 8 → placeSound s (.spad c (off + j)) = true ∧ placeCalm s (.spad c (off + j)) = true) → ∃ t, exec (.registerWrite (.spad c off) v) s = .next t ∧
      Stored s t ((leBytes 8 x).zipIdx.map (fun y => (.spad c (off + y.2), y.1, false))) ∧ t.packs = s.packs ∧ t.regs = s.regs)

namespace Sys2Proof.Claims

/-- A unit before the tests of R57: pack p issues instruction i for lanes that may all execute it (R33, R216). -/
abbrev Begins (i : Instr) (s : State) (u : Cur) (p : Pack) : Prop :=
  s.cur = some u ∧ u.resume = none ∧ s.pack? u.core u.slot = some p ∧ (s.cores.find u.core).isSome = true ∧ u.ig ≠ 0 ∧ ((instrUses i).helper = true ∨ u.ig &&& p.lanesWhere (fun x => x.st == .helper) = 0)

/-- The unit traps before its own effect: nothing but the trap is there. -/
abbrev TrapsEarly (i : Instr) (s : State) (u : Cur) (p : Pack) (ts : List LTrap) : Prop :=
  ∃ t q, exec i s = .next t ∧ t.pack? u.core u.slot = some q ∧ SameRest s t ∧ SameCores s t ∧ SameOthers s t u ∧ SameBytes s t ∧ PackBut p q ∧ SameRegs p q u.depth ∧ q.s = p.s ∧ q.m = p.m ∧ q.fpc = p.fpc ∧
    q.pending = withTraps p.pending s u ts

/-- A word of a unit from its fields: (value, lowest bit). -/
def wordOf (fs : List (Nat × Nat)) : Nat := (fs.map (fun f => f.1 * 2 ^ f.2)).sum

/-- The bytes of a word as a fetch of a control address finds them, the translation being there (R25, R27, R101). -/
abbrev WordAt (s : State) (c ctx node va : Nat) (w : Nat) : Prop :=
  va < 2 ^ 48 ∧ ∃ ps, transRange { wh := c / 16, ctx := ctx, core := some c, node := node, kind := 3, need := needX } 0 2 va 4 s = (s, .ok ps) ∧ ps.length = 4 ∧ (∀ pl ∈ ps, placeSound s pl = true) ∧
    (∀ pl ∈ ps, s.placeTouch pl = s) ∧ ((List.range 4).map (fun k => ((ps.map s.placeByte).getD k 0).toNat * 256 ^ k)).sum = w

end Sys2Proof.Claims

/-- R7, R81, R106, R206, R282, R320, R344, R362, R378, R407, R430, R433, R435, R436, R446, R448: what package reset leaves. (What the spec gives no reset value for is zero: log 8 and 9.) -/
def Sys2Proof.Claims.ResetLeavesTheResetValues : Prop :=
  let s := State.reset
  s.boot.stage = 0 ∧ s.cycle = 0 ∧ s.packs = [] ∧ s.wgs = [] ∧ s.launches = [] ∧ s.copies = [] ∧ s.colls = [] ∧ s.remotes = [] ∧ s.prq = [] ∧ s.tlb = [] ∧ s.recCache = [] ∧ s.mem = [] ∧ s.planeBw = [] ∧
  s.cores.keys = List.range 160 ∧
  (∀ c, c < 160 → let k := s.core c
    k.frameWait = 65536 ∧ k.mxIdle = 4096 ∧ k.mxWake = 96 ∧ k.mxGated = false ∧ k.evcnt = List.replicate 16 0 ∧ k.evsel = List.replicate 16 0 ∧ k.idle = List.replicate 8 0 ∧ k.trq = [] ∧ k.mprogs = [] ∧
    k.split = 0 ∧ k.power = 0) ∧
  (∀ x, x < 64 → s.ctxState x = 0 ∧ s.ctxReg x 0 = 0) ∧ (∀ q, q < 64 → s.reg (0x500000 + 0x40 * q) = 0 ∧ s.reg (0x500008 + 0x40 * q) = 0x3FF00) ∧
  s.reg 0x401000 = 2 ^ 24 ∧ s.reg 0x401020 = 1024 ∧ s.reg 0x710000 = 1 ∧ s.reg 0x300000 = 0 ∧ s.lattol = 0 ∧ s.deep = 0 ∧ s.bootstat = 0

/-- At reset the memories have their canonical form, the registers are listed in order and there are 160 cores (R2); the form is the model's own. -/
def Sys2Proof.Claims.ResetIsLegal : Prop := State.reset.legal = true

/-- What package reset leaves, by the Reset columns of the register maps, and that it is a legal state (the canonical forms are the model's own; log 8, log 9). -/
def Obligations.ResetLeavesALegalState : Prop := Claims.ResetLeavesTheResetValues ∧ Claims.ResetIsLegal

/-- Every step keeps the canonical form of every memory, the order of the listed registers, dirty bytes and poisoned lines, and the package's 160 cores (R2). -/
def Obligations.EveryStepKeepsTheStateLegal : Prop := ∀ (s t : State), s.legal = true → step s = .next t → t.legal = true

/-- A step ends in a next state: the machine never stops, whatever its state, but for inputs that are no event of the opcode table or write a register no map has (log 1, log 27). -/
def Obligations.EveryStepHasANextState : Prop :=
  ∀ (s : State), (∀ e, s.agenda.head? = some e → encode e = [] ∧ ∀ r v, e ≠ .registerWrite r v) → ∃ t, step s = .next t

/-- R25, R27, R33, R56, R57, R64, R116, R210, R212, R441: one step takes the next input, else the first due event, else runs one unit: the words at the lpc of the chosen group, or of its microprogram, decode to an instruction, and the step is
exec of it at the state with the unit named, followed by what ends an issue; words that are no instruction trap ILLOP, a fetch fault makes the group wait. (The order of events is log 1 and 3.) -/
def Obligations.StepRunsTheDecodedInstruction : Prop :=
  ∀ (s : State),
    let s0 := { s with ownSteps := s.ownSteps + 1 }
    let due := s0.nextEvent.orElse (fun _ => s0.resumeEvent exec)
    (∀ e r, s.agenda = e :: r → step s = thenDo afterEvent (exec e { s0 with agenda := r })) ∧
    (∀ o, s.agenda = [] → due = some o → step s = thenDo afterEvent o) ∧
    (∀ c, s.agenda = [] → due = none → s0.mbxDue = some c → step s = .next (afterEvent (s0.mbxGo c))) ∧
    (∀ h, s.agenda = [] → due = none → s0.mbxDue = none → s0.hartTurn = some h → step s = .next (afterEvent { s0.hartStep h with ownHart := (h + 1) % 176 })) ∧
    (∀ c sl p, s.agenda = [] → due = none → s0.mbxDue = none → s0.hartTurn = none → 6 ≤ s.boot.stage → s0.nextIssue = some (c, sl) → s0.pack? c sl = some p →
      (p.canUnpark = true → step s = .next (s0.updPack c sl Pack.unparkLanes)) ∧
      (p.canUnpark = false → (s0.breakHit c sl).isSome = true → step s = thenDo afterEvent (exec (.breakpoint c sl) s0)) ∧
      (∀ g, p.canUnpark = false → s0.breakHit c sl = none → p.group = some g → (p.handler.isSome = true ∨ (p.frames.getD g.depth {}).st = .resident ∧ g.depth < p.frames.length) → failedFetch p g.ig ≠ 0 →
        step s = thenDo (afterIssue exec c sl) (stopUnit tXLATE 0 (BitVec.ofNat 64 g.key.1)
          { s0 with cur := some { core := c, slot := sl, ig := failedFetch p g.ig, depth := g.depth, pc := BitVec.ofNat 64 g.key.1, ownAt := s0.ownSteps } })) ∧
      (∀ g, p.canUnpark = false → s0.breakHit c sl = none → p.group = some g → (p.handler.isSome = true ∨ (p.frames.getD g.depth {}).st = .resident ∧ g.depth < p.frames.length) → failedFetch p g.ig = 0 →
        let pc := BitVec.ofNat 64 g.key.1
        let u : Cur := { core := c, slot := sl, ig := g.ig, depth := g.depth, pc := pc, ownAt := s0.ownSteps }
        (∀ s1 ws i, g.key.2 = 0 → g.key.1 % 4 = 0 → fetchUnit c p.ctx (s0.wg p.wg).uid g.key.1 4 [] s0 = (s1, .ok ws) → decode ws = .ok i →
          step s = thenDo (afterIssue exec c sl) (exec i { s1 with cur := some { u with words := ws.take i.len } })) ∧
        (∀ s1 ws e, g.key.2 = 0 → g.key.1 % 4 = 0 → fetchUnit c p.ctx (s0.wg p.wg).uid g.key.1 4 [] s0 = (s1, .ok ws) → decode ws = .error e →
          step s = thenDo (afterIssue exec c sl) (stopUnit tILLOP 0 0 { s1 with cur := some { u with words := ws } })) ∧
        (∀ s1 img, g.key.2 = 0 → g.key.1 % 4 = 0 → fetchUnit c p.ctx (s0.wg p.wg).uid g.key.1 4 [] s0 = (s1, .fault img) → step s = .next (afterIssue exec c sl (fetchFault u img s1))) ∧
        (g.key.2 = 0 → g.key.1 % 4 ≠ 0 → step s = thenDo (afterIssue exec c sl) (stopUnit tMISALIGN 0 pc { s0 with cur := some u })) ∧
        (let x := p.lane ((lanesOf g.ig).headD 0)
         let img := ((s0.core c).mprogs.find x.mslot).getD []
         let k := g.key.2 - 1
         ∀ i, g.key.2 ≠ 0 → unitInstr (some x.mbase) (img.drop k) = some i → step s = thenDo (afterIssue exec c sl) (exec i { s0 with cur := some { u with k := some k, mlen := img.length, mbase := x.mbase, words := (img.drop k).take i.len } })))) ∧
    (s.agenda = [] → due = none → s0.mbxDue = none → s0.hartTurn = none → (s.boot.stage < 6 ∨ s0.nextIssue = none) → step s = .next (s0.advance none).clearStalls) ∧
    (∀ c ctx node pc ws, ws ≠ [] → ws.length ≤ 4 → pc + 16 ≤ 2 ^ 48 → (∀ k w, ws[k]? = some w → WordAt s0 c ctx node (pc + 4 * k) w) → unitLen ws = ws.length → (∀ k, 0 < k → k < ws.length → k < unitLen (ws.take k)) →
      fetchUnit c ctx node pc 4 [] s0 = (s0, .ok ws))

/-- R28 to R36, R42 to R55: decoding the words of a well-formed instruction, whatever follows them, gives it back with every operand; what decodes is well-formed and has these words; every word has 32 bits, a unit four at most. -/
def Obligations.DecodingAndEncodingAgree : Prop :=
  (∀ (i : Instr) (rest : List Nat), i.wf = true → encode i ≠ [] → decode (encode i ++ rest) = .ok i ∧ unitLen (encode i ++ rest) = (encode i).length) ∧
  (∀ (ws : List Nat) (i : Instr), decode ws = .ok i → i.wf = true ∧ encode i ≠ [] ∧ encode i <+: ws) ∧
  (∀ (i : Instr) (rest : List Byte), i.wf = true → encode i ≠ [] → decodeBytes (encodeBytes i ++ rest) = .ok i) ∧
  ∀ (i : Instr), (encode i).length ≤ 4 ∧ ∀ w ∈ encode i, w < 2 ^ 32

/-- Words written out field by field from the encoding tables: R28, R43, R51 (D [24:18], A [17:11], B [10:4]), R31 (PFX), R30 (IMX), R50 (CALL), R52 (memory), R54 (MMA), R45 (special registers). -/
def Obligations.WordsDecodeToTheirInstructions : Prop :=
  decode [0x02000000] = .ok .nop ∧
  decode [wordOf [(16, 25), (5, 18), (6, 11), (7, 4), (1, 0)]] = .ok (.iadd none 5 6 7 1) ∧
  decode [wordOf [(126, 25), (3, 22), (1, 21)], wordOf [(18, 25), (8, 18), (9, 11), (10, 4)]] = .ok (.isub (some { mr := 3, mz := true, rm := 0, sat := false, f4 := 0 }) 8 9 10 0) ∧
  decode [wordOf [(127, 25), (0x12345, 0)], wordOf [(17, 25), (4, 18), (3, 11), (0x7FF, 0)]] = .ok (.iaddi none 4 3 { hi := some 0x12345, lo := 0x7FF }) ∧
  decode [wordOf [(2, 25), (0x1FFFFFF, 0)]] = .ok (.bra 0x1FFFFFF) ∧
  decode [wordOf [(33, 25), (1, 18), (2, 11), (3, 4), (2, 0)]] = .ok (.xor none 1 2 3) ∧
  decode [wordOf [(7, 25)]] = .ok .ret ∧ decode [wordOf [(14, 25), (200, 0)]] = .ok (.syscall 200) ∧
  decode [0] = .error .unassigned ∧ decode [0x02000001] = .error .reservedBit ∧ decode [] = .error .empty

/-- R13, R37, R39, R40, R57, R120, R216, R266: the tests that come before an instruction's own effect. A unit waits for what is in flight; a matrix instruction of a workgroup that does not hold the unit traps PRIV, one that names
registers outside its frame FRAME, released lanes whose page request failed XLATE; helper lanes of an instruction that is not theirs leave. -/
def Obligations.TestsBeforeTheEffect : Prop :=
  ∀ (i : Instr) (s : State) (u : Cur) (p : Pack), encode i ≠ [] →
    (s.cur = none → exec i s = .fault .noUnit) ∧
    (Begins i s u p → p.blockers (usesOf i) u.ig u.depth ≠ [] → ∃ t, exec i s = .next t ∧ t = { s with packs := t.packs } ∧ PackNow s t u.core u.slot { p with ownStall := some (blockCause i (usesOf i) (p.blockers (usesOf i) u.ig u.depth)) }) ∧
    (Begins i s u p → p.blockers (usesOf i) u.ig u.depth = [] →
      let c := ctxOf i s u p
      let mxBad := (instrUses i).mx = true ∧ (s.core u.core).mxOwner ≠ some p.wg
      let outside := ∃ r ∈ (usesOf i).reads ++ (usesOf i).writes, 8 * (p.frameAt u.depth).size ≤ r
      (mxBad → TrapsEarly i s u p (groupTrap c tPRIV 3)) ∧
      (¬mxBad → outside → TrapsEarly i s u p (groupTrap c tFRAME 1)) ∧
      (¬mxBad → ¬outside → (instrUses i).takesFail = false → (∃ l, l < 32 ∧ u.ig.getLsbD l = true ∧ (p.lane l).released = true ∧ (p.lane l).failx.isSome = true) →
        TrapsEarly i s u p ((lanesOf u.ig).filterMap (fun l => if (p.lane l).released then (p.lane l).failx.map (fun g => { l := l, code := tXLATE, va := g.va, info := g.bytes }) else none)))) ∧
    (s.cur = some u → u.resume = none → s.pack? u.core u.slot = some p → p.lanes.length = 32 → u.ig ≠ 0 → (instrUses i).helper = false → (∀ l, l < 32 → u.ig.getLsbD l = true → (p.lane l).st = .helper) →
      ∃ t q, exec i s = .next t ∧ t = { s with packs := t.packs } ∧ PackNow s t u.core u.slot q ∧ ∀ l, l < 32 → (u.ig.getLsbD l = true → (q.lane l).st = .exited) ∧
        (u.ig.getLsbD l = false → (q.lane l).pc = (p.lane l).pc))
end

