-- ==== Sys2Proof/Laws/Data.lean ====
section
/-! SUPPORT. The laws of the sparse container FMap and of lists with a default. -/

namespace Sys2Proof

namespace FMap
variable {α : Type}

@[simp] theorem find_nil (n : Nat) : find ([] : FMap α) n = none := rfl

/-- A value put in is found. -/
@[simp] theorem find_ins_self (m : FMap α) (n : Nat) (v : α) : (ins m n v).find n = some v := by
  induction m with
  | nil => simp [ins, find]
  | cons x r ih =>
    obtain ⟨k, w⟩ := x
    simp only [ins]
    split
    · simp [find]
    · split
      · simp [find, *]
      · simp [find]

/-- Putting a value in changes no other key. -/
theorem find_ins_ne (m : FMap α) {n j : Nat} (v : α) (h : j ≠ n) : (ins m n v).find j = m.find j := by
  induction m with
  | nil => simp [ins, find]; omega
  | cons x r ih =>
    obtain ⟨k, w⟩ := x
    simp only [ins]
    split
    · subst_vars
      have : ¬ k = j := fun e => h e.symm
      simp [find, this]
    · split
      · simp [find, ih]
      · have : ¬ n = j := fun e => h e.symm
        simp only [find, this, if_false]
        split
        · rfl
        · split
          · omega
          · split <;> first | omega | rfl

theorem find_ins (m : FMap α) (n j : Nat) (v : α) : (ins m n v).find j = if j = n then some v else m.find j := by
  split
  · subst_vars; simp
  · exact find_ins_ne m v ‹_›

/-- Changing the value at a key that is present. -/
@[simp] theorem find_upd_self (m : FMap α) (n : Nat) (f : α → α) : (upd m n f).find n = (m.find n).map f := by
  induction m with
  | nil => rfl
  | cons x r ih =>
    obtain ⟨k, w⟩ := x
    simp only [upd]
    split
    · simp [find, *]
    · simp only [find, *, if_false]; split <;> simp

theorem find_upd_ne (m : FMap α) {n j : Nat} (f : α → α) (h : j ≠ n) : (upd m n f).find j = m.find j := by
  induction m with
  | nil => rfl
  | cons x r ih =>
    obtain ⟨k, w⟩ := x
    simp only [upd]
    split
    · subst_vars; have : ¬ k = j := fun e => h e.symm
      simp [find, this]
    · simp only [find, ih]

theorem find_upd (m : FMap α) (n j : Nat) (f : α → α) : (upd m n f).find j = if j = n then (m.find n).map f else m.find j := by
  split
  · subst_vars; simp
  · exact find_upd_ne m f ‹_›

/-- A key whose value is present and stays changes nothing. -/
theorem upd_const (m : FMap α) (n : Nat) (v : α) (h : m.find n = some v) : upd m n (fun _ => v) = m := by
  induction m with
  | nil => simp at h
  | cons x r ih =>
    obtain ⟨k, w⟩ := x
    simp only [find, upd] at *
    split at h
    · simp_all
    · split at h
      · simp_all
      · simp at h

@[simp] theorem keys_upd (m : FMap α) (n : Nat) (f : α → α) : (upd m n f).keys = m.keys := by
  induction m with
  | nil => rfl
  | cons x r ih =>
    obtain ⟨k, w⟩ := x
    simp only [upd, keys] at *
    split <;> simp [*]

/-! ## Order -/

/-- Every key of a sorted map is at least its first. -/
theorem sorted_tail {k : Nat} {v : α} {r : FMap α} (h : sorted ((k, v) :: r) = true) : sorted r = true := by
  cases r with
  | nil => rfl
  | cons y r => simp [sorted] at h; exact h.2

/-- Sorted with every key above a bound. -/
theorem sorted_cons (k : Nat) (v : α) (r : FMap α) : sorted ((k, v) :: r) = true ↔ sorted r = true ∧ ∀ x ∈ r, k < x.1 := by
  induction r generalizing k v with
  | nil => simp [sorted]
  | cons y r ih =>
    obtain ⟨j, w⟩ := y
    simp only [sorted, Bool.and_eq_true, decide_eq_true_eq]
    constructor
    · rintro ⟨h, hs⟩
      refine ⟨hs, ?_⟩
      intro x hx
      rcases List.mem_cons.mp hx with rfl | hx
      · exact h
      · exact Nat.lt_trans h (((ih j w).mp hs).2 x hx)
    · rintro ⟨hs, hb⟩
      exact ⟨hb (j, w) (by simp), hs⟩

theorem mem_ins (m : FMap α) (n : Nat) (v : α) (x : Nat × α) (h : x ∈ ins m n v) : x = (n, v) ∨ x ∈ m := by
  induction m with
  | nil => simp [ins] at h; exact .inl h
  | cons y r ih =>
    obtain ⟨k, w⟩ := y
    simp only [ins] at h
    split at h
    · rcases List.mem_cons.mp h with h | h
      · exact .inl h
      · exact .inr (by simp [h])
    · split at h
      · rcases List.mem_cons.mp h with h | h
        · exact .inr (by simp [h])
        · rcases ih h with h | h
          · exact .inl h
          · exact .inr (by simp [h])
      · rcases List.mem_cons.mp h with h | h
        · exact .inl h
        · exact .inr h

theorem sorted_ins (m : FMap α) (n : Nat) (v : α) (h : m.sorted = true) : (ins m n v).sorted = true := by
  induction m with
  | nil => rfl
  | cons y r ih =>
    obtain ⟨k, w⟩ := y
    have ⟨hs, hb⟩ := (sorted_cons k w r).mp h
    simp only [ins]
    split
    · subst_vars; exact (sorted_cons _ _ _).mpr ⟨hs, hb⟩
    · split
      · refine (sorted_cons _ _ _).mpr ⟨ih hs, ?_⟩
        intro x hx
        rcases mem_ins r n v x hx with rfl | hx
        · assumption
        · exact hb x hx
      · refine (sorted_cons _ _ _).mpr ⟨h, ?_⟩
        intro x hx
        rcases List.mem_cons.mp hx with rfl | hx
        · show n < k; omega
        · have := hb x hx; omega

theorem mem_del (m : FMap α) (n : Nat) (x : Nat × α) (h : x ∈ del m n) : x ∈ m := by
  induction m with
  | nil => simp [del] at h
  | cons y r ih =>
    obtain ⟨k, w⟩ := y
    simp only [del] at h
    split at h
    · simp [h]
    · split at h
      · rcases List.mem_cons.mp h with h | h
        · simp [h]
        · simp [ih h]
      · exact h

theorem sorted_del (m : FMap α) (n : Nat) (h : m.sorted = true) : (del m n).sorted = true := by
  induction m with
  | nil => rfl
  | cons y r ih =>
    obtain ⟨k, w⟩ := y
    have ⟨hs, hb⟩ := (sorted_cons k w r).mp h
    simp only [del]
    split
    · exact hs
    · split
      · exact (sorted_cons _ _ _).mpr ⟨ih hs, fun x hx => hb x (mem_del r n x hx)⟩
      · exact h

theorem find_eq_none_of_lt (m : FMap α) (n : Nat) (h : ∀ x ∈ m, n < x.1) : m.find n = none := by
  cases m with
  | nil => rfl
  | cons y r =>
    obtain ⟨k, w⟩ := y
    have := h (k, w) (by simp)
    simp only [find]
    split
    · simp at this; omega
    · split
      · simp at this; omega
      · rfl

theorem find_del (m : FMap α) (n j : Nat) (h : m.sorted = true) : (del m n).find j = if j = n then none else m.find j := by
  induction m with
  | nil => simp [del]
  | cons y r ih =>
    obtain ⟨k, w⟩ := y
    have ⟨hs, hb⟩ := (sorted_cons k w r).mp h
    simp only [del]
    split
    · subst_vars
      split
      · subst_vars; exact find_eq_none_of_lt r _ hb
      · have : ¬ k = j := fun e => ‹¬ j = k› e.symm
        simp only [find, this, if_false]
        split
        · rfl
        · exact find_eq_none_of_lt r _ (fun x hx => by have := hb x hx; omega)
    · split
      · simp only [find, ih hs]
        split
        · subst_vars; simp [*]
        · split
          · rfl
          · simp
      · split
        · subst_vars; simp only [find]; split
          · omega
          · simp
        · rfl

end FMap

namespace Machine

@[simp] theorem getD_setAt_self {α : Type} (d : α) (xs : List α) (n : Nat) (x : α) : (setAt d xs n x).getD n d = x := by
  induction xs generalizing n with
  | nil => induction n with
    | zero => rfl
    | succ n ih => simpa [setAt] using ih
  | cons y r ih => cases n with
    | zero => rfl
    | succ n => simpa [setAt] using ih n

theorem getD_setAt_nil {α : Type} (d : α) (n j : Nat) (x : α) (h : j ≠ n) : (setAt d [] n x).getD j d = d := by
  induction n generalizing j with
  | zero => cases j with
    | zero => exact absurd rfl h
    | succ j => simp [setAt]
  | succ n ih => cases j with
    | zero => simp [setAt]
    | succ j => simpa [setAt] using ih j (fun e => h (by rw [e]))

theorem getD_setAt_ne {α : Type} (d : α) (xs : List α) {n j : Nat} (x : α) (h : j ≠ n) : (setAt d xs n x).getD j d = xs.getD j d := by
  induction xs generalizing n j with
  | nil => rw [getD_setAt_nil d n j x h]; simp
  | cons y r ih => cases n with
    | zero => cases j with
      | zero => exact absurd rfl h
      | succ j => simp [setAt]
    | succ n => cases j with
      | zero => simp [setAt]
      | succ j => simpa [setAt] using ih (fun e => h (by rw [e]))

/-- The n-th entry is the new one, the others stay, whatever the length. -/
theorem getD_setAt {α : Type} (d : α) (xs : List α) (n j : Nat) (x : α) : (setAt d xs n x).getD j d = if j = n then x else xs.getD j d := by
  split
  · subst_vars; exact getD_setAt_self d xs _ x
  · exact getD_setAt_ne d xs x ‹_›

/-- The same in the form simp brings `getD` to. -/
theorem getElem?_setAt {α : Type} (d : α) (xs : List α) (n j : Nat) (x : α) :
    (setAt d xs n x)[j]?.getD d = if j = n then x else xs[j]?.getD d := by
  simpa only [List.getD_eq_getElem?_getD] using getD_setAt d xs n j x

@[simp] theorem getElem?_setAt_self {α : Type} (d : α) (xs : List α) (n : Nat) (x : α) : (setAt d xs n x)[n]?.getD d = x := by
  simp only [getElem?_setAt, if_true]

end Machine
end Sys2Proof
end

