-- ==== Sys2Proof/Laws/State.lean ====
section
/-! SUPPORT. One lemma per field per update of State and of Pack: what the update leaves alone. -/

namespace Sys2Proof.Machine

/-! ### State.updCore -/

@[simp] theorem State.updCore_pkgId (s : State) (c : Nat) (f : Core → Core) : (s.updCore c f).pkgId = s.pkgId := rfl
@[simp] theorem State.updCore_cycle (s : State) (c : Nat) (f : Core → Core) : (s.updCore c f).cycle = s.cycle := rfl
@[simp] theorem State.updCore_boot (s : State) (c : Nat) (f : Core → Core) : (s.updCore c f).boot = s.boot := rfl
@[simp] theorem State.updCore_mem (s : State) (c : Nat) (f : Core → Core) : (s.updCore c f).mem = s.mem := rfl
@[simp] theorem State.updCore_memPsn (s : State) (c : Nat) (f : Core → Core) : (s.updCore c f).memPsn = s.memPsn := rfl
@[simp] theorem State.updCore_lineKey (s : State) (c : Nat) (f : Core → Core) : (s.updCore c f).lineKey = s.lineKey := rfl
@[simp] theorem State.updCore_mirror (s : State) (c : Nat) (f : Core → Core) : (s.updCore c f).mirror = s.mirror := rfl
@[simp] theorem State.updCore_l1 (s : State) (c : Nat) (f : Core → Core) : (s.updCore c f).l1 = s.l1 := rfl
@[simp] theorem State.updCore_prov (s : State) (c : Nat) (f : Core → Core) : (s.updCore c f).prov = s.prov := rfl
@[simp] theorem State.updCore_provPsn (s : State) (c : Nat) (f : Core → Core) : (s.updCore c f).provPsn = s.provPsn := rfl
@[simp] theorem State.updCore_chip (s : State) (c : Nat) (f : Core → Core) : (s.updCore c f).chip = s.chip := rfl
@[simp] theorem State.updCore_chipPsn (s : State) (c : Nat) (f : Core → Core) : (s.updCore c f).chipPsn = s.chipPsn := rfl
@[simp] theorem State.updCore_predict (s : State) (c : Nat) (f : Core → Core) : (s.updCore c f).predict = s.predict := rfl
@[simp] theorem State.updCore_dir (s : State) (c : Nat) (f : Core → Core) : (s.updCore c f).dir = s.dir := rfl
@[simp] theorem State.updCore_unmirrored (s : State) (c : Nat) (f : Core → Core) : (s.updCore c f).unmirrored = s.unmirrored := rfl
@[simp] theorem State.updCore_mirrorPend (s : State) (c : Nat) (f : Core → Core) : (s.updCore c f).mirrorPend = s.mirrorPend := rfl
@[simp] theorem State.updCore_ctlHeld (s : State) (c : Nat) (f : Core → Core) : (s.updCore c f).ctlHeld = s.ctlHeld := rfl
@[simp] theorem State.updCore_regs (s : State) (c : Nat) (f : Core → Core) : (s.updCore c f).regs = s.regs := rfl
@[simp] theorem State.updCore_tokenKey (s : State) (c : Nat) (f : Core → Core) : (s.updCore c f).tokenKey = s.tokenKey := rfl
@[simp] theorem State.updCore_tlb (s : State) (c : Nat) (f : Core → Core) : (s.updCore c f).tlb = s.tlb := rfl
@[simp] theorem State.updCore_prq (s : State) (c : Nat) (f : Core → Core) : (s.updCore c f).prq = s.prq := rfl
@[simp] theorem State.updCore_prqHeld (s : State) (c : Nat) (f : Core → Core) : (s.updCore c f).prqHeld = s.prqHeld := rfl
@[simp] theorem State.updCore_qFail (s : State) (c : Nat) (f : Core → Core) : (s.updCore c f).qFail = s.qFail := rfl
@[simp] theorem State.updCore_ringArmed (s : State) (c : Nat) (f : Core → Core) : (s.updCore c f).ringArmed = s.ringArmed := rfl
@[simp] theorem State.updCore_recCache (s : State) (c : Nat) (f : Core → Core) : (s.updCore c f).recCache = s.recCache := rfl
@[simp] theorem State.updCore_harts (s : State) (c : Nat) (f : Core → Core) : (s.updCore c f).harts = s.harts := rfl
@[simp] theorem State.updCore_packs (s : State) (c : Nat) (f : Core → Core) : (s.updCore c f).packs = s.packs := rfl
@[simp] theorem State.updCore_wgs (s : State) (c : Nat) (f : Core → Core) : (s.updCore c f).wgs = s.wgs := rfl
@[simp] theorem State.updCore_launches (s : State) (c : Nat) (f : Core → Core) : (s.updCore c f).launches = s.launches := rfl
@[simp] theorem State.updCore_order (s : State) (c : Nat) (f : Core → Core) : (s.updCore c f).order = s.order := rfl
@[simp] theorem State.updCore_saved (s : State) (c : Nat) (f : Core → Core) : (s.updCore c f).saved = s.saved := rfl
@[simp] theorem State.updCore_releases (s : State) (c : Nat) (f : Core → Core) : (s.updCore c f).releases = s.releases := rfl
@[simp] theorem State.updCore_lastQueue (s : State) (c : Nat) (f : Core → Core) : (s.updCore c f).lastQueue = s.lastQueue := rfl
@[simp] theorem State.updCore_lastCore (s : State) (c : Nat) (f : Core → Core) : (s.updCore c f).lastCore = s.lastCore := rfl
@[simp] theorem State.updCore_starving (s : State) (c : Nat) (f : Core → Core) : (s.updCore c f).starving = s.starving := rfl
@[simp] theorem State.updCore_copies (s : State) (c : Nat) (f : Core → Core) : (s.updCore c f).copies = s.copies := rfl
@[simp] theorem State.updCore_colls (s : State) (c : Nat) (f : Core → Core) : (s.updCore c f).colls = s.colls := rfl
@[simp] theorem State.updCore_collSeq (s : State) (c : Nat) (f : Core → Core) : (s.updCore c f).collSeq = s.collSeq := rfl
@[simp] theorem State.updCore_collHeld (s : State) (c : Nat) (f : Core → Core) : (s.updCore c f).collHeld = s.collHeld := rfl
@[simp] theorem State.updCore_strags (s : State) (c : Nat) (f : Core → Core) : (s.updCore c f).strags = s.strags := rfl
@[simp] theorem State.updCore_remotes (s : State) (c : Nat) (f : Core → Core) : (s.updCore c f).remotes = s.remotes := rfl
@[simp] theorem State.updCore_sent (s : State) (c : Nat) (f : Core → Core) : (s.updCore c f).sent = s.sent := rfl
@[simp] theorem State.updCore_performed (s : State) (c : Nat) (f : Core → Core) : (s.updCore c f).performed = s.performed := rfl
@[simp] theorem State.updCore_lost (s : State) (c : Nat) (f : Core → Core) : (s.updCore c f).lost = s.lost := rfl
@[simp] theorem State.updCore_members (s : State) (c : Nat) (f : Core → Core) : (s.updCore c f).members = s.members := rfl
@[simp] theorem State.updCore_portFails (s : State) (c : Nat) (f : Core → Core) : (s.updCore c f).portFails = s.portFails := rfl
@[simp] theorem State.updCore_planeBw (s : State) (c : Nat) (f : Core → Core) : (s.updCore c f).planeBw = s.planeBw := rfl
@[simp] theorem State.updCore_diePower (s : State) (c : Nat) (f : Core → Core) : (s.updCore c f).diePower = s.diePower := rfl
@[simp] theorem State.updCore_dieIdle (s : State) (c : Nat) (f : Core → Core) : (s.updCore c f).dieIdle = s.dieIdle := rfl
@[simp] theorem State.updCore_chain (s : State) (c : Nat) (f : Core → Core) : (s.updCore c f).chain = s.chain := rfl
@[simp] theorem State.updCore_micro (s : State) (c : Nat) (f : Core → Core) : (s.updCore c f).micro = s.micro := rfl
@[simp] theorem State.updCore_launched (s : State) (c : Nat) (f : Core → Core) : (s.updCore c f).launched = s.launched := rfl
@[simp] theorem State.updCore_lastDone (s : State) (c : Nat) (f : Core → Core) : (s.updCore c f).lastDone = s.lastDone := rfl
@[simp] theorem State.updCore_nextId (s : State) (c : Nat) (f : Core → Core) : (s.updCore c f).nextId = s.nextId := rfl
@[simp] theorem State.updCore_latent (s : State) (c : Nat) (f : Core → Core) : (s.updCore c f).latent = s.latent := rfl
@[simp] theorem State.updCore_shadowErr (s : State) (c : Nat) (f : Core → Core) : (s.updCore c f).shadowErr = s.shadowErr := rfl
@[simp] theorem State.updCore_errors (s : State) (c : Nat) (f : Core → Core) : (s.updCore c f).errors = s.errors := rfl
@[simp] theorem State.updCore_outbox (s : State) (c : Nat) (f : Core → Core) : (s.updCore c f).outbox = s.outbox := rfl
@[simp] theorem State.updCore_agenda (s : State) (c : Nat) (f : Core → Core) : (s.updCore c f).agenda = s.agenda := rfl
@[simp] theorem State.updCore_cur (s : State) (c : Nat) (f : Core → Core) : (s.updCore c f).cur = s.cur := rfl
@[simp] theorem State.updCore_ownSteps (s : State) (c : Nat) (f : Core → Core) : (s.updCore c f).ownSteps = s.ownSteps := rfl
@[simp] theorem State.updCore_ownDraws (s : State) (c : Nat) (f : Core → Core) : (s.updCore c f).ownDraws = s.ownDraws := rfl
@[simp] theorem State.updCore_ownTurn (s : State) (c : Nat) (f : Core → Core) : (s.updCore c f).ownTurn = s.ownTurn := rfl
@[simp] theorem State.updCore_ownHart (s : State) (c : Nat) (f : Core → Core) : (s.updCore c f).ownHart = s.ownHart := rfl

/-! ### State.updPack -/

@[simp] theorem State.updPack_pkgId (s : State) (c sl : Nat) (f : Pack → Pack) : (s.updPack c sl f).pkgId = s.pkgId := rfl
@[simp] theorem State.updPack_cycle (s : State) (c sl : Nat) (f : Pack → Pack) : (s.updPack c sl f).cycle = s.cycle := rfl
@[simp] theorem State.updPack_boot (s : State) (c sl : Nat) (f : Pack → Pack) : (s.updPack c sl f).boot = s.boot := rfl
@[simp] theorem State.updPack_mem (s : State) (c sl : Nat) (f : Pack → Pack) : (s.updPack c sl f).mem = s.mem := rfl
@[simp] theorem State.updPack_memPsn (s : State) (c sl : Nat) (f : Pack → Pack) : (s.updPack c sl f).memPsn = s.memPsn := rfl
@[simp] theorem State.updPack_lineKey (s : State) (c sl : Nat) (f : Pack → Pack) : (s.updPack c sl f).lineKey = s.lineKey := rfl
@[simp] theorem State.updPack_mirror (s : State) (c sl : Nat) (f : Pack → Pack) : (s.updPack c sl f).mirror = s.mirror := rfl
@[simp] theorem State.updPack_l1 (s : State) (c sl : Nat) (f : Pack → Pack) : (s.updPack c sl f).l1 = s.l1 := rfl
@[simp] theorem State.updPack_prov (s : State) (c sl : Nat) (f : Pack → Pack) : (s.updPack c sl f).prov = s.prov := rfl
@[simp] theorem State.updPack_provPsn (s : State) (c sl : Nat) (f : Pack → Pack) : (s.updPack c sl f).provPsn = s.provPsn := rfl
@[simp] theorem State.updPack_chip (s : State) (c sl : Nat) (f : Pack → Pack) : (s.updPack c sl f).chip = s.chip := rfl
@[simp] theorem State.updPack_chipPsn (s : State) (c sl : Nat) (f : Pack → Pack) : (s.updPack c sl f).chipPsn = s.chipPsn := rfl
@[simp] theorem State.updPack_predict (s : State) (c sl : Nat) (f : Pack → Pack) : (s.updPack c sl f).predict = s.predict := rfl
@[simp] theorem State.updPack_dir (s : State) (c sl : Nat) (f : Pack → Pack) : (s.updPack c sl f).dir = s.dir := rfl
@[simp] theorem State.updPack_unmirrored (s : State) (c sl : Nat) (f : Pack → Pack) : (s.updPack c sl f).unmirrored = s.unmirrored := rfl
@[simp] theorem State.updPack_mirrorPend (s : State) (c sl : Nat) (f : Pack → Pack) : (s.updPack c sl f).mirrorPend = s.mirrorPend := rfl
@[simp] theorem State.updPack_ctlHeld (s : State) (c sl : Nat) (f : Pack → Pack) : (s.updPack c sl f).ctlHeld = s.ctlHeld := rfl
@[simp] theorem State.updPack_regs (s : State) (c sl : Nat) (f : Pack → Pack) : (s.updPack c sl f).regs = s.regs := rfl
@[simp] theorem State.updPack_tokenKey (s : State) (c sl : Nat) (f : Pack → Pack) : (s.updPack c sl f).tokenKey = s.tokenKey := rfl
@[simp] theorem State.updPack_tlb (s : State) (c sl : Nat) (f : Pack → Pack) : (s.updPack c sl f).tlb = s.tlb := rfl
@[simp] theorem State.updPack_prq (s : State) (c sl : Nat) (f : Pack → Pack) : (s.updPack c sl f).prq = s.prq := rfl
@[simp] theorem State.updPack_prqHeld (s : State) (c sl : Nat) (f : Pack → Pack) : (s.updPack c sl f).prqHeld = s.prqHeld := rfl
@[simp] theorem State.updPack_qFail (s : State) (c sl : Nat) (f : Pack → Pack) : (s.updPack c sl f).qFail = s.qFail := rfl
@[simp] theorem State.updPack_ringArmed (s : State) (c sl : Nat) (f : Pack → Pack) : (s.updPack c sl f).ringArmed = s.ringArmed := rfl
@[simp] theorem State.updPack_recCache (s : State) (c sl : Nat) (f : Pack → Pack) : (s.updPack c sl f).recCache = s.recCache := rfl
@[simp] theorem State.updPack_cores (s : State) (c sl : Nat) (f : Pack → Pack) : (s.updPack c sl f).cores = s.cores := rfl
@[simp] theorem State.updPack_harts (s : State) (c sl : Nat) (f : Pack → Pack) : (s.updPack c sl f).harts = s.harts := rfl
@[simp] theorem State.updPack_wgs (s : State) (c sl : Nat) (f : Pack → Pack) : (s.updPack c sl f).wgs = s.wgs := rfl
@[simp] theorem State.updPack_launches (s : State) (c sl : Nat) (f : Pack → Pack) : (s.updPack c sl f).launches = s.launches := rfl
@[simp] theorem State.updPack_order (s : State) (c sl : Nat) (f : Pack → Pack) : (s.updPack c sl f).order = s.order := rfl
@[simp] theorem State.updPack_saved (s : State) (c sl : Nat) (f : Pack → Pack) : (s.updPack c sl f).saved = s.saved := rfl
@[simp] theorem State.updPack_releases (s : State) (c sl : Nat) (f : Pack → Pack) : (s.updPack c sl f).releases = s.releases := rfl
@[simp] theorem State.updPack_lastQueue (s : State) (c sl : Nat) (f : Pack → Pack) : (s.updPack c sl f).lastQueue = s.lastQueue := rfl
@[simp] theorem State.updPack_lastCore (s : State) (c sl : Nat) (f : Pack → Pack) : (s.updPack c sl f).lastCore = s.lastCore := rfl
@[simp] theorem State.updPack_starving (s : State) (c sl : Nat) (f : Pack → Pack) : (s.updPack c sl f).starving = s.starving := rfl
@[simp] theorem State.updPack_copies (s : State) (c sl : Nat) (f : Pack → Pack) : (s.updPack c sl f).copies = s.copies := rfl
@[simp] theorem State.updPack_colls (s : State) (c sl : Nat) (f : Pack → Pack) : (s.updPack c sl f).colls = s.colls := rfl
@[simp] theorem State.updPack_collSeq (s : State) (c sl : Nat) (f : Pack → Pack) : (s.updPack c sl f).collSeq = s.collSeq := rfl
@[simp] theorem State.updPack_collHeld (s : State) (c sl : Nat) (f : Pack → Pack) : (s.updPack c sl f).collHeld = s.collHeld := rfl
@[simp] theorem State.updPack_strags (s : State) (c sl : Nat) (f : Pack → Pack) : (s.updPack c sl f).strags = s.strags := rfl
@[simp] theorem State.updPack_remotes (s : State) (c sl : Nat) (f : Pack → Pack) : (s.updPack c sl f).remotes = s.remotes := rfl
@[simp] theorem State.updPack_sent (s : State) (c sl : Nat) (f : Pack → Pack) : (s.updPack c sl f).sent = s.sent := rfl
@[simp] theorem State.updPack_performed (s : State) (c sl : Nat) (f : Pack → Pack) : (s.updPack c sl f).performed = s.performed := rfl
@[simp] theorem State.updPack_lost (s : State) (c sl : Nat) (f : Pack → Pack) : (s.updPack c sl f).lost = s.lost := rfl
@[simp] theorem State.updPack_members (s : State) (c sl : Nat) (f : Pack → Pack) : (s.updPack c sl f).members = s.members := rfl
@[simp] theorem State.updPack_portFails (s : State) (c sl : Nat) (f : Pack → Pack) : (s.updPack c sl f).portFails = s.portFails := rfl
@[simp] theorem State.updPack_planeBw (s : State) (c sl : Nat) (f : Pack → Pack) : (s.updPack c sl f).planeBw = s.planeBw := rfl
@[simp] theorem State.updPack_diePower (s : State) (c sl : Nat) (f : Pack → Pack) : (s.updPack c sl f).diePower = s.diePower := rfl
@[simp] theorem State.updPack_dieIdle (s : State) (c sl : Nat) (f : Pack → Pack) : (s.updPack c sl f).dieIdle = s.dieIdle := rfl
@[simp] theorem State.updPack_chain (s : State) (c sl : Nat) (f : Pack → Pack) : (s.updPack c sl f).chain = s.chain := rfl
@[simp] theorem State.updPack_micro (s : State) (c sl : Nat) (f : Pack → Pack) : (s.updPack c sl f).micro = s.micro := rfl
@[simp] theorem State.updPack_launched (s : State) (c sl : Nat) (f : Pack → Pack) : (s.updPack c sl f).launched = s.launched := rfl
@[simp] theorem State.updPack_lastDone (s : State) (c sl : Nat) (f : Pack → Pack) : (s.updPack c sl f).lastDone = s.lastDone := rfl
@[simp] theorem State.updPack_nextId (s : State) (c sl : Nat) (f : Pack → Pack) : (s.updPack c sl f).nextId = s.nextId := rfl
@[simp] theorem State.updPack_latent (s : State) (c sl : Nat) (f : Pack → Pack) : (s.updPack c sl f).latent = s.latent := rfl
@[simp] theorem State.updPack_shadowErr (s : State) (c sl : Nat) (f : Pack → Pack) : (s.updPack c sl f).shadowErr = s.shadowErr := rfl
@[simp] theorem State.updPack_errors (s : State) (c sl : Nat) (f : Pack → Pack) : (s.updPack c sl f).errors = s.errors := rfl
@[simp] theorem State.updPack_outbox (s : State) (c sl : Nat) (f : Pack → Pack) : (s.updPack c sl f).outbox = s.outbox := rfl
@[simp] theorem State.updPack_agenda (s : State) (c sl : Nat) (f : Pack → Pack) : (s.updPack c sl f).agenda = s.agenda := rfl
@[simp] theorem State.updPack_cur (s : State) (c sl : Nat) (f : Pack → Pack) : (s.updPack c sl f).cur = s.cur := rfl
@[simp] theorem State.updPack_ownSteps (s : State) (c sl : Nat) (f : Pack → Pack) : (s.updPack c sl f).ownSteps = s.ownSteps := rfl
@[simp] theorem State.updPack_ownDraws (s : State) (c sl : Nat) (f : Pack → Pack) : (s.updPack c sl f).ownDraws = s.ownDraws := rfl
@[simp] theorem State.updPack_ownTurn (s : State) (c sl : Nat) (f : Pack → Pack) : (s.updPack c sl f).ownTurn = s.ownTurn := rfl
@[simp] theorem State.updPack_ownHart (s : State) (c sl : Nat) (f : Pack → Pack) : (s.updPack c sl f).ownHart = s.ownHart := rfl

/-! ### State.setReg -/

@[simp] theorem State.setReg_pkgId (s : State) (off v : Nat) : (s.setReg off v).pkgId = s.pkgId := rfl
@[simp] theorem State.setReg_cycle (s : State) (off v : Nat) : (s.setReg off v).cycle = s.cycle := rfl
@[simp] theorem State.setReg_boot (s : State) (off v : Nat) : (s.setReg off v).boot = s.boot := rfl
@[simp] theorem State.setReg_mem (s : State) (off v : Nat) : (s.setReg off v).mem = s.mem := rfl
@[simp] theorem State.setReg_memPsn (s : State) (off v : Nat) : (s.setReg off v).memPsn = s.memPsn := rfl
@[simp] theorem State.setReg_lineKey (s : State) (off v : Nat) : (s.setReg off v).lineKey = s.lineKey := rfl
@[simp] theorem State.setReg_mirror (s : State) (off v : Nat) : (s.setReg off v).mirror = s.mirror := rfl
@[simp] theorem State.setReg_l1 (s : State) (off v : Nat) : (s.setReg off v).l1 = s.l1 := rfl
@[simp] theorem State.setReg_prov (s : State) (off v : Nat) : (s.setReg off v).prov = s.prov := rfl
@[simp] theorem State.setReg_provPsn (s : State) (off v : Nat) : (s.setReg off v).provPsn = s.provPsn := rfl
@[simp] theorem State.setReg_chip (s : State) (off v : Nat) : (s.setReg off v).chip = s.chip := rfl
@[simp] theorem State.setReg_chipPsn (s : State) (off v : Nat) : (s.setReg off v).chipPsn = s.chipPsn := rfl
@[simp] theorem State.setReg_predict (s : State) (off v : Nat) : (s.setReg off v).predict = s.predict := rfl
@[simp] theorem State.setReg_dir (s : State) (off v : Nat) : (s.setReg off v).dir = s.dir := rfl
@[simp] theorem State.setReg_unmirrored (s : State) (off v : Nat) : (s.setReg off v).unmirrored = s.unmirrored := rfl
@[simp] theorem State.setReg_mirrorPend (s : State) (off v : Nat) : (s.setReg off v).mirrorPend = s.mirrorPend := rfl
@[simp] theorem State.setReg_ctlHeld (s : State) (off v : Nat) : (s.setReg off v).ctlHeld = s.ctlHeld := rfl
@[simp] theorem State.setReg_tokenKey (s : State) (off v : Nat) : (s.setReg off v).tokenKey = s.tokenKey := rfl
@[simp] theorem State.setReg_tlb (s : State) (off v : Nat) : (s.setReg off v).tlb = s.tlb := rfl
@[simp] theorem State.setReg_prq (s : State) (off v : Nat) : (s.setReg off v).prq = s.prq := rfl
@[simp] theorem State.setReg_prqHeld (s : State) (off v : Nat) : (s.setReg off v).prqHeld = s.prqHeld := rfl
@[simp] theorem State.setReg_qFail (s : State) (off v : Nat) : (s.setReg off v).qFail = s.qFail := rfl
@[simp] theorem State.setReg_ringArmed (s : State) (off v : Nat) : (s.setReg off v).ringArmed = s.ringArmed := rfl
@[simp] theorem State.setReg_recCache (s : State) (off v : Nat) : (s.setReg off v).recCache = s.recCache := rfl
@[simp] theorem State.setReg_cores (s : State) (off v : Nat) : (s.setReg off v).cores = s.cores := rfl
@[simp] theorem State.setReg_harts (s : State) (off v : Nat) : (s.setReg off v).harts = s.harts := rfl
@[simp] theorem State.setReg_packs (s : State) (off v : Nat) : (s.setReg off v).packs = s.packs := rfl
@[simp] theorem State.setReg_wgs (s : State) (off v : Nat) : (s.setReg off v).wgs = s.wgs := rfl
@[simp] theorem State.setReg_launches (s : State) (off v : Nat) : (s.setReg off v).launches = s.launches := rfl
@[simp] theorem State.setReg_order (s : State) (off v : Nat) : (s.setReg off v).order = s.order := rfl
@[simp] theorem State.setReg_saved (s : State) (off v : Nat) : (s.setReg off v).saved = s.saved := rfl
@[simp] theorem State.setReg_releases (s : State) (off v : Nat) : (s.setReg off v).releases = s.releases := rfl
@[simp] theorem State.setReg_lastQueue (s : State) (off v : Nat) : (s.setReg off v).lastQueue = s.lastQueue := rfl
@[simp] theorem State.setReg_lastCore (s : State) (off v : Nat) : (s.setReg off v).lastCore = s.lastCore := rfl
@[simp] theorem State.setReg_starving (s : State) (off v : Nat) : (s.setReg off v).starving = s.starving := rfl
@[simp] theorem State.setReg_copies (s : State) (off v : Nat) : (s.setReg off v).copies = s.copies := rfl
@[simp] theorem State.setReg_colls (s : State) (off v : Nat) : (s.setReg off v).colls = s.colls := rfl
@[simp] theorem State.setReg_collSeq (s : State) (off v : Nat) : (s.setReg off v).collSeq = s.collSeq := rfl
@[simp] theorem State.setReg_collHeld (s : State) (off v : Nat) : (s.setReg off v).collHeld = s.collHeld := rfl
@[simp] theorem State.setReg_strags (s : State) (off v : Nat) : (s.setReg off v).strags = s.strags := rfl
@[simp] theorem State.setReg_remotes (s : State) (off v : Nat) : (s.setReg off v).remotes = s.remotes := rfl
@[simp] theorem State.setReg_sent (s : State) (off v : Nat) : (s.setReg off v).sent = s.sent := rfl
@[simp] theorem State.setReg_performed (s : State) (off v : Nat) : (s.setReg off v).performed = s.performed := rfl
@[simp] theorem State.setReg_lost (s : State) (off v : Nat) : (s.setReg off v).lost = s.lost := rfl
@[simp] theorem State.setReg_members (s : State) (off v : Nat) : (s.setReg off v).members = s.members := rfl
@[simp] theorem State.setReg_portFails (s : State) (off v : Nat) : (s.setReg off v).portFails = s.portFails := rfl
@[simp] theorem State.setReg_planeBw (s : State) (off v : Nat) : (s.setReg off v).planeBw = s.planeBw := rfl
@[simp] theorem State.setReg_diePower (s : State) (off v : Nat) : (s.setReg off v).diePower = s.diePower := rfl
@[simp] theorem State.setReg_dieIdle (s : State) (off v : Nat) : (s.setReg off v).dieIdle = s.dieIdle := rfl
@[simp] theorem State.setReg_chain (s : State) (off v : Nat) : (s.setReg off v).chain = s.chain := rfl
@[simp] theorem State.setReg_micro (s : State) (off v : Nat) : (s.setReg off v).micro = s.micro := rfl
@[simp] theorem State.setReg_launched (s : State) (off v : Nat) : (s.setReg off v).launched = s.launched := rfl
@[simp] theorem State.setReg_lastDone (s : State) (off v : Nat) : (s.setReg off v).lastDone = s.lastDone := rfl
@[simp] theorem State.setReg_nextId (s : State) (off v : Nat) : (s.setReg off v).nextId = s.nextId := rfl
@[simp] theorem State.setReg_latent (s : State) (off v : Nat) : (s.setReg off v).latent = s.latent := rfl
@[simp] theorem State.setReg_shadowErr (s : State) (off v : Nat) : (s.setReg off v).shadowErr = s.shadowErr := rfl
@[simp] theorem State.setReg_errors (s : State) (off v : Nat) : (s.setReg off v).errors = s.errors := rfl
@[simp] theorem State.setReg_outbox (s : State) (off v : Nat) : (s.setReg off v).outbox = s.outbox := rfl
@[simp] theorem State.setReg_agenda (s : State) (off v : Nat) : (s.setReg off v).agenda = s.agenda := rfl
@[simp] theorem State.setReg_cur (s : State) (off v : Nat) : (s.setReg off v).cur = s.cur := rfl
@[simp] theorem State.setReg_ownSteps (s : State) (off v : Nat) : (s.setReg off v).ownSteps = s.ownSteps := rfl
@[simp] theorem State.setReg_ownDraws (s : State) (off v : Nat) : (s.setReg off v).ownDraws = s.ownDraws := rfl
@[simp] theorem State.setReg_ownTurn (s : State) (off v : Nat) : (s.setReg off v).ownTurn = s.ownTurn := rfl
@[simp] theorem State.setReg_ownHart (s : State) (off v : Nat) : (s.setReg off v).ownHart = s.ownHart := rfl

/-! ### State.send -/

@[simp] theorem State.send_pkgId (s : State) (m : OutMsg) : (s.send m).pkgId = s.pkgId := rfl
@[simp] theorem State.send_cycle (s : State) (m : OutMsg) : (s.send m).cycle = s.cycle := rfl
@[simp] theorem State.send_boot (s : State) (m : OutMsg) : (s.send m).boot = s.boot := rfl
@[simp] theorem State.send_mem (s : State) (m : OutMsg) : (s.send m).mem = s.mem := rfl
@[simp] theorem State.send_memPsn (s : State) (m : OutMsg) : (s.send m).memPsn = s.memPsn := rfl
@[simp] theorem State.send_lineKey (s : State) (m : OutMsg) : (s.send m).lineKey = s.lineKey := rfl
@[simp] theorem State.send_mirror (s : State) (m : OutMsg) : (s.send m).mirror = s.mirror := rfl
@[simp] theorem State.send_l1 (s : State) (m : OutMsg) : (s.send m).l1 = s.l1 := rfl
@[simp] theorem State.send_prov (s : State) (m : OutMsg) : (s.send m).prov = s.prov := rfl
@[simp] theorem State.send_provPsn (s : State) (m : OutMsg) : (s.send m).provPsn = s.provPsn := rfl
@[simp] theorem State.send_chip (s : State) (m : OutMsg) : (s.send m).chip = s.chip := rfl
@[simp] theorem State.send_chipPsn (s : State) (m : OutMsg) : (s.send m).chipPsn = s.chipPsn := rfl
@[simp] theorem State.send_predict (s : State) (m : OutMsg) : (s.send m).predict = s.predict := rfl
@[simp] theorem State.send_dir (s : State) (m : OutMsg) : (s.send m).dir = s.dir := rfl
@[simp] theorem State.send_unmirrored (s : State) (m : OutMsg) : (s.send m).unmirrored = s.unmirrored := rfl
@[simp] theorem State.send_mirrorPend (s : State) (m : OutMsg) : (s.send m).mirrorPend = s.mirrorPend := rfl
@[simp] theorem State.send_ctlHeld (s : State) (m : OutMsg) : (s.send m).ctlHeld = s.ctlHeld := rfl
@[simp] theorem State.send_regs (s : State) (m : OutMsg) : (s.send m).regs = s.regs := rfl
@[simp] theorem State.send_tokenKey (s : State) (m : OutMsg) : (s.send m).tokenKey = s.tokenKey := rfl
@[simp] theorem State.send_tlb (s : State) (m : OutMsg) : (s.send m).tlb = s.tlb := rfl
@[simp] theorem State.send_prq (s : State) (m : OutMsg) : (s.send m).prq = s.prq := rfl
@[simp] theorem State.send_prqHeld (s : State) (m : OutMsg) : (s.send m).prqHeld = s.prqHeld := rfl
@[simp] theorem State.send_qFail (s : State) (m : OutMsg) : (s.send m).qFail = s.qFail := rfl
@[simp] theorem State.send_ringArmed (s : State) (m : OutMsg) : (s.send m).ringArmed = s.ringArmed := rfl
@[simp] theorem State.send_recCache (s : State) (m : OutMsg) : (s.send m).recCache = s.recCache := rfl
@[simp] theorem State.send_cores (s : State) (m : OutMsg) : (s.send m).cores = s.cores := rfl
@[simp] theorem State.send_harts (s : State) (m : OutMsg) : (s.send m).harts = s.harts := rfl
@[simp] theorem State.send_packs (s : State) (m : OutMsg) : (s.send m).packs = s.packs := rfl
@[simp] theorem State.send_wgs (s : State) (m : OutMsg) : (s.send m).wgs = s.wgs := rfl
@[simp] theorem State.send_launches (s : State) (m : OutMsg) : (s.send m).launches = s.launches := rfl
@[simp] theorem State.send_order (s : State) (m : OutMsg) : (s.send m).order = s.order := rfl
@[simp] theorem State.send_saved (s : State) (m : OutMsg) : (s.send m).saved = s.saved := rfl
@[simp] theorem State.send_releases (s : State) (m : OutMsg) : (s.send m).releases = s.releases := rfl
@[simp] theorem State.send_lastQueue (s : State) (m : OutMsg) : (s.send m).lastQueue = s.lastQueue := rfl
@[simp] theorem State.send_lastCore (s : State) (m : OutMsg) : (s.send m).lastCore = s.lastCore := rfl
@[simp] theorem State.send_starving (s : State) (m : OutMsg) : (s.send m).starving = s.starving := rfl
@[simp] theorem State.send_copies (s : State) (m : OutMsg) : (s.send m).copies = s.copies := rfl
@[simp] theorem State.send_colls (s : State) (m : OutMsg) : (s.send m).colls = s.colls := rfl
@[simp] theorem State.send_collSeq (s : State) (m : OutMsg) : (s.send m).collSeq = s.collSeq := rfl
@[simp] theorem State.send_collHeld (s : State) (m : OutMsg) : (s.send m).collHeld = s.collHeld := rfl
@[simp] theorem State.send_strags (s : State) (m : OutMsg) : (s.send m).strags = s.strags := rfl
@[simp] theorem State.send_remotes (s : State) (m : OutMsg) : (s.send m).remotes = s.remotes := rfl
@[simp] theorem State.send_sent (s : State) (m : OutMsg) : (s.send m).sent = s.sent := rfl
@[simp] theorem State.send_performed (s : State) (m : OutMsg) : (s.send m).performed = s.performed := rfl
@[simp] theorem State.send_lost (s : State) (m : OutMsg) : (s.send m).lost = s.lost := rfl
@[simp] theorem State.send_members (s : State) (m : OutMsg) : (s.send m).members = s.members := rfl
@[simp] theorem State.send_portFails (s : State) (m : OutMsg) : (s.send m).portFails = s.portFails := rfl
@[simp] theorem State.send_planeBw (s : State) (m : OutMsg) : (s.send m).planeBw = s.planeBw := rfl
@[simp] theorem State.send_diePower (s : State) (m : OutMsg) : (s.send m).diePower = s.diePower := rfl
@[simp] theorem State.send_dieIdle (s : State) (m : OutMsg) : (s.send m).dieIdle = s.dieIdle := rfl
@[simp] theorem State.send_chain (s : State) (m : OutMsg) : (s.send m).chain = s.chain := rfl
@[simp] theorem State.send_micro (s : State) (m : OutMsg) : (s.send m).micro = s.micro := rfl
@[simp] theorem State.send_launched (s : State) (m : OutMsg) : (s.send m).launched = s.launched := rfl
@[simp] theorem State.send_lastDone (s : State) (m : OutMsg) : (s.send m).lastDone = s.lastDone := rfl
@[simp] theorem State.send_nextId (s : State) (m : OutMsg) : (s.send m).nextId = s.nextId := rfl
@[simp] theorem State.send_latent (s : State) (m : OutMsg) : (s.send m).latent = s.latent := rfl
@[simp] theorem State.send_shadowErr (s : State) (m : OutMsg) : (s.send m).shadowErr = s.shadowErr := rfl
@[simp] theorem State.send_errors (s : State) (m : OutMsg) : (s.send m).errors = s.errors := rfl
@[simp] theorem State.send_agenda (s : State) (m : OutMsg) : (s.send m).agenda = s.agenda := rfl
@[simp] theorem State.send_cur (s : State) (m : OutMsg) : (s.send m).cur = s.cur := rfl
@[simp] theorem State.send_ownSteps (s : State) (m : OutMsg) : (s.send m).ownSteps = s.ownSteps := rfl
@[simp] theorem State.send_ownDraws (s : State) (m : OutMsg) : (s.send m).ownDraws = s.ownDraws := rfl
@[simp] theorem State.send_ownTurn (s : State) (m : OutMsg) : (s.send m).ownTurn = s.ownTurn := rfl
@[simp] theorem State.send_ownHart (s : State) (m : OutMsg) : (s.send m).ownHart = s.ownHart := rfl

/-! ### State.fresh -/

@[simp] theorem State.fresh_pkgId (s : State) : (s.fresh.2).pkgId = s.pkgId := rfl
@[simp] theorem State.fresh_cycle (s : State) : (s.fresh.2).cycle = s.cycle := rfl
@[simp] theorem State.fresh_boot (s : State) : (s.fresh.2).boot = s.boot := rfl
@[simp] theorem State.fresh_mem (s : State) : (s.fresh.2).mem = s.mem := rfl
@[simp] theorem State.fresh_memPsn (s : State) : (s.fresh.2).memPsn = s.memPsn := rfl
@[simp] theorem State.fresh_lineKey (s : State) : (s.fresh.2).lineKey = s.lineKey := rfl
@[simp] theorem State.fresh_mirror (s : State) : (s.fresh.2).mirror = s.mirror := rfl
@[simp] theorem State.fresh_l1 (s : State) : (s.fresh.2).l1 = s.l1 := rfl
@[simp] theorem State.fresh_prov (s : State) : (s.fresh.2).prov = s.prov := rfl
@[simp] theorem State.fresh_provPsn (s : State) : (s.fresh.2).provPsn = s.provPsn := rfl
@[simp] theorem State.fresh_chip (s : State) : (s.fresh.2).chip = s.chip := rfl
@[simp] theorem State.fresh_chipPsn (s : State) : (s.fresh.2).chipPsn = s.chipPsn := rfl
@[simp] theorem State.fresh_predict (s : State) : (s.fresh.2).predict = s.predict := rfl
@[simp] theorem State.fresh_dir (s : State) : (s.fresh.2).dir = s.dir := rfl
@[simp] theorem State.fresh_unmirrored (s : State) : (s.fresh.2).unmirrored = s.unmirrored := rfl
@[simp] theorem State.fresh_mirrorPend (s : State) : (s.fresh.2).mirrorPend = s.mirrorPend := rfl
@[simp] theorem State.fresh_ctlHeld (s : State) : (s.fresh.2).ctlHeld = s.ctlHeld := rfl
@[simp] theorem State.fresh_regs (s : State) : (s.fresh.2).regs = s.regs := rfl
@[simp] theorem State.fresh_tokenKey (s : State) : (s.fresh.2).tokenKey = s.tokenKey := rfl
@[simp] theorem State.fresh_tlb (s : State) : (s.fresh.2).tlb = s.tlb := rfl
@[simp] theorem State.fresh_prq (s : State) : (s.fresh.2).prq = s.prq := rfl
@[simp] theorem State.fresh_prqHeld (s : State) : (s.fresh.2).prqHeld = s.prqHeld := rfl
@[simp] theorem State.fresh_qFail (s : State) : (s.fresh.2).qFail = s.qFail := rfl
@[simp] theorem State.fresh_ringArmed (s : State) : (s.fresh.2).ringArmed = s.ringArmed := rfl
@[simp] theorem State.fresh_recCache (s : State) : (s.fresh.2).recCache = s.recCache := rfl
@[simp] theorem State.fresh_cores (s : State) : (s.fresh.2).cores = s.cores := rfl
@[simp] theorem State.fresh_harts (s : State) : (s.fresh.2).harts = s.harts := rfl
@[simp] theorem State.fresh_packs (s : State) : (s.fresh.2).packs = s.packs := rfl
@[simp] theorem State.fresh_wgs (s : State) : (s.fresh.2).wgs = s.wgs := rfl
@[simp] theorem State.fresh_launches (s : State) : (s.fresh.2).launches = s.launches := rfl
@[simp] theorem State.fresh_order (s : State) : (s.fresh.2).order = s.order := rfl
@[simp] theorem State.fresh_saved (s : State) : (s.fresh.2).saved = s.saved := rfl
@[simp] theorem State.fresh_releases (s : State) : (s.fresh.2).releases = s.releases := rfl
@[simp] theorem State.fresh_lastQueue (s : State) : (s.fresh.2).lastQueue = s.lastQueue := rfl
@[simp] theorem State.fresh_lastCore (s : State) : (s.fresh.2).lastCore = s.lastCore := rfl
@[simp] theorem State.fresh_starving (s : State) : (s.fresh.2).starving = s.starving := rfl
@[simp] theorem State.fresh_copies (s : State) : (s.fresh.2).copies = s.copies := rfl
@[simp] theorem State.fresh_colls (s : State) : (s.fresh.2).colls = s.colls := rfl
@[simp] theorem State.fresh_collSeq (s : State) : (s.fresh.2).collSeq = s.collSeq := rfl
@[simp] theorem State.fresh_collHeld (s : State) : (s.fresh.2).collHeld = s.collHeld := rfl
@[simp] theorem State.fresh_strags (s : State) : (s.fresh.2).strags = s.strags := rfl
@[simp] theorem State.fresh_remotes (s : State) : (s.fresh.2).remotes = s.remotes := rfl
@[simp] theorem State.fresh_sent (s : State) : (s.fresh.2).sent = s.sent := rfl
@[simp] theorem State.fresh_performed (s : State) : (s.fresh.2).performed = s.performed := rfl
@[simp] theorem State.fresh_lost (s : State) : (s.fresh.2).lost = s.lost := rfl
@[simp] theorem State.fresh_members (s : State) : (s.fresh.2).members = s.members := rfl
@[simp] theorem State.fresh_portFails (s : State) : (s.fresh.2).portFails = s.portFails := rfl
@[simp] theorem State.fresh_planeBw (s : State) : (s.fresh.2).planeBw = s.planeBw := rfl
@[simp] theorem State.fresh_diePower (s : State) : (s.fresh.2).diePower = s.diePower := rfl
@[simp] theorem State.fresh_dieIdle (s : State) : (s.fresh.2).dieIdle = s.dieIdle := rfl
@[simp] theorem State.fresh_chain (s : State) : (s.fresh.2).chain = s.chain := rfl
@[simp] theorem State.fresh_micro (s : State) : (s.fresh.2).micro = s.micro := rfl
@[simp] theorem State.fresh_launched (s : State) : (s.fresh.2).launched = s.launched := rfl
@[simp] theorem State.fresh_lastDone (s : State) : (s.fresh.2).lastDone = s.lastDone := rfl
@[simp] theorem State.fresh_latent (s : State) : (s.fresh.2).latent = s.latent := rfl
@[simp] theorem State.fresh_shadowErr (s : State) : (s.fresh.2).shadowErr = s.shadowErr := rfl
@[simp] theorem State.fresh_errors (s : State) : (s.fresh.2).errors = s.errors := rfl
@[simp] theorem State.fresh_outbox (s : State) : (s.fresh.2).outbox = s.outbox := rfl
@[simp] theorem State.fresh_agenda (s : State) : (s.fresh.2).agenda = s.agenda := rfl
@[simp] theorem State.fresh_cur (s : State) : (s.fresh.2).cur = s.cur := rfl
@[simp] theorem State.fresh_ownSteps (s : State) : (s.fresh.2).ownSteps = s.ownSteps := rfl
@[simp] theorem State.fresh_ownDraws (s : State) : (s.fresh.2).ownDraws = s.ownDraws := rfl
@[simp] theorem State.fresh_ownTurn (s : State) : (s.fresh.2).ownTurn = s.ownTurn := rfl
@[simp] theorem State.fresh_ownHart (s : State) : (s.fresh.2).ownHart = s.ownHart := rfl

/-! ### State.draw -/

@[simp] theorem State.draw_pkgId (s : State) : (s.draw.2).pkgId = s.pkgId := rfl
@[simp] theorem State.draw_cycle (s : State) : (s.draw.2).cycle = s.cycle := rfl
@[simp] theorem State.draw_boot (s : State) : (s.draw.2).boot = s.boot := rfl
@[simp] theorem State.draw_mem (s : State) : (s.draw.2).mem = s.mem := rfl
@[simp] theorem State.draw_memPsn (s : State) : (s.draw.2).memPsn = s.memPsn := rfl
@[simp] theorem State.draw_lineKey (s : State) : (s.draw.2).lineKey = s.lineKey := rfl
@[simp] theorem State.draw_mirror (s : State) : (s.draw.2).mirror = s.mirror := rfl
@[simp] theorem State.draw_l1 (s : State) : (s.draw.2).l1 = s.l1 := rfl
@[simp] theorem State.draw_prov (s : State) : (s.draw.2).prov = s.prov := rfl
@[simp] theorem State.draw_provPsn (s : State) : (s.draw.2).provPsn = s.provPsn := rfl
@[simp] theorem State.draw_chip (s : State) : (s.draw.2).chip = s.chip := rfl
@[simp] theorem State.draw_chipPsn (s : State) : (s.draw.2).chipPsn = s.chipPsn := rfl
@[simp] theorem State.draw_predict (s : State) : (s.draw.2).predict = s.predict := rfl
@[simp] theorem State.draw_dir (s : State) : (s.draw.2).dir = s.dir := rfl
@[simp] theorem State.draw_unmirrored (s : State) : (s.draw.2).unmirrored = s.unmirrored := rfl
@[simp] theorem State.draw_mirrorPend (s : State) : (s.draw.2).mirrorPend = s.mirrorPend := rfl
@[simp] theorem State.draw_ctlHeld (s : State) : (s.draw.2).ctlHeld = s.ctlHeld := rfl
@[simp] theorem State.draw_regs (s : State) : (s.draw.2).regs = s.regs := rfl
@[simp] theorem State.draw_tokenKey (s : State) : (s.draw.2).tokenKey = s.tokenKey := rfl
@[simp] theorem State.draw_tlb (s : State) : (s.draw.2).tlb = s.tlb := rfl
@[simp] theorem State.draw_prq (s : State) : (s.draw.2).prq = s.prq := rfl
@[simp] theorem State.draw_prqHeld (s : State) : (s.draw.2).prqHeld = s.prqHeld := rfl
@[simp] theorem State.draw_qFail (s : State) : (s.draw.2).qFail = s.qFail := rfl
@[simp] theorem State.draw_ringArmed (s : State) : (s.draw.2).ringArmed = s.ringArmed := rfl
@[simp] theorem State.draw_recCache (s : State) : (s.draw.2).recCache = s.recCache := rfl
@[simp] theorem State.draw_cores (s : State) : (s.draw.2).cores = s.cores := rfl
@[simp] theorem State.draw_harts (s : State) : (s.draw.2).harts = s.harts := rfl
@[simp] theorem State.draw_packs (s : State) : (s.draw.2).packs = s.packs := rfl
@[simp] theorem State.draw_wgs (s : State) : (s.draw.2).wgs = s.wgs := rfl
@[simp] theorem State.draw_launches (s : State) : (s.draw.2).launches = s.launches := rfl
@[simp] theorem State.draw_order (s : State) : (s.draw.2).order = s.order := rfl
@[simp] theorem State.draw_saved (s : State) : (s.draw.2).saved = s.saved := rfl
@[simp] theorem State.draw_releases (s : State) : (s.draw.2).releases = s.releases := rfl
@[simp] theorem State.draw_lastQueue (s : State) : (s.draw.2).lastQueue = s.lastQueue := rfl
@[simp] theorem State.draw_lastCore (s : State) : (s.draw.2).lastCore = s.lastCore := rfl
@[simp] theorem State.draw_starving (s : State) : (s.draw.2).starving = s.starving := rfl
@[simp] theorem State.draw_copies (s : State) : (s.draw.2).copies = s.copies := rfl
@[simp] theorem State.draw_colls (s : State) : (s.draw.2).colls = s.colls := rfl
@[simp] theorem State.draw_collSeq (s : State) : (s.draw.2).collSeq = s.collSeq := rfl
@[simp] theorem State.draw_collHeld (s : State) : (s.draw.2).collHeld = s.collHeld := rfl
@[simp] theorem State.draw_strags (s : State) : (s.draw.2).strags = s.strags := rfl
@[simp] theorem State.draw_remotes (s : State) : (s.draw.2).remotes = s.remotes := rfl
@[simp] theorem State.draw_sent (s : State) : (s.draw.2).sent = s.sent := rfl
@[simp] theorem State.draw_performed (s : State) : (s.draw.2).performed = s.performed := rfl
@[simp] theorem State.draw_lost (s : State) : (s.draw.2).lost = s.lost := rfl
@[simp] theorem State.draw_members (s : State) : (s.draw.2).members = s.members := rfl
@[simp] theorem State.draw_portFails (s : State) : (s.draw.2).portFails = s.portFails := rfl
@[simp] theorem State.draw_planeBw (s : State) : (s.draw.2).planeBw = s.planeBw := rfl
@[simp] theorem State.draw_diePower (s : State) : (s.draw.2).diePower = s.diePower := rfl
@[simp] theorem State.draw_dieIdle (s : State) : (s.draw.2).dieIdle = s.dieIdle := rfl
@[simp] theorem State.draw_chain (s : State) : (s.draw.2).chain = s.chain := rfl
@[simp] theorem State.draw_micro (s : State) : (s.draw.2).micro = s.micro := rfl
@[simp] theorem State.draw_launched (s : State) : (s.draw.2).launched = s.launched := rfl
@[simp] theorem State.draw_lastDone (s : State) : (s.draw.2).lastDone = s.lastDone := rfl
@[simp] theorem State.draw_nextId (s : State) : (s.draw.2).nextId = s.nextId := rfl
@[simp] theorem State.draw_latent (s : State) : (s.draw.2).latent = s.latent := rfl
@[simp] theorem State.draw_shadowErr (s : State) : (s.draw.2).shadowErr = s.shadowErr := rfl
@[simp] theorem State.draw_errors (s : State) : (s.draw.2).errors = s.errors := rfl
@[simp] theorem State.draw_outbox (s : State) : (s.draw.2).outbox = s.outbox := rfl
@[simp] theorem State.draw_agenda (s : State) : (s.draw.2).agenda = s.agenda := rfl
@[simp] theorem State.draw_cur (s : State) : (s.draw.2).cur = s.cur := rfl
@[simp] theorem State.draw_ownSteps (s : State) : (s.draw.2).ownSteps = s.ownSteps := rfl
@[simp] theorem State.draw_ownTurn (s : State) : (s.draw.2).ownTurn = s.ownTurn := rfl
@[simp] theorem State.draw_ownHart (s : State) : (s.draw.2).ownHart = s.ownHart := rfl

/-! ### State.setHart -/

@[simp] theorem State.setHart_pkgId (s : State) (h : Nat) (k : Hart) : (s.setHart h k).pkgId = s.pkgId := rfl
@[simp] theorem State.setHart_cycle (s : State) (h : Nat) (k : Hart) : (s.setHart h k).cycle = s.cycle := rfl
@[simp] theorem State.setHart_boot (s : State) (h : Nat) (k : Hart) : (s.setHart h k).boot = s.boot := rfl
@[simp] theorem State.setHart_mem (s : State) (h : Nat) (k : Hart) : (s.setHart h k).mem = s.mem := rfl
@[simp] theorem State.setHart_memPsn (s : State) (h : Nat) (k : Hart) : (s.setHart h k).memPsn = s.memPsn := rfl
@[simp] theorem State.setHart_lineKey (s : State) (h : Nat) (k : Hart) : (s.setHart h k).lineKey = s.lineKey := rfl
@[simp] theorem State.setHart_mirror (s : State) (h : Nat) (k : Hart) : (s.setHart h k).mirror = s.mirror := rfl
@[simp] theorem State.setHart_l1 (s : State) (h : Nat) (k : Hart) : (s.setHart h k).l1 = s.l1 := rfl
@[simp] theorem State.setHart_prov (s : State) (h : Nat) (k : Hart) : (s.setHart h k).prov = s.prov := rfl
@[simp] theorem State.setHart_provPsn (s : State) (h : Nat) (k : Hart) : (s.setHart h k).provPsn = s.provPsn := rfl
@[simp] theorem State.setHart_chip (s : State) (h : Nat) (k : Hart) : (s.setHart h k).chip = s.chip := rfl
@[simp] theorem State.setHart_chipPsn (s : State) (h : Nat) (k : Hart) : (s.setHart h k).chipPsn = s.chipPsn := rfl
@[simp] theorem State.setHart_predict (s : State) (h : Nat) (k : Hart) : (s.setHart h k).predict = s.predict := rfl
@[simp] theorem State.setHart_dir (s : State) (h : Nat) (k : Hart) : (s.setHart h k).dir = s.dir := rfl
@[simp] theorem State.setHart_unmirrored (s : State) (h : Nat) (k : Hart) : (s.setHart h k).unmirrored = s.unmirrored := rfl
@[simp] theorem State.setHart_mirrorPend (s : State) (h : Nat) (k : Hart) : (s.setHart h k).mirrorPend = s.mirrorPend := rfl
@[simp] theorem State.setHart_ctlHeld (s : State) (h : Nat) (k : Hart) : (s.setHart h k).ctlHeld = s.ctlHeld := rfl
@[simp] theorem State.setHart_regs (s : State) (h : Nat) (k : Hart) : (s.setHart h k).regs = s.regs := rfl
@[simp] theorem State.setHart_tokenKey (s : State) (h : Nat) (k : Hart) : (s.setHart h k).tokenKey = s.tokenKey := rfl
@[simp] theorem State.setHart_tlb (s : State) (h : Nat) (k : Hart) : (s.setHart h k).tlb = s.tlb := rfl
@[simp] theorem State.setHart_prq (s : State) (h : Nat) (k : Hart) : (s.setHart h k).prq = s.prq := rfl
@[simp] theorem State.setHart_prqHeld (s : State) (h : Nat) (k : Hart) : (s.setHart h k).prqHeld = s.prqHeld := rfl
@[simp] theorem State.setHart_qFail (s : State) (h : Nat) (k : Hart) : (s.setHart h k).qFail = s.qFail := rfl
@[simp] theorem State.setHart_ringArmed (s : State) (h : Nat) (k : Hart) : (s.setHart h k).ringArmed = s.ringArmed := rfl
@[simp] theorem State.setHart_recCache (s : State) (h : Nat) (k : Hart) : (s.setHart h k).recCache = s.recCache := rfl
@[simp] theorem State.setHart_cores (s : State) (h : Nat) (k : Hart) : (s.setHart h k).cores = s.cores := rfl
@[simp] theorem State.setHart_packs (s : State) (h : Nat) (k : Hart) : (s.setHart h k).packs = s.packs := rfl
@[simp] theorem State.setHart_wgs (s : State) (h : Nat) (k : Hart) : (s.setHart h k).wgs = s.wgs := rfl
@[simp] theorem State.setHart_launches (s : State) (h : Nat) (k : Hart) : (s.setHart h k).launches = s.launches := rfl
@[simp] theorem State.setHart_order (s : State) (h : Nat) (k : Hart) : (s.setHart h k).order = s.order := rfl
@[simp] theorem State.setHart_saved (s : State) (h : Nat) (k : Hart) : (s.setHart h k).saved = s.saved := rfl
@[simp] theorem State.setHart_releases (s : State) (h : Nat) (k : Hart) : (s.setHart h k).releases = s.releases := rfl
@[simp] theorem State.setHart_lastQueue (s : State) (h : Nat) (k : Hart) : (s.setHart h k).lastQueue = s.lastQueue := rfl
@[simp] theorem State.setHart_lastCore (s : State) (h : Nat) (k : Hart) : (s.setHart h k).lastCore = s.lastCore := rfl
@[simp] theorem State.setHart_starving (s : State) (h : Nat) (k : Hart) : (s.setHart h k).starving = s.starving := rfl
@[simp] theorem State.setHart_copies (s : State) (h : Nat) (k : Hart) : (s.setHart h k).copies = s.copies := rfl
@[simp] theorem State.setHart_colls (s : State) (h : Nat) (k : Hart) : (s.setHart h k).colls = s.colls := rfl
@[simp] theorem State.setHart_collSeq (s : State) (h : Nat) (k : Hart) : (s.setHart h k).collSeq = s.collSeq := rfl
@[simp] theorem State.setHart_collHeld (s : State) (h : Nat) (k : Hart) : (s.setHart h k).collHeld = s.collHeld := rfl
@[simp] theorem State.setHart_strags (s : State) (h : Nat) (k : Hart) : (s.setHart h k).strags = s.strags := rfl
@[simp] theorem State.setHart_remotes (s : State) (h : Nat) (k : Hart) : (s.setHart h k).remotes = s.remotes := rfl
@[simp] theorem State.setHart_sent (s : State) (h : Nat) (k : Hart) : (s.setHart h k).sent = s.sent := rfl
@[simp] theorem State.setHart_performed (s : State) (h : Nat) (k : Hart) : (s.setHart h k).performed = s.performed := rfl
@[simp] theorem State.setHart_lost (s : State) (h : Nat) (k : Hart) : (s.setHart h k).lost = s.lost := rfl
@[simp] theorem State.setHart_members (s : State) (h : Nat) (k : Hart) : (s.setHart h k).members = s.members := rfl
@[simp] theorem State.setHart_portFails (s : State) (h : Nat) (k : Hart) : (s.setHart h k).portFails = s.portFails := rfl
@[simp] theorem State.setHart_planeBw (s : State) (h : Nat) (k : Hart) : (s.setHart h k).planeBw = s.planeBw := rfl
@[simp] theorem State.setHart_diePower (s : State) (h : Nat) (k : Hart) : (s.setHart h k).diePower = s.diePower := rfl
@[simp] theorem State.setHart_dieIdle (s : State) (h : Nat) (k : Hart) : (s.setHart h k).dieIdle = s.dieIdle := rfl
@[simp] theorem State.setHart_chain (s : State) (h : Nat) (k : Hart) : (s.setHart h k).chain = s.chain := rfl
@[simp] theorem State.setHart_micro (s : State) (h : Nat) (k : Hart) : (s.setHart h k).micro = s.micro := rfl
@[simp] theorem State.setHart_launched (s : State) (h : Nat) (k : Hart) : (s.setHart h k).launched = s.launched := rfl
@[simp] theorem State.setHart_lastDone (s : State) (h : Nat) (k : Hart) : (s.setHart h k).lastDone = s.lastDone := rfl
@[simp] theorem State.setHart_nextId (s : State) (h : Nat) (k : Hart) : (s.setHart h k).nextId = s.nextId := rfl
@[simp] theorem State.setHart_latent (s : State) (h : Nat) (k : Hart) : (s.setHart h k).latent = s.latent := rfl
@[simp] theorem State.setHart_shadowErr (s : State) (h : Nat) (k : Hart) : (s.setHart h k).shadowErr = s.shadowErr := rfl
@[simp] theorem State.setHart_errors (s : State) (h : Nat) (k : Hart) : (s.setHart h k).errors = s.errors := rfl
@[simp] theorem State.setHart_outbox (s : State) (h : Nat) (k : Hart) : (s.setHart h k).outbox = s.outbox := rfl
@[simp] theorem State.setHart_agenda (s : State) (h : Nat) (k : Hart) : (s.setHart h k).agenda = s.agenda := rfl
@[simp] theorem State.setHart_cur (s : State) (h : Nat) (k : Hart) : (s.setHart h k).cur = s.cur := rfl
@[simp] theorem State.setHart_ownSteps (s : State) (h : Nat) (k : Hart) : (s.setHart h k).ownSteps = s.ownSteps := rfl
@[simp] theorem State.setHart_ownDraws (s : State) (h : Nat) (k : Hart) : (s.setHart h k).ownDraws = s.ownDraws := rfl
@[simp] theorem State.setHart_ownTurn (s : State) (h : Nat) (k : Hart) : (s.setHart h k).ownTurn = s.ownTurn := rfl
@[simp] theorem State.setHart_ownHart (s : State) (h : Nat) (k : Hart) : (s.setHart h k).ownHart = s.ownHart := rfl

/-! ### Pack.updLane -/

@[simp] theorem Pack.updLane_wg (p : Pack) (l : Nat) (f : Lane → Lane) : (p.updLane l f).wg = p.wg := rfl
@[simp] theorem Pack.updLane_pkid (p : Pack) (l : Nat) (f : Lane → Lane) : (p.updLane l f).pkid = p.pkid := rfl
@[simp] theorem Pack.updLane_ctx (p : Pack) (l : Nat) (f : Lane → Lane) : (p.updLane l f).ctx = p.ctx := rfl
@[simp] theorem Pack.updLane_frames (p : Pack) (l : Nat) (f : Lane → Lane) : (p.updLane l f).frames = p.frames := rfl
@[simp] theorem Pack.updLane_trapFrame (p : Pack) (l : Nat) (f : Lane → Lane) : (p.updLane l f).trapFrame = p.trapFrame := rfl
@[simp] theorem Pack.updLane_trapRuns (p : Pack) (l : Nat) (f : Lane → Lane) : (p.updLane l f).trapRuns = p.trapRuns := rfl
@[simp] theorem Pack.updLane_s (p : Pack) (l : Nat) (f : Lane → Lane) : (p.updLane l f).s = p.s := rfl
@[simp] theorem Pack.updLane_m (p : Pack) (l : Nat) (f : Lane → Lane) : (p.updLane l f).m = p.m := rfl
@[simp] theorem Pack.updLane_fpc (p : Pack) (l : Nat) (f : Lane → Lane) : (p.updLane l f).fpc = p.fpc := rfl
@[simp] theorem Pack.updLane_handler (p : Pack) (l : Nat) (f : Lane → Lane) : (p.updLane l f).handler = p.handler := rfl
@[simp] theorem Pack.updLane_svc (p : Pack) (l : Nat) (f : Lane → Lane) : (p.updLane l f).svc = p.svc := rfl
@[simp] theorem Pack.updLane_pending (p : Pack) (l : Nat) (f : Lane → Lane) : (p.updLane l f).pending = p.pending := rfl
@[simp] theorem Pack.updLane_lastAct (p : Pack) (l : Nat) (f : Lane → Lane) : (p.updLane l f).lastAct = p.lastAct := rfl
@[simp] theorem Pack.updLane_toks (p : Pack) (l : Nat) (f : Lane → Lane) : (p.updLane l f).toks = p.toks := rfl
@[simp] theorem Pack.updLane_tcq (p : Pack) (l : Nat) (f : Lane → Lane) : (p.updLane l f).tcq = p.tcq := rfl
@[simp] theorem Pack.updLane_flushes (p : Pack) (l : Nat) (f : Lane → Lane) : (p.updLane l f).flushes = p.flushes := rfl
@[simp] theorem Pack.updLane_collq (p : Pack) (l : Nat) (f : Lane → Lane) : (p.updLane l f).collq = p.collq := rfl
@[simp] theorem Pack.updLane_park (p : Pack) (l : Nat) (f : Lane → Lane) : (p.updLane l f).park = p.park := rfl
@[simp] theorem Pack.updLane_ownPark (p : Pack) (l : Nat) (f : Lane → Lane) : (p.updLane l f).ownPark = p.ownPark := rfl
@[simp] theorem Pack.updLane_stepping (p : Pack) (l : Nat) (f : Lane → Lane) : (p.updLane l f).stepping = p.stepping := rfl
@[simp] theorem Pack.updLane_evicted (p : Pack) (l : Nat) (f : Lane → Lane) : (p.updLane l f).evicted = p.evicted := rfl
@[simp] theorem Pack.updLane_evictAt (p : Pack) (l : Nat) (f : Lane → Lane) : (p.updLane l f).evictAt = p.evictAt := rfl
@[simp] theorem Pack.updLane_req (p : Pack) (l : Nat) (f : Lane → Lane) : (p.updLane l f).req = p.req := rfl
@[simp] theorem Pack.updLane_bars (p : Pack) (l : Nat) (f : Lane → Lane) : (p.updLane l f).bars = p.bars := rfl
@[simp] theorem Pack.updLane_evpend (p : Pack) (l : Nat) (f : Lane → Lane) : (p.updLane l f).evpend = p.evpend := rfl
@[simp] theorem Pack.updLane_waitev (p : Pack) (l : Nat) (f : Lane → Lane) : (p.updLane l f).waitev = p.waitev := rfl
@[simp] theorem Pack.updLane_spills (p : Pack) (l : Nat) (f : Lane → Lane) : (p.updLane l f).spills = p.spills := rfl
@[simp] theorem Pack.updLane_refills (p : Pack) (l : Nat) (f : Lane → Lane) : (p.updLane l f).refills = p.refills := rfl
@[simp] theorem Pack.updLane_evicts (p : Pack) (l : Nat) (f : Lane → Lane) : (p.updLane l f).evicts = p.evicts := rfl
@[simp] theorem Pack.updLane_traps (p : Pack) (l : Nat) (f : Lane → Lane) : (p.updLane l f).traps = p.traps := rfl
@[simp] theorem Pack.updLane_collStatus (p : Pack) (l : Nat) (f : Lane → Lane) : (p.updLane l f).collStatus = p.collStatus := rfl
@[simp] theorem Pack.updLane_passed (p : Pack) (l : Nat) (f : Lane → Lane) : (p.updLane l f).passed = p.passed := rfl
@[simp] theorem Pack.updLane_aged (p : Pack) (l : Nat) (f : Lane → Lane) : (p.updLane l f).aged = p.aged := rfl
@[simp] theorem Pack.updLane_lastIg (p : Pack) (l : Nat) (f : Lane → Lane) : (p.updLane l f).lastIg = p.lastIg := rfl
@[simp] theorem Pack.updLane_recSeq (p : Pack) (l : Nat) (f : Lane → Lane) : (p.updLane l f).recSeq = p.recSeq := rfl
@[simp] theorem Pack.updLane_copySeq (p : Pack) (l : Nat) (f : Lane → Lane) : (p.updLane l f).copySeq = p.copySeq := rfl
@[simp] theorem Pack.updLane_ownStall (p : Pack) (l : Nat) (f : Lane → Lane) : (p.updLane l f).ownStall = p.ownStall := rfl
@[simp] theorem Pack.updLane_ownCause (p : Pack) (l : Nat) (f : Lane → Lane) : (p.updLane l f).ownCause = p.ownCause := rfl

/-! ### Pack.setS -/

@[simp] theorem Pack.setS_wg (p : Pack) (n : Nat) (v : DWord) : (p.setS n v).wg = p.wg := rfl
@[simp] theorem Pack.setS_pkid (p : Pack) (n : Nat) (v : DWord) : (p.setS n v).pkid = p.pkid := rfl
@[simp] theorem Pack.setS_ctx (p : Pack) (n : Nat) (v : DWord) : (p.setS n v).ctx = p.ctx := rfl
@[simp] theorem Pack.setS_lanes (p : Pack) (n : Nat) (v : DWord) : (p.setS n v).lanes = p.lanes := rfl
@[simp] theorem Pack.setS_frames (p : Pack) (n : Nat) (v : DWord) : (p.setS n v).frames = p.frames := rfl
@[simp] theorem Pack.setS_trapFrame (p : Pack) (n : Nat) (v : DWord) : (p.setS n v).trapFrame = p.trapFrame := rfl
@[simp] theorem Pack.setS_trapRuns (p : Pack) (n : Nat) (v : DWord) : (p.setS n v).trapRuns = p.trapRuns := rfl
@[simp] theorem Pack.setS_m (p : Pack) (n : Nat) (v : DWord) : (p.setS n v).m = p.m := rfl
@[simp] theorem Pack.setS_fpc (p : Pack) (n : Nat) (v : DWord) : (p.setS n v).fpc = p.fpc := rfl
@[simp] theorem Pack.setS_handler (p : Pack) (n : Nat) (v : DWord) : (p.setS n v).handler = p.handler := rfl
@[simp] theorem Pack.setS_svc (p : Pack) (n : Nat) (v : DWord) : (p.setS n v).svc = p.svc := rfl
@[simp] theorem Pack.setS_pending (p : Pack) (n : Nat) (v : DWord) : (p.setS n v).pending = p.pending := rfl
@[simp] theorem Pack.setS_lastAct (p : Pack) (n : Nat) (v : DWord) : (p.setS n v).lastAct = p.lastAct := rfl
@[simp] theorem Pack.setS_toks (p : Pack) (n : Nat) (v : DWord) : (p.setS n v).toks = p.toks := rfl
@[simp] theorem Pack.setS_tcq (p : Pack) (n : Nat) (v : DWord) : (p.setS n v).tcq = p.tcq := rfl
@[simp] theorem Pack.setS_flushes (p : Pack) (n : Nat) (v : DWord) : (p.setS n v).flushes = p.flushes := rfl
@[simp] theorem Pack.setS_collq (p : Pack) (n : Nat) (v : DWord) : (p.setS n v).collq = p.collq := rfl
@[simp] theorem Pack.setS_park (p : Pack) (n : Nat) (v : DWord) : (p.setS n v).park = p.park := rfl
@[simp] theorem Pack.setS_ownPark (p : Pack) (n : Nat) (v : DWord) : (p.setS n v).ownPark = p.ownPark := rfl
@[simp] theorem Pack.setS_stepping (p : Pack) (n : Nat) (v : DWord) : (p.setS n v).stepping = p.stepping := rfl
@[simp] theorem Pack.setS_evicted (p : Pack) (n : Nat) (v : DWord) : (p.setS n v).evicted = p.evicted := rfl
@[simp] theorem Pack.setS_evictAt (p : Pack) (n : Nat) (v : DWord) : (p.setS n v).evictAt = p.evictAt := rfl
@[simp] theorem Pack.setS_req (p : Pack) (n : Nat) (v : DWord) : (p.setS n v).req = p.req := rfl
@[simp] theorem Pack.setS_bars (p : Pack) (n : Nat) (v : DWord) : (p.setS n v).bars = p.bars := rfl
@[simp] theorem Pack.setS_evpend (p : Pack) (n : Nat) (v : DWord) : (p.setS n v).evpend = p.evpend := rfl
@[simp] theorem Pack.setS_waitev (p : Pack) (n : Nat) (v : DWord) : (p.setS n v).waitev = p.waitev := rfl
@[simp] theorem Pack.setS_spills (p : Pack) (n : Nat) (v : DWord) : (p.setS n v).spills = p.spills := rfl
@[simp] theorem Pack.setS_refills (p : Pack) (n : Nat) (v : DWord) : (p.setS n v).refills = p.refills := rfl
@[simp] theorem Pack.setS_evicts (p : Pack) (n : Nat) (v : DWord) : (p.setS n v).evicts = p.evicts := rfl
@[simp] theorem Pack.setS_traps (p : Pack) (n : Nat) (v : DWord) : (p.setS n v).traps = p.traps := rfl
@[simp] theorem Pack.setS_collStatus (p : Pack) (n : Nat) (v : DWord) : (p.setS n v).collStatus = p.collStatus := rfl
@[simp] theorem Pack.setS_passed (p : Pack) (n : Nat) (v : DWord) : (p.setS n v).passed = p.passed := rfl
@[simp] theorem Pack.setS_aged (p : Pack) (n : Nat) (v : DWord) : (p.setS n v).aged = p.aged := rfl
@[simp] theorem Pack.setS_lastIg (p : Pack) (n : Nat) (v : DWord) : (p.setS n v).lastIg = p.lastIg := rfl
@[simp] theorem Pack.setS_recSeq (p : Pack) (n : Nat) (v : DWord) : (p.setS n v).recSeq = p.recSeq := rfl
@[simp] theorem Pack.setS_copySeq (p : Pack) (n : Nat) (v : DWord) : (p.setS n v).copySeq = p.copySeq := rfl
@[simp] theorem Pack.setS_ownStall (p : Pack) (n : Nat) (v : DWord) : (p.setS n v).ownStall = p.ownStall := rfl
@[simp] theorem Pack.setS_ownCause (p : Pack) (n : Nat) (v : DWord) : (p.setS n v).ownCause = p.ownCause := rfl

/-! ### Pack.setM -/

@[simp] theorem Pack.setM_wg (p : Pack) (n : Nat) (a b : Word) : (p.setM n a b).wg = p.wg := by unfold Pack.setM; split <;> rfl
@[simp] theorem Pack.setM_pkid (p : Pack) (n : Nat) (a b : Word) : (p.setM n a b).pkid = p.pkid := by unfold Pack.setM; split <;> rfl
@[simp] theorem Pack.setM_ctx (p : Pack) (n : Nat) (a b : Word) : (p.setM n a b).ctx = p.ctx := by unfold Pack.setM; split <;> rfl
@[simp] theorem Pack.setM_lanes (p : Pack) (n : Nat) (a b : Word) : (p.setM n a b).lanes = p.lanes := by unfold Pack.setM; split <;> rfl
@[simp] theorem Pack.setM_frames (p : Pack) (n : Nat) (a b : Word) : (p.setM n a b).frames = p.frames := by unfold Pack.setM; split <;> rfl
@[simp] theorem Pack.setM_trapFrame (p : Pack) (n : Nat) (a b : Word) : (p.setM n a b).trapFrame = p.trapFrame := by unfold Pack.setM; split <;> rfl
@[simp] theorem Pack.setM_trapRuns (p : Pack) (n : Nat) (a b : Word) : (p.setM n a b).trapRuns = p.trapRuns := by unfold Pack.setM; split <;> rfl
@[simp] theorem Pack.setM_s (p : Pack) (n : Nat) (a b : Word) : (p.setM n a b).s = p.s := by unfold Pack.setM; split <;> rfl
@[simp] theorem Pack.setM_fpc (p : Pack) (n : Nat) (a b : Word) : (p.setM n a b).fpc = p.fpc := by unfold Pack.setM; split <;> rfl
@[simp] theorem Pack.setM_handler (p : Pack) (n : Nat) (a b : Word) : (p.setM n a b).handler = p.handler := by unfold Pack.setM; split <;> rfl
@[simp] theorem Pack.setM_svc (p : Pack) (n : Nat) (a b : Word) : (p.setM n a b).svc = p.svc := by unfold Pack.setM; split <;> rfl
@[simp] theorem Pack.setM_pending (p : Pack) (n : Nat) (a b : Word) : (p.setM n a b).pending = p.pending := by unfold Pack.setM; split <;> rfl
@[simp] theorem Pack.setM_lastAct (p : Pack) (n : Nat) (a b : Word) : (p.setM n a b).lastAct = p.lastAct := by unfold Pack.setM; split <;> rfl
@[simp] theorem Pack.setM_toks (p : Pack) (n : Nat) (a b : Word) : (p.setM n a b).toks = p.toks := by unfold Pack.setM; split <;> rfl
@[simp] theorem Pack.setM_tcq (p : Pack) (n : Nat) (a b : Word) : (p.setM n a b).tcq = p.tcq := by unfold Pack.setM; split <;> rfl
@[simp] theorem Pack.setM_flushes (p : Pack) (n : Nat) (a b : Word) : (p.setM n a b).flushes = p.flushes := by unfold Pack.setM; split <;> rfl
@[simp] theorem Pack.setM_collq (p : Pack) (n : Nat) (a b : Word) : (p.setM n a b).collq = p.collq := by unfold Pack.setM; split <;> rfl
@[simp] theorem Pack.setM_park (p : Pack) (n : Nat) (a b : Word) : (p.setM n a b).park = p.park := by unfold Pack.setM; split <;> rfl
@[simp] theorem Pack.setM_ownPark (p : Pack) (n : Nat) (a b : Word) : (p.setM n a b).ownPark = p.ownPark := by unfold Pack.setM; split <;> rfl
@[simp] theorem Pack.setM_stepping (p : Pack) (n : Nat) (a b : Word) : (p.setM n a b).stepping = p.stepping := by unfold Pack.setM; split <;> rfl
@[simp] theorem Pack.setM_evicted (p : Pack) (n : Nat) (a b : Word) : (p.setM n a b).evicted = p.evicted := by unfold Pack.setM; split <;> rfl
@[simp] theorem Pack.setM_evictAt (p : Pack) (n : Nat) (a b : Word) : (p.setM n a b).evictAt = p.evictAt := by unfold Pack.setM; split <;> rfl
@[simp] theorem Pack.setM_req (p : Pack) (n : Nat) (a b : Word) : (p.setM n a b).req = p.req := by unfold Pack.setM; split <;> rfl
@[simp] theorem Pack.setM_bars (p : Pack) (n : Nat) (a b : Word) : (p.setM n a b).bars = p.bars := by unfold Pack.setM; split <;> rfl
@[simp] theorem Pack.setM_evpend (p : Pack) (n : Nat) (a b : Word) : (p.setM n a b).evpend = p.evpend := by unfold Pack.setM; split <;> rfl
@[simp] theorem Pack.setM_waitev (p : Pack) (n : Nat) (a b : Word) : (p.setM n a b).waitev = p.waitev := by unfold Pack.setM; split <;> rfl
@[simp] theorem Pack.setM_spills (p : Pack) (n : Nat) (a b : Word) : (p.setM n a b).spills = p.spills := by unfold Pack.setM; split <;> rfl
@[simp] theorem Pack.setM_refills (p : Pack) (n : Nat) (a b : Word) : (p.setM n a b).refills = p.refills := by unfold Pack.setM; split <;> rfl
@[simp] theorem Pack.setM_evicts (p : Pack) (n : Nat) (a b : Word) : (p.setM n a b).evicts = p.evicts := by unfold Pack.setM; split <;> rfl
@[simp] theorem Pack.setM_traps (p : Pack) (n : Nat) (a b : Word) : (p.setM n a b).traps = p.traps := by unfold Pack.setM; split <;> rfl
@[simp] theorem Pack.setM_collStatus (p : Pack) (n : Nat) (a b : Word) : (p.setM n a b).collStatus = p.collStatus := by unfold Pack.setM; split <;> rfl
@[simp] theorem Pack.setM_passed (p : Pack) (n : Nat) (a b : Word) : (p.setM n a b).passed = p.passed := by unfold Pack.setM; split <;> rfl
@[simp] theorem Pack.setM_aged (p : Pack) (n : Nat) (a b : Word) : (p.setM n a b).aged = p.aged := by unfold Pack.setM; split <;> rfl
@[simp] theorem Pack.setM_lastIg (p : Pack) (n : Nat) (a b : Word) : (p.setM n a b).lastIg = p.lastIg := by unfold Pack.setM; split <;> rfl
@[simp] theorem Pack.setM_recSeq (p : Pack) (n : Nat) (a b : Word) : (p.setM n a b).recSeq = p.recSeq := by unfold Pack.setM; split <;> rfl
@[simp] theorem Pack.setM_copySeq (p : Pack) (n : Nat) (a b : Word) : (p.setM n a b).copySeq = p.copySeq := by unfold Pack.setM; split <;> rfl
@[simp] theorem Pack.setM_ownStall (p : Pack) (n : Nat) (a b : Word) : (p.setM n a b).ownStall = p.ownStall := by unfold Pack.setM; split <;> rfl
@[simp] theorem Pack.setM_ownCause (p : Pack) (n : Nat) (a b : Word) : (p.setM n a b).ownCause = p.ownCause := by unfold Pack.setM; split <;> rfl

/-! ### Pack.mergeFlags -/

@[simp] theorem Pack.mergeFlags_wg (p : Pack) (n : Nat) : (p.mergeFlags n).wg = p.wg := rfl
@[simp] theorem Pack.mergeFlags_pkid (p : Pack) (n : Nat) : (p.mergeFlags n).pkid = p.pkid := rfl
@[simp] theorem Pack.mergeFlags_ctx (p : Pack) (n : Nat) : (p.mergeFlags n).ctx = p.ctx := rfl
@[simp] theorem Pack.mergeFlags_lanes (p : Pack) (n : Nat) : (p.mergeFlags n).lanes = p.lanes := rfl
@[simp] theorem Pack.mergeFlags_frames (p : Pack) (n : Nat) : (p.mergeFlags n).frames = p.frames := rfl
@[simp] theorem Pack.mergeFlags_trapFrame (p : Pack) (n : Nat) : (p.mergeFlags n).trapFrame = p.trapFrame := rfl
@[simp] theorem Pack.mergeFlags_trapRuns (p : Pack) (n : Nat) : (p.mergeFlags n).trapRuns = p.trapRuns := rfl
@[simp] theorem Pack.mergeFlags_s (p : Pack) (n : Nat) : (p.mergeFlags n).s = p.s := rfl
@[simp] theorem Pack.mergeFlags_m (p : Pack) (n : Nat) : (p.mergeFlags n).m = p.m := rfl
@[simp] theorem Pack.mergeFlags_handler (p : Pack) (n : Nat) : (p.mergeFlags n).handler = p.handler := rfl
@[simp] theorem Pack.mergeFlags_svc (p : Pack) (n : Nat) : (p.mergeFlags n).svc = p.svc := rfl
@[simp] theorem Pack.mergeFlags_pending (p : Pack) (n : Nat) : (p.mergeFlags n).pending = p.pending := rfl
@[simp] theorem Pack.mergeFlags_lastAct (p : Pack) (n : Nat) : (p.mergeFlags n).lastAct = p.lastAct := rfl
@[simp] theorem Pack.mergeFlags_toks (p : Pack) (n : Nat) : (p.mergeFlags n).toks = p.toks := rfl
@[simp] theorem Pack.mergeFlags_tcq (p : Pack) (n : Nat) : (p.mergeFlags n).tcq = p.tcq := rfl
@[simp] theorem Pack.mergeFlags_flushes (p : Pack) (n : Nat) : (p.mergeFlags n).flushes = p.flushes := rfl
@[simp] theorem Pack.mergeFlags_collq (p : Pack) (n : Nat) : (p.mergeFlags n).collq = p.collq := rfl
@[simp] theorem Pack.mergeFlags_park (p : Pack) (n : Nat) : (p.mergeFlags n).park = p.park := rfl
@[simp] theorem Pack.mergeFlags_ownPark (p : Pack) (n : Nat) : (p.mergeFlags n).ownPark = p.ownPark := rfl
@[simp] theorem Pack.mergeFlags_stepping (p : Pack) (n : Nat) : (p.mergeFlags n).stepping = p.stepping := rfl
@[simp] theorem Pack.mergeFlags_evicted (p : Pack) (n : Nat) : (p.mergeFlags n).evicted = p.evicted := rfl
@[simp] theorem Pack.mergeFlags_evictAt (p : Pack) (n : Nat) : (p.mergeFlags n).evictAt = p.evictAt := rfl
@[simp] theorem Pack.mergeFlags_req (p : Pack) (n : Nat) : (p.mergeFlags n).req = p.req := rfl
@[simp] theorem Pack.mergeFlags_bars (p : Pack) (n : Nat) : (p.mergeFlags n).bars = p.bars := rfl
@[simp] theorem Pack.mergeFlags_evpend (p : Pack) (n : Nat) : (p.mergeFlags n).evpend = p.evpend := rfl
@[simp] theorem Pack.mergeFlags_waitev (p : Pack) (n : Nat) : (p.mergeFlags n).waitev = p.waitev := rfl
@[simp] theorem Pack.mergeFlags_spills (p : Pack) (n : Nat) : (p.mergeFlags n).spills = p.spills := rfl
@[simp] theorem Pack.mergeFlags_refills (p : Pack) (n : Nat) : (p.mergeFlags n).refills = p.refills := rfl
@[simp] theorem Pack.mergeFlags_evicts (p : Pack) (n : Nat) : (p.mergeFlags n).evicts = p.evicts := rfl
@[simp] theorem Pack.mergeFlags_traps (p : Pack) (n : Nat) : (p.mergeFlags n).traps = p.traps := rfl
@[simp] theorem Pack.mergeFlags_collStatus (p : Pack) (n : Nat) : (p.mergeFlags n).collStatus = p.collStatus := rfl
@[simp] theorem Pack.mergeFlags_passed (p : Pack) (n : Nat) : (p.mergeFlags n).passed = p.passed := rfl
@[simp] theorem Pack.mergeFlags_aged (p : Pack) (n : Nat) : (p.mergeFlags n).aged = p.aged := rfl
@[simp] theorem Pack.mergeFlags_lastIg (p : Pack) (n : Nat) : (p.mergeFlags n).lastIg = p.lastIg := rfl
@[simp] theorem Pack.mergeFlags_recSeq (p : Pack) (n : Nat) : (p.mergeFlags n).recSeq = p.recSeq := rfl
@[simp] theorem Pack.mergeFlags_copySeq (p : Pack) (n : Nat) : (p.mergeFlags n).copySeq = p.copySeq := rfl
@[simp] theorem Pack.mergeFlags_ownStall (p : Pack) (n : Nat) : (p.mergeFlags n).ownStall = p.ownStall := rfl
@[simp] theorem Pack.mergeFlags_ownCause (p : Pack) (n : Nat) : (p.mergeFlags n).ownCause = p.ownCause := rfl

/-! ### Pack.updFrameAt -/

@[simp] theorem Pack.updFrameAt_wg (p : Pack) (d : Nat) (f : Frame → Frame) : (p.updFrameAt d f).wg = p.wg := by unfold Pack.updFrameAt; split <;> rfl
@[simp] theorem Pack.updFrameAt_pkid (p : Pack) (d : Nat) (f : Frame → Frame) : (p.updFrameAt d f).pkid = p.pkid := by unfold Pack.updFrameAt; split <;> rfl
@[simp] theorem Pack.updFrameAt_ctx (p : Pack) (d : Nat) (f : Frame → Frame) : (p.updFrameAt d f).ctx = p.ctx := by unfold Pack.updFrameAt; split <;> rfl
@[simp] theorem Pack.updFrameAt_lanes (p : Pack) (d : Nat) (f : Frame → Frame) : (p.updFrameAt d f).lanes = p.lanes := by unfold Pack.updFrameAt; split <;> rfl
@[simp] theorem Pack.updFrameAt_trapRuns (p : Pack) (d : Nat) (f : Frame → Frame) : (p.updFrameAt d f).trapRuns = p.trapRuns := by unfold Pack.updFrameAt; split <;> rfl
@[simp] theorem Pack.updFrameAt_s (p : Pack) (d : Nat) (f : Frame → Frame) : (p.updFrameAt d f).s = p.s := by unfold Pack.updFrameAt; split <;> rfl
@[simp] theorem Pack.updFrameAt_m (p : Pack) (d : Nat) (f : Frame → Frame) : (p.updFrameAt d f).m = p.m := by unfold Pack.updFrameAt; split <;> rfl
@[simp] theorem Pack.updFrameAt_fpc (p : Pack) (d : Nat) (f : Frame → Frame) : (p.updFrameAt d f).fpc = p.fpc := by unfold Pack.updFrameAt; split <;> rfl
@[simp] theorem Pack.updFrameAt_handler (p : Pack) (d : Nat) (f : Frame → Frame) : (p.updFrameAt d f).handler = p.handler := by unfold Pack.updFrameAt; split <;> rfl
@[simp] theorem Pack.updFrameAt_svc (p : Pack) (d : Nat) (f : Frame → Frame) : (p.updFrameAt d f).svc = p.svc := by unfold Pack.updFrameAt; split <;> rfl
@[simp] theorem Pack.updFrameAt_pending (p : Pack) (d : Nat) (f : Frame → Frame) : (p.updFrameAt d f).pending = p.pending := by unfold Pack.updFrameAt; split <;> rfl
@[simp] theorem Pack.updFrameAt_lastAct (p : Pack) (d : Nat) (f : Frame → Frame) : (p.updFrameAt d f).lastAct = p.lastAct := by unfold Pack.updFrameAt; split <;> rfl
@[simp] theorem Pack.updFrameAt_toks (p : Pack) (d : Nat) (f : Frame → Frame) : (p.updFrameAt d f).toks = p.toks := by unfold Pack.updFrameAt; split <;> rfl
@[simp] theorem Pack.updFrameAt_tcq (p : Pack) (d : Nat) (f : Frame → Frame) : (p.updFrameAt d f).tcq = p.tcq := by unfold Pack.updFrameAt; split <;> rfl
@[simp] theorem Pack.updFrameAt_flushes (p : Pack) (d : Nat) (f : Frame → Frame) : (p.updFrameAt d f).flushes = p.flushes := by unfold Pack.updFrameAt; split <;> rfl
@[simp] theorem Pack.updFrameAt_collq (p : Pack) (d : Nat) (f : Frame → Frame) : (p.updFrameAt d f).collq = p.collq := by unfold Pack.updFrameAt; split <;> rfl
@[simp] theorem Pack.updFrameAt_park (p : Pack) (d : Nat) (f : Frame → Frame) : (p.updFrameAt d f).park = p.park := by unfold Pack.updFrameAt; split <;> rfl
@[simp] theorem Pack.updFrameAt_ownPark (p : Pack) (d : Nat) (f : Frame → Frame) : (p.updFrameAt d f).ownPark = p.ownPark := by unfold Pack.updFrameAt; split <;> rfl
@[simp] theorem Pack.updFrameAt_stepping (p : Pack) (d : Nat) (f : Frame → Frame) : (p.updFrameAt d f).stepping = p.stepping := by unfold Pack.updFrameAt; split <;> rfl
@[simp] theorem Pack.updFrameAt_evicted (p : Pack) (d : Nat) (f : Frame → Frame) : (p.updFrameAt d f).evicted = p.evicted := by unfold Pack.updFrameAt; split <;> rfl
@[simp] theorem Pack.updFrameAt_evictAt (p : Pack) (d : Nat) (f : Frame → Frame) : (p.updFrameAt d f).evictAt = p.evictAt := by unfold Pack.updFrameAt; split <;> rfl
@[simp] theorem Pack.updFrameAt_req (p : Pack) (d : Nat) (f : Frame → Frame) : (p.updFrameAt d f).req = p.req := by unfold Pack.updFrameAt; split <;> rfl
@[simp] theorem Pack.updFrameAt_bars (p : Pack) (d : Nat) (f : Frame → Frame) : (p.updFrameAt d f).bars = p.bars := by unfold Pack.updFrameAt; split <;> rfl
@[simp] theorem Pack.updFrameAt_evpend (p : Pack) (d : Nat) (f : Frame → Frame) : (p.updFrameAt d f).evpend = p.evpend := by unfold Pack.updFrameAt; split <;> rfl
@[simp] theorem Pack.updFrameAt_waitev (p : Pack) (d : Nat) (f : Frame → Frame) : (p.updFrameAt d f).waitev = p.waitev := by unfold Pack.updFrameAt; split <;> rfl
@[simp] theorem Pack.updFrameAt_spills (p : Pack) (d : Nat) (f : Frame → Frame) : (p.updFrameAt d f).spills = p.spills := by unfold Pack.updFrameAt; split <;> rfl
@[simp] theorem Pack.updFrameAt_refills (p : Pack) (d : Nat) (f : Frame → Frame) : (p.updFrameAt d f).refills = p.refills := by unfold Pack.updFrameAt; split <;> rfl
@[simp] theorem Pack.updFrameAt_evicts (p : Pack) (d : Nat) (f : Frame → Frame) : (p.updFrameAt d f).evicts = p.evicts := by unfold Pack.updFrameAt; split <;> rfl
@[simp] theorem Pack.updFrameAt_traps (p : Pack) (d : Nat) (f : Frame → Frame) : (p.updFrameAt d f).traps = p.traps := by unfold Pack.updFrameAt; split <;> rfl
@[simp] theorem Pack.updFrameAt_collStatus (p : Pack) (d : Nat) (f : Frame → Frame) : (p.updFrameAt d f).collStatus = p.collStatus := by unfold Pack.updFrameAt; split <;> rfl
@[simp] theorem Pack.updFrameAt_passed (p : Pack) (d : Nat) (f : Frame → Frame) : (p.updFrameAt d f).passed = p.passed := by unfold Pack.updFrameAt; split <;> rfl
@[simp] theorem Pack.updFrameAt_aged (p : Pack) (d : Nat) (f : Frame → Frame) : (p.updFrameAt d f).aged = p.aged := by unfold Pack.updFrameAt; split <;> rfl
@[simp] theorem Pack.updFrameAt_lastIg (p : Pack) (d : Nat) (f : Frame → Frame) : (p.updFrameAt d f).lastIg = p.lastIg := by unfold Pack.updFrameAt; split <;> rfl
@[simp] theorem Pack.updFrameAt_recSeq (p : Pack) (d : Nat) (f : Frame → Frame) : (p.updFrameAt d f).recSeq = p.recSeq := by unfold Pack.updFrameAt; split <;> rfl
@[simp] theorem Pack.updFrameAt_copySeq (p : Pack) (d : Nat) (f : Frame → Frame) : (p.updFrameAt d f).copySeq = p.copySeq := by unfold Pack.updFrameAt; split <;> rfl
@[simp] theorem Pack.updFrameAt_ownStall (p : Pack) (d : Nat) (f : Frame → Frame) : (p.updFrameAt d f).ownStall = p.ownStall := by unfold Pack.updFrameAt; split <;> rfl
@[simp] theorem Pack.updFrameAt_ownCause (p : Pack) (d : Nat) (f : Frame → Frame) : (p.updFrameAt d f).ownCause = p.ownCause := by unfold Pack.updFrameAt; split <;> rfl

/-! ### Pack.ageToks -/

@[simp] theorem Pack.ageToks_wg (p : Pack) : (p.ageToks).wg = p.wg := rfl
@[simp] theorem Pack.ageToks_pkid (p : Pack) : (p.ageToks).pkid = p.pkid := rfl
@[simp] theorem Pack.ageToks_ctx (p : Pack) : (p.ageToks).ctx = p.ctx := rfl
@[simp] theorem Pack.ageToks_lanes (p : Pack) : (p.ageToks).lanes = p.lanes := rfl
@[simp] theorem Pack.ageToks_frames (p : Pack) : (p.ageToks).frames = p.frames := rfl
@[simp] theorem Pack.ageToks_trapFrame (p : Pack) : (p.ageToks).trapFrame = p.trapFrame := rfl
@[simp] theorem Pack.ageToks_trapRuns (p : Pack) : (p.ageToks).trapRuns = p.trapRuns := rfl
@[simp] theorem Pack.ageToks_s (p : Pack) : (p.ageToks).s = p.s := rfl
@[simp] theorem Pack.ageToks_m (p : Pack) : (p.ageToks).m = p.m := rfl
@[simp] theorem Pack.ageToks_fpc (p : Pack) : (p.ageToks).fpc = p.fpc := rfl
@[simp] theorem Pack.ageToks_handler (p : Pack) : (p.ageToks).handler = p.handler := rfl
@[simp] theorem Pack.ageToks_svc (p : Pack) : (p.ageToks).svc = p.svc := rfl
@[simp] theorem Pack.ageToks_pending (p : Pack) : (p.ageToks).pending = p.pending := rfl
@[simp] theorem Pack.ageToks_lastAct (p : Pack) : (p.ageToks).lastAct = p.lastAct := rfl
@[simp] theorem Pack.ageToks_tcq (p : Pack) : (p.ageToks).tcq = p.tcq := rfl
@[simp] theorem Pack.ageToks_flushes (p : Pack) : (p.ageToks).flushes = p.flushes := rfl
@[simp] theorem Pack.ageToks_collq (p : Pack) : (p.ageToks).collq = p.collq := rfl
@[simp] theorem Pack.ageToks_park (p : Pack) : (p.ageToks).park = p.park := rfl
@[simp] theorem Pack.ageToks_ownPark (p : Pack) : (p.ageToks).ownPark = p.ownPark := rfl
@[simp] theorem Pack.ageToks_stepping (p : Pack) : (p.ageToks).stepping = p.stepping := rfl
@[simp] theorem Pack.ageToks_evicted (p : Pack) : (p.ageToks).evicted = p.evicted := rfl
@[simp] theorem Pack.ageToks_evictAt (p : Pack) : (p.ageToks).evictAt = p.evictAt := rfl
@[simp] theorem Pack.ageToks_req (p : Pack) : (p.ageToks).req = p.req := rfl
@[simp] theorem Pack.ageToks_bars (p : Pack) : (p.ageToks).bars = p.bars := rfl
@[simp] theorem Pack.ageToks_evpend (p : Pack) : (p.ageToks).evpend = p.evpend := rfl
@[simp] theorem Pack.ageToks_waitev (p : Pack) : (p.ageToks).waitev = p.waitev := rfl
@[simp] theorem Pack.ageToks_spills (p : Pack) : (p.ageToks).spills = p.spills := rfl
@[simp] theorem Pack.ageToks_refills (p : Pack) : (p.ageToks).refills = p.refills := rfl
@[simp] theorem Pack.ageToks_evicts (p : Pack) : (p.ageToks).evicts = p.evicts := rfl
@[simp] theorem Pack.ageToks_traps (p : Pack) : (p.ageToks).traps = p.traps := rfl
@[simp] theorem Pack.ageToks_collStatus (p : Pack) : (p.ageToks).collStatus = p.collStatus := rfl
@[simp] theorem Pack.ageToks_passed (p : Pack) : (p.ageToks).passed = p.passed := rfl
@[simp] theorem Pack.ageToks_aged (p : Pack) : (p.ageToks).aged = p.aged := rfl
@[simp] theorem Pack.ageToks_lastIg (p : Pack) : (p.ageToks).lastIg = p.lastIg := rfl
@[simp] theorem Pack.ageToks_recSeq (p : Pack) : (p.ageToks).recSeq = p.recSeq := rfl
@[simp] theorem Pack.ageToks_copySeq (p : Pack) : (p.ageToks).copySeq = p.copySeq := rfl
@[simp] theorem Pack.ageToks_ownStall (p : Pack) : (p.ageToks).ownStall = p.ownStall := rfl
@[simp] theorem Pack.ageToks_ownCause (p : Pack) : (p.ageToks).ownCause = p.ownCause := rfl

end Sys2Proof.Machine
end

