-- ==== Sys2Proof/Laws/Lanes.lean ====
section
/-! SUPPORT. What reads of cores, packs, lanes, frames and registers give after the updates of Machine/Basics.lean. -/

namespace Sys2Proof.Machine

/-! ## Lane masks -/

@[simp] theorem mem_lanesOf (m : Word) (l : Nat) : l ∈ lanesOf m ↔ m.getLsbD l = true := by
  simp only [lanesOf, lanes32, List.mem_filter, List.mem_range]
  constructor
  · exact fun h => h.2
  · intro h
    exact ⟨Nat.lt_of_not_le (fun g => by rw [BitVec.getLsbD_of_ge m l g] at h; cases h), h⟩

theorem nodup_lanesOf (m : Word) : (lanesOf m).Nodup := List.Nodup.filter _ List.nodup_range

theorem getLsbD_foldl_laneMask (ls : List Nat) (m : Word) (l : Nat) :
    (ls.foldl (fun m l => m ||| (BitVec.ofNat 32 (2 ^ l))) m).getLsbD l = (m.getLsbD l || decide (l < 32 ∧ l ∈ ls)) := by
  induction ls generalizing m with
  | nil => simp
  | cons x r ih =>
    simp only [List.foldl_cons, ih, BitVec.getLsbD_or, BitVec.getLsbD_ofNat, Nat.testBit_two_pow, List.mem_cons]
    by_cases h : l < 32
    · by_cases e : x = l
      · subst e; simp [h]
      · have : ¬ l = x := fun g => e g.symm
        simp [h, e, this]
    · simp [h]

@[simp] theorem getLsbD_laneMask (ls : List Nat) (l : Nat) : (laneMask ls).getLsbD l = decide (l < 32 ∧ l ∈ ls) := by
  unfold laneMask
  rw [getLsbD_foldl_laneMask]
  simp

@[simp] theorem lane_eq_getLsbD (m : Word) (l : Nat) : Word.lane m l = m.getLsbD l := rfl

/-! ## Cores and packs -/

theorem State.core_updCore_self (s : State) (c : Nat) (f : Core → Core) (h : (s.cores.find c).isSome) : (s.updCore c f).core c = f (s.core c) := by
  obtain ⟨k, hk⟩ := Option.isSome_iff_exists.mp h
  simp [State.core, State.updCore, hk]

theorem State.core_updCore_ne (s : State) {c j : Nat} (f : Core → Core) (h : j ≠ c) : (s.updCore c f).core j = s.core j := by
  simp [State.core, State.updCore, FMap.find_upd_ne _ _ h]

@[simp] theorem State.find_updCore_isSome (s : State) (c j : Nat) (f : Core → Core) :
    ((s.updCore c f).cores.find j).isSome = (s.cores.find j).isSome := by
  simp only [State.updCore, FMap.find_upd]
  split
  · subst_vars; simp
  · rfl

@[simp] theorem State.core_updPack (s : State) (c sl j : Nat) (f : Pack → Pack) : (s.updPack c sl f).core j = s.core j := rfl

@[simp] theorem State.pack?_updCore (s : State) (c i j : Nat) (f : Core → Core) : (s.updCore c f).pack? i j = s.pack? i j := rfl

@[simp] theorem State.pack_updCore (s : State) (c i j : Nat) (f : Core → Core) : (s.updCore c f).pack i j = s.pack i j := rfl

@[simp] theorem State.pack?_updPack_self (s : State) (c sl : Nat) (f : Pack → Pack) : (s.updPack c sl f).pack? c sl = (s.pack? c sl).map f := by
  simp [State.pack?, State.updPack]

theorem State.pack?_updPack_ne (s : State) {c sl i j : Nat} (f : Pack → Pack) (h : packKey i j ≠ packKey c sl) :
    (s.updPack c sl f).pack? i j = s.pack? i j := by
  simp [State.pack?, State.updPack, FMap.find_upd_ne _ _ h]

theorem State.pack_of_pack? {s : State} {c sl : Nat} {p : Pack} (h : s.pack? c sl = some p) : s.pack c sl = p := by
  simp [State.pack, h]

theorem State.pack_updPack_self {s : State} {c sl : Nat} {p : Pack} (f : Pack → Pack) (h : s.pack? c sl = some p) :
    (s.updPack c sl f).pack c sl = f p := by
  simp [State.pack, h]

theorem State.pack_updPack_ne (s : State) {c sl i j : Nat} (f : Pack → Pack) (h : packKey i j ≠ packKey c sl) :
    (s.updPack c sl f).pack i j = s.pack i j := by
  simp [State.pack, State.pack?_updPack_ne s f h]

/-- Putting a pack back changes nothing. -/
theorem State.updPack_same {s : State} {c sl : Nat} {p : Pack} (h : s.pack? c sl = some p) : s.updPack c sl (fun _ => p) = s := by
  have : s.packs.upd (packKey c sl) (fun _ => p) = s.packs := FMap.upd_const _ _ _ h
  simp [State.updPack, this]

/-! ## Lanes -/

theorem Pack.lane_updLane (p : Pack) (l j : Nat) (f : Lane → Lane) : (p.updLane l f).lane j = if j = l then f (p.lane l) else p.lane j := by
  simp only [Pack.updLane, Pack.lane]
  exact getD_setAt _ _ _ _ _

theorem Pack.lane_foldl_updLane (f : Lane → Lane) (ls : List Nat) (h : ls.Nodup) (p : Pack) (j : Nat) :
    (ls.foldl (fun p l => p.updLane l f) p).lane j = if j ∈ ls then f (p.lane j) else p.lane j := by
  induction ls generalizing p with
  | nil => simp
  | cons x r ih =>
    have ⟨hx, hr⟩ := List.nodup_cons.mp h
    simp only [List.foldl_cons, ih hr, Pack.lane_updLane, List.mem_cons]
    by_cases e : j = x
    · subst e; simp [hx]
    · simp [e]

/-- The lanes of a mask change, the others stay. -/
theorem Pack.lane_updLanes (p : Pack) (m : Word) (f : Lane → Lane) (j : Nat) :
    (p.updLanes m f).lane j = if m.getLsbD j then f (p.lane j) else p.lane j := by
  simp only [Pack.updLanes, Pack.lane_foldl_updLane f _ (nodup_lanesOf m), mem_lanesOf]

/-- Only the lanes change. -/
theorem Pack.updLanes_eq (p : Pack) (m : Word) (f : Lane → Lane) : p.updLanes m f = { p with lanes := (p.updLanes m f).lanes } := by
  unfold Pack.updLanes
  generalize lanesOf m = ls
  induction ls generalizing p with
  | nil => rfl
  | cons x r ih => simp only [List.foldl_cons]; rw [ih]; rfl

@[simp] theorem Pack.updLanes_wg (p : Pack) (m : Word) (f : Lane → Lane) : (p.updLanes m f).wg = p.wg := by rw [Pack.updLanes_eq]
@[simp] theorem Pack.updLanes_pkid (p : Pack) (m : Word) (f : Lane → Lane) : (p.updLanes m f).pkid = p.pkid := by rw [Pack.updLanes_eq]
@[simp] theorem Pack.updLanes_ctx (p : Pack) (m : Word) (f : Lane → Lane) : (p.updLanes m f).ctx = p.ctx := by rw [Pack.updLanes_eq]
@[simp] theorem Pack.updLanes_frames (p : Pack) (m : Word) (f : Lane → Lane) : (p.updLanes m f).frames = p.frames := by rw [Pack.updLanes_eq]
@[simp] theorem Pack.updLanes_trapFrame (p : Pack) (m : Word) (f : Lane → Lane) : (p.updLanes m f).trapFrame = p.trapFrame := by rw [Pack.updLanes_eq]
@[simp] theorem Pack.updLanes_s (p : Pack) (m : Word) (f : Lane → Lane) : (p.updLanes m f).s = p.s := by rw [Pack.updLanes_eq]
@[simp] theorem Pack.updLanes_m (p : Pack) (m : Word) (f : Lane → Lane) : (p.updLanes m f).m = p.m := by rw [Pack.updLanes_eq]
@[simp] theorem Pack.updLanes_fpc (p : Pack) (m : Word) (f : Lane → Lane) : (p.updLanes m f).fpc = p.fpc := by rw [Pack.updLanes_eq]
@[simp] theorem Pack.updLanes_handler (p : Pack) (m : Word) (f : Lane → Lane) : (p.updLanes m f).handler = p.handler := by rw [Pack.updLanes_eq]
@[simp] theorem Pack.updLanes_svc (p : Pack) (m : Word) (f : Lane → Lane) : (p.updLanes m f).svc = p.svc := by rw [Pack.updLanes_eq]
@[simp] theorem Pack.updLanes_pending (p : Pack) (m : Word) (f : Lane → Lane) : (p.updLanes m f).pending = p.pending := by rw [Pack.updLanes_eq]
@[simp] theorem Pack.updLanes_lastAct (p : Pack) (m : Word) (f : Lane → Lane) : (p.updLanes m f).lastAct = p.lastAct := by rw [Pack.updLanes_eq]
@[simp] theorem Pack.updLanes_toks (p : Pack) (m : Word) (f : Lane → Lane) : (p.updLanes m f).toks = p.toks := by rw [Pack.updLanes_eq]
@[simp] theorem Pack.updLanes_tcq (p : Pack) (m : Word) (f : Lane → Lane) : (p.updLanes m f).tcq = p.tcq := by rw [Pack.updLanes_eq]
@[simp] theorem Pack.updLanes_collq (p : Pack) (m : Word) (f : Lane → Lane) : (p.updLanes m f).collq = p.collq := by rw [Pack.updLanes_eq]
@[simp] theorem Pack.updLanes_park (p : Pack) (m : Word) (f : Lane → Lane) : (p.updLanes m f).park = p.park := by rw [Pack.updLanes_eq]
@[simp] theorem Pack.updLanes_ownPark (p : Pack) (m : Word) (f : Lane → Lane) : (p.updLanes m f).ownPark = p.ownPark := by rw [Pack.updLanes_eq]
@[simp] theorem Pack.updLanes_stepping (p : Pack) (m : Word) (f : Lane → Lane) : (p.updLanes m f).stepping = p.stepping := by rw [Pack.updLanes_eq]
@[simp] theorem Pack.updLanes_evicted (p : Pack) (m : Word) (f : Lane → Lane) : (p.updLanes m f).evicted = p.evicted := by rw [Pack.updLanes_eq]
@[simp] theorem Pack.updLanes_evictAt (p : Pack) (m : Word) (f : Lane → Lane) : (p.updLanes m f).evictAt = p.evictAt := by rw [Pack.updLanes_eq]
@[simp] theorem Pack.updLanes_req (p : Pack) (m : Word) (f : Lane → Lane) : (p.updLanes m f).req = p.req := by rw [Pack.updLanes_eq]
@[simp] theorem Pack.updLanes_bars (p : Pack) (m : Word) (f : Lane → Lane) : (p.updLanes m f).bars = p.bars := by rw [Pack.updLanes_eq]
@[simp] theorem Pack.updLanes_evpend (p : Pack) (m : Word) (f : Lane → Lane) : (p.updLanes m f).evpend = p.evpend := by rw [Pack.updLanes_eq]
@[simp] theorem Pack.updLanes_waitev (p : Pack) (m : Word) (f : Lane → Lane) : (p.updLanes m f).waitev = p.waitev := by rw [Pack.updLanes_eq]
@[simp] theorem Pack.updLanes_spills (p : Pack) (m : Word) (f : Lane → Lane) : (p.updLanes m f).spills = p.spills := by rw [Pack.updLanes_eq]
@[simp] theorem Pack.updLanes_refills (p : Pack) (m : Word) (f : Lane → Lane) : (p.updLanes m f).refills = p.refills := by rw [Pack.updLanes_eq]
@[simp] theorem Pack.updLanes_evicts (p : Pack) (m : Word) (f : Lane → Lane) : (p.updLanes m f).evicts = p.evicts := by rw [Pack.updLanes_eq]
@[simp] theorem Pack.updLanes_traps (p : Pack) (m : Word) (f : Lane → Lane) : (p.updLanes m f).traps = p.traps := by rw [Pack.updLanes_eq]
@[simp] theorem Pack.updLanes_collStatus (p : Pack) (m : Word) (f : Lane → Lane) : (p.updLanes m f).collStatus = p.collStatus := by rw [Pack.updLanes_eq]
@[simp] theorem Pack.updLanes_passed (p : Pack) (m : Word) (f : Lane → Lane) : (p.updLanes m f).passed = p.passed := by rw [Pack.updLanes_eq]
@[simp] theorem Pack.updLanes_aged (p : Pack) (m : Word) (f : Lane → Lane) : (p.updLanes m f).aged = p.aged := by rw [Pack.updLanes_eq]
@[simp] theorem Pack.updLanes_lastIg (p : Pack) (m : Word) (f : Lane → Lane) : (p.updLanes m f).lastIg = p.lastIg := by rw [Pack.updLanes_eq]
@[simp] theorem Pack.updLanes_recSeq (p : Pack) (m : Word) (f : Lane → Lane) : (p.updLanes m f).recSeq = p.recSeq := by rw [Pack.updLanes_eq]
@[simp] theorem Pack.updLanes_copySeq (p : Pack) (m : Word) (f : Lane → Lane) : (p.updLanes m f).copySeq = p.copySeq := by rw [Pack.updLanes_eq]
@[simp] theorem Pack.updLanes_ownStall (p : Pack) (m : Word) (f : Lane → Lane) : (p.updLanes m f).ownStall = p.ownStall := by rw [Pack.updLanes_eq]

/-! ## Registers -/

@[simp] theorem Pack.sreg_setS_self (p : Pack) (n : Nat) (v : DWord) : (p.setS n v).sreg n = v := getD_setAt_self _ _ _ _

theorem Pack.sreg_setS (p : Pack) (n j : Nat) (v : DWord) : (p.setS n v).sreg j = if j = n then v else p.sreg j := getD_setAt _ _ _ _ _

theorem Pack.m_setM (p : Pack) (n j : Nat) (a b : Word) (h : n ≠ 0) :
    (p.setM n a b).m.getD j 0 = if j = n then (p.m.getD n 0 &&& ~~~a) ||| (b &&& a) else p.m.getD j 0 := by
  simp only [Pack.setM, h, if_false]
  exact getD_setAt _ _ _ _ _

@[simp] theorem Frame.cell_setCell_self (f : Frame) (r l : Nat) (v : VCell) : (f.setCell r l v).cell r l = v := by
  simp [Frame.cell, Frame.setCell]

/-- A register lane written; the others of the frame stay. -/
theorem Frame.cell_setCell (f : Frame) {r l i j : Nat} (v : VCell) (hl : l < 32) (hj : j < 32) :
    (f.setCell r l v).cell i j = if i = r ∧ j = l then v else f.cell i j := by
  simp only [Frame.cell, Frame.setCell, FMap.find_ins]
  by_cases h : i = r ∧ j = l
  · simp [h]
  · have : 32 * i + j ≠ 32 * r + l := by omega
    simp [h, this]

@[simp] theorem Frame.size_setCell (f : Frame) (r l : Nat) (v : VCell) : (f.setCell r l v).size = f.size := rfl

/-- The frame that a depth names is the one an update changes. -/
@[simp] theorem Pack.frameAt_updFrameAt (p : Pack) (d : Nat) (f : Frame → Frame) : (p.updFrameAt d f).frameAt d = f (p.frameAt d) := by
  cases hh : p.handler <;> cases ht : p.trapFrame <;> simp [Pack.updFrameAt, Pack.frameAt, hh, ht]

theorem Pack.cell_writeV (p : Pack) (d : Nat) {r l i j : Nat} (v : VCell) (hl : l < 32) (hj : j < 32) :
    ((p.writeV d r l v).frameAt d).cell i j = if i = r ∧ j = l then v else (p.frameAt d).cell i j := by
  simp only [Pack.writeV, Pack.frameAt_updFrameAt]
  exact Frame.cell_setCell _ v hl hj

end Sys2Proof.Machine
end

