-- ==== Sys2Proof/Laws/Memory.lean ====
section
/-! SUPPORT. The canonical form of memory is kept by every memory operation, and what a read gives after a write. -/

namespace Sys2Proof.Machine

/-! ## The sparse form -/

theorem Memory.wf_iff (m : FMap Byte) : Memory.wf m = true ↔ FMap.sorted m = true ∧ ∀ x ∈ m, x.2 ≠ 0 := by
  simp [Memory.wf]

theorem FMap.sorted_filter {α : Type} (m : FMap α) (f : Nat × α → Bool) (h : FMap.sorted m = true) : FMap.sorted (m.filter f) = true := by
  induction m with
  | nil => rfl
  | cons y r ih =>
    obtain ⟨k, v⟩ := y
    have ⟨hs, hb⟩ := (FMap.sorted_cons k v r).mp h
    rw [List.filter_cons]
    split
    · exact (FMap.sorted_cons _ _ _).mpr ⟨ih hs, fun x hx => hb x (List.mem_of_mem_filter hx)⟩
    · exact ih hs

/-- Writing one byte keeps the canonical form. -/
theorem setCanon_wf (m : FMap Byte) (k : Nat) (b : Byte) (h : Memory.wf m = true) : Memory.wf (setCanon m k b) = true := by
  rw [Memory.wf_iff] at *
  unfold setCanon
  split
  · exact ⟨FMap.sorted_del m k h.1, fun x hx => h.2 x (FMap.mem_del m k x hx)⟩
  · refine ⟨FMap.sorted_ins m k b h.1, fun x hx => ?_⟩
    rcases FMap.mem_ins m k b x hx with rfl | hx
    · assumption
    · exact h.2 x hx

/-- Writing bytes one after the other keeps it too. -/
theorem setCanon_foldl_wf {β : Type} (xs : List β) (k : β → Nat) (b : β → Byte) (m : FMap Byte) (h : Memory.wf m = true) :
    Memory.wf (xs.foldl (fun m x => setCanon m (k x) (b x)) m) = true := by
  induction xs generalizing m with
  | nil => exact h
  | cons x xs ih => exact ih _ (setCanon_wf m _ _ h)

/-- Zeroing a range keeps it. -/
theorem Memory.wf_filter (m : FMap Byte) (f : Nat × Byte → Bool) (h : Memory.wf m = true) : Memory.wf (m.filter f) = true := by
  rw [Memory.wf_iff] at *
  exact ⟨FMap.sorted_filter m f h.1, fun x hx => h.2 x (List.mem_of_mem_filter hx)⟩

/-- A byte read after a write: the byte written at its address, the byte before elsewhere. -/
theorem setCanon_read (m : FMap Byte) (k j : Nat) (b : Byte) (h : Memory.wf m = true) :
    ((setCanon m k b).find j).getD 0 = if j = k then b else (m.find j).getD 0 := by
  unfold setCanon
  split
  · rw [FMap.find_del m k j ((Memory.wf_iff m).mp h).1]; split <;> simp_all
  · rw [FMap.find_ins]; split <;> rfl

/-! ## The memories of the package -/

/-- Every memory of the package has its canonical form. -/
structure MemWf (s : State) : Prop where
  mem : Memory.wf s.mem = true
  mirror : Memory.wf s.mirror = true
  chip : Memory.wf s.chip = true
  spad : ∀ c k, s.cores.find c = some k → Memory.wf k.spad = true
  args : ∀ c k, s.cores.find c = some k → Memory.wf k.args = true

/-- Right after reset no memory lists a byte. -/
theorem State.reset_memWf : Memory.wf State.reset.mem = true ∧ Memory.wf State.reset.mirror = true ∧ Memory.wf State.reset.chip = true ∧
    State.reset.cores.all (fun k => Memory.wf k.2.spad && Memory.wf k.2.args) = true := by
  decide +kernel

theorem FMap.mem_of_find {α : Type} (m : FMap α) (n : Nat) (v : α) (h : FMap.find m n = some v) : (n, v) ∈ m := by
  induction m with
  | nil => simp [FMap.find] at h
  | cons y r ih =>
    obtain ⟨k, w⟩ := y
    simp only [FMap.find] at h
    split at h
    · simp_all
    · split at h
      · exact List.mem_cons_of_mem _ (ih h)
      · simp at h

theorem State.reset_MemWf : MemWf State.reset := by
  obtain ⟨h1, h2, h3, h4⟩ := State.reset_memWf
  have h5 : ∀ c k, State.reset.cores.find c = some k → Memory.wf k.spad = true ∧ Memory.wf k.args = true := by
    intro c k h
    simpa using List.all_eq_true.mp h4 _ (FMap.mem_of_find _ _ _ h)
  exact ⟨h1, h2, h3, fun c k h => (h5 c k h).1, fun c k h => (h5 c k h).2⟩

/-- An update that leaves the memories alone. -/
theorem MemWf.same {s t : State} (h : MemWf s) (h1 : t.mem = s.mem) (h2 : t.mirror = s.mirror) (h3 : t.chip = s.chip) (h4 : t.cores = s.cores) : MemWf t :=
  ⟨h1 ▸ h.mem, h2 ▸ h.mirror, h3 ▸ h.chip, h4 ▸ h.spad, h4 ▸ h.args⟩

/-- An update of one core. -/
theorem MemWf.updCore {s : State} (h : MemWf s) (c : Nat) (f : Core → Core)
    (h1 : ∀ k, Memory.wf k.spad = true → Memory.wf (f k).spad = true) (h2 : ∀ k, Memory.wf k.args = true → Memory.wf (f k).args = true) : MemWf (s.updCore c f) := by
  refine ⟨h.mem, h.mirror, h.chip, ?_, ?_⟩ <;>
  · intro d k hk
    simp only [State.updCore, FMap.find_upd] at hk
    split at hk
    · obtain ⟨k', hk', rfl⟩ := Option.map_eq_some_iff.mp hk
      first | exact h1 _ (h.spad _ _ hk') | exact h2 _ (h.args _ _ hk')
    · first | exact h.spad _ _ hk | exact h.args _ _ hk

theorem MemWf.foldl {α : Type} (xs : List α) (f : State → α → State) (hf : ∀ s x, MemWf s → MemWf (f s x)) (s : State) (h : MemWf s) : MemWf (xs.foldl f s) := by
  induction xs generalizing s with
  | nil => exact h
  | cons x xs ih => exact ih _ (hf s x h)

/-! ## Every memory operation keeps it -/

theorem MemWf.setReg {s : State} (h : MemWf s) (o v : Nat) : MemWf (s.setReg o v) := h.same rfl rfl rfl rfl
theorem MemWf.send {s : State} (h : MemWf s) (m : OutMsg) : MemWf (s.send m) := h.same rfl rfl rfl rfl
theorem MemWf.countUE {s : State} (h : MemWf s) (v pa ctx : Nat) : MemWf (s.countUE v pa ctx) :=
  ((h.setReg _ _).setReg _ _).send _
theorem MemWf.setLinePsn {s : State} (h : MemWf s) (pa : Nat) (b : Bool) : MemWf (s.setLinePsn pa b) := h.same rfl rfl rfl rfl
theorem MemWf.dropProv {s : State} (h : MemWf s) (u : Nat) : MemWf (s.dropProv u) := h.same rfl rfl rfl rfl

theorem MemWf.setRaw {s : State} (h : MemWf s) (pa : Nat) (b : Byte) : MemWf (s.setRaw pa b) := by
  unfold State.setRaw
  dsimp only
  have h1 : ∀ t : State, MemWf t → MemWf (if t.inMirror pa then t else { t with mem := setCanon t.mem pa b }) := by
    intro t ht
    split
    · exact ht
    · exact ⟨setCanon_wf _ _ _ ht.mem, ht.mirror, ht.chip, ht.spad, ht.args⟩
  apply h1
  split
  · exact ⟨h.mem, setCanon_wf _ _ _ h.mirror, h.chip, h.spad, h.args⟩
  · exact h

theorem MemWf.latent {s : State} (h : MemWf s) (x : FMap Unit) : MemWf { s with latent := x } := ⟨h.mem, h.mirror, h.chip, h.spad, h.args⟩
theorem MemWf.l1 {s : State} (h : MemWf s) (x : FMap L1Line) : MemWf { s with l1 := x } := ⟨h.mem, h.mirror, h.chip, h.spad, h.args⟩

/-- One of two states that both have the form. -/
theorem MemWf.iteOf {s t : State} (c : Prop) [Decidable c] (h1 : MemWf s) (h2 : MemWf t) : MemWf (if c then s else t) := by split <;> assumption

theorem MemWf.draw {s : State} (h : MemWf s) : MemWf s.draw.2 := h.same rfl rfl rfl rfl
theorem MemWf.setL1 {s : State} (h : MemWf s) (c line : Nat) (x : L1Line) : MemWf (s.setL1 c line x) := h.l1 _

theorem MemWf.useDie {s : State} (h : MemWf s) (line : Nat) : MemWf (s.useDie line) := by
  unfold State.useDie
  dsimp only
  exact .iteOf _ (h.same rfl rfl rfl rfl) h

theorem MemWf.reachHome {s : State} (h : MemWf s) (line : Nat) (offs : List Nat) : MemWf (s.reachHome line offs) := by
  unfold State.reachHome
  refine .iteOf _ (MemWf.foldl _ _ (fun s r hs => ?_) s h) h
  exact hs.same rfl rfl rfl rfl

/-- What the L1s do with a line (R135, R136, R146): write it back, drop it, share it, take it. -/
theorem MemWf.wbLine {s : State} (h : MemWf s) (c line : Nat) : MemWf (s.wbLine c line) := by
  unfold State.wbLine
  split
  · exact h
  · dsimp only
    exact .iteOf _ h ((((MemWf.iteOf _ (h.setLinePsn _ _) h).useDie _).setL1 _ _ _).reachHome _ _)

theorem MemWf.flushLine {s : State} (h : MemWf s) (c line : Nat) : MemWf (s.flushLine c line) := (h.wbLine c line).l1 _
theorem MemWf.shareLine {s : State} (h : MemWf s) (c line : Nat) : MemWf (s.shareLine c line) := (h.wbLine c line).l1 _

theorem MemWf.invLine {s : State} (h : MemWf s) (c line : Nat) : MemWf (s.invLine c line) := by
  unfold State.invLine
  split
  · exact h
  · rename_i x _
    dsimp only
    have h1 := MemWf.foldl x.home (fun s b => s.setRaw (line * 64 + b.1) b.2) (fun s b hs => hs.setRaw _ _) s h
    exact (MemWf.iteOf _ h1 (h1.setLinePsn _ _)).l1 _

theorem MemWf.cleanCore {s : State} (h : MemWf s) (c : Nat) : MemWf (s.cleanCore c) := MemWf.foldl _ _ (fun _ _ hs => hs.wbLine _ _) s h
theorem MemWf.dropWays {s : State} (h : MemWf s) (c w : Nat) : MemWf (s.dropWays c w) := MemWf.foldl _ _ (fun _ _ hs => hs.flushLine _ _) s h

theorem MemWf.allocLine {s : State} (h : MemWf s) (c line : Nat) : MemWf (s.allocLine c line) := by
  unfold State.allocLine
  split
  · exact h
  · dsimp only
    split
    · exact h.setL1 _ _ _
    · exact (MemWf.foldl _ _ (fun _ _ hs => hs.flushLine _ _) _ h.draw).setL1 _ _ _

theorem MemWf.dirCount {s : State} (h : MemWf s) (q pa : Nat) : MemWf (s.dirCount q pa) := by
  unfold State.dirCount
  dsimp only
  exact .iteOf _ (h.same rfl rfl rfl rfl) h

theorem MemWf.noteReader {s : State} (h : MemWf s) (a : Acc) (line : Nat) : MemWf (s.noteReader a line) := by
  unfold State.noteReader
  split
  · exact h.same rfl rfl rfl rfl
  · exact h

theorem MemWf.askOwner {s : State} (h : MemWf s) (a : Acc) (line : Nat) : MemWf (s.askOwner a line) := by
  unfold State.askOwner
  split
  · exact h.dirCount _ _
  · exact h

/-- A line comes for a read (R135, R355). -/
theorem MemWf.readLine {s : State} (h : MemWf s) (a : Acc) (line : Nat) : MemWf (s.readLine a line) := by
  have h1 : MemWf ((s.holders line).foldl (fun s c => if a.l1 = some c then s else s.shareLine c line) s) :=
    MemWf.foldl _ _ (fun _ _ hs => .iteOf _ hs (hs.shareLine _ _)) s h
  have h3 := h1.noteReader a line
  unfold State.readLine
  dsimp only
  split
  · exact .iteOf _ h3 ((h3.useDie _).allocLine _ _)
  · exact h3.useDie _

/-- A line comes for a write (R135, R138). -/
theorem MemWf.ownLine {s : State} (h : MemWf s) (a : Acc) (line : Nat) : MemWf (s.ownLine a line) := by
  have h1 := (h.useDie line).askOwner a line
  have h2 := fun (t : State) (ht : MemWf t) =>
    MemWf.foldl (t.holders line) (fun s c => if a.l1 = some c then s else s.flushLine c line) (fun _ _ hs => .iteOf _ hs (hs.flushLine _ _)) t ht
  have h3 : ∀ t : State, MemWf t → MemWf { t with dir := match a.out with | some q => t.dir.ins line [q] | none => t.dir.del line } :=
    fun t ht => ht.same rfl rfl rfl rfl
  have h4 := h3 _ (h2 _ h1)
  unfold State.ownLine
  dsimp only
  refine .iteOf _ h ?_
  split
  · exact (h4.allocLine _ _).l1 _
  · exact h4

theorem MemWf.touch {s : State} (h : MemWf s) (a : Acc) (pa n : Nat) : MemWf (s.touch a pa n) := by
  refine MemWf.foldl _ _ (fun s line h => ?_) s h
  have h1 := h.readLine a line
  exact .iteOf _ (((h1.setLinePsn _ _).countUE _ _ _).latent _) h1

theorem MemWf.commitNode {s : State} (h : MemWf s) (u : Nat) : MemWf (s.commitNode u) := by
  unfold State.commitNode
  split
  · exact h.same rfl rfl rfl rfl
  · exact h

theorem MemWf.beforeWrite {s : State} (h : MemWf s) (a : Acc) (pa : Nat) : MemWf (s.beforeWrite a pa) := by
  unfold State.beforeWrite
  dsimp only
  repeat' split
  all_goals first | exact h | exact h.commitNode _ | exact (h.commitNode _).commitNode _

theorem MemWf.rekey {s : State} (h : MemWf s) (a : Acc) (pa : Nat) (w : Bool) : MemWf (s.rekey a pa w) := by
  unfold State.rekey
  dsimp only
  split
  · exact h
  · have h1 := MemWf.foldl (s.holders (pa / 64)) (fun s c => s.flushLine c (pa / 64)) (fun _ _ hs => hs.flushLine _ _) s h
    refine MemWf.same (s := if w then List.foldl (fun s c => s.flushLine c (pa / 64)) s (s.holders (pa / 64)) else _) ?_ rfl rfl rfl rfl
    split
    · exact h1
    · exact MemWf.foldl _ _ (fun q i hq => hq.setRaw _ _) _ h1

theorem MemWf.noteProv {s : State} (h : MemWf s) (a : Acc) (pa : Nat) : MemWf (s.noteProv a pa) := by
  unfold State.noteProv
  exact .iteOf _ (h.same rfl rfl rfl rfl) h

theorem MemWf.putByte {s : State} (h : MemWf s) (a : Acc) (pa : Nat) (b : Byte) : MemWf (s.putByte a pa b) :=
  ((h.noteProv a pa).setRaw pa b).l1 _

theorem MemWf.breakResv {s : State} (h : MemWf s) (line : Nat) : MemWf (s.breakResv line) := h.same rfl rfl rfl rfl

theorem MemWf.prepWrite {s : State} (h : MemWf s) (a : Acc) (pa n : Nat) : MemWf (s.prepWrite a pa n) :=
  ((((h.touch a pa n).beforeWrite a pa).rekey a pa _).ownLine a _).breakResv _

theorem MemWf.putBytes {s : State} (h : MemWf s) (a : Acc) (pa : Nat) (bs : List Byte) : MemWf (s.putBytes a pa bs) :=
  MemWf.foldl _ _ (fun _ _ hs => hs.putByte _ _ _) s h

theorem MemWf.endWrite {s : State} (h : MemWf s) (a : Acc) (pa n : Nat) (psn : Bool) : MemWf (s.endWrite a pa n psn) := by
  unfold State.endWrite
  dsimp only
  have h1 := MemWf.iteOf (psn = true) (h.setLinePsn pa true) h
  exact .iteOf _ h1 (h1.reachHome _ _)

/-- A run of bytes in one line, by any agent. -/
theorem MemWf.writeRun {s : State} (h : MemWf s) (a : Acc) (pa : Nat) (bs : List Byte) (psn : Bool) : MemWf (s.writeRun a pa bs psn) := by
  cases bs with
  | nil => exact h
  | cons b bs => exact ((h.prepWrite a pa _).putBytes a pa _).endWrite a pa _ psn

theorem MemWf.writeBytes_go (a : Acc) (psn : Bool) (f : Nat) (s : State) (pa : Nat) (bs : List Byte) (n : Nat) (h : MemWf s) : MemWf (State.writeBytes.go a psn f s pa bs n) := by
  induction f generalizing s pa bs n with
  | zero => cases bs <;> exact h
  | succ f ih =>
    cases bs with
    | nil => exact h
    | cons b bs => exact ih _ _ _ _ (h.writeRun _ _ _ _)

theorem MemWf.writeBytes {s : State} (h : MemWf s) (a : Acc) (pa : Nat) (bs : List Byte) (psn : Bool) : MemWf (s.writeBytes a pa bs psn) :=
  MemWf.writeBytes_go a psn _ s pa bs _ h

theorem MemWf.writeLine {s : State} (h : MemWf s) (a : Acc) (pa : Nat) (bs : List Byte) (psn : Bool) : MemWf (s.writeLine a pa bs psn) := by
  have h1 := (h.writeRun a pa bs psn).setLinePsn pa psn
  unfold State.writeLine
  split
  · exact h1.l1 _
  · exact h1

theorem MemWf.spadTouch {s : State} (h : MemWf s) (c off : Nat) : MemWf (s.spadTouch c off) := by
  unfold State.spadTouch
  dsimp only
  split
  · exact ((h.updCore c (fun x => { x with spadPsn := x.spadPsn.ins (off / 64) () }) (fun _ h => h) (fun _ h => h)).countUE 3 c _).latent _
  · exact h

theorem MemWf.setSpad {s : State} (h : MemWf s) (c off : Nat) (b : Byte) (psn : Bool) : MemWf (s.setSpad c off b psn) :=
  h.updCore c _ (fun _ h => setCanon_wf _ _ _ h) (fun _ h => h)

theorem MemWf.zeroSpad {s : State} (h : MemWf s) (c off n : Nat) : MemWf (s.zeroSpad c off n) :=
  (h.latent _).updCore c _ (fun _ h => Memory.wf_filter _ _ h) (fun _ h => h)

/-! ## Barrier objects: their 16 bytes and the packs that wait on them -/

theorem MemWf.packs {s : State} (h : MemWf s) (x : FMap Pack) : MemWf { s with packs := x } := ⟨h.mem, h.mirror, h.chip, h.spad, h.args⟩

theorem MemWf.setBar {s : State} (h : MemWf s) (c off : Nat) (b : BarObj) : MemWf (s.setBar c off b) :=
  MemWf.foldl _ _ (fun _ _ hs => hs.setSpad _ _ _ _) s h

theorem MemWf.barTrapWaiters {s : State} (h : MemWf s) (c off d : Nat) : MemWf (s.barTrapWaiters c off d) := h.packs _
theorem MemWf.barRelease {s : State} (h : MemWf s) (c off : Nat) (ph : Bool) : MemWf (s.barRelease c off ph).1 := h.packs _

theorem MemWf.barComplete {s : State} (h : MemWf s) (c off : Nat) : MemWf (s.barComplete c off) := by
  unfold State.barComplete
  dsimp only
  exact ((h.setBar c off _).barRelease c off _).setBar c off _

theorem MemWf.barOverrun {s : State} (h : MemWf s) (c off x : Nat) (full : Bool) : MemWf (s.barOverrun c off x full) := by
  unfold State.barOverrun
  dsimp only
  exact (h.setBar c off _).barTrapWaiters c off 1

theorem MemWf.barEngine {s : State} (h : MemWf s) (c off n : Nat) : MemWf (s.barEngine c off n) := by
  unfold State.barEngine
  dsimp only
  have h1 := fun b => h.setBar c off b
  have h2 := fun x full => h.barOverrun c off x full
  exact .iteOf _ (h1 _) (.iteOf _ (h2 _ _) (.iteOf _ (h2 _ _) (.iteOf _ (h2 _ _) (.iteOf _ ((h1 _).barComplete c off) (h1 _)))))

theorem MemWf.setHeld {s : State} (h : MemWf s) (c off : Nat) (ns : List Nat) : MemWf (s.setHeld c off ns) :=
  h.updCore c _ (fun _ h => h) (fun _ h => h)

theorem MemWf.barDrainN {s : State} (h : MemWf s) (c off f : Nat) : MemWf (State.barDrainN c off f s) := by
  induction f generalizing s with
  | zero => exact h
  | succ f ih =>
    unfold State.barDrainN
    refine .iteOf _ h ?_
    split
    · exact h
    · exact ih ((h.setHeld c off _).barEngine c off _)

theorem MemWf.barDrain {s : State} (h : MemWf s) (c off : Nat) : MemWf (s.barDrain c off) := h.barDrainN c off _

theorem MemWf.barStored {s : State} (h : MemWf s) (c x : Nat) : MemWf (s.barStored c x) := by
  unfold State.barStored
  dsimp only
  exact .iteOf _ ((MemWf.iteOf _ (h.packs _) ((h.packs _).setBar _ _ _)).barDrain _ _) h

/-! ## Places -/

theorem MemWf.placesStored {s : State} (h : MemWf s) (ps : List Place) : MemWf (s.placesStored ps) :=
  MemWf.foldl _ _ (fun _ _ hs => hs.barStored _ _) s h

theorem MemWf.placeTouch {s : State} (h : MemWf s) (p : Place) : MemWf (s.placeTouch p) := by
  cases p with
  | mem a pa => exact h.touch a pa 1
  | spad c off => exact h.spadTouch c off
  | chip off => exact h

theorem MemWf.readPlaces {s : State} (h : MemWf s) (ps : List Place) : MemWf (s.readPlaces ps).1 :=
  MemWf.foldl ps State.placeTouch (fun _ p h => h.placeTouch p) s h

theorem MemWf.writePlace {s : State} (h : MemWf s) (node : Nat) (p : Place) (b : Byte) (psn : Bool) : MemWf (s.writePlace node p b psn) := by
  cases p with
  | mem a pa => exact h.writeRun a pa [b] psn
  | spad c off => exact (h.spadTouch c off).setSpad c off b psn
  | chip off =>
    have h := h.commitNode node
    exact ⟨h.mem, h.mirror, setCanon_wf _ _ _ h.chip, h.spad, h.args⟩

theorem MemWf.writePlaces {s : State} (h : MemWf s) (node : Nat) (ps : List Place) (bs : List Byte) (psn : Bool) : MemWf (s.writePlaces node ps bs psn) := by
  have hf := (MemWf.foldl (ps.zip bs) (fun s x => s.writePlace node x.1 x.2 psn) (fun s x h => h.writePlace node x.1 x.2 psn) s h).placesStored ps
  unfold State.writePlaces
  dsimp only
  split
  · exact .iteOf _ (h.writeRun _ _ _ _) hf
  · exact hf

/-- The mirror of the buddy's home (R356). -/
theorem MemWf.mirrorHold {s t : State} (h : MemWf s) (off : Nat) (bs : List Byte) (ht : execMirrorUpdate (.hold off) bs s = .next t) : MemWf t := by
  have h1 := MemWf.foldl (linesOf (2 ^ 51 + buddy s.pkgId * 2 ^ 34 + off) bs.length) (fun s x => s.ownLine {} x) (fun _ _ hs => hs.ownLine _ _) s h
  have h2 := MemWf.foldl bs.zipIdx (fun s b => s.setRaw (2 ^ 51 + buddy s.pkgId * 2 ^ 34 + off + b.2) b.1) (fun _ _ hs => hs.setRaw _ _) _ h1
  unfold execMirrorUpdate at ht
  dsimp only at ht
  split at ht
  · exact Host.Outcome.next.inj ht ▸ h
  · refine Host.Outcome.next.inj ht ▸ ?_
    exact MemWf.foldl _ _ (fun _ _ hs => hs.setRaw _ _) _ h1

end Sys2Proof.Machine
end

