-- ==== Sys2Proof/Laws/PerInstr.lean ====
section
/-! SUPPORT. Per instruction: its encoding is at most four words (its prefixes, its word, its second word), each of 32 bits (R28, R30, R31). -/

namespace Sys2Proof.Laws.Words

/-- At most n words, each of 32 bits. -/
def Fits (n : Nat) (ws : List Nat) : Prop := ws.length ≤ n ∧ ∀ w ∈ ws, w < 2 ^ 32

theorem Fits.append {m n : Nat} {a b : List Nat} (ha : Fits m a) (hb : Fits n b) : Fits (m + n) (a ++ b) := by
  refine ⟨by rw [List.length_append]; exact Nat.add_le_add ha.1 hb.1, fun w h => ?_⟩
  rcases List.mem_append.mp h with h | h
  · exact ha.2 w h
  · exact hb.2 w h

theorem Fits.pfx (p : Option Pfx) : Fits 1 (pfxW p) := by
  cases p with
  | none => exact ⟨by simp [pfxW], by simp [pfxW]⟩
  | some p =>
    refine ⟨by simp [pfxW], fun w h => ?_⟩
    have h1 := p.mr.isLt
    have h2 := p.rm.isLt
    have h3 := p.f4.isLt
    have h4 : p.mz.toNat ≤ 1 := by cases p.mz <;> simp
    have h5 : p.sat.toNat ≤ 1 := by cases p.sat <;> simp
    simp only [pfxW, wd, List.mem_singleton] at h
    omega

theorem Fits.imx (h : Option (BitVec 21)) : Fits 1 (imxW h) := by
  cases h with
  | none => exact ⟨by simp [imxW], by simp [imxW]⟩
  | some x =>
    refine ⟨by simp [imxW], fun w hw => ?_⟩
    have := x.isLt
    simp only [imxW, wd, List.mem_singleton] at hw
    omega

theorem Fits.one {a : Nat} (h : a < 2 ^ 32) : Fits 1 [a] := ⟨by simp, by simpa using h⟩

theorem Fits.two {a b : Nat} (h : a < 2 ^ 32) (g : b < 2 ^ 32) : Fits 2 [a, b] := ⟨by simp, by simp; omega⟩

theorem Fits.nil : Fits 0 [] := ⟨by simp, by simp⟩

theorem Fits.le {m n : Nat} {ws : List Nat} (h : Fits m ws) (hmn : m ≤ n) : Fits n ws := ⟨Nat.le_trans h.1 hmn, h.2⟩

/-- The encoding of the instruction fits in four words. -/
def Statement (i : Instr) : Prop := Fits 4 (encode i)

theorem nop : Statement (.nop) := Fits.le (Fits.one (by unfold wd; omega)) (by decide)
theorem bra (o : BitVec 25) : Statement (.bra o) := Fits.le (Fits.one (by unfold wd; omega)) (by decide)
theorem brc (m : BitVec 3) (k : BitVec 1) (o : BitVec 21) : Statement (.brc m k o) := Fits.le (Fits.one (by unfold wd; omega)) (by decide)
theorem brx (a : VReg) : Statement (.brx a) := Fits.le (Fits.one (by unfold wd; omega)) (by decide)
theorem call (dem argc retc : BitVec 4) (ab : VReg) (off : BitVec 32) : Statement (.call dem argc retc ab off) := Fits.le (Fits.two (by unfold wd; omega) (by omega)) (by decide)
theorem callx (dem argc retc : BitVec 4) (ab : VReg) (r : BitVec 5) : Statement (.callx dem argc retc ab r) := Fits.le (Fits.one (by unfold wd; omega)) (by decide)
theorem ret : Statement (.ret) := Fits.le (Fits.one (by unfold wd; omega)) (by decide)
theorem unwind (n : BitVec 8) : Statement (.unwind n) := Fits.le (Fits.one (by unfold wd; omega)) (by decide)
theorem resize (n : BitVec 4) : Statement (.resize n) := Fits.le (Fits.one (by unfold wd; omega)) (by decide)
theorem yield : Statement (.yield) := Fits.le (Fits.one (by unfold wd; omega)) (by decide)
theorem exit : Statement (.exit) := Fits.le (Fits.one (by unfold wd; omega)) (by decide)
theorem trap (n : BitVec 18) : Statement (.trap n) := Fits.le (Fits.one (by unfold wd; omega)) (by decide)
theorem bkpt (n : BitVec 18) : Statement (.bkpt n) := Fits.le (Fits.one (by unfold wd; omega)) (by decide)
theorem syscall (n : BitVec 18) : Statement (.syscall n) := Fits.le (Fits.one (by unfold wd; omega)) (by decide)
theorem mprog (q : BitVec 7) (k : BitVec 6) : Statement (.mprog q k) := Fits.le (Fits.one (by unfold wd; omega)) (by decide)
theorem iadd (p : Option Pfx) (d a b : VReg) (x : BitVec 4) : Statement (.iadd p d a b x) := Fits.le (Fits.append (Fits.pfx p) (Fits.one (by unfold wd; omega))) (by decide)
theorem isub (p : Option Pfx) (d a b : VReg) (x : BitVec 4) : Statement (.isub p d a b x) := Fits.le (Fits.append (Fits.pfx p) (Fits.one (by unfold wd; omega))) (by decide)
theorem iaddi (p : Option Pfx) (d a : VReg) (i : Imm 11) : Statement (.iaddi p d a i) := Fits.le (Fits.append (Fits.pfx p) (Fits.append (Fits.imx _) (Fits.one (by unfold wd; omega)))) (by decide)
theorem imul (p : Option Pfx) (d a b : VReg) (x : BitVec 4) : Statement (.imul p d a b x) := Fits.le (Fits.append (Fits.pfx p) (Fits.one (by unfold wd; omega))) (by decide)
theorem imuli (p : Option Pfx) (d a : VReg) (i : Imm 11) : Statement (.imuli p d a i) := Fits.le (Fits.append (Fits.pfx p) (Fits.append (Fits.imx _) (Fits.one (by unfold wd; omega)))) (by decide)
theorem imad (p : Option Pfx) (d a b : VReg) (x : BitVec 4) : Statement (.imad p d a b x) := Fits.le (Fits.append (Fits.pfx p) (Fits.one (by unfold wd; omega))) (by decide)
theorem imin (p : Option Pfx) (d a b : VReg) (x : BitVec 4) : Statement (.imin p d a b x) := Fits.le (Fits.append (Fits.pfx p) (Fits.one (by unfold wd; omega))) (by decide)
theorem imax (p : Option Pfx) (d a b : VReg) (x : BitVec 4) : Statement (.imax p d a b x) := Fits.le (Fits.append (Fits.pfx p) (Fits.one (by unfold wd; omega))) (by decide)
theorem iabs (p : Option Pfx) (d a : VReg) : Statement (.iabs p d a) := Fits.le (Fits.append (Fits.pfx p) (Fits.one (by unfold wd; omega))) (by decide)
theorem ineg (p : Option Pfx) (d a : VReg) : Statement (.ineg p d a) := Fits.le (Fits.append (Fits.pfx p) (Fits.one (by unfold wd; omega))) (by decide)
theorem inot (p : Option Pfx) (d a : VReg) : Statement (.inot p d a) := Fits.le (Fits.append (Fits.pfx p) (Fits.one (by unfold wd; omega))) (by decide)
theorem popc (p : Option Pfx) (d a : VReg) : Statement (.popc p d a) := Fits.le (Fits.append (Fits.pfx p) (Fits.one (by unfold wd; omega))) (by decide)
theorem clz (p : Option Pfx) (d a : VReg) : Statement (.clz p d a) := Fits.le (Fits.append (Fits.pfx p) (Fits.one (by unfold wd; omega))) (by decide)
theorem ctz (p : Option Pfx) (d a : VReg) : Statement (.ctz p d a) := Fits.le (Fits.append (Fits.pfx p) (Fits.one (by unfold wd; omega))) (by decide)
theorem brev (p : Option Pfx) (d a : VReg) : Statement (.brev p d a) := Fits.le (Fits.append (Fits.pfx p) (Fits.one (by unfold wd; omega))) (by decide)
theorem bswap (p : Option Pfx) (d a : VReg) : Statement (.bswap p d a) := Fits.le (Fits.append (Fits.pfx p) (Fits.one (by unfold wd; omega))) (by decide)
theorem isad (p : Option Pfx) (d a b : VReg) (x : BitVec 4) : Statement (.isad p d a b x) := Fits.le (Fits.append (Fits.pfx p) (Fits.one (by unfold wd; omega))) (by decide)
theorem shl (p : Option Pfx) (d a b : VReg) (x : BitVec 4) : Statement (.shl p d a b x) := Fits.le (Fits.append (Fits.pfx p) (Fits.one (by unfold wd; omega))) (by decide)
theorem shr (p : Option Pfx) (d a b : VReg) (x : BitVec 4) : Statement (.shr p d a b x) := Fits.le (Fits.append (Fits.pfx p) (Fits.one (by unfold wd; omega))) (by decide)
theorem sar (p : Option Pfx) (d a b : VReg) (x : BitVec 4) : Statement (.sar p d a b x) := Fits.le (Fits.append (Fits.pfx p) (Fits.one (by unfold wd; omega))) (by decide)
theorem rotl (p : Option Pfx) (d a b : VReg) : Statement (.rotl p d a b) := Fits.le (Fits.append (Fits.pfx p) (Fits.one (by unfold wd; omega))) (by decide)
theorem rotr (p : Option Pfx) (d a b : VReg) : Statement (.rotr p d a b) := Fits.le (Fits.append (Fits.pfx p) (Fits.one (by unfold wd; omega))) (by decide)
theorem shli (p : Option Pfx) (d a : VReg) (pr : BitVec 1) (n : BitVec 6) : Statement (.shli p d a pr n) := Fits.le (Fits.append (Fits.pfx p) (Fits.one (by unfold wd; omega))) (by decide)
theorem shri (p : Option Pfx) (d a : VReg) (pr : BitVec 1) (n : BitVec 6) : Statement (.shri p d a pr n) := Fits.le (Fits.append (Fits.pfx p) (Fits.one (by unfold wd; omega))) (by decide)
theorem sari (p : Option Pfx) (d a : VReg) (pr : BitVec 1) (n : BitVec 6) : Statement (.sari p d a pr n) := Fits.le (Fits.append (Fits.pfx p) (Fits.one (by unfold wd; omega))) (by decide)
theorem and (p : Option Pfx) (d a b : VReg) : Statement (.and p d a b) := Fits.le (Fits.append (Fits.pfx p) (Fits.one (by unfold wd; omega))) (by decide)
theorem or (p : Option Pfx) (d a b : VReg) : Statement (.or p d a b) := Fits.le (Fits.append (Fits.pfx p) (Fits.one (by unfold wd; omega))) (by decide)
theorem xor (p : Option Pfx) (d a b : VReg) : Statement (.xor p d a b) := Fits.le (Fits.append (Fits.pfx p) (Fits.one (by unfold wd; omega))) (by decide)
theorem andn (p : Option Pfx) (d a b : VReg) : Statement (.andn p d a b) := Fits.le (Fits.append (Fits.pfx p) (Fits.one (by unfold wd; omega))) (by decide)
theorem orn (p : Option Pfx) (d a b : VReg) : Statement (.orn p d a b) := Fits.le (Fits.append (Fits.pfx p) (Fits.one (by unfold wd; omega))) (by decide)
theorem xnor (p : Option Pfx) (d a b : VReg) : Statement (.xnor p d a b) := Fits.le (Fits.append (Fits.pfx p) (Fits.one (by unfold wd; omega))) (by decide)
theorem andi (p : Option Pfx) (d a : VReg) (i : Imm 11) : Statement (.andi p d a i) := Fits.le (Fits.append (Fits.pfx p) (Fits.append (Fits.imx _) (Fits.one (by unfold wd; omega)))) (by decide)
theorem ori (p : Option Pfx) (d a : VReg) (i : Imm 11) : Statement (.ori p d a i) := Fits.le (Fits.append (Fits.pfx p) (Fits.append (Fits.imx _) (Fits.one (by unfold wd; omega)))) (by decide)
theorem xori (p : Option Pfx) (d a : VReg) (i : Imm 11) : Statement (.xori p d a i) := Fits.le (Fits.append (Fits.pfx p) (Fits.append (Fits.imx _) (Fits.one (by unfold wd; omega)))) (by decide)
theorem bfx (p : Option Pfx) (d a : VReg) (len : BitVec 6) (pos : BitVec 5) : Statement (.bfx p d a len pos) := Fits.le (Fits.append (Fits.pfx p) (Fits.one (by unfold wd; omega))) (by decide)
theorem bfxs (p : Option Pfx) (d a : VReg) (len : BitVec 6) (pos : BitVec 5) : Statement (.bfxs p d a len pos) := Fits.le (Fits.append (Fits.pfx p) (Fits.one (by unfold wd; omega))) (by decide)
theorem bfi (p : Option Pfx) (d a : VReg) (len : BitVec 6) (pos : BitVec 5) : Statement (.bfi p d a len pos) := Fits.le (Fits.append (Fits.pfx p) (Fits.one (by unfold wd; omega))) (by decide)
theorem icmp (p : Option Pfx) (m : BitVec 3) (c : BitVec 4) (a b : VReg) (x : BitVec 4) : Statement (.icmp p m c a b x) := Fits.le (Fits.append (Fits.pfx p) (Fits.one (by unfold wd; omega))) (by decide)
theorem icmpi (p : Option Pfx) (m : BitVec 3) (c : BitVec 4) (a : VReg) (i : Imm 11) : Statement (.icmpi p m c a i) := Fits.le (Fits.append (Fits.pfx p) (Fits.append (Fits.imx _) (Fits.one (by unfold wd; omega)))) (by decide)
theorem sel (p : Option Pfx) (d a b : VReg) (m : BitVec 3) : Statement (.sel p d a b m) := Fits.le (Fits.append (Fits.pfx p) (Fits.one (by unfold wd; omega))) (by decide)
theorem mov (p : Option Pfx) (d a : VReg) : Statement (.mov p d a) := Fits.le (Fits.append (Fits.pfx p) (Fits.one (by unfold wd; omega))) (by decide)
theorem movs (p : Option Pfx) (d : VReg) (a : BitVec 7) : Statement (.movs p d a) := Fits.le (Fits.append (Fits.pfx p) (Fits.one (by unfold wd; omega))) (by decide)
theorem movm (p : Option Pfx) (d : VReg) (m : BitVec 3) : Statement (.movm p d m) := Fits.le (Fits.append (Fits.pfx p) (Fits.one (by unfold wd; omega))) (by decide)
theorem mvm (p : Option Pfx) (m : BitVec 3) (a : VReg) : Statement (.mvm p m a) := Fits.le (Fits.append (Fits.pfx p) (Fits.one (by unfold wd; omega))) (by decide)
theorem movi (p : Option Pfx) (d : VReg) (i : Imm 18) : Statement (.movi p d i) := Fits.le (Fits.append (Fits.pfx p) (Fits.append (Fits.imx _) (Fits.one (by unfold wd; omega)))) (by decide)
theorem lea (p : Option Pfx) (d a b : VReg) (x : BitVec 4) : Statement (.lea p d a b x) := Fits.le (Fits.append (Fits.pfx p) (Fits.one (by unfold wd; omega))) (by decide)
theorem idiv (p : Option Pfx) (d a b : VReg) (la : BitVec 4) : Statement (.idiv p d a b la) := Fits.le (Fits.append (Fits.pfx p) (Fits.one (by unfold wd; omega))) (by decide)
theorem ndiv (p : Option Pfx) (d a b : VReg) (la : BitVec 4) : Statement (.ndiv p d a b la) := Fits.le (Fits.append (Fits.pfx p) (Fits.one (by unfold wd; omega))) (by decide)
theorem sadd (d a b : BitVec 7) : Statement (.sadd d a b) := Fits.le (Fits.one (by unfold wd; omega)) (by decide)
theorem saddi (d a : BitVec 7) (i : Imm 11) : Statement (.saddi d a i) := Fits.le (Fits.append (Fits.imx _) (Fits.one (by unfold wd; omega))) (by decide)
theorem ssub (d a b : BitVec 7) : Statement (.ssub d a b) := Fits.le (Fits.one (by unfold wd; omega)) (by decide)
theorem smul (d a b : BitVec 7) : Statement (.smul d a b) := Fits.le (Fits.one (by unfold wd; omega)) (by decide)
theorem sand (d a b : BitVec 7) : Statement (.sand d a b) := Fits.le (Fits.one (by unfold wd; omega)) (by decide)
theorem sor (d a b : BitVec 7) : Statement (.sor d a b) := Fits.le (Fits.one (by unfold wd; omega)) (by decide)
theorem sxor (d a b : BitVec 7) : Statement (.sxor d a b) := Fits.le (Fits.one (by unfold wd; omega)) (by decide)
theorem sshl (d a b : BitVec 7) : Statement (.sshl d a b) := Fits.le (Fits.one (by unfold wd; omega)) (by decide)
theorem sshr (d a b : BitVec 7) : Statement (.sshr d a b) := Fits.le (Fits.one (by unfold wd; omega)) (by decide)
theorem ssar (d a b : BitVec 7) : Statement (.ssar d a b) := Fits.le (Fits.one (by unfold wd; omega)) (by decide)
theorem scmp (d a b : BitVec 7) (c : BitVec 4) : Statement (.scmp d a b c) := Fits.le (Fits.one (by unfold wd; omega)) (by decide)
theorem smovi (d : BitVec 7) (i : Imm 18) : Statement (.smovi d i) := Fits.le (Fits.append (Fits.imx _) (Fits.one (by unfold wd; omega))) (by decide)
theorem smov (d a : BitVec 7) : Statement (.smov d a) := Fits.le (Fits.one (by unfold wd; omega)) (by decide)
theorem rdlane (d : BitVec 7) (a : VReg) (n : BitVec 7) : Statement (.rdlane d a n) := Fits.le (Fits.one (by unfold wd; omega)) (by decide)
theorem wrlane (d : VReg) (a n : BitVec 7) : Statement (.wrlane d a n) := Fits.le (Fits.one (by unfold wd; omega)) (by decide)
theorem smask (d : BitVec 7) (m : BitVec 3) : Statement (.smask d m) := Fits.le (Fits.one (by unfold wd; omega)) (by decide)
theorem mset (m : BitVec 3) (a : BitVec 7) : Statement (.mset m a) := Fits.le (Fits.one (by unfold wd; omega)) (by decide)
theorem sld (d a : BitVec 7) (w : BitVec 3) (i : Imm 4) (la : BitVec 4) : Statement (.sld d a w i la) := Fits.le (Fits.append (Fits.imx _) (Fits.one (by unfold wd; omega))) (by decide)
theorem sst (d a : BitVec 7) (w : BitVec 3) (i : Imm 4) (la : BitVec 4) : Statement (.sst d a w i la) := Fits.le (Fits.append (Fits.imx _) (Fits.one (by unfold wd; omega))) (by decide)
theorem sbr (d c : BitVec 7) (i : Imm 11) : Statement (.sbr d c i) := Fits.le (Fits.append (Fits.imx _) (Fits.one (by unfold wd; omega))) (by decide)
theorem vany (d : BitVec 7) (a : VReg) : Statement (.vany d a) := Fits.le (Fits.one (by unfold wd; omega)) (by decide)
theorem vall (d : BitVec 7) (a : VReg) : Statement (.vall d a) := Fits.le (Fits.one (by unfold wd; omega)) (by decide)
theorem ballot (m : BitVec 3) (a : VReg) : Statement (.ballot m a) := Fits.le (Fits.one (by unfold wd; omega)) (by decide)
theorem vcount (d : BitVec 7) (a : VReg) : Statement (.vcount d a) := Fits.le (Fits.one (by unfold wd; omega)) (by decide)
theorem waitev (d : BitVec 7) (c : BitVec 8) : Statement (.waitev d c) := Fits.le (Fits.one (by unfold wd; omega)) (by decide)
theorem ldc (d a : BitVec 7) (w : BitVec 3) (i : Imm 4) (la : BitVec 4) : Statement (.ldc d a w i la) := Fits.le (Fits.append (Fits.imx _) (Fits.one (by unfold wd; omega))) (by decide)
theorem srd (d : BitVec 7) (r : BitVec 12) : Statement (.srd d r) := Fits.le (Fits.one (by unfold wd; omega)) (by decide)
theorem swr (d : BitVec 7) (r : BitVec 12) : Statement (.swr d r) := Fits.le (Fits.one (by unfold wd; omega)) (by decide)
theorem fadd (p : Option Pfx) (d a b : VReg) (t : BitVec 4) : Statement (.fadd p d a b t) := Fits.le (Fits.append (Fits.pfx p) (Fits.one (by unfold wd; omega))) (by decide)
theorem fsub (p : Option Pfx) (d a b : VReg) (t : BitVec 4) : Statement (.fsub p d a b t) := Fits.le (Fits.append (Fits.pfx p) (Fits.one (by unfold wd; omega))) (by decide)
theorem fmul (p : Option Pfx) (d a b : VReg) (t : BitVec 4) : Statement (.fmul p d a b t) := Fits.le (Fits.append (Fits.pfx p) (Fits.one (by unfold wd; omega))) (by decide)
theorem ffma (p : Option Pfx) (d a b : VReg) (t : BitVec 4) : Statement (.ffma p d a b t) := Fits.le (Fits.append (Fits.pfx p) (Fits.one (by unfold wd; omega))) (by decide)
theorem fmin (p : Option Pfx) (d a b : VReg) (t : BitVec 4) : Statement (.fmin p d a b t) := Fits.le (Fits.append (Fits.pfx p) (Fits.one (by unfold wd; omega))) (by decide)
theorem fmax (p : Option Pfx) (d a b : VReg) (t : BitVec 4) : Statement (.fmax p d a b t) := Fits.le (Fits.append (Fits.pfx p) (Fits.one (by unfold wd; omega))) (by decide)
theorem fminp (p : Option Pfx) (d a b : VReg) (t : BitVec 4) : Statement (.fminp p d a b t) := Fits.le (Fits.append (Fits.pfx p) (Fits.one (by unfold wd; omega))) (by decide)
theorem fmaxp (p : Option Pfx) (d a b : VReg) (t : BitVec 4) : Statement (.fmaxp p d a b t) := Fits.le (Fits.append (Fits.pfx p) (Fits.one (by unfold wd; omega))) (by decide)
theorem fcmp (p : Option Pfx) (m : BitVec 3) (c : BitVec 4) (a b : VReg) (x : BitVec 4) : Statement (.fcmp p m c a b x) := Fits.le (Fits.append (Fits.pfx p) (Fits.one (by unfold wd; omega))) (by decide)
theorem fclass (p : Option Pfx) (d a : VReg) (t : BitVec 4) : Statement (.fclass p d a t) := Fits.le (Fits.append (Fits.pfx p) (Fits.one (by unfold wd; omega))) (by decide)
theorem frnd (p : Option Pfx) (d a : VReg) (n : BitVec 7) (t : BitVec 4) : Statement (.frnd p d a n t) := Fits.le (Fits.append (Fits.pfx p) (Fits.one (by unfold wd; omega))) (by decide)
theorem fscalb (p : Option Pfx) (d a b : VReg) (t : BitVec 4) : Statement (.fscalb p d a b t) := Fits.le (Fits.append (Fits.pfx p) (Fits.one (by unfold wd; omega))) (by decide)
theorem fabs (p : Option Pfx) (d a : VReg) : Statement (.fabs p d a) := Fits.le (Fits.append (Fits.pfx p) (Fits.one (by unfold wd; omega))) (by decide)
theorem fneg (p : Option Pfx) (d a : VReg) : Statement (.fneg p d a) := Fits.le (Fits.append (Fits.pfx p) (Fits.one (by unfold wd; omega))) (by decide)
theorem fnabs (p : Option Pfx) (d a : VReg) : Statement (.fnabs p d a) := Fits.le (Fits.append (Fits.pfx p) (Fits.one (by unfold wd; omega))) (by decide)
theorem fcpsgn (p : Option Pfx) (d a b : VReg) : Statement (.fcpsgn p d a b) := Fits.le (Fits.append (Fits.pfx p) (Fits.one (by unfold wd; omega))) (by decide)
theorem fdot2 (p : Option Pfx) (d a b : VReg) (t : BitVec 4) : Statement (.fdot2 p d a b t) := Fits.le (Fits.append (Fits.pfx p) (Fits.one (by unfold wd; omega))) (by decide)
theorem fclamp (p : Option Pfx) (d a b : VReg) (t : BitVec 4) : Statement (.fclamp p d a b t) := Fits.le (Fits.append (Fits.pfx p) (Fits.one (by unfold wd; omega))) (by decide)
theorem pack (p : Option Pfx) (d a b : VReg) (x : BitVec 4) : Statement (.pack p d a b x) := Fits.le (Fits.append (Fits.pfx p) (Fits.one (by unfold wd; omega))) (by decide)
theorem fdiv (p : Option Pfx) (d a b : VReg) (la : BitVec 4) : Statement (.fdiv p d a b la) := Fits.le (Fits.append (Fits.pfx p) (Fits.one (by unfold wd; omega))) (by decide)
theorem fsqrt (p : Option Pfx) (d a : VReg) (la : BitVec 4) : Statement (.fsqrt p d a la) := Fits.le (Fits.append (Fits.pfx p) (Fits.one (by unfold wd; omega))) (by decide)
theorem fexp2 (p : Option Pfx) (d a : VReg) (la : BitVec 4) : Statement (.fexp2 p d a la) := Fits.le (Fits.append (Fits.pfx p) (Fits.one (by unfold wd; omega))) (by decide)
theorem flog2 (p : Option Pfx) (d a : VReg) (la : BitVec 4) : Statement (.flog2 p d a la) := Fits.le (Fits.append (Fits.pfx p) (Fits.one (by unfold wd; omega))) (by decide)
theorem fsin (p : Option Pfx) (d a : VReg) (la : BitVec 4) : Statement (.fsin p d a la) := Fits.le (Fits.append (Fits.pfx p) (Fits.one (by unfold wd; omega))) (by decide)
theorem fcos (p : Option Pfx) (d a : VReg) (la : BitVec 4) : Statement (.fcos p d a la) := Fits.le (Fits.append (Fits.pfx p) (Fits.one (by unfold wd; omega))) (by decide)
theorem frcp (p : Option Pfx) (d a : VReg) (la : BitVec 4) : Statement (.frcp p d a la) := Fits.le (Fits.append (Fits.pfx p) (Fits.one (by unfold wd; omega))) (by decide)
theorem frsq (p : Option Pfx) (d a : VReg) (la : BitVec 4) : Statement (.frsq p d a la) := Fits.le (Fits.append (Fits.pfx p) (Fits.one (by unfold wd; omega))) (by decide)
theorem ftanh (p : Option Pfx) (d a : VReg) (la : BitVec 4) : Statement (.ftanh p d a la) := Fits.le (Fits.append (Fits.pfx p) (Fits.one (by unfold wd; omega))) (by decide)
theorem fsigm (p : Option Pfx) (d a : VReg) (la : BitVec 4) : Statement (.fsigm p d a la) := Fits.le (Fits.append (Fits.pfx p) (Fits.one (by unfold wd; omega))) (by decide)
theorem cvtf (p : Option Pfx) (d a : VReg) (src : BitVec 4) (dst : BitVec 3) (la : BitVec 4) : Statement (.cvtf p d a src dst la) := Fits.le (Fits.append (Fits.pfx p) (Fits.one (by unfold wd; omega))) (by decide)
theorem cvti (p : Option Pfx) (d a : VReg) (src dst : BitVec 3) (sat : BitVec 1) (la : BitVec 4) : Statement (.cvti p d a src dst sat la) := Fits.le (Fits.append (Fits.pfx p) (Fits.one (by unfold wd; omega))) (by decide)
theorem qscale (p : Option Pfx) (d a : VReg) (fmt : BitVec 3) (la : BitVec 4) : Statement (.qscale p d a fmt la) := Fits.le (Fits.append (Fits.pfx p) (Fits.one (by unfold wd; omega))) (by decide)
theorem shfl (p : Option Pfx) (d a b : VReg) (seg : BitVec 2) : Statement (.shfl p d a b seg) := Fits.le (Fits.append (Fits.pfx p) (Fits.one (by unfold wd; omega))) (by decide)
theorem shflup (p : Option Pfx) (d a : VReg) (seg : BitVec 2) (n : BitVec 5) : Statement (.shflup p d a seg n) := Fits.le (Fits.append (Fits.pfx p) (Fits.one (by unfold wd; omega))) (by decide)
theorem shfldn (p : Option Pfx) (d a : VReg) (seg : BitVec 2) (n : BitVec 5) : Statement (.shfldn p d a seg n) := Fits.le (Fits.append (Fits.pfx p) (Fits.one (by unfold wd; omega))) (by decide)
theorem shflx (p : Option Pfx) (d a : VReg) (seg : BitVec 2) (n : BitVec 5) : Statement (.shflx p d a seg n) := Fits.le (Fits.append (Fits.pfx p) (Fits.one (by unfold wd; omega))) (by decide)
theorem qswz (p : Option Pfx) (d a : VReg) (pat : BitVec 8) : Statement (.qswz p d a pat) := Fits.le (Fits.append (Fits.pfx p) (Fits.one (by unfold wd; omega))) (by decide)
theorem redux (p : Option Pfx) (d a : VReg) (k : BitVec 4) : Statement (.redux p d a k) := Fits.le (Fits.append (Fits.pfx p) (Fits.one (by unfold wd; omega))) (by decide)
theorem scan (p : Option Pfx) (d a : VReg) (ex : BitVec 1) (k : BitVec 4) : Statement (.scan p d a ex k) := Fits.le (Fits.append (Fits.pfx p) (Fits.one (by unfold wd; omega))) (by decide)
theorem matchl (p : Option Pfx) (d a : VReg) (x : BitVec 1) : Statement (.matchl p d a x) := Fits.le (Fits.append (Fits.pfx p) (Fits.one (by unfold wd; omega))) (by decide)
theorem ld (p : Option Pfx) (d a : VReg) (w : BitVec 3) (i : Imm 4) (la : BitVec 4) : Statement (.ld p d a w i la) := Fits.le (Fits.append (Fits.pfx p) (Fits.append (Fits.imx _) (Fits.one (by unfold wd; omega)))) (by decide)
theorem lds (p : Option Pfx) (d a : VReg) (w : BitVec 3) (i : Imm 4) (la : BitVec 4) : Statement (.lds p d a w i la) := Fits.le (Fits.append (Fits.pfx p) (Fits.append (Fits.imx _) (Fits.one (by unfold wd; omega)))) (by decide)
theorem ldx (p : Option Pfx) (d a : VReg) (w : BitVec 3) (i : Imm 4) (la : BitVec 4) : Statement (.ldx p d a w i la) := Fits.le (Fits.append (Fits.pfx p) (Fits.append (Fits.imx _) (Fits.one (by unfold wd; omega)))) (by decide)
theorem st (p : Option Pfx) (d a : VReg) (w : BitVec 3) (i : Imm 4) (la : BitVec 4) : Statement (.st p d a w i la) := Fits.le (Fits.append (Fits.pfx p) (Fits.append (Fits.imx _) (Fits.one (by unfold wd; omega)))) (by decide)
theorem sts (p : Option Pfx) (d a : VReg) (w : BitVec 3) (i : Imm 4) (la : BitVec 4) : Statement (.sts p d a w i la) := Fits.le (Fits.append (Fits.pfx p) (Fits.append (Fits.imx _) (Fits.one (by unfold wd; omega)))) (by decide)
theorem stx (p : Option Pfx) (d a : VReg) (w : BitVec 3) (i : Imm 4) (la : BitVec 4) : Statement (.stx p d a w i la) := Fits.le (Fits.append (Fits.pfx p) (Fits.append (Fits.imx _) (Fits.one (by unfold wd; omega)))) (by decide)
theorem ldm (p : Option Pfx) (d a : VReg) (w : BitVec 3) (i : Imm 4) (la : BitVec 4) : Statement (.ldm p d a w i la) := Fits.le (Fits.append (Fits.pfx p) (Fits.append (Fits.imx _) (Fits.one (by unfold wd; omega)))) (by decide)
theorem stm (p : Option Pfx) (d a : VReg) (w : BitVec 3) (i : Imm 4) (la : BitVec 4) : Statement (.stm p d a w i la) := Fits.le (Fits.append (Fits.pfx p) (Fits.append (Fits.imx _) (Fits.one (by unfold wd; omega)))) (by decide)
theorem atom (d a b : VReg) (la : BitVec 4) (sm : BitVec 3) (hint : BitVec 2) (c : VReg) (width : BitVec 2) (scope : BitVec 3) (order : BitVec 2) (k : BitVec 4) : Statement (.atom d a b la sm hint c width scope order k) := Fits.le (Fits.two (by unfold wd; omega) (by omega)) (by decide)
theorem atomr (d a b : VReg) (la : BitVec 4) (sm : BitVec 3) (hint : BitVec 2) (c : VReg) (width : BitVec 2) (scope : BitVec 3) (order : BitVec 2) (k : BitVec 4) : Statement (.atomr d a b la sm hint c width scope order k) := Fits.le (Fits.two (by unfold wd; omega) (by omega)) (by decide)
theorem red (d a b : VReg) (la : BitVec 4) (sm : BitVec 3) (hint : BitVec 2) (c : VReg) (width : BitVec 2) (scope : BitVec 3) (order : BitVec 2) (k : BitVec 4) : Statement (.red d a b la sm hint c width scope order k) := Fits.le (Fits.two (by unfold wd; omega) (by omega)) (by decide)
theorem barinit (a b : VReg) : Statement (.barinit a b) := Fits.le (Fits.one (by unfold wd; omega)) (by decide)
theorem bararv (m : BitVec 3) (a b : VReg) : Statement (.bararv m a b) := Fits.le (Fits.one (by unfold wd; omega)) (by decide)
theorem baraw (m : BitVec 3) (a b : VReg) : Statement (.baraw m a b) := Fits.le (Fits.one (by unfold wd; omega)) (by decide)
theorem barwait (a : VReg) : Statement (.barwait a) := Fits.le (Fits.one (by unfold wd; omega)) (by decide)
theorem bartest (m : BitVec 3) (a : VReg) : Statement (.bartest m a) := Fits.le (Fits.one (by unfold wd; omega)) (by decide)
theorem barexp (a b : VReg) : Statement (.barexp a b) := Fits.le (Fits.one (by unfold wd; omega)) (by decide)
theorem bardrop (a b : VReg) : Statement (.bardrop a b) := Fits.le (Fits.one (by unfold wd; omega)) (by decide)
theorem psync (a : VReg) : Statement (.psync a) := Fits.le (Fits.one (by unfold wd; omega)) (by decide)
theorem fence (scope : BitVec 3) (k : BitVec 2) : Statement (.fence scope k) := Fits.le (Fits.one (by unfold wd; omega)) (by decide)
theorem fenceLite (scope : BitVec 3) : Statement (.fenceLite scope) := Fits.le (Fits.one (by unfold wd; omega)) (by decide)
theorem fenceHeavy (scope : BitVec 3) : Statement (.fenceHeavy scope) := Fits.le (Fits.one (by unfold wd; omega)) (by decide)
theorem fenceTc (scope : BitVec 3) : Statement (.fenceTc scope) := Fits.le (Fits.one (by unfold wd; omega)) (by decide)
theorem fenceShape (scope : BitVec 3) : Statement (.fenceShape scope) := Fits.le (Fits.one (by unfold wd; omega)) (by decide)
theorem cctl (a : VReg) (w : BitVec 3) (i : Imm 4) (la : BitVec 4) : Statement (.cctl a w i la) := Fits.le (Fits.append (Fits.imx _) (Fits.one (by unfold wd; omega))) (by decide)
theorem tcopy (tile : BitVec 8) (base bar : BitVec 5) (acq rel dig : BitVec 1) (la : BitVec 4) (shape : BitVec 12) (scope : BitVec 3) (rop : BitVec 4) : Statement (.tcopy tile base bar acq rel dig la shape scope rop) := Fits.le (Fits.two (by unfold wd; omega) (by omega)) (by decide)
theorem tstat (d : BitVec 7) (t : BitVec 8) : Statement (.tstat d t) := Fits.le (Fits.one (by unfold wd; omega)) (by decide)
theorem trel (t : BitVec 8) : Statement (.trel t) := Fits.le (Fits.one (by unfold wd; omega)) (by decide)
theorem strmFeeda (t : BitVec 8) : Statement (.strmFeeda t) := Fits.le (Fits.one (by unfold wd; omega)) (by decide)
theorem strmFeedb (t : BitVec 8) : Statement (.strmFeedb t) := Fits.le (Fits.one (by unfold wd; omega)) (by decide)
theorem strmReplay (n : BitVec 6) (k : BitVec 7) : Statement (.strmReplay n k) := Fits.le (Fits.one (by unfold wd; omega)) (by decide)
theorem strmFlush : Statement (.strmFlush) := Fits.le (Fits.one (by unfold wd; omega)) (by decide)
theorem coll (base bar : BitVec 5) (la : BitVec 4) (rec : BitVec 16) : Statement (.coll base bar la rec) := Fits.le (Fits.two (by unfold wd; omega) (by omega)) (by decide)
theorem tresume (t : BitVec 8) : Statement (.tresume t) := Fits.le (Fits.one (by unfold wd; omega)) (by decide)
theorem launchGrid (r st : BitVec 5) (la : BitVec 4) : Statement (.launchGrid r st la) := Fits.le (Fits.two (by unfold wd; omega) (by omega)) (by decide)
theorem launchNode (r st : BitVec 5) (la : BitVec 4) : Statement (.launchNode r st la) := Fits.le (Fits.two (by unfold wd; omega) (by omega)) (by decide)
theorem shinv (i : BitVec 12) : Statement (.shinv i) := Fits.le (Fits.one (by unfold wd; omega)) (by decide)
theorem shinvAll : Statement (.shinvAll) := Fits.le (Fits.one (by unfold wd; omega)) (by decide)
theorem mma (acc : BitVec 6) (ty kch : BitVec 3) (asc : VReg) (la : BitVec 4) (zf : BitVec 1) (bsel : BitVec 2) (bsc : BitVec 5) : Statement (.mma acc ty kch asc la zf bsel bsc) := Fits.le (Fits.two (by unfold wd; omega) (by omega)) (by decide)
theorem accz (acc : BitVec 6) (x : BitVec 1) : Statement (.accz acc x) := Fits.le (Fits.one (by unfold wd; omega)) (by decide)
theorem accrd (d : VReg) (acc col : BitVec 6) (x : BitVec 4) : Statement (.accrd d acc col x) := Fits.le (Fits.one (by unfold wd; omega)) (by decide)
theorem accwr (a : VReg) (acc col : BitVec 6) (x : BitVec 4) : Statement (.accwr a acc col x) := Fits.le (Fits.one (by unfold wd; omega)) (by decide)
theorem accopScale (a : VReg) (acc : BitVec 6) : Statement (.accopScale a acc) := Fits.le (Fits.one (by unfold wd; omega)) (by decide)
theorem accopAddrow (a : VReg) (acc : BitVec 6) : Statement (.accopAddrow a acc) := Fits.le (Fits.one (by unfold wd; omega)) (by decide)
theorem accopRowmax (d : VReg) (acc : BitVec 6) : Statement (.accopRowmax d acc) := Fits.le (Fits.one (by unfold wd; omega)) (by decide)
theorem accopRowsum (d : VReg) (acc : BitVec 6) : Statement (.accopRowsum d acc) := Fits.le (Fits.one (by unfold wd; omega)) (by decide)
theorem accopExps (a : VReg) (acc : BitVec 6) (c : BitVec 5) : Statement (.accopExps a acc c) := Fits.le (Fits.one (by unfold wd; omega)) (by decide)
theorem accopMaskc (acc : BitVec 6) (off : BitVec 8) : Statement (.accopMaskc acc off) := Fits.le (Fits.one (by unfold wd; omega)) (by decide)
theorem accmvTotile (t : BitVec 8) (acc : BitVec 6) (et : BitVec 3) : Statement (.accmvTotile t acc et) := Fits.le (Fits.one (by unfold wd; omega)) (by decide)
theorem accmvFromtile (t : BitVec 8) (acc : BitVec 6) (et : BitVec 3) : Statement (.accmvFromtile t acc et) := Fits.le (Fits.one (by unfold wd; omega)) (by decide)
theorem accmvSave (t : BitVec 8) (acc : BitVec 6) : Statement (.accmvSave t acc) := Fits.le (Fits.one (by unfold wd; omega)) (by decide)
theorem accmvLoad (t : BitVec 8) (acc : BitVec 6) : Statement (.accmvLoad t acc) := Fits.le (Fits.one (by unfold wd; omega)) (by decide)
theorem laneAgeSaturate (c slot l : Nat) : Statement (.laneAgeSaturate c slot l) := Fits.le Fits.nil (by decide)
theorem breakpoint (c slot : Nat) : Statement (.breakpoint c slot) := Fits.le Fits.nil (by decide)
theorem memoryAccessComplete (c slot id : Nat) : Statement (.memoryAccessComplete c slot id) := Fits.le Fits.nil (by decide)
theorem atomResult (c slot id : Nat) : Statement (.atomResult c slot id) := Fits.le Fits.nil (by decide)
theorem walkComplete (ctx root va kind : Nat) : Statement (.walkComplete ctx root va kind) := Fits.le Fits.nil (by decide)
theorem prqEntryPost (f : Nat) : Statement (.prqEntryPost f) := Fits.le Fits.nil (by decide)
theorem prqHeadWrite (f : Nat) (v : DWord) : Statement (.prqHeadWrite f v) := Fits.le Fits.nil (by decide)
theorem prqReplyRetry (f tag : Nat) : Statement (.prqReplyRetry f tag) := Fits.le Fits.nil (by decide)
theorem prqReplyFail (f tag : Nat) : Statement (.prqReplyFail f tag) := Fits.le Fits.nil (by decide)
theorem xltInvAll (v : DWord) : Statement (.xltInvAll v) := Fits.le Fits.nil (by decide)
theorem xltInvFunc (v : DWord) : Statement (.xltInvFunc v) := Fits.le Fits.nil (by decide)
theorem xltInvCtx (v : DWord) : Statement (.xltInvCtx v) := Fits.le Fits.nil (by decide)
theorem xltInvCtxPages (v : DWord) : Statement (.xltInvCtxPages v) := Fits.le Fits.nil (by decide)
theorem xltInvStage2Pages (v : DWord) : Statement (.xltInvStage2Pages v) := Fits.le Fits.nil (by decide)
theorem xltInvNonglobal (v : DWord) : Statement (.xltInvNonglobal v) := Fits.le Fits.nil (by decide)
theorem xltInvDone : Statement (.xltInvDone) := Fits.le Fits.nil (by decide)
theorem llcCarveWrite (v : DWord) : Statement (.llcCarveWrite v) := Fits.le Fits.nil (by decide)
theorem llcCarveDone : Statement (.llcCarveDone) := Fits.le Fits.nil (by decide)
theorem cspwinWrite (ctx : Nat) (v : DWord) : Statement (.cspwinWrite ctx v) := Fits.le Fits.nil (by decide)
theorem copyStart : Statement (.copyStart) := Fits.le Fits.nil (by decide)
theorem tcopyAccept (c slot : Nat) : Statement (.tcopyAccept c slot) := Fits.le Fits.nil (by decide)
theorem barrierEngineArrival (id : Nat) : Statement (.barrierEngineArrival id) := Fits.le Fits.nil (by decide)
theorem copyComplete (id : Nat) : Statement (.copyComplete id) := Fits.le Fits.nil (by decide)
theorem copyFaultPause (id : Nat) : Statement (.copyFaultPause id) := Fits.le Fits.nil (by decide)
theorem copyFail (id : Nat) : Statement (.copyFail id) := Fits.le Fits.nil (by decide)
theorem streamFill (c : Nat) (b : Bool) : Statement (.streamFill c b) := Fits.le Fits.nil (by decide)
theorem mmaEntryStart (c : Nat) : Statement (.mmaEntryStart c) := Fits.le Fits.nil (by decide)
theorem mmaEntryComplete (c : Nat) : Statement (.mmaEntryComplete c) := Fits.le Fits.nil (by decide)
theorem mxGate (c : Nat) : Statement (.mxGate c) := Fits.le Fits.nil (by decide)
theorem frameGrant (c : Nat) : Statement (.frameGrant c) := Fits.le Fits.nil (by decide)
theorem frameWaitExpiry (c slot : Nat) : Statement (.frameWaitExpiry c slot) := Fits.le Fits.nil (by decide)
theorem escapeSpillStart (c : Nat) : Statement (.escapeSpillStart c) := Fits.le Fits.nil (by decide)
theorem spillComplete (c : Nat) : Statement (.spillComplete c) := Fits.le Fits.nil (by decide)
theorem refillComplete (c slot : Nat) : Statement (.refillComplete c slot) := Fits.le Fits.nil (by decide)
theorem recordReadback (c slot : Nat) : Statement (.recordReadback c slot) := Fits.le Fits.nil (by decide)
theorem trapDelivery (c slot : Nat) : Statement (.trapDelivery c slot) := Fits.le Fits.nil (by decide)
theorem escalation (c slot : Nat) : Statement (.escalation c slot) := Fits.le Fits.nil (by decide)
theorem pendingTrapDelivery (c slot : Nat) : Statement (.pendingTrapDelivery c slot) := Fits.le Fits.nil (by decide)
theorem waitevTimeout (c slot : Nat) : Statement (.waitevTimeout c slot) := Fits.le Fits.nil (by decide)
theorem packAged (c slot : Nat) : Statement (.packAged c slot) := Fits.le Fits.nil (by decide)
theorem trqPop (c : Nat) : Statement (.trqPop c) := Fits.le Fits.nil (by decide)
theorem trqxRead (c : Nat) : Statement (.trqxRead c) := Fits.le Fits.nil (by decide)
theorem park (c slot : Nat) : Statement (.park c slot) := Fits.le Fits.nil (by decide)
theorem unpark (c slot : Nat) : Statement (.unpark c slot) := Fits.le Fits.nil (by decide)
theorem release (c : Nat) (lanes : Word) : Statement (.release c lanes) := Fits.le Fits.nil (by decide)
theorem signal (c slot : Nat) : Statement (.signal c slot) := Fits.le Fits.nil (by decide)
theorem endtrap (c slot : Nat) : Statement (.endtrap c slot) := Fits.le Fits.nil (by decide)
theorem post (c : Nat) : Statement (.post c) := Fits.le Fits.nil (by decide)
theorem failx (c : Nat) (lanes : Word) : Statement (.failx c lanes) := Fits.le Fits.nil (by decide)
theorem kill (c slot : Nat) : Statement (.kill c slot) := Fits.le Fits.nil (by decide)
theorem pkdataRead (c : Nat) : Statement (.pkdataRead c) := Fits.le Fits.nil (by decide)
theorem pkdataWrite (c : Nat) (v : DWord) : Statement (.pkdataWrite c v) := Fits.le Fits.nil (by decide)
theorem srdataRead (c : Nat) : Statement (.srdataRead c) := Fits.le Fits.nil (by decide)
theorem srdataWrite (c : Nat) (v : DWord) : Statement (.srdataWrite c v) := Fits.le Fits.nil (by decide)
theorem inject (c : Nat) (v : DWord) : Statement (.inject c v) := Fits.le Fits.nil (by decide)
theorem emdataRead (c : Nat) : Statement (.emdataRead c) := Fits.le Fits.nil (by decide)
theorem emdataWrite (c : Nat) (v : DWord) : Statement (.emdataWrite c v) := Fits.le Fits.nil (by decide)
theorem emctlGo (c : Nat) : Statement (.emctlGo c) := Fits.le Fits.nil (by decide)
theorem csdataWrite (c : Nat) (v : Word) : Statement (.csdataWrite c v) := Fits.le Fits.nil (by decide)
theorem csctlGo (c : Nat) (len : BitVec 6) : Statement (.csctlGo c len) := Fits.le Fits.nil (by decide)
theorem controlStoreInstall (c k : Nat) : Statement (.controlStoreInstall c k) := Fits.le Fits.nil (by decide)
theorem ctxPreempt (ctx : Nat) : Statement (.ctxPreempt ctx) := Fits.le Fits.nil (by decide)
theorem ctxRestore (ctx : Nat) : Statement (.ctxRestore ctx) := Fits.le Fits.nil (by decide)
theorem ctxKill (ctx : Nat) : Statement (.ctxKill ctx) := Fits.le Fits.nil (by decide)
theorem ctxcfgWrite (ctx : Nat) (v : DWord) : Statement (.ctxcfgWrite ctx v) := Fits.le Fits.nil (by decide)
theorem launchQtailWrite (q : Nat) (v : DWord) : Statement (.launchQtailWrite q v) := Fits.le Fits.nil (by decide)
theorem qbaseWrite (q : Nat) (v : DWord) : Statement (.qbaseWrite q v) := Fits.le Fits.nil (by decide)
theorem launchEntryRead (q : Nat) : Statement (.launchEntryRead q) := Fits.le Fits.nil (by decide)
theorem nodeRelease (uid : Nat) : Statement (.nodeRelease uid) := Fits.le Fits.nil (by decide)
theorem workgroupPlace : Statement (.workgroupPlace) := Fits.le Fits.nil (by decide)
theorem priorityStarvation (uid : Nat) : Statement (.priorityStarvation uid) := Fits.le Fits.nil (by decide)
theorem workgroupFinish (uid idx : Nat) : Statement (.workgroupFinish uid idx) := Fits.le Fits.nil (by decide)
theorem launchComplete (uid : Nat) : Statement (.launchComplete uid) := Fits.le Fits.nil (by decide)
theorem nodeDiscard (uid : Nat) : Statement (.nodeDiscard uid) := Fits.le Fits.nil (by decide)
theorem remoteRequestIngress (r : RemoteReq) : Statement (.remoteRequestIngress r) := Fits.le Fits.nil (by decide)
theorem remoteResponse (id : Nat) (r : RemoteResp) : Statement (.remoteResponse id r) := Fits.le Fits.nil (by decide)
theorem controlRequest (r : CtlReq) : Statement (.controlRequest r) := Fits.le Fits.nil (by decide)
theorem mirrorUpdate (m : MirrorMsg) (b : List Byte) : Statement (.mirrorUpdate m b) := Fits.le Fits.nil (by decide)
theorem lossNotice (n : Nat) : Statement (.lossNotice n) := Fits.le Fits.nil (by decide)
theorem fabLossTo (id : Nat) : Statement (.fabLossTo id) := Fits.le Fits.nil (by decide)
theorem peerClr (v : DWord) : Statement (.peerClr v) := Fits.le Fits.nil (by decide)
theorem linkCrcError (port : Nat) : Statement (.linkCrcError port) := Fits.le Fits.nil (by decide)
theorem portTrained (port : Nat) : Statement (.portTrained port) := Fits.le Fits.nil (by decide)
theorem linkRekey (port vc : Nat) : Statement (.linkRekey port vc) := Fits.le Fits.nil (by decide)
theorem portDisable (port : Nat) (b : Bool) : Statement (.portDisable port b) := Fits.le Fits.nil (by decide)
theorem mint (v : DWord) : Statement (.mint v) := Fits.le Fits.nil (by decide)
theorem roll (v : DWord) : Statement (.roll v) := Fits.le Fits.nil (by decide)
theorem collAccept (c slot : Nat) : Statement (.collAccept c slot) := Fits.le Fits.nil (by decide)
theorem collSplit (id : Nat) (shares : List Nat) : Statement (.collSplit id shares) := Fits.le Fits.nil (by decide)
theorem collChunk (pkg ctx rseq : Nat) (token : DWord) (ch : Chunk) : Statement (.collChunk pkg ctx rseq token ch) := Fits.le Fits.nil (by decide)
theorem collReduceComplete (id k : Nat) : Statement (.collReduceComplete id k) := Fits.le Fits.nil (by decide)
theorem collStepTimeout (id k : Nat) : Statement (.collStepTimeout id k) := Fits.le Fits.nil (by decide)
theorem collMismatchNotice (id : Nat) : Statement (.collMismatchNotice id) := Fits.le Fits.nil (by decide)
theorem collEnd (id : Nat) : Statement (.collEnd id) := Fits.le Fits.nil (by decide)
theorem planeBwWindow (credits : List Nat) : Statement (.planeBwWindow credits) := Fits.le Fits.nil (by decide)
theorem kload (v : DWord) : Statement (.kload v) := Fits.le Fits.nil (by decide)
theorem kslotZero (k : Nat) : Statement (.kslotZero k) := Fits.le Fits.nil (by decide)
theorem exreq (v : DWord) : Statement (.exreq v) := Fits.le Fits.nil (by decide)
theorem lattolWrite (v : DWord) : Statement (.lattolWrite v) := Fits.le Fits.nil (by decide)
theorem c1Entry (c : Nat) : Statement (.c1Entry c) := Fits.le Fits.nil (by decide)
theorem c2Entry (c : Nat) : Statement (.c2Entry c) := Fits.le Fits.nil (by decide)
theorem c3Entry (die : Nat) : Statement (.c3Entry die) := Fits.le Fits.nil (by decide)
theorem wake (u : PowerUnit) : Statement (.wake u) := Fits.le Fits.nil (by decide)
theorem dbgdbRing (c : Nat) : Statement (.dbgdbRing c) := Fits.le Fits.nil (by decide)
theorem halt (c slot : Nat) : Statement (.halt c slot) := Fits.le Fits.nil (by decide)
theorem resume (c slot : Nat) : Statement (.resume c slot) := Fits.le Fits.nil (by decide)
theorem step (c slot : Nat) : Statement (.step c slot) := Fits.le Fits.nil (by decide)
theorem read (c slot : Nat) (v : DWord) : Statement (.read c slot v) := Fits.le Fits.nil (by decide)
theorem write (c slot : Nat) (v w : DWord) : Statement (.write c slot v w) := Fits.le Fits.nil (by decide)
theorem setbp (c k : Nat) (v : DWord) : Statement (.setbp c k v) := Fits.le Fits.nil (by decide)
theorem setwp (c k : Nat) (v : DWord) : Statement (.setwp c k v) := Fits.le Fits.nil (by decide)
theorem packageReset : Statement (.packageReset) := Fits.le Fits.nil (by decide)
theorem bringupStage (n pkg : Nat) (peers : List Nat) : Statement (.bringupStage n pkg peers) := Fits.le Fits.nil (by decide)
theorem registerWrite (t : RegTarget) (v : DWord) : Statement (.registerWrite t v) := Fits.le Fits.nil (by decide)
theorem longLatencyComplete (c slot id : Nat) : Statement (.longLatencyComplete c slot id) := Fits.le Fits.nil (by decide)
theorem accumulatorInstructionComplete (c slot id : Nat) : Statement (.accumulatorInstructionComplete c slot id) := Fits.le Fits.nil (by decide)
theorem idleClock (c : Nat) : Statement (.idleClock c) := Fits.le Fits.nil (by decide)
theorem collContributionRead (id k : Nat) : Statement (.collContributionRead id k) := Fits.le Fits.nil (by decide)

end Sys2Proof.Laws.Words
end

