-- ==== Sys2Proof/Laws/Unit.lean ====
section
/-! SUPPORT. What every unit does around its own effect: runUnit and finish, said once. -/

namespace Sys2Proof.Machine

/-! ## runUnit -/

/-- A unit that issues has its own effect and the common end; tagged lanes trap beside it. -/
theorem runUnit_issues {i : Instr} {s : State} {u : Cur} {p : Pack} (body : Ctx → Res) (h : Issues i s u p) :
    runUnit i (instrUses i) body s =
      .next (finish (ctxOf i s u p) (usesOf i) { body (ctxOf i s u p) with traps := (ctxOf i s u p).tagged ++ (body (ctxOf i s u p)).traps }) := by
  obtain ⟨hcur, hres, hp, _, hig, hh, hb, hm, ho, hx⟩ := h
  have hpk : s.pack u.core u.slot = p := State.pack_of_pack? hp
  have hhelp : (usesOf i).helper = (instrUses i).helper := rfl
  have hmx : (usesOf i).mx = (instrUses i).mx := rfl
  have e1 : (if (instrUses i).helper = true then u.ig else u.ig &&& ~~~(u.ig &&& p.lanesWhere (fun x => x.st == .helper))) = u.ig := by
    rcases hh with hh | hh
    · simp [hh]
    · have : u.ig &&& ~~~(0 : Word) = u.ig := by rw [show ~~~(0 : Word) = BitVec.allOnes 32 from rfl, BitVec.and_allOnes]
      rw [hh, this, ite_self]
  have e2 : (if (instrUses i).helper = true then p else if u.ig &&& p.lanesWhere (fun x => x.st == .helper) = 0 then p
      else p.exitLanes (u.ig &&& p.lanesWhere (fun x => x.st == .helper))) = p := by
    rcases hh with hh | hh <;> simp [hh]
  have hnx : ¬ ((instrUses i).mx && (s.core u.core).mxOwner != some p.wg) = true := by
    cases hmx' : (instrUses i).mx with
    | false => simp
    | true => simp [hm hmx']
  unfold runUnit
  simp only [hcur, hres, hpk, e1, e2, State.updPack_same hp, if_neg hig]
  change (if p.blockers (usesOf i) u.ig u.depth ≠ [] then _ else _) = _
  rw [if_neg (by simp [hb])]
  change Host.Outcome.next (finish (ctxOf i s u p) (usesOf i) (if ((instrUses i).mx && (s.core u.core).mxOwner != some p.wg) = true then _
    else if outOfFrame (ctxOf i s u p) (usesOf i) = true then _ else if (xlateTraps p u.ig ≠ [] && !(instrUses i).takesFail) = true then _ else _)) = _
  rw [if_neg hnx, if_neg (by simp [ho]), if_neg (by simp [hx])]
  rfl

/-- With no unit issuing an instruction stops. -/
theorem runUnit_noUnit {i : Instr} {us : Uses} {body : Ctx → Res} {s : State} (h : s.cur = none) : runUnit i us body s = .fault .noUnit := by
  simp [runUnit, h]

/-- With a unit issuing it always answers a next state. -/
theorem runUnit_next {i : Instr} {us : Uses} {body : Ctx → Res} {s : State} {u : Cur} (h : s.cur = some u) : ∃ t, runUnit i us body s = .next t := by
  unfold runUnit
  simp only [h]
  split
  · exact ⟨_, rfl⟩
  · simp only [← apply_ite Host.Outcome.next]
    exact ⟨_, rfl⟩

/-! ## The parts of finish -/

theorem Pack.updLane_eq (p : Pack) (l : Nat) (f : Lane → Lane) : p.updLane l f = { p with lanes := (p.updLane l f).lanes } := rfl

theorem Pack.advance_eq (p : Pack) (c : Ctx) (m keep : Word) : p.advance c m keep = { p with lanes := (p.advance c m keep).lanes } := by
  unfold Pack.advance
  rw [Pack.updLanes_eq, Pack.updLanes_eq]

theorem Pack.ages_eq (p : Pack) (el ig : Word) : p.ages el ig = { p with lanes := (p.ages el ig).lanes } := by
  unfold Pack.ages
  rw [Pack.updLanes_eq, Pack.updLanes_eq]

/-- A fold of lane updates changes lanes only. -/
theorem Pack.foldl_updLane_eq (g : Nat → Lane → Lane) (ls : List Nat) (p : Pack) :
    ls.foldl (fun q l => q.updLane l (g l)) p = { p with lanes := (ls.foldl (fun q l => q.updLane l (g l)) p).lanes } := by
  induction ls generalizing p with
  | nil => rfl
  | cons x r ih => simp only [List.foldl_cons]; rw [ih]; rfl

/-- What a fold of lane updates keeps of each lane when each update keeps it. -/
theorem Pack.foldl_updLane_keep {α : Type} (proj : Lane → α) (g : Nat → Lane → Lane) (hg : ∀ l x, proj (g l x) = proj x) (ls : List Nat) (p : Pack) (j : Nat) :
    proj ((ls.foldl (fun q l => q.updLane l (g l)) p).lane j) = proj (p.lane j) := by
  induction ls generalizing p with
  | nil => rfl
  | cons x r ih =>
    simp only [List.foldl_cons, ih, Pack.lane_updLane]
    split
    · subst_vars; exact hg _ _
    · rfl

theorem SameLane.refl (x : Lane) : SameLane x x := ⟨rfl, .inl rfl⟩

theorem SameLane.trans {x y z : Lane} (h : SameLane x y) (g : SameLane y z) : SameLane x z := by
  obtain ⟨h1, h2⟩ := h
  obtain ⟨g1, g2⟩ := g
  refine ⟨by rw [g1]; rw [h1], ?_⟩
  rcases h2 with h2 | h2 <;> rcases g2 with g2 | g2
  · exact .inl (g2.trans h2)
  · exact .inr ⟨h2 ▸ g2.1, g2.2⟩
  · exact .inr ⟨h2.1, g2.trans h2.2⟩
  · rw [h2.2] at g2; exact absurd g2.1 (by decide)

theorem Pack.updLanes_sameLane (p : Pack) (m : Word) (f : Lane → Lane) (hf : ∀ x, SameLane x (f x)) (j : Nat) : SameLane (p.lane j) ((p.updLanes m f).lane j) := by
  rw [Pack.lane_updLanes]
  split
  · exact hf _
  · exact SameLane.refl _

theorem Lane.rejoinIn_same (el : Word) (x : Lane) : SameLane x (x.rejoinIn el) := by
  unfold Lane.rejoinIn
  split
  · rename_i h
    split
    · exact ⟨rfl, .inr ⟨by simpa using h, rfl⟩⟩
    · exact ⟨rfl, .inl rfl⟩
  · exact SameLane.refl _

theorem Lane.rejoinIn_pc (el : Word) (x : Lane) : (x.rejoinIn el).pc = x.pc := by unfold Lane.rejoinIn; split <;> (try split) <;> rfl
theorem Lane.rejoinIn_k (el : Word) (x : Lane) : (x.rejoinIn el).k = x.k := by unfold Lane.rejoinIn; split <;> (try split) <;> rfl

theorem Pack.ages_same (p : Pack) (el ig : Word) (j : Nat) : SameLane (p.lane j) ((p.ages el ig).lane j) := by
  unfold Pack.ages
  refine (Pack.updLanes_sameLane p ig (fun x => { x with age := 0 }) ?_ j).trans (Pack.updLanes_sameLane _ _ _ ?_ j) <;> exact fun _ => ⟨rfl, .inl rfl⟩

theorem Lane.past_same (n : DWord × Option Nat) (x : Lane) : SameLane x (x.past n) := by
  unfold Lane.past
  split <;> exact ⟨rfl, .inl rfl⟩

theorem Lane.past_pc (n : DWord × Option Nat) (x : Lane) : (x.past n).pc = if x.stands = false then n.1 else x.pc := by
  unfold Lane.past
  cases x.stands <;> rfl

theorem Lane.past_k (n : DWord × Option Nat) (x : Lane) : (x.past n).k = if x.stands = false then n.2 else x.k := by
  unfold Lane.past
  cases x.stands <;> rfl

theorem Pack.advance_same (p : Pack) (c : Ctx) (m keep : Word) (j : Nat) : SameLane (p.lane j) ((p.advance c m keep).lane j) := by
  unfold Pack.advance
  refine SameLane.trans (Pack.updLanes_sameLane p m _ (Lane.past_same _) j) (Pack.updLanes_sameLane _ _ _ (fun x => ?_) j)
  exact ⟨rfl, .inl rfl⟩

/-- Rejoin sets change lanes, and of a delivery the lanes it keeps. -/
theorem Pack.rejoins_eq (p : Pack) (ig : Word) : p.rejoins ig = { p with lanes := (p.rejoins ig).lanes, handler := (p.rejoins ig).handler } := by
  unfold Pack.rejoins
  dsimp only
  rw [Pack.updLanes_eq]

theorem Pack.rejoins_handler (p : Pack) (ig : Word) : ∃ el, (p.rejoins ig).handler = p.handler.map (Delivery.rejoinIn el) := ⟨_, rfl⟩

theorem Pack.rejoins_lane (p : Pack) (ig : Word) (j : Nat) : ∃ m el, (p.rejoins ig).lane j = (p.updLanes m (Lane.rejoinIn el)).lane j := ⟨_, _, rfl⟩

theorem Pack.rejoins_same (p : Pack) (ig : Word) (j : Nat) : SameLane (p.lane j) ((p.rejoins ig).lane j) := by
  obtain ⟨m, el, h⟩ := p.rejoins_lane ig j
  rw [h]
  exact Pack.updLanes_sameLane _ _ _ (Lane.rejoinIn_same el) j

theorem Pack.rejoins_pc (p : Pack) (ig : Word) (j : Nat) : ((p.rejoins ig).lane j).pc = (p.lane j).pc := by
  obtain ⟨m, el, h⟩ := p.rejoins_lane ig j
  rw [h, Pack.lane_updLanes]
  split
  · exact Lane.rejoinIn_pc _ _
  · rfl

theorem Pack.rejoins_k (p : Pack) (ig : Word) (j : Nat) : ((p.rejoins ig).lane j).k = (p.lane j).k := by
  obtain ⟨m, el, h⟩ := p.rejoins_lane ig j
  rw [h, Pack.lane_updLanes]
  split
  · exact Lane.rejoinIn_k _ _
  · rfl

theorem Pack.ages_pc (p : Pack) (el ig : Word) (j : Nat) : ((p.ages el ig).lane j).pc = (p.lane j).pc := by
  simp only [Pack.ages, Pack.lane_updLanes]
  split <;> split <;> rfl

theorem Pack.ages_k (p : Pack) (el ig : Word) (j : Nat) : ((p.ages el ig).lane j).k = (p.lane j).k := by
  simp only [Pack.ages, Pack.lane_updLanes]
  split <;> split <;> rfl

theorem Pack.advance_pc (p : Pack) (c : Ctx) (m keep : Word) (j : Nat) :
    ((p.advance c m keep).lane j).pc = if m.getLsbD j ∧ (p.lane j).stands = false then c.next else (p.lane j).pc := by
  simp only [Pack.advance, Pack.lane_updLanes]
  cases h : m.getLsbD j <;> (simp [h, Lane.past_pc]; try (split <;> simp [Lane.past_pc]))

theorem Pack.advance_k (p : Pack) (c : Ctx) (m keep : Word) (j : Nat) :
    ((p.advance c m keep).lane j).k = if m.getLsbD j ∧ (p.lane j).stands = false then c.nextK else (p.lane j).k := by
  simp only [Pack.advance, Pack.lane_updLanes]
  cases h : m.getLsbD j <;> (simp [h, Lane.past_k]; try (split <;> simp [Lane.past_k]))

/-- The lanes of a pack alone decide what a lane reads as. -/
theorem Pack.lane_congr {p q : Pack} (h : q.lanes = p.lanes) (j : Nat) : q.lane j = p.lane j := by
  simp only [Pack.lane, h]

/-! ## Counting -/

/-- Counting changes event counters and may send the counter interrupt. -/
theorem State.count_eq (s : State) (c ev ctx n : Nat) :
    s.count c ev ctx n = { s with cores := (s.count c ev ctx n).cores, outbox := (s.count c ev ctx n).outbox } := by
  unfold State.count
  dsimp only
  split
  · split <;> rfl
  · rfl

theorem State.count_core (s : State) (c ev ctx n j : Nat) :
    (s.count c ev ctx n).core j = { s.core j with evcnt := ((s.count c ev ctx n).core j).evcnt } := by
  have key : ∀ (f : Core → Core), (∀ k, f k = { k with evcnt := (f k).evcnt }) →
      (s.updCore c f).core j = { s.core j with evcnt := ((s.updCore c f).core j).evcnt } := by
    intro f hf
    by_cases hj : j = c
    · subst hj
      cases hk : s.cores.find j with
      | none => simp [State.core, State.updCore, hk]
      | some k =>
        have : (s.updCore j f).core j = f (s.core j) := State.core_updCore_self s j f (by simp [hk])
        rw [this]; exact hf _
    · rw [State.core_updCore_ne s f hj]
  unfold State.count
  dsimp only
  split
  · split <;> exact key _ (fun k => rfl)
  · rfl

@[simp] theorem State.count_find_isSome (s : State) (c ev ctx n j : Nat) :
    ((s.count c ev ctx n).cores.find j).isSome = (s.cores.find j).isSome := by
  unfold State.count
  dsimp only
  split
  · split
    · exact State.find_updCore_isSome s c j _
    · exact State.find_updCore_isSome s c j _
  · rfl

@[simp] theorem State.count_pack? (s : State) (c ev ctx n i j : Nat) : (s.count c ev ctx n).pack? i j = s.pack? i j := by
  rw [State.count_eq]; rfl

/-! ## finish -/

/-- The lanes' part of endPack, for a unit without translation faults. -/
def endLanesOf (c : Ctx) (m keep : Word) (p : Pack) : Pack := ((p.ageToks.advance c m keep).ages c.eligibles c.ig).rejoins c.ig

theorem endLanesOf_eq (c : Ctx) (m keep : Word) (p : Pack) :
    endLanesOf c m keep p = { p.ageToks with lanes := (endLanesOf c m keep p).lanes, handler := (endLanesOf c m keep p).handler } := by
  unfold endLanesOf
  rw [Pack.rejoins_eq, Pack.ages_eq, Pack.advance_eq]

theorem endLanesOf_handler (c : Ctx) (m keep : Word) (p : Pack) : ∃ el, (endLanesOf c m keep p).handler = p.handler.map (Delivery.rejoinIn el) := by
  unfold endLanesOf
  obtain ⟨el, h⟩ := Pack.rejoins_handler ((p.ageToks.advance c m keep).ages c.eligibles c.ig) c.ig
  exact ⟨el, by rw [h, Pack.ages_eq, Pack.advance_eq]; rfl⟩

theorem endLanesOf_pos (c : Ctx) (m keep : Word) (p : Pack) : LanesOn c p (endLanesOf c m keep p) m := by
  have hl : ∀ j, p.ageToks.lane j = p.lane j := fun j => rfl
  intro j
  have hadv := Pack.advance_same p.ageToks c m keep j
  rw [hl] at hadv
  unfold endLanesOf
  refine ⟨(hadv.trans (Pack.ages_same _ _ _ j)).trans (Pack.rejoins_same _ _ j), ?_⟩
  simp only [Pack.rejoins_pc, Pack.rejoins_k, Pack.ages_pc, Pack.ages_k, Pack.advance_pc, Pack.advance_k, hl]
  exact ⟨trivial, trivial⟩

theorem endPack_eq (c : Ctx) (us : Uses) (r : Res) (p : Pack) (hf : r.faults = []) :
    endPack c us r p =
      (let q := endLanesOf c (c.ig &&& ~~~r.stay) (laneMask (r.traps.map LTrap.l) ||| r.pend) p
       let q := if q.handler.isSome || (us.reads ++ us.writes).isEmpty then q
         else { q with frames := q.frames.modify c.u.depth (fun f => { f with touched := c.s.ownSteps }) }
       { q with lastIg := c.ig, ownStall := none, lastAct := q.lastAct &&& ~~~c.ig }) := by
  have h0 : c.ig &&& ~~~r.stay &&& ~~~(laneMask ([] : List Nat)) = c.ig &&& ~~~r.stay := by
    rw [show ~~~(laneMask []) = BitVec.allOnes 32 from rfl, BitVec.and_allOnes]
  unfold endPack endLanesOf
  simp only [hf, List.map_nil, h0, List.foldl_nil]

theorem getD_modify {α : Type} (xs : List α) (n j : Nat) (f : α → α) (d : α) :
    (xs.modify n f).getD j d = if j = n ∧ j < xs.length then f (xs.getD j d) else xs.getD j d := by
  simp only [List.getD_eq_getElem?_getD, List.getElem?_modify]
  by_cases h : j < xs.length
  · simp only [List.getElem?_eq_getElem h, h, and_true]
    by_cases e : n = j
    · subst e; simp
    · have : ¬ j = n := fun g => e g.symm
      simp [e, this]
  · have hn : xs[j]? = none := List.getElem?_eq_none (by omega)
    simp [h]

/-- The end of a unit without translation faults changes, of its pack, the lanes' positions and the bookkeeping; registers stay. -/
theorem endPack_spec (c : Ctx) (us : Uses) (r : Res) (p : Pack) (hf : r.faults = []) :
    endPack c us r p = { p with lanes := (endPack c us r p).lanes, frames := (endPack c us r p).frames, toks := p.ageToks.toks, lastIg := c.ig, ownStall := none,
                                handler := (endPack c us r p).handler, lastAct := (endPack c us r p).lastAct } ∧
    (∃ el, (endPack c us r p).handler = p.handler.map (Delivery.rejoinIn el)) ∧
    LanesOn c p (endPack c us r p) (c.ig &&& ~~~r.stay) ∧
    ∀ e, SameRec (p.frames.getD e {}) ((endPack c us r p).frames.getD e {}) ∧
      ∀ i l, ((endPack c us r p).frames.getD e {}).cell i l = (p.frames.getD e {}).cell i l := by
  rw [endPack_eq c us r p hf]
  have hq := endLanesOf_eq c (c.ig &&& ~~~r.stay) (laneMask (r.traps.map LTrap.l) ||| r.pend) p
  have hh := endLanesOf_handler c (c.ig &&& ~~~r.stay) (laneMask (r.traps.map LTrap.l) ||| r.pend) p
  have hpos := endLanesOf_pos c (c.ig &&& ~~~r.stay) (laneMask (r.traps.map LTrap.l) ||| r.pend) p
  generalize endLanesOf c (c.ig &&& ~~~r.stay) (laneMask (r.traps.map LTrap.l) ||| r.pend) p = q at hq hpos hh
  dsimp only
  by_cases hc : (q.handler.isSome || (us.reads ++ us.writes).isEmpty) = true
  · rw [if_pos hc]
    refine ⟨by rw [hq]; rfl, hh, hpos, fun e => ?_⟩
    rw [hq]; exact ⟨rfl, fun _ _ => rfl⟩
  · rw [if_neg hc]
    refine ⟨by rw [hq]; rfl, hh, hpos, fun e => ?_⟩
    have hfr : q.frames = p.frames := by rw [hq]; rfl
    simp only [getD_modify, hfr]
    split
    · exact ⟨rfl, fun _ _ => rfl⟩
    · exact ⟨rfl, fun _ _ => rfl⟩

/-- The register a depth names after the end of a unit is the one before it. -/
theorem endPack_cell (c : Ctx) (us : Uses) (r : Res) (p : Pack) (hf : r.faults = []) (d i l : Nat) :
    ((endPack c us r p).frameAt d).cell i l = (p.frameAt d).cell i l := by
  obtain ⟨he, ⟨el, hh⟩, -, hfr⟩ := endPack_spec c us r p hf
  have ht : (endPack c us r p).trapFrame = p.trapFrame := by rw [he]
  unfold Pack.frameAt
  rw [hh, ht]
  cases p.handler <;> cases p.trapFrame <;> first | rfl | exact (hfr d).2 i l

/-! ## finish, from state to state -/

/-- From s to t only the unit's pack, event counters, trap queues, identifiers and messages have changed; the pack is q now. -/
abbrev OnlyPack (s t : State) (u : Cur) (q : Pack) : Prop :=
  t.pack? u.core u.slot = some q ∧ SameRest s t ∧ SameCores s t ∧ SameOthers s t u

theorem SameRest.trans {s t v : State} (h : SameRest s t) (g : SameRest t v) : SameRest s v := by
  unfold SameRest at *
  rw [g]; rw [h]

theorem SameCores.trans {s t v : State} (h : SameCores s t) (g : SameCores t v) : SameCores s v := by
  intro c; rw [g c, h c]

theorem OnlyPack.trans {s t v : State} {u : Cur} {p q : Pack} (h : OnlyPack s t u p) (g : OnlyPack t v u q) : OnlyPack s v u q :=
  ⟨g.1, h.2.1.trans g.2.1, h.2.2.1.trans g.2.2.1, fun k hk => by rw [g.2.2.2 k hk, h.2.2.2 k hk]⟩

theorem OnlyPack.updPack {s : State} {u : Cur} {p : Pack} (f : Pack → Pack) (hp : s.pack? u.core u.slot = some p) :
    OnlyPack s (s.updPack u.core u.slot f) u (f p) :=
  ⟨by simp [hp], rfl, fun c => by simp, fun k hk => by simp [State.updPack, FMap.find_upd_ne _ _ hk]⟩

theorem OnlyPack.count {s : State} {u : Cur} {p : Pack} (hp : s.pack? u.core u.slot = some p) (c ev ctx n : Nat) :
    OnlyPack s (s.count c ev ctx n) u p := by
  refine ⟨by simpa using hp, ?_, ?_, ?_⟩
  · unfold SameRest; rw [State.count_eq]
  · intro j; rw [State.count_core]
  · intro k _; rw [State.count_eq]

theorem OnlyPack.fresh {s : State} {u : Cur} {p : Pack} (hp : s.pack? u.core u.slot = some p) : OnlyPack s s.fresh.2 u p :=
  ⟨hp, rfl, fun _ => rfl, fun _ _ => rfl⟩

theorem OnlyPack.trq {s : State} {u : Cur} {p : Pack} (hp : s.pack? u.core u.slot = some p) (c : Nat) (f : List TrqE → List TrqE) :
    OnlyPack s (s.updCore c (fun k => { k with trq := f k.trq })) u p := by
  refine ⟨hp, rfl, ?_, fun _ _ => rfl⟩
  intro j
  by_cases h : j = c
  · subst h
    cases hk : s.cores.find j <;> simp [State.core, State.updCore, hk]
  · rw [State.core_updCore_ne s _ h]

theorem endCounts_only {c : Ctx} {s : State} {p : Pack} (hp : s.pack? c.u.core c.u.slot = some p) : OnlyPack s (endCounts c s) c.u p := by
  unfold endCounts
  dsimp only
  have h1 := (OnlyPack.count hp c.u.core 2 c.p.ctx 1)
  have h2 := h1.trans (OnlyPack.count h1.1 c.u.core 3 c.p.ctx (passCount (s.core c.u.core).good c.q.paired c.all))
  split
  · exact h2.trans (OnlyPack.count h2.1 _ _ _ _)
  · exact h2

theorem endToken_only {c : Ctx} {us : Uses} {r : Res} {s : State} {p : Pack} (hp : s.pack? c.u.core c.u.slot = some p) :
    ∃ ts, OnlyPack s (endToken c us r s) c.u { p with toks := ts } ∧ (us.la = none → ts = p.toks) := by
  unfold endToken
  split
  · exact ⟨p.toks, ⟨hp, rfl, fun _ => rfl, fun _ _ => rfl⟩, fun _ => rfl⟩
  · refine ⟨_, (OnlyPack.fresh hp).trans (OnlyPack.updPack _ (OnlyPack.fresh hp).1), fun h => ?_⟩
    simp_all

/-- What a trap shows of a pack does not depend on the rejoin sets of the lanes that a delivery keeps. -/
theorem mkTrap_congr {s t : State} {u : Cur} {el : Word} (h : t.cycle = s.cycle)
    (g : (t.pack u.core u.slot).handler = (s.pack u.core u.slot).handler.map (Delivery.rejoinIn el))
    (x : LTrap) (a b : Word) : mkTrap t u x a b = mkTrap s u x a b := by
  unfold mkTrap Pack.shownDepth
  rw [h, g]
  cases (s.pack u.core u.slot).handler <;> rfl

theorem withTraps_congr {s t : State} {u : Cur} {el : Word} (h : t.cycle = s.cycle)
    (g : (t.pack u.core u.slot).handler = (s.pack u.core u.slot).handler.map (Delivery.rejoinIn el))
    (pend : List Trap) (ts : List LTrap) : withTraps pend t u ts = withTraps pend s u ts := by
  unfold withTraps
  split
  · rw [mkTrap_congr h g]
  · rfl

theorem endTraps_only {c : Ctx} {ts : List LTrap} {s : State} {p : Pack} (hp : s.pack? c.u.core c.u.slot = some p) :
    OnlyPack s (endTraps c ts s) c.u { p with pending := withTraps p.pending s c.u ts } := by
  unfold endTraps withTraps
  cases pickTrap ts with
  | none => exact ⟨hp, rfl, fun _ => rfl, fun _ _ => rfl⟩
  | some x => obtain ⟨a, b, d⟩ := x; exact OnlyPack.updPack _ hp

theorem SameRest.cycle {s t : State} (h : SameRest s t) : t.cycle = s.cycle := by rw [h]

theorem Pack.foldl_waitOn_handler (u : Cur) (n : DWord × Option Nat) (fs : List (Nat × FaultImg)) (x : Pack) :
    (fs.foldl (fun p f => p.updLane f.1 (Lane.waitOn u n f.2)) x).handler = x.handler := by
  induction fs generalizing x with
  | nil => rfl
  | cons y ys ih => rw [List.foldl_cons, ih]; rfl

theorem endPack_handler (c : Ctx) (us : Uses) (r : Res) (p : Pack) : ∃ el, (endPack c us r p).handler = p.handler.map (Delivery.rejoinIn el) := by
  unfold endPack
  dsimp only
  generalize hq : List.foldl (fun (p : Pack) (f : Nat × FaultImg) => p.updLane f.1 (Lane.waitOn c.u (c.next, c.nextK) f.2)) _ r.faults = q
  have hh : q.handler = p.handler := by
    rw [← hq, Pack.foldl_waitOn_handler, Pack.advance_eq]; rfl
  obtain ⟨el, he⟩ := Pack.rejoins_handler (q.ages c.eligibles c.ig) c.ig
  have ha : (q.ages c.eligibles c.ig).handler = p.handler := by rw [Pack.ages_eq]; exact hh
  rw [ha] at he
  refine ⟨el, ?_⟩
  split <;> exact he

/-- THE END OF A UNIT that neither stalls nor meets a translation fault: of the state only its pack changes, and of that what endPack_spec says; its traps join
the pending ones. -/
theorem finish_spec (c : Ctx) (us : Uses) (r : Res) {p : Pack} (hs : r.stall = none) (hp : r.s.pack? c.u.core c.u.slot = some p) :
    ∃ ts, OnlyPack r.s (finish c us r) c.u { (endPack c us r p) with toks := ts, pending := withTraps (endPack c us r p).pending r.s c.u r.traps } ∧
      (us.la = none → ts = (endPack c us r p).toks) := by
  have h1 := OnlyPack.updPack (endPack c us r) hp
  have h2 := h1.trans (OnlyPack.trq h1.1 c.u.core (fun q => q ++ faultEntries c.u r.faults))
  have h3 := h2.trans (endCounts_only h2.1)
  obtain ⟨ts, h4, hts⟩ := endToken_only (c := c) (us := us) (r := r) h3.1
  have h5 := h3.trans h4
  have h6 := h5.trans (endTraps_only (ts := r.traps) h5.1)
  obtain ⟨el, hh⟩ := endPack_handler c us r p
  refine ⟨ts, ?_, fun h => hts h⟩
  unfold finish
  rw [hs]
  dsimp only at h6 ⊢
  rw [withTraps_congr (el := el) h5.2.1.cycle (by rw [State.pack_of_pack? h5.1, State.pack_of_pack? hp]; exact hh)] at h6
  exact h6

end Sys2Proof.Machine
end

