-- ==== Sys2Proof/Laws/Vector.lean ====
section
/-! SUPPORT. What the per-lane forms (vop, vopF, mop, sop, copyOp) do to the pack. -/

namespace Sys2Proof.Machine

/-! ## Writes of a frame's registers -/

/-- Only registers of the frame a depth names have changed. -/
abbrev FrameOnly (d : Nat) (p q : Pack) : Prop :=
  q = { p with frames := q.frames, trapFrame := q.trapFrame } ∧ q.trapFrame.isSome = p.trapFrame.isSome ∧ (q.frameAt d).size = (p.frameAt d).size ∧ OtherFrames p q d

theorem FrameOnly.refl (d : Nat) (p : Pack) : FrameOnly d p p := ⟨rfl, rfl, rfl, fun _ => ⟨rfl, fun _ _ _ _ => rfl⟩, fun _ => rfl⟩

theorem SameRec.trans {f g h : Frame} (a : SameRec f g) (b : SameRec g h) : SameRec f h := by
  unfold SameRec at *
  rw [b]; rw [a]

theorem FrameOnly.handler {d : Nat} {p q : Pack} (h : FrameOnly d p q) : q.handler = p.handler := by rw [h.1]

theorem FrameOnly.trans {d : Nat} {p q r : Pack} (h : FrameOnly d p q) (g : FrameOnly d q r) : FrameOnly d p r := by
  refine ⟨?_, by rw [g.2.1, h.2.1], by rw [g.2.2.1, h.2.2.1], fun e => ⟨(h.2.2.2.1 e).1.trans (g.2.2.2.1 e).1, fun a l hl hx => ?_⟩, fun hh => ?_⟩
  · rw [g.1, h.1]
  · rw [(g.2.2.2.1 e).2 a l hl (by rwa [h.handler, h.2.1]), (h.2.2.2.1 e).2 a l hl hx]
  · rw [g.2.2.2.2 (by rwa [h.handler]), h.2.2.2.2 hh]

theorem FrameOnly.writeV (d : Nat) (p : Pack) (r l : Nat) (v : VCell) : FrameOnly d p (p.writeV d r l v) := by
  unfold Pack.writeV
  refine ⟨?_, ?_, by simp, ?_, fun hh => ?_⟩
  · cases hh : p.handler <;> cases ht : p.trapFrame <;> simp [Pack.updFrameAt, hh, ht]
  · cases hh : p.handler <;> cases ht : p.trapFrame <;> simp [Pack.updFrameAt, hh, ht]
  · intro e
    by_cases hs : p.handler.isSome = true ∧ p.trapFrame.isSome = true
    · obtain ⟨h1, h2⟩ := hs
      obtain ⟨x, hx⟩ := Option.isSome_iff_exists.mp h1
      obtain ⟨y, hy⟩ := Option.isSome_iff_exists.mp h2
      simp only [Pack.updFrameAt, hx, hy]
      exact ⟨trivial, fun _ _ _ _ => trivial⟩
    · have hfr : (p.updFrameAt d (fun f => f.setCell r l v)).frames = setAt {} p.frames d ((p.frames.getD d {}).setCell r l v) := by
        cases hh : p.handler <;> cases ht : p.trapFrame <;> simp [Pack.updFrameAt, hh, ht]
        simp [hh, ht] at hs
      simp only [hfr, getD_setAt]
      by_cases he : e = d
      · subst he
        refine ⟨by rw [if_pos rfl]; rfl, fun a b _ h => ?_⟩
        rcases h with h | h
        · exact absurd rfl h
        · exact absurd h hs
      · simp [he]
  · cases ht : p.handler with
    | some d => simp [ht] at hh
    | none => simp [Pack.updFrameAt, ht]

theorem FrameOnly.foldl {α : Type} {d : Nat} {g : Pack → α → Pack} (hg : ∀ p x, FrameOnly d p (g p x)) (xs : List α) (p : Pack) :
    FrameOnly d p (xs.foldl g p) := by
  induction xs generalizing p with
  | nil => exact FrameOnly.refl d p
  | cons x r ih => exact (hg p x).trans (ih _)

theorem FrameOnly.writeRegs (d : Nat) (p : Pack) (r l : Nat) (cells : List VCell) : FrameOnly d p (p.writeRegs d r l cells) :=
  FrameOnly.foldl (fun p _ => FrameOnly.writeV d p _ _ _) _ p

/-- A run of registers of one lane. -/
theorem Pack.cell_writeRegs (p : Pack) (d r l : Nat) (cells : List VCell) {i j : Nat} (hl : l < 32) (hj : j < 32) :
    ((p.writeRegs d r l cells).frameAt d).cell i j =
      if j = l ∧ r ≤ i ∧ i < r + cells.length then cells.getD (i - r) {} else (p.frameAt d).cell i j := by
  unfold Pack.writeRegs
  suffices H : ∀ (cs : List VCell) (n : Nat) (p : Pack),
      (((cs.zipIdx n).foldl (fun p v => p.writeV d (r + v.2) l v.1) p).frameAt d).cell i j =
        if j = l ∧ r + n ≤ i ∧ i < r + n + cs.length then cs.getD (i - r - n) {} else (p.frameAt d).cell i j by
    simpa using H cells 0 p
  intro cs
  induction cs with
  | nil => intro n p; simp
  | cons c cs ih =>
    intro n p
    simp only [List.zipIdx_cons, List.foldl_cons, ih, Pack.cell_writeV p d c hl hj, List.length_cons]
    by_cases e : j = l
    · subst e
      by_cases h1 : i = r + n
      · subst h1
        have : ¬ (r + (n + 1) ≤ r + n) := by omega
        simp [this]
      · by_cases h2 : r + (n + 1) ≤ i ∧ i < r + (n + 1) + cs.length
        · have h3 : r + n ≤ i ∧ i < r + n + (cs.length + 1) := by omega
          have h4 : i - r - n = (i - r - (n + 1)) + 1 := by omega
          simp [h2, h3, h4]
        · have h3 : ¬ (r + n ≤ i ∧ i < r + n + (cs.length + 1)) := by omega
          simp [h2, h3, h1]
    · simp [e]

/-- Lane by lane: a fold whose step changes the registers of its own lane only. -/
theorem cell_foldl_lanes {d : Nat} (g : Pack → Nat → Pack) (E : Nat → Nat → VCell → VCell)
    (hself : ∀ p i l, l < 32 → ((g p l).frameAt d).cell i l = E l i ((p.frameAt d).cell i l))
    (hne : ∀ p i l j, l < 32 → j < 32 → j ≠ l → ((g p l).frameAt d).cell i j = (p.frameAt d).cell i j)
    (ls : List Nat) (hn : ls.Nodup) (hb : ∀ l ∈ ls, l < 32) (p : Pack) {i j : Nat} (hj : j < 32) :
    ((ls.foldl g p).frameAt d).cell i j = if j ∈ ls then E j i ((p.frameAt d).cell i j) else (p.frameAt d).cell i j := by
  induction ls generalizing p with
  | nil => simp
  | cons x r ih =>
    have ⟨hx, hr⟩ := List.nodup_cons.mp hn
    have hx32 : x < 32 := hb x (by simp)
    rw [List.foldl_cons, ih hr (fun l h => hb l (by simp [h]))]
    by_cases e : j = x
    · subst e; simp [hx, hself _ _ _ hx32]
    · simp [e, hne _ _ _ _ hx32 hj e]

/-! ## vop -/

/-- What a lane of a per-lane instruction finds in registers d to d + n - 1 afterwards: its results, zeros when it is masked under MZ, nothing new otherwise. -/
def laneCells (c : Ctx) (us : List VUse) (n : Nat) (f : Nat → LaneRes) (l k : Nat) : Option VCell :=
  if c.act.getLsbD l then some { val := (f l).vals.getD k 0, psn := c.psnOf us l }
  else if c.masked.getLsbD l && c.pfx.mz then some {}
  else none

/-- The lanes' writes of vopCore. -/
def vopFold (c : Ctx) (d : VReg) (n : Nat) (us : List VUse) (f : Nat → LaneRes) (p : Pack) : Pack :=
  lanes32.foldl (fun p l =>
    if c.act.lane l then p.writeRegs c.u.depth d.toNat l ((f l).vals.map (fun v => { val := v, psn := c.psnOf us l }))
    else if c.masked.lane l && c.pfx.mz then p.writeRegs c.u.depth d.toNat l (List.replicate n {})
    else p) p

/-- R235: the destination registers in every lane; nothing else of the pack changes but FPC's flags. -/
theorem vopCore_spec (c : Ctx) (d : VReg) (n : Nat) (us : List VUse) (f : Nat → LaneRes) {p : Pack} (hp : c.s.pack? c.u.core c.u.slot = some p)
    (hn : ∀ l, (f l).vals.length = n) :
    ∃ q fl, (vopCore c d n us none f) = (c.s.updPack c.u.core c.u.slot (fun _ => q.mergeFlags fl), []) ∧ FrameOnly c.u.depth p q ∧
      CellsAre p q c.u.depth d.toNat n (laneCells c us n f) ∧
      fl = ((lanesOf c.act).filter (fun l => !c.isHelper (c.lid l))).foldl (fun a l => a ||| (f l).flags) 0 := by
  refine ⟨vopFold c d n us f p, _, ?_, ?_, ?_, rfl⟩
  · unfold vopCore
    simp only [List.contains_nil, Bool.not_false, Bool.and_true, List.map_nil, State.pack_of_pack? hp]
    rfl
  · unfold vopFold
    refine FrameOnly.foldl (fun p l => ?_) _ _
    split
    · exact FrameOnly.writeRegs _ _ _ _ _
    · split
      · exact FrameOnly.writeRegs _ _ _ _ _
      · exact FrameOnly.refl _ _
  · unfold vopFold
    intro l hl r
    have hmem : l ∈ lanes32 := by simp [lanes32, hl]
    rw [cell_foldl_lanes (d := c.u.depth) _ (fun l r old =>
        if d.toNat ≤ r ∧ r < d.toNat + n then (laneCells c us n f l (r - d.toNat)).getD old else old) ?_ ?_ lanes32 List.nodup_range (fun l h => by simpa [lanes32] using h) p hl]
    · simp [hmem]
    · intro p i l hl
      simp only [laneCells, lane_eq_getLsbD]
      by_cases ha : c.act.getLsbD l
      · simp only [ha, if_true, Pack.cell_writeRegs _ _ _ _ _ hl hl, List.length_map, hn, true_and]
        split
        · simp [List.getD_eq_getElem?_getD, List.getElem?_map]
          have : i - d.toNat < (f l).vals.length := by rw [hn]; omega
          simp [List.getElem?_eq_getElem this]
        · rfl
      · simp only [ha]
        by_cases hm : (c.masked.getLsbD l && c.pfx.mz) = true
        · simp only [hm, if_true, Bool.false_eq_true, if_false, Pack.cell_writeRegs _ _ _ _ _ hl hl, List.length_replicate, true_and]
          split
          · have : i - d.toNat < n := by omega
            simp [List.getD_eq_getElem?_getD, this]
          · rfl
        · simp [hm]
    · intro p i l j hl hj hne
      split
      · rw [Pack.cell_writeRegs _ _ _ _ _ hl hj]; simp [hne]
      · split
        · rw [Pack.cell_writeRegs _ _ _ _ _ hl hj]; simp [hne]
        · rfl

/-! ## The context of a unit -/

@[simp] theorem ctxOf_s (i : Instr) (s : State) (u : Cur) (p : Pack) : (ctxOf i s u p).s = s := rfl
@[simp] theorem ctxOf_u (i : Instr) (s : State) (u : Cur) (p : Pack) : (ctxOf i s u p).u = u := rfl
@[simp] theorem ctxOf_p (i : Instr) (s : State) (u : Cur) (p : Pack) : (ctxOf i s u p).p = p := rfl
@[simp] theorem ctxOf_ig (i : Instr) (s : State) (u : Cur) (p : Pack) : (ctxOf i s u p).ig = u.ig := rfl

/-! ## Whole units -/

/-- What a unit leaves of memory when it changes its pack alone. -/
theorem OnlyPack.bytes {s t : State} {u : Cur} {q : Pack} (h : OnlyPack s t u q) : SameBytes s t := by
  intro pl
  obtain ⟨-, hr, hc, -⟩ := h
  cases pl with
  | mem a pa => rw [hr]; rfl
  | spad c off =>
    show (((t.core c).spad.find off).getD 0) = (((s.core c).spad.find off).getD 0)
    rw [hc c]
  | chip off => rw [hr]; rfl

/-- A UNIT WHOSE EFFECT IS ON ITS PACK ALONE: what runUnit answers for it. `g` is the effect on the pack. -/
theorem unit_spec {i : Instr} {s : State} {u : Cur} {p : Pack} (h : Issues i s u p) (body : Ctx → Res) {r : Res} (hb : body (ctxOf i s u p) = r)
    (hs : r.stall = none) (hf : r.faults = []) {g : Pack → Pack} (hg : r.s = s.updPack u.core u.slot g) (hh : (g p).handler = p.handler) :
    ∃ t q, runUnit i (instrUses i) body s = .next t ∧ OnlyPack s t u q ∧ PackBut (g p) q ∧ LanesOn (ctxOf i s u p) (g p) q (u.ig &&& ~~~r.stay) ∧
      q.s = (g p).s ∧ q.m = (g p).m ∧ q.fpc = (g p).fpc ∧ q.trapFrame = (g p).trapFrame ∧
      q.pending = withTraps (g p).pending s u ((ctxOf i s u p).tagged ++ r.traps) ∧
      (∀ d r' l, (q.frameAt d).cell r' l = ((g p).frameAt d).cell r' l) ∧
      (∀ e, SameRec ((g p).frames.getD e {}) (q.frames.getD e {}) ∧ ∀ r' l, (q.frames.getD e {}).cell r' l = ((g p).frames.getD e {}).cell r' l) := by
  have hp := h.2.2.1
  have hrp : r.s.pack? u.core u.slot = some (g p) := by rw [hg]; simp [hp]
  let r' : Res := { r with traps := (ctxOf i s u p).tagged ++ r.traps }
  obtain ⟨ts, ho, -⟩ := finish_spec (ctxOf i s u p) (usesOf i) r' hs hrp
  obtain ⟨he, hdel, hpos, hfr⟩ := endPack_spec (ctxOf i s u p) (usesOf i) r' (g p) hf
  have hcell := endPack_cell (ctxOf i s u p) (usesOf i) r' (g p) hf
  have hall := (hg ▸ OnlyPack.updPack g hp : OnlyPack s r.s u (g p)).trans ho
  have hc := (OnlyPack.updPack g hp).2.1.cycle
  have hpend : ∀ x, withTraps x r'.s (ctxOf i s u p).u r'.traps = withTraps x s u ((ctxOf i s u p).tagged ++ r.traps) := by
    intro x
    show withTraps x r.s u _ = _
    unfold withTraps
    cases pickTrap ((ctxOf i s u p).tagged ++ r.traps) with
    | none => rfl
    | some y =>
      simp only
      unfold mkTrap Pack.shownDepth
      rw [State.pack_of_pack? hrp, State.pack_of_pack? hp, hh, show r.s.cycle = s.cycle from hg ▸ hc]
  rw [hpend] at hall
  generalize endPack (ctxOf i s u p) (usesOf i) r' (g p) = e at he hdel hpos hfr hcell hall
  have hmk : runUnit i (instrUses i) body s = .next (finish (ctxOf i s u p) (usesOf i) r') := by rw [runUnit_issues body h, hb]
  refine ⟨_, _, hmk, hall, ?_, hpos, ?_, ?_, ?_, ?_, ?_, ?_, hfr⟩
  · refine ⟨?_, hdel⟩
    show { e with toks := ts, pending := _ } = _
    rw [he]
  · show e.s = _; rw [he]
  · show e.m = _; rw [he]
  · show e.fpc = _; rw [he]
  · show e.trapFrame = _; rw [he]
  · show withTraps e.pending _ _ _ = _; rw [he]
  · exact fun d i l => hcell d i l

/-- A unit that changes registers of its pack and no lane. -/
theorem unit_reg {i : Instr} {s : State} {u : Cur} {p : Pack} (h : Issues i s u p) (body : Ctx → Res) {r : Res} (hb : body (ctxOf i s u p) = r)
    (hs : r.stall = none) (hf : r.faults = []) {g : Pack → Pack} (hg : r.s = s.updPack u.core u.slot g)
    (hbut : g p = { p with frames := (g p).frames, trapFrame := (g p).trapFrame, s := (g p).s, m := (g p).m, fpc := (g p).fpc }) :
    ∃ t q, runUnit i (instrUses i) body s = .next t ∧ RegUnit (ctxOf i s u p) s t u p q (u.ig &&& ~~~r.stay) ∧
      q.s = (g p).s ∧ q.m = (g p).m ∧ q.fpc = (g p).fpc ∧ q.trapFrame = (g p).trapFrame ∧
      q.pending = withTraps p.pending s u ((ctxOf i s u p).tagged ++ r.traps) ∧
      (∀ d r' l, (q.frameAt d).cell r' l = ((g p).frameAt d).cell r' l) ∧
      (∀ e, SameRec ((g p).frames.getD e {}) (q.frames.getD e {}) ∧ ∀ r' l, (q.frames.getD e {}).cell r' l = ((g p).frames.getD e {}).cell r' l) := by
  obtain ⟨t, q, h1, ho, hb', hl, h2, h3, h4, h5, h6, h7⟩ := unit_spec h body hb hs hf hg (by rw [hbut])
  have hlane : ∀ l, (g p).lane l = p.lane l := fun l => Pack.lane_congr (by rw [hbut]) l
  have hpend : (g p).pending = p.pending := by rw [hbut]
  refine ⟨t, q, h1, ⟨ho.1, ho.2.1, ho.2.2.1, ho.2.2.2, ho.bytes, ?_, fun l => ?_⟩, h2, h3, h4, h5, by rw [h6, hpend], h7⟩
  · generalize g p = gp at *
    unfold PackBut at *
    refine ⟨?_, ?_⟩
    · rw [hb'.1, hbut]
    · obtain ⟨el, he⟩ := hb'.2
      exact ⟨el, by rw [he, hbut]⟩
  · have := hl l
    rwa [hlane] at this

/-- A per-lane instruction (R235): its results are in the destination registers of the lanes that execute, masked lanes are zeroed under MZ, and nothing else changes. -/
theorem unit_vop {i : Instr} {s : State} {u : Cur} {p : Pack} (h : Issues i s u p) (body : Ctx → Res) (d : VReg) (n : Nat) (us : List VUse) (f : Nat → LaneRes)
    (hb : body (ctxOf i s u p) = vop (ctxOf i s u p) d n us f) (hn : ∀ l, (f l).vals.length = n) :
    ∃ t q, runUnit i (instrUses i) body s = .next t ∧ RegUnit (ctxOf i s u p) s t u p q u.ig ∧
      CellsAre p q u.depth d.toNat n (laneCells (ctxOf i s u p) us n f) ∧ OtherFrames p q u.depth ∧ q.s = p.s ∧ q.m = p.m ∧
      q.fpc = p.fpc ||| BitVec.ofNat 64 (((lanesOf (ctxOf i s u p).act).filter (fun l => !(ctxOf i s u p).isHelper ((ctxOf i s u p).lid l))).foldl (fun a l => a ||| (f l).flags) 0) ∧
      q.pending = withTraps p.pending s u (ctxOf i s u p).tagged := by
  obtain ⟨q0, fl, hv, hfo, hcells, hfl⟩ := vopCore_spec (ctxOf i s u p) d n us f (p := p) h.2.2.1 hn
  have hvs : (vop (ctxOf i s u p) d n us f).s = s.updPack u.core u.slot (fun _ => q0.mergeFlags fl) := by
    show (vopCore _ _ _ _ _ _).1 = _; rw [hv]; rfl
  obtain ⟨t, q, h1, hreg, h2, h3, h4, h5, h6, h7, h8⟩ := unit_reg h body hb rfl rfl hvs (by show q0.mergeFlags fl = _; unfold Pack.mergeFlags; dsimp only; rw [hfo.1])
  have hq0s : q0.s = p.s := by rw [hfo.1]
  have hq0m : q0.m = p.m := by rw [hfo.1]
  have hq0f : q0.fpc = p.fpc := by rw [hfo.1]
  have hat : ∀ d, (q0.mergeFlags fl).frameAt d = q0.frameAt d := fun _ => rfl
  refine ⟨t, q, h1, ?_, ?_, ?_, by rw [h2]; exact hq0s, by rw [h3]; exact hq0m, ?_, by simpa [vop] using h6⟩
  · have : u.ig &&& ~~~(vop (ctxOf i s u p) d n us f).stay = u.ig := by
      show u.ig &&& ~~~(0 : Word) = u.ig
      rw [show ~~~(0 : Word) = BitVec.allOnes 32 from rfl, BitVec.and_allOnes]
    rwa [this] at hreg
  · intro l hl r
    rw [h7, hat]
    exact hcells l hl r
  · refine ⟨fun e => ⟨(hfo.2.2.2.1 e).1.trans (h8 e).1, fun a l hl hx => ?_⟩, fun hh => ?_⟩
    · rw [(h8 e).2 a l]
      exact (hfo.2.2.2.1 e).2 a l hl hx
    · rw [h5]; exact hfo.2.2.2.2 hh
  · rw [h4, ← hfl]
    show q0.fpc ||| _ = _
    rw [hq0f]

end Sys2Proof.Machine
end

