-- ==== Sys2Proof/Tests/Slice0.lean ====
section
/-! SUPPORT. Tests: ill-formed terms are refused, words from the spec's encodings decode, and the hypotheses of the statements can be met. Expected values come
from the rules named in each docstring. -/

namespace Sys2Proof.Tests

open Sys2Proof.Machine Sys2Proof.Claims

set_option Elab.async false

/-! ## Small states -/

/-- One register of every lane: lane l holds `f l`. -/
def reg (r : Nat) (f : Nat → Nat) : FMap VCell := (List.range 32).map (fun l => (32 * r + l, { val := BitVec.ofNat 32 (f l) }))

/-- A pack of 32 active lanes in one frame of 14 granules. -/
def pk (cells : FMap VCell) : Pack := { wg := 2, lanes := (List.range 32).map (fun _ => { st := .active }), frames := [{ size := 14, cells := cells }], s := (List.range 32).map (fun n => BitVec.ofNat 64 n) }

/-- The unit that pack issues: all 32 lanes, one word at 0x1000. -/
def un : Cur := { core := 0, slot := 0, ig := 0xFFFFFFFF, depth := 0, pc := 0x1000, words := [0] }

/-- One core, one workgroup, one launch; the pack is in slot 0. -/
def st (p : Pack) : State :=
  { cores := [(0, {})], packs := [(0, p)], wgs := [(2, { uid := 1, core := 0, slots := [0], ways := 1 })],
    launches := [(1, { uid := 1, r := { lpsize := 4096, lpbase := 0x20000, argsize := 80 } })],
    tlb := [{ va := 0x10000, pa := 8 * 2 ^ 48, size := 12, r := true, w := true, d := true }], cur := some un }

/-- Registers 4 to 7 hold small numbers, 8 and 9 addresses in the mapped page (even register low). -/
def p0 : Pack := pk (reg 4 (fun l => l + 1) ++ reg 5 (fun _ => 3) ++ reg 6 (fun l => 64 * l) ++ reg 7 (fun _ => 0) ++ reg 8 (fun l => 0x10000 + 8 * l) ++ reg 9 (fun _ => 0))

def s0 : State := st p0

/-! ### Well-formedness: a term each check refuses -/

theorem illFormed_fields : ∀ i ∈ [Instr.brx 5, .call 0 0 0 0 0, .call 15 0 0 0 0, .call 1 9 0 0 0, .call 14 15 0 98 0, .callx 1 0 0 4 1, .resize 0, .resize 15, .mprog 97 0, .iadd none 4 5 6 4, .iadd none 4 5 6 3, .iadd none 112 5 6 0,
      .iadd none 4 123 6 0, .imin none 4 5 6 2, .shl none 4 5 6 1, .shli none 4 4 0 32, .bfx none 4 5 0 0, .bfx none 4 5 32 1, .bfi none 4 5 33 0, .icmp none 0 0 4 5 0, .icmp none 1 6 4 5 0, .icmpi none 1 10 4 { hi := none, lo := 0 },
      .movs none 4 32, .mvm none 0 4, .movi none 4 { hi := some 0, lo := 2048 }, .sadd 32 1 1, .scmp 1 2 3 10, .mset 0 1, .sld 1 2 6 { hi := none, lo := 0 } 0, .sbr 1 6 { hi := none, lo := 0 }, .ballot 0 4, .waitev 1 0], i.wf = false := by decide +kernel

theorem illFormed_fields2 : ∀ i ∈ [Instr.fadd none 4 5 6 3, .fcmp none 1 8 4 5 0, .frnd none 4 5 5 0, .fdot2 none 4 5 6 0, .cvtf none 4 5 2 2 0, .cvtf none 4 5 14 0 0, .cvtf none 4 5 8 0 0, .cvti none 5 4 0 2 0 0, .qscale none 4 5 2 0, .shflup none 4 5 1 16,
      .redux none 4 5 11, .scan none 4 5 0 11, .matchl none 4 5 1, .ld none 4 6 7 { hi := none, lo := 0 } 0, .ld none 6 8 6 { hi := none, lo := 0 } 0, .ld none 4 7 0 { hi := none, lo := 0 } 0, .ldm none 8 8 3 { hi := none, lo := 0 } 0, .stm none 110 8 3 { hi := none, lo := 0 } 0,
      .atom 4 6 8 0 0 3 0 0 0 0 0, .atom 4 6 8 0 0 0 9 0 0 0 0, .atom 4 6 8 0 0 0 0 0 0 0 12, .atom 4 6 8 0 0 0 0 1 0 0 13, .atomr 4 6 8 0 0 0 0 0 3 0 0, .red 4 6 8 0 0 0 0 0 0 0 0, .red 0 6 8 0 0 0 0 0 0 1 0, .red 0 6 8 0 0 0 0 0 0 0 9, .bararv 0 4 5,
      .fence 5 0, .cctl 6 6 { hi := none, lo := 0 } 0, .tcopy 0 0 0 0 0 0 0 0 5 0, .tcopy 0 0 0 0 0 0 0 0 0 4, .strmReplay 0 1, .strmReplay 1 0, .launchGrid 0 0 0, .mma 48 0 0 4 0 0 0 0, .mma 0 6 0 0 0 0 0 0, .mma 0 3 0 4 0 0 0 0, .accz 48 0, .accrd 4 0 0 3, .accmvTotile 0 0 5], i.wf = false := by
  decide +kernel

/-- Prefix fields that the instruction does not accept: a rounding mode, saturation, an addend, a mask; rm 5; MZ without a mask. -/
theorem illFormed_prefix : ∀ q ∈ [({ Pfx.neutral with rm := 1 } : Pfx), { Pfx.neutral with sat := true }, { Pfx.neutral with f4 := 8 }, { Pfx.neutral with rm := 5 }, { Pfx.neutral with mz := true }],
    (Instr.iadd (some q) 4 5 6 0).wf = false := by decide +kernel

theorem illFormed_store : (Instr.st (some { Pfx.neutral with mr := 1, mz := true }) 4 6 2 { hi := none, lo := 0 } 0).wf = false ∧ (Instr.imad (some { Pfx.neutral with f4 := 9 }) 4 5 6 1).wf = false := by decide +kernel

/-! ### Words, field by field from the encoding tables -/

theorem word_control : decode [wordOf [(3, 25), (5, 22), (1, 21), (0x1FFFFF, 0)]] = .ok (.brc 5 1 0x1FFFFF) ∧ decode [wordOf [(5, 25), (2, 21), (3, 17), (1, 13), (40, 6)], 0xFFFFFFF0] = .ok (.call 2 3 1 40 0xFFFFFFF0) ∧
    decode [wordOf [(15, 25), (96, 18), (63, 0)]] = .ok (.mprog 96 63) := by decide +kernel

theorem word_integer : decode [wordOf [(30, 25), (8, 18), (10, 11), (1, 6), (63, 0)]] = .ok (.shli none 8 10 1 63) ∧ decode [wordOf [(37, 25), (8, 18), (9, 11), (31, 5), (1, 0)]] = .ok (.bfx none 8 9 31 1) ∧
    decode [wordOf [(41, 25), (7, 22), (9, 18), (4, 11), (0x7FF, 0)]] = .ok (.icmpi none 7 9 4 { hi := none, lo := 0x7FF }) ∧ decode [wordOf [(45, 25), (1, 18), (2, 11), (3, 4), (15, 0)]] = .ok (.lea none 1 2 3 15) := by decide +kernel

theorem word_scalar : decode [wordOf [(48, 25), (31, 18), (30, 11), (29, 4)]] = .ok (.sadd 31 30 29) ∧ decode [wordOf [(54, 25), (3, 18), (0x3FFFF, 0)]] = .ok (.smovi 3 { hi := none, lo := 0x3FFFF }) ∧
    decode [wordOf [(56, 25), (1, 18), (2, 11), (5, 8), (15, 4), (9, 0)]] = .ok (.sld 1 2 5 { hi := none, lo := 15 } 9) ∧ decode [wordOf [(60, 25), (4, 18), (0x81, 0)]] = .ok (.waitev 4 0x81) ∧ decode [wordOf [(62, 25), (4, 18), (0xFFF, 0)]] = .ok (.srd 4 0xFFF) := by
  decide +kernel

/-- PFX: mask m2, rounding mode 2, addend v9. -/
theorem word_float : decode [wordOf [(126, 25), (2, 22), (2, 18), (9, 10)], wordOf [(67, 25), (4, 18), (5, 11), (6, 4), (1, 0)]] = .ok (.ffma (some { mr := 2, mz := false, rm := 2, sat := false, f4 := 9 }) 4 5 6 1) ∧
    decode [wordOf [(83, 25), (4, 18), (6, 11), (8, 7), (1, 4), (15, 0)]] = .ok (.cvtf none 4 6 8 1 15) := by decide +kernel

theorem word_lanes : decode [wordOf [(89, 25), (4, 18), (5, 11), (3, 5), (3, 0)]] = .ok (.shflup none 4 5 3 3) ∧ decode [wordOf [(94, 25), (4, 18), (5, 11), (1, 4), (10, 0)]] = .ok (.scan none 4 5 1 10) := by decide +kernel

theorem word_memory : decode [wordOf [(96, 25), (4, 18), (8, 11), (6, 8), (15, 4), (7, 0)]] = .ok (.ld none 4 8 6 { hi := none, lo := 15 } 7) ∧ decode [wordOf [(98, 25), (4, 18), (112, 11), (7, 8), (1, 4)]] = .ok (.ldm none 4 112 7 { hi := none, lo := 1 } 0) ∧
    decode [wordOf [(127, 25), (0x1FFFFF, 0)], wordOf [(98, 25), (4, 18), (112, 11), (7, 8), (1, 4)]] = .ok (.ldm none 4 112 7 { hi := some 0x1FFFFF, lo := 1 } 0) := by decide +kernel

theorem word_sync : decode [wordOf [(0x68, 25), (4, 18), (6, 11), (8, 4), (3, 0)], wordOf [(5, 20), (2, 18), (9, 11), (4, 6), (3, 4), (12, 0)]] = .ok (.atom 4 6 8 3 5 2 9 0 4 3 12) ∧ decode [wordOf [(0x6B, 25), (7, 18), (4, 11), (5, 4), (1, 0)]] = .ok (.bararv 7 4 5) ∧
    decode [wordOf [(0x6D, 25), (4, 18), (2, 0)]] = .ok (.fence 4 2) ∧ decode [wordOf [(0x6E, 25), (6, 11), (5, 8), (2, 4), (1, 0)]] = .ok (.cctl 6 5 { hi := none, lo := 2 } 1) := by decide +kernel

theorem word_engines : decode [wordOf [(113, 25), (9, 18), (255, 0)]] = .ok (.tstat 9 255) ∧ decode [wordOf [(0x73, 25), (63, 11), (127, 4), (2, 0)]] = .ok (.strmReplay 63 127) ∧ decode [wordOf [(0x77, 25), (4095, 0)]] = .ok (.shinv 4095) ∧
    decode [wordOf [(0x77, 25), (1, 12)]] = .ok .shinvAll := by decide +kernel

theorem word_matrix : decode [wordOf [(0x78, 25), (47, 19), (2, 16), (7, 13), (80, 6), (5, 0)], wordOf [(1, 7), (3, 5), (20, 0)]] = .ok (.mma 47 2 7 80 5 1 3 20) ∧ decode [wordOf [(122, 25), (4, 18), (47, 12), (63, 6), (2, 0)]] = .ok (.accrd 4 47 63 2) := by
  decide +kernel

/-- Op 0x00 with no row, a reserved bit, a field outside its range, a prefix before an instruction that takes none, a unit cut short. -/
theorem word_rejected : decode [0] = .error .unassigned ∧ decode [0x02000001] = .error .reservedBit ∧ (decode [wordOf [(5, 25)]]).toOption = none ∧ (decode [wordOf [(126, 25), (1, 22)], 0x02000000]).toOption = none ∧ (decode [wordOf [(127, 25)]]).toOption = none := by
  decide +kernel

/-! ## The hypotheses of the statements can be met -/

/-- One term of each instruction of IntegerArithmeticWritesItsResult, and the modifiers at the ends of their range. -/
theorem witness_IntegerArithmetic : ∀ i ∈ [.iadd none 10 4 5 0, .iadd none 10 4 6 3, .isub none 10 4 5 2, .iaddi none 10 4 ⟨none, 0x400⟩, .iaddi none 10 4 ⟨some 0x1FFFFF, 0x7FF⟩,
      .imul none 10 4 5 0, .imul none 10 4 5 3, .imuli none 10 4 ⟨none, 7⟩, .imad none 10 4 5 1, .imad (some ⟨0, false, 7, false, 6⟩) 10 4 5 0, .imin none 10 4 5 1,
      .imax none 10 4 5 0, .isad none 10 4 5 1, .iabs none 10 4, .ineg none 10 4, .lea none 10 4 5 15, .idiv none 10 4 7 0, .ndiv none 10 4 5 3, .movi none 111 ⟨none, 0x20000⟩,
      .movs none 10 31, .movm none 10 7],
    Instr.wf i = true ∧ Issues i s0 un p0 ∧ (arithWant (ctxOf i s0 un p0) i).isSome = true := by decide +kernel

theorem witness_ShiftsAndBits : (∀ i ∈ [.shl none 10 4 5 0, .shl none 10 4 5 1, .shr none 10 4 5 1, .sar none 10 4 5 0, .rotl none 10 4 5, .rotr none 10 4 5, .shli none 10 4 1 63,
      .shli none 10 4 0 31, .shri none 10 4 1 0, .sari none 10 4 0 31], Instr.wf i = true ∧ Issues i s0 un p0 ∧ (shiftWant (ctxOf i s0 un p0) i).isSome = true) ∧
    ∀ i ∈ [.inot none 10 4, .popc none 10 4, .clz none 10 4, .ctz none 10 7, .brev none 10 4, .bswap none 10 4, .and none 10 4 5, .or none 10 4 5, .xor none 10 4 5, .andn none 10 4 5,
      .orn none 10 4 5, .xnor none 10 4 5, .andi none 10 4 ⟨none, 0x7FF⟩, .ori none 10 4 ⟨none, 1⟩, .xori none 10 4 ⟨some 0, 1⟩, .bfx none 10 4 31 1, .bfxs none 10 4 1 31, .bfi none 10 4 5 3],
    Instr.wf i = true ∧ Issues i s0 un p0 ∧ (bitsWant (ctxOf i s0 un p0) i).isSome = true := by decide +kernel

theorem witness_Float : ∀ i ∈ [.fadd none 10 4 5 0, .fsub none 10 4 5 1, .fmul none 10 4 5 2, .ffma none 10 4 5 0, .fmin none 10 4 5 0, .fmax none 10 4 5 0, .fminp none 10 4 5 2,
      .fmaxp none 10 4 5 0, .fclamp none 10 4 5 0, .fclass none 10 4 0, .frnd none 10 4 7 0, .fscalb none 10 4 5 0, .fabs none 10 4, .fneg none 10 4, .fnabs none 10 4,
      .fcpsgn none 10 4 5, .fdot2 none 10 4 5 1, .pack none 10 4 5 3],
    Instr.wf i = true ∧ Issues i s0 un p0 ∧ NoShadow i s0 un p0 ∧ (floatWant (ctxOf i s0 un p0) i).isSome = true := by decide +kernel

theorem witness_SpecialFunctions : ∀ i ∈ [.fdiv none 10 4 7 0, .fsqrt none 10 4 0, .fexp2 none 10 4 0, .flog2 none 10 7 0, .fsin none 10 4 0, .fcos none 10 4 0, .frcp none 10 7 0,
      .frsq none 10 4 0, .ftanh none 10 4 0, .fsigm none 10 4 3, .cvtf none 10 4 9 0 0, .cvtf none 10 4 0 5 0, .cvti none 10 4 0 3 1 0, .qscale none 10 4 3 0],
    Instr.wf i = true ∧ Issues i s0 un p0 ∧ NoShadow i s0 un p0 ∧ (sfuWant (ctxOf i s0 un p0) i).isSome = true := by decide +kernel

theorem witness_MovesAndCompares : (∀ i ∈ [.mov none 10 4, .sel none 10 4 5 0, .sel none 10 4 5 7], Instr.wf i = true ∧ Issues i s0 un p0 ∧ (copyWant (ctxOf i s0 un p0) i).isSome = true) ∧
    ∀ i ∈ [.icmp none 1 0 4 5 0, .icmp none 7 5 4 6 3, .icmpi none 1 9 4 ⟨none, 3⟩, .mvm none 2 4, .fcmp none 3 7 4 5 2],
      Instr.wf i = true ∧ Issues i s0 un p0 ∧ NoShadow i s0 un p0 ∧ (maskWant (ctxOf i s0 un p0) i).isSome = true := by decide +kernel

/-- A poisoned lane 0 of register 4, a tagged lane 0 of register 5. -/
def pBad : Pack := pk [(128, { val := 5, psn := true }), (160, { val := 6, tag := true })]

theorem witness_ScalarsAndVotes : (∀ i ∈ [.sadd 0 1 2, .saddi 0 1 ⟨none, 0x7FF⟩, .ssub 0 1 2, .smul 0 1 2, .sand 0 1 2, .sor 0 1 2, .sxor 0 1 2, .sshl 0 1 2, .sshr 0 1 2, .ssar 0 1 2,
      .scmp 0 1 2 9, .smovi 31 ⟨none, 0x20000⟩, .smov 0 31, .rdlane 0 4 31, .smask 0 0, .vany 0 4, .vall 0 4, .vcount 0 4],
      Instr.wf i = true ∧ Issues i s0 un p0 ∧ (scalarWant (ctxOf i s0 un p0) i).isSome = true ∧ scalarTraps (ctxOf i s0 un p0) i = []) ∧
    ∀ i ∈ [.rdlane 0 4 0, .rdlane 0 5 0, .vany 0 4, .vall 0 4, .vcount 0 5, .ballot 1 4],
      Instr.wf i = true ∧ Issues i (st pBad) un pBad ∧ scalarTraps (ctxOf i (st pBad) un pBad) i ≠ [] := by decide +kernel

theorem witness_MaskSets : ∀ i ∈ [.mset 1 3, .ballot 7 4, .wrlane 10 3 31], Instr.wf i = true ∧ Issues i s0 un p0 ∧ scalarTraps (ctxOf i s0 un p0) i = [] := by decide +kernel

theorem witness_CrossLane : ∀ i ∈ [.shfl none 10 4 5 0, .shflup none 10 4 0 31, .shfldn none 10 4 3 3, .shflx none 10 4 0 31, .qswz none 10 4 0xB1, .redux none 10 4 0, .redux none 10 4 10,
      .scan none 10 4 1 8, .scan none 10 4 0 0, .matchl none 10 4 1],
    Instr.wf i = true ∧ Issues i s0 un p0 ∧ NoShadow i s0 un p0 ∧ (crossWant (ctxOf i s0 un p0) i).isSome = true := by decide +kernel

theorem witness_Branches : (∀ i ∈ [.nop, .bra 1, .bra 0x1000000, .brc 0 1 2, .brc 7 0 0x100000, .sbr 3 5 ⟨none, 0x400⟩, .brx 8],
      Instr.wf i = true ∧ Issues i s0 un p0 ∧ (branchTo (ctxOf i s0 un p0) i).isSome = true) ∧ Issues .yield s0 un p0 := by decide +kernel

/-! ### Frames, traps, special registers -/

/-- A package with a loaded program whose page table maps 1 GiB from VA 0 with every right (log 4); one core listed. -/
def sw (p : Pack) : State := { State.withFetchWord {} 32 0x02000000 with cores := [(0, {})], packs := [(0, p)], cur := some un }

/-- A pack whose group runs in a callee of two granules that returns one register to v4. -/
def p2 : Pack := { p0 with frames := p0.frames ++ [{ base := 14, size := 2, cmask := 0xFFFFFFFF, rpc := 0x2000, ab := 4, retc := 1, cells := [(0, { val := 9 })] }], lanes := (List.range 32).map (fun _ => { st := .active, depth := 1 }) }

/-- The unit at a depth. -/
def ud (d : Nat) : Cur := { core := 0, slot := 0, ig := 0xFFFFFFFF, depth := d, pc := 0x1000, words := [0] }

def s2 : State := { sw p2 with cur := some (ud 1) }

/-- A handler that runs for a trap of lanes 0 and 1. -/
def pH : Pack := { p0 with handler := some { trap := { code := 17, lanes := 3, replay := 0x1000 }, kept := [(0, { st := .active, pc := 0x1004 }), (1, { st := .active, pc := 0x1004 })] }, trapFrame := some ({ base := 480, size := 1 }, true) }

theorem witness_FrameTraps : (∀ i ∈ [.call 14 0 0 0 1, .callx 1 0 0 0 1, .ret, .unwind 1],
      Instr.wf i = true ∧ Issues i s0 un p0 ∧ frameTraps (ctxOf i s0 un p0) i ≠ []) ∧
    ∀ i ∈ [.call 1 0 0 0 1, .callx 1 0 0 0 4, .unwind 0], Instr.wf i = true ∧ Issues i (sw pH) un pH ∧ frameTraps (ctxOf i (sw pH) un pH) i ≠ [] := by decide +kernel

/-- The deepest frame is at depth 0; the statement's other clause, from depth 7 on, is met by a pack of eight frames. -/
def p8 : Pack := { p0 with frames := (List.range 8).map (fun k => { base := k, size := 1 }), lanes := (List.range 32).map (fun _ => { st := .active, depth := 7 }) }

theorem witness_Calls : ∀ i ∈ [.call 2 3 1 4 5, .callx 14 0 0 0 4], Instr.wf i = true ∧ Issues i (sw p0) un p0 ∧ (callParts (ctxOf i (sw p0) un p0) i).isSome = true ∧
    frameTraps (ctxOf i (sw p0) un p0) i = [] := by decide +kernel

theorem witness_CallGranted : p0.handler = none ∧ p0.frames.length = 1 ∧ Granted (sw p0) un p0 3 14 ∧ (findRun ((sw p0).poolRuns 0) 14).isSome = true := by decide +kernel

theorem witness_CallDeep : Issues (.call 1 0 0 0 1) { sw p8 with cur := some (ud 7) } (ud 7) p8 ∧
    frameTraps (ctxOf (.call 1 0 0 0 1) { sw p8 with cur := some (ud 7) } (ud 7) p8) (.call 1 0 0 0 1) = [] ∧ p8.handler = none ∧ p8.frames.length = 8 ∧
    Granted (sw p8) (ud 7) p8 3 1 ∧ (findRun ((sw p8).poolRuns 0) 1).isSome = true := by decide +kernel

theorem witness_RetAndUnwind : (Issues .ret s2 (ud 1) p2 ∧ frameTraps (ctxOf .ret s2 (ud 1) p2) .ret = [] ∧ p2.handler = none ∧ (p2.frames.getD 1 {}).onChip = true ∧
      (p2.frames[0]?).map (fun g => g.st) = some .resident) ∧
    ∀ n ∈ [(0 : BitVec 8), 1], Issues (.unwind n) s2 (ud 1) p2 ∧ frameTraps (ctxOf (.unwind n) s2 (ud 1) p2) (.unwind n) = [] := by decide +kernel

/-- UNWIND #0 at depth 0 goes on. -/
theorem witness_UnwindNothing : Issues (.unwind 0) s0 un p0 ∧ frameTraps (ctxOf (.unwind 0) s0 un p0) (.unwind 0) = [] := by decide +kernel

theorem witness_ResizeShrinks : ∀ n ∈ [(1 : BitVec 4), 14], (Instr.resize n).wf = true ∧ Issues (.resize n) (sw p0) un p0 ∧ frameTraps (ctxOf (.resize n) (sw p0) un p0) (.resize n) = [] ∧
    p0.handler = none ∧ p0.frames.length = 1 := by decide +kernel

theorem witness_ResizeGrows : (Instr.resize 5).wf = true ∧ Issues (.resize 5) s2 (ud 1) p2 ∧ frameTraps (ctxOf (.resize 5) s2 (ud 1) p2) (.resize 5) = [] ∧ (p2.frameAt 1).size < 5 ∧
    Granted s2 (ud 1) p2 3 3 ∧ (p2.frameAt 1).base + 5 ≤ 480 := by decide +kernel

theorem witness_ResizeFits : ∀ r ∈ s2.poolRuns 0, r.1 = (p2.frameAt 1).base ∨ r.1 + r.2 ≤ (p2.frameAt 1).base ∨ (p2.frameAt 1).base + 5 ≤ r.1 := by decide +kernel

theorem witness_ResizeTrapFrame : Issues (.resize 2) (sw pH) un pH ∧ frameTraps (ctxOf (.resize 2) (sw pH) un pH) (.resize 2) = [] ∧ pH.handler.isSome = true ∧
    pH.trapFrame.isSome = true ∧ Granted (sw pH) un pH 2 1 := by decide +kernel

/-- A launch with no backing for a larger frame. -/
theorem witness_ResizeTraps : Issues (.resize 14) { st p2 with cur := some (ud 1) } (ud 1) p2 ∧
    frameTraps (ctxOf (.resize 14) { st p2 with cur := some (ud 1) } (ud 1) p2) (.resize 14) ≠ [] := by decide +kernel

/-- The callee's lanes have all returned, so the frame is freed. -/
def pDone : Pack := { p2 with lanes := (List.range 32).map (fun _ => { st := .returned, depth := 1, target := 0, pc := 0x2000 }) }

theorem witness_FinishedFrames : (pDone.lane 31).st = .returned ∧ (pDone.reap).frames.length ≤ (pDone.lane 31).target + 1 ∧ (pDone.lane 31).target + 1 < pDone.frames.length := by
  decide +kernel

theorem witness_Exit : Issues .exit s2 (ud 1) p2 ∧ p2.handler = none ∧ ∀ i ∈ [Instr.ret, .exit], Issues i (sw pH) un pH ∧ pH.handler.isSome = true ∧
    ((endHandler (sw pH) 0 0 (i == .exit)).pack? 0 0).isSome = true := by decide +kernel

theorem witness_EndOfDelivery : (sw pH).pack? 0 0 = some pH ∧ pH.handler.isSome = true ∧ (((sw pH).pinRead 0 pH.ctx ((sw pH).stackVa 0 0 pH.ctx) 72).2).isSome = true ∧
    ((((sw pH).pinRead 0 pH.ctx ((sw pH).stackVa 0 0 pH.ctx) 72).1.readAction 0 pH.ctx ((sw pH).frBase pH)).2).isSome = true ∧
    ∀ l, l < 32 → ((pH.handler.getD {}).h.getLsbD l = true ↔ ((pH.handler.getD {}).kept.find l).isSome = true) := by decide +kernel

theorem witness_SoftwareTraps : ∀ i ∈ [.trap 0x3FFFF, .bkpt 0, .syscall 7], Issues i s0 un p0 := by decide +kernel

/-- Slot 3 of the control store holds one word; slot 4 is empty. -/
def sm : State := { s0 with cores := [(0, { mprogs := [(3, [0x02000000])] })] }

theorem witness_Macro : Issues (.mprog 96 3) sm un p0 ∧ (sm.core 0).csWait.has 3 = false ∧ (sm.core 0).mprogs.find 3 = some [0x02000000] ∧
    Issues (.mprog 0 4) sm un p0 ∧ ((sm.core 0).mprogs.find 4).getD [] = [] := by decide +kernel

theorem witness_SpecialRegisters : ∀ r ∈ [(0x000 : BitVec 12), 0x030, 0x060], Issues (.srd 0 r) s0 un p0 ∧ (srInfo r.toNat).isSome = true ∧ fpcWait p0 = false := by
  decide +kernel

theorem witness_Swr : Issues (.swr 1 0x030) s0 un p0 ∧ fpcWait p0 = false := by decide +kernel
theorem witness_SwrReadOnly : Issues (.swr 1 0x000) s0 un p0 ∧ srInfo 0x000 = some (.ro, false) := by decide +kernel
theorem witness_SwrSupervisor : Issues (.swr 1 0x100) s0 un p0 ∧ srInfo 0x100 = some (.sw, false) := by decide +kernel
theorem witness_SrUnassigned : Issues (.srd 1 0xFFF) s0 un p0 ∧ Issues (.swr 1 0xFFF) s0 un p0 ∧ srInfo 0xFFF = none := by decide +kernel

theorem witness_Waitev : (Issues (.waitev 0 1) s0 un p0 ∧ p0.evpend &&& 1 = 0) ∧ Issues (.waitev 0 0xFF) (st { p0 with evpend := 0x80 }) un { p0 with evpend := 0x80 } := by decide +kernel

/-! ### Single steps, expected values by hand from the rules -/

/-- A pack with chosen operands in every lane: v4 = x, v5 = y, v6 = z. -/
def sOp (x y z : Nat) : State := st (pk (reg 4 (fun _ => x) ++ reg 5 (fun _ => y) ++ reg 6 (fun _ => z)))

/-- Register r of lane 31 after one instruction. -/
def after (i : Instr) (s : State) (r : Nat) : Option Word :=
  match exec i s with
  | .next t => (t.pack? 0 0).map (fun p => ((p.frameAt 0).cell r 31).val)
  | _ => none

/-- R237: a sum beyond the range saturates. -/
theorem test_iadd : after (.iadd none 6 4 5 1) (sOp 0x7FFFFFFF 1 0) 6 = some 0x7FFFFFFF ∧ after (.iadd none 6 4 5 2) (sOp 0xFFFFFFFF 1 0) 6 = some 0xFFFFFFFF ∧ after (.isub none 6 4 5 2) (sOp 1 2 0) 6 = some 0 := by decide +kernel

/-- R239, R240, R241. -/
theorem test_unary : after (.iabs none 6 4) (sOp 0x80000000 0 0) 6 = some 0x80000000 ∧ after (.clz none 6 4) (sOp 0 0 0) 6 = some 32 ∧ after (.bswap none 6 4) (sOp 0x01020304 0 0) 6 = some 0x04030201 ∧
    after (.sari none 6 4 0 31) (sOp 0x80000000 0 0) 6 = some 0xFFFFFFFF ∧ after (.bfxs none 6 4 4 8) (sOp 0xF00 0 0) 6 = some 0xFFFFFFFF ∧ after (.bfi none 6 4 4 8) (sOp 5 0 0xFFFFFFFF) 6 = some 0xFFFFF5FF := by decide +kernel

/-- R244: a quotient by 0 and the one that overflows. -/
theorem test_idiv : (match exec (.idiv none 6 4 5 0) (sOp 7 0 0) with
    | .next t => (t.pack? 0 0).map (fun p => (p.toks.length, p.toks.map (fun k => k.kind), ((p.frameAt 0).cell 6 31).val)) | _ => none) = some (1, [2], 0xFFFFFFFF) ∧
    after (.idiv none 6 4 5 0) (sOp 0x80000000 0xFFFFFFFF 0) 6 = some 0x80000000 ∧ after (.ndiv none 6 4 5 0) (sOp 0x80000000 0xFFFFFFFF 0) 6 = some 0 := by decide +kernel

/-- R77, R79: 1 + 2^-24 rounds to even; infinity minus infinity is the canonical NaN; a signalling NaN is quieted with its payload. -/
theorem test_fadd : after (.fadd none 6 4 5 0) (sOp 0x3F800000 0x33800000 0) 6 = some 0x3F800000 ∧ after (.fsub none 6 4 5 0) (sOp 0x7F800000 0x7F800000 0) 6 = some 0x7FC00000 ∧
    after (.fadd none 6 4 5 0) (sOp 0x7F800001 0x3F800000 0) 6 = some 0x7FC00001 := by decide +kernel

/-- R248: one rounding; (1 + 2^-12)^2 - 1 keeps 2^-24. -/
theorem test_ffma : after (.ffma none 6 4 5 0) (sOp 0x3F800800 0x3F800800 0xBF800000) 6 = some 0x3A000400 := by decide +kernel

/-- R143, R139: LDS of a signed byte of the scratchpad. -/
theorem test_lds : after (.lds none 6 4 1 { hi := none, lo := 1 } 0) { sOp 0x40 0 0 with cores := [(0, { split := 1, spad := [(0x41, 0x80)] })] } 6 = some 0xFFFFFF80 := by decide +kernel

/-- R43, R192: CALL moves the lanes to the target and keeps the return address in the new frame. -/
theorem test_call : (match exec (.call 2 0 0 0 4) (sw p0) with
    | .next t => (t.pack? 0 0).map (fun p => ((p.lane 31).pc, (p.lane 31).depth, p.frames.length, (p.frameAt 1).size, (p.frameAt 1).rpc)) | _ => none) = some (0x1010, 1, 2, 2, 0x1008) := by decide +kernel

/-- A SYSCALL leaves a trap record for its lanes, with its immediate as detail; the lanes' address is after it. -/
theorem test_syscall : (match exec (.syscall 7) s0 with
    | .next t => (t.pack? 0 0).map (fun p => (p.pending.map (fun y => (y.code, y.detail, y.lanes, y.replay)), (p.lane 0).pc)) | _ => none) = some ([(18, 7, 0xFFFFFFFF, 0x1000)], 0x1004) := by decide +kernel

/-- R277: ACCZ clears a tile. -/
theorem test_accz : (match exec (.accz 3 0) { s0 with cores := [(0, { mxOwner := some 2, acc := [(3, { cells := [(5, 9)] })] })], launches := [(1, { uid := 1, r := { mx := true } })] } with
    | .next t => (t.core 0).acc.find 3 | _ => none) = some {} := by decide +kernel

/-- The step from a loaded program runs its first instruction: v0 becomes 5, the lpc is 4 further. -/
theorem test_step : (match step (State.withFetchWord State.reset 32 (wordOf [(44, 25), (0, 18), (5, 0)])) with
    | .next t => (t.pack? 0 0).map (fun p => (((p.frameAt 0).cell 0 0).val, (p.lane 0).pc)) | _ => none) = some (5, 0x10004) := by decide +kernel

/-! ### Memory -/

/-- Lanes 0 and 31 issue. -/
def u1 : Cur := { un with ig := 0x80000001 }

/-- With all 160 cores, the lane-private region and a page of tensor space mapped, and the control page for the engines too. -/
def sg (p : Pack) : State :=
  { st p with cur := some u1, cores := (List.range 160).map (fun c => (c, {})), tlb := [{ va := 0x10000, pa := 8 * 2 ^ 48, size := 12, r := true, w := true, d := true }, { va := 0x20000, pa := 8 * 2 ^ 48 + 0x10000, size := 16, r := true, w := true, d := true }, { root := 1, size := 21, r := true, w := true, d := true }, { where_ := 10, va := 0x10000, pa := 8 * 2 ^ 48, r := true, w := true, d := true }] }

def gotPlaces (r : State × LaneGot) : List Place := match r.2 with | .go ps => ps | _ => []

/-- The hypotheses of a load, with the places its lanes reach. -/
def loadMet (i : Instr) (s : State) (u : Cur) (p : Pack) : Bool :=
  let c := ctxOf i s u p
  match loadWant c i with
  | none => false
  | some w =>
    let s0 := zeroMasked c w.d.toNat (regsOf w.w) s
    let pl := fun l => gotPlaces (laneAccess c (c.via 0 needR) l (w.addr l) 0 (wBytes w.w) (wBytes w.w) (wAlign w.w) true false s0)
    i.wf && decide (Issues i s u p) && !c.q.rec_ && decide (CleanAddr c w.a w.na w.addr) && decide (Reaches c s0 (c.via 0 needR) w true false pl) &&
      c.accessors.all (fun l => (pl l).all (placeSound s))

def storeMet (i : Instr) (s : State) (u : Cur) (p : Pack) : Bool :=
  let c := ctxOf i s u p
  match storeWant c i with
  | none => false
  | some w =>
    let pl := fun l => gotPlaces (laneAccess c (c.via 1 needW) l (w.addr l) 0 (wBytes w.w) (wBytes w.w) (wAlign w.w) false true s)
    i.wf && s.legal && decide (Issues i s u p) && decide (PlainRun c) && decide (CleanAddr c w.a w.na w.addr) && !c.q.paired && decide (Reaches c s (c.via 1 needW) w false true pl) &&
      c.accessors.all (fun l => (pl l).all (fun x => placeSound s x && placeCalm s x))

/-- Addresses of 8 bytes a lane, of a byte at the end of a block, of 16 bytes a lane in scratchpad and lane-private memory. -/
theorem witness_Loads : ∀ i ∈ [.ld none 10 8 5 ⟨none, 0⟩ 3, .ld none 10 8 0 ⟨none, 7⟩ 0, .lds none 12 6 6 ⟨none, 1⟩ 0, .ldx none 10 6 4 ⟨none, 0⟩ 0], loadMet i (sg p0) u1 p0 = true := by decide +kernel

theorem witness_Stores : ∀ i ∈ [.st none 10 8 5 ⟨none, 0⟩ 3, .st none 10 8 0 ⟨none, 7⟩ 0, .sts none 4 6 6 ⟨none, 1⟩ 0, .stx none 4 6 4 ⟨none, 0⟩ 0], storeMet i (sg p0) u1 p0 = true := by decide +kernel

def multiMet (store : Bool) (i : Instr) (d a : VReg) (w : BitVec 3) (im : Imm 4) (s : State) (u : Cur) (p : Pack) : Bool :=
  let c := ctxOf i s u p
  let s0 := if store then s else zeroMasked c d.toNat (w.toNat + 1) s
  let v := if store then c.via 1 needW else c.via 0 needR
  i.wf && s.legal && decide (Issues i s u p) && decide (PlainRun c) && decide (CleanAddr c a 2 (addrOf c 0 a im 4)) && !c.q.paired &&
    c.accessors.all (fun l => (wordsLeft c (w.toNat + 1) l).all (fun k =>
      let r := laneAccess c v l (addrOf c 0 a im 4 l) (4 * k) 4 (4 * (w.toNat + 1)) 4 (!store) store s0
      decide (r.1 = s0) && (gotPlaces r).length == 4 && (gotPlaces r).all (fun x => placeSound s x && placeCalm s x)))

theorem witness_MultipleTransfers : multiMet false (.ldm none 10 8 1 ⟨none, 0⟩ 0) 10 8 1 ⟨none, 0⟩ (sg p0) u1 p0 = true ∧
    multiMet true (.stm none 4 8 7 ⟨none, 1⟩ 0) 4 8 7 ⟨none, 1⟩ (sg p0) u1 p0 = true := by decide +kernel

/-- s3 holds an address in the mapped page, s4 an offset of 72 in the argument store. -/
def pS : Pack := { p0 with s := [0, 0, 0, 0x10008, 72] }

def scalarMet (i : Instr) (w : Nat) (store : Bool) (s : State) (u : Cur) (p : Pack) : Bool :=
  let c := ctxOf i s u p
  let r := laneAccess c (if store then c.via 1 needW else c.via 0 needR) 0 (.va 0x10008) 0 (wBytes w) (wBytes w) (wAlign w) (!store) store s
  i.wf && s.legal && decide (Issues i s u p) && decide (PlainRun c) && decide (r.1 = s) && (gotPlaces r).length == wBytes w && (gotPlaces r).all (fun x => placeSound s x && placeCalm s x)

theorem witness_ScalarLoadsAndStores : scalarMet (.sld 0 3 5 ⟨none, 0⟩ 0) 5 false (sg pS) u1 pS = true ∧ scalarMet (.sst 0 3 1 ⟨none, 0⟩ 0) 1 true (sg pS) u1 pS = true := by decide +kernel

/-- LDC: the last value inside 80 bytes of arguments, one that ends behind them, one misaligned. -/
theorem witness_Ldc : (∀ i ∈ [.ldc 0 4 5 ⟨none, 0⟩ 0, .ldc 0 4 5 ⟨none, 1⟩ 0, .ldc 0 3 1 ⟨none, 0⟩ 0], Instr.wf i = true ∧ Issues i (sg pS) u1 pS) ∧
    (72 : Int) + wBytes 5 ≤ (ctxOf (.ldc 0 4 5 ⟨none, 0⟩ 0) (sg pS) u1 pS).q.argsize ∧ ((ctxOf (.ldc 0 4 5 ⟨none, 1⟩ 0) (sg pS) u1 pS).q.argsize : Int) < 72 + 8 + wBytes 5 ∧
    ((sg pS).core 0).argsPsn.has 1 = false := by decide +kernel

def cctlMet (a : VReg) (w : BitVec 3) (im : Imm 4) (s : State) (u : Cur) (p : Pack) : Bool :=
  let i := Instr.cctl a w im 0
  let c := ctxOf i s u p
  let v := c.via 6 (if w = 5 then needW else if w = 3 ∨ w = 4 then {} else needR)
  i.wf && s.legal && decide (Issues i s u p) && decide (PlainRun c) && decide (CleanAddr c a 2 (addrOf c 0 a im 64)) &&
    c.accessors.all (fun l => let r := lineAccess c v w.toNat l (addrOf c 0 a im 64 l); decide (r.1 = s) && !(gotPlaces r).isEmpty && ((gotPlaces r).take 1).all (placeSound s))

theorem witness_CacheControl : ∀ w ∈ [(0 : BitVec 3), 1, 2, 3, 4, 5], cctlMet 8 w ⟨none, 1⟩ (sg p0) u1 p0 = true := by decide +kernel

/-! ### Atomics, barriers, PSYNC, fences -/

def atomMet (i : Instr) (need : Need) (order : BitVec 2) (s : State) (u : Cur) (p : Pack) : Bool :=
  let c := ctxOf i s u p
  match atomWant i with
  | none => false
  | some x =>
    let pl := fun l => gotPlaces (laneAccess c (c.via 2 need) l (.va (c.rv2 x.a l)) 0 x.n x.n x.n true true s)
    i.wf && s.legal && decide (Issues i s u p) && decide (PlainRun c) && decide (AtomReady x c s need order pl)

/-- 32 and 64 bits, the first and the last operation. -/
theorem witness_ReleasingAtomic : atomMet (.atom 10 8 4 0 0 0 0 0 0 2 0) { r := true, w := true } 2 (sg p0) u1 p0 = true ∧ atomMet (.atom 10 8 4 0 0 0 0 0 0 3 0) { r := true, w := true } 3 (sg p0) u1 p0 = true := by decide +kernel

theorem witness_Atomics : ∀ i ∈ [.atom 10 8 4 0 0 0 0 0 0 0 0, .atom 10 8 4 0 0 0 6 1 0 0 10, .atom 10 8 0 0 0 0 5 0 0 0 11, .atom 10 8 4 0 1 0 5 0 0 0 12, .atom 10 8 4 0 0 0 0 0 0 0 13],
    atomMet i { r := true, w := true } 0 (sg p0) u1 p0 = true := by decide +kernel

/-- A barrier object of the core's scratchpad, at offset 0. -/
def sb (o : BarObj) : State := (sg p0).setBar 0 0 o

/-- Operand registers: v7 holds offset 0, v5 the count 3, v6 of lane 0 the count 0. -/
def barMet (i : Instr) (a : VReg) (b : Option VReg) (dflt n : Nat) (o : BarObj) : Bool :=
  i.wf && (sb o).legal && decide (Issues i (sb o) u1 p0) && decide (barArg (ctxOf i (sb o) u1 p0) a b dflt = .go 0 0 0 n) && ((sb o).cores.find 0).isSome &&
    (((sb o).core 0).barHeld.find 0).isNone && decide (o.exp < 2 ^ 31 ∧ o.arr < 2 ^ 31 ∧ o.waiters < 1023 ∧ o.pend < 1023 ∧ o.ovr < 2 ^ 32) && decide ((sb o).bar 0 0 = o)

theorem witness_BarInit : barMet (.barinit 7 5) 7 (some 5) 0 3 {} = true ∧ ∀ r ∈ (sb {}).packs, r.2.lanesWhere (Lane.waitsBar 0 0) = 0 ∧ r.2.barReg 0 0 = none := by decide +kernel

/-- An object never initialised, and one in error. -/
theorem witness_BarErrors : barMet (.bararv 1 7 5) 7 (some 5) 1 3 {} = true ∧ barMet (.bartest 1 7) 7 none 0 0 { exp := 4, err := true } = true := by decide +kernel

/-- Arrivals: pending observers; a plain object that would overrun; a count of 0; a counting object that overruns; arrivals that do not complete. -/
theorem witness_BarArrivals : ∀ x ∈ [(Instr.bararv 1 7 5, (5 : VReg), { exp := 4, pend := 1 }), (.baraw 1 7 5, 5, { exp := 4, arr := 2 }), (.bararv 1 7 6, 6, { exp := 4, arr := 2 }),
      (.baraw 1 7 5, 5, { exp := 4, arr := 2, kind := true }), (.baraw 1 7 5, 5, { exp := 2 ^ 31 - 1, arr := 5 }), (.bararv 1 7 5, 5, { exp := 4, arr := 0 })],
    barMet x.1 7 (some x.2.1) 1 (if x.2.1 = (6 : VReg) then 0 else 3) x.2.2 = true ∧ x.2.2.err = false ∧ x.2.2.exp ≠ 0 := by decide +kernel

theorem witness_BarWaits : ∀ i ∈ [.barwait 7, .bartest 1 7], barMet i 7 none 0 0 { exp := 4, arr := 3, ph := true } = true := by decide +kernel

/-- A pack that has not observed the phase the object stands in. -/
theorem witness_BarUnseen : unseen { p0 with bars := [{ off := 0, core := 0, arr := 0, obs := false }] } 0 0 { exp := 4, ph := true } = true := by decide +kernel

theorem witness_BarExpDrop : barMet (.barexp 7 5) 7 (some 5) 0 3 { exp := 4, arr := 3 } = true ∧ barMet (.barexp 7 5) 7 (some 5) 0 3 { exp := 4, arr := 2 } = true ∧
    barMet (.bardrop 7 5) 7 (some 5) 0 3 { exp := 3 } = true ∧ barMet (.bardrop 7 5) 7 (some 5) 0 3 { exp := 5, arr := 1 } = true := by decide +kernel

theorem witness_LastArrival : barMet (.bararv 1 7 5) 7 (some 5) 1 3 { exp := 4, arr := 1, waiters := 1022 } = true ∧ (sb { exp := 4, arr := 1, waiters := 1022 }).packs.sorted = true := by
  decide +kernel

/-- All lanes post the mask of all lanes; and masks that lack their own lane. -/
def pAll : Pack := pk (reg 10 (fun _ => 0xFFFFFFFF))

theorem witness_Psync : ∀ a ∈ [(10 : VReg), 11], Issues (.psync a) (st pAll) un pAll ∧ (ctxOf (.psync a) (st pAll) un pAll).tagged = [] ∧
    (∀ l ∈ lanesOf un.ig, (ctxOf (.psync a) (st pAll) un pAll).psn a 1 l = false) ∧ pAll.lanes.length = 32 := by decide +kernel

theorem witness_Fences : ∀ i ∈ [.fence 0 0, .fence 2 1, .fence 4 2, .fenceLite 2, .fenceHeavy 2, .fenceHeavy 4, .fenceShape 0, .fenceTc 4],
    Instr.wf i = true ∧ Issues i s0 un p0 := by decide +kernel

theorem witness_FenceTc : packTransfers s0 0 0 p0 = false ∧ packTransfers s0 0 0 { p0 with tcq := [{}] } = true ∧ Issues (.fenceTc 3) (st { p0 with tcq := [{}] }) un { p0 with tcq := [{}] } := by
  decide +kernel

/-! ### RED and ATOMR -/

/-- v8 and v9 hold 0x40 in bits [63:56] and this package's number: an offset of this package's control memory. -/
def pHere : Pack := pk (reg 4 (fun l => l) ++ reg 8 (fun l => 8 * l) ++ reg 9 (fun _ => 0x40000000))

def atomrMet (i : Instr) (x : AtomWant) (s : State) (u : Cur) (p : Pack) : Bool :=
  let c := ctxOf i s u p
  let need : Need := { r := true, w := true }
  let pl := fun l => gotPlaces (laneAccess c (c.via 2 need) l (.va (c.rv2 x.a l)) 0 x.n x.n x.n true true s)
  i.wf && s.legal && decide (Issues i s u p) && decide (PlainRun c) && decide (AtomReady x c s need 0 pl) && c.accessors.all (fun l => decide (awayOf s c x.a l = none))

theorem witness_LocalReds : atomMet (.red 0 8 4 0 0 0 0 0 0 0 0) needW 0 (sg p0) u1 p0 = true ∧ atomrMet (.atomr 10 8 4 0 0 0 0 0 4 0 0) ⟨8, 4, 4, false, 0⟩ (sg pHere) u1 pHere = true := by decide +kernel

/-- The same location of package 3, whose token stands in the context's table. -/
def pAway : Pack := pk (reg 4 (fun l => l) ++ reg 8 (fun _ => 0x40) ++ reg 9 (fun _ => 0x40003000))

def sAway : State := { sg pAway with regs := [(0x600028, 0x10100)], mem := [(8 * 2 ^ 48 + 0x1C0, 7), (8 * 2 ^ 48 + 0x1C8, 1)] }

theorem witness_RemoteAtomics : ∀ i ∈ [.atomr 10 8 4 0 0 0 0 0 4 0 0, .red 0 8 4 0 0 0 0 0 4 0 13],
    (Instr.wf i = true ∧ Issues i sAway u1 pAway ∧ CleanAddr (ctxOf i sAway u1 pAway) 8 2 (fun l => .va ((ctxOf i sAway u1 pAway).rv2 8 l)) ∧ (ctxOf i sAway u1 pAway).accessors ≠ [] ∧
      ∀ l ∈ (ctxOf i sAway u1 pAway).accessors, awayOf sAway (ctxOf i sAway u1 pAway) 8 l = some (3, 0x40)) ∧
    sAway.isLost 3 = false ∧ tokenFor sAway 0 3 0x40 2 = (sAway, .ok 7) := by decide +kernel

/-! ### Tiles, streams, launches -/

/-- Four tiles; tile 1 has a state and 64 KiB. -/
def sTile (x : Tile) (p : Pack) : State :=
  { s0 with launches := [(1, { uid := 1, r := { lpsize := 4096, lpbase := 0x20000, ntiles := 4, mx := true } })], packs := [(0, p)], cores := (List.range 160).map (fun c => (c, if c = 0 then { tiles := [(1, x)], mxOwner := some 2, lastFed := some true } else {})) }

def tile (st : TileSt) : Tile := { st := st, size := 256 }

theorem witness_Tiles : ∀ x ∈ [(Instr.tstat 5 1, TileSt.ready), (.trel 1, .filling), (.trel 1, .ready), (.tresume 1, .empty), (.tcopy 1 0 0 0 0 0 0 5 0 0, .empty), (.tcopy 1 3 5 1 1 1 3 4095 4 0, .empty)],
    OnTile x.1 (sTile (tile x.2) p0) un p0 1 (tile x.2) := by decide +kernel

/-- A bar operand that names a barrier object (offset 0x80 of the scratchpad), and one that does not (misaligned). -/
theorem witness_TcopyBar : barOk (sTile (tile .empty) p0) p0 0x80 = true ∧ barOk (sTile (tile .empty) p0) p0 5 = false := by decide +kernel

theorem witness_TileRange : ∀ i ∈ [.tstat 5 4, .trel 4, .tresume 255, .strmFeeda 4, .strmFeedb 4, .tcopy 4 0 0 0 0 0 0 5 0 0],
    Instr.wf i = true ∧ Issues i (sTile (tile .ready) p0) un p0 ∧ (ctxOf i (sTile (tile .ready) p0) un p0).q.ntiles ≤ 4 := by decide +kernel

/-- Feeds of a READY tile, of one that is not, and of one whose size does not fit. -/
theorem witness_Feeds : ∀ x ∈ [tile .ready, tile .empty, { st := .ready, size := 1 }], OnTile (.strmFeeda 1) (sTile x p0) un p0 1 x ∧ OnTile (.strmFeedb 1) (sTile x p0) un p0 1 x := by decide +kernel

theorem witness_Streams : ∀ i ∈ [.strmReplay 1 127, .strmReplay 0x20 1, .strmFlush, .shinv 4095, .shinvAll], Instr.wf i = true ∧ Issues i (sTile (tile .ready) p0) un p0 := by decide +kernel

/-- The last group of two positions that a replay names is there, ungrouped. -/
theorem witness_Replay : Issues (.strmReplay 2 3) { s0 with cores := [(0, { mxOwner := some 2, lastFed := some false, strA := { q := [{ tile := 1 }, { tile := 1, p := 1, last := true }] } })] } un p0 := by decide +kernel

theorem witness_Coll : Instr.wf (.coll 3 0 0 7) = true ∧ Issues (.coll 3 0 0 7) s0 un p0 ∧ Issues (.coll 0 4 3 0xFFFF) s0 un p0 := by decide +kernel

/-- A record of zeros at 0x10000, read through the TLB of the engines: s6 holds its address. -/
def pL : Pack := { p0 with s := [0, 0, 0, 0, 0, 0, 0x10000] }

def sL (deps : Nat) : State := { sg pL with cur := some un, mem := if deps = 0 then [] else [(8 * 2 ^ 48 + 124, BitVec.ofNat 8 deps)] }

def launchMet (node : Bool) (i : Instr) (s : State) (p : Pack) : Bool :=
  i.wf && s.legal && decide (Issues i s un p) && !s.isReplayable (s.wg p.wg).uid && s.prov.isEmpty && !s.isReplayable 0 &&
    (match readRec (published s un) p.ctx 0x10000 with
     | (t, .ok x) => decide (t = published s un) && (match readLists t p.ctx x node with | (t', .ok _) => decide (t' = t) | _ => false)
     | _ => false)

theorem witness_LaunchGrid : launchMet false (.launchGrid 6 0 0) (sL 0) pL = true ∧ launchMet true (.launchNode 6 5 3) (sL 1) pL = true := by decide +kernel

/-! ### The matrix unit -/

def sAcc (p : Pack) (x : AccTile) (t : Tile) : State :=
  { sTile t p with cores := (List.range 160).map (fun c => (c, if c = 0 then { tiles := [(1, t)], mxOwner := some 2, acc := [(3, x)] } else {})) }

theorem witness_AccRows : (∀ i ∈ [.accz 3 0, .accwr 5 3 63 0, .accwr 6 3 0 2, .accopScale 5 3, .accopAddrow 5 3, .accopExps 5 3 4, .accopMaskc 3 0x7FF],
      Instr.wf i = true ∧ Issues i (sAcc p0 {} (tile .empty)) un p0 ∧ (accWant (ctxOf i (sAcc p0 {} (tile .empty)) un p0) (theAcc (sAcc p0 {} (tile .empty)) 0) i).isSome = true) ∧
    (∀ i ∈ [.accopRowmax 5 3, .accopRowsum 5 3], Instr.wf i = true ∧ Issues i (sAcc p0 {} (tile .empty)) un p0 ∧ (rowWant (theAcc (sAcc p0 {} (tile .empty)) 0) i).isSome = true) ∧
    (sAcc p0 {} (tile .empty)).legal = true ∧ AccFree (sAcc p0 {} (tile .empty)) 0 3 false := by decide +kernel

/-- The tags of a tile: an integer tile under a float operation, and the reverse; a tile that an instruction in flight names. -/
theorem witness_AccTags : (theAcc (sAcc p0 { int := true } (tile .empty)) 0 3).int = true ∧ (theAcc (sAcc p0 {} (tile .empty)) 0 3).int = false ∧
    ¬AccFree (sAcc { p0 with toks := [{ id := 9, kind := 3, acc := some 3 }] } {} (tile .empty)) 0 3 true := by decide +kernel

theorem witness_Accrd : ∀ i ∈ [.accrd 10 3 63 0, .accrd 10 3 0 1, .accrd 10 3 0 2], Instr.wf i = true ∧ Issues i (sAcc p0 {} (tile .empty)) un p0 := by decide +kernel

/-- Plain, scaled, integer and e2m1 entries. -/
theorem witness_Mma : ∀ i ∈ [.mma 3 3 7 0 0 0 0 0, .mma 3 0 0 4 0 1 3 5, .mma 47 5 0 0 0 0 0 0, .mma 3 2 0 4 0 0 0 0], Instr.wf i = true ∧ Issues i (sAcc p0 {} (tile .empty)) un p0 ∧
    (ctxOf i (sAcc p0 {} (tile .empty)) un p0).act ≠ 0 := by decide +kernel

theorem witness_Accmv : (∀ x ∈ [(Instr.accmvTotile 1 3 0, TileSt.empty), (.accmvTotile 1 3 4, .empty), (.accmvSave 1 3, .empty), (.accmvFromtile 1 3 0, .ready), (.accmvFromtile 1 3 4, .ready), (.accmvLoad 1 3, .ready)],
      (accmvParts x.1).isSome = true ∧ OnTile x.1 (sAcc p0 {} (tile x.2)) un p0 1 (tile x.2) ∧ ((accmvParts x.1).getD (0, 0, 0, true, none)).2.2.1 ≤ (tile x.2).size * 256) ∧
    (∀ o ∈ (List.range 193), (sAcc p0 {} (tile .empty)).latent.has (spadLatent 0 (64 * o)) = false) := by decide +kernel

/-- A stream with one position not fetched, on a tile of the matrix unit's owner. -/
theorem witness_StreamFill : ∃ x : Pos, x.data = none ∧ (({ mxOwner := some 2, strA := { q := [{ tile := 1, last := true }] } } : Core).strA.q)[0]? = some x := ⟨_, rfl, rfl⟩

/-- An entry at the head with its positions fetched. -/
def kE : Core := { mxOwner := some 2, mmaQ := [{ wg := 2, acc := 3, ty := 3, kch := 1, u := 0xFFFFFFFF }], strA := { q := [{ tile := 1, last := true, data := some ([], []) }] }, strB := { q := [{ tile := 1, last := true, data := some ([], []) }] } }

theorem witness_EntryStart : kE.mmaQ.length = 1 ∧ (∀ r ∈ ({} : State).packs, r.2.flushes = []) ∧ ∀ e ∈ kE.mmaQ, e.popped = none ∧ e.kch ≤ kE.strA.q.length ∧ e.kch ≤ kE.strB.q.length ∧ 0 < e.kch ∧
    ∀ y ∈ kE.strA.q.take e.kch ++ kE.strB.q.take e.kch, y.gid = 0 ∧ y.data.isSome = true := by decide +kernel

/-- A started entry holds whole positions. -/
theorem witness_EntryComplete : ∃ e : MmaEntry, ∃ pa pb, e.popped = some (pa, pb) ∧ e.ty ≤ 5 ∧ e.ty ≠ 2 ∧ pa.length = e.kch ∧ pb.length = e.kch ∧ (∀ y ∈ pa, y.1.length = 8192 ∧ y.2.length = 128) ∧
    ∀ y ∈ pb, y.1.length = 16384 ∧ y.2.length = 256 :=
  ⟨{ ty := 3, kch := 1, popped := some ([(List.replicate 8192 0, List.replicate 128 false)], [(List.replicate 16384 0, List.replicate 256 false)]) }, _, _, rfl, by decide, by decide, rfl, rfl,
    by decide +kernel, by decide +kernel⟩

/-- Gating: an idle time that has passed. -/
theorem witness_MxGate : ∃ k : Core, k.mxIdle ≠ 0 ∧ k.mxGated = false ∧ k.mmaQ = [] ∧ k.mxUsed + k.mxIdle.toNat ≤ 1000 := ⟨{ mxIdle := 64, mxUsed := 7 }, by decide⟩

theorem witness_InFlight : (sTile (tile .filling) { p0 with toks := [{ id := 9, kind := 3, tile := some (1, true) }] }).pack? 0 0 = some { p0 with toks := [{ id := 9, kind := 3, tile := some (1, true) }] } ∧
    (({ p0 with toks := [{ id := 9, kind := 3, tile := some (1, true) }] } : Pack).toks.find? (fun k => k.id == 9 && k.kind == 3)).isSome = true ∧
    ((sTile (tile .filling) p0).core 0).tiles.find 1 = some (tile .filling) := by decide +kernel

/-! ### Frames that spill, traps, the supervisor core -/

/-- A pack that waits for two granules since clock 0. -/
def pWait : Pack := { p0 with req := some { cls := 3, n := 2 } }

/-- A pack that needs more than is free: its frames hold all the pool. -/
def pFull : Pack := { p0 with frames := (List.range 40).map (fun k => { base := 12 * k, size := 12, touched := k }), lanes := (List.range 32).map (fun _ => { st := .active, depth := 39 }), req := some { cls := 3, n := 2 } }

/-- A pack whose top frame is spilled and waits for its refill. -/
def pSpilled : Pack := { p0 with frames := [{ size := 1, st := .spilled }], evicted := true }

theorem witness_Grant : FirstOf ((sw pWait).wants 0) { cls := 3, ord := 0, slot := 0, n := 2, depth := none } ∧ 2 ≤ (sw pWait).poolFree 0 := by decide +kernel

theorem witness_GrantRefill : (∃ w, FirstOf ((sw pSpilled).wants 0) w ∧ w.n = 1 ∧ w.depth = some 0 ∧ w.slot = 0) ∧ findRun ((sw pSpilled).poolRuns 0) 1 = some 0 ∧ 1 ≤ (sw pSpilled).poolFree 0 :=
  ⟨⟨((sw pSpilled).wants 0).headD { cls := 0, ord := 0, slot := 0, n := 0, depth := none }, by decide +kernel⟩, by decide +kernel⟩

theorem witness_SpillStart : (sw pFull).poolFree 0 < 2 ∧ (∀ x ∈ (sw pFull).slotsOf 0, (sw pFull).packStuck 0 x = true) ∧ ((sw pFull).core 0).spill = none ∧ (sw pFull).grantable 0 = none ∧
    ((sw pFull).served 0).isSome = true ∧ ((sw pFull).served 0).all (fun w => ((sw pFull).victim 0 w).isSome) = true := by decide +kernel

/-- A top frame under way to its backing. -/
def pSpilling : Pack := { p0 with frames := [{ size := 1, st := .spilling, cells := [(5, { val := 7 })] }] }

theorem witness_SpillComplete : ((sw pSpilling).writeBack 0 0 0).2 = true ∧ (((sw pSpilling).writeBack 0 0 0).1.markSpilled 0 0 0).2 = true := by decide +kernel

def pRefilling : Pack := { p0 with frames := [{ size := 1, st := .refilling }], evicted := true }

theorem witness_Refill : pRefilling.refilling = some 0 ∧ ((ctlRead 0 0 true ((sw pRefilling).lpBase pRefilling + 32 * (sw pRefilling).backOff pRefilling 0) (128 * 16) (sw pRefilling)).2).isSome = true := by decide +kernel

/-- A record below the ones on chip. -/
def pRec : Pack := { p0 with frames := [{ size := 1, onChip := false }, { base := 1, size := 1 }] }

theorem witness_ReadBack : (pRec.frames.filter (fun x => x.onChip)).length < 8 ∧ (((sw pRec).pinRead 0 0 ((sw pRec).crBase pRec) 32).2).map List.length = some 32 := by decide +kernel

def tr (code : Nat) : Trap := { code := code, lanes := 3, defer := 4, replay := 0x1000, cycle := 5 }
def pTrap (code : Nat) : Pack := { p0 with pending := [tr code] }

/-- With an in-pack handler for every code. -/
def sTrap (code : Nat) : State := ((sw (pTrap code)).setReg 0x600048 0x20000).setReg 0x600058 0xFFFFFFFF

def trapMet (s : State) (p : Pack) (t : Trap) (h : Bool) : Bool :=
  let s0 := { s with packs := s.packs.upd 0 (fun p => { p with pending := [] }) }
  let rec_ := faultRecord p.lane { t with hlvl := t.hlvl || p.handler.isSome } (!h) false (min (p.traps + 1) (2 ^ 32 - 1))
  let r := s0.pinWrite 0 p.ctx (s.frBase p) rec_
  decide (s.pack? 0 0 = some p) && p.svc.isNone && p.handler.isNone && decide (p.lastAct = 0 ∧ t.hlvl = false ∧ p.pending = [t]) && !(s.launch (s.wg p.wg).uid).r.replay && decide (s.reg 0x600070 % 8 ≠ 2) && (toHandler s 0 p t == h) && r.2 &&
    (r.1.pinWrite 0 p.ctx (s.stackVa 0 0 p.ctx) (List.replicate 72 0)).2

theorem witness_Delivery : trapMet (sTrap 17) (pTrap 17) (tr 17) true = true := by decide +kernel

/-- SYSCALL and DOUBLE do not go to the in-pack handler. -/
theorem witness_Escalation : toHandler (sTrap 18) 0 (pTrap 18) (tr 18) = false ∧ toHandler (sTrap 20) 0 (pTrap 20) (tr 20) = false ∧ (sTrap 18).reg 0x600070 % 8 ≠ 2 := by decide +kernel

/-- While the context is saving, the trap stays pending. -/
theorem witness_DeliverySaving : ((sTrap 17).setReg 0x600070 2).reg 0x600070 % 8 = 2 ∧ (pTrap 17).svc = none ∧ (pTrap 17).handler = none ∧ (pTrap 17).lastAct = 0 ∧ (pTrap 17).pending = [tr 17] := by decide +kernel

def pSvc : Pack := { p0 with svc := some { trap := tr 18 } }

theorem witness_Endtrap : (sw pSvc).pack? 0 0 = some pSvc ∧ (((sw pSvc).readAction 0 0 ((sw pSvc).frBase pSvc)).2).map (fun x => decide (x.1 < 4)) = some true ∧ (sw p0).pack? 0 0 = some p0 ∧ p0.svc = none := by
  decide +kernel

/-- A WAITEV whose limit has passed; lanes old enough; a breakpoint at the group's address. -/
def pEv : Pack := { p0 with waitev := [(3, 5, 1, some 0)], passed := 256 }

theorem witness_PackControl : (sw pEv).pack? 0 0 = some pEv ∧ pEv.waitev = (3, 5, 1, some 0) :: pEv.waitev.tail ∧ 0 ≤ (sw pEv).cycle ∧ (sw p0).pack? 0 1 = none ∧ ((sw p0).core 0).trq = [] ∧
    ((sw p0).core 0).trqHeld = none := by decide +kernel

def sBreak : State := { sw p0 with cores := [(0, { csr := [(0x7D8, 1)], trq := [{ slot := 47, code := 0x15, ctx := 63, img := some { lanes := 3 } }], trqHeld := some { img := some { lanes := 3, core := 0, pack := 0 } } })] }

theorem witness_Breakpoint : sBreak.breakHit 0 0 = some 0 ∧ bits (sBreak.reg 0x830000) 0 0 = 0 := by decide +kernel

theorem witness_TrqHeld : ((sBreak.core 0).trqHeld.bind (fun e => e.img)).isSome = true ∧ ((sBreak.core 0).trq).all (fun e => decide (e.slot < 64 ∧ e.code < 256 ∧ e.ctx < 64)) = true := by decide +kernel

/-- POST of a held fault: the function's queue is enabled and has room. -/
theorem witness_Post : (sBreak.setReg 0x200000 1).prqEnabled ((sBreak.setReg 0x200000 1).funcOf 0) = true ∧ (sBreak.setReg 0x200000 1).prqHeld = [] ∧ (sBreak.setReg 0x200000 1).prqCount 0 < 256 := by decide +kernel

def pPark : Pack := { p0 with park := true, fpc := 3 }

/-- The supervisor core's selections: each kind of item of a parked pack. -/
theorem witness_Pkdata : ∀ x ∈ [(0, 0), (0, 111), (0, 112), (0, 122), (1, 0), (1, 31), (2, 1), (2, 7), (3, 0), (4, 0), (6, 5), (8, 0), (9, 0)],
    (itemOf (sw pPark) pPark 31 x.2 x.1 0).isSome = true ∧ Sel (47 + 31 * 2 ^ 8 + x.2 * 2 ^ 16 + x.1 * 2 ^ 24) 47 31 x.2 x.1 0 := by decide +kernel

theorem witness_PkdataSpilled : (pSpilled.frames.getD 0 {}).st = .spilled ∧ (0 : Nat) < pSpilled.frames.length ∧ 7 < 8 * (pSpilled.frames.getD 0 {}).size := by decide +kernel

/-- An image that may be installed: NOP; and the words of a SHINV. -/
theorem witness_ControlStore : imageOkFrom [0x02000000] 33 0 = true ∧ (sw p0).slotFree 0 3 = true ∧ (∃ im, decode [(encode (.shinv im)).headD 0 % 2 ^ 32] = .ok (.shinv im)) := by
  refine ⟨by decide +kernel, by decide +kernel, 7, by decide +kernel⟩

/-! ### Translation, page requests, the fabric -/

/-- All 160 cores, the first one as given. -/
def all160 (k : Core) : FMap Core := (List.range 160).map (fun c => (c, if c = 0 then k else {}))

def le8 (v : Nat) (pa : Nat) : FMap Byte := ((leBytes 8 v).zipIdx.map (fun x => (pa + x.2, x.1))).filter (fun x => x.2 != 0)

/-- Table k of a walk of VA 0x123456789ABC. -/
def tab (k : Nat) : Nat := 8 * 2 ^ 36 + 77 + 3 * k
def ixOf (k : Nat) : Nat := 0x123456789ABC / 2 ^ (39 - 9 * k) % 512

/-- Four tables, the last entry a leaf of 4 KiB; the context's control root names the first table. -/
def sWalk : State :=
  { cores := all160 {}, regs := [(0x600008, BitVec.ofNat 64 (4096 * tab 0)), (0x710000, 1)],
    mem := (List.range 3).flatMap (fun k => le8 (1 + 4096 * tab (k + 1)) (4096 * tab k + 8 * ixOf k)) ++ le8 (pteOf true false 0 true false true (8 * 2 ^ 36 + 5) 0) (4096 * tab 3 + 8 * ixOf 3) }

theorem witness_Walk : sWalk.legal = true ∧ sWalk.funcOf 0 = 0 ∧ tab 0 = sWalk.reg 0x600008 / 4096 % 2 ^ 40 ∧
    (∀ k, k < 4 → 8 * 2 ^ 36 ≤ tab k ∧ tab k < 8 * 2 ^ 36 + 2 ^ 33 ∧ sWalk.homeLost (4096 * tab k) = false ∧ sWalk.latent.has ((4096 * tab k + 8 * ixOf k) / 64) = false) ∧
    (∀ k, k < 3 → sWalk.readNat {} (4096 * tab k + 8 * ixOf k) 8 = 1 + 4096 * tab (k + 1)) ∧
    sWalk.readNat {} (4096 * tab 3 + 8 * ixOf 3) 8 = pteOf true false 0 true false true (8 * 2 ^ 36 + 5) 0 := by decide +kernel

theorem witness_WalkRights : ((kindNeed 4).w = true → true = true) ∧ (kindNeed 4).x = false ∧ rootAllows 0 (4096 * (8 * 2 ^ 36 + 5)) = true ∧ rootAllows 1 (4096 * 55) = true ∧ sWalk.reg (0x710000 + 8 * 0) % 2 = 1 := by decide +kernel

/-- A page-request queue with room that waits for the reply to tag 7 of lanes 0 and 1 of a pack, and one more request held; a carve of one unit, no window. -/
def sPrq : State :=
  { st { p0 with lanes := (List.range 32).map (fun l => { st := if l < 2 then .waiting else .active, why := if l < 2 then .fault { lanes := 3, core := 0, pack := 0, tag := 7 } else .none }) } with
    cores := all160 {}, regs := [(0x200000, 1), (0x200008, 5), (0x200010, 4), (0x300000, 1)], prq := [{ img := { lanes := 3, core := 0, pack := 0, tag := 7 } }], prqHeld := [{ img := { va := 0x999, lanes := 3 } }], chip := [(2 ^ 20, 7), (2 ^ 26, 8)] }

theorem witness_PageRequests : sPrq.legal = true ∧ sPrq.reg 0x100008 / 2 ^ 63 ≠ 1 ∧ sPrq.reg 0x200000 % 2 = 1 ∧ (sPrq.reg 0x200008 % 512 + 512 - sPrq.reg 0x200010 % 512) % 512 < 256 ∧
    sPrq.prqHeld = [{ img := { va := 0x999, lanes := 3 } }] ∧ sPrq.prq.find? (fun q => q.func == 0 && q.img.tag == 7) = some { img := { lanes := 3, core := 0, pack := 0, tag := 7 } } ∧
    (sPrq.pack? 0 0).any (fun p => p.waitev.isEmpty && p.handler.isNone && p.lanes.length == 32) = true := by decide +kernel

/-- A full queue: 256 entries between head and tail; and a head write beyond the tail. -/
theorem witness_QueueBounds : (256 + 512 - 0) % 512 = 256 ∧ 256 < (0 + 512 - 1) % 512 ∧ { sPrq with regs := [(0x200000, 1), (0x200008, 256)] }.reg 0x200008 % 512 = 256 := by decide +kernel

theorem witness_Carve : sPrq.reg 0x300000 % 4 = 1 ∧ ¬(sPrq.reg 0x300000 / 2 ^ 63 % 2 = 1) ∧ (∀ c, c < 64 → sPrq.reg (0x310000 + 8 * c) / 2 ^ 16 % 128 = 0) ∧ (3 : Nat) ≠ sPrq.reg 0x300000 % 4 := by decide +kernel

/-- A window of 32 units from unit 0 for a context that runs no workgroup; 33 units do not fit. -/
theorem witness_Window : (∀ w ∈ sPrq.wgs, w.2.ctx ≠ 5) ∧ (32 * 2 ^ 16) % 128 + (32 * 2 ^ 16) / 2 ^ 16 % 128 ≤ 32 * (sPrq.reg 0x300000 % 4) ∧ ¬(33 * 2 ^ 16 / 2 ^ 16 % 128 ≤ 32 * (sPrq.reg 0x300000 % 4)) := by
  decide +kernel

/-- A copy that awaits its page request. -/
def sPrqCopy : State := { sPrq with copies := [(4, { id := 4, status := 2 })], prq := [{ img := { tag := 7 }, copy := some 4 }] }

theorem witness_CopyReply : sPrqCopy.legal = true ∧ sPrqCopy.prq.find? (fun q => q.func == 0 && q.img.tag == 7) = some { img := { tag := 7 }, copy := some 4 } ∧
    (sPrqCopy.copies.find 4).map (fun c => c.status) = some 2 := by decide +kernel

/-- A range table whose entry 1 grants all rights to one page at offset 0, mapped to offset 4096 of the package's memory; entry 0 is invalid. -/
def sRange : State := { cores := all160 {}, regs := [(0x402000, BitVec.ofNat 64 (8 * 2 ^ 48)), (0x402008, 2)], mem := [(8 * 2 ^ 48 + 32, 0x1F), (8 * 2 ^ 48 + 40, 1), (8 * 2 ^ 48 + 49, 0x10)] }

/-- A token for slot x with all rights and one unit of time left; its MAC is the one of the package's key. -/
def tokenOf (s : State) (pkg ctx slot rights time : Nat) : DWord :=
  let lo := slot + rights * 2 ^ 16 + time * 2 ^ 20
  BitVec.ofNat 64 (lo + (Config.cmac s.tokenKey (leBytes 4 lo ++ leBytes 2 pkg ++ leBytes 1 ctx ++ [0])).toNat * 2 ^ 32)

def fromPkg (slot rights : Nat) (k : ReqKind) : RemoteReq := { pkg := 3, seq := 9, ctx := 5, token := tokenOf sRange 3 5 slot rights 1, kind := k, plane := 0 }

theorem witness_RequestArrives : sRange.legal = true ∧ sRange.isLost 3 = false ∧ sRange.performed.find ((2048 + 3) * 2 ^ 64 + 9) = none ∧ { sRange with performed := [((2048 + 3) * 2 ^ 64 + 9, .ack)] }.performed.find ((2048 + 3) * 2 ^ 64 + 9) = some .ack ∧
    SoundRun sRange {} (8 * 2 ^ 48 + 32) 32 ∧ SoundRun sRange { key := 0 } (4096 + 0) 8 := by decide +kernel

/-- Its entry as the request reads it, and the least and greatest address of the page. -/
theorem witness_RangeEntry : rdNat sRange {} (8 * 2 ^ 48 + 32) 32 = 0x1F + 2 ^ 64 + 0x1000 * 2 ^ 128 ∧ rdNat sRange {} (8 * 2 ^ 48) 32 % 2 = 0 := by decide +kernel

theorem tokenOf_toNat (s : State) (pkg ctx slot rights time : Nat) (h : slot + rights * 2 ^ 16 + time * 2 ^ 20 < 2 ^ 32) :
    (tokenOf s pkg ctx slot rights time).toNat = slot + rights * 2 ^ 16 + time * 2 ^ 20 + (Config.cmac s.tokenKey (leBytes 4 (slot + rights * 2 ^ 16 + time * 2 ^ 20) ++ leBytes 2 pkg ++ leBytes 1 ctx ++ [0])).toNat * 2 ^ 32 := by
  have := (Config.cmac s.tokenKey (leBytes 4 (slot + rights * 2 ^ 16 + time * 2 ^ 20) ++ leBytes 2 pkg ++ leBytes 1 ctx ++ [0])).isLt
  simp only [tokenOf, BitVec.toNat_ofNat]
  omega

/-- Whatever MACs are, a read that no check refuses. -/
theorem readGranted (s : State) (r : RemoteReq) (E x z off n : Nat) (hk : r.kind = .read off n) (hx : x < 2 ^ 32) (ht : r.token.toNat = x + z * 2 ^ 32)
    (hz : z = (Config.cmac s.tokenKey (leBytes 4 x ++ leBytes 2 r.pkg ++ leBytes 1 r.ctx ++ [0])).toNat) (h1 : x % 2 ^ 16 < s.reg 0x402008 % 2 ^ 17) (hs : s.cycle = 0)
    (hl : 0 < x / 2 ^ 20 ∧ x / 2 ^ 20 < 2048) (hr : x / 2 ^ 16 % 2 = 1) (hE : E % 2 = 1 ∧ E / 2 % 2 = 1) (hv : E / 2 ^ 5 % 2 ^ 7 = 0 ∧ E / 2 ^ 44 % 2 ^ 20 = 0 ∧ E / 2 ^ 91 % 2 ^ 37 = 0 ∧ E / 2 ^ 167 % 2 ^ 25 = 0 ∧ E / 2 ^ 197 = 0)
    (hb : E / 2 ^ 128 % 2 ^ 39 + 4096 * (E / 2 ^ 64 % 2 ^ 27) ≤ 480 * 2 ^ 30) (ho : E / 2 ^ 12 % 2 ^ 32 * 4096 ≤ off) (hn : off + n ≤ E / 2 ^ 12 % 2 ^ 32 * 4096 + 4096 * (E / 2 ^ 64 % 2 ^ 27)) : refuseReason s r E = none := by
  obtain ⟨v1, v2, v3, v4, v5⟩ := hv
  have a1 : r.token.toNat % 2 ^ 32 = x := by omega
  have a2 : r.token.toNat / 2 ^ 32 = z := by omega
  have a3 : r.token.toNat % 2 ^ 16 = x % 2 ^ 16 := by omega
  have a4 : r.token.toNat / 2 ^ 20 % 4096 = x / 2 ^ 20 := by omega
  have a5 : r.token.toNat / 2 ^ 16 % 2 = 1 := by omega
  have a6 : (x / 2 ^ 20 + 4096 - 0 / 2 ^ 22 % 4096) % 4096 = x / 2 ^ 20 := by omega
  unfold refuseReason
  rw [hk]
  dsimp only
  rw [a1, a2, a3, a4, hs, a6, if_neg, if_neg, if_neg, if_neg, if_neg]
  · omega
  · rw [Nat.add_zero, a5]; omega
  · omega
  · rw [hz]; simp
  · rw [v1, v2, v3, v4, v5]; omega

theorem witness_Granted : refuseReason sRange (fromPkg 1 15 (.read 0 8)) (0x1F + 2 ^ 64 + 0x1000 * 2 ^ 128) = none :=
  readGranted sRange _ _ (1 + 15 * 2 ^ 16 + 1 * 2 ^ 20) _ 0 8 rfl (by decide) (tokenOf_toNat sRange 3 5 1 15 1 (by decide)) rfl (by decide +kernel) rfl (by decide) (by decide) (by decide +kernel) (by decide +kernel) (by decide +kernel) (by decide +kernel) (by decide +kernel)

/-- An entry that is not valid refuses every request. -/
theorem witness_Refused : refuseReason sRange (fromPkg 0 15 (.read 0 8)) 0 = some 1 := by unfold refuseReason; rw [if_pos (Or.inr (Or.inl rfl))]

/-- A RED and an ATOMR of lanes 0 and 1 are away to package 4, sent at clock 0 and again once; only plane 7 is up; the pack holds the ATOMR's token. -/
def redAway : Remote := { target := 4, req := { pkg := 0, seq := 1, ctx := 0, token := 0, kind := .reduce 0 0 0 [1, 0, 0, 0] false, plane := 7 }, who := .red 0 0 2 1, tries := 2 }
def atomAway : Remote := { target := 4, req := { pkg := 0, seq := 2, ctx := 0, token := 0, kind := .atom 0 12 false [5] 1 false false, plane := 7 }, who := .atomr 0 0 3 0 5 false 12 [1] [5] [false] 2 { code := 5 }, tries := 1 }
def sFab : State :=
  { st { p0 with toks := [{ id := 3, kind := 6 }] } with cores := all160 {}, regs := [(0x400038, 3), (0x401000, 2 ^ 24)], cycle := 2 ^ 25, remotes := [(1, redAway), (2, atomAway)] }

theorem witness_Responses : sFab.legal = true ∧ FMap.sorted sFab.remotes = true ∧ sFab.remotes.find 9 = none ∧ sFab.remotes.find 1 = some redAway ∧ sFab.remotes.find 2 = some atomAway ∧ sFab.isLost 4 = false ∧
    respFits redAway.req.kind .ack = true ∧ respFits redAway.req.kind (.old 0 false true) = false ∧ respFits atomAway.req.kind (.old 1 false true) = true ∧ respFits atomAway.req.kind .gone = true ∧ ∀ x ∈ sFab.remotes, x.2.held = false := by
  decide +kernel

theorem witness_AtomrResponse : (sFab.pack? 0 0).any (fun p => p.toks.any (fun k => k.id == 3) && p.frames.length == 1 && !(sFab.lrecOf p).rec_ && !(sFab.lrecOf p).paired) = true := by decide +kernel

/-- Loss by a notice and by the time-out of the second sending; the same without the ATOMR; one sending after the time-out. -/
theorem witness_Loss : (4 : Nat) ≠ sFab.pkgId ∧ sFab.lost.has 4 = false ∧ sFab.reg 0x401000 % 2 ^ 32 ≠ 0 ∧ redAway.sentAt + sFab.reg 0x401000 % 2 ^ 32 ≤ sFab.cycle ∧ 2 ≤ redAway.tries ∧ atomAway.tries = 1 ∧
    (∀ x ∈ { sFab with remotes := [(1, redAway)] }.remotes, x.2.who = .red 0 0 2 1) := by decide +kernel

/-- A port up, one down and not disabled, one disabled; a port at its sixteenth CRC failure. -/
theorem witness_Ports : sFab.planeUp 7 = true ∧ sFab.planeUp 35 = false ∧ sFab.reg 0x400118 / 2 ^ 32 % 2 = 0 ∧ { sFab with regs := [(0x400000, 2 ^ 32)] }.reg 0x400000 / 2 ^ 32 % 2 = 1 ∧
    ({ sFab with portFails := [(7, 16)] }.portFails.find 7).getD 0 = 16 := by decide +kernel

theorem witness_ControlRequest : (paOk (8 * 2 ^ 48) && paClass (8 * 2 ^ 48) == 8) = true ∧ (paOk (2 ^ 60) && paClass (2 ^ 60) == 8) = false ∧ sFab.homeLost (8 * 2 ^ 48) = false ∧ SoundRun sFab {} (8 * 2 ^ 48) 8 := by
  decide +kernel

/-- Requests of package 5: one it has performed, one of a line whose mirror is not acknowledged, one that may be performed; a host core's of the tensor range. -/
def sCtl : State := { sFab with performed := [((2048 * 16 + 5) * 2 ^ 64 + 3, .data [1] false)], mirrorPend := [8 * 2 ^ 48 / 64], lost := [(7, ())] }

theorem witness_PeerRequests : sCtl.isLost 5 = false ∧ sCtl.isLost 7 = true ∧ 2048 * (16 + 8 * 2 ^ 48 / 2 ^ 34 % 2 ^ 11) + 5 = 2048 * 16 + 5 ∧ sCtl.performed.find ((2048 * 16 + 5) * 2 ^ 64 + 3) = some (.data [1] false) ∧
    sCtl.performed.find ((2048 * 16 + 5) * 2 ^ 64 + 4) = none ∧ (∃ x ∈ sCtl.mirrorPend, 8 * 2 ^ 48 / 64 ≤ x ∧ 64 * x < 8 * 2 ^ 48 + 8) ∧ (¬∃ x ∈ sCtl.mirrorPend, (8 * 2 ^ 48 + 64) / 64 ≤ x ∧ 64 * x < 8 * 2 ^ 48 + 64 + 8) ∧
    (paOk 0x40 && paClass 0x40 == 0) = true ∧ SoundRun sCtl (ctlAcc (.peer 5 4)) (8 * 2 ^ 48 + 64) 8 ∧ SoundRun sCtl (ctlAcc (.host 2)) 0x40 8 := by decide +kernel

theorem witness_Mirror : sCtl.isLost (buddy sCtl.pkgId) = false ∧ { sCtl with lost := [(buddy sCtl.pkgId, ())] }.isLost (buddy sCtl.pkgId) = true ∧ sCtl.ctlHeld = [] := by decide +kernel

/-- A request that found no plane up. -/
theorem witness_NoPort : { sFab with remotes := [(1, { redAway with noPort := true, held := true })] }.remotes.find 1 = some { redAway with noPort := true, held := true } ∧ sFab.planeUp 8 = false := by decide +kernel

/-! ### Copies and collectives -/

/-- A record of a copy of `e` elements of 8 bytes: first word, second word of the 64 bytes, with the flags at bit 436. -/
def imgOf (src dst e flags : Nat) : List Byte := leBytes 64 (src + dst * 2 ^ 64 + e * 2 ^ 128 + (1 + 2 ^ 16 + 2 ^ 32) * 2 ^ 144 + 2 ^ 384 + 8 * 2 ^ 288 + 2 * 2 ^ 432 + flags * 2 ^ 436)

/-- From memory to a tile, and back. -/
def imgIn (e : Nat) : List Byte := imgOf (0x40 * 2 ^ 56) 0 e 2
def imgOut (e : Nat) : List Byte := imgOf 0 (0x40 * 2 ^ 56) e 1

/-- A pack whose TCOPY of tile 1 with record 1 waits for acceptance; the record is in the record cache, the memory is mapped for the engines. -/
def pTcq : Pack := { p0 with toks := [{ id := 7, kind := 4 }], tcq := [{ tok := 7, lanes := 0xF, pc := 0x1000, tile := 1, shape := 1 }] }

def sCopy (img : List Byte) (tl : Tile) : State :=
  { st pTcq with cores := all160 { tiles := [(1, tl)] }, launches := [(1, { uid := 1, r := { ntiles := 4 } })], recCache := [((0, 0, 1), img)],
                 tlb := [{ where_ := 10, root := 1, va := 0, pa := 8 * 2 ^ 48, size := 12, r := true, w := true, d := true }] }

def acceptMet (img : List Byte) (tl : Tile) (bad range gate : Bool) : Bool :=
  let s := sCopy img tl
  match recordRead s 0 0 1 (s.ctxReg 0 0x20 + 64 * 1) 64 4 with
  | (s1, .ok i) =>
    let z := shapeOf i none
    let w := s1.wg 2
    i == img && s1 == s && s.legal && ((s1.core w.core).tiles.find (w.tileIx 1)) == some tl && !z.ext && !remoteVa s1.pkgId z.memBase && (shapeBad s1 w z [] 1 0 == bad) &&
      (decide (0 ≤ z.tileRange.1 ∧ z.tileRange.2 ≤ tl.size * 256) == range) && decide (s1.coreCopies 0 < 32) && ((if z.dkind then decide (tl.st = .empty) else decide (tl.st = .ready ∧ tl.readers < 63)) == gate)
  | _ => false

/-- Accepted to an empty tile and from a ready one; waiting for its gate; a bad record; a record outside the tile. -/
theorem witness_TcopyAccept : acceptMet (imgIn 4) { size := 1 } false true true = true ∧ acceptMet (imgOut 4) { size := 1, st := .ready, readers := 62 } false true true = true ∧
    acceptMet (imgIn 4) { size := 1, st := .ready } false true false = true ∧ acceptMet (imgIn 0) { size := 1 } true false true = true ∧ acceptMet (imgIn 400) { size := 1 } false false true = true := by decide +kernel

/-- A record that is not mapped faults. -/
theorem witness_TcopyRecordFault : (match recordRead { sCopy [] {} with recCache := [] } 0 0 1 ((sCopy [] {}).ctxReg 0 0x20 + 64 * 1) 64 4 with
    | (s1, .fault _) => (s1.pack? 0 0 == some pTcq) && (s1.cores.find 0).isSome
    | _ => false) = true ∧ (∀ l, l < 32 → (pTcq.lane l).st ≠ .waiting) := by decide +kernel

/-- The copy at position n with a status. -/
def cp (img : List Byte) (n status : Nat) : Copy := { id := 4, core := 0, slot := 0, wg := 2, q := { tok := 0, lanes := 0xF, pc := 0x1000, tile := 1, shape := 1 }, img := img, at_ := n, status := status }
def sRun (img : List Byte) (tl : Tile) (n status : Nat) : State := { sCopy img tl with copies := [(4, cp img n status)] }

theorem witness_CopyStart : (sRun (imgIn 4) { st := .filling, size := 1 } 0 0).copies.find? (fun x => x.2.status == 0) = some (4, cp (imgIn 4) 0 0) ∧
    ((sRun (imgIn 4) { st := .filling, size := 1 } 0 0).copies.filter (fun x => x.2.status == 1)).length < 48 := by decide +kernel

theorem witness_CopyRuns : RunsOn (sRun (imgIn 4) { st := .filling, size := 1 } 3 1) 4 (cp (imgIn 4) 3 1) { uid := 1, core := 0, slots := [0], ways := 1 } { st := .filling, size := 1 } ∧
    (sRun (imgIn 4) {} 3 1).isReplayable 1 = false := by decide +kernel

/-- The last element of a copy: its places are there and sound. -/
def lastMet (img : List Byte) (tl : Tile) : Bool :=
  let s := sRun img tl 3 1
  let c := cp img 3 1
  let w := s.wg 2
  let z := shapeOf img none
  let tp := tilePlaces w tl (if z.dkind then z.dstAt 3 else z.srcAt 3 (fun _ => 0)) z.esz
  match engPlaces s c (if z.dkind then z.srcAt 3 (gatherIx s w z) else z.dstAt 3) z.esz (!z.dkind) with
  | (s1, .ok ps) => decide (c.at_ + 1 = z.total ∧ ps.length = z.esz) && !z.isPad 3 && (z.skind != z.dkind) && (tp ++ ps).all (fun pl => placeSound s pl && placeSound s1 pl) && !(s1.launch 1).r.rec_ && decide (s1.copies = s.copies)
  | _ => false

theorem witness_LastElement : lastMet (imgIn 4) { st := .filling, size := 1 } = true ∧ lastMet (imgOut 4) { st := .ready, readers := 1, size := 1 } = true := by decide +kernel

theorem witness_ElementFault : (match engPlaces { sRun (imgIn 4) { st := .filling, size := 1 } 1 1 with tlb := [] } (cp (imgIn 4) 1 1) ((shapeOf (imgIn 4) none).srcAt 1 (fun _ => 0)) 4 false with
    | (s1, .fault _) => decide (s1.copies = (sRun (imgIn 4) {} 1 1).copies) | _ => false) = true ∧ 1 < (shapeOf (imgIn 4) none).total := by decide +kernel

theorem witness_CopyEnds : (shapeOf (imgIn 4) none).total ≤ (cp (imgIn 4) 4 1).at_ ∧ (cp (imgIn 4) 4 1).q.dig = false ∧ copyBar (sRun (imgIn 4) {} 4 1) (cp (imgIn 4) 4 1) = none ∧ (cp (imgIn 4) 1 4).status = 4 ∧
    copyBar (sRun (imgIn 4) {} 1 4) (cp (imgIn 4) 1 4) = none := by decide +kernel

/-- A copy linked to the barrier object at 0x80 that owes 32 bytes. -/
def cpBar : Copy := { cp (imgIn 4) 4 1 with q := { tok := 0, lanes := 0xF, pc := 0x1000, tile := 1, shape := 1, bar := some 0x80 }, owed := 32 }
theorem witness_CopyBar : copyBar (sRun (imgIn 4) {} 4 1) cpBar = some (0, 0x80) ∧ copyBarWaits (sRun (imgIn 4) {} 4 1) cpBar = false ∧ copyBarWaits (sRun (imgIn 4) {} 4 1) (cp (imgIn 4) 4 1) = false := by decide +kernel

/-- The same object of member 1 of a cluster of two, which has not started. -/
def cpFar : Copy := { cpBar with q := { cpBar.q with bar := some (2 ^ 28 + 2 ^ 24 + 0x80) } }
theorem witness_CopyBarWaits : copyBarWaits { sRun (imgIn 4) {} 4 1 with launches := [(1, { uid := 1, r := { ntiles := 4, clm1 := 1, spad := 16, nx := 2, ny := 1, nz := 1 } })] } cpFar = true := by decide +kernel

/-- Its page request is held; the queue is off, then on. -/
def sPause (on : Nat) : State := { sRun (imgIn 4) { st := .filling, size := 1 } 1 2 with prqHeld := [{ copy := some 4 }], regs := [(0x200000, BitVec.ofNat 64 on)] }
theorem witness_CopyPause : (sPause 0).prqHeld.find? (fun q => q.copy == some 4) = some { copy := some 4 } ∧ (sPause 0).prqEnabled 0 = false ∧ (sPause 1).prqEnabled 0 = true ∧ (sPause 1).prqCount 0 < 256 ∧
    (sPause 1).prqHeld.filter (fun x => x.copy != some 4) = [] := by decide +kernel

/-- A collective's record: kind, rank, op (f32 elements), COUNT, columns; SRC 0, DST 0x1000, STAGE 0x10000 of package 0. -/
def crec (kind rank op count mask : Nat) : List Byte :=
  leBytes 512 (9 + rank * 2 ^ 16 + kind * 2 ^ 32 + 4 * 2 ^ 35 + op * 2 ^ 39 + 2 ^ 43 + count * 2 ^ 64 + mask * 2 ^ 128 + 0x40 * 2 ^ 56 * 2 ^ 192 + (0x40 * 2 ^ 56 + 0x1000) * 2 ^ 256 + (0x40 * 2 ^ 56 + 0x10000) * 2 ^ 320)

/-- A pack whose COLL of record 2 waits; a grid table (at 0x2000) of three packages 0, 5, 6, a token table at 0x2800. -/
def pColl : Pack := { p0 with toks := [{ id := 7, kind := 5 }], collq := [{ tok := 7, lanes := 0xFFFFFFFF, pc := 0x1000, index := 2 }] }

def sColl (img : List Byte) : State :=
  { st pColl with cores := all160 {}, recCache := [((0, 1, 2), img)], regs := [(0x400000, 3), (0x402000, BitVec.ofNat 64 (8 * 2 ^ 48)), (0x402008, 2), (0x600030, 0x2000), (0x600040, 0x2800)], planeBw := [(0, 5)],
                  mem := [(8 * 2 ^ 48 + 32, 0x1F), (8 * 2 ^ 48 + 40, 0xFF), (8 * 2 ^ 48 + 41, 0xFF)] ++ le8 (0x8000 + 0x8005 * 2 ^ 16 + 0x8006 * 2 ^ 32) (8 * 2 ^ 48 + 0x2000),
                  tlb := [{ where_ := 10, root := 0, va := 0x2000, pa := 8 * 2 ^ 48 + 0x2000, size := 13, r := true, w := true, d := true }, { where_ := 10, root := 1, va := 0, pa := 8 * 2 ^ 48 + 2 ^ 20, size := 20, r := true, w := true, d := true }] }

def collAcceptMet (img : List Byte) (bad : Bool) (ms : Option (List Nat)) : Bool :=
  let s := sColl img
  match recordRead s 0 1 2 (s.ctxReg 0 0x38 + 512 * 2) 512 4 with
  | (s1, .ok i) => i == img && (crecOf i none).bad s1.pkgId == bad && (bad || (match collMembers s1 0 (crecOf i none) with
      | (s2, m, none) => m == ms && decide (s.colls.length < 16) && (match collTokens s2 0 (m.getD []) with
          | (s3, ts, none) => ts.length == (m.getD []).length && s3.isReplayable (s3.wg 2).uid == false && s3.collHeld.isEmpty && (s3.pack? 0 0 == some pColl) && FMap.sorted s3.l1
          | _ => false)
      | _ => false))
  | _ => false

/-- Rank 0 of three; a rank that is not this package's; an invalid table entry; a COUNT of 0. -/
theorem witness_CollAccept : collAcceptMet (crec 0 0 1 4 7) false (some [0, 5, 6]) = true ∧ collAcceptMet (crec 0 1 1 4 7) false (some [0, 5, 6]) = true ∧ collAcceptMet (crec 0 0 1 4 15) false none = true ∧
    collAcceptMet (crec 0 0 1 0 7) true none = true := by decide +kernel

/-- A token table at an address that is no control address traps at acceptance. -/
theorem witness_CollTokenTrap : (let s := { sColl (crec 0 0 1 4 7) with regs := [(0x600040, BitVec.ofNat 64 (0x40 * 2 ^ 56))] }
    match (collTokens s 0 [0, 5, 6]).2.2 with | some (.trap _ _) => true | _ => false) = true := by decide +kernel

/-- A record at an address that is no control address traps. -/
theorem witness_CollRecordTrap : (match recordRead { sColl [] with recCache := [], regs := [(0x600038, BitVec.ofNat 64 (0x40 * 2 ^ 56))] } 0 1 2 (({ sColl [] with regs := [(0x600038, BitVec.ofNat 64 (0x40 * 2 ^ 56))] } : State).ctxReg 0 0x38 + 512 * 2) 512 4 with
    | (_, .trap _ _) => true | _ => false) = true := by decide +kernel

/-- A collective in progress on plane 0; slot 0 of its STAGE holds a chunk of ones. -/
def cl (img : List Byte) (rank : Nat) (steps : FMap CollStep) : Coll :=
  { id := 4, core := 0, slot := 0, wg := 2, lanes := 0xFFFFFFFF, replay := 0x1000, index := 2, img := img, seq := 1, members := [0, 5, 6], rank := rank, split := some [0, 0, 0], steps := steps }

def sCl (c : Coll) : State := { sColl c.img with colls := [(4, c)], mem := (sColl c.img).mem ++ (List.range 16).map (fun k => (8 * 2 ^ 48 + 2 ^ 20 + 0x10000 + k, 1)) }

/-- The root of an all-reduce of 16 bytes; ranks of a reduce-scatter, whose slice 0 ends at rank 0 and passes through rank 2. -/
def cRoot : Coll := cl (crec 0 0 1 4 7) 0 []
def cLast : Coll := cl (crec 2 0 1 4 7) 0 [(0, { ins_ := [(2, 0)], own := some (List.replicate 16 2, false) })]
def cMid : Coll := { cl (crec 2 2 1 4 7) 2 [(0, { ins_ := [(1, 0)], own := some (List.replicate 16 2, false) })] with members := [5, 6, 0] }

theorem witness_CollSplit : ({ cRoot with split := none } : Coll).split = none ∧ [0].length = ({ cRoot with split := none } : Coll).q.splitLen ∧ (sCl cRoot).collHeld = [] ∧ (sCl cRoot).legal = true ∧ FMap.sorted (sCl cRoot).colls = true := by
  decide +kernel

theorem witness_OpenStep : OpenStep (sCl cRoot) 4 cRoot 0 ∧ OpenStep (sCl cLast) 4 cLast 0 ∧ OpenStep (sCl cMid) 4 cMid 0 ∧ (sCl cRoot).isReplayable ((sCl cRoot).wg 2).uid = false := by decide +kernel

def readMet (s : State) (c : Coll) : Bool :=
  (c.inputs 0).1 && (c.step 0).own.isNone && c.reduces 0 && (match collPlaces s c (c.q.src + c.srcOff 0) (c.q.len 0) false with
    | (s1, .ok ps) => ps.all (placeSound s1) && decide (s1.colls = s.colls) | _ => false)

theorem witness_Contribution : readMet (sCl cRoot) cRoot = true ∧ (match collPlaces { sCl cRoot with tlb := [] } cRoot (cRoot.q.src + cRoot.srcOff 0) (cRoot.q.len 0) false with
    | (s1, .fault _) => decide (s1.colls = (sCl cRoot).colls) && !s1.prqEnabled (s1.funcOf 0) | _ => false) = true := by decide +kernel

def writeMet (s : State) (c : Coll) (wr : Bool) (dests : List Nat) : Bool :=
  let x := c.step 0
  match collOperands s c 0 x with
  | (_, none) => false
  | (s0, some os) =>
    let v := reduced c os
    decide (x.need = 0) && c.reduces 0 && s.reduceRoom && s.collHeld.isEmpty && (c.outs 0 == (wr, dests, 0)) && os.all (fun o => o.1.length == v.1.length) && v.1.length == 16 && c.bar.isNone &&
      (match collPlaces s0 c (if wr then c.q.dst + c.dstOff 0 else c.q.stage) 16 true with
       | (s1, .ok ps) => ps.length == 16 && ps.all (placeSound s1) && decide (s1.colls = s.colls ∧ s1.collHeld = [] ∧ s1.prov = []) && (wr || !s1.isLost (c.members.getD (c.q.rankAt (c.plane 0) (dests.headD 0)) 0))
       | _ => false)

theorem witness_ReduceWrites : writeMet (sCl cLast) cLast true [] = true := by decide +kernel
theorem witness_ReduceSends : writeMet (sCl cMid) cMid false [0] = true := by decide +kernel

/-- The root waits for positions 1 and 2; the time-out of 2^16 clocks has passed; package 5 is lost. -/
def cLate : Coll := { cRoot with steps := [(0, { need := 2, own := some ([], false), since := some 0 })] }
theorem witness_StepTimeout : OpenStep { sCl cLate with cycle := 65536 * 1024 } 4 cLate 0 ∧ cLate.reduces 0 = true ∧ (cLate.inputs 0).2.filter (fun y => !(cLate.step 0).ins_.has y) = [1, 2] ∧ (cLate.step 0).since = some 0 ∧
    0 + (sCl cLate).reg 0x401020 % 2 ^ 16 * 65536 ≤ 65536 * 1024 ∧ { sCl cLate with lost := [(5, ())] }.isLost (cLate.members.getD (cLate.q.rankAt (cLate.plane 0) 1) 0) = true := by decide +kernel

/-- No collective of the group is in progress: its last one had SEQ 4, so that a chunk of 5 waits, and chunks of 4 and of 3 are stragglers; one that is held is sent again. -/
theorem witness_ChunkWaits : (sColl []).collOf 9 = none ∧ { sColl [] with collSeq := [(9, 4)] }.collSeq.find? (fun x => x.1 % 65536 == 9) = some (9, 4) ∧ 0 < ((5 : Word) - 4).toNat ∧ ((5 : Word) - 4).toNat < 2 ^ 31 ∧ ((4 : Word) - 4).toNat = 0 ∧
    2 ^ 31 ≤ ((3 : Word) - 4).toNat ∧ { sColl [] with collHeld := [{ pkg := 5, seq := 3, token := 0, ch := { src := 1, group := 9, seq := 5, crc := 0, idx := 0, phase := 0, plane := 0, bytes := [], psn := false, missing := [] }, acked := false }] }.collHeld.any (fun h => h.pkg == 5 && h.seq == 3 && !h.acked) = true := by decide

/-- A chunk for the root from rank 1, slot 0 of STAGE free. -/
theorem witness_ChunkTaken : (sCl cRoot).collOf 9 = some cRoot ∧ (cRoot.step 0).done = false ∧ (cRoot.step 0).flushed = false ∧ cRoot.isStep 0 = true ∧ (cRoot.inputs 0).2.contains (cRoot.q.pos 0 1) = true ∧
    (cRoot.step 0).ins_.has (cRoot.q.pos 0 1) = false ∧ (0 : Nat) = cRoot.plane 0 ∧ (List.replicate 16 (3 : Byte)).length = cRoot.q.len 0 ∧ cRoot.reduces 0 = true ∧ cRoot.slotsUsed 0 = [] := by decide +kernel

theorem witness_ChunkStage : (match collPlaces { sCl cRoot with performed := [(1, .ack)], outbox := [.response 5 3 .ack] } cRoot cRoot.q.stage 16 true with
    | (s2, .ok ps) => ps.length == 16 && ps.all (placeSound s2) && decide (s2.colls = (sCl cRoot).colls ∧ s2.prov = [] ∧ s2.collHeld = [] ∧ s2.outbox = [.response 5 3 .ack]) | _ => false) = true := by decide +kernel

/-- The check of R324, for a request without an offset: whatever MACs are, the token of slot 1 passes. -/
theorem ingressGranted (s : State) (pkg ctx x z v : Nat) (tk : DWord) (off : Nat) (ht : tk.toNat = x + z * 2 ^ 32) (hz : tokenMac s.tokenKey x pkg ctx = BitVec.ofNat 32 z) (hi : ¬(x % 2 ^ 16 ≥ bits (s.reg 0x402008) 16 0))
    (hr : rangeEntry s (x % 2 ^ 16) = (s, some v)) (hl : x / 2 ^ 20 = 1) (hb : bit x 19 = true) (hv : bit v 4 = true) (hc : s.coarse = 0) (ho : ¬(off < bits v 43 12 * 4096 ∨ bits v 43 12 * 4096 + 4096 * bits v 90 64 < off + 9 * 2 ^ 20)) :
    ∃ y, ingressCheck s pkg ctx tk 3 (some off) (9 * 2 ^ 20) = (s, .ok y) := by
  have a1 : tk.toNat % 2 ^ 32 = x := by omega
  have a2 : tk.toNat / 2 ^ 32 = z := by omega
  have a3 : tk.toNat % 2 ^ 16 = x % 2 ^ 16 := by omega
  have a4 : bits tk.toNat 31 20 = 1 := by simp only [bits]; omega
  have a5 : bit tk.toNat 19 = true := by simp only [bit] at hb ⊢; rw [← hb]; congr 1; omega
  refine ⟨(bits v 166 128 + (off - bits v 43 12 * 4096), bits v 196 192), ?_⟩
  unfold ingressCheck
  simp only [a3, if_neg hi, hr, a1, a2, hz, a4, hc, a5, hv, if_neg ho]
  simp

theorem witness_ChunkChecked : ∃ y, ingressCheck (sCl cRoot) 5 0 (tokenOf (sCl cRoot) 5 0 1 15 1) 3 (some 0x10000) (9 * 2 ^ 20) = (sCl cRoot, .ok y) :=
  ingressGranted (sCl cRoot) 5 0 (1 + 15 * 2 ^ 16 + 1 * 2 ^ 20) _ (0x1F + 0xFFFF * 2 ^ 64) _ 0x10000 (tokenOf_toNat (sCl cRoot) 5 0 1 15 1 (by decide)) (by simp [tokenMac]) (by decide +kernel) (by decide +kernel)
    (by decide) (by decide) (by decide) (by decide +kernel) (by decide +kernel)

/-- A request for a slot that is not valid is refused. -/
theorem witness_ChunkRefused : (match ingressCheck (sCl cRoot) 5 0 0xF0002 3 none 0 with | (s1, .error e) => decide (e = 1 ∧ s1.colls = (sCl cRoot).colls ∧ s1.performed = []) | _ => false) = true := by decide +kernel

/-- With chunks missing the collective goes on; ended by a FAULT met with GONE. -/
def cEnd : Coll := { cRoot with ended := true, causes := 2 ^ 5 + 2 ^ 3 }
theorem witness_CollEnd : (∃ k ∈ cRoot.keys, (cRoot.step k).done = false) ∧ cEnd.ended = true ∧ cEnd.bar = none ∧ (sCl cEnd).pack? 0 0 = some pColl ∧ pColl.wg = cEnd.wg ∧ pColl.waitev = [] ∧ cEnd.causes % 2 = 0 ∧
    statusOf cEnd.causes = 5 ∧ statusOf 0 = 0 := by
  refine ⟨⟨0, by decide +kernel⟩, by decide +kernel⟩

/-! ### Launch queues, workgroups, contexts -/

/-- A record that may be launched: one workgroup of 32 lanes at ENTRY 0x4000, one granule, FBSIZE 128; DEPS as given. -/
def lrec (deps : Nat) : List Byte :=
  leBytes 128 (0x4000 + (1 + 2 ^ 16 + 2 ^ 32) * 2 ^ 64 + (32 + 2 ^ 11 + 2 ^ 22) * 2 ^ 128 + 32 * 2 ^ 192 + 2 ^ 265 + 128 * 2 ^ 352 + deps * 2 ^ 832)

def bytesOf (bs : List Byte) (pa : Nat) : FMap Byte := (bs.zipIdx.map (fun x => (pa + x.2, x.1))).filter (fun x => x.2 != 0)

/-- Queue 0 of context 0 is on, with one entry of a kind for the record at VA 0x10080; the page at 0x10000 is mapped for the engines. -/
def sRing (kind deps : Nat) (rec_ : List Byte) : State :=
  { cores := all160 {}, nextId := 9, regs := [(0x500000, BitVec.ofNat 64 (8 * 2 ^ 48 + 1)), (0x500008, 0x3FF00), (0x500010, 1), (0x600000, 1)],
    mem := bytesOf (leBytes 8 0x10080 ++ leBytes 8 kind) (8 * 2 ^ 48) ++ bytesOf rec_ (8 * 2 ^ 48 + 0x80),
    tlb := [{ where_ := 10, root := 0, va := 0x10000, pa := 8 * 2 ^ 48, size := 12, r := true, w := true, d := true }], releases := [{ uid := 5, vas := [0x10080], armed := decide (deps = 0) }] }

def ringMet (kind : Nat) (rec_ : List Byte) (node : Bool) (status : Nat) : Bool :=
  let s := sRing kind 1 rec_
  s.legal && decide (s.touch {} (8 * 2 ^ 48) 16 = s) && decide (rdNat s {} (8 * 2 ^ 48) 16 = 0x10080 + kind * 2 ^ 64 ∧ s.qFail.has 0 = false ∧ s.readerWaits 0 = false ∧ s.ctxReg 0 0 % 2 = 1) &&
    (match readRec s 0 0x10080 with
     | (s1, .ok x) => s1 == s && (match readLists s 0 x node with
        | (s2, .ok y) => s2 == s && decide (launchStatus s 0 0x10080 (.ring 0) node y = status) && (!node || (match depsPlaces s 0 0x10080 with
            | (s3, .ok ps) => s3 == s && ps.length == 4 && ps.all (placeSound s) && decide (s.devSlots y.r.queue < 64 ∧ y.r.queue < 64)
            | _ => false))
        | _ => false)
     | _ => false)

/-- A grid launch that is accepted, one that is rejected (no lanes), nodes with DEPS 1 (the last), 2 and 0. -/
theorem witness_RingEntries : ringMet 0 (lrec 0) false 0 = true ∧ ringMet 0 [] false 3 = true ∧ ringMet 1 (lrec 1) true 0 = true ∧ ringMet 1 (lrec 2) true 0 = true ∧ ringMet 1 (lrec 0) true 0 = true := by decide +kernel

/-- A node that waits for a slot of its queue, its DEPS already 0; a queue whose 64 slots are taken. -/
theorem witness_RingArmed : { sRing 1 0 (lrec 0) with ringArmed := [(0, ())] }.ringArmed.has 0 = true ∧ (sRing 1 1 []).ringArmed.has 0 = false ∧
    64 ≤ { sRing 1 1 [] with launches := (List.range 64).map (fun n => (n + 20, { uid := n + 20, devSlot := true })) }.devSlots 0 ∧ { sRing 1 1 [] with regs := [] }.ctxReg 0 0 % 2 = 0 := by decide +kernel

/-- The record cannot be read: FAULT once the request has failed, and a request that finds its queue off. -/
theorem witness_RingFault : (match readRec { sRing 0 1 [] with tlb := [] } 0 0x10080 with | (s1, .fault _) => decide (s1 = { sRing 0 1 [] with tlb := [] }) | _ => false) = true ∧ (sRing 0 1 []).prqEnabled 0 = false ∧
    { sRing 0 1 [] with qFail := [(0, ())] }.qFail.has 0 = true := by decide +kernel

/-- A tail 256 beyond the head is taken, one 257 beyond is not. -/
theorem witness_Tail : (256 + 512 - (sRing 0 1 []).reg 0x500018 % 512) % 512 ≤ 256 ∧ 256 < (257 + 512 - (sRing 0 1 []).reg 0x500018 % 512) % 512 ∧ (sRing 0 1 []).reg 0x500010 % 512 ≠ (sRing 0 1 []).reg 0x500018 % 512 := by decide +kernel

theorem witness_Releases : (sRing 0 1 []).releases.find? (fun r => r.uid == 5) = some { uid := 5, vas := [0x10080] } ∧ (sRing 0 0 []).releases.find? (fun r => r.uid == 5) = some { uid := 5, vas := [0x10080], armed := true } ∧
    (sRing 0 1 []).readerWaits (64 + 5) = false ∧ (sRing 0 1 []).qFail.has (64 + 5) = false ∧ (sRing 0 1 []).releases.all (fun r => r.uid != 6) = true := by decide +kernel

/-- A launch of two tiles with the matrix unit, signalling NaNs and 30 of 32 lanes, that can be placed. -/
def aLaunch : Launch :=
  { uid := 1, seq := some 7, r := { loadRec with spad := 20, ntiles := 2, mx := true, sninit := true, nlanes := 30, frame := 2 }, tiles := [(256, 512), (1024, 256)] }

def sPlace : State := { sRing 0 1 [] with launches := [(1, aLaunch)], order := [(0, [1])], nextId := 9 }

theorem witness_Place : (sPlace.nextPlace).isSome = true ∧ sPlace.nextPlace.all (fun x => decide (sPlace.launches.find x.1.uid = some x.1 ∧ x.1.tiles.length = x.1.r.ntiles ∧ x.1.r.lx * x.1.r.ly * x.1.r.lz % 32 = 0 ∧ x.2.2.slots.Nodup ∧ x.2.1 < 160 ∧
      (∀ y ∈ x.2.2.slots, y < 48) ∧ (∀ y ∈ x.2.2.slots, sPlace.pack? x.2.1 y = none))) = true ∧ sPlace.legal = true ∧ (sRing 0 1 []).nextPlace = none := by decide +kernel

theorem witness_StartsAs : ∃ l, l < 32 ∧ ∃ y, StartsAs aLaunch.r 0 0 l y ∧ y.st = .active := ⟨29, by decide, _, rfl, by decide +kernel⟩

/-- Its only workgroup, its lanes all exited, is on core 0. -/
def sDone : State :=
  { sPlace with packs := [(0, { wg := 2, lanes := (List.range 32).map (fun _ => { st := .exited }) })], wgs := [(2, { uid := 1, core := 0, slots := [0], way := 0, ways := 2, tile0 := 0 })], launches := [(1, { aLaunch with next := 1 })],
                cores := all160 { tiles := [(0, { size := 2, off := 1 }), (1, { st := .ready, size := 1, off := 4 })] } }

theorem witness_Finish : sDone.legal = true ∧ sDone.wgs.find? (fun w => w.2.uid == 1 && w.2.idx == 0 && !w.2.done) = some (2, { uid := 1, core := 0, slots := [0], way := 0, ways := 2, tile0 := 0 }) ∧ sDone.wgFinished 2 = true ∧
    sDone.qOrder aLaunch.queue = [1] ∧ aLaunch.r.clm1 = 0 ∧ aLaunch.r.progva = 0 ∧ aLaunch.ended = false ∧ ∀ x ∈ sDone.packs, x.2.bars = [] := by decide +kernel

/-- Every workgroup reported, and a DONE word stored at 0x10100; a node to be discarded, on its first and on its last try. -/
def lRan : Launch := { aLaunch with next := 1, reported := 1, finished := [0], r := { aLaunch.r with doneva := 0x10100 } }

theorem witness_Complete : lRan.reported = lRan.r.wgs ∧ lRan.wrote = false ∧ lRan.r.replay = false ∧ (let s : State := { sPlace with launches := [(1, lRan)] }
    let clean : State := s.l1.foldl (fun (v : State) x => v.wbLine (x.1 / 2 ^ 46) (x.1 % 2 ^ 46)) s
    let r : State × Bool := ctlWrite 10 0 false false 0x10100 (leBytes 8 (0 + 0 * 2 ^ 8 + 7 * 2 ^ 32)) clean
    r.2 && decide (r.1.launches = s.launches ∧ r.1.regs = s.regs ∧ r.1.order = s.order ∧ r.1.packs = s.packs ∧ r.1.releases = s.releases)) = true := by decide +kernel

theorem witness_CompleteWaits : { sPlace with order := [(0, [3, 1])], launches := [(1, { lRan with wrote := true })] }.qOrder 0 = 3 :: [1] ∧ aLaunch.seq.isSome = true := by decide +kernel

theorem witness_Discard : { sPlace with launches := [(1, { aLaunch with rstate := 2, retries := 2 }), (2, { aLaunch with uid := 2, rstate := 2, retries := 3 })] }.launches.find 2 = some { aLaunch with uid := 2, rstate := 2, retries := 3 } := by
  decide +kernel

/-- Contexts: IDLE and enabled; RUNNING; SAVING with a command under way and no pack left; SAVED; DEAD. -/
def sCtx (st cmd : Nat) : State := { sDone with regs := [(0x600000, 1), (0x600068, BitVec.ofNat 64 cmd), (0x600070, BitVec.ofNat 64 st)] }

theorem witness_Contexts : (∀ st, st < 6 → (sCtx st 0).legal = true ∧ (sCtx st 0).reg 0x600070 % 8 = st ∧ (sCtx st 0).reg 0x600068 < 2 ^ 63) ∧ (sCtx 2 (2 ^ 63 + 1)).reg 0x600068 = 2 ^ 63 + 1 ∧ (sCtx 4 (2 ^ 63 + 2)).reg 0x600068 % 4 = 2 := by decide +kernel

def sNoPack (st cmd : Nat) : State := { sCtx st cmd with packs := [], wgs := [] }

/-- With no workgroup left the save is complete at once, and a restore has nothing to bring back. -/
theorem witness_SaveNothing : (let s := (sNoPack 2 (2 ^ 63 + 1)).preemptTraps 0
    s.wgs.isEmpty && (spillPacks [] s).2 && (saveAll [] (spillPacks [] s).1).2) = true ∧ (sNoPack 3 0).saved = [] ∧ (sNoPack 3 0).wgs = [] := by decide +kernel

/-- A workgroup that has nothing to save but itself; and the same, saved. -/
def wEmpty : Wg := { uid := 1, core := 0 }
def sSaving : State := { sNoPack 2 (2 ^ 63 + 1) with wgs := [(2, wEmpty)], launches := [(1, { uid := 1 })] }
def sSaved : State := { sNoPack 4 (2 ^ 63 + 2) with saved := [(2, { wg := wEmpty })], launches := [(1, { uid := 1 })] }

theorem witness_Save : (let s0 := sSaving.preemptTraps 0
    let ids := (s0.wgs.filter (fun w => w.2.ctx == 0)).map Prod.fst
    ids == [2] && (spillPacks (ids.flatMap (fun j => (s0.wg j).slots.map (fun sl => ((s0.wg j).core, sl)))) s0).2 && (saveAll ids (spillPacks [] s0).1).2) = true := by decide +kernel

theorem witness_Restore : sSaved.saved.find? (fun v => v.2.wg.ctx == 0 && sSaved.canRestore v.2) = some (2, { wg := wEmpty }) ∧ (sSaved.restoreWg 2 { wg := wEmpty }).2 = true := by decide +kernel

/-! ### Keys, power, mailbox, registers -/

theorem witness_Keys : paOk (8 * 2 ^ 48) = true ∧ paClass (8 * 2 ^ 48) = 8 ∧ sRange.homeLost (8 * 2 ^ 48) = false ∧ SoundRun sRange {} (8 * 2 ^ 48) 128 ∧ sRange.l1 = [] ∧ 8 * 2 ^ 48 / 2 ^ 7 % 2 ^ 45 * 2 ^ 7 = 8 * 2 ^ 48 ∧
    8 * 2 ^ 48 / 2 ^ 12 % 2 ^ 40 * 4096 = 8 * 2 ^ 48 ∧ paClass 0 ≠ 8 := by decide +kernel

/-- Rested cores at each depth, for LATTOL 50, 8000 and 200000 ns; the package in use and in bring-up. -/
def sRest (ns : Nat) : State := { cores := (List.range 160).map (fun c => (c, { power := if ns < 200000 then 0 else 2 })), boot := { stage := 6 }, cycle := 2 ^ 20, regs := [(0x800000, BitVec.ofNat 64 ns)] }

theorem witness_Power : (sRest 50).legal = true ∧ Rested (sRest 50) 0 ∧ deepest (tolerance (sRest 49)) = 0 ∧ deepest (tolerance (sRest 50)) = 1 ∧ deepest (tolerance (sRest 8000)) = 2 ∧ deepest (tolerance (sRest 200000)) = 3 ∧
    (sRest 200000).dieIdle.getD 1 0 + 2 ^ 20 ≤ (sRest 200000).cycle ∧ (sRest 200000).diePower.getD 1 0 = 0 ∧ (∀ j, j < 80 → ((sRest 200000).core (80 + j)).power = 2) ∧ ¬Rested s0 0 := by decide +kernel

/-- A line in the L1 of a core that goes to sleep. -/
theorem witness_SleepingLine : { sRest 8000 with l1 := [(l1Key 3 5, { way := 2, home := [(1, 7)] })] }.l1.find (3 * 2 ^ 46 + 5) = some { way := 2, home := [(1, 7)] } ∧ { sRest 8000 with l1 := [(l1Key 3 5, { way := 2, home := [(1, 7)] })] }.legal = true := by
  decide +kernel

theorem witness_BringUp : (∀ n, n < 6 → ({ boot := { stage := n } } : State).boot.failed = false) ∧ ({ boot := { failed := true } } : State).boot.failed = true := by decide

/-- The mailbox page of core 0 at 8 * 2^48 holds HALT of slot 0 with SEQ 5. -/
def sMbx (p : Pack) : State := { st p with cores := all160 { mbxSeq := some 4 }, regs := [(0x830000, BitVec.ofNat 64 (8 * 2 ^ 48 + 1))], mem := [(8 * 2 ^ 48 + 4, 5), (8 * 2 ^ 48 + 8, 1)] }

theorem witness_Mailbox : (sMbx p0).legal = true ∧ (sMbx p0).reg 0x830000 % 2 = 1 ∧ SoundRun (sMbx p0) {} (8 * 2 ^ 48) 128 ∧ (sMbx p0).l1 = [] ∧ rdNat (sMbx p0) {} (8 * 2 ^ 48 + 4) 4 = 5 ∧ rdNat (sMbx p0) {} (8 * 2 ^ 48 + 8) 8 = 1 ∧
    ((sMbx p0).core 0).mbxRing = 0 ∧ ((sMbx p0).core 0).mbxStep = none ∧ ((sMbx p0).core 0).mbxSeq = some 4 ∧ (sMbx p0).pack? 0 0 = some p0 ∧ (sMbx p0).pack? 0 47 = none ∧ ¬Held p0 := by decide +kernel

/-- A parked pack that can be stepped, read and written; one that is parked with no lane that could issue. -/
theorem witness_MailboxHeld : Held pPark ∧ pPark.canUnpark = false ∧ pPark.svc = none ∧ pPark.group.isSome = true ∧ pPark.handler = none ∧ (itemOf (sMbx pPark) pPark 31 31 1 0).isSome = true ∧
    Sel (BitVec.ofNat 64 (31 * 2 ^ 8 + 31 * 2 ^ 16 + 2 ^ 24)).toNat 0 31 31 1 0 ∧ Sel (BitVec.ofNat 64 (15 * 2 ^ 24)).toNat 0 0 0 15 0 := by decide +kernel

theorem witness_MailboxIdle : Held { pPark with lanes := [] } ∧ ({ pPark with lanes := [] } : Pack).canUnpark = false ∧ ({ pPark with lanes := [] } : Pack).group = none := by decide +kernel

theorem witness_Registers : (0x401000, 2 ^ 32 - 1) ∈ plainRegs ∧ (0x831000 - 0x1000 + 8 * 159, 2 ^ 52 - 2 ^ 12 + 1) ∈ plainRegs ∧ (0x401010, 2 ^ 32 - 1) ∈ clearRegs ∧ (0x60, 2 ^ 64 - 1) ∈ descRegs ∧
    (sCtx 0 0).reg 0x600070 % 8 = 0 ∧ (sCtx 1 0).reg 0x600070 % 8 = 1 ∧ (sRing 0 1 []).reg 0x500000 % 2 = 1 ∧ (sRing 0 1 []).reg 0x500040 % 2 = 0 ∧ (sCtx 0 0).reg 0x100008 < 2 ^ 63 := by decide +kernel

theorem witness_ScratchpadWrite : (let s := { s0 with cores := [(0, { split := 1 })] }
    decide (16376 + 8 ≤ (s.core 0).split * 16384 ∧ s.prov = []) && (List.range 8).all (fun j => placeSound s (.spad 0 (16376 + j)) && placeCalm s (.spad 0 (16376 + j)))) = true := by decide +kernel

/-! ### The step -/

/-- A loaded program whose next unit is NOP. -/
def sNop : State := State.withFetchWord State.reset 32 0x02000000

theorem witness_Legal : State.reset.legal = true ∧ (match step State.reset with | .next _ => true | _ => false) = true := by decide +kernel

theorem witness_StepIssues : sNop.agenda = [] ∧ (let s0 := { sNop with ownSteps := sNop.ownSteps + 1 }
    s0.nextEvent.isNone && s0.mbxDue.isNone && decide (6 ≤ sNop.boot.stage ∧ s0.nextIssue = some (0, 0) ∧ s0.breakHit 0 0 = none) && (s0.pack? 0 0).any (fun p => !p.canUnpark && decide (p.handler = none) &&
      p.group.any (fun g => decide (g.key.2 = 0 ∧ g.key.1 % 4 = 0 ∧ (p.frames.getD g.depth {}).st = .resident ∧ g.depth < p.frames.length ∧ failedFetch p g.ig = 0) &&
        (match fetchUnit 0 p.ctx (s0.wg p.wg).uid g.key.1 4 [] s0 with | (_, .ok ws) => decide (decode ws = .ok .nop) | _ => false)))) = true := by decide +kernel

/-- Words that are no instruction; a fetch that faults; an lpc that is no multiple of 4; a microprogram. -/
theorem witness_StepTraps : (let s0 := { State.withFetchWord State.reset 32 0 with ownSteps := 1 }
    (s0.pack? 0 0).any (fun p => p.group.any (fun g => (match fetchUnit 0 p.ctx (s0.wg p.wg).uid g.key.1 4 [] s0 with | (_, .ok ws) => decide (decode ws = .error .unassigned) | _ => false) &&
      (match fetchUnit 0 p.ctx (s0.wg p.wg).uid g.key.1 4 [] { s0 with regs := [] } with | (_, .fault _) => true | _ => false)))) = true := by decide +kernel

theorem witness_StepMicro : unitInstr (some 0x1000) ([0x02000000].drop 0) = some .nop ∧ ({ p0 with lanes := (List.range 32).map (fun _ => { st := .active, pc := 0x1000, k := some 0 }) } : Pack).group.any (fun g => decide (g.key.2 = 1)) = true ∧
    ({ p0 with lanes := (List.range 32).map (fun _ => { st := .active, pc := 0x1002 }) } : Pack).group.any (fun g => decide (g.key.1 % 4 = 2)) = true := by decide +kernel

/-- An input waits; an event is due; nothing can issue. -/
theorem witness_StepOther : ({ State.reset with agenda := [.packageReset] } : State).agenda = [.packageReset] ∧ State.reset.boot.stage < 6 ∧ State.reset.agenda = [] ∧ ({ State.reset with ownSteps := 1 } : State).nextEvent.isNone = true := by
  decide +kernel

/-! ### Harts -/

/-- The hart of core 3 runs at the first control home, with the word given; x5 is 7. -/
def sHart (priv w : Nat) : State :=
  { cores := all160 { split := 1 }, mem := bytesOf (leBytes 4 w) (8 * 2 ^ 48), harts := [(3, { on := true, pc := BitVec.ofNat 64 (8 * 2 ^ 48), priv := priv, x := (List.range 32).map (fun r => if r = 5 then 7 else 0), csr := [(0x305, 0x4000), (0x341, 0x5000), (0x3A0, 0x1F), (0x3B0, 2 ^ 54 - 1)] })] }

/-- In M, S and U mode, one PMP entry allowing all. -/
theorem witness_Harts : ∀ p ∈ [3, 1, 0], ∀ w ∈ [rvI 0x13 0 6 5 (-1), 0x73, 0x30200073, 0x73 + 6 * 2 ^ 7 + 2 ^ 12 + 0x7C3 * 2 ^ 20], (let s := sHart p w
    FMap.sorted s.harts && (s.hart 3).on && s.hartReady 3 && FMap.sorted (s.hart 3).csr && decide (s.rvIrq 3 = none) && (match rvFetch 3 s with | (t, .ok v) => decide (v = w ∧ t.hart 3 = s.hart 3) | _ => false)) = true := by decide +kernel

/-- R396: ADDI, ECALL from S mode, MRET; a compressed C.LI x6, -3. -/
theorem test_hart : (((sHart 3 (rvI 0x13 0 6 5 (-9))).hartStep 3).hart 3).reg 6 = 2 ^ 64 - 2 ∧ (((sHart 1 0x73).hartStep 3).hart 3).c 0x342 = 9 ∧ (((sHart 3 0x30200073).hartStep 3).hart 3).pc = 0x5000 ∧
    (((sHart 3 0x5375).hartStep 3).hart 3).reg 6 = 2 ^ 64 - 3 := by decide +kernel

/-- R399: a custom CSR from S mode is illegal. R397: the end of the scratchpad window, and the byte behind it. -/
theorem test_hartRefused : (((sHart 1 (0x73 + 6 * 2 ^ 7 + 2 ^ 12 + 0x7C3 * 2 ^ 20)).hartStep 3).hart 3).c 0x342 = 2 ∧ (rvStore 0 (12 * 2 ^ 48 + 2 ^ 31 + 16376) 8 258 (sHart 3 0)).map (fun t => (t.spadByte 0 16376, t.spadByte 0 16377)) = some (2, 1) ∧
    (rvStore 0 (12 * 2 ^ 48 + 2 ^ 31 + 16377) 8 258 (sHart 3 0)).isNone = true ∧ (∀ j, j < 8 → placeSound (sHart 3 0) (.spad 0 (16376 + j)) = true ∧ placeCalm (sHart 3 0) (.spad 0 (16376 + j)) = true) := by decide +kernel

/-- The turn of the hart, before a pack's; a fetch whose request failed. -/
theorem witness_HartTurn : (sHart 3 0x13).hartTurn = some 3 ∧ sNop.hartTurn = none ∧ failedFetch { p0 with lanes := (List.range 32).map (fun _ => { st := .active, released := true, failx := some { kind := 3 } }) } 1 = 1 := by decide +kernel

/-- A word at an address whose translation is there, its line in the core's L1. -/
def sFetch : State := { sNop with tlb := [{ va := 0x10000, pa := 8 * 2 ^ 48, size := 12, r := true, x := true }], mem := [(8 * 2 ^ 48 + 3, 2)], l1 := [(l1Key 0 (8 * 2 ^ 48 / 64), {})] }

theorem witness_WordAt : WordAt sFetch 0 0 1 0x10000 0x02000000 :=
  ⟨by decide, (List.range 4).map (fun k => .mem { core := some 0, node := 1 } (8 * 2 ^ 48 + k)), by decide +kernel⟩

theorem witness_UnitLen : unitLen [0x02000000] = 1 ∧ unitLen [wd 126 0, wd 127 0] = 3 := by decide +kernel

/-! ### Tests before the effect -/

theorem witness_Begins : Begins (.iadd none 5 6 7 1) s0 un p0 ∧ p0.blockers (usesOf (.iadd none 5 6 7 1)) un.ig un.depth = [] ∧ encode (.iadd none 5 6 7 1) ≠ [] ∧
    (∃ r ∈ (usesOf (.iadd none 8 6 7 1)).reads ++ (usesOf (.iadd none 8 6 7 1)).writes, 8 * (({ p0 with frames := [{ size := 1 }] } : Pack).frameAt un.depth).size ≤ r) := by
  refine ⟨by decide +kernel, by decide +kernel, by decide +kernel, 8, by decide +kernel⟩

theorem witness_Matrix : Begins (.accz 3 0) s0 un p0 ∧ (instrUses (.accz 3 0)).mx = true ∧ (s0.core 0).mxOwner ≠ some p0.wg := by decide +kernel

/-- An instruction in flight writes v6; lane 0 was released with a failed request; all lanes are helpers. -/
def pFlight : Pack := { p0 with toks := [{ id := 7, kind := 0, wr := [6], lanes := 0xFFFFFFFF }] }
def pFailed : Pack := { p0 with lanes := (List.range 32).map (fun l => { st := .active, released := l == 0, failx := if l = 0 then some {} else none }) }
def pHelp : Pack := { p0 with lanes := (List.range 32).map (fun _ => { st := .helper }) }

theorem witness_Blocked : Begins (.iadd none 5 6 7 1) (st pFlight) un pFlight ∧ pFlight.blockers (usesOf (.iadd none 5 6 7 1)) un.ig un.depth ≠ [] := by decide +kernel
theorem witness_Released : Begins (.iadd none 5 6 7 1) (st pFailed) un pFailed ∧ (pFailed.lane 0).released = true ∧ (pFailed.lane 0).failx.isSome = true := by decide +kernel
theorem witness_Helpers : (instrUses (.stx none 5 6 0 { hi := none, lo := 0 } 0)).helper = false ∧ (∀ l, l < 32 → un.ig.getLsbD l = true → (pHelp.lane l).st = .helper) := by decide +kernel

/-! ### Checks and errors of the hardware -/

/-- R264, R386, R416: lane 3's element fails in pipe 5 at position 3: it is not written, SHADOW names pipe, position, operands 4 and 3 (f32 words of v4 and v5) and key; FAIL and POSMASK count. -/
theorem test_shadow : (match exec (.fadd none 10 4 5 0) { s0 with shadowErr := [(3, { unit := 5, key := 0x7F })] } with
    | .next t => decide (((t.pack 0 0).frameAt 0).cell 10 3 = {}) && decide (((t.pack 0 0).frameAt 0).cell 10 2 ≠ {}) && (t.pack 0 0).pending.any (fun x => x.code == 8 && x.lanes == 8 &&
        x.info.take 12 == [5, 3, 0, 0, 4, 0, 0, 0, 3, 0, 0, 0] && (x.info.drop 20).take 2 == [0x7F, 0]) && decide (t.reg (0x701000 + 8 * 5) = 1 + 8 * 2 ^ 48) && t.shadowErr.isEmpty
    | _ => false) = true := by decide +kernel

/-- R416: the same lane, executed again, passes: REPASS of pipe 5. -/
theorem test_repass : (match exec (.fadd none 10 4 5 0) (st { p0 with lanes := (List.range 32).map (fun l => { st := .active, released := l == 3, shadow := if l = 3 then some 5 else none }) }) with
    | .next t => decide (t.reg (0x701000 + 8 * 5) = 2 ^ 32) && decide (((t.pack 0 0).lane 3).shadow = none)
    | _ => false) = true := by decide +kernel

/-- R413, R414: an error of a line of HBM, of a register lane, a corrected one of the scratchpad. -/
theorem test_errors : (let t := s0.meetError (.line false (2 ^ 51 + 70) 3)
    t.memPsn.has ((2 ^ 51 + 64) / 64) && decide (t.reg 0x700000 = 2 ^ 32) && decide (t.reg 0x700008 = 2 ^ 51 + 64 + 3 * 2 ^ 52 + 2 ^ 63)) = true ∧
    (((s0.meetError (.reg 0 0 0 4 7)).pack 0 0).frameAt 0).cell 4 7 = { val := 8, psn := true } ∧ (s0.meetError (.corrected 3)).reg 0x700030 = 1 := by decide +kernel

end Sys2Proof.Tests
end

section
namespace Sys2Proof.Machine
open Sys2Proof

set_option Elab.async false

/-! ## Sparse lists: what an update and a filter leave -/

theorem FMap.mem_upd {α : Type} {m : FMap α} {n : Nat} {f : α → α} {x : Nat × α} (h : x ∈ FMap.upd m n f) :
    x ∈ m ∨ ∃ y ∈ m, x = (y.1, f y.2) := by
  induction m with
  | nil => simp [FMap.upd] at h
  | cons y r ih =>
    obtain ⟨k, v⟩ := y
    simp only [FMap.upd] at h
    split at h
    · rcases List.mem_cons.mp h with rfl | h
      · exact .inr ⟨(k, v), by simp⟩
      · exact .inl (List.mem_cons_of_mem _ h)
    · rcases List.mem_cons.mp h with rfl | h
      · exact .inl (by simp)
      · rcases ih h with h | ⟨y, hy, e⟩
        · exact .inl (List.mem_cons_of_mem _ h)
        · exact .inr ⟨y, List.mem_cons_of_mem _ hy, e⟩

/-- Being in order is a fact about the keys. -/
theorem FMap.sorted_iff_keys {α : Type} (m : FMap α) : FMap.sorted m = true ↔ (FMap.keys m).Pairwise (· < ·) := by
  induction m with
  | nil => simp [FMap.sorted, FMap.keys]
  | cons y r ih =>
    obtain ⟨k, v⟩ := y
    rw [FMap.sorted_cons, ih]
    simp only [FMap.keys, List.map_cons, List.pairwise_cons, List.mem_map, forall_exists_index, and_imp, forall_apply_eq_imp_iff₂]
    exact and_comm

theorem FMap.sorted_upd {α : Type} {m : FMap α} {n : Nat} {f : α → α} (h : FMap.sorted m = true) : FMap.sorted (FMap.upd m n f) = true := by
  rw [FMap.sorted_iff_keys, FMap.keys_upd]
  exact (FMap.sorted_iff_keys m).mp h

/-! ## Legal states -/

/-- An accumulator tile's cells are listed in order. -/
structure TileLegal (t : AccTile) : Prop where
  cells : FMap.sorted t.cells = true

/-- The scratchpad and the argument store of a core have their canonical form, and its accumulator tiles list their cells in order. -/
structure CoreLegal (k : Core) : Prop where
  spad : Memory.wf k.spad = true
  args : Memory.wf k.args = true
  acc : ∀ a ∈ k.acc, TileLegal a.2

/-- The bytes kept beside an L1 line are listed in order and lie in the line. -/
structure LineLegal (x : L1Line) : Prop where
  home : FMap.sorted x.home = true
  inLine : ∀ b ∈ x.home, b.1 < 64

/-- The parts of `State.legal`, each under its name. -/
structure Legal (s : State) : Prop where
  mem : Memory.wf s.mem = true
  mirror : Memory.wf s.mirror = true
  chip : Memory.wf s.chip = true
  cores : ∀ k ∈ s.cores, CoreLegal k.2
  l1 : FMap.sorted s.l1 = true
  lines : ∀ x ∈ s.l1, LineLegal x.2
  memPsn : FMap.sorted s.memPsn = true
  chipPsn : FMap.sorted s.chipPsn = true
  regs : FMap.sorted s.regs = true
  keys : s.cores.keys = List.range 160

theorem coreLegal_iff (k : Core) : CoreLegal k ↔ (Memory.wf k.spad && Memory.wf k.args && k.acc.all (fun a => FMap.sorted a.2.cells)) = true := by
  simp only [Bool.and_eq_true, List.all_eq_true]
  exact ⟨fun h => ⟨⟨h.spad, h.args⟩, fun a ha => (h.acc a ha).cells⟩, fun ⟨⟨h1, h2⟩, h3⟩ => ⟨h1, h2, fun a ha => ⟨h3 a ha⟩⟩⟩

theorem lineLegal_iff (x : L1Line) : LineLegal x ↔ (FMap.sorted x.home && x.home.all (fun b => decide (b.1 < 64))) = true := by
  simp only [Bool.and_eq_true, List.all_eq_true, decide_eq_true_eq]
  exact ⟨fun h => ⟨h.home, h.inLine⟩, fun ⟨h1, h2⟩ => ⟨h1, h2⟩⟩

theorem legal_iff (s : State) : s.legal = true ↔ Legal s := by
  have hc : (∀ k ∈ s.cores, CoreLegal k.2) ↔ s.cores.all (fun k => Memory.wf k.2.spad && Memory.wf k.2.args && k.2.acc.all (fun a => FMap.sorted a.2.cells)) = true := by
    simp only [coreLegal_iff, List.all_eq_true]
  have hl : (∀ x ∈ s.l1, LineLegal x.2) ↔ s.l1.all (fun x => FMap.sorted x.2.home && x.2.home.all (fun b => decide (b.1 < 64))) = true := by
    simp only [lineLegal_iff, List.all_eq_true]
  unfold State.legal
  rw [Bool.and_eq_true, Bool.and_eq_true, Bool.and_eq_true, Bool.and_eq_true, Bool.and_eq_true, Bool.and_eq_true, Bool.and_eq_true, Bool.and_eq_true,
    Bool.and_eq_true, decide_eq_true_eq, ← hc, ← hl]
  constructor
  · rintro ⟨⟨⟨⟨⟨⟨⟨⟨⟨h1, h2⟩, h3⟩, h4⟩, h5⟩, h6⟩, h7⟩, h8⟩, h9⟩, h10⟩
    exact ⟨h1, h2, h3, h4, h5, h6, h7, h8, h9, h10⟩
  · rintro ⟨h1, h2, h3, h4, h5, h6, h7, h8, h9, h10⟩
    exact ⟨⟨⟨⟨⟨⟨⟨⟨⟨h1, h2⟩, h3⟩, h4⟩, h5⟩, h6⟩, h7⟩, h8⟩, h9⟩, h10⟩

/-- A change of anything that legality is not about. -/
theorem Legal.upd {s t : State} (h : Legal s)
    (e : (t.mem, t.mirror, t.chip, t.cores, t.l1, t.memPsn, t.chipPsn, t.regs) = (s.mem, s.mirror, s.chip, s.cores, s.l1, s.memPsn, s.chipPsn, s.regs) := by rfl) :
    Legal t := by
  simp only [Prod.mk.injEq] at e
  obtain ⟨h1, h2, h3, h4, h5, h6, h7, h8⟩ := e
  exact ⟨h1 ▸ h.mem, h2 ▸ h.mirror, h3 ▸ h.chip, h4 ▸ h.cores, h5 ▸ h.l1, h5 ▸ h.lines, h6 ▸ h.memPsn, h7 ▸ h.chipPsn, h8 ▸ h.regs, h4 ▸ h.keys⟩

theorem Legal.cond {c : Prop} [Decidable c] {s t : State} (h : Legal s) (h' : Legal t) : Legal (if c then s else t) := by split <;> assumption

theorem Legal.foldl {α : Type} {xs : List α} {f : State → α → State} {s : State} (h : Legal s) (hf : ∀ t x, Legal t → Legal (f t x)) :
    Legal (xs.foldl f s) := by
  induction xs generalizing s with
  | nil => exact h
  | cons x xs ih => exact ih (hf s x h)

theorem Legal.condRes {c : Prop} [Decidable c] {a b : Res} (h : Legal a.s) (h' : Legal b.s) : Legal (if c then a else b).s := by split <;> assumption

theorem Legal.condFst {α : Type} {c : Prop} [Decidable c] {a b : State × α} (h : Legal a.1) (h' : Legal b.1) : Legal (if c then a else b).1 := by
  split <;> assumption

theorem Legal.foldlFst {α β : Type} {xs : List α} {f : State × β → α → State × β} {p : State × β} (h : Legal p.1)
    (hf : ∀ q x, Legal q.1 → Legal (f q x).1) : Legal (xs.foldl f p).1 := by
  induction xs generalizing p with
  | nil => exact h
  | cons x xs ih => exact ih (hf p x h)

/-- The state of a pair, when the pair is known. -/
theorem Legal.fst {α : Type} {s : State} {a : α} {p : State × α} (e : p = (s, a)) (h : Legal p.1) : Legal s := by
  subst e; exact h

theorem Legal.pair {α : Type} {s : State} {a : α} (h : Legal s) : Legal (s, a).1 := h

theorem Legal.res {s : State} {ts : List LTrap} {fs : List (Nat × FaultImg)} {stay : Word} {stall : Option Nat} {kind : Nat} {late : List LTrap}
    {tile : Option (Nat × Bool)} {pend : Word} {tight : Bool} (h : Legal s) : Legal (Res.mk s ts fs stay stall kind late tile pend tight).s := h

theorem CoreLegal.upd {k j : Core} (h : CoreLegal k) (e : (j.spad, j.args, j.acc) = (k.spad, k.args, k.acc) := by rfl) : CoreLegal j := by
  simp only [Prod.mk.injEq] at e
  obtain ⟨h1, h2, h3⟩ := e
  exact ⟨h1 ▸ h.spad, h2 ▸ h.args, h3 ▸ h.acc⟩

theorem CoreLegal.cond {c : Prop} [Decidable c] {s t : Core} (h : CoreLegal s) (h' : CoreLegal t) : CoreLegal (if c then s else t) := by split <;> assumption

theorem Legal.snd {α : Type} {s : State} {a : α} {p : α × State} (e : p = (a, s)) (h : Legal p.2) : Legal s := by
  subst e; exact h

theorem Legal.ofSome {s t : State} (e : some s = some t) (h : Legal s) : Legal t := Option.some.inj e ▸ h

/-- What goes on ends legal. -/
def OutLegal (o : Out) : Prop := ∀ t, o = .next t → Legal t

theorem Legal.next {s : State} (h : Legal s) : OutLegal (.next s) := fun _ e => Host.Outcome.next.inj e ▸ h
theorem OutLegal.fault (r : Fault) : OutLegal (.fault r) := fun _ e => by cases e
theorem OutLegal.cond {c : Prop} [Decidable c] {s t : Out} (h : OutLegal s) (h' : OutLegal t) : OutLegal (if c then s else t) := by split <;> assumption

/-- What is due, if anything is, ends legal. -/
def DueLegal (d : Option Out) : Prop := ∀ o, d = some o → OutLegal o

theorem DueLegal.none : DueLegal none := fun _ e => by cases e
theorem DueLegal.some {o : Out} (h : OutLegal o) : DueLegal (some o) := fun _ e => Option.some.inj e ▸ h
theorem DueLegal.cond {c : Prop} [Decidable c] {d e : Option Out} (h : DueLegal d) (h' : DueLegal e) : DueLegal (if c then d else e) := by
  split <;> assumption

/-! ## The updates of the parts -/

theorem Legal.updCore {s : State} {c : Nat} {f : Core → Core} (h : Legal s) (hf : ∀ k, CoreLegal k → CoreLegal (f k)) : Legal (s.updCore c f) := by
  refine { h with cores := fun k hk => ?_, keys := (FMap.keys_upd _ _ _).trans h.keys }
  rcases FMap.mem_upd hk with hk | ⟨y, hy, rfl⟩
  · exact h.cores k hk
  · exact hf _ (h.cores y hy)

/-- The cores changed, and else only what legality is not about. -/
theorem Legal.withCores {s t : State} (h : Legal s) (hk : t.cores.keys = s.cores.keys) (hc : ∀ k ∈ t.cores, CoreLegal k.2)
    (e : (t.mem, t.mirror, t.chip, t.l1, t.memPsn, t.chipPsn, t.regs) = (s.mem, s.mirror, s.chip, s.l1, s.memPsn, s.chipPsn, s.regs) := by rfl) : Legal t := by
  simp only [Prod.mk.injEq] at e
  obtain ⟨h1, h2, h3, h5, h6, h7, h8⟩ := e
  exact ⟨h1 ▸ h.mem, h2 ▸ h.mirror, h3 ▸ h.chip, hc, h5 ▸ h.l1, h5 ▸ h.lines, h6 ▸ h.memPsn, h7 ▸ h.chipPsn, h8 ▸ h.regs, hk.trans h.keys⟩

theorem FMap.keys_map {α β : Type} {m : FMap α} {f : Nat × α → Nat × β} (hf : ∀ k, (f k).1 = k.1) : FMap.keys (m.map f) = FMap.keys m := by
  show (m.map f).map Prod.fst = m.map Prod.fst
  rw [List.map_map, show Prod.fst ∘ f = Prod.fst from funext hf]

theorem FMap.keys_tabulate {α : Type} {xs : List Nat} {f : Nat → α} : FMap.keys (xs.map fun c => (c, f c)) = xs := by
  show (xs.map fun c => (c, f c)).map Prod.fst = xs
  rw [List.map_map]
  exact List.map_id _

theorem CoreLegal.map {m : FMap Core} {f : Nat × Core → Nat × Core} (h : ∀ k ∈ m, CoreLegal k.2) (hf : ∀ k, CoreLegal k.2 → CoreLegal (f k).2) :
    ∀ k ∈ m.map f, CoreLegal k.2 := fun _ hk => by
  obtain ⟨y, hy, rfl⟩ := List.mem_map.mp hk
  exact hf y (h y hy)

theorem CoreLegal.empty : CoreLegal {} := ⟨rfl, rfl, fun _ h => by cases h⟩

theorem Legal.core {s : State} (h : Legal s) (c : Nat) : CoreLegal (s.core c) := by
  unfold State.core
  cases hk : s.cores.find c with
  | none => exact CoreLegal.empty
  | some k => exact h.cores _ (FMap.mem_of_find _ _ _ hk)

theorem Legal.insRegs {s : State} {o : Nat} {v : DWord} (h : Legal s) : Legal { s with regs := s.regs.ins o v } :=
  { h with regs := FMap.sorted_ins _ _ _ h.regs }

theorem Legal.setReg {s : State} {o v : Nat} (h : Legal s) : Legal (s.setReg o v) := by
  refine { h with regs := ?_ }
  show FMap.sorted (if _ then _ else _) = true
  split
  · exact FMap.sorted_del _ _ h.regs
  · exact FMap.sorted_ins _ _ _ h.regs

theorem Legal.countShadow {s : State} {c u p : Nat} (h : Legal s) : Legal (s.countShadow c u p) := h.insRegs
theorem Legal.countRepass {s : State} {c u : Nat} (h : Legal s) : Legal (s.countRepass c u) := h.insRegs

theorem Legal.setRaw {s : State} {pa : Nat} {b : Byte} (h : Legal s) : Legal (s.setRaw pa b) := by
  have hm : ∀ t, Legal t → Legal (if t.inMirror pa then t else { t with mem := setCanon t.mem pa b }) := fun t ht =>
    ht.cond { ht with mem := setCanon_wf _ _ _ ht.mem }
  exact hm _ (Legal.cond { h with mirror := setCanon_wf _ _ _ h.mirror } h)

theorem Legal.setLinePsn {s : State} {pa : Nat} {b : Bool} (h : Legal s) : Legal (s.setLinePsn pa b) := by
  refine { h with memPsn := ?_ }
  show FMap.sorted (if _ then _ else _) = true
  split
  · exact FMap.sorted_ins _ _ _ h.memPsn
  · exact FMap.sorted_del _ _ h.memPsn


/-! ## Fields that legality is not about -/

theorem Legal.pkgId {s : State} {x : Nat} (h : Legal s) : Legal { s with pkgId := x } := h.upd
theorem Legal.boot {s : State} {x : Boot} (h : Legal s) : Legal { s with boot := x } := h.upd
theorem Legal.unmirrored {s : State} {x : FMap Unit} (h : Legal s) : Legal { s with unmirrored := x } := h.upd
theorem Legal.mirrorPend {s : State} {x : List Nat} (h : Legal s) : Legal { s with mirrorPend := x } := h.upd
theorem Legal.tokenKey {s : State} {x : Nat} (h : Legal s) : Legal { s with tokenKey := x } := h.upd
theorem Legal.tlb {s : State} {x : List TlbEntry} (h : Legal s) : Legal { s with tlb := x } := h.upd
theorem Legal.prq {s : State} {x : List PrqWait} (h : Legal s) : Legal { s with prq := x } := h.upd
theorem Legal.prqHeld {s : State} {x : List PrqWait} (h : Legal s) : Legal { s with prqHeld := x } := h.upd
theorem Legal.recCache {s : State} {x : List ((Nat × Nat × Nat) × List Byte)} (h : Legal s) : Legal { s with recCache := x } := h.upd
theorem Legal.harts {s : State} {x : FMap Hart} (h : Legal s) : Legal { s with harts := x } := h.upd
theorem Legal.packs {s : State} {x : FMap Pack} (h : Legal s) : Legal { s with packs := x } := h.upd
theorem Legal.wgs {s : State} {x : FMap Wg} (h : Legal s) : Legal { s with wgs := x } := h.upd
theorem Legal.launches {s : State} {x : FMap Launch} (h : Legal s) : Legal { s with launches := x } := h.upd
theorem Legal.order {s : State} {x : FMap (List Nat)} (h : Legal s) : Legal { s with order := x } := h.upd
theorem Legal.releases {s : State} {x : List Release} (h : Legal s) : Legal { s with releases := x } := h.upd
theorem Legal.copies {s : State} {x : FMap Copy} (h : Legal s) : Legal { s with copies := x } := h.upd
theorem Legal.colls {s : State} {x : FMap Coll} (h : Legal s) : Legal { s with colls := x } := h.upd
theorem Legal.remotes {s : State} {x : FMap Remote} (h : Legal s) : Legal { s with remotes := x } := h.upd
theorem Legal.lost {s : State} {x : FMap Unit} (h : Legal s) : Legal { s with lost := x } := h.upd
theorem Legal.members {s : State} {x : FMap Unit} (h : Legal s) : Legal { s with members := x } := h.upd
theorem Legal.diePower {s : State} {x : List Nat} (h : Legal s) : Legal { s with diePower := x } := h.upd
theorem Legal.micro {s : State} {x : List Byte} (h : Legal s) : Legal { s with micro := x } := h.upd
theorem Legal.latent {s : State} {x : FMap Unit} (h : Legal s) : Legal { s with latent := x } := h.upd
theorem Legal.errors {s : State} {x : List HwError} (h : Legal s) : Legal { s with errors := x } := h.upd
theorem Legal.agenda {s : State} {x : List Instr} (h : Legal s) : Legal { s with agenda := x } := h.upd
theorem Legal.cur {s : State} {x : Option Cur} (h : Legal s) : Legal { s with cur := x } := h.upd
theorem Legal.ownSteps {s : State} {x : Nat} (h : Legal s) : Legal { s with ownSteps := x } := h.upd
theorem Legal.ownTurn {s : State} {x : Nat} (h : Legal s) : Legal { s with ownTurn := x } := h.upd

/-! ## The L1s -/

theorem LineLegal.empty {x : L1Line} (e : x.home = [] := by rfl) : LineLegal x := ⟨by rw [e]; rfl, by rw [e]; simp⟩

theorem LineLegal.upd {x y : L1Line} (h : LineLegal x) (e : y.home = x.home := by rfl) : LineLegal y := ⟨e ▸ h.home, e ▸ h.inLine⟩

theorem Legal.setL1 {s : State} {c line : Nat} {x : L1Line} (h : Legal s) (hx : LineLegal x) : Legal (s.setL1 c line x) := by
  refine { h with l1 := FMap.sorted_ins _ _ _ h.l1, lines := fun y hy => ?_ }
  rcases FMap.mem_ins _ _ _ _ hy with rfl | hy
  · exact hx
  · exact h.lines y hy

theorem Legal.delL1 {s : State} {n : Nat} (h : Legal s) : Legal { s with l1 := s.l1.del n } :=
  { h with l1 := FMap.sorted_del _ _ h.l1, lines := fun y hy => h.lines y (FMap.mem_del _ _ _ hy) }

theorem Legal.updL1 {s : State} {n : Nat} {f : L1Line → L1Line} (h : Legal s) (hf : ∀ x, LineLegal x → LineLegal (f x)) :
    Legal { s with l1 := s.l1.upd n f } := by
  refine { h with l1 := FMap.sorted_upd h.l1, lines := fun y hy => ?_ }
  rcases FMap.mem_upd hy with hy | ⟨z, hz, rfl⟩
  · exact h.lines y hy
  · exact hf _ (h.lines z hz)

/-! ## What each function leaves legal -/

/-! ### A unit and what ends it -/

theorem Legal.updPack {s : State} {c sl : Nat} {f : Pack → Pack} (h : Legal s) : Legal (s.updPack c sl f) := h.upd

theorem Legal.send {s : State} {m : OutMsg} (h : Legal s) : Legal (s.send m) := h.upd

theorem Legal.fresh {s : State} (h : Legal s) : Legal s.fresh.2 := h.upd

theorem Legal.draw {s : State} (h : Legal s) : Legal s.draw.2 := h.upd

theorem Legal.count {s : State} {c ev ctx n : Nat} (h : Legal s) : Legal (s.count c ev ctx n) :=
  (((h.updCore (fun _ h1 => h1.upd)).send).cond (h.updCore (fun _ h1 => h1.upd))).cond h

theorem Legal.raise {s : State} {c sl : Nat} {t : Trap} (h : Legal s) : Legal (s.raise c sl t) := h.updPack

theorem Legal.endCounts {c : Ctx} {s : State} (h : Legal s) : Legal (endCounts c s) := h.count.count.count.cond h.count.count

theorem Legal.endToken {c : Ctx} {us : Uses} {r : Res} {s : State} (h : Legal s) : Legal (endToken c us r s) := by
  unfold Machine.endToken
  split
  · exact h
  · exact h.fresh.updPack

theorem Legal.endTraps {c : Ctx} {ts : List LTrap} {s : State} (h : Legal s) : Legal (endTraps c ts s) := by
  unfold Machine.endTraps
  split
  · exact h
  · exact h.raise

theorem Legal.finish {c : Ctx} {us : Uses} {r : Res} (h : Legal r.s) : Legal (finish c us r) := by
  unfold Machine.finish
  split
  · exact h.updPack
  · exact (((h.updPack.updCore (fun _ h1 => h1.upd)).endCounts).endToken).endTraps

theorem Legal.resumed {c : Ctx} {id : Nat} {r : Res} (h : Legal r.s) : Legal (resumed c id r) := (h.updPack.updCore (fun _ h1 => h1.upd)).endTraps

theorem Legal.mkCtx {s : State} {u : Cur} {p : Pack} {us : Uses} {pfx : Option Pfx} {ig : Word} (h : Legal s) : Legal (mkCtx s u p us pfx ig).s := h

theorem Legal.resumeUnit {i : Instr} {us : Uses} {body : Ctx → Res} {s : State} {u : Cur} {p : Pack} {id : Nat} (h : Legal s)
    (hb : ∀ c, Legal c.s → Legal (body c).s) : Legal (resumeUnit i us body s u p id) := by
  unfold Machine.resumeUnit
  refine Legal.resumed ?_
  split
  · exact h
  · exact hb _ h

theorem Legal.runUnit {i : Instr} {us : Uses} {body : Ctx → Res} {s : State} (h : Legal s) (hb : ∀ c, Legal c.s → Legal (body c).s) :
    OutLegal (runUnit i us body s) := by
  unfold Machine.runUnit
  split
  · exact OutLegal.fault _
  · dsimp only
    split
    · exact (h.resumeUnit hb).next
    · refine h.updPack.updPack.next.cond (h.updPack.updPack.next.cond (Legal.finish ?_).next)
      exact h.updPack.condRes (h.updPack.condRes (h.updPack.condRes (hb _ (Legal.mkCtx h.updPack))))

theorem Legal.ctx_noteShadow {c : Ctx} {unit : Nat} {checked bad : List Nat} {s : State} (h : Legal s) : Legal (c.noteShadow unit checked bad s) := by
  unfold Ctx.noteShadow
  refine ((h.foldl (fun _ _ h1 => h1.countShadow.updPack)).foldl (fun _ _ h1 => h1.upd)).foldl ?_
  intro _ _ h1
  split
  · exact h1.countRepass.updPack.cond h1
  · exact h1

theorem Legal.vopCore {c : Ctx} {d : VReg} {n : Nat} {us : List VUse} {chk : Option (Nat × ShKind)} {f : Nat → LaneRes} (h : Legal c.s) :
    Legal (vopCore c d n us chk f).1 := by
  unfold Machine.vopCore
  dsimp only
  split
  · exact h.updPack
  · exact h.updPack.ctx_noteShadow

theorem Legal.vop {c : Ctx} {d : VReg} {n : Nat} {us : List VUse} {f : Nat → LaneRes} (h : Legal c.s) : Legal (vop c d n us f).s := h.vopCore

theorem Legal.vopF {c : Ctx} {d : VReg} {n : Nat} {us : List VUse} {unit : Nat} {k : ShKind} {long : Bool} {f : Nat → LaneRes} (h : Legal c.s) :
    Legal (vopF c d n us unit k long f).s :=
  h.vopCore.condRes h.vopCore

theorem Legal.mop {c : Ctx} {m : Nat} {us : List VUse} {f : Nat → Bool × Nat} (h : Legal c.s) : Legal (mop c m us f).s := h.updPack

theorem Legal.sop {c : Ctx} {d : Nat} {v : DWord} (h : Legal c.s) : Legal (sop c d v).s := h.updPack

theorem Legal.countUE {s : State} {v pa ctx : Nat} (h : Legal s) : Legal (s.countUE v pa ctx) := h.setReg.setReg.send

theorem Legal.countPort {s : State} {p code n : Nat} (h : Legal s) : Legal (s.countPort p code n) := h.foldl (fun _ _ h1 => h1.setReg.cond h1)

theorem Legal.countSlice {s : State} {h' code n : Nat} (h : Legal s) : Legal (s.countSlice h' code n) := h.foldl (fun _ _ h1 => h1.setReg.cond h1)

/-! ### Memory, the L1s and the scratchpad -/

theorem Legal.useDie {s : State} {line : Nat} (h : Legal s) : Legal (s.useDie line) := h.upd.cond h

theorem Legal.reachHome {s : State} {line : Nat} {offs : List Nat} (h : Legal s) : Legal (s.reachHome line offs) := (h.foldl (fun _ _ h1 => h1.upd)).cond h

theorem Legal.wbLine {s : State} {c line : Nat} (h : Legal s) : Legal (s.wbLine c line) := by
  unfold State.wbLine
  split
  · exact h
  · exact h.cond ((((h.setLinePsn.cond h).useDie).setL1 LineLegal.empty).reachHome)

theorem Legal.flushLine {s : State} {c line : Nat} (h : Legal s) : Legal (s.flushLine c line) := h.wbLine.delL1

theorem Legal.invLine {s : State} {c line : Nat} (h : Legal s) : Legal (s.invLine c line) := by
  unfold State.invLine
  split
  · exact h
  · rename_i x _
    have h1 := h.foldl (xs := x.home) (f := fun s b => s.setRaw (line * 64 + b.1) b.2) (fun _ _ h => h.setRaw)
    exact (h1.cond h1.setLinePsn).delL1

theorem Legal.shareLine {s : State} {c line : Nat} (h : Legal s) : Legal (s.shareLine c line) := h.wbLine.updL1 (fun _ hx => hx.upd)

theorem Legal.cleanCore {s : State} {c : Nat} (h : Legal s) : Legal (s.cleanCore c) := h.foldl (fun _ _ h1 => h1.wbLine)

theorem Legal.dropWays {s : State} {c w : Nat} (h : Legal s) : Legal (s.dropWays c w) := h.foldl (fun _ _ h1 => h1.flushLine)

theorem Legal.allocLine {s : State} {c line : Nat} (h : Legal s) : Legal (s.allocLine c line) := by
  unfold State.allocLine
  dsimp only
  refine h.cond ?_
  split
  · exact h.setL1 LineLegal.empty
  · exact (h.draw.foldl (fun _ _ h => h.flushLine)).setL1 LineLegal.empty

theorem Legal.dirCount {s : State} {q pa : Nat} (h : Legal s) : Legal (s.dirCount q pa) := h.upd.cond h

theorem Legal.noteReader {s : State} {a : Acc} {line : Nat} (h : Legal s) : Legal (s.noteReader a line) := by
  unfold State.noteReader
  split
  · exact h.upd
  · exact h

theorem Legal.askOwner {s : State} {a : Acc} {line : Nat} (h : Legal s) : Legal (s.askOwner a line) := by
  unfold State.askOwner
  split
  · exact h.dirCount
  · exact h

theorem Legal.readLine {s : State} {a : Acc} {line : Nat} (h : Legal s) : Legal (s.readLine a line) := by
  unfold State.readLine
  extract_lets +onlyGivenNames s1
  have h1 : Legal s1 := h.foldl (fun _ _ h1 => h1.cond h1.shareLine)
  clear_value s1
  extract_lets +onlyGivenNames s2
  have h2 : Legal s2 := h1.noteReader
  clear_value s2
  split
  · exact h2.cond h2.useDie.allocLine
  · exact h2.useDie

theorem Legal.ownLine {s : State} {a : Acc} {line : Nat} (h : Legal s) : Legal (s.ownLine a line) := by
  unfold State.ownLine
  refine h.cond ?_
  extract_lets s1 s2 s3
  have h1 : Legal s1 := h.useDie.askOwner
  have h3 : Legal s3 := (h1.foldl (fun _ _ h => h.cond h.flushLine)).upd
  split
  · exact h3.allocLine.updL1 (fun _ hx => hx.upd)
  · exact h3

theorem Legal.touch {s : State} {a : Acc} {pa n : Nat} (h : Legal s) : Legal (s.touch a pa n) :=
  h.foldl (fun _ _ h1 => h1.readLine.setLinePsn.countUE.latent.cond h1.readLine)

theorem Legal.dropProv {s : State} {uid : Nat} (h : Legal s) : Legal (s.dropProv uid) := h.upd

theorem Legal.commitNode {s : State} {uid : Nat} (h : Legal s) : Legal (s.commitNode uid) := h.upd.setReg.cond h

theorem Legal.beforeWrite {s : State} {a : Acc} {pa : Nat} (h : Legal s) : Legal (s.beforeWrite a pa) := by
  unfold State.beforeWrite
  extract_lets others s1
  clear_value others
  have h1 : Legal s1 := by
    unfold s1
    split
    · exact h
    · exact h.commitNode
  clear_value s1
  exact (h1.commitNode.cond h1).cond h1

theorem Legal.rekey {s : State} {a : Acc} {pa : Nat} {whole : Bool} (h : Legal s) : Legal (s.rekey a pa whole) := by
  have h1 : Legal ((s.holders (pa / 64)).foldl (fun s c => s.flushLine c (pa / 64)) s) := h.foldl fun _ _ h => h.flushLine
  exact h.cond (Legal.upd (h1.cond (h1.foldl fun _ _ h => h.setRaw)))

theorem Legal.noteProv {s : State} {a : Acc} {pa : Nat} (h : Legal s) : Legal (s.noteProv a pa) := h.upd.cond h

theorem Legal.dirtied {s : State} {a : Acc} {pa : Nat} (h : Legal s) : Legal { s with l1 := s.dirtied a pa } := by
  unfold State.dirtied
  split
  · refine h.updL1 (fun x hx => ?_)
    split
    · exact hx
    · refine ⟨FMap.sorted_ins _ _ _ hx.home, fun b hb => ?_⟩
      rcases FMap.mem_ins _ _ _ _ hb with rfl | hb
      · exact Nat.mod_lt _ (by decide)
      · exact hx.inLine b hb
  · exact h

theorem Legal.putByte {s : State} {a : Acc} {pa : Nat} {b : Byte} (h : Legal s) : Legal (s.putByte a pa b) :=
  { h.noteProv.setRaw with l1 := h.dirtied.l1, lines := h.dirtied.lines }

theorem Legal.breakResv {s : State} {line : Nat} (h : Legal s) : Legal (s.breakResv line) := h.upd

theorem Legal.prepWrite {s : State} {a : Acc} {pa n : Nat} (h : Legal s) : Legal (s.prepWrite a pa n) := h.touch.beforeWrite.rekey.ownLine.breakResv

theorem Legal.putBytes {s : State} {a : Acc} {pa : Nat} {bs : List Byte} (h : Legal s) : Legal (s.putBytes a pa bs) := h.foldl (fun _ _ h1 => h1.putByte)

theorem Legal.endWrite {s : State} {a : Acc} {pa n : Nat} {psn : Bool} (h : Legal s) : Legal (s.endWrite a pa n psn) :=
  (h.setLinePsn.cond h).cond ((h.setLinePsn.cond h).reachHome)

theorem Legal.writeRun {s : State} {a : Acc} {pa : Nat} {bs : List Byte} {psn : Bool} (h : Legal s) : Legal (s.writeRun a pa bs psn) := by
  unfold State.writeRun
  split
  · exact h
  · exact h.prepWrite.putBytes.endWrite

theorem Legal.writeBytes_go {a : Acc} {psn : Bool} {fuel : Nat} {s : State} {pa : Nat} {bs : List Byte} {n : Nat} (h : Legal s) :
    Legal (State.writeBytes.go a psn fuel s pa bs n) := by
  induction fuel generalizing s pa bs n with
  | zero => cases bs <;> exact h
  | succ f ih => cases bs with
    | nil => exact h
    | cons b bs => exact ih h.writeRun

theorem Legal.writeBytes {s : State} {a : Acc} {pa : Nat} {bs : List Byte} {psn : Bool} (h : Legal s) : Legal (s.writeBytes a pa bs psn) := h.writeBytes_go

theorem Legal.writeLine {s : State} {a : Acc} {pa : Nat} {bs : List Byte} {psn : Bool} (h : Legal s) : Legal (s.writeLine a pa bs psn) := by
  unfold State.writeLine
  split
  · exact h.writeRun.setLinePsn.updL1 (fun _ hx => hx.upd)
  · exact h.writeRun.setLinePsn

theorem Legal.spadTouch {s : State} {c off : Nat} (h : Legal s) : Legal (s.spadTouch c off) := (h.updCore (fun _ hk => hk.upd)).countUE.latent.cond h

theorem Legal.setSpad {s : State} {c off : Nat} {b : Byte} {psn : Bool} (h : Legal s) : Legal (s.setSpad c off b psn) :=
  h.updCore (fun _ hk => { hk with spad := setCanon_wf _ _ _ hk.spad })

theorem Legal.zeroSpad {s : State} {c off n : Nat} (h : Legal s) : Legal (s.zeroSpad c off n) :=
  h.latent.updCore (fun _ hk => { hk with spad := Memory.wf_filter _ _ hk.spad })

theorem Legal.postWg {s : State} {wg cls : Nat} (h : Legal s) : Legal (s.postWg wg cls) := h.upd

/-! ### Barrier objects -/

theorem Legal.setBar {s : State} {c off : Nat} {b : BarObj} (h : Legal s) : Legal (s.setBar c off b) := h.foldl (fun _ _ h1 => h1.setSpad)

theorem Legal.barTrapWaiters {s : State} {c off detail : Nat} (h : Legal s) : Legal (s.barTrapWaiters c off detail) := h.upd

theorem Legal.barRelease {s : State} {c off : Nat} {ph : Bool} (h : Legal s) : Legal (s.barRelease c off ph).1 := h.upd

theorem Legal.barComplete {s : State} {c off : Nat} (h : Legal s) : Legal (s.barComplete c off) := h.setBar.barRelease.setBar

theorem Legal.barOverrun {s : State} {c off x : Nat} {full : Bool} (h : Legal s) : Legal (s.barOverrun c off x full) := h.setBar.barTrapWaiters

theorem Legal.barEngine {s : State} {c off n : Nat} (h : Legal s) : Legal (s.barEngine c off n) :=
  h.setBar.cond (h.barOverrun.cond (h.barOverrun.cond (h.barOverrun.cond (h.setBar.barComplete.cond h.setBar))))

theorem Legal.setHeld {s : State} {c off : Nat} {ns : List Nat} (h : Legal s) : Legal (s.setHeld c off ns) := h.updCore (fun _ h1 => h1.upd)

theorem Legal.barDrainN {s : State} {c off n : Nat} (h : Legal s) : Legal (State.barDrainN c off n s) := by
  induction n generalizing s with
  | zero => exact h
  | succ n ih =>
    unfold State.barDrainN
    refine h.cond ?_
    split
    · exact h
    · exact ih h.setHeld.barEngine

theorem Legal.barDrain {s : State} {c off : Nat} (h : Legal s) : Legal (s.barDrain c off) := h.barDrainN

theorem Legal.barArriveEngine {s : State} {c off n : Nat} (h : Legal s) : Legal (s.barArriveEngine c off n) := h.setHeld.barDrain.cond h.barEngine.barDrain

theorem Legal.barStored {s : State} {c x : Nat} (h : Legal s) : Legal (s.barStored c x) := ((h.upd.cond h.upd.setBar).barDrain).cond h

theorem Legal.barObserve {s : State} {core slot c off : Nat} (h : Legal s) : Legal (s.barObserve core slot c off) := h.updPack.setBar.barDrain

theorem Legal.barDereg {s : State} {core slot c off : Nat} (h : Legal s) : Legal (s.barDereg core slot c off) := by
  unfold State.barDereg
  split
  · exact h
  · exact h.updPack.setBar

theorem Legal.barExit {s : State} {core slot : Nat} (h : Legal s) : Legal (s.barExit core slot) :=
  h.foldl (fun _ _ h1 => (h1.barDereg.barComplete.cond h1.barDereg).barDrain)

/-! ### Places -/

theorem Legal.placeTouch {s : State} {x : Place} (h : Legal s) : Legal (s.placeTouch x) := by
  unfold State.placeTouch
  split
  · exact h.touch
  · exact h.spadTouch
  · exact h

theorem Legal.readPlaces {s : State} {ps : List Place} (h : Legal s) : Legal (s.readPlaces ps).1 := h.foldl (fun _ _ h1 => h1.placeTouch)

theorem Legal.writePlace {s : State} {node : Nat} {p : Place} {b : Byte} {psn : Bool} (h : Legal s) : Legal (s.writePlace node p b psn) := by
  cases p with
  | mem a pa =>
    show Legal (s.writeRun a pa [b] psn)
    exact h.writeRun
  | spad c off => exact h.spadTouch.setSpad
  | chip off =>
    have h1 := h.commitNode (uid := node)
    refine { h1 with chip := setCanon_wf _ _ _ h1.chip, chipPsn := ?_ }
    show FMap.sorted (if psn then _ else _) = true
    split
    · exact FMap.sorted_ins _ _ _ h1.chipPsn
    · exact h1.chipPsn

theorem Legal.placesStored {s : State} {ps : List Place} (h : Legal s) : Legal (s.placesStored ps) := h.foldl (fun _ _ h1 => h1.barStored)

theorem Legal.writePlaces {s : State} {node : Nat} {ps : List Place} {bs : List Byte} {psn : Bool} (h : Legal s) : Legal (s.writePlaces node ps bs psn) := by
  unfold State.writePlaces
  dsimp only
  split
  · exact h.writeRun.cond ((h.foldl (fun _ _ h1 => h1.writePlace)).placesStored)
  · exact (h.foldl (fun _ _ h1 => h1.writePlace)).placesStored

/-! ### Translation -/

theorem Legal.readPte {s : State} {ctx pa : Nat} (h : Legal s) : Legal (s.readPte ctx pa).1 := h.touch

theorem Legal.setAD {s : State} {ctx pa e : Nat} {w : Bool} (h : Legal s) : Legal (s.setAD ctx pa e w).1 := by
  unfold State.setAD
  extract_lets add
  refine h.condFst ?_
  dsimp only
  exact h.writeRun

theorem Legal.groupEntry {s : State} {t va : Nat} (h : Legal s) : Legal (groupEntry s t va).1 := h.draw.condFst h.draw

theorem Legal.s2Walk {ctx gpa : Nat} {tensor : Bool} {need : Need} {w : Bool} {n m : Nat} {s : State} (h : Legal s) :
    Legal (s2Walk ctx gpa tensor need w n m s).1 := by
  induction n generalizing m s with
  | zero => exact h
  | succ n ih =>
    unfold Machine.s2Walk
    refine h.condFst (h.condFst ?_)
    extract_lets
    split
    rename_i e
    have h1 := Legal.fst e h.readPte
    split
    rename_i e1
    have h2 := Legal.fst e1 (h1.groupEntry.condFst h1)
    split
    rename_i e2
    have h3 := Legal.fst e2 h2.readPte
    split
    · exact h3
    · exact ih h3
    · split
      rename_i e3
      have h4 := Legal.fst e3 h3.setAD
      exact h4

theorem Legal.s2Translate {ctx func gpa : Nat} {tensor : Bool} {need : Need} {w : Bool} {s : State} (h : Legal s) :
    Legal (s2Translate ctx func gpa tensor need w s).1 :=
  h.condFst (h.condFst h.s2Walk)

theorem Legal.tableAddr {ctx func t lvl : Nat} {s : State} (h : Legal s) : Legal (tableAddr ctx func t lvl s).1 := by
  unfold Machine.tableAddr
  refine (h.condFst (h.condFst h)).condFst ?_
  split <;> rename_i e <;> have h1 := Legal.fst e h.s2Translate
  · exact h1
  · exact h1.condFst (h1.condFst h1)

theorem Legal.s1Walk {ctx func va : Nat} {tensor : Bool} {need : Need} {w : Bool} {n m : Nat} {s : State} (h : Legal s) :
    Legal (s1Walk ctx func va tensor need w n m s).1 := by
  induction n generalizing m s with
  | zero => exact h
  | succ n ih =>
    unfold Machine.s1Walk
    extract_lets
    split <;> rename_i e <;> have h1 := Legal.fst e h.tableAddr
    · exact h1
    · extract_lets
      split
      rename_i e1
      have h2 := Legal.fst e1 h1.readPte
      split
      rename_i e2
      have h3 := Legal.fst e2 (h2.groupEntry.condFst h2)
      split
      rename_i e3
      have h4 := Legal.fst e3 h3.readPte
      split
      · exact h4
      · exact ih h4
      · split
        rename_i e4
        have h5 := Legal.fst e4 h4.setAD
        exact h5

theorem Legal.walk {s : State} {ctx root va : Nat} {need : Need} {w : Bool} (h : Legal s) : Legal (walk s ctx root va need w).1 := by
  unfold Machine.walk
  dsimp only
  split <;> rename_i e <;> have h1 := Legal.fst e h.s1Walk
  · exact h1
  · refine (h1.condFst (h1.condFst h1)).condFst ?_
    split <;> rename_i e1 <;> have h2 := Legal.fst e1 h1.s2Translate
    · exact h2
    · exact h2.condFst (h2.condFst h2)

theorem Legal.xlate {s : State} {wh ctx root va : Nat} {need : Need} (h : Legal s) : Legal (xlate s wh ctx root va need).1 := by
  unfold Machine.xlate
  dsimp only
  split
  · exact h
  · split <;> rename_i e <;> have h1 := Legal.fst e h.walk
    · exact h1
    · exact h1.upd

theorem Legal.ctlAddr {s : State} {wh ctx va : Nat} {need : Need} {pin : Bool} (h : Legal s) : Legal (ctlAddr s wh ctx va need pin).1 := by
  unfold Machine.ctlAddr
  refine h.condFst ?_
  split <;> rename_i e <;> have h1 := Legal.fst e h.xlate
  · exact h1.condFst h1
  · exact h1

theorem Legal.ctlWriteN {wh ctx : Nat} {pin psn : Bool} {n m : Nat} {xs : List Byte} {s : State} (h : Legal s) :
    Legal (ctlWriteN wh ctx pin psn n m xs s).1 := by
  induction n generalizing m xs s with
  | zero => exact h
  | succ n ih =>
    unfold Machine.ctlWriteN
    split
    · exact h
    · dsimp only
      split <;> rename_i e <;> have h1 := Legal.fst e h.ctlAddr
      · exact h1
      · exact ih h1.writeRun

theorem Legal.ctlWrite {wh ctx : Nat} {pin psn : Bool} {va : Nat} {bs : List Byte} {s : State} (h : Legal s) : Legal (ctlWrite wh ctx pin psn va bs s).1 :=
  h.ctlWriteN

theorem Legal.ctlReadN {wh ctx : Nat} {pin : Bool} {n m k : Nat} {s : State} (h : Legal s) : Legal (ctlReadN wh ctx pin n m k s).1 := by
  induction n generalizing m k s with
  | zero => exact h
  | succ n ih =>
    unfold Machine.ctlReadN
    refine h.condFst ?_
    dsimp only
    split <;> rename_i e <;> have h1 := Legal.fst e h.ctlAddr
    · exact h1
    · split <;> rename_i e1 <;> have h2 := Legal.fst e1 (ih h1.touch)
      · exact h2
      · exact h2

theorem Legal.ctlRead {wh ctx : Nat} {pin : Bool} {va n : Nat} {s : State} (h : Legal s) : Legal (ctlRead wh ctx pin va n s).1 := h.ctlReadN

theorem Legal.transRange {v : Via} {root n m k : Nat} {s : State} (h : Legal s) : Legal (transRange v root n m k s).1 := by
  induction n generalizing m k s with
  | zero => exact h
  | succ n ih =>
    unfold Machine.transRange
    refine h.condFst ?_
    dsimp only
    split <;> rename_i e <;> have h1 := Legal.fst e h.xlate
    · exact h1
    · exact h1
    · refine h1.condFst ?_
      split
      · rename_i e1
        have h2 := Legal.fst e1 (ih h1)
        exact h2
      · exact ih h1

theorem Legal.transPriv {v : Via} {p : Pack} {l o n : Nat} {s : State} (h : Legal s) : Legal (transPriv v p l o n s).1 := by
  unfold Machine.transPriv
  refine h.foldlFst ?_
  intro _ _ h1
  split
  · split
    · rename_i e
      have h2 := Legal.fst e h1.transRange
      exact h2
    · exact h1.transRange
  · exact h1

theorem Legal.addrPlaces {v : Via} {p : Pack} {l : Nat} {a : Addr} {n : Nat} {s : State} (h : Legal s) : Legal (addrPlaces v p l a n s).1 := by
  unfold Machine.addrPlaces
  split
  · exact h.transRange
  · exact h.transRange
  · exact h
  · exact h.transPriv

theorem Legal.laneAccess {c : Ctx} {v : Via} {l : Nat} {la : LAddr} {skip n span align : Nat} {rd wr : Bool} {s : State} (h : Legal s) :
    Legal (laneAccess c v l la skip n span align rd wr s).1 := by
  unfold Machine.laneAccess
  dsimp only
  split
  · exact h
  · split
    · exact h
    · refine h.condFst ?_
      split
      · exact h.addrPlaces
      · exact h.addrPlaces
      · exact h.addrPlaces
      · split
        · exact h.addrPlaces
        · exact h.addrPlaces

/-! ### Mirrored reads -/

theorem Legal.recPlaces {s : State} {l : Launch} {off n : Nat} {need : Need} (h : Legal s) : Legal (recPlaces s l off n need).1 := by
  unfold Machine.recPlaces
  refine h.condFst ?_
  split <;> rename_i e <;> have h1 := Legal.fst e h.xlate
  · exact h1
  · refine h1.condFst ?_
    split <;> rename_i e1 <;> have h2 := Legal.fst e1 h1.transRange
    · exact h2
    · exact h2

theorem Legal.recRead {s : State} {l : Launch} {off n : Nat} (h : Legal s) : Legal (recRead s l off n).1 := by
  unfold Machine.recRead
  split <;> rename_i e <;> have h1 := Legal.fst e h.recPlaces
  · exact h1.readPlaces
  · exact h1

theorem Legal.recWrite {s : State} {l : Launch} {off : Nat} {bs : List Byte} (h : Legal s) : Legal (recWrite s l off bs).1 := by
  unfold Machine.recWrite
  split <;> rename_i e <;> have h1 := Legal.fst e h.recPlaces
  · exact h1.foldl (fun _ _ h2 => h2.writePlace)
  · exact h1

theorem Legal.recOverflow {s : State} {uid : Nat} (h : Legal s) : Legal (recOverflow s uid) := h.recWrite.upd

theorem Legal.recFind {l : Launch} {head n m : Nat} {s : State} (h : Legal s) : Legal (recFind l head n m s).1 := by
  induction n generalizing m s with
  | zero => exact h
  | succ n ih =>
    unfold Machine.recFind
    split <;> rename_i e <;> have h1 := Legal.fst e h.recRead
    · exact h1
    · exact h1.recRead.condFst (ih h1)

theorem Legal.mirrorRead {s : State} {uid wg pkid : Nat} {engine : Bool} {seq : Nat} {lanes : Word} {bs : List Byte} (h : Legal s) :
    Legal (mirrorRead s uid wg pkid engine seq lanes bs).1 := by
  unfold Machine.mirrorRead
  refine h.condFst ?_
  dsimp only
  split <;> rename_i e <;> have h1 := Legal.fst e h.recRead
  · exact h1.cond h1.recOverflow
  · refine Legal.condFst ?_ (h1.condFst (h1.recOverflow.condFst ?_))
    · split <;> rename_i e1 <;> have h2 := Legal.fst e1 h1.recFind
      · exact h2.condFst h2.recOverflow
      · exact h2.recOverflow
    · split <;> rename_i e1 <;> have h2 := Legal.fst e1 h1.recWrite
      · exact h2.recOverflow
      · exact h2.recWrite.upd.cond h2.recWrite.upd.recOverflow

theorem Legal.packMirror {s : State} {core slot : Nat} {lanes : Word} {bs : List Byte} (h : Legal s) : Legal (packMirror s core slot lanes bs).1 :=
  h.condFst h.mirrorRead.updPack

/-! ### Integer, mask and scalar instructions -/

theorem Legal.int2 {i : Instr} {d a b : VReg} {f : Word → Word → Word} {s : State} (h : Legal s) : OutLegal (int2 i d a b f s) := h.runUnit (fun _ h1 => h1.vop)

theorem Legal.int1 {i : Instr} {d a : VReg} {f : Word → Word} {s : State} (h : Legal s) : OutLegal (int1 i d a f s) := h.runUnit (fun _ h1 => h1.vop)

theorem Legal.execIadd {p : Option Pfx} {d a b : VReg} {x : BitVec 4} {s : State} (h : Legal s) : OutLegal (execIadd p d a b x s) :=
  h.runUnit (fun _ h1 => h1.vop.condRes h1.vop)

theorem Legal.execIsub {p : Option Pfx} {d a b : VReg} {x : BitVec 4} {s : State} (h : Legal s) : OutLegal (execIsub p d a b x s) :=
  h.runUnit (fun _ h1 => h1.vop.condRes h1.vop)

theorem Legal.execIaddi {p : Option Pfx} {d a : VReg} {i : Imm 11} {s : State} (h : Legal s) : OutLegal (execIaddi p d a i s) := h.int1

theorem Legal.execImul {p : Option Pfx} {d a b : VReg} {x : BitVec 4} {s : State} (h : Legal s) : OutLegal (execImul p d a b x s) :=
  h.runUnit (fun _ h1 => h1.vop.condRes h1.vop)

theorem Legal.execImuli {p : Option Pfx} {d a : VReg} {i : Imm 11} {s : State} (h : Legal s) : OutLegal (execImuli p d a i s) := h.int1

theorem Legal.execImad {p : Option Pfx} {d a b : VReg} {x : BitVec 4} {s : State} (h : Legal s) : OutLegal (execImad p d a b x s) :=
  h.runUnit (fun _ h1 => h1.vop.condRes h1.vop)

theorem Legal.execImin {p : Option Pfx} {d a b : VReg} {x : BitVec 4} {s : State} (h : Legal s) : OutLegal (execImin p d a b x s) := h.int2

theorem Legal.execImax {p : Option Pfx} {d a b : VReg} {x : BitVec 4} {s : State} (h : Legal s) : OutLegal (execImax p d a b x s) := h.int2

theorem Legal.execIabs {p : Option Pfx} {d a : VReg} {s : State} (h : Legal s) : OutLegal (execIabs p d a s) := h.int1

theorem Legal.execIneg {p : Option Pfx} {d a : VReg} {s : State} (h : Legal s) : OutLegal (execIneg p d a s) := h.int1

theorem Legal.execInot {p : Option Pfx} {d a : VReg} {s : State} (h : Legal s) : OutLegal (execInot p d a s) := h.int1

theorem Legal.execPopc {p : Option Pfx} {d a : VReg} {s : State} (h : Legal s) : OutLegal (execPopc p d a s) := h.int1

theorem Legal.execClz {p : Option Pfx} {d a : VReg} {s : State} (h : Legal s) : OutLegal (execClz p d a s) := h.int1

theorem Legal.execCtz {p : Option Pfx} {d a : VReg} {s : State} (h : Legal s) : OutLegal (execCtz p d a s) := h.int1

theorem Legal.execBrev {p : Option Pfx} {d a : VReg} {s : State} (h : Legal s) : OutLegal (execBrev p d a s) := h.int1

theorem Legal.execBswap {p : Option Pfx} {d a : VReg} {s : State} (h : Legal s) : OutLegal (execBswap p d a s) := h.int1

theorem Legal.execIsad {p : Option Pfx} {d a b : VReg} {x : BitVec 4} {s : State} (h : Legal s) : OutLegal (execIsad p d a b x s) :=
  h.runUnit (fun _ h1 => h1.vop)

theorem Legal.shiftOp {i : Instr} {d a b : VReg} {wide : Bool} {f1 : Word → Nat → Word} {f2 : DWord → Nat → DWord} {s : State} (h : Legal s) :
    OutLegal (shiftOp i d a b wide f1 f2 s) :=
  h.runUnit (fun _ h1 => h1.vop.condRes h1.vop)

theorem Legal.execShl {p : Option Pfx} {d a b : VReg} {x : BitVec 4} {s : State} (h : Legal s) : OutLegal (execShl p d a b x s) := h.shiftOp

theorem Legal.execShr {p : Option Pfx} {d a b : VReg} {x : BitVec 4} {s : State} (h : Legal s) : OutLegal (execShr p d a b x s) := h.shiftOp

theorem Legal.execSar {p : Option Pfx} {d a b : VReg} {x : BitVec 4} {s : State} (h : Legal s) : OutLegal (execSar p d a b x s) := h.shiftOp

theorem Legal.execRotl {p : Option Pfx} {d a b : VReg} {s : State} (h : Legal s) : OutLegal (execRotl p d a b s) := h.int2

theorem Legal.execRotr {p : Option Pfx} {d a b : VReg} {s : State} (h : Legal s) : OutLegal (execRotr p d a b s) := h.int2

theorem Legal.shiftImm {i : Instr} {d a : VReg} {wide : Bool} {n : Nat} {f1 : Word → Nat → Word} {f2 : DWord → Nat → DWord} {s : State} (h : Legal s) :
    OutLegal (shiftImm i d a wide n f1 f2 s) :=
  h.runUnit (fun _ h1 => h1.vop.condRes h1.vop)

theorem Legal.execShli {p : Option Pfx} {d a : VReg} {pr : BitVec 1} {n : BitVec 6} {s : State} (h : Legal s) : OutLegal (execShli p d a pr n s) := h.shiftImm

theorem Legal.execShri {p : Option Pfx} {d a : VReg} {pr : BitVec 1} {n : BitVec 6} {s : State} (h : Legal s) : OutLegal (execShri p d a pr n s) := h.shiftImm

theorem Legal.execSari {p : Option Pfx} {d a : VReg} {pr : BitVec 1} {n : BitVec 6} {s : State} (h : Legal s) : OutLegal (execSari p d a pr n s) := h.shiftImm

theorem Legal.execAnd {p : Option Pfx} {d a b : VReg} {s : State} (h : Legal s) : OutLegal (execAnd p d a b s) := h.int2

theorem Legal.execOr {p : Option Pfx} {d a b : VReg} {s : State} (h : Legal s) : OutLegal (execOr p d a b s) := h.int2

theorem Legal.execXor {p : Option Pfx} {d a b : VReg} {s : State} (h : Legal s) : OutLegal (execXor p d a b s) := h.int2

theorem Legal.execAndn {p : Option Pfx} {d a b : VReg} {s : State} (h : Legal s) : OutLegal (execAndn p d a b s) := h.int2

theorem Legal.execOrn {p : Option Pfx} {d a b : VReg} {s : State} (h : Legal s) : OutLegal (execOrn p d a b s) := h.int2

theorem Legal.execXnor {p : Option Pfx} {d a b : VReg} {s : State} (h : Legal s) : OutLegal (execXnor p d a b s) := h.int2

theorem Legal.execAndi {p : Option Pfx} {d a : VReg} {i : Imm 11} {s : State} (h : Legal s) : OutLegal (execAndi p d a i s) := h.int1

theorem Legal.execOri {p : Option Pfx} {d a : VReg} {i : Imm 11} {s : State} (h : Legal s) : OutLegal (execOri p d a i s) := h.int1

theorem Legal.execXori {p : Option Pfx} {d a : VReg} {i : Imm 11} {s : State} (h : Legal s) : OutLegal (execXori p d a i s) := h.int1

theorem Legal.execBfx {p : Option Pfx} {d a : VReg} {len : BitVec 6} {pos : BitVec 5} {s : State} (h : Legal s) : OutLegal (execBfx p d a len pos s) := h.int1

theorem Legal.execBfxs {p : Option Pfx} {d a : VReg} {len : BitVec 6} {pos : BitVec 5} {s : State} (h : Legal s) : OutLegal (execBfxs p d a len pos s) := h.int1

theorem Legal.execBfi {p : Option Pfx} {d a : VReg} {len : BitVec 6} {pos : BitVec 5} {s : State} (h : Legal s) : OutLegal (execBfi p d a len pos s) :=
  h.runUnit (fun _ h1 => h1.vop)

theorem Legal.execIcmp {p : Option Pfx} {m : BitVec 3} {cc : BitVec 4} {a b : VReg} {x : BitVec 4} {s : State} (h : Legal s) :
    OutLegal (execIcmp p m cc a b x s) :=
  h.runUnit (fun _ h1 => h1.mop.condRes h1.mop)

theorem Legal.execIcmpi {p : Option Pfx} {m : BitVec 3} {cc : BitVec 4} {a : VReg} {i : Imm 11} {s : State} (h : Legal s) : OutLegal (execIcmpi p m cc a i s) :=
  h.runUnit (fun _ h1 => h1.mop)

theorem Legal.copyOp {c : Ctx} {d : VReg} {src : Nat → VReg} (h : Legal c.s) : Legal (copyOp c d src).s := h.updPack

theorem Legal.execSel {p : Option Pfx} {d a b : VReg} {m : BitVec 3} {s : State} (h : Legal s) : OutLegal (execSel p d a b m s) :=
  h.runUnit (fun _ h1 => h1.copyOp)

theorem Legal.execMov {p : Option Pfx} {d a : VReg} {s : State} (h : Legal s) : OutLegal (execMov p d a s) := h.runUnit (fun _ h1 => h1.copyOp)

theorem Legal.execMovs {p : Option Pfx} {d : VReg} {a : BitVec 7} {s : State} (h : Legal s) : OutLegal (execMovs p d a s) := h.runUnit (fun _ h1 => h1.vop)

theorem Legal.execMovm {p : Option Pfx} {d : VReg} {m : BitVec 3} {s : State} (h : Legal s) : OutLegal (execMovm p d m s) := h.runUnit (fun _ h1 => h1.vop)

theorem Legal.execMvm {p : Option Pfx} {m : BitVec 3} {a : VReg} {s : State} (h : Legal s) : OutLegal (execMvm p m a s) := h.runUnit (fun _ h1 => h1.mop)

theorem Legal.execMovi {p : Option Pfx} {d : VReg} {i : Imm 18} {s : State} (h : Legal s) : OutLegal (execMovi p d i s) := h.runUnit (fun _ h1 => h1.vop)

theorem Legal.execLea {p : Option Pfx} {d a b : VReg} {x : BitVec 4} {s : State} (h : Legal s) : OutLegal (execLea p d a b x s) := h.int2

theorem Legal.execIdiv {p : Option Pfx} {d a b : VReg} {la : BitVec 4} {s : State} (h : Legal s) : OutLegal (execIdiv p d a b la s) := h.int2

theorem Legal.execNdiv {p : Option Pfx} {d a b : VReg} {la : BitVec 4} {s : State} (h : Legal s) : OutLegal (execNdiv p d a b la s) := h.int2

theorem Legal.sop2 {i : Instr} {d a b : BitVec 7} {f : DWord → DWord → DWord} {s : State} (h : Legal s) : OutLegal (sop2 i d a b f s) :=
  h.runUnit (fun _ h1 => h1.sop)

theorem Legal.execSadd {d a b : BitVec 7} {s : State} (h : Legal s) : OutLegal (execSadd d a b s) := h.sop2

theorem Legal.execSsub {d a b : BitVec 7} {s : State} (h : Legal s) : OutLegal (execSsub d a b s) := h.sop2

theorem Legal.execSmul {d a b : BitVec 7} {s : State} (h : Legal s) : OutLegal (execSmul d a b s) := h.sop2

theorem Legal.execSand {d a b : BitVec 7} {s : State} (h : Legal s) : OutLegal (execSand d a b s) := h.sop2

theorem Legal.execSor {d a b : BitVec 7} {s : State} (h : Legal s) : OutLegal (execSor d a b s) := h.sop2

theorem Legal.execSxor {d a b : BitVec 7} {s : State} (h : Legal s) : OutLegal (execSxor d a b s) := h.sop2

theorem Legal.execSshl {d a b : BitVec 7} {s : State} (h : Legal s) : OutLegal (execSshl d a b s) := h.sop2

theorem Legal.execSshr {d a b : BitVec 7} {s : State} (h : Legal s) : OutLegal (execSshr d a b s) := h.sop2

theorem Legal.execSsar {d a b : BitVec 7} {s : State} (h : Legal s) : OutLegal (execSsar d a b s) := h.sop2

theorem Legal.execSaddi {d a : BitVec 7} {i : Imm 11} {s : State} (h : Legal s) : OutLegal (execSaddi d a i s) := h.runUnit (fun _ h1 => h1.sop)

theorem Legal.execScmp {d a b : BitVec 7} {cc : BitVec 4} {s : State} (h : Legal s) : OutLegal (execScmp d a b cc s) := h.sop2

theorem Legal.execSmovi {d : BitVec 7} {i : Imm 18} {s : State} (h : Legal s) : OutLegal (execSmovi d i s) := h.runUnit (fun _ h1 => h1.sop)

theorem Legal.execSmov {d a : BitVec 7} {s : State} (h : Legal s) : OutLegal (execSmov d a s) := h.runUnit (fun _ h1 => h1.sop)

theorem Legal.execRdlane {d : BitVec 7} {a : VReg} {n : BitVec 7} {s : State} (h : Legal s) : OutLegal (execRdlane d a n s) :=
  h.runUnit (fun _ h1 => h1.condRes (h1.condRes (h1.condRes (h1.condRes h1.sop))))

theorem Legal.execWrlane {d : VReg} {a n : BitVec 7} {s : State} (h : Legal s) : OutLegal (execWrlane d a n s) := h.runUnit (fun _ h1 => h1.condRes h1.updPack)

theorem Legal.execSmask {d : BitVec 7} {m : BitVec 3} {s : State} (h : Legal s) : OutLegal (execSmask d m s) := h.runUnit (fun _ h1 => h1.sop)

theorem Legal.execMset {m : BitVec 3} {a : BitVec 7} {s : State} (h : Legal s) : OutLegal (execMset m a s) := h.runUnit (fun _ h1 => h1.updPack)

theorem Legal.voteOp {i : Instr} {a : VReg} {f : Ctx → Word → State} {s : State} (h : Legal s) (hf : ∀ x1 x2, Legal x1.s → Legal (f x1 x2)) :
    OutLegal (voteOp i a f s) := by
  unfold Machine.voteOp
  refine h.runUnit (fun _ h1 => Legal.condRes ?_ (h1.condRes (hf _ _ h1)))
  split
  · exact h1
  · exact h1

theorem Legal.voteS {c : Ctx} {d : BitVec 7} {v : Nat} (h : Legal c.s) : Legal (voteS c d v) := h.updPack

theorem Legal.execVany {d : BitVec 7} {a : VReg} {s : State} (h : Legal s) : OutLegal (execVany d a s) := h.voteOp (fun _ _ h1 => h1.voteS)

theorem Legal.execVall {d : BitVec 7} {a : VReg} {s : State} (h : Legal s) : OutLegal (execVall d a s) := h.voteOp (fun _ _ h1 => h1.voteS)

theorem Legal.execBallot {m : BitVec 3} {a : VReg} {s : State} (h : Legal s) : OutLegal (execBallot m a s) := h.voteOp (fun _ _ h1 => h1.updPack)

theorem Legal.execVcount {d : BitVec 7} {a : VReg} {s : State} (h : Legal s) : OutLegal (execVcount d a s) := h.voteOp (fun _ _ h1 => h1.voteS)

/-! ### Loads, stores and the caches -/

theorem Legal.zeroMasked {c : Ctx} {d n : Nat} {s : State} (h : Legal s) : Legal (zeroMasked c d n s) := h.updPack.cond h

theorem Legal.writeLane {c : Ctx} {d l : Nat} {cells : List VCell} {s : State} (h : Legal s) : Legal (writeLane c d l cells s) := h.updPack

theorem Legal.gather {c : Ctx} {pre : Nat → Option LTrap} {acc : Nat → State → State × LaneGot} (h : Legal c.s)
    (hacc : ∀ x1 x2, Legal x2 → Legal (acc x1 x2).1) : Legal (gather c pre acc).1 := by
  unfold Machine.gather
  refine h.foldlFst ?_
  intro _ _ h1
  split
  · exact h1
  · exact hacc _ _ h1

theorem Legal.memEnd {r : State × List (Nat × LaneGot)} {eff : List (Nat × List Place) → State → State} (h : Legal r.1)
    (heff : ∀ x1 x2, Legal x2 → Legal (eff x1 x2)) : Legal (memEnd r eff).s :=
  heff _ _ h

theorem Legal.readLanes {core slot : Nat} {xs : List (Nat × List Place)} {s : State} (h : Legal s) : Legal (readLanes core slot xs s).1 :=
  (h.foldl (fun _ _ h1 => h1.foldl (fun _ _ h2 => h2.placeTouch))).packMirror

theorem Legal.loadBody {c : Ctx} {d a : VReg} {na w : Nat} {addr : Nat → LAddr} (h : Legal c.s) : Legal (loadBody c d a na w addr).s :=
  (h.zeroMasked.gather (fun _ _ h1 => h1.laneAccess)).memEnd (fun _ _ h1 => h1.readLanes.foldl (fun _ _ h2 => h2.writeLane))

theorem Legal.execLd {p : Option Pfx} {d a : VReg} {w : BitVec 3} {i : Imm 4} {la : BitVec 4} {s : State} (h : Legal s) : OutLegal (execLd p d a w i la s) :=
  h.runUnit (fun _ h1 => h1.loadBody)

theorem Legal.execLds {p : Option Pfx} {d a : VReg} {w : BitVec 3} {i : Imm 4} {la : BitVec 4} {s : State} (h : Legal s) : OutLegal (execLds p d a w i la s) :=
  h.runUnit (fun _ h1 => h1.loadBody)

theorem Legal.execLdx {p : Option Pfx} {d a : VReg} {w : BitVec 3} {i : Imm 4} {la : BitVec 4} {s : State} (h : Legal s) : OutLegal (execLdx p d a w i la s) :=
  h.runUnit (fun _ h1 => h1.loadBody)

theorem Legal.writeLanes {node : Nat} {xs : List (Nat × List Place × List Byte × Bool)} {s : State} (h : Legal s) : Legal (writeLanes node xs s) := by
  induction xs generalizing s with
  | nil => exact h
  | cons x xs ih =>
    unfold Machine.writeLanes
    exact ih h.writePlaces

theorem Legal.storeBody {c : Ctx} {d a : VReg} {na w : Nat} {addr : Nat → LAddr} (h : Legal c.s) : Legal (storeBody c d a na w addr).s :=
  (h.gather (fun _ _ h1 => h1.laneAccess)).memEnd (fun _ _ h1 => h1.writeLanes)

theorem Legal.execSt {p : Option Pfx} {d a : VReg} {w : BitVec 3} {i : Imm 4} {la : BitVec 4} {s : State} (h : Legal s) : OutLegal (execSt p d a w i la s) :=
  h.runUnit (fun _ h1 => h1.storeBody)

theorem Legal.execSts {p : Option Pfx} {d a : VReg} {w : BitVec 3} {i : Imm 4} {la : BitVec 4} {s : State} (h : Legal s) : OutLegal (execSts p d a w i la s) :=
  h.runUnit (fun _ h1 => h1.storeBody)

theorem Legal.execStx {p : Option Pfx} {d a : VReg} {w : BitVec 3} {i : Imm 4} {la : BitVec 4} {s : State} (h : Legal s) : OutLegal (execStx p d a w i la s) :=
  h.runUnit (fun _ h1 => h1.storeBody)

theorem Legal.ldmWords {c : Ctx} {v : Via} {l : Nat} {la : LAddr} {n : Nat} {rd : Bool} {m k : Nat} {s : State} (h : Legal s) :
    Legal (ldmWords c v l la n rd m k s).1 := by
  induction m generalizing k s with
  | zero => exact h
  | succ m ih =>
    unfold Machine.ldmWords
    refine h.condFst ?_
    split <;> rename_i e <;> have h1 := Legal.fst e h.laneAccess
    · split
      rename_i e1
      have h2 := Legal.fst e1 (ih h1)
      exact h2
    · exact h1

theorem Legal.gatherM {c : Ctx} {pre : Nat → Option LTrap} {v : Via} {addr : Nat → LAddr} {n : Nat} {rd : Bool} (h : Legal c.s) :
    Legal (gatherM c pre v addr n rd).1 := by
  unfold Machine.gatherM
  refine h.foldlFst ?_
  intro _ _ h1
  split
  · exact h1
  · exact h1.ldmWords

theorem Legal.ldmEnd {c : Ctx} {ls : List LdmLane} {s : State} (h : Legal s) : Legal (ldmEnd c ls s).s := h.updPack

theorem Legal.execLdm {p : Option Pfx} {d a : VReg} {w : BitVec 3} {i : Imm 4} {la : BitVec 4} {s : State} (h : Legal s) : OutLegal (execLdm p d a w i la s) :=
  h.runUnit (fun _ h1 => (h1.zeroMasked.gatherM.readLanes.foldl (fun _ _ h2 => h2.foldl (fun _ _ h3 => h3.writeLane))).ldmEnd)

theorem Legal.execStm {p : Option Pfx} {d a : VReg} {w : BitVec 3} {i : Imm 4} {la : BitVec 4} {s : State} (h : Legal s) : OutLegal (execStm p d a w i la s) :=
  h.runUnit (fun _ h1 => h1.gatherM.writeLanes.ldmEnd)

theorem Legal.scalarAccess {c : Ctx} {v : Via} {va : DWord} {w : Nat} {rd : Bool} {eff : List Place → State → Res} (h : Legal c.s)
    (heff : ∀ x1 x2, Legal x2 → Legal (eff x1 x2).s) : Legal (scalarAccess c v va w rd eff).s := by
  unfold Machine.scalarAccess
  refine h.condRes ?_
  split <;> rename_i e <;> have h1 := Legal.fst e h.laneAccess
  · exact h1
  · exact h1
  · exact h1
  · exact heff _ _ h1

theorem Legal.execSld {d a : BitVec 7} {w : BitVec 3} {i : Imm 4} {la : BitVec 4} {s : State} (h : Legal s) : OutLegal (execSld d a w i la s) := by
  unfold Machine.execSld
  refine h.runUnit (fun _ h1 => h1.scalarAccess ?_)
  intro _ _ h2
  dsimp only
  split
  · exact h2.readLanes
  · exact h2.readLanes.condRes h2.readLanes.updPack

theorem Legal.execSst {d a : BitVec 7} {w : BitVec 3} {i : Imm 4} {la : BitVec 4} {s : State} (h : Legal s) : OutLegal (execSst d a w i la s) :=
  h.runUnit (fun _ h1 => h1.scalarAccess (fun _ _ h2 => h2.writePlaces))

theorem Legal.execLdc {d a : BitVec 7} {w : BitVec 3} {i : Imm 4} {la : BitVec 4} {s : State} (h : Legal s) : OutLegal (execLdc d a w i la s) :=
  h.runUnit (fun _ h1 => h1.condRes (h1.condRes (h1.packMirror.condRes h1.packMirror.updPack)))

theorem Legal.cctlLine {core op node : Nat} {s : State} {p : Place} (h : Legal s) : Legal (cctlLine core op node s p) := by
  cases p with
  | mem a pa => exact h.writeLine.cond (h.cond (h.wbLine.cond (h.invLine.cond (h.flushLine.cond (h.readLine.cond h)))))
  | spad c off => exact h.zeroSpad.cond h
  | chip off =>
    have h1 := h.commitNode (uid := node)
    exact Legal.cond { h1 with chip := Memory.wf_filter _ _ h1.chip, chipPsn := FMap.sorted_del _ _ h1.chipPsn } h

theorem Legal.execCctl {a : VReg} {w : BitVec 3} {i : Imm 4} {la : BitVec 4} {s : State} (h : Legal s) : OutLegal (execCctl a w i la s) := by
  unfold Machine.execCctl
  refine h.runUnit fun c h => ?_
  extract_lets op pref v addr lines r
  have hl : ∀ xs t, Legal t → Legal (lines xs t) := fun _ _ h => h.foldl fun _ _ h => h.cctlLine
  have hr : Legal r.1 := h.gather fun l t h => by
    clear_value v addr
    split
    · exact h.laneAccess.pair
    · exact h.laneAccess
  clear_value lines r
  exact Legal.condRes (hl _ _ hr).res (Legal.memEnd hr hl)

/-! ### Frames, traps and calls -/

theorem Legal.compact {s : State} {c : Nat} (h : Legal s) : Legal (s.compact c) := h.foldlFst (fun _ _ h1 => h1.updPack)

theorem Legal.allocRun {s : State} {c n : Nat} (h : Legal s) : Legal (s.allocRun c n).1 := by
  unfold State.allocRun
  split
  · exact h
  · exact h.compact

theorem Legal.pinWrite {s : State} {core ctx va : Nat} {bs : List Byte} (h : Legal s) : Legal (s.pinWrite core ctx va bs).1 := h.ctlWrite

theorem Legal.pinRead {s : State} {core ctx va n : Nat} (h : Legal s) : Legal (s.pinRead core ctx va n).1 := by
  unfold State.pinRead
  split <;> rename_i e <;> have h1 := Legal.fst e h.ctlRead
  · exact h1
  · exact h1

theorem Legal.freeWg {s : State} {id : Nat} (h : Legal s) : Legal (s.freeWg id) := h.upd.updCore (fun _ h1 => h1.upd)

theorem Legal.restoreProv {s : State} {uid : Nat} (h : Legal s) : Legal (s.restoreProv uid) := by
  unfold State.restoreProv
  refine ((h.foldl (fun _ _ h1 => h1.setRaw)).foldl ?_).dropProv
  intro _ _ h1
  split
  · exact h1.setLinePsn
  · exact h1

theorem Legal.setCtxState {s : State} {ctx v : Nat} (h : Legal s) : Legal (s.setCtxState ctx v) := h.setReg

theorem Legal.killCtx {s : State} {ctx : Nat} (h : Legal s) : Legal (s.killCtx ctx) := by
  unfold State.killCtx
  extract_lets f s1 s2 s3
  have h1 : Legal s1 := h.foldl fun _ _ h => h.freeWg
  have h2 : Legal s2 := h1.foldl fun _ _ h => h.restoreProv
  clear_value s1 s2
  have h3 : Legal s3 := h2.withCores (FMap.keys_map fun _ => rfl) (CoreLegal.map h2.cores fun _ h => h.upd)
  clear_value s3
  exact h3.setReg.setCtxState.send

theorem Legal.ctxSettle {s : State} {ctx : Nat} (h : Legal s) : Legal (s.ctxSettle ctx) := h.setCtxState.cond h

theorem Legal.mbxPost {s : State} {c slot kind idx : Nat} (h : Legal s) : Legal (s.mbxPost c slot kind idx) :=
  (((h.updCore (fun _ h1 => h1.upd)).writeBytes).writeBytes).cond (h.updCore (fun _ h1 => h1.upd))

theorem Legal.double {s : State} {core slot detail : Nat} {t : Trap} (h : Legal s) : Legal (s.double core slot detail t) := h.pinWrite.killCtx

theorem Legal.escalate {s : State} {core slot : Nat} {t : Trap} (h : Legal s) : Legal (s.escalate core slot t) := by
  unfold State.escalate
  dsimp only
  split <;> rename_i e <;> have h1 := Legal.fst e h.pinWrite
  · exact h1.double
  · exact (((h1.updPack.updCore (fun _ h2 => h2.upd)).count).mbxPost).cond ((h1.updPack.updCore (fun _ h2 => h2.upd)).count)

theorem Legal.enterHandler {s : State} {core slot : Nat} {t : Trap} (h : Legal s) : Legal (s.enterHandler core slot t) := by
  unfold State.enterHandler
  dsimp only
  split <;> rename_i e <;> have h1 := Legal.fst e h.pinWrite
  · exact h1.double
  · split <;> rename_i e1 <;> have h2 := Legal.fst e1 h1.pinWrite
    · exact h2.double
    · refine (Legal.updPack ?_).count
      split
      · exact h2
      · exact h2.allocRun

theorem Legal.takeTrap {s : State} {core slot : Nat} {t : Trap} (h : Legal s) : Legal (takeTrap s core slot t) := by
  unfold Machine.takeTrap
  refine h.upd.cond (h.killCtx.cond ?_)
  split
  · exact h.double
  · exact h.enterHandler
  · exact h.escalate

theorem Legal.readAction {s : State} {core ctx va : Nat} (h : Legal s) : Legal (s.readAction core ctx va).1 := by
  unfold State.readAction
  split <;> rename_i e <;> have h1 := Legal.fst e h.pinRead
  · exact h1
  · exact h1

theorem Legal.endHandler {s : State} {core slot : Nat} {exit : Bool} (h : Legal s) : Legal (endHandler s core slot exit) := by
  unfold Machine.endHandler
  dsimp only
  split
  · exact h
  · split <;> rename_i e <;> have h1 := Legal.fst e h.pinRead
    · exact h1.double
    · split <;> rename_i e1 <;> have h2 := Legal.fst e1 h1.readAction
      · exact h2.double
      · exact h2.updPack

theorem Legal.endEscalation {s : State} {core slot : Nat} (h : Legal s) : Legal (endEscalation s core slot) := by
  unfold Machine.endEscalation
  dsimp only
  split
  · exact h
  · split <;> rename_i e <;> have h1 := Legal.fst e h.readAction
    · exact h1.double
    · split
      · exact h1.updPack.endHandler.cond h1.updPack
      · exact h1.updPack

theorem Legal.fileReq {s : State} {c slot cls n depth : Nat} (h : Legal s) : Legal (s.fileReq c slot cls n depth) := h.updPack

theorem Legal.askFrames {s : State} {c slot cls n depth : Nat} (h : Legal s) : Legal (s.askFrames c slot cls n depth).1 := by
  unfold State.askFrames
  split
  · exact (h.updPack.condFst h).condFst h.fileReq
  · exact h.condFst h.fileReq

theorem Legal.needFrame {s : State} {c slot depth : Nat} (h : Legal s) : Legal (s.needFrame c slot depth).1 := by
  unfold State.needFrame
  dsimp only
  split
  · exact h
  · split
    · exact h
    · exact h.updPack.updCore (fun _ h1 => h1.upd)
    · split
      · exact h.condFst h.fileReq
      · exact h.fileReq
    · exact h

theorem Legal.callBody {c : Ctx} {dem argc retc ab : Nat} {tgt : Option (DWord × Option Nat)} {rpc : DWord} (h : Legal c.s) :
    Legal (callBody c dem argc retc ab tgt rpc).s := by
  unfold Machine.callBody
  refine h.condRes (h.condRes ?_)
  split
  · exact h
  · refine h.condRes (h.updPack.condRes ?_)
    split <;> rename_i e <;> have h1 := Legal.fst e h.askFrames
    · exact h1
    · dsimp only
      refine h1.allocRun.updPack.condRes ?_
      split <;> rename_i e1 <;> have h2 := Legal.fst e1 h1.allocRun.updPack.pinWrite
      · exact h2.updPack
      · exact h2

theorem Legal.execCall {dem argc retc : BitVec 4} {ab : VReg} {off : BitVec 32} {s : State} (h : Legal s) : OutLegal (execCall dem argc retc ab off s) :=
  h.runUnit (fun _ h1 => h1.callBody)

theorem Legal.execCallx {dem argc retc : BitVec 4} {ab : VReg} {r : BitVec 5} {s : State} (h : Legal s) : OutLegal (execCallx dem argc retc ab r s) :=
  h.runUnit (fun _ h1 => h1.callBody)

theorem Legal.execRet {s : State} (h : Legal s) : OutLegal (execRet s) := by
  unfold Machine.execRet
  refine h.runUnit (fun _ h1 => h1.endHandler.condRes (h1.condRes (h1.condRes (h1.condRes ?_))))
  split <;> rename_i e <;> have h2 := Legal.fst e h1.needFrame
  · exact h2
  · exact h2.updPack

theorem Legal.recordRpc {s : State} {core slot d : Nat} (h : Legal s) : Legal (s.recordRpc core slot d).1 := by
  unfold State.recordRpc
  refine h.condFst ?_
  split <;> rename_i e <;> have h1 := Legal.fst e h.pinRead
  · exact h1
  · exact h1

theorem Legal.execUnwind {n : BitVec 8} {s : State} (h : Legal s) : OutLegal (execUnwind n s) := by
  unfold Machine.execUnwind
  refine h.runUnit (fun _ h1 => h1.condRes (h1.condRes (h1.condRes ?_)))
  split <;> rename_i e <;> have h2 := Legal.fst e h1.recordRpc
  · exact h2
  · exact h2.updPack

theorem Legal.execResize {n : BitVec 4} {s : State} (h : Legal s) : OutLegal (execResize n s) := by
  unfold Machine.execResize
  refine h.runUnit (fun _ h1 => h1.updPack.condRes ((h1.cond h1.updPack.updPack).condRes (h1.condRes ?_)))
  split <;> rename_i e <;> have h2 := Legal.fst e h1.askFrames
  · exact h2
  · exact h2.allocRun.updPack.updPack.condRes ((h2.condFst h2.updPack.allocRun).updPack)

theorem Legal.execExit {s : State} (h : Legal s) : OutLegal (execExit s) := h.runUnit (fun _ h1 => h1.endHandler.condRes h1.updPack)

theorem Legal.softTrap {i : Instr} {code : Nat} {n : BitVec 18} {s : State} (h : Legal s) : OutLegal (softTrap i code n s) := h.runUnit (fun _ h1 => h1)

theorem Legal.execTrap {n : BitVec 18} {s : State} (h : Legal s) : OutLegal (execTrap n s) := h.softTrap

theorem Legal.execBkpt {n : BitVec 18} {s : State} (h : Legal s) : OutLegal (execBkpt n s) := h.softTrap

theorem Legal.execSyscall {n : BitVec 18} {s : State} (h : Legal s) : OutLegal (execSyscall n s) := h.softTrap

theorem Legal.execMprog {q : BitVec 7} {k : BitVec 6} {s : State} (h : Legal s) : OutLegal (execMprog q k s) := by
  unfold Machine.execMprog
  refine h.runUnit (fun _ h1 => h1.condRes ?_)
  split
  · exact h1.updPack
  · exact h1

/-! ### Special registers -/

theorem Legal.srWrite {s : State} {core slot n v : Nat} (h : Legal s) : Legal (srWrite s core slot n v) :=
  have hc : ∀ {f : Core → Core}, (∀ k, CoreLegal k → CoreLegal (f k)) → Legal (s.updCore core f) := h.updCore
  (hc fun _ h => h.upd).cond <| h.updPack.cond <| (hc fun _ h => h.upd).cond <| (hc fun _ h => h.upd).cond <| (hc fun _ h => h.upd).cond <|
    (hc fun _ h => h.upd).cond h

theorem Legal.execSrd {d : BitVec 7} {r : BitVec 12} {s : State} (h : Legal s) : OutLegal (execSrd d r s) := by
  unfold Machine.execSrd
  refine h.runUnit ?_
  intro _ h1
  split
  · exact h1
  · exact h1.condRes h1.sop

theorem Legal.execSwr {d : BitVec 7} {r : BitVec 12} {s : State} (h : Legal s) : OutLegal (execSwr d r s) := by
  unfold Machine.execSwr
  refine h.runUnit ?_
  intro _ h1
  split
  · exact h1
  · exact h1
  · exact h1
  · exact h1.condRes h1.srWrite

theorem Legal.execWaitev {d : BitVec 7} {cl : BitVec 8} {s : State} (h : Legal s) : OutLegal (execWaitev d cl s) :=
  h.runUnit (fun _ h1 => h1.updPack.condRes h1.updPack)

/-! ### Atomics -/

theorem Legal.releaseAt {s : State} {c scope : Nat} (h : Legal s) : Legal (s.releaseAt c scope) := h.cleanCore.cond h

theorem Legal.placement {s : State} {core hint : Nat} {a : Acc} {pa : Nat} (h : Legal s) : Legal (s.placement core hint a pa).1 := h.ownLine.condFst h.dirCount

theorem Legal.atomStep {core ctx node op w hint : Nat} {x : AtomIn} {s : State} (h : Legal s) : Legal (atomStep core ctx node op w hint x s).1 := by
  unfold Machine.atomStep
  split
  rename_i s1 ps e
  have h1 : Legal s1 := Legal.fst e (by
    split
    · exact Legal.pair (h.placement.cond h.placement.countSlice).count
    · exact h)
  extract_lets s2 old psn
  have h2 : Legal s2 := h1.foldl fun _ _ h => h.placeTouch
  clear_value s2
  exact h2.pair.condFst (h2.writePlaces.cond h2).pair

theorem Legal.atomSteps {core ctx node op w hint : Nat} {xs : List AtomIn} {s : State} (h : Legal s) : Legal (atomSteps core ctx node op w hint xs s).1 :=
  h.foldlFst (fun _ _ h1 => h1.atomStep)

theorem Legal.atomWrite {c : Ctx} {d : VReg} {sm : Nat} {w64 : Bool} {op : Nat} {ins : List AtomIn} {outs : List AtomOut} {s : State} (h : Legal s) :
    Legal (atomWrite c d sm w64 op ins outs s) :=
  ((h.packMirror.foldl (fun _ _ h1 => h1.writeLane)).updPack).cond (h.packMirror.foldl (fun _ _ h1 => h1.writeLane))

theorem Legal.atomBody {c : Ctx} {dst : Option VReg} {a b cc : VReg} {sm hint width scope order k : Nat} (h : Legal c.s) :
    Legal (atomBody c dst a b cc sm hint width scope order k).s := by
  unfold Machine.atomBody
  extract_lets w64 n v addr g ins s1
  have hg : Legal g.1 := h.gather fun _ _ h => h.laneAccess
  have h1 : Legal s1 := hg.releaseAt.cond hg
  clear_value s1 g
  refine h.res.condRes ?_
  split
  rename_i e
  have h2 := Legal.fst e h1.atomSteps
  dsimp only
  split
  · exact h2.atomWrite
  · exact h2

theorem Legal.execAtom {d a b : VReg} {la : BitVec 4} {sm : BitVec 3} {hint : BitVec 2} {cc : VReg} {width : BitVec 2} {scope : BitVec 3} {order : BitVec 2}
    {k : BitVec 4} {s : State} (h : Legal s) : OutLegal (execAtom d a b la sm hint cc width scope order k s) :=
  h.runUnit (fun _ h1 => h1.atomBody)

/-! ### Barriers and fences -/

theorem Legal.barTrap {c : Ctx} {s : State} {f k off detail : Nat} (h : Legal s) : Legal (barTrap c s f k off detail).s := h

theorem Legal.barMask {c : Ctx} {m : Nat} {b : Bool} {s : State} (h : Legal s) : Legal (barMask c m b s) := h.updPack

theorem Legal.barRegister {c : Ctx} {f k off : Nat} {s t : State} (h : Legal s) (e : barRegister c f k off s = some t) : Legal t := by
  unfold Machine.barRegister at e
  dsimp only at e
  split at e
  · cases e; exact h
  · split at e
    · cases e
    · cases e; exact h.updPack.setBar

theorem Legal.barArrive {s : State} {k off n : Nat} (h : Legal s) : Legal (barArrive s k off n).1 := by
  unfold Machine.barArrive
  extract_lets b s1
  have h1 : Legal s1 := h.setBar
  clear_value s1
  exact h.condFst (h.condFst (h.condFst (Legal.condFst h.barOverrun.pair (Legal.condFst h1.barComplete.barDrain.pair h1.pair))))

theorem Legal.barWaitLanes {c : Ctx} {f k off : Nat} {s : State} (h : Legal s) : Legal (barWaitLanes c f k off s) := h.updPack

theorem Legal.barOp {i : Instr} {a : VReg} {b : Option VReg} {dflt : Nat} {init : Bool} {eff : Ctx → Nat → Nat → Nat → Nat → Res} {s : State} (h : Legal s)
    (heff : ∀ x1 x2 x3 x4 x5, Legal x1.s → Legal (eff x1 x2 x3 x4 x5).s) : OutLegal (barOp i a b dflt init eff s) := by
  unfold Machine.barOp
  refine h.runUnit ?_
  intro _ h1
  split
  · exact h1
  · exact h1
  · exact h1.condRes (h1.barTrap.condRes (h1.barTrap.condRes (heff _ _ _ _ _ h1)))

theorem Legal.execBarinit {a b : VReg} {s : State} (h : Legal s) : OutLegal (execBarinit a b s) := by
  unfold Machine.execBarinit
  refine h.barOp fun c f k off n h => h.barTrap.condRes ?_
  extract_lets s1 s2
  have h1 : Legal s1 := h.setBar.barTrapWaiters
  have h2 : Legal s2 := h1.updCore fun _ h => h.upd
  clear_value s1 s2
  exact h2.packs.res

theorem Legal.execBararv {m : BitVec 3} {a b : VReg} {s : State} (h : Legal s) : OutLegal (execBararv m a b s) := by
  unfold Machine.execBararv
  refine h.barOp fun c f k off n h => ?_
  dsimp only
  split <;> rename_i e <;> have h1 := Legal.fst e h.releaseAt.barArrive
  · exact h1.barMask.res
  · exact h1.barMask.res
  · exact h1.barTrap
  · exact h1.barTrap

theorem Legal.execBaraw {m : BitVec 3} {a b : VReg} {s : State} (h : Legal s) : OutLegal (execBaraw m a b s) := by
  unfold Machine.execBaraw
  refine h.barOp fun c f k off n h => ?_
  split
  · exact h.barTrap
  · rename_i t e
    have h1 := Legal.barRegister h.releaseAt e
    split
    · rename_i u e
      exact (Legal.fst e h1.barArrive).barMask.res
    · rename_i u e
      exact (Legal.fst e h1.barArrive).barTrap
    · rename_i u e
      exact (Legal.fst e h1.barArrive).barTrap
    · rename_i u _ e
      have h2 := (Legal.fst e h1.barArrive).barMask (c := c) (m := m.toNat) (b := false)
      exact Legal.condRes h2.barObserve.res (Legal.condRes h2.res h2.barWaitLanes.res)

theorem Legal.execBarwait {a : VReg} {s : State} (h : Legal s) : OutLegal (execBarwait a s) := by
  unfold Machine.execBarwait
  refine h.barOp fun c f k off x h => ?_
  split
  · exact h.barTrap
  · rename_i t e
    have h1 := Legal.barRegister h e
    exact Legal.condRes h1.barObserve.res h1.barWaitLanes.res

theorem Legal.execBartest {m : BitVec 3} {a : VReg} {s : State} (h : Legal s) : OutLegal (execBartest m a s) := by
  unfold Machine.execBartest
  refine h.barOp fun c f k off x h => ?_
  split
  · exact h.barTrap
  · rename_i t e
    have h1 := Legal.barRegister h e
    exact Legal.condRes h1.barObserve.barMask.res h1.barMask.res

theorem Legal.execBarexp {a b : VReg} {s : State} (h : Legal s) : OutLegal (execBarexp a b s) :=
  h.barOp (fun _ _ _ _ _ h1 => h1.barTrap.condRes (h1.setBar.barComplete.barDrain.cond h1.setBar))

theorem Legal.execBardrop {a b : VReg} {s : State} (h : Legal s) : OutLegal (execBardrop a b s) :=
  h.barOp (fun _ _ _ _ _ h1 => h1.barTrap.condRes ((h1.barDereg.setBar.barComplete.cond h1.barDereg.setBar).barDrain))

theorem Legal.execPsync {a : VReg} {s : State} (h : Legal s) : OutLegal (execPsync a s) := by
  unfold Machine.execPsync
  refine h.runUnit ?_
  intro _ h1
  dsimp only
  split
  · exact h1.updPack
  · exact h1.updPack

theorem Legal.execFence {scope : BitVec 3} {k : BitVec 2} {s : State} (h : Legal s) : OutLegal (execFence scope k s) :=
  h.runUnit (fun _ h1 => h1.condRes (h1.cond h1.releaseAt))

theorem Legal.execFenceLite {scope : BitVec 3} {s : State} (h : Legal s) : OutLegal (execFenceLite scope s) := h.runUnit (fun _ h1 => h1)

theorem Legal.execFenceHeavy {scope : BitVec 3} {s : State} (h : Legal s) : OutLegal (execFenceHeavy scope s) :=
  h.runUnit (fun _ h1 => h1.condRes (h1.cond (h1.foldl (fun _ _ h2 => h2.cleanCore))))

theorem Legal.execFenceShape {scope : BitVec 3} {s : State} (h : Legal s) : OutLegal (execFenceShape scope s) := h.runUnit (fun _ h1 => h1.cleanCore)

/-! ### Tiles and streams -/

theorem Legal.updTile {s : State} {w : Wg} {t : Nat} {f : Tile → Tile} (h : Legal s) : Legal (s.updTile w t f) := h.updCore (fun _ h1 => h1.upd)

theorem Legal.notePaused {s : State} {wg t : Nat} (h : Legal s) : Legal (s.notePaused wg t) := h.updTile

theorem Legal.tileReady {s : State} {wg t : Nat} (h : Legal s) : Legal (s.tileReady wg t) := h.updTile.postWg

theorem Legal.readerDone {s : State} {wg t : Nat} (h : Legal s) : Legal (s.readerDone wg t) := h.updTile.postWg.cond h.updTile

theorem Legal.tileTrap {c : Ctx} {detail tile shape : Nat} (h : Legal c.s) : Legal (tileTrap c detail tile shape).s := h

theorem Legal.tileOp {i : Instr} {t shape : Nat} {eff : Ctx → Tile → Res} {s : State} (h : Legal s) (heff : ∀ x1 x2, Legal x1.s → Legal (eff x1 x2).s) :
    OutLegal (tileOp i t shape eff s) :=
  h.runUnit (fun _ h1 => h1.tileTrap.condRes (heff _ _ h1))

theorem Legal.execTstat {d : BitVec 7} {t : BitVec 8} {s : State} (h : Legal s) : OutLegal (execTstat d t s) := h.tileOp (fun _ _ h1 => h1.sop)

theorem Legal.execTrel {t : BitVec 8} {s : State} (h : Legal s) : OutLegal (execTrel t s) := by
  unfold Machine.execTrel
  refine h.tileOp ?_
  intro _ _ h1
  split
  · exact h1
  · exact h1.updTile.postWg.condRes h1.updTile
  · exact h1

theorem CoreLegal.setStrm {k : Core} {b : Bool} {x : Strm} (h : CoreLegal k) : CoreLegal (k.setStrm b x) := h.upd.cond h.upd

theorem Legal.feedOp {i : Instr} {t : Nat} {b : Bool} {s : State} (h : Legal s) : OutLegal (feedOp i t b s) :=
  h.tileOp (fun _ _ h1 => h1.tileTrap.condRes (h1.condRes (h1.updTile.updCore (fun _ h2 => h2.setStrm.upd))))

theorem Legal.execStrmFeeda {t : BitVec 8} {s : State} (h : Legal s) : OutLegal (execStrmFeeda t s) := h.feedOp

theorem Legal.execStrmFeedb {t : BitVec 8} {s : State} (h : Legal s) : OutLegal (execStrmFeedb t s) := h.feedOp

theorem Legal.execStrmReplay {n : BitVec 6} {k : BitVec 7} {s : State} (h : Legal s) : OutLegal (execStrmReplay n k s) := by
  unfold Machine.execStrmReplay
  refine h.runUnit ?_
  intro _ h1
  split
  · exact h1.tileTrap
  · exact h1.tileTrap.condRes (h1.updCore (fun _ h2 => h2.setStrm))

theorem Legal.dropFeeds {s : State} {wg : Nat} {q : List Pos} (h : Legal s) : Legal (dropFeeds s wg q) := h.foldl (fun _ _ h1 => h1.readerDone)

theorem Legal.flushOne {s : State} {core slot : Nat} {f : Flush} (h : Legal s) : Legal (flushOne s core slot f) :=
  h.cond ((h.dropFeeds.dropFeeds.updCore (fun _ h1 => h1.upd)).updPack)

theorem Legal.flushSettle {s : State} {core : Nat} (h : Legal s) : Legal (flushSettle s core) := h.foldl (fun _ _ h1 => h1.foldl (fun _ _ h2 => h2.flushOne))

theorem Legal.execStrmFlush {s : State} (h : Legal s) : OutLegal (execStrmFlush s) := by
  refine h.runUnit fun c h => ?_
  extract_lets s1
  have h1 : Legal s1 := h.cond (h.updPack.updCore fun _ h => h.upd).flushSettle
  clear_value s1
  exact h1.updPack.res.condRes h1.res

theorem Legal.fetchPos {s : State} {c : Nat} {b : Bool} {x : Pos} (h : Legal s) : Legal (fetchPos s c b x).1 := h.foldl (fun _ _ h1 => h1.spadTouch)

theorem Legal.execStreamFill {c : Nat} {b : Bool} {s : State} (h : Legal s) : OutLegal (execStreamFill c b s) := by
  unfold Machine.execStreamFill
  split
  · exact h.next
  · exact (h.fetchPos.updCore (fun _ h1 => h1.setStrm)).next

theorem Legal.popPos {s : State} {c : Nat} {b : Bool} (h : Legal s) : Legal (popPos s c b).1 := by
  unfold Machine.popPos
  split
  · exact h
  · split
    rename_i s1 d e
    have h1 : Legal s1 := Legal.fst e (by
      split
      · exact h
      · exact h.fetchPos)
    have h2 : ∀ {x}, Legal (s1.updCore c fun k => k.setStrm b x) := h1.updCore fun _ h => h.setStrm
    exact Legal.condFst h2.pair (h2.readerDone.cond h2).pair

/-! ### Records, page requests and copies -/

theorem Legal.tableRead {s : State} {ctx va n kind : Nat} (h : Legal s) : Legal (tableRead s ctx va n kind).1 := by
  unfold Machine.tableRead
  split
  · exact h
  · split <;> rename_i e <;> have h1 := Legal.fst e h.transRange
    · exact Legal.condFst h1.readPlaces.pair h1.readPlaces.pair
    · exact h1
    · exact h1
    · exact h1
  · exact h

theorem Legal.cacheKeep {s : State} {key : Nat × Nat × Nat} {bs : List Byte} (h : Legal s) : Legal (cacheKeep s key bs) := h.recCache

theorem Legal.recordRead {s : State} {ctx kind index va n pkind : Nat} (h : Legal s) : Legal (recordRead s ctx kind index va n pkind).1 := by
  unfold Machine.recordRead
  split
  · exact h
  · split
    · rename_i e
      have h1 := Legal.fst e h.tableRead
      exact h1.cacheKeep
    · exact h.tableRead

theorem Legal.shinvOne {s : State} {ctx i : Nat} (h : Legal s) : Legal (shinvOne s ctx i) := h.upd

theorem Legal.shinvEvery {s : State} {ctx : Nat} (h : Legal s) : Legal (shinvEvery s ctx) := h.upd

theorem Legal.execShinv {i : BitVec 12} {s : State} (h : Legal s) : OutLegal (execShinv i s) := h.runUnit (fun _ h1 => h1.shinvOne)

theorem Legal.execShinvAll {s : State} (h : Legal s) : OutLegal (execShinvAll s) := h.runUnit (fun _ h1 => h1.shinvEvery)

theorem Legal.freeTag {s : State} {f : Nat} (h : Legal s) : Legal (s.freeTag f).1 := h.draw

theorem Legal.prqPut {s : State} {q : PrqWait} (h : Legal s) : Legal (s.prqPut q) := by
  unfold State.prqPut
  extract_lets f
  split
  rename_i s1 tag e
  extract_lets img tail was s2 s3 s4 s5
  have h1 : Legal s1 := Legal.fst e h.freeTag
  have h3 : Legal s3 := h1.writeBytes.setReg
  have h5 : Legal s5 := h3.prq.updPack.cond h3.prq
  clear_value s5
  exact h5.send.cond h5

theorem Legal.prqPost {s : State} {q : PrqWait} (h : Legal s) : Legal (s.prqPost q) := h.upd.cond h.prqPut

theorem Legal.sendOn {s : State} {plane n ctx : Nat} {token : DWord} {kind : ReqKind} {who : RemWho} (h : Legal s) :
    Legal (s.sendOn plane n ctx token kind who) :=
  h.fresh.upd.cond h.fresh.upd.send

theorem Legal.sendReq {s : State} {n ctx : Nat} {token : DWord} {kind : ReqKind} {who : RemWho} (h : Legal s) : Legal (s.sendReq n ctx token kind who) :=
  h.sendOn

theorem Legal.tokenFor {s : State} {ctx n off kind : Nat} (h : Legal s) : Legal (tokenFor s ctx n off kind).1 := by
  unfold Machine.tokenFor
  split <;> rename_i e <;> have h1 := Legal.fst e h.tableRead
  · exact h1.condFst h1
  · exact h1
  · exact h1

theorem Legal.replPkgs {s : State} {ctx : Nat} {x : List Byte} (h : Legal s) : Legal (replPkgs s ctx x).1 := by
  unfold Machine.replPkgs
  refine h.foldlFst ?_
  intro _ _ h1
  split
  · split <;> rename_i e <;> have h2 := Legal.fst e h1.tableRead
    · exact h2.condFst h2
    · exact h2
  · exact h1

theorem Legal.execTcopy {tile : BitVec 8} {base bar : BitVec 5} {acq rel dig : BitVec 1} {la : BitVec 4} {shape : BitVec 12} {scope : BitVec 3}
    {rop : BitVec 4}
    {s : State} (h : Legal s) : OutLegal (execTcopy tile base bar acq rel dig la shape scope rop s) := by
  unfold Machine.execTcopy
  refine h.tileOp fun c _ h => ?_
  extract_lets bv
  exact h.tileTrap.condRes h.updPack.res

theorem Legal.reqTrap {s : State} {core slot tok at_ : Nat} {lanes : Word} {pc : DWord} {k : Option Nat} {words : List Nat} {code detail : Nat}
    {info : List Byte} (h : Legal s) : Legal (reqTrap s core slot tok at_ lanes pc k words code detail info) :=
  h.updPack.raise

theorem Legal.reqFault {s : State} {core slot tok : Nat} {lanes : Word} {pc : DWord} {k : Option Nat} {img : FaultImg} (h : Legal s) :
    Legal (reqFault s core slot tok lanes pc k img) :=
  h.updPack.updCore (fun _ h1 => h1.upd)

theorem Legal.replToks {s : State} {ctx off : Nat} {q : TcopyReq} {pkgs : List Nat} (h : Legal s) : Legal (replToks s ctx off q pkgs).1 := by
  unfold Machine.replToks
  refine h.foldlFst ?_
  intro _ _ h1
  split
  · split <;> rename_i e <;> have h2 := Legal.fst e h1.tokenFor
    · exact h2
    · exact h2
    · exact h2
  · exact h1

theorem Legal.acceptRead {s : State} {core slot : Nat} {q : TcopyReq} (h : Legal s) : Legal (acceptRead s core slot q).1 := by
  unfold Machine.acceptRead
  refine h.condFst ?_
  split <;> rename_i e <;> have h1 := Legal.fst e h.recordRead
  · dsimp only
    split <;> rename_i e1 <;> have h2 := Legal.fst e1 (h1.recordRead.condFst h1)
    · refine h2.condFst (h2.condFst (Legal.condFst ?_ h2))
      split <;> rename_i e2 <;> have h3 := Legal.fst e2 h2.replPkgs
      · exact h3
      · exact h3
      · exact h3.replToks
    · exact h2
  · exact h1

theorem Legal.execTcopyAccept {core slot : Nat} {s : State} (h : Legal s) : OutLegal (execTcopyAccept core slot s) := by
  unfold Machine.execTcopyAccept
  extract_lets p
  split
  · exact h.next
  · rename_i q rest _
    extract_lets info pop
    have hp : ∀ t, Legal t → Legal (pop t) := fun _ h => h.updPack
    clear_value pop
    split <;> rename_i e <;> have h1 := Legal.fst e h.acceptRead
    · exact (hp _ h1).reqTrap.next
    · exact (hp _ h1).reqFault.next
    · refine h1.updPack.next.cond ?_
      extract_lets c s1 w s2 c1
      have h2 : Legal s2 := (hp _ h1).updPack.updTile
      clear_value s2
      split
      rename_i e
      exact (Legal.snd e h2.fresh).copies.next

theorem Legal.engPlaces {s : State} {c : Copy} {va : ℤ} {n : Nat} {wr : Bool} (h : Legal s) : Legal (engPlaces s c va n wr).1 := by
  unfold Machine.engPlaces
  dsimp only
  split
  · exact h
  · exact h
  · split
    · exact h
    · exact h.addrPlaces

theorem Legal.updCopy {s : State} {id : Nat} {f : Copy → Copy} (h : Legal s) : Legal (s.updCopy id f) := h.upd

theorem Legal.setCopy {s : State} {c : Copy} (h : Legal s) : Legal (s.setCopy c) := h.upd

theorem Legal.elemWrite {s : State} {node rop et : Nat} {ps : List Place} {bs : List Byte} {psn : Bool} (h : Legal s) :
    Legal (elemWrite s node rop et ps bs psn) := by
  unfold Machine.elemWrite
  refine h.writePlaces.cond (Legal.writePlaces ?_)
  split
  · exact (h.foldl (fun _ _ h1 => h1.placeTouch)).countSlice
  · exact h.foldl (fun _ _ h1 => h1.placeTouch)

theorem Legal.copyDrop {s : State} {id pk err : Nat} (h : Legal s) : Legal (s.copyDrop id pk err) := h.upd

theorem Legal.copyElem {s : State} {c : Copy} (h : Legal s) : Legal (copyElem s c).1 := by
  unfold Machine.copyElem
  extract_lets z w t n es rem node fin put remote
  have hfin : ∀ {s bs psn}, Legal s → Legal (fin s bs psn).1 := fun h => h.setCopy.count
  have hput : ∀ {s bs psn}, Legal s → Legal (put s bs psn).1 := fun h => by
    refine (hfin h.writePlaces).condFst ?_
    split <;> rename_i e <;> have h1 := Legal.fst e h.engPlaces
    · exact hfin h1.elemWrite
    · exact h1
    · exact h1
    · exact h1
  have hrem : ∀ {s f}, Legal s → Legal (remote s f).1 := fun h => by
    unfold remote
    split
    · exact h
    · exact Legal.pair (h.foldl fun _ _ h => h.cond (h.copyDrop.cond h.commitNode.sendOn.updCopy))
  clear_value fin put remote
  refine ((hrem h).condFst (hput h)).condFst (Legal.condFst ((hrem h.readPlaces).condFst (hput h.readPlaces)) ((hrem h).condFst ?_))
  split <;> rename_i e <;> have h1 := Legal.fst e h.engPlaces
  · split
    rename_i e
    have h2 := Legal.fst e h1.readPlaces
    split
    rename_i e
    exact hput (Legal.fst e (h2.mirrorRead.condFst h2.pair))
  · exact h1
  · exact h1
  · exact h1

theorem Legal.copyRun {id n : Nat} {s : State} (h : Legal s) : Legal (copyRun id n s).1 := by
  induction n generalizing s with
  | zero => exact h
  | succ n ih =>
    unfold Machine.copyRun
    split
    · exact h
    · refine h.pair.condFst ?_
      split
      · rename_i e
        exact ih (Legal.fst e h.copyElem)
      · exact h.copyElem

theorem Legal.wholeLines {s : State} {w : Wg} {c : Copy} {lo hi : Nat} (h : Legal s) : Legal (wholeLines s w c lo hi) :=
  h.cond (h.foldl (fun _ _ h1 => (h1.updCore (fun _ h2 => h2.upd)).cond h1))

theorem Legal.arriveBytes {k o f n : Nat} {s : State} (h : Legal s) : Legal (arriveBytes k o f n s) := by
  induction f generalizing n s with
  | zero => exact h
  | succ f ih => exact h.cond (ih h.barArriveEngine)

theorem Legal.arriveOwed {s : State} {c : Copy} (h : Legal s) : Legal (arriveOwed s c) := by
  unfold Machine.arriveOwed
  refine h.cond (Legal.updCopy ?_)
  split
  · exact h.arriveBytes
  · exact h

theorem Legal.execBarrierEngineArrival {id : Nat} {s : State} (h : Legal s) : OutLegal (execBarrierEngineArrival id s) := by
  unfold Machine.execBarrierEngineArrival
  split
  · exact h.next
  · refine h.next.cond ?_
    extract_lets z
    split
    rename_i e
    have h1 := Legal.fst e h.copyRun
    extract_lets c1 s2 s3 s4 c2
    have h2 : Legal s2 := h1.wholeLines
    have h3 : Legal s3 := h2.updCopy
    have h4 : Legal s4 := by
      unfold s4
      split
      · exact h2.updCopy
      · exact h3.prqHeld.notePaused
      · exact h2
    exact (h4.arriveOwed.cond h4).next

theorem Legal.execCopyFaultPause {id : Nat} {s : State} (h : Legal s) : OutLegal (execCopyFaultPause id s) := by
  unfold Machine.execCopyFaultPause
  split
  · exact h.next
  · have h1 := h.prqHeld (x := s.prqHeld.filter (fun x => x.copy != some id))
    extract_lets s1
    change Legal s1 at h1
    clear_value s1
    split
    · exact h1.next
    · exact h1.prqPost.notePaused.next.cond h1.updCopy.notePaused.next

theorem Legal.execCopyStart {s : State} (h : Legal s) : OutLegal (execCopyStart s) := by
  unfold Machine.execCopyStart
  refine h.next.cond ?_
  split
  · exact h.next
  · exact (((h.cleanCore.cond h).updCopy).notePaused).next

theorem Legal.copyEnd {s : State} {c : Copy} (h : Legal s) : Legal (copyEnd s c) :=
  ((h.updTile.arriveOwed.tileReady.cond h.updTile.arriveOwed.readerDone).upd).notePaused

theorem Legal.execCopyComplete {id : Nat} {s : State} (h : Legal s) : OutLegal (execCopyComplete id s) := by
  unfold Machine.execCopyComplete
  split
  · exact h.next
  · exact h.next.cond (((h.ctlWrite.upd.cond h).copyEnd).next)

theorem Legal.execCopyFail {id : Nat} {s : State} (h : Legal s) : OutLegal (execCopyFail id s) := by
  unfold Machine.execCopyFail
  split
  · exact h.next
  · exact h.next.cond ((((h.updCore (fun _ h1 => h1.upd)).cond h).copyEnd).next)

theorem Legal.execTresume {t : BitVec 8} {s : State} (h : Legal s) : OutLegal (execTresume t s) := h.tileOp (fun _ _ h1 => h1.upd.notePaused)

/-! ### The fabric -/

theorem Legal.remoteLane {c : Ctx} {l n : Nat} {lossTraps : Bool} {va pk off : Nat} {s : State} (h : Legal s) :
    Legal (remoteLane c l n lossTraps va pk off s).1 := by
  unfold Machine.remoteLane
  refine h.condFst (h.condFst (h.condFst ?_))
  split <;> rename_i e <;> have h1 := Legal.fst e h.tokenFor
  · exact h1
  · exact h1
  · exact h1

theorem Legal.countRedFail {s : State} (h : Legal s) : Legal s.countRedFail := h.setReg

theorem Legal.sendGroup {c : Ctx} {op : Nat} {w64 : Bool} {d : Option VReg} {sm : Nat} {ins : List AtomIn} {tok : Nat} {s : State} {g : Nat × Nat × List Nat}
    (h : Legal s) : Legal (sendGroup c op w64 d sm ins tok s g) := by
  unfold Machine.sendGroup
  dsimp only
  split
  · refine h.countRedFail.cond ?_
    split <;> rename_i e <;> have h1 := Legal.fst e h.tokenFor
    · exact h1.sendReq
    · exact h1
  · split <;> rename_i e <;> have h1 := Legal.fst e h.tokenFor
    · exact h1.sendReq
    · exact h1

theorem Legal.remoteBody {c : Ctx} {dst : Option VReg} {a b cc : VReg} {sm hint width scope order k : Nat} (h : Legal c.s) :
    Legal (remoteBody c dst a b cc sm hint width scope order k).s := by
  unfold Machine.remoteBody
  extract_lets w64 n v addr acc g ins s1
  have hg : Legal g.1 := h.gather fun l t h => by
    unfold acc
    refine h.pair.condFst ?_
    split
    · exact h.remoteLane
    · exact h.laneAccess
  refine h.res.condRes ?_
  have h1 : Legal s1 := hg.releaseAt.cond hg
  clear_value s1 g
  split
  extract_lets gs
  split
  rename_i s2 outs e
  have h2 : Legal s2 := Legal.fst e h1.atomSteps
  extract_lets s3 s4 tok s5
  have h3 : Legal s3 := by
    unfold s3
    split
    · exact h2.atomWrite
    · exact h2
  clear_value s3
  have h4 : Legal s4 := h3.cond h3.commitNode
  clear_value s4
  exact Legal.res (h4.foldl fun _ _ h => h.sendGroup)

theorem Legal.execAtomr {d a b : VReg} {la : BitVec 4} {sm : BitVec 3} {hint : BitVec 2} {cc : VReg} {width : BitVec 2} {scope : BitVec 3} {order : BitVec 2}
    {k : BitVec 4} {s : State} (h : Legal s) : OutLegal (execAtomr d a b la sm hint cc width scope order k s) :=
  h.runUnit (fun _ h1 => h1.remoteBody)

theorem Legal.execRed {d a b : VReg} {la : BitVec 4} {sm : BitVec 3} {hint : BitVec 2} {cc : VReg} {width : BitVec 2} {scope : BitVec 3} {order : BitVec 2}
    {k : BitVec 4} {s : State} (h : Legal s) : OutLegal (execRed d a b la sm hint cc width scope order k s) :=
  h.runUnit (fun _ h1 => h1.remoteBody.condRes h1.atomBody)

theorem Legal.execFenceTc {scope : BitVec 3} {s : State} (h : Legal s) : OutLegal (execFenceTc scope s) := h.runUnit (fun _ h1 => h1.condRes h1.releaseAt)

theorem Legal.rangeEntry {s : State} {i : Nat} (h : Legal s) : Legal (rangeEntry s i).1 := h.touch

theorem Legal.ingressCheck {s : State} {pkg ctx : Nat} {token : DWord} {need : Nat} {off : Option Nat} {n : Nat} (h : Legal s) :
    Legal (ingressCheck s pkg ctx token need off n).1 := by
  unfold Machine.ingressCheck
  refine h.condFst ?_
  split <;> rename_i e <;> have h1 := Legal.fst e h.rangeEntry
  · exact h1
  · refine h1.condFst (h1.condFst (h1.condFst ?_))
    split
    · exact h1
    · exact h1.condFst h1

theorem Legal.refuse {s : State} {port reason : Nat} (h : Legal s) : Legal (s.refuse port reason) := h.setReg.countPort

theorem Legal.refuseGone {s : State} (h : Legal s) : Legal s.refuseGone := h.setReg

theorem Legal.performReq {s : State} {pkg : Nat} {k : ReqKind} {pa key : Nat} (h : Legal s) : Legal (performReq s pkg k pa key).1 := by
  unfold Machine.performReq
  dsimp only
  split
  · exact h.touch
  · exact h.writeBytes
  · exact h.dirCount.touch.countSlice.writeBytes
  · exact h.dirCount.touch.countSlice.condFst (h.dirCount.touch.countSlice.writeBytes.cond h.dirCount.touch.countSlice)
  · exact h

theorem Legal.respond {s : State} {vc pkg seq : Nat} {a : RemoteResp} (h : Legal s) : Legal (s.respond vc pkg seq a) := h.upd.send

theorem Legal.execRemoteRequestIngress {r : RemoteReq} {s : State} (h : Legal s) : OutLegal (execRemoteRequestIngress r s) := by
  unfold Machine.execRemoteRequestIngress
  split
  · exact h.next
  · refine h.refuseGone.send.next.cond ?_
    split
    · exact h.send.next
    · split <;> rename_i e <;> have h1 := Legal.fst e h.ingressCheck
      · exact h1.refuse.respond.next
      · exact h1.performReq.respond.next

theorem Legal.endAtomr {s : State} {core slot tok : Nat} (h : Legal s) : Legal (s.endAtomr core slot tok) := h.cond h.updPack

theorem Legal.atomrAnswer {s : State} {core slot tok depth d : Nat} {w64 : Bool} {op : Nat} {lanes : List Nat} {vals : List DWord} {psns : List Bool}
    {sm : Nat} {tr : Trap}
    {a : RemoteResp} (h : Legal s) : Legal (atomrAnswer s core slot tok depth d w64 op lanes vals psns sm tr a) := by
  unfold Machine.atomrAnswer
  refine h.cond (Legal.endAtomr ?_)
  cases a with
  | old v psn ok =>
    refine h.raise.cond ?_
    extract_lets _ pre _
    dsimp only
    refine Legal.cond (Legal.updPack ?_) ?_
    · exact h.packMirror.updPack
    · exact h.packMirror.updPack
  | token => exact h.raise
  | gone => exact h.raise
  | data _ _ => exact h
  | _ => exact h

theorem Legal.copyAnswer {s : State} {id target : Nat} {req : ReqKind} {a : RemoteResp} (h : Legal s) : Legal (copyAnswer s id target req a) := by
  unfold Machine.copyAnswer
  split
  · exact h
  · extract_lets +onlyGivenNames s1
    have h1 : Legal s1 := h.upd
    clear_value s1
    extract_lets +onlyGivenNames s2
    have h2 : Legal s2 := by
      unfold s2
      split
      · exact h1.copyDrop
      · exact h1.copyDrop
      · exact h1
    clear_value s2
    dsimp only
    split
    · exact h2
    · refine h2.cond ?_
      split
      · exact h2.mirrorRead.writePlaces.setCopy.count
      · exact h2.setCopy.count
      · exact h2.setCopy.count
      · exact h2

theorem Legal.launchReq {s : State} {id : Nat} {again : Bool} (h : Legal s) : Legal (s.launchReq id again) := by
  unfold State.launchReq
  split
  · exact h
  · exact h.upd.send.cond h.upd

theorem Legal.deliver {s : State} {r : Remote} {a : RemoteResp} (h : Legal s) : Legal (s.deliver r a) := by
  unfold State.deliver
  split
  · exact h.atomrAnswer
  · split
    · exact h.countRedFail
    · exact h.countRedFail
    · exact h
  · exact h.copyAnswer
  · exact h.cond h.upd

theorem Legal.answer {s : State} {id : Nat} {a : RemoteResp} (h : Legal s) : Legal (s.answer id a) := by
  unfold State.answer
  split
  · exact h
  · exact (h.upd.foldl (fun _ _ h1 => h1.launchReq)).deliver

theorem Legal.execRemoteResponse {id : Nat} {a : RemoteResp} {s : State} (h : Legal s) : OutLegal (execRemoteResponse id a s) := by
  unfold Machine.execRemoteResponse
  split
  · exact h.next
  · exact (h.cond h.answer).next

theorem Legal.ctlPerform {s : State} {r : CtlReq} (h : Legal s) : Legal (ctlPerform s r).1 := by
  unfold Machine.ctlPerform
  extract_lets a
  split
  · exact h.touch
  · exact h.writeBytes
  · extract_lets n
    split
    rename_i s1 a1 e
    have h1 : Legal s1 := Legal.fst e (by
      split
      · exact h.placement
      · exact h.dirCount
      · exact h.dirCount)
    exact Legal.pair (h1.touch.writeBytes.cond h1.touch)

theorem Legal.ctlServe {s : State} {r : CtlReq} (h : Legal s) : Legal (ctlServe s r) := by
  unfold Machine.ctlServe
  dsimp only
  split
  · exact h.ctlPerform.upd.send.cond h.ctlPerform.upd
  · exact h.ctlPerform.send

theorem Legal.serveHeld {s : State} (h : Legal s) : Legal s.serveHeld := h.foldl (fun _ _ h1 => h1.cond h1.upd.ctlServe)

theorem Legal.execControlRequest {r : CtlReq} {s : State} (h : Legal s) : OutLegal (execControlRequest r s) := by
  unfold Machine.execControlRequest
  refine h.next.cond ?_
  split
  · refine h.refuseGone.send.next.cond ?_
    split
    · exact h.send.next
    · exact ((h.cond h.upd).next).cond h.ctlServe.next
  · exact h.ctlServe.next

theorem Legal.execMirrorUpdate {m : MirrorMsg} {bytes : List Byte} {s : State} (h : Legal s) : OutLegal (execMirrorUpdate m bytes s) := by
  unfold Machine.execMirrorUpdate
  split
  · exact h.next.cond (((h.foldl (fun _ _ h1 => h1.ownLine)).foldl (fun _ _ h1 => h1.setRaw)).next)
  · exact h.upd.serveHeld.next
  · exact h.next.cond h.upd.next

theorem Legal.declareLost {s : State} {n : Nat} (h : Legal s) : Legal (s.declareLost n) := by
  unfold State.declareLost
  refine h.cond ?_
  extract_lets s1 s2 s3 s4 s5 out
  have h3 : Legal s3 := Legal.packs (h.lost.foldl fun _ _ h => h.send.countPort)
  clear_value s3
  have h4 : Legal s4 := h3.cond h3.unmirrored
  clear_value s4
  have h5 : Legal s5 := h4.mirrorPend.serveHeld.cond h4
  clear_value s5
  exact h5.remotes.foldl fun _ _ h => h.deliver

theorem Legal.execLossNotice {n : Nat} {s : State} (h : Legal s) : OutLegal (execLossNotice n s) := h.declareLost.next

theorem Legal.execFabLossTo {id : Nat} {s : State} (h : Legal s) : OutLegal (execFabLossTo id s) := by
  unfold Machine.execFabLossTo
  split
  · exact h.next
  · exact h.next.cond (h.declareLost.next.cond ((h.upd.send.cond h.upd).next))

theorem Legal.execPeerClr {v : DWord} {s : State} (h : Legal s) : OutLegal (execPeerClr v s) := (h.setReg.upd.cond h.setReg).next

theorem Legal.portDown {s : State} {p : Nat} (h : Legal s) : Legal (s.portDown p) := h.setReg.foldl (fun _ _ h1 => h1.launchReq)

theorem Legal.execLinkCrcError {port : Nat} {s : State} (h : Legal s) : OutLegal (execLinkCrcError port s) :=
  h.next.cond (h.setReg.setReg.countPort.upd.next.cond h.countUE.portDown.upd.next)

theorem Legal.execPortTrained {port : Nat} {s : State} (h : Legal s) : OutLegal (execPortTrained port s) :=
  h.next.cond ((h.setReg.upd.foldl (fun _ _ h1 => h1.launchReq)).next)

theorem Legal.execLinkRekey {_port _vc : Nat} {s : State} (h : Legal s) : OutLegal (execLinkRekey _port _vc s) := h.next

theorem Legal.execPortDisable {port : Nat} {b : Bool} {s : State} (h : Legal s) : OutLegal (execPortDisable port b s) :=
  h.next.cond ((h.setReg.portDown.upd.cond h.setReg).next)

theorem Legal.mintWrite {v : Nat} {s : State} (h : Legal s) : Legal (mintWrite v s) := by
  unfold Machine.mintWrite
  extract_lets s1 s2
  have h1 : Legal s1 := h.setReg
  have h2 : Legal s2 := h1.tokenKey.cond h1
  clear_value s1 s2
  exact h2.setReg.cond h1

theorem Legal.execMint {v : DWord} {s : State} (h : Legal s) : OutLegal (execMint v s) := h.mintWrite.next

theorem Legal.execRoll {v : DWord} {s : State} (h : Legal s) : OutLegal (execRoll v s) := h.mintWrite.next

theorem Legal.execPlaneBwWindow {credits : List Nat} {s : State} (h : Legal s) : OutLegal (execPlaneBwWindow credits s) := h.upd.next

/-! ### Collectives -/

theorem Legal.collMembers {s : State} {ctx : Nat} {q : CRec} (h : Legal s) : Legal (collMembers s ctx q).1 := by
  unfold Machine.collMembers
  refine Legal.foldlFst h fun r x h => ?_
  split
  · refine h.pair.condFst ?_
    split <;> rename_i e <;> have h1 := Legal.fst e h.tableRead
    · exact h1.pair.condFst h1.pair
    · exact h1
  · exact h

theorem Legal.updColl {s : State} {id : Nat} {f : Coll → Coll} (h : Legal s) : Legal (s.updColl id f) := h.colls

theorem Legal.collCause {s : State} {id n : Nat} (h : Legal s) : Legal (s.collCause id n) := h.updColl

theorem Legal.collEndNow {s : State} {id n : Nat} (h : Legal s) : Legal (s.collEndNow id n) := h.collCause.updColl

theorem Legal.collPlaces {s : State} {c : Coll} {va n : Nat} {wr : Bool} (h : Legal s) : Legal (collPlaces s c va n wr).1 := h.transRange

theorem Legal.collFault {s : State} {c : Coll} {img : FaultImg} (h : Legal s) : Legal (s.collFault c img) := h.prqPost.cond h.collEndNow

theorem Legal.stageRead {s : State} {c : Coll} {slot n : Nat} (h : Legal s) : Legal (stageRead s c slot n).1 := by
  unfold Machine.stageRead
  split <;> rename_i e <;> have h1 := Legal.fst e h.collPlaces
  · exact h1.readPlaces
  · exact h1.collEndNow

theorem Legal.stageWrite {s : State} {c : Coll} {slot : Nat} {bs : List Byte} {psn : Bool} (h : Legal s) : Legal (stageWrite s c slot bs psn).1 := by
  unfold Machine.stageWrite
  split <;> rename_i e <;> have h1 := Legal.fst e h.collPlaces
  · exact h1.writePlaces
  · exact h1.collEndNow

theorem Legal.collArrive {s : State} {c : Coll} (h : Legal s) : Legal (collArrive s c) := by
  unfold Machine.collArrive
  refine h.cond (Legal.updColl ?_)
  split
  · exact h.arriveBytes
  · exact h

theorem Legal.collTokens {s : State} {ctx : Nat} {ms : List Nat} (h : Legal s) : Legal (collTokens s ctx ms).1 := by
  unfold Machine.collTokens
  refine Legal.foldlFst h fun r x h => ?_
  split
  · refine h.pair.condFst ?_
    split <;> rename_i e <;> exact Legal.fst e h.tableRead
  · exact h

theorem Legal.collSend {id k : Nat} {bs : List Byte} {psn : Bool} {missing : List Nat} {phase : Nat} {s : State} {x : Nat} (h : Legal s) :
    Legal (collSend id k bs psn missing phase s x) := by
  unfold Machine.collSend
  split
  · exact h
  · exact h.collCause.cond h.sendReq

theorem Legal.collOperands {s : State} {c : Coll} {k : Nat} {x : CollStep} (h : Legal s) : Legal (collOperands s c k x).1 := by
  unfold Machine.collOperands
  extract_lets own slots
  have h1 : Legal (s, some ([] : List (List Byte × Bool))).1 := h
  generalize e : List.foldl _ _ slots = p
  have h2 : Legal p.1 := by
    subst e
    refine h1.foldlFst fun r i h => ?_
    split
    · split <;> rename_i e <;> exact Legal.fst e h.stageRead
    · exact h
  split
  · exact h2
  · exact h2

theorem Legal.collFinish {s : State} {id k : Nat} (h : Legal s) : Legal (collFinish s id k) := by
  unfold Machine.collFinish
  split
  · exact h
  · dsimp only
    split <;> rename_i e <;> have h1 := Legal.fst e h.collOperands
    · exact h1
    · refine Legal.cond ?_ ?_
      · split <;> rename_i e1 <;> have h2 := Legal.fst e1 h1.collPlaces
        · exact h2.writePlaces.collArrive.updColl.updColl.foldl (fun _ _ h3 => h3.collSend)
        · exact h2.collFault
        · exact h2.collEndNow
      · split <;> rename_i e1 <;> have h2 := Legal.fst e1 h1.stageWrite
        · exact h2.updColl.foldl (fun _ _ h3 => h3.collSend)
        · exact h2

theorem Legal.collAdvance {s : State} {id k : Nat} (h : Legal s) : Legal (collAdvance s id k) := by
  unfold Machine.collAdvance
  split
  · exact h
  · exact h.collFinish.cond h

theorem Legal.collTake {s : State} {c : Coll} {ch : Chunk} (h : Legal s) : Legal (collTake s c ch).1 := by
  unfold Machine.collTake
  refine h.condFst (h.updColl.condFst (h.condFst ?_))
  dsimp only
  split
  · exact h
  · split <;> rename_i e <;> have h1 := Legal.fst e h.stageWrite
    · exact h1
    · exact h1.updColl.collAdvance

theorem Legal.collJudge {s : State} {c : Coll} {ch : Chunk} (h : Legal s) : Legal (collJudge s c ch).1 :=
  (h.condFst (h.condFst h.collTake)).condFst (h.condFst h.updColl)

theorem Legal.collMismatch {s : State} {c : Coll} (h : Legal s) : Legal (collMismatch s c) := h.collEndNow.foldl (fun _ _ h1 => h1.send)

theorem Legal.stageCovered {s : State} {c : Coll} {token : DWord} (h : Legal s) : Legal (stageCovered s c token).1 := by
  unfold Machine.stageCovered
  split <;> rename_i e <;> have h1 := Legal.fst e h.rangeEntry
  · exact h1
  · exact h1

theorem Legal.collGive {s : State} {c : Coll} {h' : HeldChunk} (h : Legal s) : Legal (collGive s c h') := by
  unfold Machine.collGive
  refine Legal.cond ?_ ?_
  · dsimp only
    split <;> rename_i e <;> have h1 := Legal.fst e h.collJudge
    · exact h1.upd
    · exact h1.upd.collMismatch
    · exact h1.upd
  · split <;> rename_i e <;> have h1 := Legal.fst e h.stageCovered
    · exact h1.upd.refuse.respond
    · dsimp only
      split <;> rename_i e1 <;> have h2 := Legal.fst e1 h1.respond.collJudge
      · exact h2.upd
      · exact h2.upd.collMismatch
      · exact h2.upd

theorem Legal.collPump {s : State} {group : Nat} (h : Legal s) : Legal (collPump s group) := by
  unfold Machine.collPump
  refine h.foldl ?_
  intro _ _ h1
  split
  · exact h1
  · exact h1.collGive

theorem Legal.execColl {base bar : BitVec 5} {la : BitVec 4} {rec : BitVec 16} {s : State} (h : Legal s) : OutLegal (execColl base bar la rec s) :=
  h.runUnit (fun _ h1 => h1.updPack)

theorem Legal.makeSplit {s : State} {q : CRec} (h : Legal s) : Legal (makeSplit s q).1 := by
  unfold Machine.makeSplit
  dsimp only
  split
  · exact h
  · exact h.draw

theorem Legal.execCollAccept {core slot : Nat} {s : State} (h : Legal s) : OutLegal (execCollAccept core slot s) := by
  unfold Machine.execCollAccept
  extract_lets p
  split
  · exact h.next
  · extract_lets pop bad wait other
    have hpop : ∀ {s}, Legal s → Legal (pop s) := fun h => h.updPack
    have hbad : ∀ {s k d}, Legal s → OutLegal (bad s k d) := fun h => (hpop h).reqTrap.next
    have hother : ∀ {s e}, Legal s → OutLegal (other s e) := fun {s e} h => by
      cases e with
      | trap k d => exact hbad h
      | fault img => exact (hpop h).reqFault.next
      | ok _ => exact h.next
    clear_value pop bad wait other
    refine h.next.cond ?_
    split <;> rename_i e <;> have h1 := Legal.fst e h.recordRead
    · refine (hbad h1).cond ((hbad h1).cond ?_)
      split <;> rename_i e <;> have h2 := Legal.fst e h1.collMembers
      · exact hother h2
      · exact hbad h2
      · refine (hbad h2).cond ?_
        split <;> rename_i e <;> have h3 := Legal.fst e h2.collTokens
        · exact hother h3
        · extract_lets key seq
          split
          rename_i id s4 e
          have h4 : Legal s4 := Legal.snd e h3.fresh
          extract_lets s5 s6 c s7
          have h6 : Legal s6 := (hpop h4).commitNode.cleanCore.updPack
          clear_value s6
          have h7 : Legal s7 := h6.upd
          clear_value s7
          exact OutLegal.cond (Legal.updColl (h7.makeSplit.foldl fun _ _ h => h.send)).collPump.next h7.next
    · exact hother h1

theorem Legal.execCollSplit {id : Nat} {shares : List Nat} {s : State} (h : Legal s) : OutLegal (execCollSplit id shares s) := by
  unfold Machine.execCollSplit
  split
  · exact h.next
  · exact h.next.cond h.updColl.collPump.next

theorem Legal.execCollContributionRead {id k : Nat} {s : State} (h : Legal s) : OutLegal (execCollContributionRead id k s) := by
  unfold Machine.execCollContributionRead
  split
  · exact h.next
  · refine h.next.cond ?_
    split <;> rename_i e <;> have h1 := Legal.fst e h.collPlaces
    · exact h1.readPlaces.updColl.collAdvance.next
    · exact h1.collFault.next
    · exact h1.collEndNow.next

theorem Legal.execCollChunk {pkg ctx rseq : Nat} {token : DWord} {ch : Chunk} {s : State} (h : Legal s) : OutLegal (execCollChunk pkg ctx rseq token ch s) := by
  unfold Machine.execCollChunk
  refine h.refuseGone.send.next.cond ?_
  split
  · exact h.send.next
  · refine h.next.cond ?_
    dsimp only
    split <;> rename_i e <;> have h1 := Legal.fst e h.ingressCheck
    · exact h1.refuse.respond.next
    · split
      · split <;> rename_i e1 <;> have h2 := Legal.fst e1 h1.respond.collJudge
        · exact h2.upd.next
        · exact h2.collMismatch.next
        · exact h2.collPump.next
      · split
        · exact h1.upd.respond.next.cond h1.upd.next
        · exact h1.upd.next

theorem Legal.execCollReduceComplete {id k : Nat} {s : State} (h : Legal s) : OutLegal (execCollReduceComplete id k s) := by
  unfold Machine.execCollReduceComplete
  split
  · exact h.next
  · exact h.next.cond h.collFinish.collPump.next

theorem Legal.execCollStepTimeout {id k : Nat} {s : State} (h : Legal s) : OutLegal (execCollStepTimeout id k s) := by
  unfold Machine.execCollStepTimeout
  split
  · exact h.next
  · exact h.next.cond h.updColl.collCause.collAdvance.next

theorem Legal.execCollMismatchNotice {id : Nat} {s : State} (h : Legal s) : OutLegal (execCollMismatchNotice id s) := h.collEndNow.next

theorem Legal.digPlaces {s : State} {c : Coll} {va : Nat} {wr : Bool} (h : Legal s) : Legal (digPlaces s c va wr).1 := by
  unfold Machine.digPlaces
  dsimp only
  split
  · exact h.transRange
  · exact h.transRange
  · exact h

theorem Legal.collDigests {c : Coll} {rs : List Nat} {s : State} {ch : List Nat} (h : Legal s) : Legal (collDigests c rs s ch).1 := by
  induction rs generalizing s ch with
  | nil => exact h
  | cons rank rest ih =>
    unfold Machine.collDigests
    split <;> rename_i e <;> have h1 := Legal.fst e h.collPlaces
    · dsimp only
      split <;> rename_i e <;> have h2 := Legal.fst e h1.readPlaces.digPlaces
      · exact Legal.condFst (ih h2.writePlaces) (ih h2.readPlaces)
      · exact ih h2.collCause
    · exact h1.collFault
    · exact ih h1.collCause

theorem Legal.execCollEnd {id : Nat} {s : State} (h : Legal s) : OutLegal (execCollEnd id s) := by
  unfold Machine.execCollEnd
  split
  · exact h.next
  · extract_lets waiting q dig
    refine h.next.cond ?_
    split
    · rename_i e
      exact (Legal.fst e (Legal.condFst h.collDigests h.pair)).next
    · rename_i s1 chg e
      have h1 : Legal s1 := Legal.fst e (Legal.condFst h.collDigests h.pair)
      extract_lets causes st map hw bm va
      split
      rename_i e
      have h2 := Legal.fst e h1.ctlWrite
      split
      rename_i e
      have h3 := Legal.fst e h2.ctlWrite
      extract_lets s4 s5 s6 live s7 s8 _
      have h4 : Legal s4 := h3.recCache
      clear_value s4
      have h6 : Legal s6 := h4.collArrive.colls
      clear_value s6
      have h8 : Legal s8 := (h6.updPack.cond h6).ctxSettle
      clear_value s8
      exact h8.raise.next.cond h8.next

/-! ### Launches and workgroups -/

theorem Legal.execLaunchQtailWrite {q : Nat} {v : DWord} {s : State} (h : Legal s) : OutLegal (execLaunchQtailWrite q v s) := (h.cond h.setReg).next

theorem Legal.execQbaseWrite {q : Nat} {v : DWord} {s : State} (h : Legal s) : OutLegal (execQbaseWrite q v s) := (h.cond h.setReg).next

theorem Legal.readRec {s : State} {ctx va : Nat} (h : Legal s) : Legal (readRec s ctx va).1 := by
  unfold Machine.readRec
  split <;> rename_i e <;> have h1 := Legal.fst e h.tableRead
  · exact h1
  · exact h1
  · exact h1

theorem Legal.readWords {s : State} {ctx va n : Nat} (h : Legal s) : Legal (readWords s ctx va n).1 := h.condFst h.tableRead

theorem Legal.readLists {s : State} {ctx : Nat} {x : LRead} {node : Bool} (h : Legal s) : Legal (readLists s ctx x node).1 := by
  unfold Machine.readLists
  dsimp only
  split <;> rename_i e <;> have h1 := Legal.fst e h.readWords
  · exact h1
  · exact h1
  · split <;> rename_i e1 <;> have h2 := Legal.fst e1 h1.readWords
    · exact h2
    · exact h2
    · exact h2

theorem Legal.takeSeq {s : State} {q : Nat} (h : Legal s) : Legal (s.takeSeq q).1 := h.setReg

theorem Legal.accept {s : State} {ctx va : Nat} {b : SubBy} {node : Bool} {x : LRead} (h : Legal s) : Legal (s.accept ctx va b node x).1 :=
  h.takeSeq.fresh.upd.setCtxState.cond h.takeSeq.fresh.upd

theorem Legal.reject {s : State} {ctx va q : Nat} {by_ : Option (Nat × Nat)} {seq : Option Nat} {r : LRec} {status : Nat} (h : Legal s) :
    Legal (s.reject ctx va q by_ seq r status) :=
  h.fresh.upd

theorem Legal.depsPlaces {s : State} {ctx va : Nat} (h : Legal s) : Legal (depsPlaces s ctx va).1 := h.transRange

theorem Legal.decrement {s : State} {ctx va : Nat} {b : SubBy} {armed fail : Bool} (h : Legal s) : Legal (decrement s ctx va b armed fail).1 := by
  unfold Machine.decrement
  refine h.pair.condFst ?_
  have h1 : Legal (Machine.readRec s ctx va).1 := h.readRec
  split
  rename_i e
  replace h1 := Legal.fst e h1
  split
  · exact h1
  · exact h1
  · refine h1.pair.condFst ?_
    split <;> rename_i e <;> have h2 := Legal.fst e h1.depsPlaces
    · exact h2.pair.condFst h2.pair
    · extract_lets old
      refine h2.pair.condFst (Legal.condFst (h2.pair.condFst h2.writePlaces.pair) ?_)
      split
      rename_i e
      have h3 := Legal.fst e h2.readLists
      split
      · exact h3
      · extract_lets s4
        have h4 : Legal s4 := h3.cond h3.writePlaces
        clear_value s4
        split
        · exact h4.pair.condFst (h4.pair.condFst h4.accept.pair)
        · exact h4
    · exact h2

theorem Legal.afterDecrement {s : State} {ctx va : Nat} {by_ : Option (Nat × Nat)} {st : Nat} {ran : Bool} {r : Option LRec} (h : Legal s) :
    Legal (s.afterDecrement ctx va by_ st ran r) :=
  h.reject.cond h

theorem Legal.launchEnd {c : Ctx} {s : State} {st status seq : Nat} (h : Legal s) : Legal (launchEnd c s st status seq).s := h.updPack.condRes (h.condRes h)

theorem Legal.launchWait {c : Ctx} {s : State} {img : FaultImg} (h : Legal s) : Legal (launchWait c s img).s := h

theorem Legal.gridSubmit {s : State} {ctx va : Nat} {b : SubBy} {fail : Bool} (h : Legal s) : Legal (gridSubmit s ctx va b fail).1 := by
  unfold Machine.gridSubmit
  refine h.pair.condFst ?_
  split
  rename_i e
  have h1 := Legal.fst e h.readRec
  split
  · exact h1
  · exact h1
  · split
    rename_i e
    have h2 := Legal.fst e h1.readLists
    split
    · exact h2
    · exact h2.pair.condFst h2.accept.pair
    · exact h2

theorem Legal.launchBody {c : Ctx} {va st : Nat} {sub : State → Bool → State × NodeRes} (h : Legal c.s) (hsub : ∀ x1 x2, Legal x1 → Legal (sub x1 x2).1) :
    Legal (launchBody c va st sub).s := by
  unfold Machine.launchBody
  dsimp only
  split <;> rename_i e <;> have h1 := Legal.fst e (hsub _ _ h.commitNode.releaseAt)
  · exact h1.launchWait
  · exact h1.afterDecrement.launchEnd
  · exact h1.launchEnd

theorem Legal.execLaunchGrid {r st : BitVec 5} {la : BitVec 4} {s : State} (h : Legal s) : OutLegal (execLaunchGrid r st la s) :=
  h.runUnit (fun _ h1 => h1.launchBody (fun _ _ h2 => h2.gridSubmit))

theorem Legal.execLaunchNode {r st : BitVec 5} {la : BitVec 4} {s : State} (h : Legal s) : OutLegal (execLaunchNode r st la s) :=
  h.runUnit (fun _ h1 => h1.launchBody (fun _ _ h2 => h2.decrement))

theorem Legal.readerFault {s : State} {key ctx : Nat} {img : FaultImg} (h : Legal s) : Legal (s.readerFault key ctx img) := h.prqPost.cond h.upd

theorem Legal.qAdvance {s : State} {q : Nat} (h : Legal s) : Legal (s.qAdvance q) := h.setReg.upd

theorem Legal.ringReject {s : State} {ctx va q : Nat} {r : LRec} {status : Nat} (h : Legal s) : Legal (ringReject s ctx va q r status) :=
  h.takeSeq.reject.qAdvance

theorem Legal.ringGrid {s : State} {q ctx va : Nat} {resv : Bool} (h : Legal s) : Legal (ringGrid s q ctx va resv) := by
  unfold Machine.ringGrid
  refine h.ringReject.cond ?_
  dsimp only
  split
  · exact h.readRec.readerFault
  · exact h.readRec.ringReject
  · split
    · exact h.readRec.readLists.readerFault
    · exact h.readRec.readLists.ringReject.cond h.readRec.readLists.accept.qAdvance
    · exact h.readRec.readLists.ringReject

theorem Legal.ringNode {s : State} {q ctx va : Nat} {resv : Bool} (h : Legal s) : Legal (ringNode s q ctx va resv) := by
  unfold Machine.ringNode
  refine h.reject.qAdvance.cond ?_
  split <;> rename_i e <;> have h1 := Legal.fst e h.decrement
  · exact h1.readerFault
  · exact h1.upd
  · exact (h1.reject.cond h1).qAdvance

theorem Legal.ringEntry {s : State} {q ctx va kind : Nat} {resv : Bool} (h : Legal s) : Legal (ringEntry s q ctx va kind resv) :=
  h.ringGrid.cond (h.ringNode.cond h.reject.qAdvance)

theorem Legal.execLaunchEntryRead {q : Nat} {s : State} (h : Legal s) : OutLegal (execLaunchEntryRead q s) := h.next.cond h.touch.ringEntry.next

theorem Legal.execNodeRelease {uid : Nat} {s : State} (h : Legal s) : OutLegal (execNodeRelease uid s) := by
  unfold Machine.execNodeRelease
  split
  · exact h.next
  · dsimp only
    split
    · exact h.upd.next
    · refine h.next.cond ?_
      split <;> rename_i e <;> have h1 := Legal.fst e h.decrement
      · exact h1.readerFault.next
      · exact h1.upd.next
      · exact h1.afterDecrement.upd.next

theorem Legal.prepSpad {s : State} {c way ways split : Nat} (h : Legal s) : Legal (s.prepSpad c way ways split) :=
  ((h.dropWays.cond (h.zeroSpad.cond h)).zeroSpad).updCore (fun _ h1 => h1.upd)

theorem Legal.copyArgs {s : State} {c ctx va arg0 n : Nat} (h : Legal s) : Legal (s.copyArgs c ctx va arg0 n) := by
  unfold State.copyArgs
  extract_lets s1
  have h1 : Legal s1 := h.updCore fun k hk => { hk with args := Memory.wf_filter _ _ hk.args }
  clear_value s1
  refine h1.foldl fun t i h => ?_
  split <;> rename_i e <;> have h1 := Legal.fst e h.ctlRead
  · exact h1.updCore fun k hk => { hk with args := setCanon_wf _ _ _ hk.args }
  · exact h1.updCore fun _ hk => hk.upd

theorem CoreLegal.setTiles {k : Core} {tile0 : Nat} {tiles : List (Nat × Nat)} (h : CoreLegal k) : CoreLegal (k.setTiles tile0 tiles) := h.upd

theorem CoreLegal.holdMx {k : Core} {wg : Nat} (h : CoreLegal k) : CoreLegal (k.holdMx wg) := { h with acc := fun _ ha => by cases ha }

theorem Legal.startWg {s : State} {l : Launch} {i c : Nat} {f : Fit} (h : Legal s) : Legal (s.startWg l i c f) :=
  ((h.fresh.prepSpad.copyArgs.updCore (fun _ h1 => h1.setTiles.holdMx.cond h1.setTiles)).wgs).foldl (fun _ _ h1 => h1.allocRun.packs)

theorem Legal.execWorkgroupPlace {s : State} (h : Legal s) : OutLegal (execWorkgroupPlace s) := by
  unfold Machine.execWorkgroupPlace
  split
  · exact h.next
  · exact (h.startWg.upd.setCtxState.cond h.startWg.upd).next

theorem Legal.execPriorityStarvation {uid : Nat} {s : State} (h : Legal s) : OutLegal (execPriorityStarvation uid s) := (h.upd.cond h).next

theorem Legal.endWg {s : State} {id : Nat} (h : Legal s) : Legal (s.endWg id) :=
  (((h.foldl (fun _ _ h1 => h1.barExit)).freeWg).upd).cond (((h.foldl (fun _ _ h1 => h1.barExit)).freeWg).upd)

theorem Legal.schedStore {s : State} {ctx va v : Nat} (h : Legal s) : Legal (s.schedStore ctx va v).1 := (h.foldl (fun _ _ h1 => h1.wbLine)).ctlWrite

theorem Legal.reportList {us : List Nat} {s : State} (h : Legal s) : Legal (reportList s us) := by
  induction us generalizing s with
  | nil => exact h
  | cons u us ih =>
    unfold Machine.reportList
    refine Legal.cond (ih h) ?_
    extract_lets l n s1
    have h1 : Legal s1 := by
      refine h.cond (h.launches.cond ?_)
      split <;> rename_i e <;> have h1 := Legal.fst e h.launches.schedStore
      · exact h1
      · exact h1.launches
    clear_value s1
    exact h1.cond (ih h1)

theorem Legal.execWorkgroupFinish {uid idx : Nat} {s : State} (h : Legal s) : OutLegal (execWorkgroupFinish uid idx s) := by
  unfold Machine.execWorkgroupFinish
  split
  · exact h.next
  · exact h.next.cond h.endWg.reportList.next

theorem Legal.writeDone {s : State} {l : Launch} (h : Legal s) : Legal (s.writeDone l) := by
  unfold State.writeDone
  extract_lets s1
  have h1 : Legal s1 := h.dropProv.cond h
  clear_value s1
  split
  rename_i s2 st e
  have h2 : Legal s2 := Legal.fst e <| Legal.condFst (by split <;> rename_i e <;> exact Legal.fst e h1.schedStore) h1.pair
  split
  rename_i s3 st' e
  have h3 : Legal s3 := Legal.fst e <| h2.pair.condFst (by split <;> rename_i e <;> exact Legal.fst e h2.schedStore)
  exact (h3.cond h3.setReg).upd

theorem Legal.closeLaunch {s : State} {l : Launch} (h : Legal s) : Legal (s.closeLaunch l) := by
  unfold State.closeLaunch
  extract_lets a s0 s1 s2 s3 s4
  have h0 : Legal s0 := h.setReg
  clear_value s0
  have h1 : Legal s1 := h0.order.cond h
  clear_value s1
  have h2 : Legal s2 := by
    refine Legal.cond ?_ h1
    split
    rename_i e
    exact (Legal.snd e h1.fresh).releases
  clear_value s2
  have h3 : Legal s3 := h2.send.cond h2
  clear_value s3
  have h4 : Legal s4 := by
    unfold s4
    split
    · exact h3.updPack
    · exact h3
  clear_value s4
  exact Legal.ctxSettle h4.upd

theorem Legal.execLaunchComplete {uid : Nat} {s : State} (h : Legal s) : OutLegal (execLaunchComplete uid s) := by
  unfold Machine.execLaunchComplete
  split
  · exact h.next
  · exact h.next.cond ((((h.cond h.writeDone).closeLaunch).cond (h.cond h.writeDone)).next)

theorem Legal.dropWg {s : State} {id : Nat} (h : Legal s) : Legal (s.dropWg id) := (h.upd.updCore (fun _ h1 => h1.upd)).freeWg

theorem Legal.execNodeDiscard {uid : Nat} {s : State} (h : Legal s) : OutLegal (execNodeDiscard uid s) := by
  unfold Machine.execNodeDiscard
  split
  · exact h.next
  · dsimp only
    exact h.next.cond (h.killCtx.next.cond ((((((h.foldl (fun _ _ h1 => h1.dropWg)).restoreProv).setReg).ctlWrite).upd).next))

/-! ### Floating point -/

theorem Legal.flt2 {i : Instr} {d a b : VReg} {t : BitVec 4} {k : ShKind} {f : Fmt → Nat → Nat → Nat → Nat × Nat} {s : State} (h : Legal s) :
    OutLegal (flt2 i d a b t k f s) :=
  h.runUnit (fun _ h1 => h1.vopF)

theorem Legal.execFadd {p : Option Pfx} {d a b : VReg} {t : BitVec 4} {s : State} (h : Legal s) : OutLegal (execFadd p d a b t s) := h.flt2

theorem Legal.execFsub {p : Option Pfx} {d a b : VReg} {t : BitVec 4} {s : State} (h : Legal s) : OutLegal (execFsub p d a b t s) := h.flt2

theorem Legal.execFmul {p : Option Pfx} {d a b : VReg} {t : BitVec 4} {s : State} (h : Legal s) : OutLegal (execFmul p d a b t s) := h.flt2

theorem Legal.execFfma {p : Option Pfx} {d a b : VReg} {t : BitVec 4} {s : State} (h : Legal s) : OutLegal (execFfma p d a b t s) :=
  h.runUnit (fun _ h1 => h1.vopF)

theorem Legal.execFmin {p : Option Pfx} {d a b : VReg} {t : BitVec 4} {s : State} (h : Legal s) : OutLegal (execFmin p d a b t s) := h.flt2

theorem Legal.execFmax {p : Option Pfx} {d a b : VReg} {t : BitVec 4} {s : State} (h : Legal s) : OutLegal (execFmax p d a b t s) := h.flt2

theorem Legal.execFminp {p : Option Pfx} {d a b : VReg} {t : BitVec 4} {s : State} (h : Legal s) : OutLegal (execFminp p d a b t s) := h.flt2

theorem Legal.execFmaxp {p : Option Pfx} {d a b : VReg} {t : BitVec 4} {s : State} (h : Legal s) : OutLegal (execFmaxp p d a b t s) := h.flt2

theorem Legal.mopF {c : Ctx} {m : Nat} {us : List VUse} {f : Nat → Bool × Nat} (h : Legal c.s) : Legal (mopF c m us f).s := by
  unfold Machine.mopF
  extract_lets checked word main bad hold r
  have h1 : Legal r.s := Legal.mop (c := { c with act := c.act &&& ~~~hold }) h
  clear_value r
  exact h1.ctx_noteShadow.res

theorem Legal.execFcmp {p : Option Pfx} {m : BitVec 3} {cc : BitVec 4} {a b : VReg} {x : BitVec 4} {s : State} (h : Legal s) :
    OutLegal (execFcmp p m cc a b x s) :=
  h.runUnit (fun _ h1 => h1.mopF)

theorem Legal.execFclass {p : Option Pfx} {d a : VReg} {t : BitVec 4} {s : State} (h : Legal s) : OutLegal (execFclass p d a t s) :=
  h.runUnit (fun _ h1 => h1.vopF)

theorem Legal.execFrnd {p : Option Pfx} {d a : VReg} {n : BitVec 7} {t : BitVec 4} {s : State} (h : Legal s) : OutLegal (execFrnd p d a n t s) :=
  h.runUnit (fun _ h1 => h1.vopF)

theorem Legal.execFscalb {p : Option Pfx} {d a b : VReg} {t : BitVec 4} {s : State} (h : Legal s) : OutLegal (execFscalb p d a b t s) := h.flt2

theorem Legal.execFabs {p : Option Pfx} {d a : VReg} {s : State} (h : Legal s) : OutLegal (execFabs p d a s) := h.int1

theorem Legal.execFneg {p : Option Pfx} {d a : VReg} {s : State} (h : Legal s) : OutLegal (execFneg p d a s) := h.int1

theorem Legal.execFnabs {p : Option Pfx} {d a : VReg} {s : State} (h : Legal s) : OutLegal (execFnabs p d a s) := h.int1

theorem Legal.execFcpsgn {p : Option Pfx} {d a b : VReg} {s : State} (h : Legal s) : OutLegal (execFcpsgn p d a b s) := h.int2

theorem Legal.execFdot2 {p : Option Pfx} {d a b : VReg} {t : BitVec 4} {s : State} (h : Legal s) : OutLegal (execFdot2 p d a b t s) :=
  h.runUnit (fun _ h1 => h1.vopF)

theorem Legal.execFclamp {p : Option Pfx} {d a b : VReg} {t : BitVec 4} {s : State} (h : Legal s) : OutLegal (execFclamp p d a b t s) :=
  h.runUnit (fun _ h1 => h1.vopF)

theorem Legal.execPack {p : Option Pfx} {d a b : VReg} {x : BitVec 4} {s : State} (h : Legal s) : OutLegal (execPack p d a b x s) :=
  h.runUnit (fun _ h1 => h1.vopF)

theorem Legal.sfu1 {i : Instr} {d a : VReg} {f : Nat → Nat → Nat × Nat} {s : State} (h : Legal s) : OutLegal (sfu1 i d a f s) := h.runUnit (fun _ h1 => h1.vopF)

theorem Legal.execFdiv {p : Option Pfx} {d a b : VReg} {la : BitVec 4} {s : State} (h : Legal s) : OutLegal (execFdiv p d a b la s) :=
  h.runUnit (fun _ h1 => h1.vopF)

theorem Legal.execFsqrt {p : Option Pfx} {d a : VReg} {la : BitVec 4} {s : State} (h : Legal s) : OutLegal (execFsqrt p d a la s) := h.sfu1

theorem Legal.execFexp2 {p : Option Pfx} {d a : VReg} {la : BitVec 4} {s : State} (h : Legal s) : OutLegal (execFexp2 p d a la s) := h.sfu1

theorem Legal.execFlog2 {p : Option Pfx} {d a : VReg} {la : BitVec 4} {s : State} (h : Legal s) : OutLegal (execFlog2 p d a la s) := h.sfu1

theorem Legal.execFsin {p : Option Pfx} {d a : VReg} {la : BitVec 4} {s : State} (h : Legal s) : OutLegal (execFsin p d a la s) := h.sfu1

theorem Legal.execFcos {p : Option Pfx} {d a : VReg} {la : BitVec 4} {s : State} (h : Legal s) : OutLegal (execFcos p d a la s) := h.sfu1

theorem Legal.execFrcp {p : Option Pfx} {d a : VReg} {la : BitVec 4} {s : State} (h : Legal s) : OutLegal (execFrcp p d a la s) := h.sfu1

theorem Legal.execFrsq {p : Option Pfx} {d a : VReg} {la : BitVec 4} {s : State} (h : Legal s) : OutLegal (execFrsq p d a la s) := h.sfu1

theorem Legal.execFtanh {p : Option Pfx} {d a : VReg} {la : BitVec 4} {s : State} (h : Legal s) : OutLegal (execFtanh p d a la s) := h.sfu1

theorem Legal.execFsigm {p : Option Pfx} {d a : VReg} {la : BitVec 4} {s : State} (h : Legal s) : OutLegal (execFsigm p d a la s) := h.sfu1

theorem Legal.execCvtf {p : Option Pfx} {d a : VReg} {src : BitVec 4} {dst : BitVec 3} {la : BitVec 4} {s : State} (h : Legal s) :
    OutLegal (execCvtf p d a src dst la s) :=
  h.runUnit (fun _ h1 => h1.vopF)

theorem Legal.execCvti {p : Option Pfx} {d a : VReg} {src dst : BitVec 3} {sat : BitVec 1} {la : BitVec 4} {s : State} (h : Legal s) :
    OutLegal (execCvti p d a src dst sat la s) :=
  h.runUnit (fun _ h1 => h1.vopF)

theorem Legal.execQscale {p : Option Pfx} {d a : VReg} {fmt : BitVec 3} {la : BitVec 4} {s : State} (h : Legal s) : OutLegal (execQscale p d a fmt la s) :=
  h.runUnit (fun _ h1 => h1.vopF)

/-! ### The matrix unit -/

theorem TileLegal.set {t : AccTile} {r c v : Nat} (h : TileLegal t) : TileLegal (t.set r c v) := by
  refine ⟨?_⟩
  show FMap.sorted (if _ then _ else _) = true
  split
  · exact FMap.sorted_del _ _ h.cells
  · exact FMap.sorted_ins _ _ _ h.cells

theorem TileLegal.foldl {α : Type} {xs : List α} {f : AccTile → α → AccTile} {t : AccTile} (h : TileLegal t) (hf : ∀ t x, TileLegal t → TileLegal (f t x)) :
    TileLegal (xs.foldl f t) := by
  induction xs generalizing t with
  | nil => exact h
  | cons x xs ih => exact ih (hf t x h)

theorem TileLegal.cond {c : Prop} [Decidable c] {t u : AccTile} (h : TileLegal t) (h' : TileLegal u) : TileLegal (if c then t else u) := by split <;> assumption

theorem TileLegal.mapRow {t : AccTile} {r : Nat} {f : Nat → Nat → Nat} (h : TileLegal t) : TileLegal (t.mapRow r f) := h.foldl fun _ _ h => h.set

theorem TileLegal.setPsn {t : AccTile} {r : Nat} {b : Bool} (h : TileLegal t) : TileLegal (t.setPsn r b) := ⟨h.cells⟩

theorem TileLegal.empty {b : Bool} : TileLegal { int := b } := ⟨rfl⟩

theorem CoreLegal.accT {k : Core} {a : Nat} (h : CoreLegal k) : TileLegal (k.accT a) := by
  unfold Core.accT
  cases hk : k.acc.find a with
  | none => exact .empty
  | some t => exact h.acc _ (FMap.mem_of_find _ _ _ hk)

theorem Legal.setAcc {s : State} {c a : Nat} {t : AccTile} (h : Legal s) (ht : TileLegal t) : Legal (s.setAcc c a t) :=
  h.updCore fun _ hk => { hk with acc := fun x hx => (FMap.mem_ins _ _ _ _ hx).elim (fun e => e ▸ ht) (hk.acc x) }

theorem Legal.execMma {acc : BitVec 6} {ty kch : BitVec 3} {asc : VReg} {la : BitVec 4} {zf : BitVec 1} {bsel : BitVec 2} {bsc : BitVec 5} {s : State} (h :
    Legal s) : OutLegal (execMma acc ty kch asc la zf bsel bsc s) :=
  h.runUnit (fun _ h1 => h1.condRes (h1.condRes (h1.condRes (h1.updCore (fun _ h2 => h2.upd)))))

theorem TileLegal.mmaRow {e : MmaEntry} {ty : Nat} {pa pb : List (List Byte)} {poA poB : List (List Bool)} {t : AccTile} {r : Nat} (h : TileLegal t) :
    TileLegal (mmaRow e ty pa pb poA poB t r) := by
  unfold Machine.mmaRow
  extract_lets ra nb sa t1 t2 other
  have h1 : TileLegal t1 := h.mapRow.setPsn.cond h
  have h2 : TileLegal t2 := h1.mapRow
  exact h2.setPsn.cond h2

theorem TileLegal.mmaRows {e : MmaEntry} {ty : Nat} {pa pb : List (List Byte)} {poA poB : List (List Bool)} {t : AccTile} (h : TileLegal t) :
    TileLegal (mmaRows e ty pa pb poA poB t) := h.foldl fun _ _ h => h.mmaRow

theorem Legal.popN {c : Nat} {b : Bool} {n : Nat} {s : State} (h : Legal s) : Legal (popN c b n s).1 := by
  induction n generalizing s with
  | zero => exact h
  | succ n ih => exact ih h.popPos

theorem Legal.execMmaEntryStart {c : Nat} {s : State} (h : Legal s) : OutLegal (execMmaEntryStart c s) := by
  unfold Machine.execMmaEntryStart
  split
  · exact h.next
  · split
    rename_i e
    have h1 := Legal.fst e h.popN
    split
    rename_i e
    have h2 := Legal.fst e h1.popN
    extract_lets s3 s4
    have h4 : Legal s4 := (h2.updCore fun _ h => h.upd).flushSettle
    clear_value s4
    exact ((h4.updCore fun _ h => h.upd).cond h4).next

theorem Legal.execMmaEntryComplete {c : Nat} {s : State} (h : Legal s) : OutLegal (execMmaEntryComplete c s) := by
  unfold Machine.execMmaEntryComplete
  extract_lets k
  split
  · exact h.next
  · split
    · exact h.next
    · exact h.next.cond ((h.setAcc (h.core c).accT.mmaRows).updCore fun _ h => h.upd).count.next

theorem Legal.execMxGate {c : Nat} {s : State} (h : Legal s) : OutLegal (execMxGate c s) := h.next.cond ((h.updCore (fun _ h1 => h1.upd)).next)

theorem Legal.accOp {i : Instr} {a : Nat} {tag : Option Bool} {eff : Ctx → AccTile → Res} {s : State} (h : Legal s)
    (heff : ∀ c t, Legal c.s → TileLegal t → Legal (eff c t).s) : OutLegal (accOp i a tag eff s) :=
  h.runUnit fun c h => h.res.condRes (h.res.condRes (heff c _ h (h.core _).accT))

theorem Legal.accPut {c : Ctx} {a : Nat} {t : AccTile} (h : Legal c.s) (ht : TileLegal t) : Legal (accPut c a t).s := h.setAcc ht

theorem Legal.execAccz {acc : BitVec 6} {x : BitVec 1} {s : State} (h : Legal s) : OutLegal (execAccz acc x s) := h.accOp fun _ _ h _ => h.accPut .empty

theorem Legal.execAccrd {d : VReg} {acc col : BitVec 6} {x : BitVec 4} {s : State} (h : Legal s) : OutLegal (execAccrd d acc col x s) :=
  h.accOp (fun _ _ h1 _ => h1.foldl (fun _ _ h3 => h3.updPack))

theorem Legal.execAccwr {a : VReg} {acc col : BitVec 6} {x : BitVec 4} {s : State} (h : Legal s) : OutLegal (execAccwr a acc col x s) :=
  h.accOp fun _ _ h ht => h.accPut (ht.foldl fun _ _ ht => ht.set.setPsn.cond ht.set)

theorem Legal.rowOp {c : Ctx} {a : VReg} {acc : Nat} {t : AccTile} {f : Bool → Nat → Nat → Nat} (h : Legal c.s) (ht : TileLegal t) :
    Legal (rowOp c a acc t f).s :=
  h.accPut (ht.foldl fun _ _ ht => ht.mapRow.setPsn.cond ht.mapRow)

theorem Legal.execAccopScale {a : VReg} {acc : BitVec 6} {s : State} (h : Legal s) : OutLegal (execAccopScale a acc s) := h.accOp (fun _ _ h1 h2 => h1.rowOp h2)

theorem Legal.execAccopAddrow {a : VReg} {acc : BitVec 6} {s : State} (h : Legal s) : OutLegal (execAccopAddrow a acc s) :=
  h.accOp (fun _ _ h1 h2 => h1.rowOp h2)

theorem Legal.execAccopExps {a : VReg} {acc : BitVec 6} {sc : BitVec 5} {s : State} (h : Legal s) : OutLegal (execAccopExps a acc sc s) :=
  h.accOp (fun _ _ h1 h2 => h1.rowOp h2)

theorem Legal.execAccopMaskc {acc : BitVec 6} {off : BitVec 8} {s : State} (h : Legal s) : OutLegal (execAccopMaskc acc off s) :=
  h.accOp fun _ _ h ht => h.accPut (ht.foldl fun _ _ ht => ht.mapRow)

theorem Legal.rowRead {c : Ctx} {d : VReg} {t : AccTile} {f : Bool → List Nat → Nat} (h : Legal c.s) : Legal (rowRead c d t f).s := h.updPack

theorem Legal.execAccopRowmax {d : VReg} {acc : BitVec 6} {s : State} (h : Legal s) : OutLegal (execAccopRowmax d acc s) :=
  h.accOp (fun _ _ h1 _ => h1.rowRead)

theorem Legal.execAccopRowsum {d : VReg} {acc : BitVec 6} {s : State} (h : Legal s) : OutLegal (execAccopRowsum d acc s) :=
  h.accOp (fun _ _ h1 _ => h1.rowRead)

theorem Legal.accmv {i : Instr} {t a n : Nat} {writer : Bool} {tag : Option Bool} {eff : Ctx → AccTile → Nat → State} {s : State} (h : Legal s)
    (heff : ∀ c t n, Legal c.s → TileLegal t → Legal (eff c t n)) : OutLegal (accmv i t a n writer tag eff s) := by
  refine h.runUnit fun c h => h.res.condRes (h.tileTrap.condRes ?_)
  have h1 := heff c _ ((c.s.wg c.p.wg).tileByte (c.s.tile (c.s.wg c.p.wg) t)) h ((h.core c.u.core).accT (a := a))
  exact h.res.condRes (h.tileTrap.condRes (h.res.condRes (h.res.condRes (h.res.condRes h1.updTile.res))))

theorem Legal.tilePut {c : Ctx} {base : Nat} {bs : List Byte} (h : Legal c.s) : Legal (tilePut c base bs) := h.foldl (fun _ _ h1 => h1.spadTouch.setSpad)

theorem Legal.tileTouch {s : State} {core base n : Nat} (h : Legal s) : Legal (tileTouch s core base n) := h.foldl (fun _ _ h1 => h1.spadTouch)

theorem Legal.execAccmvTotile {t : BitVec 8} {acc : BitVec 6} {et : BitVec 3} {s : State} (h : Legal s) : OutLegal (execAccmvTotile t acc et s) := by
  unfold Machine.execAccmvTotile
  exact h.accmv fun _ _ _ h _ => h.tilePut

theorem Legal.execAccmvFromtile {t : BitVec 8} {acc : BitVec 6} {et : BitVec 3} {s : State} (h : Legal s) : OutLegal (execAccmvFromtile t acc et s) := by
  unfold Machine.execAccmvFromtile
  refine h.accmv fun c t n h ht => ?_
  extract_lets k s1
  have h1 : Legal s1 := h.tileTouch
  exact h1.setAcc (ht.foldl fun _ _ ht => ht.mapRow.setPsn)

theorem Legal.accLoad {bs : List Byte} {ps : List Bool} : TileLegal (accLoad bs ps) := TileLegal.empty.foldl fun _ _ h => h.mapRow.setPsn

theorem Legal.execAccmvSave {t : BitVec 8} {acc : BitVec 6} {s : State} (h : Legal s) : OutLegal (execAccmvSave t acc s) :=
  h.accmv (fun _ _ _ h1 _ => h1.tilePut)

theorem Legal.execAccmvLoad {t : BitVec 8} {acc : BitVec 6} {s : State} (h : Legal s) : OutLegal (execAccmvLoad t acc s) :=
  h.accmv (fun _ _ _ h1 _ => h1.tileTouch.setAcc Legal.accLoad)

/-! ### Completions, traps and packs -/

theorem Legal.completeTok {core slot id : Nat} {kinds : List Nat} {s : State} (h : Legal s) : Legal (completeTok core slot id kinds s) := by
  unfold Machine.completeTok
  dsimp only
  split
  · exact h
  · split
    · refine Legal.raise ?_
      split
      · exact h.updPack.tileReady
      · exact h.updPack.readerDone
      · exact h.updPack
    · split
      · exact h.updPack.tileReady
      · exact h.updPack.readerDone
      · exact h.updPack

theorem Legal.execMemoryAccessComplete {c slot id : Nat} {s : State} (h : Legal s) : OutLegal (execMemoryAccessComplete c slot id s) := h.completeTok.next

theorem Legal.execAtomResult {c slot id : Nat} {s : State} (h : Legal s) : OutLegal (execAtomResult c slot id s) := h.completeTok.next

theorem Legal.execLongLatencyComplete {c slot id : Nat} {s : State} (h : Legal s) : OutLegal (execLongLatencyComplete c slot id s) := h.completeTok.next

theorem Legal.execAccumulatorInstructionComplete {c slot id : Nat} {s : State} (h : Legal s) : OutLegal (execAccumulatorInstructionComplete c slot id s) :=
  h.completeTok.next

theorem Legal.deliverTrap {c slot : Nat} {ok : TrapWay → Bool} {s : State} (h : Legal s) : Legal (deliverTrap c slot ok s) := by
  unfold Machine.deliverTrap
  split
  · exact h
  · exact h.cond (h.updPack.takeTrap.cond h)

theorem Legal.execTrapDelivery {c slot : Nat} {s : State} (h : Legal s) : OutLegal (execTrapDelivery c slot s) := h.deliverTrap.next

theorem Legal.execEscalation {c slot : Nat} {s : State} (h : Legal s) : OutLegal (execEscalation c slot s) := h.deliverTrap.next

theorem Legal.execPendingTrapDelivery {c slot : Nat} {s : State} (h : Legal s) : OutLegal (execPendingTrapDelivery c slot s) := h.deliverTrap.next

theorem Legal.noteIssue {s : State} {c slot : Nat} {can : Nat → Bool} (h : Legal s) : Legal (s.noteIssue c slot can) :=
  h.foldl (fun _ _ h1 => h1.updPack.cond (h1.updPack.cond h1.updPack))

theorem Legal.execPackAged {c slot : Nat} {s : State} (h : Legal s) : OutLegal (execPackAged c slot s) := h.updPack.next

theorem Legal.execLaneAgeSaturate {c slot l : Nat} {s : State} (h : Legal s) : OutLegal (execLaneAgeSaturate c slot l s) := h.updPack.next

theorem Legal.execBreakpoint {c slot : Nat} {s : State} (h : Legal s) : OutLegal (execBreakpoint c slot s) := by
  unfold Machine.execBreakpoint
  split
  · exact h.next
  · exact h.updPack.mbxPost.next

theorem Legal.execWaitevTimeout {c slot : Nat} {s : State} (h : Legal s) : OutLegal (execWaitevTimeout c slot s) := by
  unfold Machine.execWaitevTimeout
  split
  · exact h.next
  · exact h.updPack.next

theorem Legal.idleClocks {s : State} {c n : Nat} (h : Legal s) : Legal (s.idleClocks c n) := h.updCore (fun _ h1 => h1.upd)

theorem Legal.execIdleClock {c : Nat} {s : State} (h : Legal s) : OutLegal (execIdleClock c s) := (h.idleClocks.cond h).next

/-! ### Spills and refills -/

theorem Legal.writeBack {s : State} {core slot d : Nat} (h : Legal s) : Legal (s.writeBack core slot d).1 := h.foldlFst (fun _ _ h1 => h1.pinWrite.condFst h1)

theorem Legal.readBack {s : State} {core slot d : Nat} (h : Legal s) : Legal (s.readBack core slot d).1 := by
  unfold State.readBack
  dsimp only
  split <;> rename_i e <;> have h1 := Legal.fst e h.ctlRead
  · exact h1
  · exact h1

theorem Legal.pinFail {s : State} {core slot detail : Nat} (h : Legal s) : Legal (s.pinFail core slot detail) := h.double

theorem Legal.execFrameGrant {c : Nat} {s : State} (h : Legal s) : OutLegal (execFrameGrant c s) := by
  unfold Machine.execFrameGrant
  split
  · exact h.next
  · split
    · exact h.updPack.next
    · exact h.allocRun.updPack.next

theorem Legal.markRecord {s : State} {c slot d : Nat} (h : Legal s) : Legal (s.markRecord c slot d).1 := h.condFst h.pinWrite

theorem Legal.execRefillComplete {c slot : Nat} {s : State} (h : Legal s) : OutLegal (execRefillComplete c slot s) := by
  unfold Machine.execRefillComplete
  split
  · exact h.next
  · split <;> rename_i e <;> have h1 := Legal.fst e h.readBack
    · exact h1.pinFail.next
    · dsimp only
      split <;> rename_i e <;> have h2 := Legal.fst e h1.updPack.markRecord
      · exact h2.pinFail.next
      · exact h2.count.next

theorem Legal.nextVictim {s : State} {c : Nat} (h : Legal s) : Legal (s.nextVictim c) := by
  unfold State.nextVictim
  split
  · exact h.updCore (fun _ h1 => h1.upd)
  · split
    · exact h.updCore (fun _ h1 => h1.upd)
    · exact (h.updCore (fun _ h1 => h1.upd)).updPack

theorem Legal.execEscapeSpillStart {c : Nat} {s : State} (h : Legal s) : OutLegal (execEscapeSpillStart c s) := (h.nextVictim.cond h).next

theorem Legal.execFrameWaitExpiry {c slot : Nat} {s : State} (h : Legal s) : OutLegal (execFrameWaitExpiry c slot s) := (h.nextVictim.cond h).next

theorem Legal.markSpilled {s : State} {c slot d : Nat} (h : Legal s) : Legal (s.markSpilled c slot d).1 := h.updPack.markRecord

theorem Legal.execSpillComplete {c : Nat} {s : State} (h : Legal s) : OutLegal (execSpillComplete c s) := by
  unfold Machine.execSpillComplete
  split
  · exact h.next
  · refine h.nextVictim.next.cond (h.next.cond ?_)
    split <;> rename_i e <;> have h1 := Legal.fst e h.writeBack
    · exact h1.pinFail.next
    · split <;> rename_i e1 <;> have h2 := Legal.fst e1 h1.markSpilled
      · exact h2.pinFail.next
      · refine Legal.next ?_
        split
        · exact (h2.updPack.count.updCore (fun _ h3 => h3.upd)).cond h2.updPack.count.nextVictim
        · exact h2.updPack.count.updCore (fun _ h3 => h3.upd)

theorem Legal.execRecordReadback {c slot : Nat} {s : State} (h : Legal s) : OutLegal (execRecordReadback c slot s) := by
  unfold Machine.execRecordReadback
  dsimp only
  split
  · exact h.next
  · split <;> rename_i e <;> have h1 := Legal.fst e h.pinRead
    · exact h1.pinFail.next
    · exact h1.pinFail.next.cond h1.updPack.next

/-! ### Walks, page requests and invalidations -/

theorem Legal.execWalkComplete {ctx root va kind : Nat} {s : State} (h : Legal s) : OutLegal (execWalkComplete ctx root va kind s) := h.xlate.next

theorem Legal.releaseLanes {s : State} {img : FaultImg} {lanes : Word} {fail : Bool} (h : Legal s) : Legal (s.releaseLanes img lanes fail) := h.updPack

theorem Legal.prqAnswer {s : State} {q : PrqWait} {fail : Bool} (h : Legal s) : Legal (s.prqAnswer q fail) := by
  unfold State.prqAnswer
  split
  · exact h.upd
  · exact h.collEndNow.cond h
  · exact h.upd.cond h
  · exact h.releaseLanes

theorem Legal.prqReply {f tag : Nat} {fail : Bool} {s : State} (h : Legal s) : Legal (prqReply f tag fail s) := by
  unfold Machine.prqReply
  split
  · exact h
  · exact h.upd.prqAnswer

theorem Legal.execPrqReplyRetry {f tag : Nat} {s : State} (h : Legal s) : OutLegal (execPrqReplyRetry f tag s) := h.prqReply.next

theorem Legal.execPrqReplyFail {f tag : Nat} {s : State} (h : Legal s) : OutLegal (execPrqReplyFail f tag s) := h.prqReply.next

theorem Legal.execPrqHeadWrite {f : Nat} {v : DWord} {s : State} (h : Legal s) : OutLegal (execPrqHeadWrite f v s) := (h.cond h.setReg).next

theorem Legal.execPrqEntryPost {f : Nat} {s : State} (h : Legal s) : OutLegal (execPrqEntryPost f s) := by
  unfold Machine.execPrqEntryPost
  split
  · exact h.next
  · exact (h.upd.prqPut.cond h.upd.prqAnswer).next

theorem Legal.invWrite {v : Nat} {s : State} (h : Legal s) : Legal (invWrite v s) := h.cond (h.setReg.upd.cond h.setReg)

theorem Legal.invEvent {kind : Nat} {v : DWord} {s : State} (h : Legal s) : OutLegal (invEvent kind v s) := h.invWrite.next

theorem Legal.execXltInvAll {v : DWord} {s : State} (h : Legal s) : OutLegal (execXltInvAll v s) := h.invEvent

theorem Legal.execXltInvFunc {v : DWord} {s : State} (h : Legal s) : OutLegal (execXltInvFunc v s) := h.invEvent

theorem Legal.execXltInvCtx {v : DWord} {s : State} (h : Legal s) : OutLegal (execXltInvCtx v s) := h.invEvent

theorem Legal.execXltInvCtxPages {v : DWord} {s : State} (h : Legal s) : OutLegal (execXltInvCtxPages v s) := h.invEvent

theorem Legal.execXltInvStage2Pages {v : DWord} {s : State} (h : Legal s) : OutLegal (execXltInvStage2Pages v s) := h.invEvent

theorem Legal.execXltInvNonglobal {v : DWord} {s : State} (h : Legal s) : OutLegal (execXltInvNonglobal v s) := h.invEvent

theorem Legal.execXltInvDone {s : State} (h : Legal s) : OutLegal (execXltInvDone s) := h.setReg.next

theorem Legal.cutChip {s : State} {n : Nat} (h : Legal s) : Legal (s.cutChip n) :=
  { h with chip := Memory.wf_filter _ _ h.chip, chipPsn := FMap.sorted_filter _ _ h.chipPsn }

theorem Legal.execLlcCarveWrite {v : DWord} {s : State} (h : Legal s) : OutLegal (execLlcCarveWrite v s) := h.next.cond h.cutChip.setReg.next

theorem Legal.execLlcCarveDone {s : State} (h : Legal s) : OutLegal (execLlcCarveDone s) := h.setReg.next

theorem Legal.execCspwinWrite {ctx : Nat} {v : DWord} {s : State} (h : Legal s) : OutLegal (execCspwinWrite ctx v s) := h.next.cond h.setReg.next

/-! ### Core registers -/

theorem Legal.setCsr {s : State} {c n v : Nat} (h : Legal s) : Legal (s.setCsr c n v) := h.updCore (fun _ h1 => h1.upd)

theorem Legal.setErr {s : State} {c : Nat} {b : Bool} (h : Legal s) : Legal (s.setErr c b) := h.setCsr

theorem Legal.setRdata {s : State} {c v : Nat} (h : Legal s) : Legal (s.setRdata c v) := h.updCore (fun _ h1 => h1.upd)

theorem Legal.execTrqPop {c : Nat} {s : State} (h : Legal s) : OutLegal (execTrqPop c s) := by
  unfold Machine.execTrqPop
  split
  · exact h.setRdata.next
  · exact ((h.updCore (fun _ h1 => h1.upd)).setRdata).next

theorem Legal.execTrqxRead {c : Nat} {s : State} (h : Legal s) : OutLegal (execTrqxRead c s) := by
  unfold Machine.execTrqxRead
  dsimp only
  split
  · exact h.setRdata.next
  · exact ((h.updCore (fun _ h1 => h1.upd)).setRdata).next

theorem Legal.pkctl {c slot : Nat} {f : Pack → State → Option State} {s : State} (h : Legal s) (hf : ∀ p t, f p s = some t → Legal t) :
    Legal (pkctl c slot f s) := by
  unfold Machine.pkctl
  split
  · exact h.setErr
  · split
    · rename_i e
      exact (hf _ _ e).setErr
    · exact h.setErr

theorem Legal.doPark {c slot : Nat} {s : State} (h : Legal s) : Legal (doPark c slot s) := h.pkctl fun _ _ e => .ofSome e h.updPack

theorem Legal.doUnpark {c slot : Nat} {s : State} (h : Legal s) : Legal (doUnpark c slot s) := h.pkctl fun _ _ e => .ofSome e h.updPack

theorem Legal.doEndtrap {c slot : Nat} {s : State} (h : Legal s) : Legal (doEndtrap c slot s) := h.pkctl fun _ _ e => by
  split at e
  · exact .ofSome e h.endEscalation
  · cases e

theorem Legal.execPark {c slot : Nat} {s : State} (h : Legal s) : OutLegal (execPark c slot s) := h.doPark.next

theorem Legal.execUnpark {c slot : Nat} {s : State} (h : Legal s) : OutLegal (execUnpark c slot s) := h.doUnpark.next

theorem Legal.execSignal {c slot : Nat} {s : State} (h : Legal s) : OutLegal (execSignal c slot s) := Legal.next (h.pkctl fun _ _ e => .ofSome e h.updPack)

theorem Legal.execEndtrap {c slot : Nat} {s : State} (h : Legal s) : OutLegal (execEndtrap c slot s) := h.doEndtrap.next

theorem Legal.execKill {c slot : Nat} {s : State} (h : Legal s) : OutLegal (execKill c slot s) := Legal.next (h.pkctl fun _ _ e => .ofSome e h.killCtx)

theorem Legal.onHeld {c : Nat} {lanes : FaultImg → Word} {f : FaultImg → State → State} {s : State} (h : Legal s) (hf : ∀ x1 x2, Legal x2 → Legal (f x1 x2)) :
    Legal (onHeld c lanes f s) := by
  unfold Machine.onHeld
  split
  · exact h.setErr
  · split
    · exact h.setErr
    · exact ((hf _ _ h).updCore (fun _ h1 => h1.upd)).setErr

theorem Legal.execRelease {c : Nat} {lanes : Word} {s : State} (h : Legal s) : OutLegal (execRelease c lanes s) :=
  (h.onHeld (fun _ _ h1 => h1.releaseLanes)).next

theorem Legal.execFailx {c : Nat} {lanes : Word} {s : State} (h : Legal s) : OutLegal (execFailx c lanes s) := (h.onHeld (fun _ _ h1 => h1.releaseLanes)).next

theorem Legal.execPost {c : Nat} {s : State} (h : Legal s) : OutLegal (execPost c s) := (h.onHeld (fun _ _ h1 => h1.prqPost.cond h1.releaseLanes)).next

theorem Legal.pkRead {s : State} {c : Nat} {q : PkSel} (h : Legal s) : Legal (pkRead s c q).1 := by
  unfold Machine.pkRead
  dsimp only
  split
  · exact h
  · exact h
  · exact h.draw.condFst h
  · exact h
  · exact h
  · exact h
  · exact h
  · exact h
  · exact h
  · exact h

theorem Legal.pkAccess {c : Nat} {w : Option DWord} {s : State} (h : Legal s) : Legal (pkAccess c w s) := by
  unfold Machine.pkAccess
  dsimp only
  split
  · exact h.setErr.setRdata.updCore (fun _ h1 => h1.upd)
  · refine (h.setErr.setRdata.updCore (fun _ h1 => h1.upd)).cond ((h.updCore (fun _ h1 => h1.upd)).cond ?_)
    split
    · exact (h.setErr.updCore (fun _ h1 => h1.upd)).updPack
    · exact ((h.setErr.updCore (fun _ h1 => h1.upd)).pkRead).setRdata

theorem Legal.execPkdataRead {c : Nat} {s : State} (h : Legal s) : OutLegal (execPkdataRead c s) := h.pkAccess.next

theorem Legal.execPkdataWrite {c : Nat} {v : DWord} {s : State} (h : Legal s) : OutLegal (execPkdataWrite c v s) := h.pkAccess.next

theorem Legal.execSrdataRead {c : Nat} {s : State} (h : Legal s) : OutLegal (execSrdataRead c s) := by
  unfold Machine.execSrdataRead
  split
  · exact h.setErr.setRdata.next
  · exact h.setErr.setRdata.next

theorem Legal.execSrdataWrite {c : Nat} {v : DWord} {s : State} (h : Legal s) : OutLegal (execSrdataWrite c v s) := by
  unfold Machine.execSrdataWrite
  split
  · exact h.setErr.next
  · exact h.setErr.srWrite.next

theorem Legal.execInject {c : Nat} {v : DWord} {s : State} (h : Legal s) : OutLegal (execInject c v s) := by
  unfold Machine.execInject
  refine h.setCsr.next.cond (h.setCsr.setErr.next.cond ?_)
  split
  · exact h.setCsr.setErr.shinvOne.next
  · exact h.setCsr.setErr.shinvEvery.next
  · exact h.setCsr.setErr.next

theorem Legal.execEmdataRead {c : Nat} {s : State} (h : Legal s) : OutLegal (execEmdataRead c s) := h.setCsr.setRdata.next

theorem Legal.execEmdataWrite {c : Nat} {w : DWord} {s : State} (h : Legal s) : OutLegal (execEmdataWrite c w s) :=
  h.next.cond ((h.updCore (fun _ h1 => h1.upd)).next)

theorem Legal.execEmctlGo {c : Nat} {s : State} (h : Legal s) : OutLegal (execEmctlGo c s) := ((h.updCore (fun _ h1 => h1.upd)).next).cond h.next

theorem Legal.execCsdataWrite {c : Nat} {v : Word} {s : State} (h : Legal s) : OutLegal (execCsdataWrite c v s) :=
  ((h.updCore (fun _ h1 => h1.upd)).setCsr).next

theorem Legal.execCsctlGo {c : Nat} {len : BitVec 6} {s : State} (h : Legal s) : OutLegal (execCsctlGo c len s) :=
  h.setCsr.next.cond (((h.updCore (fun _ h1 => h1.upd)).setCsr).next)

theorem Legal.execControlStoreInstall {c k : Nat} {s : State} (h : Legal s) : OutLegal (execControlStoreInstall c k s) := by
  unfold Machine.execControlStoreInstall
  split
  · exact h.next
  · exact h.next.cond (((h.updCore (fun _ h1 => h1.upd)).micro).next)

/-! ### Contexts -/

theorem Legal.setCtxCmd {s : State} {ctx v : Nat} (h : Legal s) : Legal (s.setCtxCmd ctx v) := h.setReg

theorem Legal.execCtxcfgWrite {ctx : Nat} {v : DWord} {s : State} (h : Legal s) : OutLegal (execCtxcfgWrite ctx v s) :=
  h.next.cond (h.setReg.next.cond (h.setReg.next.cond (h.setReg.setCtxState.next.cond h.next)))

theorem Legal.execCtxKill {ctx : Nat} {s : State} (h : Legal s) : OutLegal (execCtxKill ctx s) := h.next.cond h.setCtxCmd.killCtx.next

theorem Legal.savePiece {s : State} {ctx core : Nat} {x : Piece} (h : Legal s) : Legal (s.savePiece ctx core x).1 := by
  unfold State.savePiece
  refine Legal.condFst ?_ h.ctlWrite
  split <;> rename_i e <;> have h1 := Legal.fst e h.ctlAddr
  · exact h1
  · dsimp only
    exact h1.writeLine

theorem Legal.savePieces {ctx core : Nat} {xs : List Piece} {s : State} (h : Legal s) : Legal (savePieces ctx core xs s).1 := by
  induction xs generalizing s with
  | nil => exact h
  | cons x xs ih =>
    unfold Machine.savePieces
    split
    · rename_i e
      exact ih (Legal.fst e h.savePiece)
    · exact h.savePiece

theorem Legal.preemptStart {s : State} {ctx : Nat} (h : Legal s) : Legal (s.preemptStart ctx) := by
  unfold State.preemptStart
  extract_lets s1 stop ids mine s2
  have h1 : Legal s1 := h.setCtxCmd.setCtxState
  clear_value s1
  have h2 : Legal s2 := h1.upd
  clear_value s2
  exact h2.foldl fun _ _ h => h.updTile.cond h

theorem Legal.preemptTraps {s : State} {ctx : Nat} (h : Legal s) : Legal (s.preemptTraps ctx) := by
  unfold State.preemptTraps
  extract_lets s1
  have h1 : Legal s1 := h.upd
  clear_value s1
  exact h1.withCores (FMap.keys_map fun _ => rfl) (CoreLegal.map h1.cores fun _ h => h.upd)

theorem Legal.spillFrom {core slot n d : Nat} {s : State} (h : Legal s) : Legal (spillFrom core slot n d s).1 := by
  induction n generalizing d s with
  | zero => exact h
  | succ n ih =>
    unfold Machine.spillFrom
    extract_lets st
    split <;> rename_i e <;> have h1 := Legal.fst e (h.writeBack.condFst h.pair)
    · exact h1
    · extract_lets s1 p
      have h2 : Legal s1 := h1.updPack
      clear_value s1
      split <;> rename_i e <;> have h3 := Legal.fst e h2.pinWrite
      · exact h3
      · exact ih h3

theorem Legal.spillPacks {xs : List (Nat × Nat)} {s : State} (h : Legal s) : Legal (spillPacks xs s).1 := by
  induction xs generalizing s with
  | nil => exact h
  | cons x xs ih =>
    unfold Machine.spillPacks
    split <;> rename_i e <;> have h1 := Legal.fst e h.spillFrom
    · exact ih h1
    · exact h1.pinFail

theorem Legal.saveWg {s : State} {id : Nat} (h : Legal s) : Legal (s.saveWg id).1 := by
  unfold State.saveWg
  dsimp only
  split <;> rename_i e <;> have h1 := Legal.fst e h.savePieces
  · exact h1
  · exact h1.upd.freeWg

theorem Legal.saveAll {xs : List Nat} {s : State} (h : Legal s) : Legal (saveAll xs s).1 := by
  induction xs generalizing s with
  | nil => exact h
  | cons x xs ih =>
    unfold Machine.saveAll
    split
    · rename_i e
      exact ih (Legal.fst e h.saveWg)
    · exact h.saveWg

theorem Legal.preemptEnd {s : State} {ctx : Nat} (h : Legal s) : Legal (s.preemptEnd ctx) := by
  unfold State.preemptEnd
  extract_lets +onlyGivenNames s1
  have h1 : Legal s1 := h.preemptTraps
  clear_value s1
  dsimp only
  split <;> rename_i e <;> have h2 := Legal.fst e h1.spillPacks
  · exact h2
  · split <;> rename_i e1 <;> have h3 := Legal.fst e1 h2.saveAll
    · exact h
    · exact h3.setCtxCmd.setCtxState

theorem Legal.execCtxPreempt {ctx : Nat} {s : State} (h : Legal s) : OutLegal (execCtxPreempt ctx s) :=
  h.next.cond (h.preemptEnd.next.cond (h.preemptStart.next.cond h.next))

theorem Legal.withSaved {ctx core off n : Nat} {f : List (Byte × Bool) → State → State} {s : State} (h : Legal s) (hf : ∀ x1 x2, Legal x2 → Legal (f x1 x2)) :
    Legal (withSaved ctx core off n f s).1 := by
  unfold Machine.withSaved
  split <;> rename_i e <;> have h1 := Legal.fst e h.ctlRead
  · exact h1
  · exact hf _ _ h1

/-- A part of a restore that leaves legal states legal. -/
def Keeps (f : State → State × Bool) : Prop := ∀ t, Legal t → Legal (f t).1

theorem Legal.runAll {fs : List (State → State × Bool)} {s : State} (h : Legal s) (hf : ∀ f ∈ fs, Keeps f) : Legal (runAll fs s).1 := by
  induction fs generalizing s with
  | nil => exact h
  | cons f fs ih =>
    have h1 := hf f List.mem_cons_self s h
    unfold Machine.runAll
    split
    · rename_i e
      exact ih (Legal.fst e h1) fun g hg => hf g (List.mem_cons_of_mem _ hg)
    · exact h1

theorem Keeps.withSaved {ctx core off n : Nat} {f : List (Byte × Bool) → State → State} (hf : ∀ bs t, Legal t → Legal (f bs t)) :
    Keeps (withSaved ctx core off n f) := fun _ h => h.withSaved hf

/-- Writing bytes from the list keeps the canonical form. -/
theorem Memory.wf_foldl_setCanon {α : Type} {xs : List α} {m : FMap Byte} {a : α → Nat} {b : α → Byte} (h : Memory.wf m = true) :
    Memory.wf (xs.foldl (fun m x => setCanon m (a x) (b x)) m) = true := by
  induction xs generalizing m with
  | nil => exact h
  | cons x xs ih => exact ih (setCanon_wf _ _ _ h)

theorem Legal.restoreWg {s : State} {id : Nat} {v : SavedWg} (h : Legal s) : Legal (s.restoreWg id v).1 := by
  unfold State.restoreWg
  extract_lets w c rd s1 s2 s3 s4 lines room
  have h1 : Legal s1 := h.prepSpad
  clear_value s1
  have h2 : Legal s2 := h1.updCore fun _ h => h.upd
  clear_value s2
  have h3 : Legal s3 := Legal.cond (h2.updCore fun _ h => (h.holdMx (wg := id)).upd) h2
  clear_value s3
  have h4 : Legal s4 := h3.upd
  clear_value s4
  have hrd : ∀ {off n f}, (∀ bs t, Legal t → Legal (f bs t)) → Keeps (rd off n f) := .withSaved
  have hl : ∀ {off n f}, (∀ j bs t, Legal t → Legal (f j bs t)) → ∀ g ∈ lines off n f, Keeps g := fun hf =>
    List.forall_mem_map.mpr fun j _ => hrd (hf j)
  clear_value lines rd
  refine h4.runAll ?_
  simp only [List.forall_mem_append]
  refine ⟨⟨⟨⟨?_, ?_⟩, ?_⟩, ?_⟩, ?_⟩
  · split
    · refine List.forall_mem_append.mpr ⟨List.forall_mem_map.mpr fun _ _ => hrd fun _ _ h => h.setAcc Legal.accLoad, ?_⟩
      exact List.forall_mem_singleton.mpr (hrd fun _ _ h => h.updCore fun _ h => h.upd)
    · exact List.forall_mem_nil _
  · exact hl fun _ _ _ h => h.foldl fun _ _ h => h.setSpad
  · refine List.forall_mem_flatMap.mpr fun t _ => List.forall_mem_append.mpr ⟨?_, ?_⟩
    · exact List.forall_mem_singleton.mpr (hrd fun _ _ h => h.updCore fun _ h => h.upd)
    · split
      · exact List.forall_mem_singleton.mpr (hrd fun _ _ h => h.copies)
      · exact List.forall_mem_nil _
  · refine hl fun j bs t h => ?_
    exact h.updCore fun _ hk => { hk with args := Memory.wf_foldl_setCanon hk.args }
  · exact List.forall_mem_map.mpr fun _ _ => hrd fun _ _ h => h.updPack

theorem Legal.restoreEnd {s : State} {id : Nat} (h : Legal s) : Legal (s.restoreEnd id) := by
  unfold State.restoreEnd
  refine h.upd.foldl ?_
  intro _ _ h1
  split
  · exact h1.updCore (fun _ h2 => h2.upd)
  · exact h1

theorem Legal.restoreStep {s : State} {ctx : Nat} (h : Legal s) : Legal (s.restoreStep ctx) := by
  unfold State.restoreStep
  extract_lets s1 s2
  have h1 : Legal s1 := by
    unfold s1
    split
    · exact h
    · split
      · exact h
      · rename_i e
        exact (Legal.fst e h.restoreWg).restoreEnd
  clear_value s1
  have h2 : Legal s2 := h1.setCtxCmd
  clear_value s2
  exact h1.cond (h2.setCtxState.ctxSettle.cond h2)

theorem Legal.execCtxRestore {ctx : Nat} {s : State} (h : Legal s) : OutLegal (execCtxRestore ctx s) :=
  h.next.cond (h.restoreStep.next.cond (h.setCtxCmd.setCtxState.restoreStep.next.cond h.next))

/-! ### Branches and cross-lane instructions -/

theorem Legal.sendLanes {c : Ctx} {m : Word} {t : DWord × Option Nat} {s : State} (h : Legal s) : Legal (sendLanes c m t s) := h.updPack

theorem Legal.execNop {s : State} (h : Legal s) : OutLegal (execNop s) := h.runUnit (fun _ h1 => h1)

theorem Legal.execBra {o : BitVec 25} {s : State} (h : Legal s) : OutLegal (execBra o s) := h.runUnit (fun _ h1 => h1.sendLanes)

theorem Legal.execBrc {m : BitVec 3} {k : BitVec 1} {o : BitVec 21} {s : State} (h : Legal s) : OutLegal (execBrc m k o s) :=
  h.runUnit (fun _ h1 => h1.sendLanes.sendLanes)

theorem Legal.execBrx {a : VReg} {s : State} (h : Legal s) : OutLegal (execBrx a s) := h.runUnit (fun _ h1 => h1.foldl (fun _ _ h2 => h2.sendLanes))

theorem Legal.execSbr {d cc : BitVec 7} {i : Imm 11} {s : State} (h : Legal s) : OutLegal (execSbr d cc i s) := h.runUnit (fun _ h1 => h1.sendLanes)

theorem Legal.execYield {s : State} (h : Legal s) : OutLegal (execYield s) := h.runUnit (fun _ h1 => h1.updPack)

theorem Legal.xwrite {c : Ctx} {d : VReg} {tag : Nat → Option Nat} {opd : Nat} {chk : Option (VReg × ShKind)} {f : Nat → VCell × Nat} (h : Legal c.s) :
    Legal (xwrite c d tag opd chk f).s := by
  unfold Machine.xwrite
  dsimp only
  split
  · exact h.updPack
  · exact h.updPack.ctx_noteShadow

theorem Legal.shuffle {c : Ctx} {d a : VReg} {ix : Option VReg} {src : Nat → Option Nat} (h : Legal c.s) : Legal (shuffle c d a ix src).s := h.xwrite

theorem Legal.execShfl {p : Option Pfx} {d a b : VReg} {seg : BitVec 2} {s : State} (h : Legal s) : OutLegal (execShfl p d a b seg s) :=
  h.runUnit (fun _ h1 => h1.shuffle)

theorem Legal.execShflup {p : Option Pfx} {d a : VReg} {seg : BitVec 2} {n : BitVec 5} {s : State} (h : Legal s) : OutLegal (execShflup p d a seg n s) :=
  h.runUnit (fun _ h1 => h1.shuffle)

theorem Legal.execShfldn {p : Option Pfx} {d a : VReg} {seg : BitVec 2} {n : BitVec 5} {s : State} (h : Legal s) : OutLegal (execShfldn p d a seg n s) :=
  h.runUnit (fun _ h1 => h1.shuffle)

theorem Legal.execShflx {p : Option Pfx} {d a : VReg} {seg : BitVec 2} {n : BitVec 5} {s : State} (h : Legal s) : OutLegal (execShflx p d a seg n s) :=
  h.runUnit (fun _ h1 => h1.shuffle)

theorem Legal.execQswz {p : Option Pfx} {d a : VReg} {pat : BitVec 8} {s : State} (h : Legal s) : OutLegal (execQswz p d a pat s) :=
  h.runUnit (fun _ h1 => h1.shuffle)

theorem Legal.execRedux {p : Option Pfx} {d a : VReg} {k : BitVec 4} {s : State} (h : Legal s) : OutLegal (execRedux p d a k s) :=
  h.runUnit (fun _ h1 => h1.xwrite)

theorem Legal.execScan {p : Option Pfx} {d a : VReg} {ex : BitVec 1} {k : BitVec 4} {s : State} (h : Legal s) : OutLegal (execScan p d a ex k s) :=
  h.runUnit (fun _ h1 => h1.xwrite)

theorem Legal.execMatchl {p : Option Pfx} {d a : VReg} {x : BitVec 1} {s : State} (h : Legal s) : OutLegal (execMatchl p d a x s) :=
  h.runUnit (fun _ h1 => h1.xwrite)

/-! ### Keys, power, errors and bringup -/

theorem Legal.execKload {v : DWord} {s : State} (h : Legal s) : OutLegal (execKload v s) :=
  h.setReg.next.cond (((((h.touch.cond h).setReg).setReg).next).cond (((h.touch.cond h).setReg).next))

theorem Legal.execKslotZero {k : Nat} {s : State} (h : Legal s) : OutLegal (execKslotZero k s) := by
  unfold Machine.execKslotZero
  split
  · exact h.next
  · exact (Legal.tlb h.setReg).next

theorem Legal.execExreq {v : DWord} {s : State} (h : Legal s) : OutLegal (execExreq v s) := h.setReg.writeBytes.next.cond h.setReg.next

theorem Legal.wakeTo {s : State} {d : Nat} (h : Legal s) : Legal (s.wakeTo d) := by
  unfold State.wakeTo
  exact h.withCores (FMap.keys_map fun k => by split <;> rfl) (CoreLegal.map h.cores fun _ h => by split; exacts [h.upd, h])

theorem Legal.execLattolWrite {v : DWord} {s : State} (h : Legal s) : OutLegal (execLattolWrite v s) := h.setReg.wakeTo.next

theorem Legal.execC1Entry {c : Nat} {s : State} (h : Legal s) : OutLegal (execC1Entry c s) := ((h.updCore (fun _ h1 => h1.upd)).cond h).next

theorem Legal.execC2Entry {c : Nat} {s : State} (h : Legal s) : OutLegal (execC2Entry c s) :=
  Legal.next (Legal.cond (h.dropWays.updCore fun _ hk => { hk with spad := rfl, acc := fun _ ha => by cases ha }) h)

theorem Legal.execC3Entry {d : Nat} {s : State} (h : Legal s) : OutLegal (execC3Entry d s) := (h.diePower.cond h).next

theorem Legal.execWake {u : PowerUnit} {s : State} (h : Legal s) : OutLegal (execWake u s) := by
  unfold Machine.execWake
  split
  · exact (h.updCore (fun _ h1 => h1.upd)).next
  · exact h.upd.next
  · exact h.next

theorem CoreLegal.hitStream {k : Core} {b : Bool} {n blk : Nat} (h : CoreLegal k) : CoreLegal (k.hitStream b n blk) := h.setStrm.cond h.upd

theorem Legal.meetError {e : HwError} {s : State} (h : Legal s) : Legal (s.meetError e) := by
  cases e with
  | corrected v => exact h.cond h.setReg
  | line llc pa ctx => exact h.setLinePsn.countUE.cond h
  | chip off ctx => exact Legal.countUE { h with chipPsn := FMap.sorted_ins _ _ _ h.chipPsn }
  | tags pa ctxs => exact (h.foldl fun _ _ h => h.killCtx).countUE
  | l1 core pa ctx => exact (h.updL1 fun _ h => h.upd).countUE
  | block core off ctx => exact (h.updCore fun _ h => h.upd).countUE
  | reg core slot d r l => exact h.updPack.countUE
  | acc core a row => exact (h.setAcc (h.core core).accT.setPsn).countUE
  | stream core b n blk => exact (h.updCore fun _ h => h.hitStream).countUE
  | entry core t n => exact (h.tlb.cond h.recCache).countUE

theorem Legal.execPackageReset {s : State} (h : Legal s) : OutLegal (execPackageReset s) := by
  refine Legal.next ⟨h.mem, h.mirror, rfl, fun k hk => ?_, rfl, (fun _ hx => by cases hx), h.memPsn, rfl, rfl, FMap.keys_tabulate⟩
  obtain ⟨c, -, rfl⟩ := List.mem_map.mp hk
  exact CoreLegal.empty.upd

theorem Legal.startHarts {s : State} {hs : List Nat} (h : Legal s) : Legal (s.startHarts hs) := h.harts

theorem Legal.execBringupStage {n pkg : Nat} {peers : List Nat} {s : State} (h : Legal s) : OutLegal (execBringupStage n pkg peers s) := by
  unfold Machine.execBringupStage
  extract_lets up
  have hu : ∀ t, Legal t → Legal (up t) := fun _ h => h.boot
  clear_value up
  refine h.next.cond ?_
  split
  · exact (hu _ h).next.cond (h.boot.next.cond h.boot.next)
  · exact Legal.next (hu _ { h with mem := rfl, mirror := rfl, memPsn := rfl })
  · exact (hu _ h.pkgId.startHarts).next
  · exact (hu _ h.members).next
  · exact (hu _ h.startHarts).next
  · exact (hu _ h).next

/-! ### The mailbox -/

theorem Legal.mbxAnswer {s : State} {c slot : Nat} {a : MbxAns} (h : Legal s) : Legal (s.mbxAnswer c slot a) := by
  unfold State.mbxAnswer
  refine Legal.writeBytes ?_
  split
  · exact h.writeBytes.writeBytes.writeBytes
  · exact h.writeBytes.writeBytes

theorem Legal.mbxPend {s : State} {c v : Nat} (h : Legal s) : Legal (s.mbxPend c v) := h.updCore (fun _ h1 => h1.upd)

theorem Legal.mbxData {c slot cmd : Nat} {rd : Bool} {s : State} (h : Legal s) : Legal (mbxData c slot cmd rd s).1 := h.mbxPend.condFst (h.condFst h)

theorem Legal.mbxEffect {c cmd slot : Nat} {arg data : DWord} {s : State} (h : Legal s) : Legal (mbxEffect c cmd slot arg data s).1 := by
  unfold Machine.mbxEffect
  split
  · exact h.setCsr
  · exact h.setCsr
  · refine h.condFst ?_
    split
    · exact h
    · split
      · exact h.doPark
      · exact h.doEndtrap.cond h.doUnpark
      · exact h.condFst ((h.updPack.cond h).condFst (((h.updPack.cond h).updPack).mbxPend))
      · exact h.condFst h.setCsr.pkAccess.mbxData
      · exact h.condFst h.setCsr.pkAccess.mbxData

theorem Legal.mbxPerform {c cmd slot : Nat} {arg data : DWord} {seq : Word} {s : State} (h : Legal s) : Legal (mbxPerform c cmd slot arg data seq s) := by
  unfold Machine.mbxPerform
  extract_lets +onlyGivenNames s1
  have h1 : Legal s1 := h.updCore (fun _ h1 => h1.upd)
  clear_value s1
  split <;> rename_i e <;> have h2 := Legal.fst e h1.mbxEffect
  · exact h2.mbxAnswer
  · exact h2

theorem Legal.mbxServe {s : State} {c : Nat} (h : Legal s) : Legal (s.mbxServe c) :=
  h.cond (((h.updCore (fun _ h1 => h1.upd)).touch).cond (((h.updCore (fun _ h1 => h1.upd)).touch).mbxPerform))

theorem Legal.mbxGo {s : State} {c : Nat} (h : Legal s) : Legal (s.mbxGo c) := by
  unfold State.mbxGo
  split
  · exact (((h.updCore (fun _ h1 => h1.upd)).updPack).mbxAnswer).mbxServe
  · exact h.mbxServe

theorem Legal.execDbgdbRing {c : Nat} {s : State} (h : Legal s) : OutLegal (execDbgdbRing c s) := h.next.cond (((h.updCore (fun _ h1 => h1.upd)).mbxServe).next)

theorem Legal.mbxEvent {c cmd slot : Nat} {arg data : DWord} {s : State} (h : Legal s) : OutLegal (mbxEvent c cmd slot arg data s) :=
  h.next.cond h.mbxPerform.next

theorem Legal.execHalt {c slot : Nat} {s : State} (h : Legal s) : OutLegal (execHalt c slot s) := h.mbxEvent

theorem Legal.execResume {c slot : Nat} {s : State} (h : Legal s) : OutLegal (execResume c slot s) := h.mbxEvent

theorem Legal.execStep {c slot : Nat} {s : State} (h : Legal s) : OutLegal (execStep c slot s) := h.mbxEvent

theorem Legal.execRead {c slot : Nat} {v : DWord} {s : State} (h : Legal s) : OutLegal (execRead c slot v s) := h.mbxEvent

theorem Legal.execWrite {c slot : Nat} {v w : DWord} {s : State} (h : Legal s) : OutLegal (execWrite c slot v w s) := h.mbxEvent

theorem Legal.execSetbp {c k : Nat} {v : DWord} {s : State} (h : Legal s) : OutLegal (execSetbp c k v s) := h.mbxEvent

theorem Legal.execSetwp {c k : Nat} {v : DWord} {s : State} (h : Legal s) : OutLegal (execSetwp c k v s) := h.mbxEvent

/-! ### Register writes -/

theorem Legal.fieldWrite {s : State} {a rw w1c v : Nat} (h : Legal s) : Legal (s.fieldWrite a rw w1c v) := h.setReg

theorem Legal.counterWrite {a o : Nat} {v : DWord} {s : State} (h : Legal s) : Legal (counterWrite a o v s) := h.setReg.cond h.setReg

theorem Legal.queueWrite {off : Nat} {v : DWord} {s : State} (h : Legal s) : OutLegal (queueWrite off v s) := by
  unfold Machine.queueWrite
  dsimp only
  split
  · exact h.execQbaseWrite
  · exact (h.cond h.fieldWrite).next
  · exact h.execLaunchQtailWrite
  · exact h.fieldWrite.next
  · exact h.next
  · exact h.next
  · exact h.next
  · exact OutLegal.fault _

theorem Legal.ctxCmdWrite {ctx v : Nat} {s : State} (h : Legal s) : OutLegal (ctxCmdWrite ctx v s) := by
  unfold Machine.ctxCmdWrite
  refine h.next.cond (h.setCtxCmd.next.cond ?_)
  split
  · exact h.execCtxPreempt
  · exact h.execCtxRestore
  · exact h.execCtxKill
  · exact h.next

theorem Legal.descWrite {off : Nat} {v : DWord} {s : State} (h : Legal s) : OutLegal (descWrite off v s) := by
  unfold Machine.descWrite
  extract_lets ctx free put
  have hp : ∀ rw, OutLegal (put rw) := fun _ => (h.fieldWrite.cond h).next
  clear_value put ctx
  split
  case h_1 => exact h.execCtxcfgWrite
  case h_14 => exact h.ctxCmdWrite
  case h_15 => exact h.next
  case h_16 => exact .fault _
  all_goals exact hp _

theorem Legal.prqRegWrite {off : Nat} {v : DWord} {s : State} (h : Legal s) : OutLegal (prqRegWrite off v s) := by
  unfold Machine.prqRegWrite
  dsimp only
  split
  · exact h.fieldWrite.next
  · exact h.next
  · exact h.execPrqHeadWrite
  · split
    · exact h.execPrqReplyRetry
    · exact h.execPrqReplyFail
    · exact h.next
  · exact OutLegal.fault _

theorem Legal.mmioWrite {off : Nat} {v : DWord} {s : State} (h : Legal s) : OutLegal (mmioWrite off v s) := by
  unfold Machine.mmioWrite
  extract_lets x rw w1c within
  have hr : ∀ m, OutLegal (rw m) := fun _ => h.fieldWrite.next
  have hw : ∀ m, OutLegal (w1c m) := fun _ => h.fieldWrite.next
  clear_value rw w1c within
  exact (OutLegal.fault _).cond <| (h.next.cond (hr _)).cond <| h.invWrite.next.cond <| h.prqRegWrite.cond <| h.execLlcCarveWrite.cond <|
    h.execCspwinWrite.cond <| h.execPortDisable.cond <| (hr _).cond <| h.execPeerClr.cond <| (hw _).cond <| (hw _).cond <| (hr _).cond <| (hr _).cond <|
    (hr _).cond <| h.mintWrite.next.cond <| h.next.cond <| h.queueWrite.cond <| h.descWrite.cond <| (hr _).cond <| ((hw _).cond h.next).cond <|
    (hw _).cond <| (hw _).cond <| (h.execKslotZero.cond h.next).cond <| h.execKload.cond <| h.execExreq.cond <| (hr _).cond <| h.execLattolWrite.cond <|
    h.counterWrite.next.cond <| h.counterWrite.next.cond <| (hr _).cond <| (h.execDbgdbRing.cond h.next).cond <| .fault _

theorem Legal.pkctlWrite {c x : Nat} {s : State} (h : Legal s) : OutLegal (pkctlWrite c x s) := by
  unfold Machine.pkctlWrite
  dsimp only
  split
  · exact h.execPark
  · exact h.execUnpark
  · exact h.execRelease
  · exact h.execSignal
  · exact h.execEndtrap
  · exact h.execPost
  · exact h.execFailx
  · exact h.execKill
  · exact h.setErr.next

theorem Legal.csrWrite {c n : Nat} {v : DWord} {s : State} (h : Legal s) : OutLegal (csrWrite c n v s) := by
  unfold Machine.csrWrite
  refine (OutLegal.fault _).cond ?_
  split
  · exact h.setCsr.next
  · exact h.execPkdataWrite
  · exact h.pkctlWrite
  · exact h.next
  · exact h.next
  · exact h.next
  · exact h.setCsr.next
  · exact h.execSrdataWrite
  · exact h.setCsr.next
  · exact h.execEmdataWrite
  · exact h.execEmctlGo.cond h.next
  · exact h.setCsr.next
  · exact h.execInject
  · exact h.setCsr.next
  · exact h.execCsdataWrite
  · exact h.execCsctlGo.cond h.setCsr.next
  · exact h.setCsr.next
  · exact h.setCsr.next.cond (h.setCsr.next.cond (OutLegal.fault _))

theorem Legal.supSpadWrite {c off : Nat} {v : DWord} {s : State} (h : Legal s) : Legal (supSpadWrite c off v s) := h.writePlaces.cond h

theorem Legal.execRegisterWrite {t : RegTarget} {v : DWord} {s : State} (h : Legal s) : OutLegal (execRegisterWrite t v s) := by
  unfold Machine.execRegisterWrite
  split
  · exact h.mmioWrite
  · exact h.csrWrite
  · exact h.supSpadWrite.next

/-! ### Instructions and inputs -/

theorem Legal.exec {i : Instr} {s : State} (h : Legal s) : OutLegal (exec i s) := by
  cases i with
  | nop => exact h.execNop
  | bra => exact h.execBra
  | brc => exact h.execBrc
  | brx => exact h.execBrx
  | call => exact h.execCall
  | callx => exact h.execCallx
  | ret => exact h.execRet
  | unwind => exact h.execUnwind
  | resize => exact h.execResize
  | yield => exact h.execYield
  | exit => exact h.execExit
  | trap => exact h.execTrap
  | bkpt => exact h.execBkpt
  | syscall => exact h.execSyscall
  | mprog => exact h.execMprog
  | iadd => exact h.execIadd
  | isub => exact h.execIsub
  | iaddi => exact h.execIaddi
  | imul => exact h.execImul
  | imuli => exact h.execImuli
  | imad => exact h.execImad
  | imin => exact h.execImin
  | imax => exact h.execImax
  | iabs => exact h.execIabs
  | ineg => exact h.execIneg
  | inot => exact h.execInot
  | popc => exact h.execPopc
  | clz => exact h.execClz
  | ctz => exact h.execCtz
  | brev => exact h.execBrev
  | bswap => exact h.execBswap
  | isad => exact h.execIsad
  | shl => exact h.execShl
  | shr => exact h.execShr
  | sar => exact h.execSar
  | rotl => exact h.execRotl
  | rotr => exact h.execRotr
  | shli => exact h.execShli
  | shri => exact h.execShri
  | sari => exact h.execSari
  | and => exact h.execAnd
  | or => exact h.execOr
  | xor => exact h.execXor
  | andn => exact h.execAndn
  | orn => exact h.execOrn
  | xnor => exact h.execXnor
  | andi => exact h.execAndi
  | ori => exact h.execOri
  | xori => exact h.execXori
  | bfx => exact h.execBfx
  | bfxs => exact h.execBfxs
  | bfi => exact h.execBfi
  | icmp => exact h.execIcmp
  | icmpi => exact h.execIcmpi
  | sel => exact h.execSel
  | mov => exact h.execMov
  | movs => exact h.execMovs
  | movm => exact h.execMovm
  | mvm => exact h.execMvm
  | movi => exact h.execMovi
  | lea => exact h.execLea
  | idiv => exact h.execIdiv
  | ndiv => exact h.execNdiv
  | sadd => exact h.execSadd
  | saddi => exact h.execSaddi
  | ssub => exact h.execSsub
  | smul => exact h.execSmul
  | sand => exact h.execSand
  | sor => exact h.execSor
  | sxor => exact h.execSxor
  | sshl => exact h.execSshl
  | sshr => exact h.execSshr
  | ssar => exact h.execSsar
  | scmp => exact h.execScmp
  | smovi => exact h.execSmovi
  | smov => exact h.execSmov
  | rdlane => exact h.execRdlane
  | wrlane => exact h.execWrlane
  | smask => exact h.execSmask
  | mset => exact h.execMset
  | sld => exact h.execSld
  | sst => exact h.execSst
  | sbr => exact h.execSbr
  | vany => exact h.execVany
  | vall => exact h.execVall
  | ballot => exact h.execBallot
  | vcount => exact h.execVcount
  | waitev => exact h.execWaitev
  | ldc => exact h.execLdc
  | srd => exact h.execSrd
  | swr => exact h.execSwr
  | fadd => exact h.execFadd
  | fsub => exact h.execFsub
  | fmul => exact h.execFmul
  | ffma => exact h.execFfma
  | fmin => exact h.execFmin
  | fmax => exact h.execFmax
  | fminp => exact h.execFminp
  | fmaxp => exact h.execFmaxp
  | fcmp => exact h.execFcmp
  | fclass => exact h.execFclass
  | frnd => exact h.execFrnd
  | fscalb => exact h.execFscalb
  | fabs => exact h.execFabs
  | fneg => exact h.execFneg
  | fnabs => exact h.execFnabs
  | fcpsgn => exact h.execFcpsgn
  | fdot2 => exact h.execFdot2
  | fclamp => exact h.execFclamp
  | pack => exact h.execPack
  | fdiv => exact h.execFdiv
  | fsqrt => exact h.execFsqrt
  | fexp2 => exact h.execFexp2
  | flog2 => exact h.execFlog2
  | fsin => exact h.execFsin
  | fcos => exact h.execFcos
  | frcp => exact h.execFrcp
  | frsq => exact h.execFrsq
  | ftanh => exact h.execFtanh
  | fsigm => exact h.execFsigm
  | cvtf => exact h.execCvtf
  | cvti => exact h.execCvti
  | qscale => exact h.execQscale
  | shfl => exact h.execShfl
  | shflup => exact h.execShflup
  | shfldn => exact h.execShfldn
  | shflx => exact h.execShflx
  | qswz => exact h.execQswz
  | redux => exact h.execRedux
  | scan => exact h.execScan
  | matchl => exact h.execMatchl
  | ld => exact h.execLd
  | lds => exact h.execLds
  | ldx => exact h.execLdx
  | st => exact h.execSt
  | sts => exact h.execSts
  | stx => exact h.execStx
  | ldm => exact h.execLdm
  | stm => exact h.execStm
  | atom => exact h.execAtom
  | atomr => exact h.execAtomr
  | red => exact h.execRed
  | barinit => exact h.execBarinit
  | bararv => exact h.execBararv
  | baraw => exact h.execBaraw
  | barwait => exact h.execBarwait
  | bartest => exact h.execBartest
  | barexp => exact h.execBarexp
  | bardrop => exact h.execBardrop
  | psync => exact h.execPsync
  | fence => exact h.execFence
  | fenceLite => exact h.execFenceLite
  | fenceHeavy => exact h.execFenceHeavy
  | fenceTc => exact h.execFenceTc
  | fenceShape => exact h.execFenceShape
  | cctl => exact h.execCctl
  | tcopy => exact h.execTcopy
  | tstat => exact h.execTstat
  | trel => exact h.execTrel
  | strmFeeda => exact h.execStrmFeeda
  | strmFeedb => exact h.execStrmFeedb
  | strmReplay => exact h.execStrmReplay
  | strmFlush => exact h.execStrmFlush
  | coll => exact h.execColl
  | tresume => exact h.execTresume
  | launchGrid => exact h.execLaunchGrid
  | launchNode => exact h.execLaunchNode
  | shinv => exact h.execShinv
  | shinvAll => exact h.execShinvAll
  | mma => exact h.execMma
  | accz => exact h.execAccz
  | accrd => exact h.execAccrd
  | accwr => exact h.execAccwr
  | accopScale => exact h.execAccopScale
  | accopAddrow => exact h.execAccopAddrow
  | accopRowmax => exact h.execAccopRowmax
  | accopRowsum => exact h.execAccopRowsum
  | accopExps => exact h.execAccopExps
  | accopMaskc => exact h.execAccopMaskc
  | accmvTotile => exact h.execAccmvTotile
  | accmvFromtile => exact h.execAccmvFromtile
  | accmvSave => exact h.execAccmvSave
  | accmvLoad => exact h.execAccmvLoad
  | laneAgeSaturate => exact h.execLaneAgeSaturate
  | breakpoint => exact h.execBreakpoint
  | memoryAccessComplete => exact h.execMemoryAccessComplete
  | atomResult => exact h.execAtomResult
  | walkComplete => exact h.execWalkComplete
  | prqEntryPost => exact h.execPrqEntryPost
  | prqHeadWrite => exact h.execPrqHeadWrite
  | prqReplyRetry => exact h.execPrqReplyRetry
  | prqReplyFail => exact h.execPrqReplyFail
  | xltInvAll => exact h.execXltInvAll
  | xltInvFunc => exact h.execXltInvFunc
  | xltInvCtx => exact h.execXltInvCtx
  | xltInvCtxPages => exact h.execXltInvCtxPages
  | xltInvStage2Pages => exact h.execXltInvStage2Pages
  | xltInvNonglobal => exact h.execXltInvNonglobal
  | xltInvDone => exact h.execXltInvDone
  | llcCarveWrite => exact h.execLlcCarveWrite
  | llcCarveDone => exact h.execLlcCarveDone
  | cspwinWrite => exact h.execCspwinWrite
  | copyStart => exact h.execCopyStart
  | tcopyAccept => exact h.execTcopyAccept
  | barrierEngineArrival => exact h.execBarrierEngineArrival
  | copyComplete => exact h.execCopyComplete
  | copyFaultPause => exact h.execCopyFaultPause
  | copyFail => exact h.execCopyFail
  | streamFill => exact h.execStreamFill
  | mmaEntryStart => exact h.execMmaEntryStart
  | mmaEntryComplete => exact h.execMmaEntryComplete
  | mxGate => exact h.execMxGate
  | frameGrant => exact h.execFrameGrant
  | frameWaitExpiry => exact h.execFrameWaitExpiry
  | escapeSpillStart => exact h.execEscapeSpillStart
  | spillComplete => exact h.execSpillComplete
  | refillComplete => exact h.execRefillComplete
  | recordReadback => exact h.execRecordReadback
  | trapDelivery => exact h.execTrapDelivery
  | escalation => exact h.execEscalation
  | pendingTrapDelivery => exact h.execPendingTrapDelivery
  | waitevTimeout => exact h.execWaitevTimeout
  | packAged => exact h.execPackAged
  | trqPop => exact h.execTrqPop
  | trqxRead => exact h.execTrqxRead
  | park => exact h.execPark
  | unpark => exact h.execUnpark
  | release => exact h.execRelease
  | signal => exact h.execSignal
  | endtrap => exact h.execEndtrap
  | post => exact h.execPost
  | failx => exact h.execFailx
  | kill => exact h.execKill
  | pkdataRead => exact h.execPkdataRead
  | pkdataWrite => exact h.execPkdataWrite
  | srdataRead => exact h.execSrdataRead
  | srdataWrite => exact h.execSrdataWrite
  | inject => exact h.execInject
  | emdataRead => exact h.execEmdataRead
  | emdataWrite => exact h.execEmdataWrite
  | emctlGo => exact h.execEmctlGo
  | csdataWrite => exact h.execCsdataWrite
  | csctlGo => exact h.execCsctlGo
  | controlStoreInstall => exact h.execControlStoreInstall
  | ctxPreempt => exact h.execCtxPreempt
  | ctxRestore => exact h.execCtxRestore
  | ctxKill => exact h.execCtxKill
  | ctxcfgWrite => exact h.execCtxcfgWrite
  | launchQtailWrite => exact h.execLaunchQtailWrite
  | qbaseWrite => exact h.execQbaseWrite
  | launchEntryRead => exact h.execLaunchEntryRead
  | nodeRelease => exact h.execNodeRelease
  | workgroupPlace => exact h.execWorkgroupPlace
  | priorityStarvation => exact h.execPriorityStarvation
  | workgroupFinish => exact h.execWorkgroupFinish
  | launchComplete => exact h.execLaunchComplete
  | nodeDiscard => exact h.execNodeDiscard
  | remoteRequestIngress => exact h.execRemoteRequestIngress
  | remoteResponse => exact h.execRemoteResponse
  | controlRequest => exact h.execControlRequest
  | mirrorUpdate => exact h.execMirrorUpdate
  | lossNotice => exact h.execLossNotice
  | fabLossTo => exact h.execFabLossTo
  | peerClr => exact h.execPeerClr
  | linkCrcError => exact h.execLinkCrcError
  | portTrained => exact h.execPortTrained
  | linkRekey p vc => exact h.execLinkRekey (_port := p) (_vc := vc)
  | portDisable => exact h.execPortDisable
  | mint => exact h.execMint
  | roll => exact h.execRoll
  | collAccept => exact h.execCollAccept
  | collSplit => exact h.execCollSplit
  | collChunk => exact h.execCollChunk
  | collReduceComplete => exact h.execCollReduceComplete
  | collStepTimeout => exact h.execCollStepTimeout
  | collMismatchNotice => exact h.execCollMismatchNotice
  | collEnd => exact h.execCollEnd
  | planeBwWindow => exact h.execPlaneBwWindow
  | kload => exact h.execKload
  | kslotZero => exact h.execKslotZero
  | exreq => exact h.execExreq
  | lattolWrite => exact h.execLattolWrite
  | c1Entry => exact h.execC1Entry
  | c2Entry => exact h.execC2Entry
  | c3Entry => exact h.execC3Entry
  | wake => exact h.execWake
  | dbgdbRing => exact h.execDbgdbRing
  | halt => exact h.execHalt
  | resume => exact h.execResume
  | step => exact h.execStep
  | read => exact h.execRead
  | write => exact h.execWrite
  | setbp => exact h.execSetbp
  | setwp => exact h.execSetwp
  | packageReset => exact h.execPackageReset
  | bringupStage => exact h.execBringupStage
  | registerWrite => exact h.execRegisterWrite
  | longLatencyComplete => exact h.execLongLatencyComplete
  | accumulatorInstructionComplete => exact h.execAccumulatorInstructionComplete
  | idleClock => exact h.execIdleClock
  | collContributionRead => exact h.execCollContributionRead

/-! ### Harts -/

theorem Legal.setHart {s : State} {h' : Nat} {k : Hart} (h : Legal s) : Legal (s.setHart h' k) := h.upd

theorem Legal.customRead {c n : Nat} {s t : State} {r : Nat} (h : Legal s) (e : customRead c n s = some (t, r)) : Legal t := by
  unfold Machine.customRead at e
  extract_lets via at e
  have hv : ∀ o, OutLegal o → via o = some (t, r) → Legal t := fun o ho e => by
    cases o with
    | next u =>
      obtain ⟨rfl, -⟩ := Prod.mk.inj (Option.some.inj e)
      exact ho _ rfl
    | fault _ => cases e
    | refused _ => cases e
  have hs : ∀ {q : Nat}, some (s, q) = some (t, r) → Legal t := fun e => (Prod.mk.inj (Option.some.inj e)).1 ▸ h
  clear_value via
  split at e
  · exact hv _ h.execPkdataRead e
  · exact hs e
  · exact hs e
  · exact hv _ h.execTrqPop e
  · exact hv _ h.execTrqxRead e
  · exact hv _ h.execSrdataRead e
  · exact hv _ h.execEmdataRead e
  · exact hs e
  · exact hs e
  · split at e
    · exact hs e
    · cases e

theorem Legal.rvLoad {h' pa n : Nat} {s : State} (h : Legal s) : Legal (rvLoad h' pa n s).1 := by
  unfold Machine.rvLoad
  split
  · exact h.ctlPerform
  · split
    · exact h.readPlaces
    · exact h.pair.condFst h.pair

theorem Legal.rvStore {h' pa n v : Nat} {s t : State} (h : Legal s) (e : rvStore h' pa n v s = some t) : Legal t := by
  unfold Machine.rvStore at e
  split at e
  · exact .ofSome e h.ctlPerform
  · split at e
    · exact .ofSome e h.writePlaces
    · split at e
      · split at e
        · rename_i u e'
          exact .ofSome e (h.mmioWrite u e')
        · cases e
      · cases e

theorem Legal.rvWalk {h' priv x va n t : Nat} {s : State} (h : Legal s) : Legal (rvWalk h' priv x va n t s).1 := by
  induction n generalizing t s with
  | zero => exact h
  | succ n ih =>
    unfold Machine.rvWalk
    refine h.pair.condFst ?_
    split <;> rename_i e <;> have h1 := Legal.fst e h.rvLoad
    · exact h1
    · exact h1.pair.condFst ((ih h1).condFst (h1.pair.condFst h1.pair))

theorem Legal.rvAddr {h' x va n : Nat} {s : State} (h : Legal s) : Legal (rvAddr h' x va n s).1 := by
  unfold Machine.rvAddr
  dsimp only
  split <;> rename_i e <;> have h1 := Legal.fst e (h.condFst (h.condFst h.rvWalk))
  · exact h1
  · exact h1.condFst h1

theorem Legal.rvLoadV {h' va n : Nat} {s : State} (h : Legal s) : Legal (rvLoadV h' va n s).1 := by
  unfold Machine.rvLoadV
  refine h.condFst ?_
  split <;> rename_i e <;> have h1 := Legal.fst e h.rvAddr
  · exact h1
  · split <;> rename_i e1 <;> have h2 := Legal.fst e1 h1.rvLoad
    · exact h2
    · exact h2

theorem Legal.rvStoreV {h' va n v : Nat} {s : State} (h : Legal s) : Legal (rvStoreV h' va n v s).1 := by
  unfold Machine.rvStoreV
  refine h.condFst ?_
  split <;> rename_i e <;> have h1 := Legal.fst e h.rvAddr
  · exact h1
  · split
    · rename_i e1
      have h2 := Legal.rvStore h1 e1
      exact h2
    · exact h1

theorem Legal.rvFetch2 {h' va : Nat} {s : State} (h : Legal s) : Legal (rvFetch2 h' va s).1 := by
  unfold Machine.rvFetch2
  split <;> rename_i e <;> have h1 := Legal.fst e h.rvAddr
  · exact h1
  · refine h1.condFst ?_
    split <;> rename_i e1 <;> have h2 := Legal.fst e1 h1.rvLoad
    · exact h2
    · exact h2

theorem Legal.rvDone {s : State} {h' len rd v : Nat} (h : Legal s) : Legal (s.rvDone h' len rd v) := h.setHart

theorem Legal.rvTrap {s : State} {h' cause tval : Nat} (h : Legal s) : Legal (s.rvTrap h' cause tval) := h.setHart

theorem Legal.rvRelease {s : State} {h' : Nat} (h : Legal s) : Legal (s.rvRelease h') := h.cond h.cleanCore

theorem Legal.rvCsrDo {s : State} {h' n op rd src : Nat} {writes : Bool} {len ill : Nat} (h : Legal s) : Legal (s.rvCsrDo h' n op rd src writes len ill) := by
  unfold State.rvCsrDo
  extract_lets k new r
  clear_value new
  refine h.rvTrap.cond ?_
  split
  · exact Legal.cond h.rvDone (h.rvDone.setHart.cond h.rvDone.setHart)
  · refine h.rvTrap.cond ?_
    have hr : ∀ t q, r = some (t, q) → Legal t := fun t q e => by
      unfold r at e
      split at e
      · split at e
        · exact (Prod.mk.inj (Option.some.inj e)).1 ▸ h
        · cases e
      · exact h.customRead e
    clear_value r
    split
    · exact h.rvTrap
    · rename_i s1 old
      have h1 := hr _ _ rfl
      refine h1.cond (h1.rvDone.cond ?_)
      split
      · rename_i e
        have h2 := h1.csrWrite _ e
        exact h2.cond h2.rvDone
      · exact h1.rvTrap

theorem Legal.rvAmo {h' pa n op v : Nat} {s t : State} {r : Nat} (h : Legal s) (e : rvAmo h' pa n op v s = some (t, r)) : Legal t := by
  unfold Machine.rvAmo at e
  split at e
  · split at e
    rename_i e1
    obtain ⟨rfl, -⟩ := Prod.mk.inj (Option.some.inj e)
    exact Legal.fst e1 h.ctlPerform
  · split at e
    · split at e
      · rename_i e1
        obtain ⟨u, e2, e⟩ := Option.map_eq_some_iff.mp e
        exact (Prod.mk.inj e).1 ▸ (Legal.fst e1 h.rvLoad).rvStore e2
      · cases e
    · cases e

theorem Legal.rvDo {s : State} {h' len ill : Nat} {a : RvAct} (h : Legal s) : Legal (s.rvDo h' len ill a) := by
  cases a with
  | go k => exact h.setHart
  | trap c t => exact h.rvTrap
  | load va n sg rd =>
    unfold State.rvDo
    dsimp only
    split <;> rename_i e <;> have h1 := Legal.fst e h.rvLoadV
    · exact h1.rvTrap
    · exact h1.rvDone
  | store va n v =>
    unfold State.rvDo
    dsimp only
    split <;> rename_i e <;> have h1 := Legal.fst e h.rvStoreV
    · exact h1.rvTrap
    · exact h1.rvDone
  | amo va n op v rd rel =>
    have h1 : Legal (if rel then s.rvRelease h' else s) := h.rvRelease.cond h
    unfold State.rvDo
    refine h1.rvTrap.cond ?_
    split <;> rename_i e <;> have h2 := Legal.fst e h1.rvAddr
    · exact h2.rvTrap
    · split
      · exact h2.rvTrap
      · rename_i e
        exact (h2.rvAmo e).rvDone
  | lr va n rd =>
    unfold State.rvDo
    refine h.rvTrap.cond ?_
    split <;> rename_i e <;> have h1 := Legal.fst e h.rvAddr
    · exact h1.rvTrap
    · refine h1.rvTrap.cond ?_
      split <;> rename_i e <;> have h2 := Legal.fst e h1.rvLoad
      · exact h2.rvTrap
      · exact h2.rvDone.setHart
  | sc va n v rd rel =>
    have h1 : Legal (if rel then s.rvRelease h' else s) := h.rvRelease.cond h
    unfold State.rvDo
    refine h1.rvTrap.cond ?_
    split <;> rename_i e <;> have h2 := Legal.fst e h1.rvAddr
    · exact h2.rvTrap
    · refine h2.rvTrap.cond ?_
      extract_lets ok k s1
      have h3 : Legal s1 := h2.setHart
      clear_value s1 ok
      split
      · exact h3.rvTrap
      · rename_i e
        split at e
        · exact (h3.rvStore e).rvDone
        · exact (Legal.ofSome e h3).rvDone
  | csr n op rd src writes => exact h.rvCsrDo
  | fence => exact h.rvRelease.rvDone

theorem Legal.rvFetch {h' : Nat} {s : State} (h : Legal s) : Legal (rvFetch h' s).1 := by
  unfold Machine.rvFetch
  dsimp only
  split <;> rename_i e <;> have h1 := Legal.fst e h.rvFetch2
  · exact h1
  · refine h1.condFst ?_
    split <;> rename_i e1 <;> have h2 := Legal.fst e1 h1.rvFetch2
    · exact h2
    · exact h2

theorem Legal.hartStep {h' : Nat} {s : State} (h : Legal s) : Legal (s.hartStep h') := by
  unfold State.hartStep
  extract_lets k s1 s2
  have h1 : Legal s1 := h.setHart
  clear_value s1
  have h2 : Legal s2 := (h1.updCore fun _ h => h.upd).cond h1
  clear_value s2
  split
  · exact h2.setHart
  · split <;> rename_i e <;> have h3 := Legal.fst e h2.rvFetch
    · exact h3.rvTrap
    · refine h3.rvDo.cond ?_
      split
      · exact h3.rvDo
      · exact h3.rvTrap

/-- The cores of one legal state in another. -/
theorem Legal.takeCores {s t : State} {xs : List OutMsg} {n : Nat} (h : Legal s) (ht : Legal t) : Legal { s with cores := t.cores, outbox := xs, cycle := n } :=
  h.withCores (ht.keys.trans h.keys.symm) ht.cores

/-! ### Time -/

theorem Legal.advance {s : State} {issuing : Option Nat} (h : Legal s) : Legal (s.advance issuing) := by
  unfold State.advance
  split
  rename_i d s1 e
  have h1 : Legal s1 := Legal.snd e h.draw
  extract_lets n t
  have ht : Legal t := h1.foldl fun _ _ h => Legal.cond h.idleClocks.count (h.idleClocks.count.updCore fun _ h => h.upd)
  exact h1.takeCores ht

theorem Legal.settleBars {s : State} (h : Legal s) : Legal s.settleBars := h.foldl (fun _ _ h1 => h1.barExit)

theorem Legal.clearStalls {s : State} (h : Legal s) : Legal s.clearStalls := h.packs

theorem Legal.afterEvent {s : State} (h : Legal s) : Legal (afterEvent s) := h.settleBars.advance.clearStalls

/-! ### One unit of one pack -/

theorem Legal.fetchWord {core ctx node va : Nat} {ws : List Nat} {s : State} (h : Legal s) : Legal (fetchWord core ctx node va ws s).1 := by
  unfold Machine.fetchWord
  split
  · exact h
  · split <;> rename_i e <;> have h1 := Legal.fst e h.transRange
    · exact h1.readPlaces
    · exact h1
    · exact h1
    · exact h1
  · exact h

theorem Legal.fetchUnit {core ctx node pc n : Nat} {ws : List Nat} {s : State} (h : Legal s) : Legal (fetchUnit core ctx node pc n ws s).1 := by
  induction n generalizing ws s with
  | zero => exact h
  | succ n ih =>
    unfold Machine.fetchUnit
    split
    · rename_i e
      have h1 := Legal.fst e h.fetchWord
      exact h1.pair.condFst (ih h1)
    · exact h.fetchWord

theorem Legal.stopUnit {code detail : Nat} {va : DWord} {s : State} (h : Legal s) : OutLegal (stopUnit code detail va s) := h.runUnit (fun _ h1 => h1)

theorem Legal.fetchFault {u : Cur} {img : FaultImg} {s : State} (h : Legal s) : Legal (fetchFault u img s) := h.updPack.updCore (fun _ h1 => h1.upd)

theorem Legal.issueUnit {run : Instr → State → Out} {c slot : Nat} {g : Grp} {s : State} (h : Legal s) (hrun : ∀ x1 x2, Legal x2 → OutLegal (run x1 x2)) :
    OutLegal (issueUnit run c slot g s) := by
  unfold Machine.issueUnit
  refine h.upd.stopUnit.cond ((h.upd.stopUnit.cond ?_).cond ?_)
  · split <;> rename_i e <;> have h1 := Legal.fst e h.fetchUnit
    · exact h1.fetchFault.next
    · exact h1.upd.stopUnit
    · split
      · exact h1.upd.stopUnit
      · exact hrun _ _ h1.upd
  · dsimp only
    split
    · exact h.upd.stopUnit
    · exact hrun _ _ h.upd

theorem Legal.afterIssue {run : Instr → State → Out} {c slot : Nat} {s : State} (h : Legal s) :
    Legal (afterIssue run c slot s) := by
  unfold Machine.afterIssue
  exact h.cur.cond (((((h.cur.setCtxState.cond h.cur).noteIssue).settleBars).ownTurn).advance)

theorem OutLegal.thenDo {f : State → State} {o : Out} (ho : OutLegal o) (hf : ∀ t, Legal t → Legal (f t)) : OutLegal (thenDo f o) := by
  cases o with
  | next t => exact (hf t (ho t rfl)).next
  | fault e => exact .fault e
  | refused e => exact fun _ e => by cases e

theorem Legal.issuePack {run : Instr → State → Out} {c slot : Nat} {s : State} (h : Legal s) (hrun : ∀ i t, Legal t → OutLegal (run i t)) :
    OutLegal (issuePack run c slot s) := by
  unfold Machine.issuePack
  refine h.updPack.next.cond ((h.execBreakpoint.thenDo fun _ h => h.afterEvent).cond ?_)
  split
  · exact h.next
  · split <;> rename_i e <;> have h1 := Legal.fst e (h.pair.condFst h.needFrame)
    · exact h1.updPack.next
    · exact (h1.issueUnit hrun).thenDo fun _ h => h.afterIssue

theorem Legal.stepUnits {run : Instr → State → Out} {s : State} (h : Legal s) (hrun : ∀ x1 x2, Legal x2 → OutLegal (run x1 x2)) :
    OutLegal (stepUnits run s) := by
  unfold Machine.stepUnits
  split
  · exact h.hartStep.upd.afterEvent.next
  · split
    · exact h.issuePack (fun _ _ h1 => hrun _ _ h1)
    · exact h.advance.clearStalls.next

/-! ### Events -/

theorem DueLegal.ofIf {c : Bool} {o : Out} (h : OutLegal o) : DueLegal (dueIf c o) := (DueLegal.some h).cond .none

theorem DueLegal.ofChange {s : State} {o : Out} (h : OutLegal o) : DueLegal (dueChange s o) := by
  unfold Machine.dueChange
  split
  · exact (DueLegal.some h).cond .none
  · exact .none

theorem DueLegal.findSome {α : Type} {xs : List α} {f : α → Due} (h : ∀ x, DueLegal (f x)) : DueLegal (xs.findSome? f) := fun o e => by
  obtain ⟨x, -, hx⟩ := List.exists_of_findSome?_eq_some e
  exact h x o hx

theorem DueLegal.map {α : Type} {x : Option α} {f : α → Out} (h : ∀ a, OutLegal (f a)) : DueLegal (x.map f) := fun o e => by
  obtain ⟨a, -, rfl⟩ := Option.map_eq_some_iff.mp e
  exact h a

theorem DueLegal.orElse {d : Due} {f : Unit → Due} (h : DueLegal d) (hf : DueLegal (f ())) : DueLegal (d.orElse f) := by
  cases d with
  | none => exact hf
  | some o => exact h

/-- The first that is due, of two or more. -/
theorem DueLegal.first {f : Unit → Due} {fs : List (Unit → Due)} (h : DueLegal (f ())) (hfs : DueLegal (fs.findSome? (fun f => f ()))) :
    DueLegal ((f :: fs).findSome? (fun f => f ())) := by
  rw [List.findSome?_cons]
  split
  · rename_i e
    exact e ▸ h
  · exact hfs

theorem Legal.tokEvent {s : State} {c sl : Nat} {p : Pack} (h : Legal s) : DueLegal (tokEvent s c sl p) := by
  unfold Machine.tokEvent
  extract_lets stuck
  split
  · exact .none
  · refine .some ?_
    split
    · exact h.execMemoryAccessComplete
    · exact h.execAtomResult
    · exact h.execAtomResult
    · exact h.execLongLatencyComplete
    · exact h.execAccumulatorInstructionComplete

theorem Legal.trapEvent {s : State} {c sl : Nat} {p : Pack} (h : Legal s) : DueLegal (trapEvent s c sl p) := by
  unfold Machine.trapEvent
  split
  · exact .none
  · exact DueLegal.none.cond ((DueLegal.some h.execTrapDelivery).cond (.some h.execEscalation))

theorem Legal.acceptEvent {s : State} {c sl : Nat} {p : Pack} (h : Legal s) : DueLegal (acceptEvent s c sl p) := by
  unfold Machine.acceptEvent
  split
  · exact .none
  · exact .ofIf h.execTcopyAccept

theorem Legal.copyEvent {s : State} {id : Nat} {c : Copy} (h : Legal s) : DueLegal (copyEvent s id c) :=
  DueLegal.none.cond ((DueLegal.some h.execCopyFail).cond ((DueLegal.ofIf h.execCopyStart).cond
    (((DueLegal.some h.execCopyComplete).cond (.ofChange h.execBarrierEngineArrival)).cond .none)))

theorem Legal.matrixEvent {s : State} {c : Nat} (h : Legal s) : DueLegal (matrixEvent s c) := by
  refine DueLegal.none.cond ((DueLegal.some h.execStreamFill).cond ((DueLegal.some h.execStreamFill).cond ?_))
  split
  · exact .none
  · exact (DueLegal.ofIf h.execMmaEntryComplete).cond (.ofIf h.execMmaEntryStart)

theorem Legal.frameEvent {s : State} {c : Nat} (h : Legal s) : DueLegal (frameEvent s c) := by
  refine (DueLegal.some h.execFrameGrant).cond ?_
  split
  · exact .some h.execRefillComplete
  · split
    · exact .some h.execRecordReadback
    · split
      · exact .ofIf h.execSpillComplete
      · exact (DueLegal.some h.execEscapeSpillStart).cond (.map fun _ => h.execFrameWaitExpiry)

theorem Legal.pkEvent {s : State} {c : Nat} (h : Legal s) : DueLegal (pkEvent s c) := .map fun w => by
  cases w with
  | some v => exact h.execPkdataWrite
  | none => exact h.execPkdataRead

theorem Legal.collEvent {s : State} {id : Nat} {c : Coll} (h : Legal s) : DueLegal (collEvent s id c) := by
  unfold Machine.collEvent
  split
  · rename_i d e
    exact e ▸ DueLegal.findSome fun _ => (DueLegal.ofChange h.execCollContributionRead).orElse (.ofChange h.execCollStepTimeout)
  · exact .ofChange h.execCollEnd

theorem Legal.reduceEvent {s : State} (h : Legal s) : DueLegal s.reduceEvent :=
  DueLegal.none.cond (.findSome fun _ => .findSome fun _ => DueLegal.none.cond (.ofChange h.execCollReduceComplete))

theorem Legal.registerEvent {s : State} (h : Legal s) : DueLegal (registerEvent s) :=
  (DueLegal.some h.execXltInvDone).cond ((DueLegal.some h.execLlcCarveDone).cond .none)

theorem Legal.restEvent {s : State} {c : Nat} {k : Core} (h : Legal s) : DueLegal (restEvent s c k) :=
  (DueLegal.some h.execMxGate).cond (DueLegal.none.cond ((DueLegal.some h.execC2Entry).cond ((DueLegal.some h.execC1Entry).cond .none)))

theorem Legal.launchEvent {s : State} (h : Legal s) : DueLegal s.launchEvent :=
  .first (.findSome fun _ => .ofIf h.execWorkgroupFinish) <|
  .first (.findSome fun _ => .ofIf h.execLaunchComplete) <|
  .first (.findSome fun _ => .ofChange h.execNodeRelease) <|
  .first (.findSome fun _ => (DueLegal.ofChange h.execLaunchEntryRead).cond .none) .none

theorem Legal.placeEvent {s : State} (h : Legal s) : DueLegal s.placeEvent := by
  refine DueLegal.none.cond ?_
  split
  · rename_i d e
    exact e ▸ DueLegal.findSome fun _ => .ofIf h.execPriorityStarvation
  · exact .ofIf h.execWorkgroupPlace

theorem Legal.prqEvent {s : State} (h : Legal s) : DueLegal s.prqEvent := by
  unfold State.prqEvent
  split
  · rename_i d e
    refine e ▸ DueLegal.findSome fun q => ?_
    split
    · exact .ofIf h.execCopyFaultPause
    · exact .none
  · exact .findSome fun _ => .ofIf h.execPrqEntryPost

theorem Legal.engineEvent {s : State} (h : Legal s) : DueLegal s.engineEvent :=
  .first (.findSome fun _ => h.copyEvent) <| .first (.findSome fun _ => h.matrixEvent) <| .first (.findSome fun _ => h.collEvent) .none

theorem Legal.nextEvent {s : State} (h : Legal s) : DueLegal s.nextEvent := by
  unfold State.nextEvent
  extract_lets packs cores
  have hp : ∀ f, (∀ c sl p, DueLegal (f c sl p)) → DueLegal (packs f ()) := fun _ hf => .findSome fun _ => hf _ _ _
  have hc : ∀ f, (∀ c, DueLegal (f c)) → DueLegal (cores f ()) := fun _ hf => .findSome hf
  clear_value packs cores
  refine
    .first ?_ <|
    .first (.findSome fun _ => .ofIf h.execNodeDiscard) <|
    .first (hp _ fun _ _ _ => h.trapEvent) <|
    .first h.launchEvent <|
    .first h.prqEvent <|
    .first (hp _ fun _ _ _ => h.tokEvent) <|
    .first (hp _ fun _ _ _ => h.acceptEvent) <|
    .first (hp _ fun _ _ _ => DueLegal.none.cond (.ofChange h.execCollAccept)) <|
    .first (hc _ fun _ => h.frameEvent) <|
    .first (hc _ fun _ => h.pkEvent) <|
    .first h.placeEvent <|
    .first (.findSome fun _ => .ofChange h.execFabLossTo) <|
    .first (hp _ fun _ _ _ => .ofIf h.execWaitevTimeout) <|
    .first (hp _ fun _ _ _ => .ofIf h.execPackAged) <|
    .first (.findSome fun _ => .findSome fun _ => .ofIf h.execControlStoreInstall) <|
    .first h.registerEvent <|
    .first (.findSome fun _ => (DueLegal.ofChange h.execCtxPreempt).cond .none) <|
    .first (.findSome fun _ => (DueLegal.ofChange h.execCtxRestore).cond .none) <|
    .first (.findSome fun _ => h.restEvent) <|
    .first (.findSome fun _ => (DueLegal.some h.execC3Entry).cond .none) <|
    .first h.reduceEvent <|
    .first (h.engineEvent.cond .none) .none
  split
  · exact .some h.errors.meetError.next
  · exact .none

theorem Legal.resumeEvent {run : Instr → State → Out} {s : State} (h : Legal s) (hrun : ∀ i t, Legal t → OutLegal (run i t)) :
    DueLegal (s.resumeEvent run) := by
  refine .findSome fun p => .findSome fun t => ?_
  split
  · exact .none
  · split
    · exact .none
    · rename_i i _
      have h1 := fun u => hrun i _ (h.cur (x := some u))
      split
      · rename_i e
        exact (DueLegal.some (h1 _ _ e).cur.next).cond .none
      · exact .some (h1 _)

/-! ### A step -/

theorem Legal.stepWith {run : Instr → State → Out} {s : State} (h : Legal s) (hrun : ∀ i t, Legal t → OutLegal (run i t)) : OutLegal (stepWith run s) := by
  unfold Machine.stepWith
  extract_lets s1
  have h1 : Legal s1 := h.ownSteps
  clear_value s1
  split
  · exact (hrun _ _ h1.agenda).thenDo fun _ h => h.afterEvent
  · split
    · rename_i o e
      exact ((h1.nextEvent.orElse (h1.resumeEvent hrun)) o e).thenDo fun _ h => h.afterEvent
    · split
      · exact h1.mbxGo.afterEvent.next
      · exact h1.stepUnits hrun

theorem Legal.step {s : State} (h : Legal s) : OutLegal (step s) := h.stepWith (fun _ _ h1 => h1.exec)


/-- Settles O55: legality is a fact about the store alone, and each function that `step` reaches leaves it as it found it. -/
theorem everyStepKeepsTheStateLegal : Obligations.EveryStepKeepsTheStateLegal := by
  unfold Obligations.EveryStepKeepsTheStateLegal
  intro s t hs e
  exact (legal_iff t).mpr (((legal_iff s).mp hs).step t e)

/-! ## Package reset -/

theorem State.reset_keys : FMap.keys State.reset.cores = List.range 160 := FMap.keys_tabulate

theorem State.reset_core (c : Nat) : State.reset.core c = {} := by
  unfold State.core
  cases hk : State.reset.cores.find c with
  | none => rfl
  | some k =>
    obtain ⟨n, -, e⟩ := List.mem_map.mp (FMap.mem_of_find _ _ _ hk)
    exact (Prod.mk.inj e).2.symm

theorem State.reset_reg {off : Nat} (h : off ≠ 0x402020) : State.reset.reg off = regReset off := if_neg h

theorem regReset_desc {x off : Nat} (hx : x < 64) (ho : off < 0x80) : regReset (0x600000 + 0x80 * x + off) = 0 := by
  unfold regReset
  repeat rw [if_neg (by omega)]

theorem regReset_queue {q : Nat} (hq : q < 64) : regReset (0x500000 + 0x40 * q) = 0 ∧ regReset (0x500008 + 0x40 * q) = 0x3FF00 := by
  unfold regReset
  constructor
  · repeat rw [if_neg (by omega)]
  · rw [if_neg (by omega), if_neg (by omega), if_neg (by omega), if_pos (by omega)]

theorem State.reset_ctxReg {x off : Nat} (hx : x < 64) (ho : off < 0x80) : State.reset.ctxReg x off = 0 :=
  (State.reset_reg (by omega)).trans (regReset_desc hx ho)

theorem resetLeavesTheResetValues : Claims.ResetLeavesTheResetValues := by
  refine ⟨rfl, rfl, rfl, rfl, rfl, rfl, rfl, rfl, rfl, rfl, rfl, rfl, rfl, State.reset_keys, fun c _ => ?_, fun x hx => ?_, fun q hq => ?_,
    rfl, rfl, rfl, rfl, rfl, rfl, rfl⟩
  · rw [State.reset_core]
    exact ⟨rfl, rfl, rfl, rfl, rfl, rfl, rfl, rfl, rfl, rfl, rfl⟩
  · refine ⟨?_, State.reset_ctxReg hx (by omega)⟩
    unfold State.ctxState
    rw [State.reset_ctxReg hx (by omega)]
    rfl
  · obtain ⟨h1, h2⟩ := regReset_queue hq
    exact ⟨(State.reset_reg (by omega)).trans h1, (State.reset_reg (by omega)).trans h2⟩

theorem Legal.reset : Legal State.reset := by
  refine ⟨rfl, rfl, rfl, fun k hk => ?_, rfl, (fun _ hx => by cases hx), rfl, rfl, rfl, State.reset_keys⟩
  obtain ⟨c, -, rfl⟩ := List.mem_map.mp hk
  exact .empty

/-- Settles O54: no register is listed at reset, so each reads as its map's Reset column; every core is the default one. -/
theorem resetLeavesALegalState : Obligations.ResetLeavesALegalState :=
  ⟨resetLeavesTheResetValues, (legal_iff _).mpr .reset⟩

/-! ## The tests that come before an instruction's own effect -/

/-- What an instruction that has words does is its own effect inside the common frame of a unit. -/
theorem exec_eq_runUnit {i : Instr} (h : encode i ≠ []) : ∃ body, ∀ s, exec i s = runUnit i (instrUses i) body s := by
  cases i with
  | laneAgeSaturate | breakpoint | memoryAccessComplete | atomResult | walkComplete | prqEntryPost | prqHeadWrite | prqReplyRetry | prqReplyFail
  | xltInvAll | xltInvFunc | xltInvCtx | xltInvCtxPages | xltInvStage2Pages | xltInvNonglobal | xltInvDone | llcCarveWrite | llcCarveDone
  | cspwinWrite | copyStart | tcopyAccept | barrierEngineArrival | copyComplete | copyFaultPause | copyFail | streamFill | mmaEntryStart
  | mmaEntryComplete | mxGate | frameGrant | frameWaitExpiry | escapeSpillStart | spillComplete | refillComplete | recordReadback | trapDelivery
  | escalation | pendingTrapDelivery | waitevTimeout | packAged | trqPop | trqxRead | park | unpark | release | signal | endtrap | post | failx
  | kill | pkdataRead | pkdataWrite | srdataRead | srdataWrite | inject | emdataRead | emdataWrite | emctlGo | csdataWrite | csctlGo
  | controlStoreInstall | ctxPreempt | ctxRestore | ctxKill | ctxcfgWrite | launchQtailWrite | qbaseWrite | launchEntryRead | nodeRelease
  | workgroupPlace | priorityStarvation | workgroupFinish | launchComplete | nodeDiscard | remoteRequestIngress | remoteResponse | controlRequest
  | mirrorUpdate | lossNotice | fabLossTo | peerClr | linkCrcError | portTrained | linkRekey | portDisable | mint | roll | collAccept | collSplit
  | collChunk | collReduceComplete | collStepTimeout | collMismatchNotice | collEnd | planeBwWindow | kload | kslotZero | exreq | lattolWrite
  | c1Entry | c2Entry | c3Entry | wake | dbgdbRing | halt | resume | step | read | write | setbp | setwp | packageReset | bringupStage
  | registerWrite | longLatencyComplete | accumulatorInstructionComplete | idleClock | collContributionRead =>
    exact absurd rfl h
  | _ => exact ⟨_, fun _ => rfl⟩

/-- No unit that begins makes helper lanes leave: the lanes that issue are the group's. -/
theorem runUnit_begins {i : Instr} {s : State} {u : Cur} {p : Pack} (body : Ctx → Res) (h : Claims.Begins i s u p) :
    runUnit i (instrUses i) body s =
      if p.blockers (usesOf i) u.ig u.depth ≠ [] then
        .next (s.updPack u.core u.slot (fun q => { q with ownStall := some (blockCause i (usesOf i) (p.blockers (usesOf i) u.ig u.depth)) }))
      else .next (finish (ctxOf i s u p) (usesOf i)
        (if (instrUses i).mx && (s.core u.core).mxOwner != some p.wg then { s := s, traps := groupTrap (ctxOf i s u p) tPRIV 3 }
         else if outOfFrame (ctxOf i s u p) (usesOf i) then { s := s, traps := groupTrap (ctxOf i s u p) tFRAME 1 }
         else if xlateTraps p u.ig ≠ [] && !(instrUses i).takesFail then
           { s := s, traps := xlateTraps p u.ig, stay := u.ig &&& ~~~(laneMask ((xlateTraps p u.ig).map LTrap.l)) }
         else { body (ctxOf i s u p) with traps := (ctxOf i s u p).tagged ++ (body (ctxOf i s u p)).traps })) := by
  obtain ⟨hcur, hres, hp, -, hig, hh⟩ := h
  have hstay : (if (instrUses i).helper = true then u.ig else u.ig &&& ~~~(u.ig &&& p.lanesWhere (fun x => x.st == .helper))) = u.ig := by
    rcases hh with hh | hh
    · simp [hh]
    · rw [hh, show ~~~(0 : Word) = BitVec.allOnes 32 from rfl, BitVec.and_allOnes, ite_self]
  have hsame : (if (instrUses i).helper = true then p else if u.ig &&& p.lanesWhere (fun x => x.st == .helper) = 0 then p
      else p.exitLanes (u.ig &&& p.lanesWhere (fun x => x.st == .helper))) = p := by
    rcases hh with hh | hh <;> simp [hh]
  unfold runUnit
  simp only [hcur, hres, State.pack_of_pack? hp, hstay, hsame, State.updPack_same hp, if_neg hig]
  rfl

/-- The end of a unit that has done nothing but trap. -/
theorem finish_trapsEarly {i : Instr} {s : State} {u : Cur} {p : Pack} (hp : s.pack? u.core u.slot = some p) (ts : List LTrap) (w : Word)
    (he : exec i s = .next (finish (ctxOf i s u p) (usesOf i) { s := s, traps := ts, stay := w })) : Claims.TrapsEarly i s u p ts := by
  obtain ⟨toks, ho, -⟩ := finish_spec (ctxOf i s u p) (usesOf i) { s := s, traps := ts, stay := w } rfl hp
  obtain ⟨heq, hdel, -, hfr⟩ := endPack_spec (ctxOf i s u p) (usesOf i) { s := s, traps := ts, stay := w } p rfl
  have hcell := endPack_cell (ctxOf i s u p) (usesOf i) { s := s, traps := ts, stay := w } p rfl
  generalize endPack (ctxOf i s u p) (usesOf i) { s := s, traps := ts, stay := w } p = e at ho heq hdel hfr hcell
  have hs : e.s = p.s := by rw [heq]
  have hm : e.m = p.m := by rw [heq]
  have hf : e.fpc = p.fpc := by rw [heq]
  have hpend : e.pending = p.pending := by rw [heq]
  have hframe : e.trapFrame = p.trapFrame := by rw [heq]
  refine ⟨_, _, he, ho.1, ho.2.1, ho.2.2.1, ho.2.2.2, ho.bytes, ⟨?_, hdel⟩, ⟨fun r l _ => hcell _ r l, fun d => ⟨(hfr d).1, fun r l _ _ => (hfr d).2 r l⟩, ?_⟩, hs, hm, hf, ?_⟩
  · show { e with toks := toks, pending := _ } = _
    rw [heq]
  · exact fun _ => hframe
  · show withTraps e.pending _ _ _ = _
    rw [hpend]
    rfl

/-- What the exit of some lanes and the issue around it keep of a pack: every lane's place, and that a lane has exited. -/
structure KeepsExits (p q : Pack) : Prop where
  pc (l : Nat) : (q.lane l).pc = (p.lane l).pc
  exited (l : Nat) : (p.lane l).st = .exited → (q.lane l).st = .exited

theorem KeepsExits.refl (p : Pack) : KeepsExits p p := ⟨fun _ => rfl, fun _ h => h⟩

theorem KeepsExits.trans {p q r : Pack} (h : KeepsExits p q) (g : KeepsExits q r) : KeepsExits p r :=
  ⟨fun l => (g.pc l).trans (h.pc l), fun l x => g.exited l (h.exited l x)⟩

/-- An update of lanes that moves no lane and leaves exited ones exited. -/
theorem keepsExits_updLanes (p : Pack) (m : Word) {f : Lane → Lane} (hpc : ∀ x, (f x).pc = x.pc) (hst : ∀ x, x.st = .exited → (f x).st = .exited) :
    KeepsExits p (p.updLanes m f) where
  pc l := by rw [Pack.lane_updLanes]; split <;> simp [hpc]
  exited l h := by rw [Pack.lane_updLanes]; split <;> simp [hst, h]

/-- The same of an update of all lanes at once. -/
theorem keepsExits_map {p q : Pack} {f : Lane → Lane} (hq : q.lanes = p.lanes.map f) (hpc : ∀ x, (f x).pc = x.pc) (hst : ∀ x, x.st = .exited → (f x).st = .exited) :
    KeepsExits p q := by
  have hlane : ∀ l, q.lane l = p.lane l ∨ q.lane l = f (p.lane l) := by
    intro l
    simp only [Pack.lane, hq, List.getD_eq_getElem?_getD, List.getElem?_map]
    cases p.lanes[l]? <;> simp
  refine ⟨fun l => ?_, fun l h => ?_⟩
  · rcases hlane l with e | e <;> simp [e, hpc]
  · rcases hlane l with e | e <;> simp [e, hst, h]

theorem keepsExits_psyncSettle (p : Pack) : KeepsExits p p.psyncSettle := by
  refine keepsExits_map rfl (fun x => ?_) (fun x hx => ?_)
  · dsimp only
    split
    · split <;> rfl
    · rfl
  · have hposted : x.posted = none := by simp [Lane.posted, hx]
    simp [hposted, hx]

theorem keepsExits_helpersOut (p : Pack) : KeepsExits p p.helpersOut := by
  unfold Pack.helpersOut
  split
  · exact keepsExits_updLanes p _ (fun _ => rfl) (fun _ _ => rfl)
  · exact KeepsExits.refl p

theorem keepsExits_popFrame (p : Pack) : KeepsExits p p.popFrame := by
  refine keepsExits_map rfl (fun x => ?_) (fun x hx => ?_)
  · split
    · rfl
    · split <;> rfl
  · simp only [hx]
    split
    · simp_all
    · split <;> simp [hx]

theorem keepsExits_reapN (n : Nat) (p : Pack) : KeepsExits p (Pack.reapN n p) := by
  induction n generalizing p with
  | zero => exact KeepsExits.refl p
  | succ n ih =>
    unfold Pack.reapN
    split
    · exact (keepsExits_popFrame p).trans (ih _)
    · exact KeepsExits.refl p

/-- The ages of lanes and their rejoin sets. -/
theorem keepsExits_issue (p : Pack) (el ig m : Word) : KeepsExits p ((p.ages el ig).rejoins m) where
  pc l := by rw [Pack.rejoins_pc, Pack.ages_pc]
  exited l h := by
    rcases ((p.ages_same el ig l).trans (Pack.rejoins_same _ m l)).2 with e | ⟨e, -⟩
    · rw [e, h]
    · rw [h] at e
      exact absurd e (by decide)

/-- Lanes that exit have exited; no lane moves. -/
theorem exitLanes_lane (p : Pack) (m : Word) (l : Nat) :
    ((p.exitLanes m).lane l).pc = (p.lane l).pc ∧ (m.getLsbD l = true → ((p.exitLanes m).lane l).st = .exited) := by
  unfold Pack.exitLanes Pack.reap
  generalize hq : p.updLanes m _ = q
  have hkeep : KeepsExits q (Pack.reapN q.psyncSettle.helpersOut.frames.length q.psyncSettle.helpersOut) :=
    ((keepsExits_psyncSettle q).trans (keepsExits_helpersOut _)).trans (keepsExits_reapN _ _)
  refine ⟨(hkeep.pc l).trans ?_, fun hm => hkeep.exited l ?_⟩
  · rw [← hq, Pack.lane_updLanes]
    split <;> rfl
  · rw [← hq, Pack.lane_updLanes]
    simp [hm]

/-- Two updates under one key are one. -/
theorem FMap.upd_upd {α : Type} (m : FMap α) (k : Nat) (f g : α → α) : (m.upd k f).upd k g = m.upd k (fun x => g (f x)) := by
  induction m with
  | nil => rfl
  | cons x r ih => by_cases h : x.1 = k <;> simp_all [FMap.upd]

/-- Two updates of one pack are one. -/
theorem State.updPack_updPack (s : State) (c sl : Nat) (f g : Pack → Pack) : (s.updPack c sl f).updPack c sl g = s.updPack c sl (fun p => g (f p)) := by
  simp only [State.updPack, FMap.upd_upd]

/-- Helper lanes alone that come to an instruction which is not theirs leave. -/
theorem runUnit_helpersLeave {i : Instr} {s : State} {u : Cur} {p : Pack} (body : Ctx → Res) (hcur : s.cur = some u) (hres : u.resume = none)
    (hp : s.pack? u.core u.slot = some p) (hig : u.ig ≠ 0) (hhelp : (instrUses i).helper = false)
    (hall : ∀ l, l < 32 → u.ig.getLsbD l = true → (p.lane l).st = .helper) :
    runUnit i (instrUses i) body s = .next (s.updPack u.core u.slot (fun _ =>
      { (((p.exitLanes u.ig).ages (p.eligibles u.depth &&& ~~~u.ig) 0).rejoins u.ig) with ownStall := none })) := by
  have hleave : u.ig &&& p.lanesWhere (fun x => x.st == .helper) = u.ig := by
    refine BitVec.eq_of_getLsbD_eq (fun l hl => ?_)
    simp only [BitVec.getLsbD_and, Pack.lanesWhere, getLsbD_laneMask, List.mem_filter, lanes32, List.mem_range, hl, true_and]
    cases hb : u.ig.getLsbD l
    · rfl
    · simp [hall l hl hb]
  unfold runUnit
  simp only [hcur, hres, State.pack_of_pack? hp, hleave, hhelp, Bool.false_eq_true, if_false, if_neg hig, BitVec.and_not_self, if_true]
  exact congrArg Host.Outcome.next (State.updPack_updPack s u.core u.slot _ _)

/-- The XLATE traps of a unit, lane by lane. -/
theorem xlateTraps_eq (p : Pack) (ig : Word) :
    xlateTraps p ig = (lanesOf ig).filterMap (fun l =>
      if (p.lane l).released then (p.lane l).failx.map (fun g => { l := l, code := tXLATE, va := g.va, info := g.bytes }) else none) := by
  unfold xlateTraps
  congr 1
  funext l
  cases (p.lane l).released <;> cases (p.lane l).failx <;> rfl

/-- A released lane whose page request failed traps. -/
theorem xlateTraps_ne_nil {p : Pack} {ig : Word} (h : ∃ l, l < 32 ∧ ig.getLsbD l = true ∧ (p.lane l).released = true ∧ (p.lane l).failx.isSome = true) :
    xlateTraps p ig ≠ [] := by
  obtain ⟨l, -, hl, hr, hf⟩ := h
  obtain ⟨g, hg⟩ := Option.isSome_iff_exists.mp hf
  rw [xlateTraps_eq]
  refine List.ne_nil_of_mem (a := { l := l, code := tXLATE, va := g.va, info := g.bytes }) (List.mem_filterMap.2 ⟨l, by simpa using hl, ?_⟩)
  simp [hr, hg]

/-- Settles O60: the tests of a unit in the order of runUnit, whatever its own effect is. -/
theorem testsBeforeTheEffect : Obligations.TestsBeforeTheEffect := by
  unfold Obligations.TestsBeforeTheEffect
  intro i s u p hw
  obtain ⟨body, hex⟩ := exec_eq_runUnit hw
  refine ⟨fun hcur => ?_, fun hb hblk => ?_, fun hb hblk => ?_, fun hcur hres hp _ hig hhelp hall => ?_⟩
  · rw [hex, runUnit_noUnit hcur]
  · have hp := hb.2.2.1
    rw [hex, runUnit_begins body hb, if_pos hblk]
    exact ⟨_, rfl, rfl, by simp [hp], (OnlyPack.updPack _ hp).2.2.2⟩
  · have hp := hb.2.2.1
    have hend := (hex s).trans (runUnit_begins body hb)
    rw [if_neg (by simp [hblk])] at hend
    have hout : outOfFrame (ctxOf i s u p) (usesOf i) = true ↔ ∃ r ∈ (usesOf i).reads ++ (usesOf i).writes, 8 * (p.frameAt u.depth).size ≤ r := by
      simp only [outOfFrame, List.any_eq_true, decide_eq_true_eq]
      rfl
    have hmx : ((instrUses i).mx && (s.core u.core).mxOwner != some p.wg) = true ↔ (instrUses i).mx = true ∧ (s.core u.core).mxOwner ≠ some p.wg := by
      simp
    refine ⟨fun hbad => ?_, fun hbad ho => ?_, fun hbad ho hfail hx => ?_⟩
    · rw [if_pos (hmx.2 hbad)] at hend
      exact finish_trapsEarly hp _ _ hend
    · rw [if_neg (mt hmx.1 hbad), if_pos (hout.2 ho)] at hend
      exact finish_trapsEarly hp _ _ hend
    · rw [if_neg (mt hmx.1 hbad), if_neg (mt hout.1 ho), if_pos (by simp [hfail, xlateTraps_ne_nil hx])] at hend
      rw [← xlateTraps_eq]
      exact finish_trapsEarly hp _ _ hend
  · refine ⟨_, _, (hex s).trans (runUnit_helpersLeave body hcur hres hp hig hhelp hall), rfl, ⟨by simp [hp]; rfl, (OnlyPack.updPack _ hp).2.2.2⟩, fun l _ => ⟨fun hl => ?_, fun _ => ?_⟩⟩
    · exact (keepsExits_issue _ _ _ _).exited l ((exitLanes_lane p u.ig l).2 hl)
    · exact ((keepsExits_issue _ _ _ _).pc l).trans (exitLanes_lane p u.ig l).1

/-! ## A state that lists a register twice -/

/-- Package reset, but with the register at 0x720008 listed twice, both times with the value 1. Such a list is not ordered, so the state is not legal. -/
def listedTwice : State := { State.reset with regs := [(0x720008, 1), (0x720008, 1)] }

/-- The write of its reset value to a register removes one entry from the list; the other one still reads 1. -/
theorem registerWrite_listedTwice : ∃ t, exec (.registerWrite (.mmio 0x720008) 0) listedTwice = .next t ∧ t.reg 0x720008 = 1 :=
  ⟨_, rfl, rfl⟩

/-- Refutes O53: the statement speaks of every state, also of one whose register list is not ordered (one that is not legal). Where an address is listed twice, writing 0
to that plain register leaves it at 1. -/
theorem not_registerWritesActAsTheirRows : ¬ Obligations.RegisterWritesActAsTheirRows := by
  unfold Obligations.RegisterWritesActAsTheirRows
  intro h
  obtain ⟨hplain, -⟩ := h listedTwice 0
  obtain ⟨t, ht, -, hreg, -⟩ := hplain (0x720008, 2 ^ 64 - 1) (by simp [Claims.plainRegs])
  have hzero : t.reg 0x720008 = 0 := hreg _ (List.mem_singleton.2 rfl)
  obtain ⟨t', ht', hone⟩ := registerWrite_listedTwice
  have hsame : t = t' := Host.Outcome.next.inj (ht.symm.trans ht')
  rw [hsame, hone] at hzero
  exact absurd hzero (by decide)

end Sys2Proof.Machine
end

section
namespace Sys2Proof.Machine
open Sys2Proof

set_option Elab.async false

/-! ## Reading a word's fields back -/

/-- A field of bits [24:0] at `lo`, below a field at `lo + s`, reads its own value back. -/
theorem fld_wd {op r lo s n q l : Nat} {x : BitVec n} (hr : r = (q * 2 ^ s + x.toNat) * 2 ^ lo + l) (hl : l < 2 ^ lo := by omega) (hn : n ≤ s := by omega)
    (hb : lo + n ≤ 25 := by omega) : fld (wd op r) lo n = x := by
  obtain ⟨c, hc⟩ : 2 ^ n ∣ 2 ^ s := Nat.pow_dvd_pow 2 hn
  have hop : 33554432 = 2 ^ lo * (2 ^ n * 2 ^ (25 - (lo + n))) := by
    rw [← Nat.pow_add, ← Nat.pow_add, show lo + (n + (25 - (lo + n))) = 25 by omega]
  have hw : wd op r = 2 ^ lo * (2 ^ n * (2 ^ (25 - (lo + n)) * op + q * c) + x.toNat) + l := by
    rw [wd, hr, hc, hop]
    ring
  refine BitVec.eq_of_toNat_eq ?_
  rw [fld, BitVec.toNat_ofNat, hw, Nat.mul_add_div (Nat.two_pow_pos lo), Nat.div_eq_of_lt hl, Nat.add_zero, Nat.mul_add_mod, Nat.mod_eq_of_lt x.isLt]

theorem fld_eq {w lo n : Nat} {x : BitVec n} (h : w / 2 ^ lo % 2 ^ n = x.toNat) : fld w lo n = x :=
  BitVec.eq_of_toNat_eq (by rw [fld, BitVec.toNat_ofNat, h])

theorem wd_div {op r : Nat} (h : r < 33554432) : wd op r / 33554432 = op := by unfold wd; omega

theorem wd_code {op r k : Nat} (h : r % 16 = k) : wd op r % 16 = k := by unfold wd; omega

/-- A narrow field is a number below the bound of the place it stands in. -/
theorem toNat_lt_of_le {n s : Nat} (x : BitVec n) (h : n ≤ s) : x.toNat < 2 ^ s := Nat.lt_of_lt_of_le x.isLt (Nat.pow_le_pow_right (by decide) h)

/-! ## The unit of an instruction -/

/-- A unit as the decoder reads it (R30, R31, R33): prefixes, a word of a major below 126, a second word exactly where the major has one, and the map's row for these
words names the instruction. -/
structure UnitOf (p : Option Pfx) (h : Option (BitVec 21)) (w : Nat) (v : List Nat) (i : Instr) : Prop where
  words : encode i = pfxW p ++ (imxW h ++ w :: v)
  major : w / 33554432 < 126
  second : v.length = if twoWordOp w then 1 else 0
  short : ∀ x ∈ v, x < 2 ^ 32
  named : ∀ rest, candidate p h w ((v ++ rest).headD 0) = some i

/-- The instruction is written as such a unit. -/
def HasUnit (i : Instr) : Prop := ∃ p h w v, UnitOf p h w v i

/-- Majors of one word, and of two (R28, R43, R50, R52, R54). -/
abbrev OneWord (op : Nat) : Prop := op < 126 ∧ [5, 104, 105, 106, 112, 116, 118, 120].contains op = false
abbrev TwoWords (op : Nat) : Prop := op < 126 ∧ [5, 104, 105, 106, 112, 116, 118, 120].contains op = true

namespace HasUnit
variable {op : Nat}

theorem one (p : Option Pfx) (h : Option (BitVec 21)) {r : Nat} {i : Instr} (he : encode i = pfxW p ++ (imxW h ++ [wd op r])) (hr : r < 33554432)
    (hop : OneWord op) (hc : ∀ v, candidate p h (wd op r) v = some i) : HasUnit i :=
  ⟨p, h, wd op r, [], he, by rw [wd_div hr]; exact hop.1, by rw [twoWordOp, wd_div hr, hop.2]; rfl, by simp, fun _ => hc _⟩

theorem two {r v : Nat} {i : Instr} (he : encode i = [wd op r, v]) (hr : r < 33554432) (hv : v < 2 ^ 32) (hop : TwoWords op)
    (hc : candidate none none (wd op r) v = some i) : HasUnit i :=
  ⟨none, none, wd op r, [v], he, by rw [wd_div hr]; exact hop.1, by rw [twoWordOp, wd_div hr, hop.2]; rfl, by simpa using hv, fun _ => hc⟩

/-! The layouts that several instructions share (R28, R43, R51): the row of the map reads the fields where the encoding puts them, k is the function code in bits [3:0].
The last two hypotheses are closed facts about one row. -/

theorem code (k : Nat) {i : Instr} (he : encode i = [wd op k]) (hk : k < 16 := by decide) (hop : OneWord op := by decide)
    (hc : ∀ w v, w / 33554432 = op → w % 16 = k → candidate none none w v = some i := by intro w v hw hk; rw [candidate, hw, hk]; rfl) : HasUnit i :=
  one none none he (by omega) hop (fun v => hc _ v (wd_div (by omega)) (wd_code (by omega)))

theorem aCode (k : Nat) {r : Nat} {mk : VReg → Instr} {a : VReg} (he : encode (mk a) = [wd op r]) (hr : r = a.toNat * 2048 + k := by omega) (hk : k < 16 := by decide) (hop : OneWord op := by decide)
    (hc : ∀ w v, w / 33554432 = op → w % 16 = k → candidate none none w v = some (mk (fld w 11 7)) := by intro w v hw hk; rw [candidate, hw, hk]; rfl) : HasUnit (mk a) := by
  subst hr
  refine one none none he (by omega) hop (fun v => (hc _ v (wd_div (by omega)) (wd_code (by omega))).trans ?_)
  rw [fld_wd (s := 7) (q := 0) (l := k) (x := a) (by omega)]

theorem daCode (p : Option Pfx) (k : Nat) {r : Nat} {n m : Nat} {mk : BitVec n → BitVec m → Instr} {d : BitVec n} {a : BitVec m}
    (he : encode (mk d a) = pfxW p ++ [wd op r]) (hr : r = d.toNat * 262144 + a.toNat * 2048 + k := by omega) (hn : n ≤ 7 := by decide) (hm : m ≤ 7 := by decide) (hk : k < 16 := by decide)
    (hop : OneWord op := by decide)
    (hc : ∀ w v, w / 33554432 = op → w % 16 = k → candidate p none w v = some (mk (fld w 18 n) (fld w 11 m)) := by intro w v hw hk; rw [candidate, hw, hk]; rfl) :
    HasUnit (mk d a) := by
  subst hr
  have hd := toNat_lt_of_le d hn
  have ha := toNat_lt_of_le a hm
  refine one p none he (by omega) hop (fun v => (hc _ v (wd_div (by omega)) (wd_code (by omega))).trans ?_)
  rw [fld_wd (s := 7) (q := 0) (l := a.toNat * 2048 + k) (x := d) (by omega), fld_wd (s := 7) (q := d.toNat) (l := k) (x := a) (by omega)]

theorem dabCode (p : Option Pfx) (k : Nat) {r : Nat} {n : Nat} {mk : BitVec n → VReg → VReg → Instr} {d : BitVec n} {a b : VReg}
    (he : encode (mk d a b) = pfxW p ++ [wd op r]) (hr : r = d.toNat * 262144 + a.toNat * 2048 + b.toNat * 16 + k := by omega) (hn : n ≤ 7 := by decide) (hk : k < 16 := by decide)
    (hop : OneWord op := by decide)
    (hc : ∀ w v, w / 33554432 = op → w % 16 = k → candidate p none w v = some (mk (fld w 18 n) (fld w 11 7) (fld w 4 7)) := by
      intro w v hw hk; rw [candidate, hw, hk]; rfl) : HasUnit (mk d a b) := by
  subst hr
  have hd := toNat_lt_of_le d hn
  refine one p none he (by omega) hop (fun v => (hc _ v (wd_div (by omega)) (wd_code (by omega))).trans ?_)
  rw [fld_wd (s := 7) (q := 0) (l := a.toNat * 2048 + b.toNat * 16 + k) (x := d) (by omega), fld_wd (s := 7) (q := d.toNat) (l := b.toNat * 16 + k) (x := a) (by omega),
    fld_wd (s := 7) (q := d.toNat * 128 + a.toNat) (l := k) (x := b) (by omega)]

theorem dabX (p : Option Pfx) {n : Nat} {mk : VReg → VReg → VReg → BitVec n → Instr} {d a b : VReg} {x : BitVec n}
    (he : encode (mk d a b x) = pfxW p ++ [wd op (d.toNat * 262144 + a.toNat * 2048 + b.toNat * 16 + x.toNat)]) (hn : n ≤ 4 := by decide) (hop : OneWord op := by decide)
    (hc : ∀ w v, w / 33554432 = op → candidate p none w v = some (mk (fld w 18 7) (fld w 11 7) (fld w 4 7) (fld w 0 n)) := by
      intro w v hw; rw [candidate, hw]; rfl) : HasUnit (mk d a b x) := by
  have hx := toNat_lt_of_le x hn
  refine one p none he (by omega) hop (fun v => (hc _ v (wd_div (by omega))).trans ?_)
  rw [fld_wd (s := 7) (q := 0) (l := a.toNat * 2048 + b.toNat * 16 + x.toNat) (x := d) (by omega),
    fld_wd (s := 7) (q := d.toNat) (l := b.toNat * 16 + x.toNat) (x := a) (by omega),
    fld_wd (s := 7) (q := d.toNat * 128 + a.toNat) (l := x.toNat) (x := b) (by omega),
    fld_wd (s := 4) (q := d.toNat * 16384 + a.toNat * 128 + b.toNat) (l := 0) (x := x) (by omega)]

theorem abCode (k : Nat) {r : Nat} {mk : VReg → VReg → Instr} {a b : VReg} (he : encode (mk a b) = [wd op r]) (hr : r = a.toNat * 2048 + b.toNat * 16 + k := by omega) (hk : k < 16 := by decide)
    (hop : OneWord op := by decide)
    (hc : ∀ w v, w / 33554432 = op → w % 16 = k → candidate none none w v = some (mk (fld w 11 7) (fld w 4 7)) := by intro w v hw hk; rw [candidate, hw, hk]; rfl) :
    HasUnit (mk a b) := by
  subst hr
  refine one none none he (by omega) hop (fun v => (hc _ v (wd_div (by omega)) (wd_code (by omega))).trans ?_)
  rw [fld_wd (s := 7) (q := 0) (l := b.toNat * 16 + k) (x := a) (by omega), fld_wd (s := 7) (q := a.toNat) (l := k) (x := b) (by omega)]

/-- The special functions, whose function code stands above the lookahead (R47). -/
theorem sfu (k : Nat) {r : Nat} {mk : VReg → VReg → BitVec 4 → Instr} {p : Option Pfx} {d a : VReg} {x : BitVec 4}
    (he : encode (mk d a x) = pfxW p ++ [wd 82 r]) (hr : r = d.toNat * 262144 + a.toNat * 2048 + x.toNat + 16 * k := by omega) (hk : k < 8 := by decide)
    (hc : ∀ w v, w / 33554432 = 82 → w / 16 % 8 = k → candidate p none w v = some (mk (fld w 18 7) (fld w 11 7) (fld w 0 4)) := by
      intro w v hw hk; rw [candidate, hw, hk]; rfl) : HasUnit (mk d a x) := by
  subst hr
  refine one p none he (by omega) (by decide) (fun v => (hc _ v (wd_div (by omega)) (by unfold wd; omega)).trans ?_)
  rw [fld_wd (s := 7) (q := 0) (l := a.toNat * 2048 + x.toNat + 16 * k) (x := d) (by omega), fld_wd (s := 7) (q := d.toNat) (l := x.toNat + 16 * k) (x := a) (by omega),
    fld_wd (s := 4) (q := d.toNat * 16384 + a.toNat * 128 + k) (l := 0) (x := x) (by omega)]

theorem daX (p : Option Pfx) {n : Nat} {mk : VReg → VReg → BitVec n → Instr} {d a : VReg} {x : BitVec n}
    (he : encode (mk d a x) = pfxW p ++ [wd op (d.toNat * 262144 + a.toNat * 2048 + x.toNat)]) (hn : n ≤ 11 := by decide) (hop : OneWord op := by decide)
    (hc : ∀ w v, w / 33554432 = op → candidate p none w v = some (mk (fld w 18 7) (fld w 11 7) (fld w 0 n)) := by intro w v hw; rw [candidate, hw]; rfl) :
    HasUnit (mk d a x) := by
  have hx := toNat_lt_of_le x hn
  refine one p none he (by omega) hop (fun v => (hc _ v (wd_div (by omega))).trans ?_)
  rw [fld_wd (s := 7) (q := 0) (l := a.toNat * 2048 + x.toNat) (x := d) (by omega), fld_wd (s := 7) (q := d.toNat) (l := x.toNat) (x := a) (by omega),
    fld_wd (s := 11) (q := d.toNat * 128 + a.toNat) (l := 0) (x := x) (by omega)]

/-- Two fields y and x in bits [10:0], y at bit c. -/
theorem daYX (c : Nat) {p : Option Pfx} {n m : Nat} {mk : VReg → VReg → BitVec n → BitVec m → Instr} {d a : VReg} {y : BitVec n} {x : BitVec m}
    (he : encode (mk d a y x) = pfxW p ++ [wd op (d.toNat * 262144 + a.toNat * 2048 + y.toNat * 2 ^ c + x.toNat)]) (hn : c + n ≤ 11 := by decide) (hm : m ≤ c := by decide)
    (hop : OneWord op := by decide)
    (hc : ∀ w v, w / 33554432 = op → candidate p none w v = some (mk (fld w 18 7) (fld w 11 7) (fld w c n) (fld w 0 m)) := by intro w v hw; rw [candidate, hw]; rfl) :
    HasUnit (mk d a y x) := by
  have hx := toNat_lt_of_le x hm
  obtain ⟨e, he11⟩ : ∃ e, 11 = c + e := ⟨11 - c, by omega⟩
  have h11 : 2048 = 2 ^ e * 2 ^ c := by rw [← Nat.pow_add, Nat.add_comm, ← he11]
  have hyx : y.toNat * 2 ^ c + x.toNat < 2048 := by
    have hy := toNat_lt_of_le y (show n ≤ e by omega)
    calc y.toNat * 2 ^ c + x.toNat < (y.toNat + 1) * 2 ^ c := by rw [Nat.add_mul]; omega
      _ ≤ 2 ^ e * 2 ^ c := Nat.mul_le_mul_right _ hy
      _ = 2048 := h11.symm
  refine one p none he (by omega) hop (fun v => (hc _ v (wd_div (by omega))).trans ?_)
  rw [fld_wd (s := 7) (q := 0) (l := a.toNat * 2048 + (y.toNat * 2 ^ c + x.toNat)) (x := d) (by omega),
    fld_wd (s := 7) (q := d.toNat) (l := y.toNat * 2 ^ c + x.toNat) (x := a) (by omega),
    fld_wd (s := e) (q := d.toNat * 128 + a.toNat) (l := x.toNat) (x := y) (by rw [show d.toNat * 262144 + a.toNat * 2048 = (d.toNat * 128 + a.toNat) * 2048 by omega, h11]; ring),
    fld_wd (s := c) (q := (d.toNat * 128 + a.toNat) * 2 ^ e + y.toNat) (l := 0) (x := x) (by rw [show d.toNat * 262144 + a.toNat * 2048 = (d.toNat * 128 + a.toNat) * 2048 by omega, h11]; ring)]

theorem dX {n : Nat} {mk : VReg → BitVec n → Instr} {d : VReg} {x : BitVec n} (he : encode (mk d x) = [wd op (d.toNat * 262144 + x.toNat)]) (hn : n ≤ 18 := by decide)
    (hop : OneWord op := by decide)
    (hc : ∀ w v, w / 33554432 = op → candidate none none w v = some (mk (fld w 18 7) (fld w 0 n)) := by intro w v hw; rw [candidate, hw]; rfl) : HasUnit (mk d x) := by
  have hx := toNat_lt_of_le x hn
  refine one none none he (by omega) hop (fun v => (hc _ v (wd_div (by omega))).trans ?_)
  rw [fld_wd (s := 7) (q := 0) (l := x.toNat) (x := d) (by omega), fld_wd (s := 18) (q := d.toNat) (l := 0) (x := x) (by omega)]

theorem onlyX {n : Nat} {mk : BitVec n → Instr} {x : BitVec n} (he : encode (mk x) = [wd op x.toNat]) (hn : n ≤ 25 := by decide) (hop : OneWord op := by decide)
    (hc : ∀ w v, w / 33554432 = op → candidate none none w v = some (mk (fld w 0 n)) := by intro w v hw; rw [candidate, hw]; rfl) : HasUnit (mk x) := by
  have hx := toNat_lt_of_le x hn
  refine one none none he (by omega) hop (fun v => (hc _ v (wd_div (by omega))).trans ?_)
  rw [fld_wd (s := 25) (q := 0) (l := 0) (x := x) (by omega)]

/-- I format. -/
theorem daImm (p : Option Pfx) {mk : VReg → VReg → Imm 11 → Instr} {d a : VReg} {i : Imm 11}
    (he : encode (mk d a i) = pfxW p ++ (imxW i.hi ++ [wd op (d.toNat * 262144 + a.toNat * 2048 + i.lo.toNat)])) (hop : OneWord op := by decide)
    (hc : ∀ h w v, w / 33554432 = op → candidate p h w v = some (mk (fld w 18 7) (fld w 11 7) ⟨h, fld w 0 11⟩) := by intro h w v hw; rw [candidate, hw]; rfl) :
    HasUnit (mk d a i) := by
  refine one p i.hi he (by omega) hop (fun v => (hc _ _ v (wd_div (by omega))).trans ?_)
  rw [fld_wd (s := 7) (q := 0) (l := a.toNat * 2048 + i.lo.toNat) (x := d) (by omega), fld_wd (s := 7) (q := d.toNat) (l := i.lo.toNat) (x := a) (by omega),
    fld_wd (s := 11) (q := d.toNat * 128 + a.toNat) (l := 0) (x := i.lo) (by omega)]

/-- W format. -/
theorem dImm (p : Option Pfx) {mk : VReg → Imm 18 → Instr} {d : VReg} {i : Imm 18}
    (he : encode (mk d i) = pfxW p ++ (imxW i.hi ++ [wd op (d.toNat * 262144 + i.lo.toNat)])) (hop : OneWord op := by decide)
    (hc : ∀ h w v, w / 33554432 = op → candidate p h w v = some (mk (fld w 18 7) ⟨h, fld w 0 18⟩) := by intro h w v hw; rw [candidate, hw]; rfl) : HasUnit (mk d i) := by
  refine one p i.hi he (by omega) hop (fun v => (hc _ _ v (wd_div (by omega))).trans ?_)
  rw [fld_wd (s := 7) (q := 0) (l := i.lo.toNat) (x := d) (by omega), fld_wd (s := 18) (q := d.toNat) (l := 0) (x := i.lo) (by omega)]

/-- M format. -/
theorem mem (p : Option Pfx) {mk : VReg → VReg → BitVec 3 → Imm 4 → BitVec 4 → Instr} {d a : VReg} {z : BitVec 3} {i : Imm 4} {x : BitVec 4}
    (he : encode (mk d a z i x) = pfxW p ++ (imxW i.hi ++ [wd op (d.toNat * 262144 + a.toNat * 2048 + z.toNat * 256 + i.lo.toNat * 16 + x.toNat)]))
    (hop : OneWord op := by decide)
    (hc : ∀ h w v, w / 33554432 = op → candidate p h w v = some (mk (fld w 18 7) (fld w 11 7) (fld w 8 3) ⟨h, fld w 4 4⟩ (fld w 0 4)) := by
      intro h w v hw; rw [candidate, hw]; rfl) : HasUnit (mk d a z i x) := by
  refine one p i.hi he (by omega) hop (fun v => (hc _ _ v (wd_div (by omega))).trans ?_)
  rw [fld_wd (s := 7) (q := 0) (l := a.toNat * 2048 + z.toNat * 256 + i.lo.toNat * 16 + x.toNat) (x := d) (by omega),
    fld_wd (s := 7) (q := d.toNat) (l := z.toNat * 256 + i.lo.toNat * 16 + x.toNat) (x := a) (by omega),
    fld_wd (s := 3) (q := d.toNat * 128 + a.toNat) (l := i.lo.toNat * 16 + x.toNat) (x := z) (by omega),
    fld_wd (s := 4) (q := d.toNat * 1024 + a.toNat * 8 + z.toNat) (l := x.toNat) (x := i.lo) (by omega),
    fld_wd (s := 4) (q := d.toNat * 16384 + a.toNat * 128 + z.toNat * 16 + i.lo.toNat) (l := 0) (x := x) (by omega)]

/-! The layouts of one or two instructions, each row of the map written out. -/

theorem row (p : Option Pfx) (h : Option (BitVec 21)) (f : Nat → Instr) {r : Nat} {i : Instr} (he : encode i = pfxW p ++ (imxW h ++ [wd op r]))
    (hr : r < 33554432 := by omega) (hop : OneWord op := by decide)
    (hc : ∀ w v, w / 33554432 = op → candidate p h w v = some (f w) := by intro w v hw; rw [candidate, hw]; rfl)
    (hf : f (wd op r) = i := by beta_reduce; unfold wd; congr 1 <;> exact fld_eq (by omega)) : HasUnit i :=
  one p h he hr hop (fun v => by rw [hc _ v (wd_div hr), hf])

theorem rowCode (k : Nat) (f : Nat → Instr) {r : Nat} {i : Instr} (he : encode i = [wd op r])
    (hr : r < 33554432 := by omega) (hk : r % 16 = k := by omega) (hop : OneWord op := by decide)
    (hc : ∀ w v, w / 33554432 = op → w % 16 = k → candidate none none w v = some (f w) := by intro w v hw hk; rw [candidate, hw, hk]; rfl)
    (hf : f (wd op r) = i := by beta_reduce; unfold wd; congr 1 <;> exact fld_eq (by omega)) : HasUnit i :=
  one none none he hr hop (fun v => by rw [hc _ v (wd_div hr) (wd_code hk), hf])

theorem rowTwo (f : Nat → Nat → Instr) {r v : Nat} {i : Instr} (he : encode i = [wd op r, v])
    (hr : r < 33554432 := by omega) (hv : v < 2 ^ 32 := by omega) (hop : TwoWords op := by decide)
    (hc : ∀ w, w / 33554432 = op → candidate none none w v = some (f w v) := by intro w hw; rw [candidate, hw]; rfl)
    (hf : f (wd op r) v = i := by beta_reduce; unfold wd; congr 1 <;> exact fld_eq (by omega)) : HasUnit i :=
  two he hr hv hop (by rw [hc _ (wd_div hr), hf])

theorem brc (m : BitVec 3) (k : BitVec 1) (o : BitVec 21) : HasUnit (.brc m k o) :=
  .row none none (fun w => .brc (fld w 22 3) (fld w 21 1) (fld w 0 21)) rfl

theorem call (dem argc retc : BitVec 4) (ab : VReg) (off : BitVec 32) : HasUnit (.call dem argc retc ab off) :=
  .rowTwo (fun w v => .call (fld w 21 4) (fld w 17 4) (fld w 13 4) (fld w 6 7) (fld v 0 32)) rfl

theorem callx (dem argc retc : BitVec 4) (ab : VReg) (r : BitVec 5) : HasUnit (.callx dem argc retc ab r) :=
  .row none none (fun w => .callx (fld w 21 4) (fld w 17 4) (fld w 13 4) (fld w 6 7) (fld w 1 5)) rfl

theorem icmp (p : Option Pfx) (m : BitVec 3) (c : BitVec 4) (a b : VReg) (x : BitVec 4) : HasUnit (.icmp p m c a b x) :=
  .row p none (fun w => .icmp p (fld w 22 3) (fld w 18 4) (fld w 11 7) (fld w 4 7) (fld w 0 4)) rfl

theorem fcmp (p : Option Pfx) (m : BitVec 3) (c : BitVec 4) (a b : VReg) (x : BitVec 4) : HasUnit (.fcmp p m c a b x) :=
  .row p none (fun w => .fcmp p (fld w 22 3) (fld w 18 4) (fld w 11 7) (fld w 4 7) (fld w 0 4)) rfl

theorem cvtf (p : Option Pfx) (d a : VReg) (src : BitVec 4) (dst : BitVec 3) (la : BitVec 4) : HasUnit (.cvtf p d a src dst la) :=
  .row p none (fun w => .cvtf p (fld w 18 7) (fld w 11 7) (fld w 7 4) (fld w 4 3) (fld w 0 4)) rfl

theorem cvti (p : Option Pfx) (d a : VReg) (src dst : BitVec 3) (sat : BitVec 1) (la : BitVec 4) : HasUnit (.cvti p d a src dst sat la) :=
  .row p none (fun w => .cvti p (fld w 18 7) (fld w 11 7) (fld w 8 3) (fld w 5 3) (fld w 4 1) (fld w 0 4)) rfl

theorem atom (d a b : VReg) (la : BitVec 4) (sm : BitVec 3) (hint : BitVec 2) (c : VReg) (width : BitVec 2) (scope : BitVec 3) (order : BitVec 2) (k : BitVec 4) : HasUnit (.atom d a b la sm hint c width scope order k) :=
  .rowTwo (fun w v => .atom (fld w 18 7) (fld w 11 7) (fld w 4 7) (fld w 0 4) (fld v 20 3) (fld v 18 2) (fld v 11 7) (fld v 9 2) (fld v 6 3) (fld v 4 2) (fld v 0 4)) rfl

theorem atomr (d a b : VReg) (la : BitVec 4) (sm : BitVec 3) (hint : BitVec 2) (c : VReg) (width : BitVec 2) (scope : BitVec 3) (order : BitVec 2) (k : BitVec 4) : HasUnit (.atomr d a b la sm hint c width scope order k) :=
  .rowTwo (fun w v => .atomr (fld w 18 7) (fld w 11 7) (fld w 4 7) (fld w 0 4) (fld v 20 3) (fld v 18 2) (fld v 11 7) (fld v 9 2) (fld v 6 3) (fld v 4 2) (fld v 0 4)) rfl

theorem red (d a b : VReg) (la : BitVec 4) (sm : BitVec 3) (hint : BitVec 2) (c : VReg) (width : BitVec 2) (scope : BitVec 3) (order : BitVec 2) (k : BitVec 4) : HasUnit (.red d a b la sm hint c width scope order k) :=
  .rowTwo (fun w v => .red (fld w 18 7) (fld w 11 7) (fld w 4 7) (fld w 0 4) (fld v 20 3) (fld v 18 2) (fld v 11 7) (fld v 9 2) (fld v 6 3) (fld v 4 2) (fld v 0 4)) rfl

theorem tcopy (tile : BitVec 8) (base bar : BitVec 5) (acq rel dig : BitVec 1) (la : BitVec 4) (shape : BitVec 12) (scope : BitVec 3) (rop : BitVec 4) : HasUnit (.tcopy tile base bar acq rel dig la shape scope rop) :=
  .rowTwo (fun w v => .tcopy (fld w 17 8) (fld w 12 5) (fld w 7 5) (fld w 6 1) (fld w 5 1) (fld w 4 1) (fld w 0 4) (fld v 20 12) (fld v 17 3) (fld v 13 4)) rfl

theorem strmFeeda (t : BitVec 8) : HasUnit (.strmFeeda t) :=
  .rowCode 0 (fun w => .strmFeeda (fld w 17 8)) rfl

theorem strmFeedb (t : BitVec 8) : HasUnit (.strmFeedb t) :=
  .rowCode 1 (fun w => .strmFeedb (fld w 17 8)) rfl

theorem strmReplay (n : BitVec 6) (k : BitVec 7) : HasUnit (.strmReplay n k) :=
  .rowCode 2 (fun w => .strmReplay (fld w 11 6) (fld w 4 7)) rfl

theorem coll (base bar : BitVec 5) (la : BitVec 4) (rec : BitVec 16) : HasUnit (.coll base bar la rec) :=
  .rowTwo (fun w v => .coll (fld w 20 5) (fld w 15 5) (fld w 0 4) (fld v 0 16)) rfl

theorem mma (acc : BitVec 6) (ty kch : BitVec 3) (asc : VReg) (la : BitVec 4) (zf : BitVec 1) (bsel : BitVec 2) (bsc : BitVec 5) : HasUnit (.mma acc ty kch asc la zf bsel bsc) :=
  .rowTwo (fun w v => .mma (fld w 19 6) (fld w 16 3) (fld w 13 3) (fld w 6 7) (fld w 0 4) (fld v 7 1) (fld v 5 2) (fld v 0 5)) rfl

theorem accz (acc : BitVec 6) (x : BitVec 1) : HasUnit (.accz acc x) :=
  .row none none (fun w => .accz (fld w 12 6) (fld w 0 1)) rfl

theorem accrd (d : VReg) (acc col : BitVec 6) (x : BitVec 4) : HasUnit (.accrd d acc col x) :=
  .row none none (fun w => .accrd (fld w 18 7) (fld w 12 6) (fld w 6 6) (fld w 0 4)) rfl

theorem accwr (a : VReg) (acc col : BitVec 6) (x : BitVec 4) : HasUnit (.accwr a acc col x) :=
  .row none none (fun w => .accwr (fld w 18 7) (fld w 12 6) (fld w 6 6) (fld w 0 4)) rfl

theorem accopScale (a : VReg) (acc : BitVec 6) : HasUnit (.accopScale a acc) :=
  .rowCode 0 (fun w => .accopScale (fld w 18 7) (fld w 12 6)) rfl

theorem accopAddrow (a : VReg) (acc : BitVec 6) : HasUnit (.accopAddrow a acc) :=
  .rowCode 5 (fun w => .accopAddrow (fld w 18 7) (fld w 12 6)) rfl

theorem accopRowmax (d : VReg) (acc : BitVec 6) : HasUnit (.accopRowmax d acc) :=
  .rowCode 1 (fun w => .accopRowmax (fld w 18 7) (fld w 12 6)) rfl

theorem accopRowsum (d : VReg) (acc : BitVec 6) : HasUnit (.accopRowsum d acc) :=
  .rowCode 2 (fun w => .accopRowsum (fld w 18 7) (fld w 12 6)) rfl

theorem accopExps (a : VReg) (acc : BitVec 6) (c : BitVec 5) : HasUnit (.accopExps a acc c) :=
  .rowCode 3 (fun w => .accopExps (fld w 18 7) (fld w 12 6) (fld w 4 5)) rfl

theorem accopMaskc (acc : BitVec 6) (off : BitVec 8) : HasUnit (.accopMaskc acc off) :=
  .rowCode 4 (fun w => .accopMaskc (fld w 12 6) (fld w 4 8)) rfl

theorem accmvTotile (t : BitVec 8) (acc : BitVec 6) (et : BitVec 3) : HasUnit (.accmvTotile t acc et) :=
  .rowCode 0 (fun w => .accmvTotile (fld w 17 8) (fld w 11 6) (fld w 4 3)) rfl

theorem accmvFromtile (t : BitVec 8) (acc : BitVec 6) (et : BitVec 3) : HasUnit (.accmvFromtile t acc et) :=
  .rowCode 1 (fun w => .accmvFromtile (fld w 17 8) (fld w 11 6) (fld w 4 3)) rfl

theorem accmvSave (t : BitVec 8) (acc : BitVec 6) : HasUnit (.accmvSave t acc) :=
  .rowCode 2 (fun w => .accmvSave (fld w 17 8) (fld w 11 6)) rfl

theorem accmvLoad (t : BitVec 8) (acc : BitVec 6) : HasUnit (.accmvLoad t acc) :=
  .rowCode 3 (fun w => .accmvLoad (fld w 17 8) (fld w 11 6)) rfl

theorem fenceLite (scope : BitVec 3) : HasUnit (.fenceLite scope) :=
  .rowCode 4 (fun w => .fenceLite (fld w 18 3)) rfl

theorem fenceHeavy (scope : BitVec 3) : HasUnit (.fenceHeavy scope) :=
  .rowCode 5 (fun w => .fenceHeavy (fld w 18 3)) rfl

theorem fenceTc (scope : BitVec 3) : HasUnit (.fenceTc scope) :=
  .rowCode 6 (fun w => .fenceTc (fld w 18 3)) rfl

theorem fenceShape (scope : BitVec 3) : HasUnit (.fenceShape scope) :=
  .rowCode 7 (fun w => .fenceShape (fld w 18 3)) rfl

theorem icmpi (p : Option Pfx) (m : BitVec 3) (c : BitVec 4) (a : VReg) (i : Imm 11) : HasUnit (.icmpi p m c a i) :=
  .row p i.hi (fun w => .icmpi p (fld w 22 3) (fld w 18 4) (fld w 11 7) ⟨i.hi, fld w 0 11⟩) rfl
    (hf := by unfold wd; rw [fld_eq (x := m) (by omega), fld_eq (x := c) (by omega), fld_eq (x := a) (by omega), fld_eq (x := i.lo) (by omega)])

theorem cctl (a : VReg) (w : BitVec 3) (i : Imm 4) (la : BitVec 4) : HasUnit (.cctl a w i la) :=
  .row none i.hi (fun w => .cctl (fld w 11 7) (fld w 8 3) ⟨i.hi, fld w 4 4⟩ (fld w 0 4)) rfl
    (hf := by unfold wd; rw [fld_eq (x := a) (by omega), fld_eq (x := w) (by omega), fld_eq (x := i.lo) (by omega), fld_eq (x := la) (by omega)])

/-- Any function code below 4 is a plain FENCE (R53). -/
theorem fence (scope : BitVec 3) (k : BitVec 2) : HasUnit (.fence scope k) := by
  refine one none none rfl (by omega) (by decide) (fun v => ?_)
  have hk : wd 109 (scope.toNat * 262144 + k.toNat) % 16 = k.toNat := wd_code (by omega)
  have hrow : candidate none none (wd 109 (scope.toNat * 262144 + k.toNat)) v = some (.fence (fld (wd 109 (scope.toNat * 262144 + k.toNat)) 18 3) (fld (wd 109 (scope.toNat * 262144 + k.toNat)) 0 2)) := by
    rw [candidate, wd_div (by omega), hk]
    obtain h | h | h | h : k.toNat = 0 ∨ k.toNat = 1 ∨ k.toNat = 2 ∨ k.toNat = 3 := by omega
    all_goals rw [h]; rfl
  rw [hrow, fld_wd (s := 7) (q := 0) (l := k.toNat) (x := scope) (by omega), fld_wd (s := 18) (q := scope.toNat) (l := 0) (x := k) (by omega)]

theorem shinv (x : BitVec 12) : HasUnit (.shinv x) := by
  refine one none none rfl (by omega) (by decide) (fun v => ?_)
  rw [candidate, wd_div (by omega), show wd 119 x.toNat / 4096 % 2 = 0 by unfold wd; omega]
  exact congrArg (fun y => some (Instr.shinv y)) (fld_wd (s := 13) (q := 0) (l := 0) (by omega))

theorem shinvAll : HasUnit .shinvAll :=
  one none none rfl (by decide) (by decide) (fun _ => rfl)

theorem launchGrid (r st : BitVec 5) (la : BitVec 4) : HasUnit (.launchGrid r st la) :=
  .rowTwo (fun w _ => .launchGrid (fld w 20 5) (fld w 15 5) (fld w 0 4)) rfl

theorem launchNode (r st : BitVec 5) (la : BitVec 4) : HasUnit (.launchNode r st la) :=
  .rowTwo (fun w _ => .launchNode (fld w 20 5) (fld w 15 5) (fld w 0 4)) rfl

end HasUnit

/-- Every instruction that has words has a unit of this shape, one layout per case; the events of the package have no words. -/
theorem hasUnit {i : Instr} (hi : encode i ≠ []) : HasUnit i := by
  cases i with
  | nop | ret | yield | exit => exact .code 0 rfl
  | strmFlush => exact .code 3 rfl
  | brx | psync => exact .aCode 0 rfl
  | barwait => exact .aCode 3 rfl
  | barinit => exact .abCode 0 rfl
  | barexp => exact .abCode 5 rfl
  | bardrop => exact .abCode 6 rfl
  | unwind | trel | tresume | trap | bkpt | syscall | bra | resize => exact .onlyX rfl
  | waitev | tstat | srd | swr | mprog => exact .dX rfl
  | iabs | mov | fabs => exact .daCode _ 0 rfl
  | ineg | movs | fneg => exact .daCode _ 1 rfl
  | inot | fnabs | movm => exact .daCode _ 2 rfl
  | popc | mvm => exact .daCode _ 3 rfl
  | clz => exact .daCode _ 4 rfl
  | ctz => exact .daCode _ 5 rfl
  | brev => exact .daCode _ 6 rfl
  | bswap => exact .daCode _ 7 rfl
  | smov | vany => exact .daCode none 0 rfl
  | vall => exact .daCode none 1 rfl
  | ballot => exact .daCode none 2 rfl
  | vcount | smask => exact .daCode none 3 rfl
  | mset | bartest => exact .daCode none 4 rfl
  | rotl | and => exact .dabCode _ 0 rfl
  | rotr | or => exact .dabCode _ 1 rfl
  | xor => exact .dabCode _ 2 rfl
  | andn | fcpsgn => exact .dabCode _ 3 rfl
  | orn => exact .dabCode _ 4 rfl
  | xnor => exact .dabCode _ 5 rfl
  | sadd | ssub | smul | sand => exact .dabCode none 0 rfl
  | sor | rdlane | bararv => exact .dabCode none 1 rfl
  | sxor | wrlane | baraw => exact .dabCode none 2 rfl
  | sshl => exact .dabCode none 3 rfl
  | sshr => exact .dabCode none 4 rfl
  | ssar => exact .dabCode none 5 rfl
  | iadd | isub | imul | imad | imin | imax | isad | shl | shr | sar | lea | idiv | ndiv | fadd | fsub | fmul | ffma | fmin | fmax | fminp | fmaxp | frnd | fscalb
  | fdot2 | fclamp | pack | fdiv | sel | shfl => exact .dabX _ rfl
  | scmp => exact .dabX none rfl
  | fclass | fsqrt | redux | qswz | matchl => exact .daX _ rfl
  | shli | shri | sari => exact .daYX 6 rfl
  | bfx | bfxs | bfi | shflup | shfldn | shflx => exact .daYX 5 rfl
  | scan | qscale => exact .daYX 4 rfl
  | fexp2 => exact .sfu 0 rfl
  | flog2 => exact .sfu 1 rfl
  | fsin => exact .sfu 2 rfl
  | fcos => exact .sfu 3 rfl
  | frcp => exact .sfu 4 rfl
  | frsq => exact .sfu 5 rfl
  | ftanh => exact .sfu 6 rfl
  | fsigm => exact .sfu 7 rfl
  | iaddi | imuli | andi | ori | xori => exact .daImm _ rfl
  | saddi | sbr => exact .daImm none rfl
  | movi => exact .dImm _ rfl
  | smovi => exact .dImm none rfl
  | ld | lds | ldx | st | sts | stx | ldm | stm => exact .mem _ rfl
  | sld | sst | ldc => exact .mem none rfl
  | brc => exact .brc ..
  | call => exact .call ..
  | callx => exact .callx ..
  | icmp => exact .icmp ..
  | fcmp => exact .fcmp ..
  | cvtf => exact .cvtf ..
  | cvti => exact .cvti ..
  | atom => exact .atom ..
  | atomr => exact .atomr ..
  | red => exact .red ..
  | tcopy => exact .tcopy ..
  | strmFeeda => exact .strmFeeda ..
  | strmFeedb => exact .strmFeedb ..
  | strmReplay => exact .strmReplay ..
  | coll => exact .coll ..
  | mma => exact .mma ..
  | accz => exact .accz ..
  | accrd => exact .accrd ..
  | accwr => exact .accwr ..
  | accopScale => exact .accopScale ..
  | accopAddrow => exact .accopAddrow ..
  | accopRowmax => exact .accopRowmax ..
  | accopRowsum => exact .accopRowsum ..
  | accopExps => exact .accopExps ..
  | accopMaskc => exact .accopMaskc ..
  | accmvTotile => exact .accmvTotile ..
  | accmvFromtile => exact .accmvFromtile ..
  | accmvSave => exact .accmvSave ..
  | accmvLoad => exact .accmvLoad ..
  | fenceLite => exact .fenceLite ..
  | fenceHeavy => exact .fenceHeavy ..
  | fenceTc => exact .fenceTc ..
  | fenceShape => exact .fenceShape ..
  | icmpi => exact .icmpi ..
  | cctl => exact .cctl ..
  | fence => exact .fence ..
  | shinv => exact .shinv ..
  | launchGrid => exact .launchGrid ..
  | launchNode => exact .launchNode ..
  | shinvAll => exact .shinvAll
  | _ => exact absurd rfl hi

/-! ## Decoding what was encoded -/

/-- A flag bit of a PFX reads its own value back. -/
theorem flag_eq {w c : Nat} {b : Bool} (h : w / c % 2 = b.toNat) : (w / c % 2 == 1) = b := by
  rw [h]
  cases b <;> rfl

theorem takePfx_pfxW (p : Option Pfx) {w : Nat} {r : List Nat} (h : w / 33554432 ≠ 126) : takePfx (pfxW p ++ w :: r) = (p, w :: r) := by
  cases p with
  | none => exact if_neg h
  | some p =>
    have hz := p.mz.toNat_lt
    have hs := p.sat.toNat_lt
    refine (if_pos (wd_div (by omega))).trans (congrArg (fun q => (some q, w :: r)) ?_)
    unfold wd
    rw [fld_eq (x := p.mr) (by omega), fld_eq (x := p.rm) (by omega), fld_eq (x := p.f4) (by omega), flag_eq (b := p.mz) (by omega), flag_eq (b := p.sat) (by omega)]

theorem takeImx_imxW (h : Option (BitVec 21)) {w : Nat} {r : List Nat} (hw : w / 33554432 < 126) : takeImx (imxW h ++ w :: r) = (h, w :: r) := by
  cases h with
  | none => exact if_neg (by omega)
  | some x =>
    refine (if_pos (wd_div (by omega))).trans (congrArg (fun q => (some q, w :: r)) ?_)
    exact fld_wd (s := 25) (q := 0) (l := 0) (by omega)

/-- An IMX word is no PFX word, so that what follows the prefix of a unit begins with no PFX. -/
theorem takePfx_imxW (p : Option Pfx) (h : Option (BitVec 21)) {w : Nat} {r : List Nat} (hw : w / 33554432 < 126) :
    takePfx (pfxW p ++ (imxW h ++ w :: r)) = (p, imxW h ++ w :: r) := by
  cases h with
  | none => exact takePfx_pfxW p (by omega)
  | some x => exact takePfx_pfxW p (by rw [wd_div (by omega)]; decide)

namespace UnitOf
variable {p : Option Pfx} {h : Option (BitVec 21)} {w : Nat} {v : List Nat} {i : Instr}

theorem takes (u : UnitOf p h w v i) (rest : List Nat) :
    takePfx (encode i ++ rest) = (p, imxW h ++ w :: (v ++ rest)) ∧ takeImx (imxW h ++ w :: (v ++ rest)) = (h, w :: (v ++ rest)) := by
  refine ⟨?_, takeImx_imxW h u.major⟩
  rw [u.words, ← takePfx_imxW p h u.major, List.append_assoc, List.append_assoc, List.cons_append]

theorem decode (u : UnitOf p h w v i) (hi : i.wf = true) (rest : List Nat) : decode (encode i ++ rest) = .ok i := by
  obtain ⟨hp, hh⟩ := u.takes rest
  have hpre : (encode i).isPrefixOf (encode i ++ rest) = true := List.isPrefixOf_iff_prefix.2 (List.prefix_append _ _)
  simp only [Sys2Proof.decode, hp, hh, u.named, hpre, hi]
  rfl

theorem unitLen (u : UnitOf p h w v i) (rest : List Nat) : unitLen (encode i ++ rest) = (encode i).length := by
  obtain ⟨hp, hh⟩ := u.takes rest
  have hlen : (encode i).length = (pfxW p).length + ((imxW h).length + (v.length + 1)) := by rw [u.words, List.length_append, List.length_append, List.length_cons]
  simp only [Sys2Proof.unitLen, hp, hh, List.length_append, List.length_cons, hlen, u.second]
  split <;> omega

theorem fits (u : UnitOf p h w v i) : Laws.Words.Fits 4 (encode i) := by
  have hw : w < 2 ^ 32 := by have := u.major; omega
  have hv : Laws.Words.Fits 1 v := ⟨by rw [u.second]; split <;> decide, u.short⟩
  rw [u.words]
  exact .append (.pfx p) (.append (.imx h) (.append (.one hw) hv))
end UnitOf

theorem encode_fits (i : Instr) : Laws.Words.Fits 4 (encode i) := by
  by_cases hi : encode i = []
  · rw [hi]
    exact .le .nil (by decide)
  · obtain ⟨p, h, w, v, u⟩ := hasUnit hi
    exact u.fits

/-! ## Encoding what was decoded -/

theorem candidate_all_words (p : Option Pfx) (h : Option (BitVec 21)) (w v : Nat) : (candidate p h w v).all (fun i => !(encode i).isEmpty) = true := by
  cases p <;> cases h <;> fun_cases candidate _ _ w v <;> rfl

/-- The map names no event of the package. -/
theorem encode_ne_nil_of_candidate {p : Option Pfx} {h : Option (BitVec 21)} {w v : Nat} {i : Instr} (hc : candidate p h w v = some i) : encode i ≠ [] := by
  have := candidate_all_words p h w v
  simpa [hc] using this

theorem decode_ok {ws : List Nat} {i : Instr} (hd : decode ws = .ok i) : i.wf = true ∧ encode i ≠ [] ∧ encode i <+: ws := by
  unfold decode at hd
  split at hd
  next p r1 hp =>
  split at hd
  next h r2 hh =>
  split at hd
  · cases hd
  next w r3 =>
  split at hd
  · cases hd
  next j hj =>
  split at hd
  · cases hd
  next hpre =>
  split at hd
  next hwf =>
    cases hd
    exact ⟨hwf, encode_ne_nil_of_candidate hj, List.isPrefixOf_iff_prefix.1 (by simpa using hpre)⟩
  · cases hd

/-! ## Words and bytes -/

theorem leNat_wordBytes {w : Nat} (h : w < 2 ^ 32) : leNat (wordBytes w) = w := by
  show leNat [BitVec.ofNat 8 (w / 256 ^ 0), BitVec.ofNat 8 (w / 256 ^ 1), BitVec.ofNat 8 (w / 256 ^ 2), BitVec.ofNat 8 (w / 256 ^ 3)] = w
  simp only [leNat, BitVec.toNat_ofNat]
  omega

theorem wordsOf_flatMap {ws : List Nat} (h : ∀ w ∈ ws, w < 2 ^ 32) (rest : List Byte) : wordsOf (ws.flatMap wordBytes ++ rest) = ws ++ wordsOf rest := by
  induction ws with
  | nil => rfl
  | cons w r ih =>
    have hw := leNat_wordBytes (h w List.mem_cons_self)
    have hr := ih (fun x hx => h x (List.mem_cons_of_mem _ hx))
    rw [List.flatMap_cons, List.append_assoc, List.cons_append, ← hr]
    exact congrArg (· :: _) hw

/-- Settles O58: a well-formed instruction's words have the unit's shape, which the decoder reads back field by field; the decoder answers only what it has checked. -/
theorem decodingAndEncodingAgree : Obligations.DecodingAndEncodingAgree := by
  unfold Obligations.DecodingAndEncodingAgree
  have hround (i : Instr) (rest : List Nat) (hwf : i.wf = true) (hi : encode i ≠ []) : decode (encode i ++ rest) = .ok i ∧ unitLen (encode i ++ rest) = (encode i).length := by
    obtain ⟨p, h, w, v, u⟩ := hasUnit hi
    exact ⟨u.decode hwf rest, u.unitLen rest⟩
  refine ⟨hround, fun ws i => decode_ok, fun i rest hwf hi => ?_, encode_fits⟩
  rw [decodeBytes, encodeBytes, wordsOf_flatMap (encode_fits i).2]
  exact (hround i _ hwf hi).1

end Sys2Proof.Machine
end

section
namespace Sys2Proof.Machine
open Sys2Proof

set_option Elab.async false

/-! ## Units that leave their pack in a named state, and units that only trap -/

/-- The end of a unit adds no frame and takes none away. -/
theorem endPack_frames_length (c : Ctx) (us : Uses) (r : Res) (p : Pack) (hf : r.faults = []) : (endPack c us r p).frames.length = p.frames.length := by
  have hq : (endLanesOf c (c.ig &&& ~~~r.stay) (laneMask (r.traps.map LTrap.l) ||| r.pend) p).frames = p.frames := by
    rw [endLanesOf_eq]
    rfl
  rw [endPack_eq c us r p hf]
  dsimp only
  split
  · rw [hq]
  · rw [List.length_modify, hq]

/-- A unit whose own effect turns its pack into g p completes there. -/
theorem unit_done {i : Instr} {s : State} {u : Cur} {p : Pack} (h : Issues i s u p) {body : Ctx → Res} (hex : exec i s = runUnit i (instrUses i) body s)
    {r : Res} (hb : body (ctxOf i s u p) = r) (hs : r.stall = none) (hf : r.faults = []) {g : Pack → Pack} (hg : r.s = s.updPack u.core u.slot g)
    (hh : (g p).handler = p.handler) : Claims.UnitDone i s u p (g p) (u.ig &&& ~~~r.stay) r.traps := by
  obtain ⟨t, q, he, ho, hbut, hl, h1, h2, h3, h4, hpend, -, hrec⟩ := unit_spec h body hb hs hf hg hh
  have hlen : q.frames.length = (g p).frames.length := by
    have hp := h.2.2.1
    have hrp : r.s.pack? u.core u.slot = some (g p) := by rw [hg]; simp [hp]
    obtain ⟨ts, hend, -⟩ := finish_spec (ctxOf i s u p) (usesOf i) { r with traps := (ctxOf i s u p).tagged ++ r.traps } hs hrp
    rw [runUnit_issues body h, hb] at he
    obtain rfl := Host.Outcome.next.inj he
    obtain rfl := Option.some.inj (ho.1.symm.trans hend.1)
    exact endPack_frames_length (ctxOf i s u p) (usesOf i) { r with traps := (ctxOf i s u p).tagged ++ r.traps } (g p) hf
  exact ⟨t, q, hex.trans he, ho.1, ho.2.1, ho.2.2.1, ho.2.2.2, ho.bytes, ⟨hbut, hl, h1, h2, h3, h4, hlen, hrec⟩, hpend⟩

/-- A unit whose own effect is its traps alone. -/
theorem unit_onlyTraps {i : Instr} {s : State} {u : Cur} {p : Pack} (h : Issues i s u p) {body : Ctx → Res} (hex : exec i s = runUnit i (instrUses i) body s)
    {ts : List LTrap} (hb : body (ctxOf i s u p) = { s := s, traps := ts }) : Claims.OnlyTraps i s u p ts := by
  have hsame : s = s.updPack u.core u.slot (fun _ => p) := (State.updPack_same h.2.2.1).symm
  obtain ⟨t, q, he, hreg, h1, h2, h3, h4, hpend, hcell, hrec⟩ := unit_reg h body hb rfl rfl hsame rfl
  have hall : u.ig &&& ~~~(0 : Word) = u.ig := BitVec.and_allOnes
  exact ⟨t, q, hex.trans he, hall ▸ hreg, ⟨fun r l _ => hcell u.depth r l, fun e => ⟨(hrec e).1, fun r l _ _ => (hrec e).2 r l⟩, fun _ => h4⟩, h1, h2, h3, hpend⟩

/-! ## MACRO -/

/-- What MACRO does beside the frame of every unit, when no commit of its slot is pending. -/
theorem exec_mprog {q : BitVec 7} {k : BitVec 6} (s : State) : ∃ body, exec (.mprog q k) s = runUnit (.mprog q k) (instrUses (.mprog q k)) body s ∧
    ∀ c : Ctx, (c.s.core c.u.core).csWait.has k.toNat = false →
      (∀ w ws, (c.s.core c.u.core).mprogs.find k.toNat = some (w :: ws) → body c =
        { s := c.s.updPack c.u.core c.u.slot (fun p => p.updLanes c.ig (fun x => { x.goto (c.u.pc, some 0) with mslot := k.toNat, mbase := q.toNat })), stay := c.ig }) ∧
      (((c.s.core c.u.core).mprogs.find k.toNat).getD [] = [] → body c = { s := c.s, traps := groupTrap c tILLOP 2 }) := by
  refine ⟨_, rfl, fun c hw => ⟨fun w ws hf => ?_, fun hf => ?_⟩⟩
  · simp [hw, hf]
  · cases hm : (c.s.core c.u.core).mprogs.find k.toNat with
    | none => simp [hw, hm]
    | some img =>
      have himg : img = [] := by simpa [hm] using hf
      simp [hw, hm, himg]

/-- Settles O17: MACRO's effect is the group's place in word 0 of a non-empty image, and its trap otherwise. -/
theorem macroEntersTheMicroprogram : Obligations.MacroEntersTheMicroprogram := by
  unfold Obligations.MacroEntersTheMicroprogram
  intro q k s u p hi hw
  obtain ⟨body, hex, hbody⟩ := exec_mprog (q := q) (k := k) s
  obtain ⟨henter, hempty⟩ := hbody (ctxOf (.mprog q k) s u p) hw
  refine ⟨fun w ws hf => ?_, fun hf => unit_onlyTraps hi hex (hempty hf)⟩
  have hdone := unit_done hi hex (henter w ws hf) rfl rfl rfl (by rw [Pack.updLanes_eq])
  rwa [ctxOf_ig, BitVec.and_not_self] at hdone

/-! ## Completion of what is in flight -/

theorem FMap.find_map_values {α : Type} (m : FMap α) (g : α → α) (n : Nat) : FMap.find (m.map (fun x => (x.1, g x.2))) n = (FMap.find m n).map g := by
  induction m with
  | nil => rfl
  | cons x r ih =>
    simp only [List.map_cons, FMap.find, ih]
    split
    · rfl
    · split <;> rfl

/-- An event of a workgroup reaches each of its packs. -/
theorem State.postWg_pack? (s : State) (wg cls c sl : Nat) :
    (s.postWg wg cls).pack? c sl = (s.pack? c sl).map (fun p => if p.wg == wg then p.post cls else p) := by
  refine Eq.trans ?_ (FMap.find_map_values s.packs (fun p => if p.wg == wg then p.post cls else p) (packKey c sl))
  exact congrArg (fun m => FMap.find m (packKey c sl)) (List.map_congr_left (fun x _ => by split <;> rfl))

/-- An event finds no waiting group in a pack where none waits. -/
theorem Pack.post_of_no_wait {p : Pack} (cls : Nat) (h : p.waitev = []) : p.post cls = { p with evpend := (p.post cls).evpend } := by
  simp only [Pack.post, Pack.serveWaits, h]

theorem State.core_isSome_of_tile {s : State} {c k : Nat} {x : Tile} (h : (s.core c).tiles.find k = some x) : (s.cores.find c).isSome = true := by
  unfold State.core at h
  cases hc : s.cores.find c with
  | none => rw [hc] at h; cases h
  | some _ => rfl

/-- An update of one entry of the tile table. -/
theorem State.updTile_spec {s : State} {w : Wg} {n : Nat} {x : Tile} (f : Tile → Tile) (h : (s.core w.core).tiles.find (w.tileIx n) = some x) :
    (∀ j, (s.updTile w n f).core j = { s.core j with tiles := ((s.updTile w n f).core j).tiles }) ∧ Claims.TileIs s (s.updTile w n f) w n (f x) := by
  have hself := State.core_updCore_self s w.core (fun k => { k with tiles := k.tiles.upd (w.tileIx n) f }) (State.core_isSome_of_tile h)
  have hother : ∀ j, j ≠ w.core → (s.updTile w n f).core j = s.core j := fun j hj => State.core_updCore_ne s _ hj
  refine ⟨fun j => ?_, ?_, fun c k hck => ?_⟩
  · by_cases hj : j = w.core
    · rw [hj]
      exact hself.trans (by rw [State.updTile, hself])
    · rw [hother j hj]
  · rw [State.tile, State.updTile, hself]
    simp [h]
  · by_cases hc : c = w.core
    · rw [hc, State.updTile, hself]
      exact FMap.find_upd_ne _ _ (hck.resolve_left (fun hne => hne hc))
    · rw [hother c hc]

/-- A reader of a tile is done: the tile's entry has one reader less, and a DRAINING tile without readers is empty, which is posted as an event (R167). -/
theorem State.readerDone_eq {s : State} {wg n : Nat} {x : Tile} (h : s.tile (s.wg wg) n = x) :
    ∃ f : Tile → Tile, f x = { x with readers := x.readers - 1, st := if x.st = .draining ∧ x.readers ≤ 1 then .empty else x.st } ∧
      (s.readerDone wg n = s.updTile (s.wg wg) n f ∨ s.readerDone wg n = (s.updTile (s.wg wg) n f).postWg wg 1) := by
  refine ⟨fun y => { y with readers := x.readers - 1, st := if y.st == .draining && x.readers - 1 == 0 then .empty else y.st }, ?_, ?_⟩
  · simp [Nat.sub_eq_zero_iff_le]
  · unfold State.readerDone
    rw [h]
    dsimp only
    split
    · exact .inr rfl
    · exact .inl rfl

/-! ### What completeTok does, by the token it finds -/

section
variable {s : State} {c sl id : Nat} {kinds : List Nat} {p : Pack}

/-- The tokens that an event of these kinds completes. -/
def Tok.completes (s : State) (id : Nat) (kinds : List Nat) (k : Tok) : Bool :=
  k.id == id && kinds.contains k.kind && k.pend.isNone && !(k.kind == 6 && s.atomrOut id)

theorem completeTok_of_none (hp : s.pack? c sl = some p) (h : p.toks.find? (Tok.completes s id kinds) = none) : completeTok c sl id kinds s = s := by
  unfold Tok.completes at h
  simp only [completeTok, State.pack_of_pack? hp, h]

theorem completeTok_of_noTile {k : Tok} (hp : s.pack? c sl = some p) (h : p.toks.find? (Tok.completes s id kinds) = some k) (ht : k.tile = none) :
    completeTok c sl id kinds s =
      s.updPack c sl (fun p => { p with toks := p.toks.filter (fun x => x.id != id), pending := k.trap.toList.foldl (fun ts tr => queueTrap tr ts) p.pending }) := by
  unfold Tok.completes at h
  simp only [completeTok, State.pack_of_pack? hp, h, ht]
  cases k.trap with
  | none => rfl
  | some tr => exact State.updPack_updPack s c sl _ _

theorem completeTok_of_tile {k : Tok} {n : Nat} {w : Bool} (hp : s.pack? c sl = some p) (h : p.toks.find? (Tok.completes s id kinds) = some k)
    (ht : k.tile = some (n, w)) (htr : k.trap = none) :
    let s1 := s.updPack c sl (fun p => { p with toks := p.toks.filter (fun x => x.id != id) })
    completeTok c sl id kinds s = if w then s1.tileReady p.wg n else s1.readerDone p.wg n := by
  unfold Tok.completes at h
  simp only [completeTok, State.pack_of_pack? hp, h, ht, htr]
  cases w <;> rfl

/-- From s, where pack p completed its token, only the tile table and events of packs have changed; its tile has become x. -/
def TileDone (s t : State) (c sl : Nat) (p q : Pack) (n : Nat) (x : Tile) : Prop :=
  t.pack? c sl = some q ∧ q = { p with evpend := q.evpend } ∧ t = { s with packs := t.packs, cores := t.cores } ∧
    (∀ j, t.core j = { s.core j with tiles := (t.core j).tiles }) ∧ Claims.TileIs s t (s.wg p.wg) n x

theorem TileDone.updTile {n : Nat} {x : Tile} (hp : s.pack? c sl = some p) (hx : (s.core (s.wg p.wg).core).tiles.find ((s.wg p.wg).tileIx n) = some x) (f : Tile → Tile) :
    TileDone s (s.updTile (s.wg p.wg) n f) c sl p p n (f x) :=
  ⟨hp, rfl, rfl, State.updTile_spec f hx⟩

theorem TileDone.postWg {t : State} {n cls : Nat} {x : Tile} (h : TileDone s t c sl p p n x) (hw : p.waitev = []) : ∃ q, TileDone s (t.postWg p.wg cls) c sl p q n x := by
  obtain ⟨hq, -, ht, hcore, htile⟩ := h
  have hpost : (t.postWg p.wg cls).pack? c sl = some (p.post cls) := by
    rw [State.postWg_pack?, hq]
    simp
  exact ⟨p.post cls, hpost, Pack.post_of_no_wait cls hw, by rw [ht]; rfl, hcore, htile⟩

theorem TileDone.tileReady {n : Nat} {x : Tile} (hp : s.pack? c sl = some p) (hx : (s.core (s.wg p.wg).core).tiles.find ((s.wg p.wg).tileIx n) = some x) (hw : p.waitev = []) :
    ∃ q, TileDone s (s.tileReady p.wg n) c sl p q n { x with st := .ready } :=
  (TileDone.updTile hp hx _).postWg hw

theorem TileDone.readerDone {n : Nat} {x : Tile} (hp : s.pack? c sl = some p) (hx : (s.core (s.wg p.wg).core).tiles.find ((s.wg p.wg).tileIx n) = some x) (hw : p.waitev = []) :
    ∃ q, TileDone s (s.readerDone p.wg n) c sl p q n { x with readers := x.readers - 1, st := if x.st = .draining ∧ x.readers ≤ 1 then .empty else x.st } := by
  obtain ⟨f, hf, he⟩ := State.readerDone_eq (s := s) (wg := p.wg) (n := n) (x := x) (by rw [State.tile, hx]; rfl)
  have hu := TileDone.updTile hp hx f
  rw [hf] at hu
  rcases he with he | he
  · rw [he]
    exact ⟨p, hu⟩
  · rw [he]
    exact hu.postWg hw
end

/-- The kinds of tokens that each of the four events completes. -/
theorem exec_completes {i : Instr} {kind c sl id : Nat} (h : i = .memoryAccessComplete c sl id ∧ kind = 0 ∨ i = .atomResult c sl id ∧ kind = 1 ∨
      i = .longLatencyComplete c sl id ∧ kind = 2 ∨ i = .accumulatorInstructionComplete c sl id ∧ kind = 3) (s : State) :
    ∃ kinds, exec i s = .next (completeTok c sl id kinds s) ∧
      Tok.completes s id kinds = fun k => k.id == id && (k.kind == kind || kind == 1 && k.kind == 6) && k.pend.isNone && !(k.kind == 6 && s.atomrOut id) := by
  rcases h with ⟨rfl, rfl⟩ | ⟨rfl, rfl⟩ | ⟨rfl, rfl⟩ | ⟨rfl, rfl⟩
  · exact ⟨[0], rfl, funext fun k => by simp [Tok.completes, beq_eq_decide]⟩
  · exact ⟨[1, 6], rfl, funext fun k => by simp [Tok.completes, beq_eq_decide]⟩
  · exact ⟨[2], rfl, funext fun k => by simp [Tok.completes, beq_eq_decide]⟩
  · exact ⟨[3], rfl, funext fun k => by simp [Tok.completes, beq_eq_decide]⟩

/-- Settles O37: completeTok frees the token it finds, then the tile's entry changes and its event reaches the workgroup's packs, or the trap is queued. -/
theorem instructionsInFlightComplete : Obligations.InstructionsInFlightComplete := by
  unfold Obligations.InstructionsInFlightComplete
  intro i kind c sl id s p hp hi
  obtain ⟨kinds, hex, hfit⟩ := exec_completes hi s
  rw [← hfit, hex]
  refine ⟨fun k hk => ⟨fun ht => ?_, fun n w x ht hc hx hw htr => ?_⟩, fun hk => ?_⟩
  · rw [completeTok_of_noTile hp hk ht]
    rfl
  · rw [← hc] at hx
    rw [completeTok_of_tile hp hk ht htr]
    have hp1 : (s.updPack c sl (fun p => { p with toks := p.toks.filter (fun x => x.id != id) })).pack? c sl =
        some { p with toks := p.toks.filter (fun x => x.id != id) } := by simp [hp]
    cases w with
    | true =>
      obtain ⟨q, hq, hqp, ht1, hcore, htile⟩ := TileDone.tileReady hp1 hx hw
      exact ⟨_, q, rfl, hq, hqp, by rw [if_pos rfl, ht1]; rfl, hcore, htile⟩
    | false =>
      obtain ⟨q, hq, hqp, ht1, hcore, htile⟩ := TileDone.readerDone hp1 hx hw
      exact ⟨_, q, rfl, hq, hqp, by rw [if_neg Bool.false_ne_true, ht1]; rfl, hcore, htile⟩
  · rw [completeTok_of_none hp hk]

/-! ## What one step runs -/

/-- The state as a step begins: the step is counted. -/
abbrev State.ticked (s : State) : State := { s with ownSteps := s.ownSteps + 1 }

/-- What is due when nothing comes from outside. -/
abbrev State.due (s : State) : Due := s.nextEvent.orElse (fun _ => s.resumeEvent exec)

theorem step_of_input {s : State} {e : Instr} {r : List Instr} (ha : s.agenda = e :: r) : step s = thenDo afterEvent (exec e { s.ticked with agenda := r }) := by
  unfold step stepWith
  dsimp only
  split
  next h =>
    cases ha.symm.trans h
    rfl
  next h => cases ha.symm.trans h

theorem step_of_due {s : State} {o : Out} (ha : s.agenda = []) (hd : s.ticked.due = some o) : step s = thenDo afterEvent o := by
  unfold step stepWith
  dsimp only
  split
  next h => cases ha.symm.trans h
  split
  next h =>
    cases hd.symm.trans h
    rfl
  next h => cases hd.symm.trans h

theorem step_of_mailbox {s : State} {c : Nat} (ha : s.agenda = []) (hd : s.ticked.due = none) (hm : s.ticked.mbxDue = some c) :
    step s = .next (afterEvent (s.ticked.mbxGo c)) := by
  unfold step stepWith
  dsimp only
  split
  next h => cases ha.symm.trans h
  split
  next h => cases hd.symm.trans h
  split
  next h =>
    cases hm.symm.trans h
    rfl
  next h => cases hm.symm.trans h

theorem step_of_units {s : State} (ha : s.agenda = []) (hd : s.ticked.due = none) (hm : s.ticked.mbxDue = none) : step s = stepUnits exec s.ticked := by
  unfold step stepWith
  dsimp only
  split
  next h => cases ha.symm.trans h
  split
  next h => cases hd.symm.trans h
  split
  next h => cases hm.symm.trans h
  next => rfl

theorem stepUnits_of_hart {s : State} {h : Nat} (hh : s.hartTurn = some h) : stepUnits exec s = .next (afterEvent { s.hartStep h with ownHart := (h + 1) % 176 }) := by
  simp only [stepUnits, hh]

theorem stepUnits_of_pack {s : State} {c sl : Nat} (hh : s.hartTurn = none) (hb : 6 ≤ s.boot.stage) (hn : s.nextIssue = some (c, sl)) :
    stepUnits exec s = issuePack exec c sl s := by
  simp only [stepUnits, hh, hn, if_pos hb]

theorem stepUnits_of_idle {s : State} (hh : s.hartTurn = none) (hn : s.boot.stage < 6 ∨ s.nextIssue = none) : stepUnits exec s = .next (s.advance none).clearStalls := by
  have hno : (if s.boot.stage ≥ 6 then s.nextIssue else none) = none := by
    rcases hn with hn | hn
    · exact if_neg (by omega)
    · rw [hn, ite_self]
  simp only [stepUnits, hh, hno]

/-! ### A chosen pack -/

section
variable {s : State} {c sl : Nat} {p : Pack} {g : Grp}

theorem issuePack_unparks (hp : s.pack? c sl = some p) (hu : p.canUnpark = true) : issuePack exec c sl s = .next (s.updPack c sl Pack.unparkLanes) := by
  simp only [issuePack, State.pack_of_pack? hp, hu, if_true]

theorem issuePack_breaks (hp : s.pack? c sl = some p) (hu : p.canUnpark = false) (hb : (s.breakHit c sl).isSome = true) :
    issuePack exec c sl s = thenDo afterEvent (exec (.breakpoint c sl) s) := by
  simp only [issuePack, State.pack_of_pack? hp, hu, hb, if_true, Bool.false_eq_true, if_false]
  rfl

/-- A group at handler level needs no frame of its depth; a resident one is there (R198). -/
theorem needFrame_resident (hp : s.pack? c sl = some p) {d : Nat} (hf : p.handler.isSome = true ∨ (p.frames.getD d {}).st = .resident ∧ d < p.frames.length) :
    (if p.handler.isSome then (s, true) else s.needFrame c sl d) = (s, true) := by
  rcases hf with hf | ⟨hst, hlt⟩
  · exact if_pos hf
  · rw [List.getD_eq_getElem _ _ hlt] at hst
    simp [State.needFrame, State.pack_of_pack? hp, List.getElem?_eq_getElem hlt, hst]

theorem issuePack_issues (hp : s.pack? c sl = some p) (hu : p.canUnpark = false) (hb : s.breakHit c sl = none) (hg : p.group = some g)
    (hf : p.handler.isSome = true ∨ (p.frames.getD g.depth {}).st = .resident ∧ g.depth < p.frames.length) :
    issuePack exec c sl s = thenDo (afterIssue exec c sl) (issueUnit exec c sl g s) := by
  simp only [issuePack, State.pack_of_pack? hp, hu, hb, hg, needFrame_resident hp hf, Bool.false_eq_true, if_false, Option.isSome_none]

/-! ### The unit of its group -/

/-- The unit that a group issues, before its words are read. -/
abbrev Grp.unit (g : Grp) (s : State) (c sl : Nat) : Cur := { core := c, slot := sl, ig := g.ig, depth := g.depth, pc := BitVec.ofNat 64 g.key.1, ownAt := s.ownSteps }

theorem issueUnit_failed (hp : s.pack? c sl = some p) (hf : failedFetch p g.ig ≠ 0) :
    issueUnit exec c sl g s = stopUnit tXLATE 0 (BitVec.ofNat 64 g.key.1) { s with cur := some { g.unit s c sl with ig := failedFetch p g.ig } } := by
  have hf' : (failedFetch p g.ig != 0) = true := by simpa using hf
  simp only [issueUnit, State.pack_of_pack? hp, hf', if_true]

/-- What a fetch from memory begins with: no lane of the group failed, and the address is aligned (R27, R57). -/
structure FetchesAt (p : Pack) (g : Grp) : Prop where
  none_failed : failedFetch p g.ig = 0
  memory : g.key.2 = 0
  aligned : g.key.1 % 4 = 0

theorem issueUnit_decoded {s1 : State} {ws : List Nat} {i : Instr} (hp : s.pack? c sl = some p) (hg : FetchesAt p g)
    (hfetch : fetchUnit c p.ctx (s.wg p.wg).uid g.key.1 4 [] s = (s1, .ok ws)) (hd : decode ws = .ok i) :
    issueUnit exec c sl g s = exec i { s1 with cur := some { g.unit s c sl with words := ws.take i.len } } := by
  simp [issueUnit, State.pack_of_pack? hp, hg.none_failed, hg.memory, hg.aligned, hfetch, unitInstr, hd]

theorem issueUnit_undecoded {s1 : State} {ws : List Nat} {e : DecodeError} (hp : s.pack? c sl = some p) (hg : FetchesAt p g)
    (hfetch : fetchUnit c p.ctx (s.wg p.wg).uid g.key.1 4 [] s = (s1, .ok ws)) (hd : decode ws = .error e) :
    issueUnit exec c sl g s = stopUnit tILLOP 0 0 { s1 with cur := some { g.unit s c sl with words := ws } } := by
  simp [issueUnit, State.pack_of_pack? hp, hg.none_failed, hg.memory, hg.aligned, hfetch, unitInstr, hd]

theorem issueUnit_faulted {s1 : State} {img : FaultImg} (hp : s.pack? c sl = some p) (hg : FetchesAt p g)
    (hfetch : fetchUnit c p.ctx (s.wg p.wg).uid g.key.1 4 [] s = (s1, .fault img)) :
    issueUnit exec c sl g s = .next (fetchFault (g.unit s c sl) img s1) := by
  simp [issueUnit, State.pack_of_pack? hp, hg.none_failed, hg.memory, hg.aligned, hfetch]

theorem issueUnit_misaligned (hp : s.pack? c sl = some p) (hf : failedFetch p g.ig = 0) (hk : g.key.2 = 0) (ha : g.key.1 % 4 ≠ 0) :
    issueUnit exec c sl g s = stopUnit tMISALIGN 0 (BitVec.ofNat 64 g.key.1) { s with cur := some (g.unit s c sl) } := by
  simp [issueUnit, State.pack_of_pack? hp, hf, hk, ha]

theorem issueUnit_micro {x : Lane} {img : List Nat} {i : Instr} (hp : s.pack? c sl = some p) (hf : failedFetch p g.ig = 0) (hk : g.key.2 ≠ 0)
    (hx : p.lane ((lanesOf g.ig).headD 0) = x) (himg : ((s.core c).mprogs.find x.mslot).getD [] = img) (hd : unitInstr (some x.mbase) (img.drop (g.key.2 - 1)) = some i) :
    issueUnit exec c sl g s = exec i { s with cur := some { g.unit s c sl with
      k := some (g.key.2 - 1), mlen := img.length, mbase := x.mbase, words := (img.drop (g.key.2 - 1)).take i.len } } := by
  simp only [issueUnit, State.pack_of_pack? hp, hf, hx, himg, hd, if_neg hk, bne_self_eq_false, Bool.false_eq_true, if_false]
end

/-! ### The words of a unit -/

theorem decodeVa_control {pkg va : Nat} (h : va < 2 ^ 48) : decodeVa pkg (va % 2 ^ 64) = .ok (.ctl va) := by
  have hva : va % 2 ^ 64 = va := Nat.mod_eq_of_lt (h.trans (Nat.pow_lt_pow_right (by decide) (by decide)))
  have hhi : bits va 63 56 = 0 := by
    simp only [bits, Nat.div_eq_of_lt (h.trans (Nat.pow_lt_pow_right (by decide) (by decide : 48 < 56))), Nat.zero_mod]
  have hlo : bits va 55 48 = 0 := by
    simp only [bits, Nat.div_eq_of_lt h, Nat.zero_mod]
  rw [hva]
  unfold decodeVa
  rw [hhi]
  exact if_pos hlo

theorem foldl_placeTouch {s : State} {ps : List Place} (h : ∀ pl ∈ ps, s.placeTouch pl = s) : ps.foldl State.placeTouch s = s := by
  induction ps with
  | nil => rfl
  | cons pl r ih => rw [List.foldl_cons, h pl List.mem_cons_self, ih (fun x hx => h x (List.mem_cons_of_mem _ hx))]

/-- A little-endian number is the sum of its bytes at their weights. -/
theorem leNat_eq_sum (bs : List Byte) : leNat bs = ((List.range bs.length).map (fun k => (bs.getD k 0).toNat * 256 ^ k)).sum := by
  induction bs with
  | nil => rfl
  | cons b r ih =>
    simp only [leNat, ih, List.length_cons, List.range_succ_eq_map, List.map_cons, List.map_map, List.sum_cons, List.getD_cons_zero, pow_zero, mul_one, ← List.sum_map_mul_left]
    congr 2
    refine List.map_congr_left fun k _ => ?_
    simp only [Function.comp_apply, List.getD_cons_succ, pow_succ]
    ring

/-- One word of a unit is read where it stands. -/
theorem fetchWord_at {s : State} {c ctx node va w : Nat} (h : Claims.WordAt s c ctx node va w) (ws : List Nat) : fetchWord c ctx node va ws s = (s, .ok (ws ++ [w])) := by
  obtain ⟨hva, ps, htr, hlen, -, htouch, hw⟩ := h
  simp only [fetchWord, decodeVa_control hva, htr, State.readPlaces, foldl_placeTouch htouch]
  rw [leNat_eq_sum, List.length_map, hlen, hw]

/-- The words before a unit's last do not end it: the fetch goes on to the whole unit. -/
theorem fetchUnit_at {s : State} {c ctx node pc : Nat} {ws : List Nat} (hword : ∀ k w, ws[k]? = some w → Claims.WordAt s c ctx node (pc + 4 * k) w)
    (hall : unitLen ws = ws.length) (hpart : ∀ k, 0 < k → k < ws.length → k < unitLen (ws.take k)) {n k : Nat} (hk : k < ws.length) (hn : ws.length ≤ k + n) :
    fetchUnit c ctx node pc n (ws.take k) s = (s, .ok ws) := by
  induction n generalizing k with
  | zero => omega
  | succ n ih =>
    have htake : ws.take k ++ [ws[k]] = ws.take (k + 1) := List.take_concat_get' ..
    have hlen : (ws.take k).length = k := by rw [List.length_take]; omega
    have hfetch := fetchWord_at (hword k ws[k] (List.getElem?_eq_getElem hk)) (ws.take k)
    simp only [fetchUnit, hlen, hfetch, htake]
    by_cases hlast : k + 1 = ws.length
    · rw [hlast, List.take_length, if_pos (by omega)]
    · have hgo := hpart (k + 1) (by omega) (by omega)
      have hlen1 : (ws.take (k + 1)).length = k + 1 := by rw [List.length_take]; omega
      rw [if_neg (by omega), ih (by omega) (by omega)]

/-- Settles O57: the branches of stepWith, stepUnits, issuePack and issueUnit, one after the other, and the fetch of a unit's words. -/
theorem stepRunsTheDecodedInstruction : Obligations.StepRunsTheDecodedInstruction := by
  unfold Obligations.StepRunsTheDecodedInstruction
  intro s
  refine ⟨fun e r ha => step_of_input ha, fun o ha hd => step_of_due ha hd, fun c ha hd hm => step_of_mailbox ha hd hm,
    fun h ha hd hm hh => (step_of_units ha hd hm).trans (stepUnits_of_hart hh), fun c sl p ha hd hm hh hb hn hp => ?_,
    fun ha hd hm hh hn => (step_of_units ha hd hm).trans (stepUnits_of_idle hh hn),
    fun c ctx node pc ws hne hlen _ hword hall hpart => fetchUnit_at (k := 0) hword hall hpart (List.length_pos_iff.2 hne) (by omega)⟩
  have hstep : step s = issuePack exec c sl s.ticked := (step_of_units ha hd hm).trans (stepUnits_of_pack hh hb hn)
  refine ⟨fun hu => hstep.trans (issuePack_unparks hp hu), fun hu hbr => hstep.trans (issuePack_breaks hp hu hbr), fun g hu hbr hg hf hbad => ?_,
    fun g hu hbr hg hf hok => ?_⟩
  · rw [hstep, issuePack_issues hp hu hbr hg hf, issueUnit_failed hp hbad]
  · have hissue := hstep.trans (issuePack_issues hp hu hbr hg hf)
    refine ⟨fun s1 ws i hk ha4 hfetch hdec => ?_, fun s1 ws e hk ha4 hfetch hdec => ?_, fun s1 img hk ha4 hfetch => ?_, fun hk ha4 => ?_, fun i hk hdec => ?_⟩
    · rw [hissue, issueUnit_decoded hp ⟨hok, hk, ha4⟩ hfetch hdec]
    · rw [hissue, issueUnit_undecoded hp ⟨hok, hk, ha4⟩ hfetch hdec]
    · rw [hissue, issueUnit_faulted hp ⟨hok, hk, ha4⟩ hfetch]
      rfl
    · rw [hissue, issueUnit_misaligned hp hok hk ha4]
    · rw [hissue, issueUnit_micro hp hok hk rfl rfl hdec]

end Sys2Proof.Machine
end

section
namespace Sys2Proof.Machine
open Sys2Proof Sys2Proof.Claims

set_option Elab.async false

/-! ## Rounding of exact numbers (R74, R75) -/

/-- A sign as a factor. -/
def sgnFac (s : Bool) : ℚ := if s then -1 else 1

/-- The number that a finite value stands for: (-1)^s m 2^e. -/
def finVal (s : Bool) (m : Nat) (e : Int) : ℚ := sgnFac s * (m * 2 ^ e)

theorem finVal_eq_zero (s : Bool) (m : Nat) (e : Int) : finVal s m e = 0 ↔ m = 0 := by
  cases s <;> simp [finVal, sgnFac, zpow_ne_zero]

theorem abs_finVal (s : Bool) (m : Nat) (e : Int) : |finVal s m e| = m * 2 ^ e := by
  have h : (0 : ℚ) ≤ m * 2 ^ e := by positivity
  cases s <;> simp [finVal, sgnFac, abs_mul]

theorem finVal_lt_zero {s : Bool} {m : Nat} {e : Int} (hm : m ≠ 0) : finVal s m e < 0 ↔ s = true := by
  have h : (0 : ℚ) < m * 2 ^ e := by positivity
  cases s
  · simpa [finVal, sgnFac] using h.le
  · simpa [finVal, sgnFac] using h

/-- The same number with another exponent. -/
theorem finVal_shift (s : Bool) (m k : Nat) (e : Int) : finVal s (m * 2 ^ k) e = finVal s m (e + k) := by
  rw [finVal, finVal, zpow_add₀ two_ne_zero, zpow_natCast]
  push_cast
  ring

/-! ### To an integer -/

/-- Does a number with integer part q and fraction r go away from zero (R74)? -/
def roundsUp (rm : Nat) (s : Bool) (q : Nat) (r : ℚ) : Bool :=
  match rm with
  | 0 => decide (1 / 2 < r) || decide (r = 1 / 2) && q % 2 == 1
  | 1 => false
  | 2 => !s && decide (r ≠ 0)
  | 3 => s && decide (r ≠ 0)
  | _ => decide (1 / 2 ≤ r)

theorem roundsUp_zero (rm : Nat) (s : Bool) (q : Nat) : roundsUp rm s q 0 = false := by
  unfold roundsUp
  split <;> norm_num

theorem floor_add_frac {q : ℤ} {r : ℚ} (h0 : 0 ≤ r) (h1 : r < 1) : ⌊(q : ℚ) + r⌋ = q := by
  rw [Int.floor_intCast_add, Int.floor_eq_zero_iff.2 ⟨h0, h1⟩, add_zero]

theorem ceil_add_frac {q : ℤ} {r : ℚ} (h0 : 0 < r) (h1 : r ≤ 1) : ⌈(q : ℚ) + r⌉ = q + 1 := by
  rw [Int.ceil_eq_iff]
  push_cast
  constructor <;> linarith

theorem roundInt_intCast (rm : Nat) (z : ℤ) : roundInt rm z = z := by
  match rm with
  | 0 => norm_num [roundInt]
  | 1 => simp [roundInt]
  | 2 => simp [roundInt]
  | 3 => simp [roundInt]
  | n + 4 =>
    have hf : ⌊(z : ℚ) + 1 / 2⌋ = z := floor_add_frac (by norm_num) (by norm_num)
    have hc : ⌈(z : ℚ) - 1 / 2⌉ = z := by
      rw [Int.ceil_eq_iff]
      constructor <;> linarith
    simp only [roundInt, hf, hc, ite_self]

/-- To nearest even, by the floor and what is above it. -/
theorem roundInt_nearest {q : ℤ} {r : ℚ} (h0 : 0 ≤ r) (h1 : r < 1) :
    roundInt 0 (q + r) = if r < 1 / 2 then q else if 1 / 2 < r then q + 1 else if q % 2 = 0 then q else q + 1 := by
  have h : (q : ℚ) + r - q = r := by ring
  simp only [roundInt, floor_add_frac h0 h1, h]

theorem roundInt_pos (rm : Nat) (q : Nat) {r : ℚ} (h0 : 0 ≤ r) (h1 : r < 1) :
    roundInt rm (q + r) = if roundsUp rm false q r then (q : ℤ) + 1 else q := by
  have hq : ((q : ℤ) : ℚ) = q := rfl
  have hx : (0 : ℚ) ≤ q + r := by positivity
  match rm with
  | 0 =>
    rw [← hq, roundInt_nearest h0 h1]
    rcases lt_trichotomy r (1 / 2) with h | h | h
    · simp only [roundsUp, h, h.not_gt, h.ne, if_true, decide_false, Bool.false_and, Bool.or_false, Bool.false_eq_true, if_false]
    · subst h
      simp only [roundsUp]
      norm_num
      split <;> split <;> omega
    · simp only [roundsUp, h, h.not_gt, if_true, if_false, decide_true, Bool.true_or]
  | 1 =>
    simp only [roundInt, roundsUp, if_pos hx, Bool.false_eq_true, if_false]
    rw [← hq, floor_add_frac h0 h1]
  | 2 =>
    rcases h0.eq_or_lt with h | h
    · simp [roundInt, roundsUp, ← h]
    · simp [roundInt, roundsUp, h.ne', ← hq, ceil_add_frac h h1.le, -Int.cast_natCast]
  | 3 => simp [roundInt, roundsUp, ← hq, floor_add_frac h0 h1, -Int.cast_natCast]
  | n + 4 =>
    simp only [roundInt, roundsUp, hx, if_true, decide_eq_true_eq]
    split
    · have e : (q : ℚ) + r + 1 / 2 = ((q + 1 : ℤ) : ℚ) + (r - 1 / 2) := by push_cast; ring
      rw [e, floor_add_frac (by linarith) (by linarith)]
    · rw [add_assoc, ← hq, floor_add_frac (by linarith) (by linarith)]

theorem roundInt_neg (rm : Nat) (q : Nat) {r : ℚ} (h0 : 0 ≤ r) (h1 : r < 1) :
    roundInt rm (-(q + r)) = -(if roundsUp rm true q r then (q : ℤ) + 1 else q) := by
  rcases h0.eq_or_lt with h | h
  · have e : -((q : ℚ) + r) = ((-q : ℤ) : ℚ) := by rw [← h]; push_cast; ring
    rw [e, roundInt_intCast, ← h, roundsUp_zero]
    rfl
  · have e : -((q : ℚ) + r) = ((-q - 1 : ℤ) : ℚ) + (1 - r) := by push_cast; ring
    have hneg : ¬ (0 : ℚ) ≤ ((-q - 1 : ℤ) : ℚ) + (1 - r) := by
      have : (0 : ℚ) ≤ q := by positivity
      push_cast
      linarith
    have hfl : ⌊((-q - 1 : ℤ) : ℚ) + (1 - r)⌋ = -q - 1 := floor_add_frac (by linarith) (by linarith)
    have hce : ⌈((-q - 1 : ℤ) : ℚ) + (1 - r)⌉ = -q := by rw [ceil_add_frac (by linarith) (by linarith)]; ring
    rw [e]
    match rm with
    | 0 =>
      rw [roundInt_nearest (by linarith) (by linarith)]
      rcases lt_trichotomy r (1 / 2) with g | g | g
      · have g1 : (1 / 2 : ℚ) < 1 - r := by linarith
        simp only [roundsUp, g.not_gt, g.ne, g1, g1.not_gt, if_true, if_false, decide_false, Bool.false_and, Bool.or_false, Bool.false_eq_true]
        ring
      · subst g
        simp only [roundsUp]
        norm_num
        split <;> split <;> omega
      · have g1 : 1 - r < 1 / 2 := by linarith
        simp only [roundsUp, g, g1, if_true, decide_true, Bool.true_or]
        ring
    | 1 => simp only [roundInt, roundsUp, if_neg hneg, hce]; rfl
    | 2 => simp only [roundInt, roundsUp, hce]; rfl
    | 3 =>
      simp only [roundInt, roundsUp, hfl, ne_eq, h.ne', not_false_eq_true, decide_true, Bool.and_true, if_true]
      ring
    | n + 4 =>
      simp only [roundInt, roundsUp, if_neg hneg, decide_eq_true_eq]
      split
      · have e1 : ((-q - 1 : ℤ) : ℚ) + (1 - r) - 1 / 2 = ((-q - 2 : ℤ) : ℚ) + (3 / 2 - r) := by push_cast; ring
        rw [e1, ceil_add_frac (by linarith) (by linarith)]
        ring
      · have e1 : ((-q - 1 : ℤ) : ℚ) + (1 - r) - 1 / 2 = ((-q - 1 : ℤ) : ℚ) + (1 / 2 - r) := by push_cast; ring
        rw [e1, ceil_add_frac (by linarith) (by linarith)]
        ring

/-- Rounding by integer part and fraction of the magnitude. -/
theorem roundInt_sgnFac (rm : Nat) (s : Bool) (q : Nat) {r : ℚ} (h0 : 0 ≤ r) (h1 : r < 1) :
    (roundInt rm (sgnFac s * (q + r)) : ℚ) = sgnFac s * (if roundsUp rm s q r then q + 1 else q : Nat) := by
  cases s
  · rw [sgnFac, if_neg Bool.false_ne_true, one_mul, one_mul, roundInt_pos rm q h0 h1]
    split <;> push_cast <;> rfl
  · rw [sgnFac, if_pos rfl, neg_one_mul, neg_one_mul, roundInt_neg rm q h0 h1]
    split <;> push_cast <;> rfl

/-- A number with a fraction is no multiple of the unit. -/
theorem rounded_eq_self_iff (b : Bool) (q : Nat) {r : ℚ} (h1 : r < 1) (hb : r = 0 → b = false) :
    (((if b then q + 1 else q : Nat) : ℚ) = q + r) ↔ r = 0 := by
  cases b
  · simp
  · have hr : r ≠ 0 := fun h => Bool.noConfusion (hb h)
    simp [h1.ne', hr]

/-- m / 2^k is its quotient and a remainder below 1. -/
theorem natCast_div_pow (m k : Nat) : (m : ℚ) / 2 ^ k = (m / 2 ^ k : Nat) + (m % 2 ^ k : Nat) / 2 ^ k := by
  have h : (m : ℚ) = (2 ^ k : ℚ) * (m / 2 ^ k : Nat) + (m % 2 ^ k : Nat) := by exact_mod_cast (Nat.div_add_mod m (2 ^ k)).symm
  have hk : (2 ^ k : ℚ) ≠ 0 := by positivity
  rw [div_eq_iff hk, add_mul, div_mul_cancel₀ _ hk]
  linarith

/-- The shift with rounding decides by the remainder as `roundsUp` does by the fraction. -/
theorem roundShift_eq (rm : Nat) (s : Bool) (m k : Nat) :
    roundShift rm s m k =
      (if roundsUp rm s (m / 2 ^ k) ((m % 2 ^ k : Nat) / 2 ^ k) then m / 2 ^ k + 1 else m / 2 ^ k, decide (m % 2 ^ k ≠ 0)) := by
  have hk : (0 : ℚ) < 2 ^ k := by positivity
  have hlt : ((1 : ℚ) / 2 < (m % 2 ^ k : Nat) / 2 ^ k) ↔ 2 ^ k < 2 * (m % 2 ^ k) := by
    rw [div_lt_div_iff₀ two_pos hk, mul_comm _ (2 : ℚ), one_mul]
    exact_mod_cast Iff.rfl
  have hle : ((1 : ℚ) / 2 ≤ (m % 2 ^ k : Nat) / 2 ^ k) ↔ 2 ^ k ≤ 2 * (m % 2 ^ k) := by
    rw [div_le_div_iff₀ two_pos hk, mul_comm _ (2 : ℚ), one_mul]
    exact_mod_cast Iff.rfl
  have heq : (((m % 2 ^ k : Nat) : ℚ) / 2 ^ k = 1 / 2) ↔ 2 * (m % 2 ^ k) = 2 ^ k := by
    rw [div_eq_div_iff hk.ne' two_ne_zero, mul_comm _ (2 : ℚ), one_mul]
    exact_mod_cast Iff.rfl
  have hne : (((m % 2 ^ k : Nat) : ℚ) / 2 ^ k ≠ 0) ↔ m % 2 ^ k ≠ 0 := by
    rw [Ne, div_eq_zero_iff, or_iff_left hk.ne', Nat.cast_eq_zero]
  have h2 : 0 < 2 ^ k := by positivity
  match rm with
  | 0 => simp only [roundShift, roundsUp, hlt, heq]
  | 1 => rfl
  | 2 => simp only [roundShift, roundsUp, hne]
  | 3 => simp only [roundShift, roundsUp, hne]
  | n + 4 =>
    have h : (decide (2 ^ k ≤ 2 * (m % 2 ^ k)) && decide (m % 2 ^ k ≠ 0)) = decide (2 ^ k ≤ 2 * (m % 2 ^ k)) := by
      rw [← Bool.decide_and, decide_eq_decide]
      omega
    simp only [roundShift, roundsUp, hle, h]

/-! ### To a multiple of a power of two -/

/-- `roundAt` rounds to a multiple of 2^t, and says whether anything was lost (R74). -/
theorem roundTo_finVal (rm : Nat) (s : Bool) (m : Nat) (e t : Int) :
    roundTo rm (finVal s m e) t = finVal s (roundAt rm s m e t).1 t ∧
      ((roundAt rm s m e t).2 = false ↔ roundTo rm (finVal s m e) t = finVal s m e) := by
  have ht : (2 : ℚ) ^ t ≠ 0 := by positivity
  by_cases hte : t ≤ e
  · obtain ⟨k, rfl⟩ := Int.le.dest hte
    have hx : finVal s m (t + k) = ((if s then -1 else 1) * ((m * 2 ^ k : Nat) : ℤ) : ℤ) * 2 ^ t := by
      rw [finVal, sgnFac, zpow_add₀ two_ne_zero, zpow_natCast]
      cases s <;> push_cast <;> ring
    have hr : roundTo rm (finVal s m (t + k)) t = finVal s m (t + k) := by
      rw [roundTo, hx, mul_div_cancel_right₀ _ ht, roundInt_intCast]
    rw [hr, roundAt, if_pos hte, finVal_shift]
    simp
  · obtain ⟨k, hk⟩ := Int.le.dest (not_le.1 hte).le
    obtain rfl : e = t - k := by omega
    have hx : finVal s m (t - k) = sgnFac s * ((m / 2 ^ k : Nat) + (m % 2 ^ k : Nat) / 2 ^ k) * 2 ^ t := by
      rw [← natCast_div_pow, finVal, zpow_sub₀ two_ne_zero, zpow_natCast]
      ring
    have h0 : (0 : ℚ) ≤ (m % 2 ^ k : Nat) / 2 ^ k := by positivity
    have h1 : ((m % 2 ^ k : Nat) : ℚ) / 2 ^ k < 1 := by
      rw [div_lt_one (by positivity)]
      exact_mod_cast Nat.mod_lt m (by positivity)
    have hr := roundInt_sgnFac rm s (m / 2 ^ k) h0 h1
    rw [roundTo, roundAt, if_neg hte, hx, mul_div_cancel_right₀ _ ht, hr, show (t - (t - (k : ℤ))).toNat = k by omega, roundShift_eq]
    refine ⟨by rw [finVal]; ring, ?_⟩
    have hs : sgnFac s ≠ 0 := by cases s <;> simp [sgnFac]
    rw [mul_left_inj' ht, mul_right_inj' hs, rounded_eq_self_iff _ _ h1 (fun h => by rw [h, roundsUp_zero]), div_eq_zero_iff, or_iff_left (by positivity)]
    simp

end Sys2Proof.Machine
end

section
namespace Sys2Proof.Machine
open Sys2Proof Sys2Proof.Claims

set_option Elab.async false

/-! ## round_fmt (R75, R76) -/

/-- What the formats of R66 to R69 have in common. -/
structure Fmt.Sound (f : Fmt) : Prop where
  fb_pos : 1 ≤ f.fb
  eb_two : 2 ≤ f.eb
  bias_eq : f.bias + 1 = 2 ^ (f.eb - 1)
  e4m3 : f.kind = .e4m3 → f.eb = 4 ∧ f.fb = 3
  e2m1 : f.kind = .e2m1 → f.eb = 2 ∧ f.fb = 1

theorem f32_sound : f32.Sound := ⟨by decide, by decide, by decide, nofun, nofun⟩
theorem f16_sound : f16.Sound := ⟨by decide, by decide, by decide, nofun, nofun⟩
theorem bf16_sound : bf16.Sound := ⟨by decide, by decide, by decide, nofun, nofun⟩
theorem e4m3_sound : Fmt.Sound e4m3 := ⟨by decide, by decide, by decide, fun _ => ⟨rfl, rfl⟩, nofun⟩
theorem e5m2_sound : e5m2.Sound := ⟨by decide, by decide, by decide, nofun, nofun⟩
theorem a48_sound : a48.Sound := ⟨by decide, by decide, by decide, nofun, nofun⟩

theorem fZero_eq_sign (f : Fmt) (s : Bool) : fZero f s = f.sign s := by cases s <;> simp [fZero, Fmt.sign, b2n]

/-- The fields of a code put together from them (R66). -/
theorem fields_of_code (f : Fmt) (s : Bool) {e r : Nat} (he : e < 2 ^ f.eb) (hr : r < 2 ^ f.fb) :
    fSign f (f.sign s + (e * 2 ^ f.fb + r)) = s ∧ fExp f (f.sign s + (e * 2 ^ f.fb + r)) = e ∧ fFrac f (f.sign s + (e * 2 ^ f.fb + r)) = r := by
  have hpow : 2 ^ (f.eb + f.fb) = 2 ^ f.fb * 2 ^ f.eb := by rw [pow_add, mul_comm]
  have hx : f.sign s + (e * 2 ^ f.fb + r) = (b2n s * 2 ^ f.eb + e) * 2 ^ f.fb + r := by
    rw [Fmt.sign, hpow]
    ring
  have hdiv : (f.sign s + (e * 2 ^ f.fb + r)) / 2 ^ f.fb = b2n s * 2 ^ f.eb + e := by
    rw [hx, mul_comm, Nat.mul_add_div (by positivity), Nat.div_eq_of_lt hr, add_zero]
  refine ⟨?_, ?_, ?_⟩
  · rw [fSign, hpow, ← Nat.div_div_eq_div_mul, hdiv, mul_comm (b2n s), Nat.mul_add_div (by positivity), Nat.div_eq_of_lt he, add_zero]
    cases s <;> rfl
  · rw [fExp, hdiv, mul_comm (b2n s), Nat.mul_add_mod, Nat.mod_eq_of_lt he]
  · rw [fFrac, hx, mul_comm, Nat.mul_add_mod, Nat.mod_eq_of_lt hr]

/-- Significand and exponent of a finite code. -/
def fMant (f : Fmt) (x : Nat) : Nat := if fExp f x = 0 then fFrac f x else 2 ^ f.fb + fFrac f x
def fScale (f : Fmt) (x : Nat) : Int := if fExp f x = 0 then 1 - (f.bias : Int) - f.fb else (fExp f x : Int) - f.bias - f.fb

theorem fVal_eq_finVal (f : Fmt) (x : Nat) : fVal f x = finVal (fSign f x) (fMant f x) (fScale f x) := by
  unfold fVal fMant fScale
  by_cases h : fExp f x = 0
  · simp only [h, if_true]
    rfl
  · simp only [h, if_false]
    rfl

/-- The largest exponent of a format, and the significand that goes with it (R67). -/
def Fmt.emax (f : Fmt) : Int := match f.kind with | .ieee => (2 ^ f.eb - 2 : Nat) - f.bias | .e4m3 => 8 | .e2m1 => 2
def Fmt.topMant (f : Fmt) : Nat := match f.kind with | .ieee => 2 ^ (f.fb + 1) - 1 | .e4m3 => 14 | .e2m1 => 3

theorem Fmt.Sound.topMant_bounds {f : Fmt} (hf : f.Sound) : 2 ^ f.fb ≤ f.topMant ∧ f.topMant < 2 ^ (f.fb + 1) := by
  have h1 := Nat.one_le_two_pow (n := f.fb)
  unfold Fmt.topMant
  cases hk : f.kind with
  | ieee => rw [pow_succ]; dsimp only; omega
  | e4m3 => rw [(hf.e4m3 hk).2]; decide
  | e2m1 => rw [(hf.e2m1 hk).2]; decide

theorem Fmt.Sound.fVal_maxCode {f : Fmt} (hf : f.Sound) : fVal f f.maxCode = f.topMant * 2 ^ (f.emax - f.fb) := by
  have hb := hf.bias_eq
  have h4 : 2 ^ 2 ≤ 2 ^ f.eb := Nat.pow_le_pow_right (by decide) hf.eb_two
  have h1 := Nat.one_le_two_pow (n := f.fb)
  unfold Fmt.maxCode Fmt.topMant Fmt.emax
  cases hk : f.kind with
  | ieee =>
    have hc : f.infCode - 1 = f.sign false + ((2 ^ f.eb - 2) * 2 ^ f.fb + (2 ^ f.fb - 1)) := by
      obtain ⟨k, hk⟩ : ∃ k, 2 ^ f.eb = k + 2 := ⟨2 ^ f.eb - 2, by omega⟩
      rw [Fmt.infCode, hk, Fmt.sign, b2n, show k + 2 - 1 = k + 1 by omega, show k + 2 - 2 = k by omega, add_mul]
      simp only [Bool.false_eq_true, if_false]
      omega
    obtain ⟨hs, he, hr⟩ := fields_of_code f false (e := 2 ^ f.eb - 2) (r := 2 ^ f.fb - 1) (by omega) (by omega)
    dsimp only
    rw [hc, fVal_eq_finVal, fMant, fScale, hs, he, hr, if_neg (by omega), if_neg (by omega), show 2 ^ f.fb + (2 ^ f.fb - 1) = 2 ^ (f.fb + 1) - 1 by rw [pow_succ]; omega]
    exact one_mul _
  | e4m3 =>
    obtain ⟨heb, hfb⟩ := hf.e4m3 hk
    have hbias : f.bias = 7 := by rw [heb] at hb; omega
    norm_num [fVal, fSign, fExp, fFrac, heb, hfb, hbias]
  | e2m1 =>
    obtain ⟨heb, hfb⟩ := hf.e2m1 hk
    have hbias : f.bias = 1 := by rw [heb] at hb; omega
    norm_num [fVal, fSign, fExp, fFrac, heb, hfb, hbias]

/-- Numbers with significands of one length compare by exponent, then significand. -/
theorem normal_lt_iff {n M q : Nat} {a b : Int} (hM : 2 ^ n ≤ M ∧ M < 2 ^ (n + 1)) (hq : 2 ^ n ≤ q ∧ q < 2 ^ (n + 1)) :
    (M : ℚ) * 2 ^ a < q * 2 ^ b ↔ a < b ∨ a = b ∧ M < q := by
  have hlt : ∀ {x y : Nat} {c d : Int}, x < 2 ^ (n + 1) → 2 ^ n ≤ y → c < d → (x : ℚ) * 2 ^ c < y * 2 ^ d := by
    intro x y c d hx hy hcd
    have hx' : (x : ℚ) < 2 ^ (n + 1) := by exact_mod_cast hx
    have hy' : (2 : ℚ) ^ n ≤ y := by exact_mod_cast hy
    calc (x : ℚ) * 2 ^ c < 2 ^ (n + 1) * 2 ^ c := by gcongr
      _ = 2 ^ n * 2 ^ (c + 1) := by rw [zpow_add₀ two_ne_zero, pow_succ]; ring
      _ ≤ y * 2 ^ d := by gcongr <;> [norm_num; omega]
  rcases lt_trichotomy a b with h | h | h
  · simp [h, hlt hM.2 hq.1 h]
  · subst h
    simp [mul_lt_mul_iff_left₀ (show (0 : ℚ) < 2 ^ a by positivity)]
  · simp [h.not_gt, h.ne', (hlt hq.2 hM.1 h).le]

/-- Overflow, by exponent and significand (R76). -/
theorem Fmt.Sound.over_iff {f : Fmt} (hf : f.Sound) {q : Nat} {E : Int} (hq : 2 ^ f.fb ≤ q ∧ q < 2 ^ (f.fb + 1)) :
    fVal f f.maxCode < q * 2 ^ (E - f.fb) ↔ f.emax < E ∨ f.kind = .e4m3 ∧ E = 8 ∧ q = 15 := by
  rw [hf.fVal_maxCode, normal_lt_iff hf.topMant_bounds hq, sub_lt_sub_iff_right, sub_left_inj]
  refine or_congr_right ?_
  unfold Fmt.topMant Fmt.emax
  cases hk : f.kind with
  | ieee => dsimp only; simp; omega
  | e4m3 => rw [(hf.e4m3 hk).2] at hq; dsimp only; simp; omega
  | e2m1 => rw [(hf.e2m1 hk).2] at hq; dsimp only; simp; omega

theorem int_log_normal {n q : Nat} {a : Int} (hq : 2 ^ n ≤ q ∧ q < 2 ^ (n + 1)) : Int.log 2 ((q : ℚ) * 2 ^ a) = n + a := by
  have hq0 : 0 < q := lt_of_lt_of_le (by positivity) hq.1
  have h0 : (0 : ℚ) < q * 2 ^ a := by positivity
  have hlo : (2 : ℚ) ^ n ≤ q := by exact_mod_cast hq.1
  have hhi : (q : ℚ) < 2 ^ (n + 1) := by exact_mod_cast hq.2
  refine le_antisymm (Int.lt_add_one_iff.1 ?_) ?_
  · rw [← Int.lt_zpow_iff_log_lt one_lt_two h0]
    calc (q : ℚ) * 2 ^ a < 2 ^ (n + 1) * 2 ^ a := by gcongr
      _ = _ := by push_cast; rw [← zpow_natCast, ← zpow_add₀ two_ne_zero]; congr 1; push_cast; ring
  · rw [← Int.zpow_le_iff_le_log one_lt_two h0]
    calc ((2 : ℕ) : ℚ) ^ ((n : ℤ) + a) = 2 ^ n * 2 ^ a := by push_cast; rw [zpow_add₀ two_ne_zero, zpow_natCast]
      _ ≤ _ := by gcongr

/-- Rounding keeps a number within powers of two of the unit. -/
theorem pow_le_roundAt (rm : Nat) (s : Bool) {m n : Nat} {e t : Int} (h : (2 : ℚ) ^ n * 2 ^ t ≤ m * 2 ^ e) : 2 ^ n ≤ (roundAt rm s m e t).1 := by
  by_cases hte : t ≤ e
  · obtain ⟨k, rfl⟩ := Int.le.dest hte
    rw [zpow_add₀ two_ne_zero, mul_comm (2 ^ t : ℚ), ← mul_assoc, mul_le_mul_iff_left₀ (by positivity), zpow_natCast] at h
    rw [roundAt, if_pos hte, show (t + (k : ℤ) - t).toNat = k by omega]
    exact_mod_cast h
  · obtain ⟨k, hk⟩ := Int.le.dest (not_le.1 hte).le
    obtain rfl : t = e + k := hk.symm
    rw [zpow_add₀ two_ne_zero, mul_comm (2 ^ e : ℚ), ← mul_assoc, mul_le_mul_iff_left₀ (by positivity), zpow_natCast, ← pow_add] at h
    have h' : 2 ^ n ≤ m / 2 ^ k := by
      rw [Nat.le_div_iff_mul_le (by positivity), ← pow_add]
      exact_mod_cast h
    rw [roundAt, if_neg hte, show (e + (k : ℤ) - e).toNat = k by omega, roundShift_eq]
    dsimp only
    split <;> omega

theorem roundAt_le_pow (rm : Nat) (s : Bool) {m n : Nat} {e t : Int} (h : (m : ℚ) * 2 ^ e ≤ 2 ^ n * 2 ^ t) : (roundAt rm s m e t).1 ≤ 2 ^ n := by
  by_cases hte : t ≤ e
  · obtain ⟨k, rfl⟩ := Int.le.dest hte
    rw [zpow_add₀ two_ne_zero, mul_comm (2 ^ t : ℚ), ← mul_assoc, mul_le_mul_iff_left₀ (by positivity), zpow_natCast] at h
    rw [roundAt, if_pos hte, show (t + (k : ℤ) - t).toNat = k by omega]
    exact_mod_cast h
  · obtain ⟨k, hk⟩ := Int.le.dest (not_le.1 hte).le
    obtain rfl : t = e + k := hk.symm
    rw [zpow_add₀ two_ne_zero, mul_comm (2 ^ e : ℚ), ← mul_assoc, mul_le_mul_iff_left₀ (by positivity), zpow_natCast] at h
    have h' : m ≤ 2 ^ n * 2 ^ k := by exact_mod_cast h
    rw [roundAt, if_neg hte, show (e + (k : ℤ) - e).toNat = k by omega, roundShift_eq]
    rcases h'.eq_or_lt with he | hl
    · simp [he, roundsUp_zero]
    · have hdiv : m / 2 ^ k < 2 ^ n := Nat.div_lt_of_lt_mul (by rwa [mul_comm])
      dsimp only
      split <;> omega

end Sys2Proof.Machine
end

section
namespace Sys2Proof.Machine
open Sys2Proof Sys2Proof.Claims

set_option Elab.async false

/-- A finite value rounded to the format's precision (R75): significand, exponent of its leading bit, and whether anything was lost. -/
def roundPrec (f : Fmt) (rm : Nat) (s : Bool) (m : Nat) (e : Int) : Nat × Int × Bool :=
  let E : Int := (Nat.log2 m : Int) + e
  let r := roundAt rm s m e (E - f.fb)
  if r.1 = 2 ^ (f.fb + 1) then (2 ^ f.fb, E + 1, r.2) else (r.1, E, r.2)

theorem roundFmt_eq (f : Fmt) (rm : Nat) (sat s : Bool) {m : Nat} (hm : m ≠ 0) (e : Int) :
    roundFmt f rm sat (.fin s m e) =
      (let r := roundPrec f rm s m e
       if r.2.1 > f.emax ∨ (f.kind = .e4m3 ∧ r.2.1 = 8 ∧ r.1 = 15) then overflowTo f s rm sat
       else if r.2.1 < 1 - f.bias then
         (f.sign s + (roundAt rm s m e (1 - f.bias - f.fb)).1, if (roundAt rm s m e (1 - f.bias - f.fb)).2 then fNX ||| fUF else 0)
       else (f.sign s + (r.2.1 + f.bias).toNat * 2 ^ f.fb + (r.1 - 2 ^ f.fb), if r.2.2 then fNX else 0)) := by
  obtain ⟨n, rfl⟩ := Nat.exists_eq_succ_of_ne_zero hm
  simp only [roundFmt, roundPrec, Fmt.emax]
  split <;> rfl

theorem log2_bounds {m : Nat} (hm : m ≠ 0) : 2 ^ Nat.log2 m ≤ m ∧ m < 2 ^ (Nat.log2 m + 1) := ⟨Nat.log2_self_le hm, Nat.lt_log2_self⟩

/-- The rounding to precision, on exact numbers. -/
theorem roundPrec_spec (f : Fmt) (rm : Nat) (s : Bool) {m : Nat} (hm : m ≠ 0) (e : Int) :
    let r := roundPrec f rm s m e
    let y := roundTo rm (finVal s m e) (Int.log 2 |finVal s m e| - f.fb)
    (2 ^ f.fb ≤ r.1 ∧ r.1 < 2 ^ (f.fb + 1)) ∧ (Nat.log2 m : Int) + e ≤ r.2.1 ∧ y = finVal s r.1 (r.2.1 - f.fb) ∧ (r.2.2 = false ↔ y = finVal s m e) := by
  have hlog : Int.log 2 |finVal s m e| = Nat.log2 m + e := by rw [abs_finVal, int_log_normal (log2_bounds hm)]
  have hlo : (2 : ℚ) ^ Nat.log2 m ≤ m := by exact_mod_cast (log2_bounds hm).1
  have hhi : (m : ℚ) ≤ 2 ^ (Nat.log2 m + 1) := by exact_mod_cast (log2_bounds hm).2.le
  obtain ⟨hval, hex⟩ := roundTo_finVal rm s m e ((Nat.log2 m : Int) + e - f.fb)
  have hexp : ∀ n : Nat, (2 : ℚ) ^ (f.fb + n) * 2 ^ ((Nat.log2 m : Int) + e - f.fb) = 2 ^ (Nat.log2 m + n) * 2 ^ e := by
    intro n
    simp only [← zpow_natCast, ← zpow_add₀ (two_ne_zero (α := ℚ))]
    congr 1
    push_cast
    ring
  have hge : 2 ^ f.fb ≤ (roundAt rm s m e ((Nat.log2 m : Int) + e - f.fb)).1 := by
    refine pow_le_roundAt rm s ?_
    have h := hexp 0
    rw [add_zero, add_zero] at h
    rw [h]
    gcongr
  have hle : (roundAt rm s m e ((Nat.log2 m : Int) + e - f.fb)).1 ≤ 2 ^ (f.fb + 1) := by
    refine roundAt_le_pow rm s ?_
    rw [hexp]
    gcongr
  simp only [roundPrec, hlog]
  split
  · rename_i h
    refine ⟨⟨le_rfl, Nat.pow_lt_pow_right one_lt_two (Nat.lt_succ_self _)⟩, by dsimp only; omega, ?_, hex⟩
    rw [hval, h, pow_succ, ← pow_one 2, ← pow_mul, one_mul, finVal_shift]
    congr 1
    push_cast
    ring
  · exact ⟨⟨hge, by omega⟩, le_rfl, hval, hex⟩

/-- A number below the smallest with a full significand is rounded to at most that one. -/
theorem roundAt_small {f : Fmt} (rm : Nat) (s : Bool) {m : Nat} {e : Int} (hm : m ≠ 0) (h : (Nat.log2 m : ℤ) + e < 1 - f.bias) :
    (roundAt rm s m e (1 - (f.bias : ℤ) - f.fb)).1 ≤ 2 ^ f.fb := by
  refine roundAt_le_pow rm s ?_
  have hhi : (m : ℚ) ≤ 2 ^ (Nat.log2 m + 1) := by exact_mod_cast (log2_bounds hm).2.le
  have hE : (Nat.log2 m : ℤ) + e + 1 ≤ 1 - f.bias := by omega
  calc (m : ℚ) * 2 ^ e ≤ 2 ^ (Nat.log2 m + 1) * 2 ^ e := by gcongr
    _ = 2 ^ ((Nat.log2 m : ℤ) + e + 1) := by rw [← zpow_natCast, ← zpow_add₀ two_ne_zero]; congr 1; push_cast; ring
    _ ≤ 2 ^ (1 - (f.bias : ℤ)) := zpow_le_zpow_right₀ (one_le_two (α := ℚ)) hE
    _ = _ := by rw [← zpow_natCast, ← zpow_add₀ two_ne_zero]; congr 1; ring

/-- The code of a number with a full significand. -/
theorem fCode_normal {f : Fmt} {s : Bool} {q : Nat} {E : Int} (hq : 2 ^ f.fb ≤ q ∧ q < 2 ^ (f.fb + 1)) (hE : 1 - (f.bias : Int) ≤ E) :
    fCode f (finVal s q (E - f.fb)) = f.sign s + (E + f.bias).toNat * 2 ^ f.fb + (q - 2 ^ f.fb) := by
  have hq0 : q ≠ 0 := (lt_of_lt_of_le (by positivity) hq.1).ne'
  have hlog : Int.log 2 ((q : ℚ) * 2 ^ (E - f.fb)) = E := by rw [int_log_normal hq]; ring
  have hge : ¬ (q : ℚ) * 2 ^ (E - f.fb) < 2 ^ (1 - (f.bias : ℤ)) := by
    have hq' : (2 : ℚ) ^ f.fb ≤ q := by exact_mod_cast hq.1
    rw [not_lt]
    calc (2 : ℚ) ^ (1 - (f.bias : ℤ)) ≤ 2 ^ E := zpow_le_zpow_right₀ one_le_two hE
      _ = 2 ^ f.fb * 2 ^ (E - f.fb) := by rw [← zpow_natCast, ← zpow_add₀ two_ne_zero]; congr 1; ring
      _ ≤ _ := by gcongr
  have hfl : ((q : ℚ) * 2 ^ (E - f.fb) / 2 ^ (E - f.fb)).floor.toNat = q := by
    rw [mul_div_cancel_right₀ _ (by positivity)]
    exact (congrArg Int.toNat (Int.floor_natCast (R := ℚ) q)).trans (Int.toNat_natCast q)
  rw [fCode, abs_finVal, if_neg hge, hlog, hfl, fZero_eq_sign, add_assoc]
  congr 2
  cases s
  · simp [finVal_lt_zero hq0]
  · simp [finVal_lt_zero hq0]

/-- The code of a number below the smallest with a full significand, or that number itself. -/
theorem fCode_small {f : Fmt} {s : Bool} {q : Nat} (h0 : q ≠ 0) (hq : q ≤ 2 ^ f.fb) :
    fCode f (finVal s q (1 - (f.bias : ℤ) - f.fb)) = f.sign s + q := by
  rcases hq.eq_or_lt with rfl | hlt
  · rw [fCode_normal ⟨le_rfl, Nat.pow_lt_pow_right one_lt_two (Nat.lt_succ_self _)⟩ le_rfl]
    simp
  · have hq' : (q : ℚ) < 2 ^ f.fb := by exact_mod_cast hlt
    have hsm : (q : ℚ) * 2 ^ (1 - (f.bias : ℤ) - f.fb) < 2 ^ (1 - (f.bias : ℤ)) := by
      calc (q : ℚ) * 2 ^ (1 - (f.bias : ℤ) - f.fb) < 2 ^ f.fb * 2 ^ (1 - (f.bias : ℤ) - f.fb) := by gcongr
        _ = _ := by rw [← zpow_natCast, ← zpow_add₀ two_ne_zero]; congr 1; ring
    have hfl : ((q : ℚ) * 2 ^ (1 - (f.bias : ℤ) - f.fb) / 2 ^ (1 - (f.bias : ℤ) - f.fb)).floor.toNat = q := by
      rw [mul_div_cancel_right₀ _ (by positivity)]
      exact (congrArg Int.toNat (Int.floor_natCast (R := ℚ) q)).trans (Int.toNat_natCast q)
    rw [fCode, abs_finVal, if_pos hsm, hfl, fZero_eq_sign]
    congr 2
    cases s
    · simp [finVal_lt_zero h0]
    · simp [finVal_lt_zero h0]

theorem overflowTo_eq (f : Fmt) (s : Bool) (rm : Nat) (sat : Bool) : overflowTo f s rm sat = (fOver f s rm sat, fOF ||| fNX) := by
  unfold overflowTo fOver
  rw [fZero_eq_sign]
  cases f.kind <;> simp [or_assoc]

/-- THE MODEL'S ROUNDING IS THE RULE'S: round_fmt of a finite value is `roundNum` of its number (R75, R76). -/
theorem Fmt.Sound.roundFmt_fin {f : Fmt} (hf : f.Sound) (rm : Nat) (sat s : Bool) (m : Nat) (e : Int) :
    roundFmt f rm sat (.fin s m e) = roundNum f rm sat (finVal s m e) s := by
  by_cases hm : m = 0
  · subst hm
    rw [roundNum, if_pos ((finVal_eq_zero s 0 e).2 rfl), fZero_eq_sign]
    rfl
  · have hneg : decide (finVal s m e < 0) = s := by
      cases s <;> simp [finVal_lt_zero hm]
    obtain ⟨hq, hE, hy, hex⟩ := roundPrec_spec f rm s hm e
    rw [roundFmt_eq f rm sat s hm, roundNum, if_neg (mt (finVal_eq_zero s m e).1 hm), hneg]
    generalize roundTo rm (finVal s m e) (Int.log 2 |finVal s m e| - f.fb) = y at hy hex
    generalize roundPrec f rm s m e = r at hq hE hy hex
    obtain ⟨q, E, nx⟩ := r
    dsimp only at hq hE hy hex ⊢
    have hover : fVal f f.maxCode < |y| ↔ E > f.emax ∨ f.kind = .e4m3 ∧ E = 8 ∧ q = 15 := by rw [hy, abs_finVal, hf.over_iff hq]
    by_cases ho : E > f.emax ∨ f.kind = .e4m3 ∧ E = 8 ∧ q = 15
    · rw [if_pos ho, if_pos (hover.2 ho), overflowTo_eq]
    · rw [if_neg ho, if_neg (mt hover.1 ho)]
      have hsmall : |y| < 2 ^ (1 - (f.bias : ℤ)) ↔ E < 1 - f.bias := by
        have h0 : (0 : ℚ) < |y| := by
          have : 0 < q := lt_of_lt_of_le (by positivity) hq.1
          rw [hy, abs_finVal]
          positivity
        have := Int.lt_zpow_iff_log_lt (b := 2) one_lt_two (x := 1 - (f.bias : ℤ)) h0
        rw [hy, abs_finVal, int_log_normal hq, show (f.fb : ℤ) + (E - f.fb) = E by ring] at this
        rw [hy, abs_finVal]
        exact_mod_cast this
      by_cases hs : E < 1 - f.bias
      · obtain ⟨hz, hzx⟩ := roundTo_finVal rm s m e (1 - (f.bias : ℤ) - f.fb)
        have hle := roundAt_small (f := f) rm s hm (show (Nat.log2 m : ℤ) + e < 1 - f.bias by omega)
        rw [if_pos hs, if_pos (hsmall.2 hs)]
        generalize roundAt rm s m e (1 - (f.bias : ℤ) - f.fb) = z at hz hzx hle
        refine Prod.ext ?_ ?_
        · dsimp only
          rw [hz]
          by_cases h0 : z.1 = 0
          · rw [if_pos ((finVal_eq_zero _ _ _).2 h0), h0, fZero_eq_sign, add_zero]
          · rw [if_neg (mt (finVal_eq_zero _ _ _).1 h0), fCode_small h0 hle]
        · dsimp only
          cases hn : z.2
          · rw [if_pos (hzx.1 hn)]
            rfl
          · rw [if_neg (fun h => Bool.noConfusion (hn.symm.trans (hzx.2 h)))]
            rfl
      · rw [if_neg hs, if_neg (mt hsmall.1 hs)]
        refine Prod.ext ?_ ?_
        · dsimp only
          rw [hy, fCode_normal hq (not_lt.1 hs)]
        · dsimp only
          cases hn : nx
          · rw [if_pos (hex.1 hn)]
            rfl
          · rw [if_neg (fun h => Bool.noConfusion (hn.symm.trans (hex.2 h)))]
            rfl

end Sys2Proof.Machine
end

section
namespace Sys2Proof.Machine
open Sys2Proof Sys2Proof.Claims

set_option Elab.async false

/-! ## Codes as values (R66 to R70) -/

theorem Fmt.Sound.dec_eq {f : Fmt} (hf : f.Sound) (x : Nat) :
    f.dec x = if fNan f x then .nan (fSign f x) (fSnan f x) (fFrac f x) f.fb
      else if fInf f x then .inf (fSign f x) else .fin (fSign f x) (fMant f x) (fScale f x) := by
  have hexp : bits x (f.eb + f.fb - 1) f.fb = fExp f x := by
    have h := hf.eb_two
    rw [bits, fExp, show f.eb + f.fb - 1 + 1 - f.fb = f.eb by omega]
  have hnum : (if fExp f x = 0 then Fv.fin (fSign f x) (fFrac f x) (1 - f.bias - f.fb) else Fv.fin (fSign f x) (2 ^ f.fb + fFrac f x) ((fExp f x : Int) - f.bias - f.fb)) =
      Fv.fin (fSign f x) (fMant f x) (fScale f x) := by
    unfold fMant fScale
    split <;> rfl
  have hsign : bit x (f.eb + f.fb) = fSign f x := rfl
  have hfrac : x % 2 ^ f.fb = fFrac f x := rfl
  unfold Fmt.dec
  simp only [hexp, hsign, hfrac, hnum]
  unfold fNan fInf fSnan
  cases hk : f.kind with
  | ieee =>
    by_cases he : fExp f x = 2 ^ f.eb - 1
    · by_cases hr : fFrac f x = 0 <;> simp [he, hr, fNan, hk]
    · simp [he]
  | e4m3 =>
    obtain ⟨heb, hfb⟩ := hf.e4m3 hk
    by_cases h : fExp f x = 15 ∧ fFrac f x = 7
    · simp [h, hfb]
    · simp [h]
  | e2m1 => simp

section
variable {f : Fmt} {x : Nat}

theorem Fmt.Sound.dec_nan (hf : f.Sound) (h : fNan f x = true) : f.dec x = .nan (fSign f x) (fSnan f x) (fFrac f x) f.fb := by rw [hf.dec_eq, if_pos h]

theorem Fmt.Sound.dec_inf (hf : f.Sound) (h : fInf f x = true) : f.dec x = .inf (fSign f x) := by
  have hn : fNan f x = false := by
    unfold fInf fNan at *
    cases hk : f.kind <;> simp_all
  rw [hf.dec_eq, if_neg (by simp [hn]), if_pos h]

theorem Fmt.Sound.dec_fin (hf : f.Sound) (hn : fNan f x = false) (h : fInf f x = false) : f.dec x = .fin (fSign f x) (fMant f x) (fScale f x) := by
  rw [hf.dec_eq, if_neg (by simp [hn]), if_neg (by simp [h])]

theorem Fmt.Sound.dec_isNan (hf : f.Sound) (x : Nat) : (f.dec x).isNan = fNan f x := by
  rw [hf.dec_eq]
  split
  · rename_i h
    rw [h]
    rfl
  · rename_i h
    rw [Bool.not_eq_true] at h
    rw [h]
    split <;> rfl

theorem fNan_of_fSnan (h : fSnan f x = true) : fNan f x = true := by
  unfold fSnan at h
  simp_all

theorem Fmt.Sound.dec_isSig (hf : f.Sound) (x : Nat) : (f.dec x).isSig = fSnan f x := by
  rw [hf.dec_eq]
  split
  · rfl
  · rename_i h
    have hs : fSnan f x = false := by
      cases hs : fSnan f x
      · rfl
      · exact absurd (fNan_of_fSnan hs) h
    rw [hs]
    split <;> rfl

end

/-! ## Conversions (R79, R80, R87) -/

/-- Setting the lowest bit. -/
theorem or_one_eq (a : Nat) : a ||| 1 = a - a % 2 + 1 := by
  have h := Nat.two_pow_add_eq_or_of_lt (i := 1) (b := 1) (by decide) (a / 2)
  have h2 := Nat.two_pow_add_eq_or_of_lt (i := 1) (b := a % 2) (by omega) (a / 2)
  have hm : a % 2 ||| 1 = 1 := by
    rcases Nat.mod_two_eq_zero_or_one a with h | h <;> rw [h] <;> rfl
  have ha : a ||| 1 = 2 ^ 1 * (a / 2) + 1 := by
    have ha : a = 2 ^ 1 * (a / 2) ||| a % 2 := by rw [← h2]; omega
    rw [h]
    conv_lhs => rw [ha, Nat.or_assoc, hm]
  omega

/-- Setting one bit. -/
theorem setBits_bit (v n : Nat) : setBits v n n 1 = v ||| 2 ^ n := by
  have hr : v % 2 ^ n < 2 ^ n := Nat.mod_lt _ (by positivity)
  have hor : v ||| 2 ^ n = 2 ^ n * (v / 2 ^ n ||| 2 ^ 0) + v % 2 ^ n := by
    refine Nat.eq_of_testBit_eq fun j => ?_
    rw [Nat.testBit_or, Nat.testBit_two_pow_mul_add _ hr, Nat.testBit_two_pow]
    conv_lhs => rw [← Nat.div_add_mod v (2 ^ n), Nat.testBit_two_pow_mul_add _ hr]
    split
    · simp [show ¬ n = j by omega]
    · rw [Nat.testBit_or, Nat.testBit_two_pow]
      congr 1
      simp only [decide_eq_decide]
      omega
  have hv := Nat.div_add_mod v (2 ^ n)
  have hb : v / 2 ^ n % 2 ≤ v / 2 ^ n := Nat.mod_le _ _
  obtain ⟨a, ha⟩ := Nat.exists_eq_add_of_le hb
  have h1 : n + 1 - n = 1 := by omega
  rw [hor, pow_zero, or_one_eq, setBits, bits, h1, pow_one]
  have ha' : v / 2 ^ n - v / 2 ^ n % 2 = a := by omega
  rw [ha', mul_add, mul_one]
  rw [ha, mul_add] at hv
  have hc := mul_comm (2 ^ n) (v / 2 ^ n % 2)
  omega

/-- A CODE OF ONE FORMAT TO ANOTHER is what the rules say (R75, R79, R80, R87). -/
theorem roundFmt_dec {src dst : Fmt} (hs : src.Sound) (hd : dst.Sound) (rm : Nat) (sat : Bool) (x : Nat) :
    roundFmt dst rm sat (src.dec x) = convF src dst rm sat x := by
  unfold convF
  cases hn : fNan src x
  · cases hi : fInf src x
    · rw [hs.dec_fin hn hi, hd.roundFmt_fin, ← fVal_eq_finVal]
      rfl
    · rw [hs.dec_inf hi]
      simp only [roundFmt, infTo, fZero_eq_sign, Bool.false_eq_true, if_false, if_true]
  · rw [hs.dec_nan hn]
    cases hk : dst.kind <;> simp only [roundFmt, nanTo, setBits_bit, fZero_eq_sign, hk, if_true]

theorem toA48_eq {f : Fmt} (hf : f.Sound) (x : Nat) : toA48 f x = toAcc f x := congrArg Prod.fst (roundFmt_dec hf a48_sound 0 false x)

theorem a48To_eq {f : Fmt} (hf : f.Sound) (sat : Bool) (x : Nat) : a48To f sat x = fromAcc f sat x := congrArg Prod.fst (roundFmt_dec a48_sound hf 0 sat x)

end Sys2Proof.Machine
end

section
namespace Sys2Proof.Machine
open Sys2Proof Sys2Proof.Claims

set_option Elab.async false

/-! ## Operands of arithmetic (R78, R79) -/

/-- The formats that arithmetic works in: those with infinities, NaN payloads and a quiet bit. -/
structure Fmt.Arith (f : Fmt) : Prop extends f.Sound where
  ieee : f.kind = .ieee
  fb_ne_two : f.fb ≠ 2

theorem f32_arith : f32.Arith := ⟨f32_sound, rfl, by decide⟩
theorem a48_arith : a48.Arith := ⟨a48_sound, rfl, by decide⟩

theorem fFrac_lt (f : Fmt) (x : Nat) : fFrac f x < 2 ^ f.fb := Nat.mod_lt _ (by positivity)
theorem fExp_lt (f : Fmt) (x : Nat) : fExp f x < 2 ^ f.eb := Nat.mod_lt _ (by positivity)

/-- A code without its sign. -/
theorem magnitude_eq (f : Fmt) (x : Nat) : x % 2 ^ (f.eb + f.fb) = fExp f x * 2 ^ f.fb + fFrac f x := by
  rw [add_comm f.eb, pow_add, Nat.mod_mul, fExp, fFrac]
  ring

/-- A code of the format's width is made of its three fields. -/
theorem code_eq_fields {f : Fmt} {x : Nat} (hx : x < 2 ^ f.width) : x = f.sign (fSign f x) + (fExp f x * 2 ^ f.fb + fFrac f x) := by
  have hq : x / 2 ^ (f.eb + f.fb) < 2 := by
    refine Nat.div_lt_of_lt_mul ?_
    rwa [← pow_succ, show f.eb + f.fb + 1 = f.width by unfold Fmt.width; omega]
  have hs : b2n (fSign f x) = x / 2 ^ (f.eb + f.fb) := by
    unfold fSign
    interval_cases x / 2 ^ (f.eb + f.fb) <;> rfl
  rw [← magnitude_eq, Fmt.sign, hs, mul_comm]
  exact (Nat.div_add_mod x _).symm

section
variable {f : Fmt} {x : Nat}

theorem Fmt.Arith.fNan_iff (hf : f.Arith) : fNan f x = true ↔ fExp f x = 2 ^ f.eb - 1 ∧ fFrac f x ≠ 0 := by
  unfold fNan
  simp [hf.ieee]

theorem Fmt.Arith.fInf_iff (hf : f.Arith) : fInf f x = true ↔ fExp f x = 2 ^ f.eb - 1 ∧ fFrac f x = 0 := by
  unfold fInf
  simp [hf.ieee]

theorem Fmt.Arith.code_of_inf (hf : f.Arith) (hx : x < 2 ^ f.width) (hi : fInf f x = true) : f.sign (fSign f x) + f.infCode = x := by
  obtain ⟨he, hr⟩ := hf.fInf_iff.1 hi
  conv_rhs => rw [code_eq_fields hx, he, hr, add_zero]
  rfl

/-- A NaN is quieted by setting its top fraction bit (R79). -/
theorem Fmt.Arith.quiet_eq (hf : f.Arith) (hx : x < 2 ^ f.width) (hn : fNan f x = true) (sig : Bool) :
    nanTo f (fSign f x) sig (fFrac f x) f.fb = (x ||| 2 ^ (f.fb - 1), if sig then fNV else 0) := by
  obtain ⟨he, -⟩ := hf.fNan_iff.1 hn
  have hfr := fFrac_lt f x
  have hq : fFrac f x ||| 2 ^ (f.fb - 1) < 2 ^ f.fb := Nat.or_lt_two_pow hfr (Nat.pow_lt_pow_right one_lt_two (by have := hf.fb_pos; omega))
  have hcode : x = 2 ^ f.fb * (b2n (fSign f x) * 2 ^ f.eb + (2 ^ f.eb - 1)) + fFrac f x := by
    conv_lhs => rw [code_eq_fields hx, he, Fmt.sign, pow_add]
    ring
  have hor : x ||| 2 ^ (f.fb - 1) = f.sign (fSign f x) + f.infCode + (fFrac f x ||| 2 ^ (f.fb - 1)) := by
    conv_lhs => rw [hcode, Nat.two_pow_add_eq_or_of_lt hfr, Nat.or_assoc, ← Nat.two_pow_add_eq_or_of_lt hq]
    rw [Fmt.sign, Fmt.infCode, pow_add]
    ring
  unfold nanTo
  simp only [hf.ieee, if_neg hf.fb_ne_two, le_refl, if_true, Nat.sub_self, pow_zero, mul_one, setBits_bit, hor]

theorem Fmt.Arith.pickNan_eq (hf : f.Arith) {xs : List Nat} (hx : ∀ x ∈ xs, x < 2 ^ f.width) : pickNan f (xs.map f.dec) = nanOf f xs := by
  have hnan : Fv.isNan ∘ f.dec = fNan f := funext hf.dec_isNan
  have hsig : Fv.isSig ∘ f.dec = fSnan f := funext hf.dec_isSig
  unfold pickNan nanOf
  rw [List.find?_map, List.any_map, hnan, hsig]
  cases hfd : xs.find? (fNan f) with
  | none => rfl
  | some x =>
    have hn : fNan f x = true := List.find?_some hfd
    simp only [Option.map_some, hf.dec_nan hn, hf.quiet_eq (hx x (List.mem_of_find?_eq_some hfd)) hn]

end

/-! ### Values -/

/-- A finite value that stands for x; a zero has the sign z. -/
def Fv.IsNum (v : Fv) (x : ℚ) (z : Bool) : Prop := ∃ s m e, v = .fin s m e ∧ finVal s m e = x ∧ (m = 0 → s = z)

theorem roundNum_sign_irrel {f : Fmt} {rm : Nat} {sat : Bool} {x : ℚ} (hx : x ≠ 0) (y z : Bool) : roundNum f rm sat x y = roundNum f rm sat x z := by
  unfold roundNum
  simp only [if_neg hx]

theorem Fmt.Sound.roundFmt_isNum {f : Fmt} (hf : f.Sound) (rm : Nat) (sat : Bool) {v : Fv} {x : ℚ} {z : Bool} (h : v.IsNum x z) :
    roundFmt f rm sat v = roundNum f rm sat x z := by
  obtain ⟨s, m, e, rfl, rfl, hz⟩ := h
  rw [hf.roundFmt_fin]
  by_cases hm : m = 0
  · rw [hz hm]
  · exact roundNum_sign_irrel (mt (finVal_eq_zero s m e).1 hm) _ _

theorem Fmt.Sound.dec_isNum {f : Fmt} (hf : f.Sound) {x : Nat} (hn : fNan f x = false) (hi : fInf f x = false) : (f.dec x).IsNum (fVal f x) (fSign f x) :=
  ⟨_, _, _, hf.dec_fin hn hi, (fVal_eq_finVal f x).symm, fun _ => rfl⟩

/-- A signed integer times a power of two. -/
theorem mkFin_isNum (z : Bool) (v e : Int) : (mkFin z v e).IsNum (v * 2 ^ e) z := by
  unfold mkFin
  by_cases hv : v = 0
  · rw [if_pos hv]
    exact ⟨z, 0, 0, rfl, by simp [finVal, hv], fun _ => rfl⟩
  · rw [if_neg hv]
    refine ⟨_, _, _, rfl, ?_, fun h => absurd (Int.natAbs_eq_zero.1 h) hv⟩
    have hs : sgnFac (decide (v < 0)) * (v.natAbs : ℚ) = v := by
      rw [Nat.cast_natAbs]
      by_cases h : v < 0
      · simp [sgnFac, h, abs_of_neg h]
      · simp [sgnFac, h, abs_of_nonneg (not_lt.1 h)]
    rw [finVal, ← mul_assoc, hs]

/-- Two finite values over the smaller of their exponents. -/
theorem finVal_over_min (s : Bool) (m : Nat) {e k : Int} (h : k ≤ e) :
    finVal s m e = ((if s then -((m * 2 ^ (e - k).toNat : Nat) : ℤ) else ((m * 2 ^ (e - k).toNat : Nat) : ℤ) : ℤ) : ℚ) * 2 ^ k := by
  obtain ⟨n, rfl⟩ := Int.le.dest h
  rw [finVal, sgnFac, show (k + (n : ℤ) - k).toNat = n by omega, zpow_add₀ two_ne_zero, zpow_natCast]
  cases s <;> simp only [Bool.false_eq_true, if_false, if_true] <;> push_cast <;> ring

theorem addFin_isNum (rm : Nat) (s1 : Bool) (m1 : Nat) (e1 : Int) (s2 : Bool) (m2 : Nat) (e2 : Int) :
    (addFin rm s1 m1 e1 s2 m2 e2).IsNum (finVal s1 m1 e1 + finVal s2 m2 e2) (zSum rm s1 s2) := by
  unfold addFin
  by_cases h1 : m1 = 0
  · by_cases h2 : m2 = 0
    · rw [if_pos ⟨h1, h2⟩]
      exact ⟨_, _, _, rfl, by simp [finVal, h1, h2], fun _ => rfl⟩
    · rw [if_neg (fun h => h2 h.2), if_pos h1]
      exact ⟨_, _, _, rfl, by simp [finVal, h1], fun h => absurd h h2⟩
  · by_cases h2 : m2 = 0
    · rw [if_neg (fun h => h1 h.1), if_neg h1, if_pos h2]
      exact ⟨_, _, _, rfl, by simp [finVal, h2], fun h => absurd h h1⟩
    · rw [if_neg (fun h => h1 h.1), if_neg h1, if_neg h2, finVal_over_min s1 m1 (min_le_left e1 e2), finVal_over_min s2 m2 (min_le_right e1 e2), ← add_mul,
        ← Int.cast_add]
      have hp1 : 0 < m1 * 2 ^ (e1 - min e1 e2).toNat := by positivity
      have hp2 : 0 < m2 * 2 ^ (e2 - min e1 e2).toNat := by positivity
      dsimp only
      generalize m1 * 2 ^ (e1 - min e1 e2).toNat = n1 at hp1 ⊢
      generalize m2 * 2 ^ (e2 - min e1 e2).toNat = n2 at hp2 ⊢
      obtain ⟨s, m, e, hv, hval, hz⟩ := mkFin_isNum (rm == 3) ((if s1 then -(n1 : ℤ) else n1) + (if s2 then -(n2 : ℤ) else n2)) (min e1 e2)
      refine ⟨s, m, e, hv, hval, fun hm => (hz hm).trans ?_⟩
      -- a sum of two numbers is zero only when their signs differ
      have hne : s1 ≠ s2 := by
        rintro rfl
        rw [(finVal_eq_zero s m e).2 hm, eq_comm, mul_eq_zero, or_iff_left (by positivity), Int.cast_eq_zero] at hval
        cases s1 <;> simp only [Bool.false_eq_true, if_false, if_true] at hval <;> omega
      rw [zSum, if_neg hne]

theorem mulFin_isNum (s1 : Bool) (m1 : Nat) (e1 : Int) (s2 : Bool) (m2 : Nat) (e2 : Int) :
    (Fv.fin (s1 != s2) (m1 * m2) (e1 + e2)).IsNum (finVal s1 m1 e1 * finVal s2 m2 e2) (s1 != s2) := by
  refine ⟨_, _, _, rfl, ?_, fun _ => rfl⟩
  rw [finVal, finVal, finVal, zpow_add₀ two_ne_zero]
  cases s1 <;> cases s2 <;> simp [sgnFac] <;> ring

/-! ### FADD and FMUL (R248) -/

theorem nanOf_pair_none {f : Fmt} {a b : Nat} : nanOf f [a, b] = none ↔ fNan f a = false ∧ fNan f b = false := by
  unfold nanOf
  cases ha : fNan f a <;> cases hb : fNan f b <;> simp [List.find?, ha, hb]

theorem Fmt.Arith.infTo_eq {f : Fmt} (hf : f.Arith) (s : Bool) : infTo f s false = (f.sign s + f.infCode, 0) := by
  unfold infTo
  simp [hf.ieee]

theorem Fmt.Arith.fpAdd_eq {f : Fmt} (hf : f.Arith) (rm : Nat) {a b : Nat} (ha : a < 2 ^ f.width) (hb : b < 2 ^ f.width) : fpAdd f rm a b = addF f rm a b := by
  have hp := hf.pickNan_eq (xs := [a, b]) (by simp [ha, hb])
  simp only [List.map_cons, List.map_nil] at hp
  unfold fpAdd addF
  dsimp only
  rw [hp]
  cases hno : nanOf f [a, b] with
  | some r => rfl
  | none =>
    obtain ⟨hna, hnb⟩ := nanOf_pair_none.1 hno
    dsimp only
    cases hia : fInf f a <;> cases hib : fInf f b
    · rw [hf.dec_fin hna hia, hf.dec_fin hnb hib]
      have h := hf.roundFmt_isNum rm false (addFin_isNum rm (fSign f a) (fMant f a) (fScale f a) (fSign f b) (fMant f b) (fScale f b))
      rw [← fVal_eq_finVal, ← fVal_eq_finVal] at h
      exact h
    · rw [hf.dec_fin hna hia, hf.dec_inf hib]
      exact (hf.infTo_eq _).trans (by rw [hf.code_of_inf hb hib]; rfl)
    · rw [hf.dec_inf hia, hf.dec_fin hnb hib]
      exact (hf.infTo_eq _).trans (by rw [hf.code_of_inf ha hia]; simp)
    · rw [hf.dec_inf hia, hf.dec_inf hib]
      by_cases hs : fSign f a = fSign f b
      · simp only [addVal, if_pos hs]
        exact (hf.infTo_eq _).trans (by rw [hf.code_of_inf ha hia]; simp [hs])
      · simp only [addVal, if_neg hs]
        simp [hs, invalid, bad]

theorem fVal_eq_zero_iff (f : Fmt) (x : Nat) : fVal f x = 0 ↔ fMant f x = 0 := by rw [fVal_eq_finVal, finVal_eq_zero]

theorem Fmt.Arith.fpMul_eq {f : Fmt} (hf : f.Arith) (rm : Nat) {a b : Nat} (ha : a < 2 ^ f.width) (hb : b < 2 ^ f.width) : fpMul f rm a b = mulF f rm a b := by
  have hp := hf.pickNan_eq (xs := [a, b]) (by simp [ha, hb])
  simp only [List.map_cons, List.map_nil] at hp
  unfold fpMul mulF
  dsimp only
  rw [hp]
  cases hno : nanOf f [a, b] with
  | some r => rfl
  | none =>
    obtain ⟨hna, hnb⟩ := nanOf_pair_none.1 hno
    dsimp only
    cases hia : fInf f a <;> cases hib : fInf f b
    · rw [hf.dec_fin hna hia, hf.dec_fin hnb hib]
      have h := hf.roundFmt_isNum rm false (mulFin_isNum (fSign f a) (fMant f a) (fScale f a) (fSign f b) (fMant f b) (fScale f b))
      rw [← fVal_eq_finVal, ← fVal_eq_finVal] at h
      simp only [mulVal, badMul, hna, hnb, hia, hib]
      exact h
    · rw [hf.dec_fin hna hia, hf.dec_inf hib]
      by_cases h0 : fMant f a = 0
      · simp [mulVal, badMul, hna, hnb, hia, hib, fVal_eq_zero_iff, h0, invalid, bad]
      · simp only [mulVal, if_neg h0]
        refine (hf.infTo_eq _).trans ?_
        simp [badMul, hna, hnb, hia, hib, fVal_eq_zero_iff, h0, fZero_eq_sign]
    · rw [hf.dec_inf hia, hf.dec_fin hnb hib]
      by_cases h0 : fMant f b = 0
      · simp [mulVal, badMul, hna, hnb, hia, hib, fVal_eq_zero_iff, h0, invalid, bad]
      · simp only [mulVal, if_neg h0]
        refine (hf.infTo_eq _).trans ?_
        simp [badMul, hna, hnb, hia, hib, fVal_eq_zero_iff, h0, fZero_eq_sign]
    · rw [hf.dec_inf hia, hf.dec_inf hib]
      refine (hf.infTo_eq _).trans ?_
      simp [badMul, hna, hnb, hia, hib, fZero_eq_sign]

end Sys2Proof.Machine
end

section
namespace Sys2Proof.Machine
open Sys2Proof Sys2Proof.Claims

set_option Elab.async false

/-! ## Results fit their format -/

section
variable {f : Fmt}

/-- A value whose NaN payload fits its own format, as every decoded one does. -/
def Fv.Fits : Fv → Prop
  | .nan _ _ fr fb => fr < 2 ^ fb
  | _ => True

theorem Fmt.Sound.dec_fits (hf : f.Sound) (x : Nat) : (f.dec x).Fits := by
  rw [hf.dec_eq]
  split
  · exact fFrac_lt f x
  · split <;> trivial

theorem Fmt.Sound.two_lt_pow_eb (hf : f.Sound) : 2 < 2 ^ f.eb := lt_of_lt_of_le (by decide) (Nat.pow_le_pow_right (by decide) hf.eb_two : 2 ^ 2 ≤ _)

/-- A sign and less than all ones of exponent and fraction. -/
theorem sign_add_lt {s : Bool} {n : Nat} (hn : n < 2 ^ (f.eb + f.fb)) : f.sign s + n < 2 ^ f.width := by
  have hw : 2 ^ f.width = 2 ^ (f.eb + f.fb) + 2 ^ (f.eb + f.fb) := by
    rw [Fmt.width, show 1 + f.eb + f.fb = f.eb + f.fb + 1 by omega, pow_succ]
    ring
  cases s <;> simp [Fmt.sign, b2n] <;> omega

theorem infCode_add_lt {r : Nat} (hr : r < 2 ^ f.fb) : f.infCode + r < 2 ^ (f.eb + f.fb) := by
  have h1 := Nat.one_le_two_pow (n := f.eb)
  obtain ⟨k, hk⟩ := Nat.exists_eq_add_of_le h1
  rw [pow_add, Fmt.infCode, hk, Nat.add_sub_cancel_left, add_mul, one_mul]
  omega

theorem Fmt.Arith.nanTo_lt (hf : f.Arith) (s sig : Bool) {fr fb : Nat} (h : fr < 2 ^ fb) : (nanTo f s sig fr fb).1 < 2 ^ f.width := by
  have hq : ∀ r, r < 2 ^ f.fb → setBits r (f.fb - 1) (f.fb - 1) 1 < 2 ^ f.fb := by
    intro r hr
    rw [setBits_bit]
    exact Nat.or_lt_two_pow hr (Nat.pow_lt_pow_right one_lt_two (by have := hf.fb_pos; omega))
  unfold nanTo
  simp only [hf.ieee, if_neg hf.fb_ne_two]
  rw [add_assoc]
  refine sign_add_lt (infCode_add_lt (hq _ ?_))
  split
  · rename_i hle
    calc fr * 2 ^ (f.fb - fb) < 2 ^ fb * 2 ^ (f.fb - fb) := by gcongr
      _ = 2 ^ f.fb := by rw [← pow_add]; congr 1; omega
  · rename_i hle
    refine Nat.div_lt_of_lt_mul ?_
    rwa [← pow_add, show fb - f.fb + f.fb = fb by omega]

theorem infCode_lt : f.infCode < 2 ^ (f.eb + f.fb) := infCode_add_lt (r := 0) (by positivity)

/-- A rounded number has its sign, and no more than infinity's exponent and fraction. -/
theorem Fmt.Arith.roundFmt_fin_le (hf : f.Arith) (rm : Nat) (sat s : Bool) (m : Nat) (e : Int) :
    ∃ n ≤ f.infCode, (roundFmt f rm sat (.fin s m e)).1 = f.sign s + n := by
  have h1 := Nat.one_le_two_pow (n := f.fb)
  have h2 := hf.two_lt_pow_eb
  have hb := hf.bias_eq
  have hinf : f.infCode + 2 ^ f.fb = 2 ^ f.eb * 2 ^ f.fb := by
    rw [Fmt.infCode, ← Nat.succ_mul, Nat.succ_eq_add_one, Nat.sub_add_cancel (by omega)]
  by_cases hm : m = 0
  · subst hm
    exact ⟨0, Nat.zero_le _, rfl⟩
  · obtain ⟨hq, hE, -, -⟩ := roundPrec_spec f rm s hm e
    rw [roundFmt_eq f rm sat s hm]
    generalize roundPrec f rm s m e = r at hq hE
    obtain ⟨q, E, nx⟩ := r
    dsimp only at hq hE ⊢
    split
    · unfold overflowTo Fmt.maxCode
      simp only [hf.ieee]
      refine ⟨_, ?_, rfl⟩
      split <;> omega
    · rename_i ho
      split
      · rename_i hs
        have hle := roundAt_small (f := f) rm s hm (show (Nat.log2 m : ℤ) + e < 1 - f.bias by omega)
        refine ⟨_, hle.trans ?_, rfl⟩
        have : 2 * 2 ^ f.fb ≤ 2 ^ f.eb * 2 ^ f.fb := by gcongr
        omega
      · rename_i hs
        have hemax : E ≤ (2 ^ f.eb - 2 : Nat) - f.bias := by
          have : E ≤ f.emax := not_lt.1 fun h => ho (.inl h)
          simpa [Fmt.emax, hf.ieee] using this
        obtain ⟨n, hn⟩ : ∃ n : Nat, (E + f.bias).toNat = n := ⟨_, rfl⟩
        have hn2 : n + 2 ≤ 2 ^ f.eb := by omega
        rw [hn, add_assoc]
        refine ⟨_, ?_, rfl⟩
        have : (n + 2) * 2 ^ f.fb ≤ 2 ^ f.eb * 2 ^ f.fb := by gcongr
        rw [add_mul] at this
        rw [pow_succ] at hq
        omega

theorem Fmt.Arith.roundFmt_fin_lt (hf : f.Arith) (rm : Nat) (sat s : Bool) (m : Nat) (e : Int) : (roundFmt f rm sat (.fin s m e)).1 < 2 ^ f.width := by
  obtain ⟨n, hn, h⟩ := hf.roundFmt_fin_le rm sat s m e
  rw [h]
  exact sign_add_lt (hn.trans_lt infCode_lt)

/-- A rounded number is no NaN. -/
theorem Fmt.Arith.roundFmt_fin_notNan (hf : f.Arith) (rm : Nat) (sat s : Bool) (m : Nat) (e : Int) : fNan f (roundFmt f rm sat (.fin s m e)).1 = false := by
  obtain ⟨n, hn, h⟩ := hf.roundFmt_fin_le rm sat s m e
  have hlt : n < 2 ^ f.fb * 2 ^ f.eb := by
    rw [← pow_add, Nat.add_comm]
    exact hn.trans_lt infCode_lt
  have hdiv := Nat.div_add_mod' n (2 ^ f.fb)
  obtain ⟨-, he, hr⟩ := fields_of_code f s (Nat.div_lt_of_lt_mul hlt) (Nat.mod_lt n (by positivity : 0 < 2 ^ f.fb))
  rw [hdiv] at he hr
  rw [h, Bool.eq_false_iff, Ne, hf.fNan_iff, he, hr]
  rintro ⟨h1, h2⟩
  rw [h1] at hdiv
  unfold Fmt.infCode at hn
  omega

theorem Fmt.Arith.roundFmt_lt (hf : f.Arith) (rm : Nat) (sat : Bool) {v : Fv} (hv : v.Fits) : (roundFmt f rm sat v).1 < 2 ^ f.width := by
  cases v with
  | nan s sig fr fb => exact hf.nanTo_lt s sig hv
  | inf s =>
    have hinf := infCode_lt (f := f)
    show (infTo f s sat).1 < _
    unfold infTo Fmt.maxCode
    simp only [hf.ieee]
    refine sign_add_lt ?_
    split <;> omega
  | fin s m e => exact hf.roundFmt_fin_lt rm sat s m e

theorem Fmt.Arith.canon_lt (hf : f.Arith) : f.canon < 2 ^ f.width := by
  have h := sign_add_lt (s := false) (infCode_add_lt (f := f) (r := 2 ^ (f.fb - 1)) (Nat.pow_lt_pow_right one_lt_two (by have := hf.fb_pos; omega)))
  unfold Fmt.canon
  simpa [hf.ieee, Fmt.sign, b2n] using h

theorem Fmt.Arith.pickNan_lt (hf : f.Arith) {xs : List Fv} (hx : ∀ v ∈ xs, v.Fits) {r : Nat × Nat} (h : pickNan f xs = some r) : r.1 < 2 ^ f.width := by
  unfold pickNan at h
  split at h
  · rename_i s sig fr fb hfd
    obtain rfl := Option.some.inj h
    exact hf.nanTo_lt s false (hx _ (List.mem_of_find?_eq_some hfd))
  · cases h

theorem Fv.IsNum.fits {v : Fv} {x : ℚ} {z : Bool} (h : v.IsNum x z) : v.Fits := by
  obtain ⟨s, m, e, rfl, -⟩ := h
  trivial

theorem addVal_fits (rm : Nat) {x y v : Fv} (h : addVal rm x y = some v) : v.Fits := by
  cases x <;> cases y <;> simp only [addVal, reduceCtorEq, Option.some.injEq] at h
  case inf.inf s t =>
    split at h
    · obtain rfl := Option.some.inj h
      trivial
    · cases h
  case fin.fin => exact h ▸ (addFin_isNum rm _ _ _ _ _ _).fits
  all_goals exact h ▸ trivial

theorem mulVal_fits {x y v : Fv} (h : mulVal x y = some v) : v.Fits := by
  cases x <;> cases y <;> simp only [mulVal, reduceCtorEq, Option.some.injEq] at h
  case inf.inf => exact h ▸ trivial
  case fin.fin => exact h ▸ trivial
  all_goals
    split at h
    · cases h
    · obtain rfl := Option.some.inj h
      trivial

theorem Fmt.Arith.fpAdd_lt (hf : f.Arith) (rm a b : Nat) : (fpAdd f rm a b).1 < 2 ^ f.width := by
  unfold fpAdd
  dsimp only
  split
  · rename_i h
    exact hf.pickNan_lt (by simp [hf.dec_fits]) h
  · split
    · rename_i h
      exact hf.roundFmt_lt rm false (addVal_fits rm h)
    · exact hf.canon_lt

theorem Fmt.Arith.fpMul_lt (hf : f.Arith) (rm a b : Nat) : (fpMul f rm a b).1 < 2 ^ f.width := by
  unfold fpMul
  dsimp only
  split
  · rename_i h
    exact hf.pickNan_lt (by simp [hf.dec_fits]) h
  · split
    · rename_i h
      exact hf.roundFmt_lt rm false (mulVal_fits h)
    · exact hf.canon_lt

end

theorem toA48_lt {f : Fmt} (hf : f.Sound) (x : Nat) : toA48 f x < 2 ^ 48 := a48_arith.roundFmt_lt 0 false (hf.dec_fits x)

/-! ## Order (R249) -/

/-- A biased exponent, 1 for the numbers without a leading bit. -/
def fStep (f : Fmt) (x : Nat) : Nat := max 1 (fExp f x)

theorem fMant_bounds (f : Fmt) (x : Nat) : fMant f x < 2 ^ (f.fb + 1) ∧ (1 < fStep f x → 2 ^ f.fb ≤ fMant f x) := by
  have h := fFrac_lt f x
  unfold fMant fStep
  rw [pow_succ]
  split <;> omega

theorem fScale_eq (f : Fmt) (x : Nat) : fScale f x = fStep f x - f.bias - f.fb := by
  unfold fScale fStep
  split <;> push_cast <;> omega

/-- The code without its sign counts the numbers in their order. -/
theorem magnitude_eq_mant (f : Fmt) (x : Nat) : x % 2 ^ (f.eb + f.fb) = fMant f x + (fStep f x - 1) * 2 ^ f.fb := by
  rw [magnitude_eq, fMant, fStep]
  split
  · rename_i h
    simp [h]
  · rename_i h
    obtain ⟨n, hn⟩ := Nat.exists_eq_succ_of_ne_zero h
    rw [hn, Nat.max_eq_right (by omega), Nat.succ_sub_one, Nat.succ_mul]
    omega

theorem abs_lt_of_step_lt {f : Fmt} {a b : Nat} (h : fStep f a < fStep f b) :
    (fMant f a : ℚ) * 2 ^ fScale f a < fMant f b * 2 ^ fScale f b ∧ a % 2 ^ (f.eb + f.fb) < b % 2 ^ (f.eb + f.fb) := by
  obtain ⟨ha, -⟩ := fMant_bounds f a
  obtain ⟨-, hb⟩ := fMant_bounds f b
  have hb := hb (by unfold fStep at *; omega)
  have h1 : 1 ≤ fStep f a := Nat.le_max_left ..
  constructor
  · have ha' : (fMant f a : ℚ) < 2 ^ (f.fb + 1) := by exact_mod_cast ha
    have hb' : (2 : ℚ) ^ f.fb ≤ fMant f b := by exact_mod_cast hb
    have hs : fScale f a + 1 ≤ fScale f b := by
      rw [fScale_eq, fScale_eq]
      omega
    calc (fMant f a : ℚ) * 2 ^ fScale f a < 2 ^ (f.fb + 1) * 2 ^ fScale f a := by gcongr
      _ = 2 ^ f.fb * 2 ^ (fScale f a + 1) := by rw [zpow_add₀ two_ne_zero, pow_succ]; ring
      _ ≤ fMant f b * 2 ^ fScale f b := by gcongr; norm_num
  · rw [magnitude_eq_mant, magnitude_eq_mant]
    obtain ⟨k, hk⟩ := Nat.exists_eq_add_of_lt h
    obtain ⟨n, hn⟩ := Nat.exists_eq_add_of_le h1
    rw [hk, hn]
    calc fMant f a + (1 + n - 1) * 2 ^ f.fb < 2 ^ (f.fb + 1) + (1 + n - 1) * 2 ^ f.fb := by gcongr
      _ = 2 ^ f.fb + (1 + n) * 2 ^ f.fb := by rw [pow_succ, Nat.add_sub_cancel_left]; ring
      _ ≤ fMant f b + (1 + n + k + 1 - 1) * 2 ^ f.fb := by
        gcongr
        omega

theorem abs_lt_iff_code_lt (f : Fmt) (a b : Nat) :
    (fMant f a : ℚ) * 2 ^ fScale f a < fMant f b * 2 ^ fScale f b ↔ a % 2 ^ (f.eb + f.fb) < b % 2 ^ (f.eb + f.fb) := by
  rcases lt_trichotomy (fStep f a) (fStep f b) with h | h | h
  · exact iff_of_true (abs_lt_of_step_lt h).1 (abs_lt_of_step_lt h).2
  · rw [magnitude_eq_mant, magnitude_eq_mant, fScale_eq, fScale_eq, h, mul_lt_mul_iff_left₀ (by positivity), Nat.add_lt_add_iff_right, Nat.cast_lt]
  · exact iff_of_false (abs_lt_of_step_lt h).1.not_gt (abs_lt_of_step_lt h).2.not_gt

/-- Comparing two finite values over the smaller exponent. -/
theorem fvLt_fin {s1 s2 : Bool} {m1 m2 : Nat} {e1 e2 : Int} (h : ¬ (m1 = 0 ∧ m2 = 0)) :
    fvLt (.fin s1 m1 e1) (.fin s2 m2 e2) = decide (finVal s1 m1 e1 < finVal s2 m2 e2) := by
  rw [finVal_over_min s1 m1 (min_le_left e1 e2), finVal_over_min s2 m2 (min_le_right e1 e2)]
  simp only [fvLt, if_neg h, mul_lt_mul_iff_left₀ (show (0 : ℚ) < 2 ^ min e1 e2 by positivity), Int.cast_lt]

theorem fMant_eq_zero_iff (f : Fmt) (x : Nat) : fMant f x = 0 ↔ x % 2 ^ (f.eb + f.fb) = 0 := by
  rw [magnitude_eq, fMant]
  have h1 := Nat.one_le_two_pow (n := f.fb)
  by_cases h : fExp f x = 0
  · simp [h]
  · simp [h]

/-- Order of values as order of codes: −0 below +0, infinities outermost. -/
theorem Fmt.Arith.fvLt_dec {f : Fmt} (hf : f.Arith) {a b : Nat} (ha : fNan f a = false) (hb : fNan f b = false) :
    fvLt (f.dec a) (f.dec b) = decide (fRank f a < fRank f b) := by
  have hmag : ∀ {x : Nat}, fNan f x = false → fInf f x = false → x % 2 ^ (f.eb + f.fb) < f.infCode := by
    intro x hn hi
    have he : fExp f x + 1 < 2 ^ f.eb := by
      have h1 := fExp_lt f x
      have h2 : fExp f x ≠ 2 ^ f.eb - 1 := by
        intro he
        by_cases hr : fFrac f x = 0
        · exact absurd (hf.fInf_iff.2 ⟨he, hr⟩) (by simp [hi])
        · exact absurd (hf.fNan_iff.2 ⟨he, hr⟩) (by simp [hn])
      omega
    have hr := fFrac_lt f x
    rw [magnitude_eq, Fmt.infCode]
    calc fExp f x * 2 ^ f.fb + fFrac f x < fExp f x * 2 ^ f.fb + 2 ^ f.fb := by omega
      _ = (fExp f x + 1) * 2 ^ f.fb := by ring
      _ ≤ (2 ^ f.eb - 1) * 2 ^ f.fb := by
        gcongr
        omega
  have hmagInf : ∀ {x : Nat}, fInf f x = true → x % 2 ^ (f.eb + f.fb) = f.infCode := by
    intro x hi
    obtain ⟨he, hr⟩ := hf.fInf_iff.1 hi
    rw [magnitude_eq, he, hr]
    rfl
  unfold fRank
  cases hia : fInf f a <;> cases hib : fInf f b
  · rw [hf.dec_fin ha hia, hf.dec_fin hb hib]
    have hlt := abs_lt_iff_code_lt f a b
    have hgt := abs_lt_iff_code_lt f b a
    have hza := fMant_eq_zero_iff f a
    have hzb := fMant_eq_zero_iff f b
    by_cases h0 : fMant f a = 0 ∧ fMant f b = 0
    · simp only [fvLt, if_pos h0, hza.1 h0.1, hzb.1 h0.2]
      cases fSign f a <;> cases fSign f b <;> rfl
    · rw [fvLt_fin h0, decide_eq_decide]
      have hpa : (0 : ℚ) ≤ fMant f a * 2 ^ fScale f a := by positivity
      have hpb : (0 : ℚ) ≤ fMant f b * 2 ^ fScale f b := by positivity
      have hne : (0 : ℚ) < fMant f a * 2 ^ fScale f a ∨ (0 : ℚ) < fMant f b * 2 ^ fScale f b := by
        rcases not_and_or.1 h0 with h | h
        · exact .inl (by positivity)
        · exact .inr (by positivity)
      unfold finVal sgnFac
      cases fSign f a <;> cases fSign f b <;> simp only [Bool.false_eq_true, if_false, if_true, one_mul, neg_one_mul, neg_lt_neg_iff, hlt, hgt]
      · omega
      · exact iff_of_false (by intro h; rcases hne with g | g <;> linarith) (by omega)
      · exact iff_of_true (by rcases hne with g | g <;> linarith) (by omega)
      · omega
  · rw [hf.dec_fin ha hia, hf.dec_inf hib, hmagInf hib]
    have h := hmag ha hia
    generalize a % 2 ^ (f.eb + f.fb) = n at h ⊢
    cases fSign f a <;> cases fSign f b <;> simp [fvLt] <;> omega
  · rw [hf.dec_inf hia, hf.dec_fin hb hib, hmagInf hia]
    have h := hmag hb hib
    generalize b % 2 ^ (f.eb + f.fb) = n at h ⊢
    cases fSign f a <;> cases fSign f b <;> simp [fvLt] <;> omega
  · rw [hf.dec_inf hia, hf.dec_inf hib, hmagInf hia, hmagInf hib]
    cases fSign f a <;> cases fSign f b <;> simp [fvLt]
    omega

theorem nanOf_single {f : Fmt} {x : Nat} (h : fNan f x = true) : nanOf f [x] = some (x ||| 2 ^ (f.fb - 1), if fSnan f x then fNV else 0) := by
  unfold nanOf
  simp [List.find?, h]

theorem Fmt.Arith.fpMin_eq {f : Fmt} (hf : f.Arith) (mx : Bool) {a b : Nat} (ha : a < 2 ^ f.width) : fpMin f mx a b = minF mx f a b := by
  unfold fpMin minF
  simp only [hf.dec_isNan, hf.dec_isSig]
  cases hna : fNan f a <;> cases hnb : fNan f b
  · simp only [hf.fvLt_dec hna hnb, hf.fvLt_dec hnb hna, Bool.false_and, Bool.false_eq_true, if_false, false_and]
    cases mx
    · simp only [Bool.false_eq_true, if_false, decide_eq_true_eq, ← not_lt, ite_not]
    · simp only [if_true, decide_eq_true_eq, ← not_lt, ite_not]
  · simp
  · simp
  · have hp := hf.pickNan_eq (xs := [a]) (by simp [ha])
    simp only [List.map_cons, List.map_nil] at hp
    simp [hp, nanOf_single hna]

end Sys2Proof.Machine
end

section
namespace Sys2Proof.Machine
open Sys2Proof Sys2Proof.Claims

set_option Elab.async false

/-! ## Integers of a width -/

theorem sgn_eq_intOf {w : Nat} (hw : 0 < w) (v : Nat) : sgn w v = intOf w v := by
  obtain ⟨n, rfl⟩ := Nat.exists_eq_succ_of_ne_zero hw.ne'
  unfold sgn intOf
  rw [BitVec.toInt_eq_toNat_cond, BitVec.toNat_ofNat, Nat.succ_sub_one, Nat.succ_eq_add_one, pow_succ]
  have h : v % (2 ^ n * 2) < 2 ^ n ↔ 2 * (v % (2 ^ n * 2)) < 2 ^ n * 2 := by omega
  simp only [h]

theorem wrapTo_eq (w : Nat) (v : Int) : wrapTo w v = (BitVec.ofInt w v).toNat := (BitVec.toNat_ofInt v).symm

theorem clampI32_eq (v : Int) : clampI32 v = clamp32 v := by
  unfold clampI32 clamp32
  rw [wrapTo_eq]
  norm_num

/-! ## Rows (R277) -/

/-- What an exact sum of codes has come to: whether +∞ and −∞ have been met, and the sum of the numbers. -/
def SumIs (acc : Option Fv) (pos neg : Bool) (x : ℚ) : Prop :=
  match pos, neg with
  | true, true => acc = none
  | true, false => acc = some (.inf false)
  | false, true => acc = some (.inf true)
  | false, false => ∃ v z, acc = some v ∧ v.IsNum x z

/-- One addition of `sumVal`. -/
def sumStep (rm : Nat) (acc v : Option Fv) : Option Fv :=
  match acc, v with
  | some a, some b => addVal rm a b
  | _, _ => none

theorem sumVal_cons (rm : Nat) (x : Option Fv) (r : List (Option Fv)) : sumVal rm (x :: r) = r.foldl (sumStep rm) x := rfl

section
variable {f : Fmt} {x : Nat}

theorem Fmt.Arith.sumIs_dec (hf : f.Arith) (hn : fNan f x = false) :
    SumIs (some (f.dec x)) (fInf f x && !fSign f x) (fInf f x && fSign f x) (fVal f x) := by
  cases hi : fInf f x
  · exact ⟨_, _, rfl, hf.dec_isNum hn hi⟩
  · rw [hf.dec_inf hi]
    cases fSign f x <;> rfl

theorem Fmt.Arith.sumIs_step (hf : f.Arith) (rm : Nat) (hn : fNan f x = false) {acc : Option Fv} {pos neg : Bool} {y : ℚ} (h : SumIs acc pos neg y) :
    SumIs (sumStep rm acc (some (f.dec x))) (pos || (fInf f x && !fSign f x)) (neg || (fInf f x && fSign f x)) (y + fVal f x) := by
  cases hi : fInf f x
  · rw [hf.dec_fin hn hi]
    cases pos <;> cases neg
    · obtain ⟨v, z, rfl, s, m, e, rfl, rfl, -⟩ := h
      exact ⟨_, _, rfl, by rw [fVal_eq_finVal]; exact addFin_isNum ..⟩
    all_goals rw [show acc = _ from h]; rfl
  · rw [hf.dec_inf hi]
    cases pos <;> cases neg
    · obtain ⟨v, z, rfl, s, m, e, rfl, rfl, -⟩ := h
      cases fSign f x <;> rfl
    all_goals
      rw [show acc = _ from h]
      cases fSign f x <;> rfl

/-- THE EXACT SUM OF CODES that are no NaN (R277). -/
theorem Fmt.Arith.sumIs_list (hf : f.Arith) (rm : Nat) (vs : List Nat) (hv : ∀ x ∈ vs, fNan f x = false) {acc : Option Fv} {pos neg : Bool} {y : ℚ} (h : SumIs acc pos neg y) :
    SumIs ((vs.map (fun x => some (f.dec x))).foldl (sumStep rm) acc) (pos || vs.any (fun x => fInf f x && !fSign f x)) (neg || vs.any (fun x => fInf f x && fSign f x))
      (y + (vs.map (fVal f)).sum) := by
  induction vs generalizing acc pos neg y with
  | nil => simpa using h
  | cons x r ih =>
    have := ih (fun z hz => hv z (List.mem_cons_of_mem _ hz)) (hf.sumIs_step rm (hv x List.mem_cons_self) h)
    simpa [Bool.or_assoc, add_assoc] using this

end

theorem rowSum_int (vs : List Nat) : rowSum true vs = clamp32 ((vs.map (intOf 48)).sum) := by
  rw [← clampI32_eq, show intOf 48 = sgn 48 from funext fun v => (sgn_eq_intOf (by decide) v).symm]
  rfl

/-- The rounding of an exact sum (R277). -/
def roundSum : Option Fv → Nat
  | none => f32.canon
  | some (.fin _ 0 _) => 0
  | some v => (roundFmt f32 0 false v).1

theorem roundSum_isNum {v : Fv} {x : ℚ} {z : Bool} (h : v.IsNum x z) : roundSum (some v) = (roundNum f32 0 false x false).1 := by
  obtain ⟨s, m, e, rfl, rfl, -⟩ := h
  cases m with
  | zero => simp [roundSum, roundNum, finVal, fZero]
  | succ m =>
    show (roundFmt f32 0 false (.fin s (m + 1) e)).1 = _
    rw [f32_sound.roundFmt_fin, roundNum_sign_irrel (mt (finVal_eq_zero s (m + 1) e).1 (Nat.succ_ne_zero m))]

/-- The infinity that stands in a list of codes, when they have not both signs, has the sign of those that are there. -/
theorem roundSum_sumIs {vs : List Nat} {acc : Option Fv} {x : ℚ}
    (h : SumIs acc (vs.any (fun x => fInf a48 x && !fSign a48 x)) (vs.any (fun x => fInf a48 x && fSign a48 x)) x) :
    roundSum acc = if vs.any (fun x => fInf a48 x && fSign a48 x) && vs.any (fun x => fInf a48 x && !fSign a48 x) then f32.canon
      else match vs.find? (fInf a48) with
        | some y => fZero f32 (fSign a48 y) + f32.infCode
        | none => (roundNum f32 0 false x false).1 := by
  cases hf : vs.find? (fInf a48) with
  | none =>
    have hno : ∀ y ∈ vs, fInf a48 y = false := by simpa using hf
    have hp : vs.any (fun x => fInf a48 x && !fSign a48 x) = false := List.any_eq_false.2 fun y hy => by simp [hno y hy]
    have hq : vs.any (fun x => fInf a48 x && fSign a48 x) = false := List.any_eq_false.2 fun y hy => by simp [hno y hy]
    rw [hp, hq] at h
    obtain ⟨v, z, rfl, hv⟩ := h
    rw [hp, hq]
    exact roundSum_isNum hv
  | some y =>
    have hy : fInf a48 y = true := List.find?_some hf
    have hmem := List.mem_of_find?_eq_some hf
    cases hp : vs.any (fun x => fInf a48 x && !fSign a48 x) <;> cases hq : vs.any (fun x => fInf a48 x && fSign a48 x) <;> rw [hp, hq] at h
    · have h1 := List.any_eq_false.1 hp y hmem
      have h2 := List.any_eq_false.1 hq y hmem
      cases hs : fSign a48 y <;> simp [hy, hs] at h1 h2
    · have h1 := List.any_eq_false.1 hp y hmem
      have hs : fSign a48 y = true := by simpa [hy] using h1
      rw [show acc = _ from h]
      simp only [hs]
      rfl
    · have h2 := List.any_eq_false.1 hq y hmem
      have hs : fSign a48 y = false := by simpa [hy] using h2
      rw [show acc = _ from h]
      simp only [hs]
      rfl
    · rw [show acc = _ from h]
      rfl

theorem rowSum_false (vs : List Nat) :
    rowSum false vs = if (vs.map a48.dec).any Fv.isNan then f32.canon else roundSum (sumVal 0 ((vs.map a48.dec).map some)) := rfl

theorem rowSum_float (v : Nat) (r : List Nat) : rowSum false (v :: r) = sumRow (v :: r) := by
  have hany : ((v :: r).map a48.dec).any Fv.isNan = (v :: r).any (fNan a48) := by
    rw [List.any_map]
    congr 1
    exact funext a48_sound.dec_isNan
  rw [rowSum_false, hany, sumRow]
  cases hn : (v :: r).any (fNan a48)
  · have hno : ∀ x ∈ v :: r, fNan a48 x = false := by simpa using hn
    have hsum := a48_arith.sumIs_list 0 r (fun x hx => hno x (List.mem_cons_of_mem _ hx)) (a48_arith.sumIs_dec (hno v List.mem_cons_self))
    have hval : sumVal 0 (((v :: r).map a48.dec).map some) = (r.map (fun x => some (a48.dec x))).foldl (sumStep 0) (some (a48.dec v)) := by
      rw [List.map_map, List.map_cons, sumVal_cons]
      rfl
    have hs : fVal a48 v + (r.map (fVal a48)).sum = ((v :: r).map (fVal a48)).sum := by simp
    rw [hs, ← hval] at hsum
    rw [if_neg Bool.false_ne_true, Bool.false_or]
    exact roundSum_sumIs hsum
  · rfl

end Sys2Proof.Machine
end

section
namespace Sys2Proof.Machine
open Sys2Proof Sys2Proof.Claims

set_option Elab.async false

/-! ## The largest of a row (R277) -/

section
variable {f : Fmt}

/-- A NaN keeps being one when its quiet bit is set. -/
theorem Fmt.Arith.fNan_quiet (hf : f.Arith) {x : Nat} (h : fNan f x = true) : fNan f (x ||| 2 ^ (f.fb - 1)) = true := by
  have hpos := hf.fb_pos
  obtain ⟨he, -⟩ := hf.fNan_iff.1 h
  refine hf.fNan_iff.2 ⟨?_, fun h0 => ?_⟩
  · unfold fExp at he ⊢
    rw [← Nat.shiftRight_eq_div_pow, Nat.shiftRight_or_distrib, Nat.shiftRight_eq_div_pow, Nat.shiftRight_eq_div_pow,
      Nat.div_eq_of_lt (Nat.pow_lt_pow_right one_lt_two (by omega)), Nat.or_zero, he]
  · have hbit : (fFrac f (x ||| 2 ^ (f.fb - 1))).testBit (f.fb - 1) = true := by
      unfold fFrac
      rw [Nat.testBit_mod_two_pow, Nat.testBit_or, Nat.testBit_two_pow_self]
      simp only [Bool.or_true, Bool.and_true, decide_eq_true_eq]
      omega
    rw [h0, Nat.zero_testBit] at hbit
    cases hbit

theorem minF_lt (mx : Bool) {a b : Nat} (ha : a < 2 ^ f.width) (hb : b < 2 ^ f.width) : (minF mx f a b).1 < 2 ^ f.width := by
  have hq : a ||| 2 ^ (f.fb - 1) < 2 ^ f.width := Nat.or_lt_two_pow ha (Nat.pow_lt_pow_right one_lt_two (by rw [Fmt.width]; omega))
  unfold minF
  dsimp only
  split_ifs <;> assumption

/-- The model's fold over codes of their format is that of the rules. -/
theorem Fmt.Arith.foldl_fpMin (hf : f.Arith) (mx : Bool) (r : List Nat) (hr : ∀ x ∈ r, x < 2 ^ f.width) {v : Nat} (hv : v < 2 ^ f.width) :
    r.foldl (fun a b => (fpMin f mx a b).1) v = r.foldl (fun a b => (minF mx f a b).1) v := by
  induction r generalizing v with
  | nil => rfl
  | cons x r ih =>
    rw [List.foldl_cons, List.foldl_cons, hf.fpMin_eq mx hv]
    exact ih (fun y hy => hr y (List.mem_cons_of_mem _ hy)) (minF_lt mx hv (hr x List.mem_cons_self))

theorem minF_self (mx : Bool) {x : Nat} (h : fNan f x = false) : (minF mx f x x).1 = x := by
  unfold minF
  simp [h]

/-- Before the first number of a list it does not matter from which NaN the fold starts. -/
theorem Fmt.Arith.foldl_minF_nan (hf : f.Arith) (mx : Bool) {r : List Nat} (hr : ∃ x ∈ r, fNan f x = false) {v w : Nat} (hv : fNan f v = true) (hw : fNan f w = true) :
    r.foldl (fun a b => (minF mx f a b).1) v = r.foldl (fun a b => (minF mx f a b).1) w := by
  induction r generalizing v w with
  | nil => simp at hr
  | cons x r ih =>
    simp only [List.foldl_cons]
    cases hx : fNan f x
    · simp [minF, hv, hw, hx]
    · have hq : ∀ y, fNan f y = true → (minF mx f y x).1 = y ||| 2 ^ (f.fb - 1) := fun y hy => by simp [minF, hy, hx]
      rw [hq v hv, hq w hw]
      refine ih ?_ (hf.fNan_quiet hv) (hf.fNan_quiet hw)
      obtain ⟨y, hy, hn⟩ := hr
      rcases List.mem_cons.1 hy with rfl | hy
      · rw [hx] at hn; cases hn
      · exact ⟨y, hy, hn⟩

end

theorem rowMax_float {v : Nat} {r : List Nat} (hlt : ∀ x ∈ v :: r, x < 2 ^ 48) : rowMax false (v :: r) = maxRow (v :: r) := by
  have hv := hlt v List.mem_cons_self
  have hnan : (fun x => (a48.dec x).isNan) = fNan a48 := funext a48_sound.dec_isNan
  simp only [rowMax, maxRow, Bool.false_eq_true, if_false, hnan]
  split
  · rfl
  · rename_i hall
    rw [a48To_eq f32_sound, a48_arith.foldl_fpMin true r (fun x hx => hlt x (List.mem_cons_of_mem _ hx)) hv, List.headD_cons, List.foldl_cons]
    congr 1
    cases hn : fNan a48 v
    · rw [minF_self true hn]
    · have hm : fNan a48 (minF true a48 v v).1 = true := by
        rw [show (minF true a48 v v).1 = v ||| 2 ^ (a48.fb - 1) by simp [minF, hn]]
        exact a48_arith.fNan_quiet hn
      refine a48_arith.foldl_minF_nan true ?_ hn hm
      simpa [hn] using hall

theorem rowMax_int (v : Nat) (r : List Nat) : rowMax true (v :: r) = clamp32 (((v :: r).map (intOf 48)).foldl max (intOf 48 v)) := by
  have hi : intOf 48 = sgn 48 := funext fun v => (sgn_eq_intOf (by decide) v).symm
  rw [hi, List.map_cons, List.foldl_cons, max_self, ← clampI32_eq]
  rfl

end Sys2Proof.Machine
end

section
namespace Sys2Proof.Machine
open Sys2Proof Sys2Proof.Claims

set_option Elab.async false

/-! ## EXPS (R278) -/

/-- What EXPS makes of the rounded exponent. -/
def expsOf (xr : Nat) : Nat :=
  match f32.dec xr with
  | .fin sg m e =>
    let ge := fun (n : Nat) => !fvLt (.fin false m e) (.fin false n 0)
    if sg && ge 32 then 0
    else if !sg && ge 128 then a48.infCode
    else
      let q := roundAt 1 false m e 0
      if !q.2 then (roundFmt a48 0 false (.fin false 1 (if sg then -(q.1 : Int) else q.1))).1
      else toA48 f32 (sfu 0 0 xr).1
  | .inf sg => if sg then 0 else a48.infCode
  | .nan _ _ _ _ => a48.canon

/-- The model's EXPS by its cases. -/
theorem expsCell_eq (cell cc v : Nat) :
    expsCell cell cc v =
      (if (a48.dec cell).isNan || (f32.dec cc).isNan || (f32.dec v).isNan then a48.canon
      else match mulVal (a48.dec cell) (f32.dec cc) with
        | none => a48.canon
        | some p =>
          if p = .inf true then 0
          else if f32.dec v = .inf false then 0
          else if p = .inf false || f32.dec v = .inf true then a48.infCode
          else match addVal 0 p (f32.dec v).neg with
            | none => a48.canon
            | some dv => expsOf (roundFmt f32 0 false dv).1) := rfl

/-! ### The value of the rounded exponent -/

/-- Rounding to an integer is exact at the integers. -/
theorem roundAt_exact_iff (m : Nat) (e : Int) : (roundAt 1 false m e 0).2 = false ↔ (m * 2 ^ e : ℚ).den = 1 := by
  obtain ⟨hval, hex⟩ := roundTo_finVal 1 false m e 0
  have hx : finVal false m e = m * 2 ^ e := one_mul _
  have hr : roundTo 1 (finVal false m e) 0 = roundInt 1 (m * 2 ^ e : ℚ) := by
    rw [hx]
    simp [roundTo]
  rw [hex, hr, hx, Rat.den_eq_one_iff]
  constructor
  · intro h
    rw [← h, Rat.num_intCast]
  · intro h
    rw [← h, roundInt_intCast]

theorem roundAt_exact {m : Nat} {e : Int} (h : (roundAt 1 false m e 0).2 = false) : ((roundAt 1 false m e 0).1 : ℚ) = m * 2 ^ e := by
  obtain ⟨hval, hex⟩ := roundTo_finVal 1 false m e 0
  rw [hex.1 h] at hval
  simpa [finVal, sgnFac] using hval.symm

/-- Two to an integer, as an A48 code. -/
theorem roundFmt_pow (k : Int) : (roundFmt a48 0 false (.fin false 1 k)).1 = (roundNum a48 0 false (2 ^ k) false).1 := by
  rw [a48_sound.roundFmt_fin]
  simp [finVal, sgnFac]

theorem not_fvLt_nat {m : Nat} {e : Int} {n : Nat} (hn : n ≠ 0) : (!fvLt (.fin false m e) (.fin false n 0)) = decide ((n : ℚ) ≤ m * 2 ^ e) := by
  rw [fvLt_fin (fun h => hn h.2), ← decide_not, decide_eq_decide]
  simp [finVal, sgnFac]

/-- The special function at a number that is no integer is the model's (log 11). -/
theorem sfuF_exp2 {xr : Nat} (hn : fNan f32 xr = false) (hi : fInf f32 xr = false) (hd : (fVal f32 xr).den ≠ 1) : (sfuF 0 0 xr).1 = (sfu 0 0 xr).1 := by
  have hnan : nanOf f32 [xr] = none := by simp [nanOf, hn]
  have h0 : fVal f32 xr ≠ 0 := fun h => hd (by rw [h]; rfl)
  unfold sfuF
  simp [hnan, hi, h0, hd]

theorem expsOf_eq {xr : Nat} (hn : fNan f32 xr = false) :
    expsOf xr = if fInf f32 xr then (if fSign f32 xr then 0 else a48.infCode)
      else if fVal f32 xr ≤ -32 then 0
      else if 128 ≤ fVal f32 xr then a48.infCode
      else if (fVal f32 xr).den = 1 then (roundNum a48 0 false (2 ^ (fVal f32 xr).num) false).1
      else toAcc f32 (sfuF 0 0 xr).1 := by
  unfold expsOf
  cases hi : fInf f32 xr
  · have hval := fVal_eq_finVal f32 xr
    rw [f32_sound.dec_fin hn hi, if_neg Bool.false_ne_true]
    simp only [not_fvLt_nat (show (32 : Nat) ≠ 0 by decide), not_fvLt_nat (show (128 : Nat) ≠ 0 by decide)]
    have hab : (0 : ℚ) ≤ fMant f32 xr * 2 ^ fScale f32 xr := by positivity
    have hden : (fVal f32 xr).den = (fMant f32 xr * 2 ^ fScale f32 xr : ℚ).den := by
      rw [hval]
      cases fSign f32 xr <;> simp [finVal, sgnFac]
    have hlow : (fSign f32 xr && decide (((32 : Nat) : ℚ) ≤ fMant f32 xr * 2 ^ fScale f32 xr)) = decide (fVal f32 xr ≤ -32) := by
      rw [hval]
      cases fSign f32 xr
      · simp [finVal, sgnFac]; linarith
      · simp [finVal, sgnFac]
    have hhigh : (!fSign f32 xr && decide (((128 : Nat) : ℚ) ≤ fMant f32 xr * 2 ^ fScale f32 xr)) = decide (128 ≤ fVal f32 xr) := by
      rw [hval]
      cases fSign f32 xr
      · simp [finVal, sgnFac]
      · simp [finVal, sgnFac]; linarith
    simp only [hlow, hhigh, decide_eq_true_eq]
    refine if_congr Iff.rfl rfl (if_congr Iff.rfl rfl ?_)
    rw [hden]
    cases hq : (roundAt 1 false (fMant f32 xr) (fScale f32 xr) 0).2
    · have hd := (roundAt_exact_iff ..).1 hq
      have hk := roundAt_exact hq
      have hnum : (if fSign f32 xr then -((roundAt 1 false (fMant f32 xr) (fScale f32 xr) 0).1 : Int) else (roundAt 1 false (fMant f32 xr) (fScale f32 xr) 0).1) = (fVal f32 xr).num := by
        rw [hval, finVal, ← hk]
        cases fSign f32 xr <;> simp [sgnFac]
      rw [if_pos hd, hnum]
      exact roundFmt_pow _
    · have hd : (fMant f32 xr * 2 ^ fScale f32 xr : ℚ).den ≠ 1 := fun h => by
        rw [(roundAt_exact_iff ..).2 h] at hq
        cases hq
      rw [if_neg hd, sfuF_exp2 hn hi (hden ▸ hd)]
      exact toA48_eq f32_sound _
  · rw [f32_sound.dec_inf hi]
    rfl

/-! ### The cases of EXPS -/

theorem Fmt.Arith.fVal_ne_zero_of_inf {f : Fmt} (hf : f.Arith) {x : Nat} (h : fInf f x = true) : fVal f x ≠ 0 := by
  obtain ⟨he, -⟩ := hf.fInf_iff.1 h
  have h1 := hf.two_lt_pow_eb
  have h2 := Nat.one_le_two_pow (n := f.fb)
  rw [Ne, fVal_eq_zero_iff, fMant, if_neg (by omega)]
  omega

/-- A product of codes that are no NaN. -/
theorem mulVal_dec {f g : Fmt} (hf : f.Arith) (hg : g.Arith) {a b : Nat} (ha : fNan f a = false) (hb : fNan g b = false) :
    mulVal (f.dec a) (g.dec b) =
      if (fInf f a = true ∧ fVal g b = 0) ∨ (fInf g b = true ∧ fVal f a = 0) then none
      else if (fInf f a || fInf g b) = true then some (.inf (fSign f a != fSign g b))
      else some (.fin (fSign f a != fSign g b) (fMant f a * fMant g b) (fScale f a + fScale g b)) := by
  cases hia : fInf f a <;> cases hib : fInf g b
  · rw [hf.dec_fin ha hia, hg.dec_fin hb hib]
    simp [mulVal]
  · rw [hf.dec_fin ha hia, hg.dec_inf hib]
    simp [mulVal, fVal_eq_zero_iff]
  · rw [hf.dec_inf hia, hg.dec_fin hb hib]
    simp [mulVal, fVal_eq_zero_iff]
  · rw [hf.dec_inf hia, hg.dec_inf hib]
    simp [mulVal, hf.fVal_ne_zero_of_inf hia, hg.fVal_ne_zero_of_inf hib]

/-- After a zero of either sign comes two to the power 0. -/
theorem expsOf_zero (s : Bool) : expsOf (f32.sign s) = (roundNum a48 0 false (2 ^ (0 : ℤ)) false).1 := by
  have hn : fNan f32 (f32.sign s) = false := by cases s <;> decide
  have hi : fInf f32 (f32.sign s) = false := by cases s <;> decide
  have h0 : fVal f32 (f32.sign s) = 0 := (fVal_eq_zero_iff ..).2 (by cases s <;> decide)
  rw [expsOf_eq hn, hi, h0]
  norm_num

theorem expsOf_num {v : Fv} {x : ℚ} {z : Bool} (h : v.IsNum x z) : expsOf (roundFmt f32 0 false v).1 = expsOf (roundNum f32 0 false x false).1 := by
  obtain ⟨s, m, e, rfl, rfl, -⟩ := h
  by_cases hm : m = 0
  · subst hm
    rw [(finVal_eq_zero s 0 e).2 rfl]
    exact (expsOf_zero s).trans (expsOf_zero false).symm
  · rw [f32_sound.roundFmt_fin, roundNum_sign_irrel (mt (finVal_eq_zero s m e).1 hm) s false]

theorem roundNum_notNan {v : Fv} {x : ℚ} {z : Bool} (h : v.IsNum x z) : fNan f32 (roundNum f32 0 false x false).1 = false := by
  obtain ⟨s, m, e, rfl, rfl, -⟩ := h
  by_cases hm : m = 0
  · rw [(finVal_eq_zero s m e).2 hm]
    rfl
  · rw [roundNum_sign_irrel (mt (finVal_eq_zero s m e).1 hm) false s, ← f32_sound.roundFmt_fin]
    exact f32_arith.roundFmt_fin_notNan ..

/-- EXPS is what R278 says, at every operand. -/
theorem expsCell_eq_expsQ (cell cc v : Nat) : expsCell cell cc v = expsQ cell cc v := by
  rw [expsCell_eq, expsQ]
  have hnans : ((a48.dec cell).isNan || (f32.dec cc).isNan || (f32.dec v).isNan) = true ↔ fNan a48 cell = true ∨ fNan f32 cc = true ∨ fNan f32 v = true := by
    simp only [a48_sound.dec_isNan, f32_sound.dec_isNan, Bool.or_eq_true, or_assoc]
  refine if_ctx_congr hnans (fun _ => rfl) fun hnan => ?_
  simp only [not_or, Bool.not_eq_true] at hnan
  obtain ⟨hx, hy, hz⟩ := hnan
  rw [mulVal_dec a48_arith f32_arith hx hy]
  by_cases hbad : (fInf a48 cell = true ∧ fVal f32 cc = 0) ∨ (fInf f32 cc = true ∧ fVal a48 cell = 0)
  · rw [if_pos hbad, if_pos hbad]
  rw [if_neg hbad, if_neg hbad]
  cases hp : fInf a48 cell || fInf f32 cc <;> cases hv : fInf f32 v
  · have hneg : -fVal f32 v = finVal (!fSign f32 v) (fMant f32 v) (fScale f32 v) := by
      rw [fVal_eq_finVal]
      cases fSign f32 v <;> simp [finVal, sgnFac]
    have hmul : finVal (fSign a48 cell != fSign f32 cc) (fMant a48 cell * fMant f32 cc) (fScale a48 cell + fScale f32 cc) = fVal a48 cell * fVal f32 cc := by
      obtain ⟨_, _, _, h, hval, -⟩ := mulFin_isNum (fSign a48 cell) (fMant a48 cell) (fScale a48 cell) (fSign f32 cc) (fMant f32 cc) (fScale f32 cc)
      rw [fVal_eq_finVal a48 cell, fVal_eq_finVal f32 cc, ← hval]
      cases h
      rfl
    have hsum := addFin_isNum 0 (fSign a48 cell != fSign f32 cc) (fMant a48 cell * fMant f32 cc) (fScale a48 cell + fScale f32 cc) (!fSign f32 v) (fMant f32 v) (fScale f32 v)
    rw [hmul, ← hneg, ← sub_eq_add_neg] at hsum
    rw [f32_arith.dec_fin hz hv]
    have hexp := (expsOf_num hsum).trans (expsOf_eq (roundNum_notNan hsum))
    simpa [Fv.neg, addVal] using hexp
  · rw [f32_arith.dec_inf hv]
    cases fSign f32 v <;> simp
  · rw [f32_arith.dec_fin hz hv]
    cases fSign a48 cell != fSign f32 cc <;> simp
  · rw [f32_arith.dec_inf hv]
    cases fSign a48 cell != fSign f32 cc <;> cases fSign f32 v <;> simp

end Sys2Proof.Machine
end

section
namespace Sys2Proof.Machine
open Sys2Proof Sys2Proof.Claims

set_option Elab.async false

/-! ## Accumulator tiles (R267) -/

theorem cellOf_eq_cell (x : AccTile) (r j : Nat) : cellOf x r j = x.cell r j := rfl

theorem theAcc_eq_accT (s : State) (c a : Nat) : theAcc s c a = (s.core c).accT a := rfl

theorem AccTile.cell_lt (t : AccTile) (r j : Nat) : t.cell r j < 2 ^ 48 := BitVec.isLt _

/-- A cell that is written, and every other one. -/
theorem AccTile.cell_set {t : AccTile} (h : TileLegal t) (r j v : Nat) {r' j' : Nat} (hj : j < 64) (hj' : j' < 64) :
    (t.set r j v).cell r' j' = if r' = r ∧ j' = j then v % 2 ^ 48 else t.cell r' j' := by
  have hkey : 64 * r' + j' = 64 * r + j ↔ r' = r ∧ j' = j := by omega
  unfold AccTile.set AccTile.cell
  by_cases h0 : BitVec.ofNat 48 v = 0
  · have hv : v % 2 ^ 48 = 0 := by simpa [BitVec.toNat_ofNat] using congrArg BitVec.toNat h0
    simp only [h0, if_true, FMap.find_del _ _ _ h.cells, hkey, hv]
    split <;> rfl
  · simp only [h0, if_false, FMap.find_ins, hkey]
    split
    · exact BitVec.toNat_ofNat ..
    · rfl

/-- Lane l's row of a tile has changed: its cells as g says, its poison as b says. -/
structure RowChanged (t t' : AccTile) (l : Nat) (g : Nat → Nat → Nat) (b : Bool → Bool) : Prop where
  legal : TileLegal t'
  int : t'.int = t.int
  cell : ∀ r j, j < 64 → t'.cell r j = if r = l then g j (t.cell r j) else t.cell r j
  psn : ∀ r, r < 32 → t'.pmask.getLsbD r = if r = l then b (t.pmask.getLsbD r) else t.pmask.getLsbD r

theorem AccTile.foldl_set_int_pmask (t : AccTile) (r : Nat) (f : Nat → Nat → Nat) (ns : List Nat) :
    (ns.foldl (fun t c => t.set r c (f c (t.cell r c))) t).int = t.int ∧ (ns.foldl (fun t c => t.set r c (f c (t.cell r c))) t).pmask = t.pmask := by
  induction ns generalizing t with
  | nil => exact ⟨rfl, rfl⟩
  | cons n ns ih => exact ih (t.set r n (f n (t.cell r n)))

theorem AccTile.rowChanged_mapRow {t : AccTile} (h : TileLegal t) (l : Nat) {f : Nat → Nat → Nat} (hf : ∀ j v, v < 2 ^ 48 → f j v < 2 ^ 48) :
    RowChanged t (t.mapRow l f) l f id := by
  obtain ⟨hint, hpm⟩ := t.foldl_set_int_pmask l f (List.range 64)
  have hcell : ∀ n, n ≤ 64 → TileLegal ((List.range n).foldl (fun t c => t.set l c (f c (t.cell l c))) t) ∧ ∀ r j, j < 64 →
      ((List.range n).foldl (fun t c => t.set l c (f c (t.cell l c))) t).cell r j = if r = l ∧ j < n then f j (t.cell r j) else t.cell r j := by
    intro n hn
    induction n with
    | zero => exact ⟨h, fun r j _ => by simp⟩
    | succ n ih =>
      obtain ⟨hl, hc⟩ := ih (by omega)
      rw [List.range_succ, List.foldl_append, List.foldl_cons, List.foldl_nil]
      refine ⟨hl.set, fun r j hj => ?_⟩
      rw [AccTile.cell_set hl _ _ _ (by omega) hj, hc r j hj, hc l n (by omega)]
      by_cases hr : r = l
      · subst hr
        by_cases hjn : j = n
        · subst hjn
          simpa using hf j _ (t.cell_lt r j)
        · simp only [hjn, and_false, if_false, true_and, Nat.lt_succ_iff_lt_or_eq, or_false]
      · simp [hr]
  obtain ⟨hl, hc⟩ := hcell 64 le_rfl
  refine ⟨hl, hint, fun r j hj => (hc r j hj).trans ?_, fun r _ => ?_⟩
  · simp only [hj, and_true]
  · rw [show (t.mapRow l f).pmask = t.pmask from hpm]
    split <;> rfl

theorem AccTile.rowChanged_set {t : AccTile} (h : TileLegal t) (l : Nat) {k v : Nat} (hk : k < 64) (hv : v < 2 ^ 48) :
    RowChanged t (t.set l k v) l (fun j x => if j = k then v else x) id := by
  refine ⟨h.set, rfl, fun r j hj => ?_, fun r _ => by split <;> rfl⟩
  rw [AccTile.cell_set h _ _ _ hk hj, Nat.mod_eq_of_lt hv]
  by_cases hr : r = l <;> by_cases hj : j = k <;> simp [hr, hj]

theorem AccTile.getLsbD_setPsn (t : AccTile) {l : Nat} (b : Bool) {r : Nat} (hr : r < 32) :
    (t.setPsn l b).pmask.getLsbD r = if r = l then b else t.pmask.getLsbD r := by
  unfold AccTile.setPsn
  have hmask : (laneMask [l]).getLsbD r = decide (r = l) := by
    rw [getLsbD_laneMask]
    simp [hr]
  cases b
  · rw [if_neg Bool.false_ne_true, BitVec.getLsbD_and, BitVec.getLsbD_not, hmask]
    by_cases h : r = l <;> simp [h, hr]
  · rw [if_pos rfl, BitVec.getLsbD_or, hmask]
    by_cases h : r = l <;> simp [h]

theorem RowChanged.setPsn {t t' : AccTile} {l : Nat} {g : Nat → Nat → Nat} {b : Bool → Bool} (h : RowChanged t t' l g b) (x : Bool) : RowChanged t (t'.setPsn l x) l g (fun _ => x) := by
  refine ⟨h.legal.setPsn, h.int, h.cell, fun r hr => ?_⟩
  rw [AccTile.getLsbD_setPsn _ _ hr]
  split
  · rfl
  · rename_i hne
    rw [h.psn r hr, if_neg hne]

/-- A poisoned operand marks the row, a clean one leaves its mark (R277). -/
theorem RowChanged.orPsn {t t' : AccTile} {l : Nat} {g : Nat → Nat → Nat} (h : RowChanged t t' l g id) (x : Bool) :
    RowChanged t (if x then t'.setPsn l true else t') l g (fun y => y || x) := by
  cases x
  · rw [show (fun y => y || false) = id from funext Bool.or_false]
    exact h
  · simpa using h.setPsn true

/-- Rows changed one after the other, each by its own lane. -/
theorem foldl_rowChanged {ls : List Nat} (hd : ls.Nodup) {step : AccTile → Nat → AccTile} {g : Nat → Nat → Nat → Nat} {b : Nat → Bool → Bool} {int : Bool}
    (hstep : ∀ t l, TileLegal t → t.int = int → RowChanged t (step t l) l (g l) (b l)) {t : AccTile} (ht : TileLegal t) (hi : t.int = int) :
    TileLegal (ls.foldl step t) ∧ (ls.foldl step t).int = int ∧ (∀ r j, j < 64 → (ls.foldl step t).cell r j = if r ∈ ls then g r j (t.cell r j) else t.cell r j) ∧
      ∀ r, r < 32 → (ls.foldl step t).pmask.getLsbD r = if r ∈ ls then b r (t.pmask.getLsbD r) else t.pmask.getLsbD r := by
  induction ls generalizing t with
  | nil => exact ⟨ht, hi, fun _ _ _ => by simp, fun _ _ => by simp⟩
  | cons l ls ih =>
    obtain ⟨hnot, hd'⟩ := List.nodup_cons.1 hd
    have h1 := hstep t l ht hi
    obtain ⟨hl, hint, hc, hp⟩ := ih hd' h1.legal (h1.int.trans hi)
    rw [List.foldl_cons]
    refine ⟨hl, hint, fun r j hj => ?_, fun r hr => ?_⟩
    · rw [hc r j hj, h1.cell r j hj]
      by_cases hrl : r = l
      · subst hrl; simp [hnot]
      · simp [hrl]
    · rw [hp r hr, h1.psn r hr]
      by_cases hrl : r = l
      · subst hrl; simp [hnot]
      · simp [hrl]

end Sys2Proof.Machine
end

section
namespace Sys2Proof.Machine
open Sys2Proof Sys2Proof.Claims

set_option Elab.async false

/-! ## Units that change the core as well as their pack -/

@[simp] theorem Tok.stalled_tile (t : Tok) (c : Ctx) (us : Uses) (r : Res) : (t.stalled c us r).tile = t.tile := by
  unfold Tok.stalled
  split <;> rfl

/-- A long-latency unit's token names the tile its instruction moves (R279). -/
theorem endToken_tile {c : Ctx} {us : Uses} {r : Res} {s : State} {p : Pack} (hla : us.la.isSome = true) (hp : s.pack? c.u.core c.u.slot = some p) :
    ∃ ts, OnlyPack s (endToken c us r s) c.u { p with toks := ts } ∧ ∃ k ∈ ts, k.tile = r.tile := by
  obtain ⟨n, hn⟩ := Option.isSome_iff_exists.1 hla
  unfold endToken
  rw [hn]
  exact ⟨_, (OnlyPack.fresh hp).trans (OnlyPack.updPack _ (OnlyPack.fresh hp).1), _, List.mem_append_right _ (List.mem_singleton.2 rfl), Tok.stalled_tile ..⟩

theorem finish_token {c : Ctx} {us : Uses} {r : Res} {p q : Pack} (hla : us.la.isSome = true) (hs : r.stall = none) (hp : r.s.pack? c.u.core c.u.slot = some p)
    (hq : (finish c us r).pack? c.u.core c.u.slot = some q) : ∃ k ∈ q.toks, k.tile = r.tile := by
  have h1 := OnlyPack.updPack (endPack c us r) hp
  have h2 := h1.trans (OnlyPack.trq h1.1 c.u.core (fun q => q ++ faultEntries c.u r.faults))
  have h3 := h2.trans (endCounts_only h2.1)
  obtain ⟨ts, h4, hk⟩ := endToken_tile (c := c) (us := us) (r := r) hla h3.1
  have h5 := endTraps_only (ts := r.traps) h4.1
  unfold finish at hq
  rw [hs] at hq
  obtain rfl := Option.some.inj (h5.1.symm.trans hq)
  exact hk

theorem SameOthers.of_packs {s t v : State} {u : Cur} (h : SameOthers s t u) (hv : s.packs = v.packs) : SameOthers v t u := fun k hk => by rw [h k hk, hv]

/-- A UNIT WHOSE EFFECT IS ON THE CORES: what runUnit answers for it. -/
theorem unit_cores {i : Instr} {s : State} {u : Cur} {p : Pack} (h : Issues i s u p) {body : Ctx → Res} (hex : exec i s = runUnit i (instrUses i) body s) {r : Res}
    (hb : body (ctxOf i s u p) = r) (hstall : r.stall = none) (hf : r.faults = []) (hstay : r.stay = 0) (hs : r.s = { s with cores := r.s.cores }) :
    ∃ t q, exec i s = .next t ∧ OnlyPack r.s t u q ∧ SameRest s t ∧ SameOthers s t u ∧ PackBut p q ∧ LanesOn (ctxOf i s u p) p q u.ig ∧ SameRegs p q u.depth ∧
      q.s = p.s ∧ q.m = p.m ∧ q.fpc = p.fpc ∧ q.pending = withTraps p.pending s u ((ctxOf i s u p).tagged ++ r.traps) ∧
      ((usesOf i).la.isSome = true → ∃ k ∈ q.toks, k.tile = r.tile) := by
  let r' : Res := { r with traps := (ctxOf i s u p).tagged ++ r.traps }
  have hpacks : r.s.packs = s.packs := by rw [hs]
  have hp : r'.s.pack? u.core u.slot = some p := by
    show r.s.packs.find _ = _
    rw [hpacks]
    exact h.2.2.1
  obtain ⟨ts, ho, -⟩ := finish_spec (ctxOf i s u p) (usesOf i) r' hstall hp
  obtain ⟨he, hdel, hpos, hfr⟩ := endPack_spec (ctxOf i s u p) (usesOf i) r' p hf
  have hcell := endPack_cell (ctxOf i s u p) (usesOf i) r' p hf
  have htok : (usesOf i).la.isSome = true → ∀ q, (finish (ctxOf i s u p) (usesOf i) r').pack? u.core u.slot = some q → ∃ k ∈ q.toks, k.tile = r.tile :=
    fun hla q hq => finish_token (c := ctxOf i s u p) (us := usesOf i) (r := r') hla hstall hp hq
  have hpend : withTraps p.pending r'.s u r'.traps = withTraps p.pending s u r'.traps := by
    unfold withTraps mkTrap
    rw [State.pack_of_pack? hp, State.pack_of_pack? h.2.2.1, show r'.s.cycle = s.cycle by show r.s.cycle = _; rw [hs]]
  rw [show (ctxOf i s u p).u = u from rfl] at ho
  have hall : (ctxOf i s u p).ig &&& ~~~r'.stay = u.ig := by
    show u.ig &&& ~~~r.stay = u.ig
    rw [hstay]
    exact BitVec.and_allOnes
  rw [hall] at hpos
  have hmk : exec i s = .next (finish (ctxOf i s u p) (usesOf i) r') := by rw [hex, runUnit_issues body h, hb]
  have hrest : ∀ {t : State}, SameRest r.s t → SameRest s t := by
    intro t ht
    unfold SameRest at ht ⊢
    rw [ht, hs]
  generalize endPack (ctxOf i s u p) (usesOf i) r' p = e at he hdel hpos hfr hcell ho htok
  have hpe : e.pending = p.pending := by rw [he]
  rw [hpe, hpend] at ho
  refine ⟨_, _, hmk, ho, hrest ho.2.1, ho.2.2.2.of_packs hpacks, ⟨?_, hdel⟩, hpos, ⟨fun r l _ => hcell u.depth r l, fun e => ⟨(hfr e).1, fun r l _ _ => (hfr e).2 r l⟩, fun _ => ?_⟩,
    ?_, ?_, ?_, rfl, fun hla => htok hla _ ho.1⟩
  · show { e with toks := ts, pending := _ } = _
    rw [he]
  · show e.trapFrame = _
    rw [he]
  · show e.s = _
    rw [he]
  · show e.m = _
    rw [he]
  · show e.fpc = _
    rw [he]

/-- A unit that a resource holds back. -/
theorem unit_stalls {i : Instr} {s : State} {u : Cur} {p : Pack} (h : Issues i s u p) {body : Ctx → Res} (hex : exec i s = runUnit i (instrUses i) body s) {why : Nat}
    (hb : body (ctxOf i s u p) = { s := s, stall := some why }) : Stalls i s u p why := by
  have ho := OnlyPack.updPack (fun p => { p with ownStall := some why }) h.2.2.1
  exact ⟨_, by rw [hex, runUnit_issues body h, hb]; rfl, ho.1, ho.2.2.2, rfl⟩

end Sys2Proof.Machine
end

section
namespace Sys2Proof.Machine
open Sys2Proof Sys2Proof.Claims

set_option Elab.async false

/-! ## The order on a tile and its tag (R268, R269) -/

theorem accBusy_eq_false (s : State) (c a : Nat) (mma : Bool) : accBusy s c a mma = false ↔ AccFree s c a mma := by
  unfold accBusy AccFree
  cases mma <;> simp

/-- The body of an accumulator instruction: it waits, it traps, or it has its effect. -/
theorem accOp_body {i : Instr} {a : Nat} {tag : Option Bool} {eff : Ctx → AccTile → Res} {s : State} :
    ∃ body, accOp i a tag eff s = runUnit i (instrUses i) body s ∧ ∀ c : Ctx,
      (¬AccFree c.s c.u.core a false → body c = { s := c.s, stall := some 6 }) ∧
      (AccFree c.s c.u.core a false → (tag.isSome = true ∧ tag ≠ some (theAcc c.s c.u.core a).int) → body c = { s := c.s, traps := groupTrap c tILLOP 1 }) ∧
      (AccFree c.s c.u.core a false → (tag = none ∨ tag = some (theAcc c.s c.u.core a).int) → body c = eff c (theAcc c.s c.u.core a)) := by
  refine ⟨_, rfl, fun c => ⟨fun hb => ?_, fun hf ht => ?_, fun hf ht => ?_⟩⟩
  · rw [← accBusy_eq_false, Bool.not_eq_false] at hb
    rw [if_pos hb]
  · rw [← accBusy_eq_false] at hf
    rw [hf, if_neg Bool.false_ne_true]
    obtain ⟨b, rfl⟩ := Option.isSome_iff_exists.1 ht.1
    exact if_pos (bne_iff_ne.2 fun e => ht.2 (congrArg some e.symm))
  · rw [← accBusy_eq_false] at hf
    rw [hf, if_neg Bool.false_ne_true]
    rcases ht with rfl | rfl
    · exact if_neg (by simp)
    · exact if_neg (by simp [theAcc_eq_accT])

/-! ## The new tile stands -/

theorem Core.accT_ins (k : Core) (a : Nat) (t : AccTile) : ({ k with acc := k.acc.ins a t }).accT a = t := by
  simp [Core.accT]

theorem State.setAcc_core {s : State} {c : Nat} (h : (s.cores.find c).isSome = true) (a : Nat) (X : AccTile) (j : Nat) :
    (s.setAcc c a X).core j = { s.core j with acc := if j = c then (s.core j).acc.ins a X else (s.core j).acc } := by
  by_cases hj : j = c
  · subst hj
    rw [if_pos rfl]
    exact State.core_updCore_self _ _ _ h
  · rw [if_neg hj]
    exact State.core_updCore_ne _ _ hj

/-- Bytes of memory stay when no scratchpad has changed. -/
theorem SameRest.bytes {s t : State} (hr : SameRest s t) (hs : ∀ c, (t.core c).spad = (s.core c).spad) : SameBytes s t := by
  intro pl
  cases pl with
  | mem b pa =>
    rw [hr]
    rfl
  | spad c off =>
    show ((t.core c).spad.find off).getD 0 = ((s.core c).spad.find off).getD 0
    rw [hs c]
  | chip off =>
    rw [hr]
    rfl

/-- A unit whose effect is a new tile. -/
theorem unit_accPut {i : Instr} {s : State} {u : Cur} {p : Pack} (h : Issues i s u p) {body : Ctx → Res} (hex : exec i s = runUnit i (instrUses i) body s) {a : Nat} {X : AccTile}
    (hb : body (ctxOf i s u p) = accPut (ctxOf i s u p) a X) :
    AccUnit i s u p a (fun t q => q.pending = withTraps p.pending s u (ctxOf i s u p).tagged ∧ SameBytes s t ∧ (∀ j, (t.core j).tiles = (s.core j).tiles) ∧ theAcc t u.core a = X) := by
  have hc := h.2.2.2.1
  obtain ⟨t, q, he, ho, hr, hot, hpb, hl, hsr, h1, h2, h3, hpend, -⟩ := unit_cores h hex hb rfl rfl rfl rfl
  have hcore : ∀ j, t.core j = { s.core j with evcnt := (t.core j).evcnt, trq := (t.core j).trq, acc := if j = u.core then (s.core j).acc.ins a X else (s.core j).acc } := by
    intro j
    rw [ho.2.2.1 j]
    rw [show (accPut (ctxOf i s u p) a X).s.core j = _ from State.setAcc_core hc a X j]
  refine ⟨t, q, he, ho.1, hr, hot, hpb, hl, fun j => ?_, fun j b hjb => ?_, hsr, h1, h2, h3, ?_, hr.bytes fun j => ?_, fun j => ?_, ?_⟩
  · rw [hcore j]
  · rw [hcore j]
    split
    · rename_i hj
      exact FMap.find_ins_ne _ _ (hjb.resolve_left (fun hn => hn hj))
    · rfl
  · rw [hpend]
    exact congrArg _ (List.append_nil _)
  · rw [hcore j]
  · rw [hcore j]
  · rw [theAcc_eq_accT, hcore u.core, if_pos rfl]
    exact Core.accT_ins ..

/-! ## An instruction that computes its tile -/

/-- The tile has become what the rule asks for. -/
structure Becomes (X : AccTile) (w : AccWant) : Prop where
  int : X.int = w.int
  row : ∀ r, r < 32 → X.pmask.getLsbD r = w.psn r ∧ ∀ j, j < 64 → cellOf X r j = w.cell r j

/-- What O33 says of one instruction that computes its tile. -/
def AccSettled (i : Instr) (s : State) (u : Cur) (p : Pack) (w : AccWant) : Prop :=
  (¬AccFree s u.core w.a false → Stalls i s u p 6) ∧
  (AccFree s u.core w.a false → (w.tag.isSome = true ∧ w.tag ≠ some (theAcc s u.core w.a).int) → OnlyTraps i s u p (groupTrap (ctxOf i s u p) tILLOP 1)) ∧
  (AccFree s u.core w.a false → (w.tag = none ∨ w.tag = some (theAcc s u.core w.a).int) →
    AccUnit i s u p w.a (fun t q => q.pending = withTraps p.pending s u (ctxOf i s u p).tagged ∧ SameBytes s t ∧ (∀ j, (t.core j).tiles = (s.core j).tiles) ∧
      (theAcc t u.core w.a).int = w.int ∧
      ∀ r, r < 32 → (theAcc t u.core w.a).pmask.getLsbD r = w.psn r ∧ ∀ j, j < 64 → cellOf (theAcc t u.core w.a) r j = w.cell r j))

theorem accSettled {i : Instr} {s : State} {u : Cur} {p : Pack} (h : Issues i s u p) {w : AccWant} {f : Ctx → AccTile → AccTile}
    (hex : exec i s = accOp i w.a w.tag (fun c t => accPut c w.a (f c t)) s)
    (hw : (w.tag = none ∨ w.tag = some (theAcc s u.core w.a).int) → Becomes (f (ctxOf i s u p) (theAcc s u.core w.a)) w) : AccSettled i s u p w := by
  obtain ⟨body, hrun, hbody⟩ := accOp_body (i := i) (a := w.a) (tag := w.tag) (eff := fun c t => accPut c w.a (f c t)) (s := s)
  obtain ⟨hstall, htrap, hgo⟩ := hbody (ctxOf i s u p)
  refine ⟨fun hb => unit_stalls h (hex.trans hrun) (hstall hb), fun hf ht => unit_onlyTraps h (hex.trans hrun) (htrap hf ht), fun hf ht => ?_⟩
  obtain ⟨t, q, he, hq, hr, ho, hpb, hl, hcore, hacc, hsr, h1, h2, h3, hpend, hsb, htl, hX⟩ := unit_accPut h (hex.trans hrun) (hgo hf ht)
  have hbec := hw ht
  exact ⟨t, q, he, hq, hr, ho, hpb, hl, hcore, hacc, hsr, h1, h2, h3, hpend, hsb, htl, by rw [hX]; exact hbec.int, by rw [hX]; exact hbec.row⟩

/-- Rows changed lane by lane, each by its own rule, are what the rule asks for. -/
theorem becomes_of_rows {m : Word} {X : AccTile} (hX : TileLegal X) {step : AccTile → Nat → AccTile} {g : Nat → Nat → Nat → Nat} {b : Nat → Bool → Bool}
    (hstep : ∀ t l, TileLegal t → t.int = X.int → RowChanged t (step t l) l (g l) (b l)) {w : AccWant} (hint : w.int = X.int)
    (hcell : ∀ r j, j < 64 → w.cell r j = if m.getLsbD r = true then g r j (cellOf X r j) else cellOf X r j)
    (hpsn : ∀ r, w.psn r = if m.getLsbD r = true then b r (X.pmask.getLsbD r) else X.pmask.getLsbD r) : Becomes ((lanesOf m).foldl step X) w := by
  obtain ⟨-, hi, hc, hp⟩ := foldl_rowChanged (nodup_lanesOf m) hstep hX rfl
  refine ⟨hi.trans hint.symm, fun r hr => ⟨?_, fun j hj => ?_⟩⟩
  · rw [hp r hr, hpsn r]
    simp only [mem_lanesOf]
  · rw [cellOf_eq_cell, hc r j hj, hcell r j hj]
    simp only [mem_lanesOf, cellOf_eq_cell]

theorem Legal.theAcc {s : State} (h : s.legal = true) (c a : Nat) : TileLegal (theAcc s c a) := (((legal_iff s).1 h).core c).accT

end Sys2Proof.Machine
end

section
namespace Sys2Proof.Machine
open Sys2Proof Sys2Proof.Claims

set_option Elab.async false

/-! ## The instructions that compute their tile (R276 to R278) -/

theorem wrapTo_lt (w : Nat) (v : Int) : wrapTo w v < 2 ^ w := by
  rw [wrapTo_eq]
  exact BitVec.isLt _

theorem sgn_word (x : Word) : sgn 32 x.toNat = x.toInt := by
  rw [sgn_eq_intOf (by decide), intOf, BitVec.ofNat_toNat, BitVec.setWidth_eq]

theorem expsCell_lt (cell cc v : Nat) : expsCell cell cc v < 2 ^ 48 := by
  have hof : ∀ xr, expsOf xr < 2 ^ 48 := by
    intro xr
    unfold expsOf
    split
    · dsimp only
      split
      · decide
      · split
        · decide
        · split
          · exact a48_arith.roundFmt_fin_lt ..
          · exact toA48_lt f32_sound _
    · split <;> decide
    · decide
  rw [expsCell_eq]
  split
  · decide
  · split
    · decide
    · split
      · decide
      · split
        · decide
        · split
          · decide
          · split
            · decide
            · exact hof _

/-- The tile of a row operation with an operand lane (R277). -/
def rowTile (c : Ctx) (a : VReg) (f : Bool → Nat → Nat → Nat) (t : AccTile) : AccTile :=
  (lanesOf c.act).foldl (fun t l =>
    let t := t.mapRow l (fun _ v => f t.int v (c.rv a l).toNat)
    if c.psn a 1 l then t.setPsn l true else t) t

/-- A row operation with an operand lane does G to the cells of each lane's row; an operand's poison goes to the row. -/
theorem rowTile_becomes {c : Ctx} {a : VReg} {X : AccTile} (hX : TileLegal X) {f : Bool → Nat → Nat → Nat} (G : Nat → Word → Nat)
    (hf : ∀ v x, v < 2 ^ 48 → f X.int v x < 2 ^ 48) (hG : ∀ v (x : Word), v < 2 ^ 48 → f X.int v x.toNat = G v x) {n : Nat} {tag : Option Bool} {int : Bool} (hint : int = X.int) :
    Becomes (rowTile c a f X) ⟨n, tag, int, fun r j => if c.act.getLsbD r then G (cellOf X r j) (c.rv a r) else cellOf X r j,
      fun r => X.pmask.getLsbD r || (c.act.getLsbD r && c.psn a 1 r)⟩ := by
  refine becomes_of_rows hX (g := fun l _ v => f X.int v (c.rv a l).toNat) (b := fun l y => y || c.psn a 1 l) (fun t l ht hi => ?_) hint (fun r j _ => ?_) (fun r => ?_)
  · rw [hi]
    exact (AccTile.rowChanged_mapRow ht l fun _ v hv => hf v _ hv).orPsn _
  · dsimp only
    rw [hG (cellOf X r j) (c.rv a r) (AccTile.cell_lt X r j)]
  · by_cases hr : c.act.getLsbD r = true <;> simp [hr]

/-- A tile that an instruction for float tiles goes on with is a float tile. -/
theorem int_of_floatTag {b : Bool} (h : some false = none ∨ some false = some b) : false = b := Option.some.inj (h.resolve_left nofun)

section
variable {s : State} {u : Cur} {p : Pack} {w : AccWant}

theorem accz_settled {a : BitVec 6} {x : BitVec 1} (h : Issues (.accz a x) s u p) (hw : accWant (ctxOf (.accz a x) s u p) (theAcc s u.core) (.accz a x) = some w) :
    AccSettled (.accz a x) s u p w := by
  obtain rfl := Option.some.inj hw
  exact accSettled h rfl (f := fun _ _ => { int := x == 1 }) fun _ => ⟨rfl, fun r _ => ⟨by simp, fun j _ => rfl⟩⟩

theorem accopScale_settled {a : VReg} {acc : BitVec 6} (h : Issues (.accopScale a acc) s u p) (hl : s.legal = true)
    (hw : accWant (ctxOf (.accopScale a acc) s u p) (theAcc s u.core) (.accopScale a acc) = some w) : AccSettled (.accopScale a acc) s u p w := by
  obtain rfl := Option.some.inj hw
  refine accSettled h (f := fun c t => rowTile c a (fun _ v x => (fpMul a48 0 v (toA48 f32 x)).1) t) rfl fun ht =>
    rowTile_becomes (Legal.theAcc hl ..) (fun v x => (mulF a48 0 v (toAcc f32 x.toNat)).1) (fun v x _ => a48_arith.fpMul_lt ..) (fun v x hv => ?_) (int_of_floatTag ht)
  rw [a48_arith.fpMul_eq 0 hv (toA48_lt f32_sound _), toA48_eq f32_sound]

theorem accopAddrow_settled {a : VReg} {acc : BitVec 6} (h : Issues (.accopAddrow a acc) s u p) (hl : s.legal = true)
    (hw : accWant (ctxOf (.accopAddrow a acc) s u p) (theAcc s u.core) (.accopAddrow a acc) = some w) : AccSettled (.accopAddrow a acc) s u p w := by
  obtain rfl := Option.some.inj hw
  refine accSettled h (f := fun c t => rowTile c a (fun int v x => if int then wrapTo 48 (sgn 48 v + sgn 32 x) else (fpAdd a48 0 v (toA48 f32 x)).1) t) rfl fun _ =>
    rowTile_becomes (Legal.theAcc hl ..)
      (fun v x => if (theAcc s u.core acc.toNat).int then (BitVec.ofInt 48 (intOf 48 v + x.toInt)).toNat else (addF a48 0 v (toAcc f32 x.toNat)).1) (fun v x _ => ?_) (fun v x hv => ?_) rfl
  · split
    · exact wrapTo_lt ..
    · exact a48_arith.fpAdd_lt ..
  · rw [a48_arith.fpAdd_eq 0 hv (toA48_lt f32_sound _), toA48_eq f32_sound, wrapTo_eq, sgn_eq_intOf (by decide), sgn_word]

theorem accopExps_settled {a : VReg} {acc : BitVec 6} {sc : BitVec 5} (h : Issues (.accopExps a acc sc) s u p) (hl : s.legal = true)
    (hw : accWant (ctxOf (.accopExps a acc sc) s u p) (theAcc s u.core) (.accopExps a acc sc) = some w) : AccSettled (.accopExps a acc sc) s u p w := by
  obtain rfl := Option.some.inj hw
  exact accSettled h (f := fun c t => rowTile c a (fun _ v x => expsCell v ((c.p.sreg sc.toNat).toNat % 2 ^ 32) x) t) rfl fun ht =>
    rowTile_becomes (Legal.theAcc hl ..) (fun v x => expsQ v ((p.sreg sc.toNat).toNat % 2 ^ 32) x.toNat) (fun v x _ => expsCell_lt ..) (fun v x _ => expsCell_eq_expsQ ..) (int_of_floatTag ht)

/-- The tile of maskc (R277). -/
def maskTile (c : Ctx) (off : BitVec 8) (t : AccTile) : AccTile :=
  (lanesOf c.act).foldl (fun t l => t.mapRow l (fun j v => if (j : Int) > (c.lid l : Int) + off.toInt then 0xFFE000000000 else v)) t

theorem maskTile_becomes {c : Ctx} {off : BitVec 8} {X : AccTile} (hX : TileLegal X) {n : Nat} {tag : Option Bool} {int : Bool} (hint : int = X.int) :
    Becomes (maskTile c off X) ⟨n, tag, int, fun r j => if c.act.getLsbD r ∧ (c.lid r : Int) + off.toInt < j then 0xFFE000000000 else cellOf X r j, fun r => X.pmask.getLsbD r⟩ := by
  refine becomes_of_rows hX (g := fun l j v => if (j : Int) > (c.lid l : Int) + off.toInt then 0xFFE000000000 else v) (b := fun _ => id)
    (fun t l ht _ => AccTile.rowChanged_mapRow ht l fun j v hv => ?_) hint (fun r j _ => ?_) (fun r => (ite_self _).symm)
  · split
    · decide
    · exact hv
  · by_cases hr : c.act.getLsbD r = true <;> simp [hr]

theorem accopMaskc_settled {acc : BitVec 6} {off : BitVec 8} (h : Issues (.accopMaskc acc off) s u p) (hl : s.legal = true)
    (hw : accWant (ctxOf (.accopMaskc acc off) s u p) (theAcc s u.core) (.accopMaskc acc off) = some w) : AccSettled (.accopMaskc acc off) s u p w := by
  obtain rfl := Option.some.inj hw
  exact accSettled h (f := fun c t => maskTile c off t) rfl fun ht => maskTile_becomes (Legal.theAcc hl ..) (int_of_floatTag ht)

/-- What ACCWR writes to a cell (R276). -/
def accwrCell (c : Ctx) (a : VReg) (x : BitVec 4) (int : Bool) (l : Nat) : Nat :=
  let v := (c.rv a l).toNat
  if x = 2 then v + (c.rv2 a l).toNat / 2 ^ 32 % 2 ^ 16 * 2 ^ 32 else if int then wrapTo 48 (sgn 32 v) else toA48 f32 v

/-- The tile of ACCWR. -/
def writeTile (c : Ctx) (a : VReg) (col : BitVec 6) (x : BitVec 4) (t : AccTile) : AccTile :=
  (lanesOf c.act).foldl (fun t l =>
    let t := t.set l col.toNat (accwrCell c a x t.int l)
    if c.psn a (if x = 2 then 2 else 1) l then t.setPsn l true else t) t

theorem rv_vz (c : Ctx) (l : Nat) : c.rv 112 l = 0 := rfl

/-- Bits 47 to 0 of a pair, from its two registers. -/
theorem pair_low48 {c : Ctx} {a : VReg} {l : Nat} (hsrc : srcOk a 2 = true) :
    (c.rv a l).toNat + (c.rv2 a l).toNat / 2 ^ 32 % 2 ^ 16 * 2 ^ 32 = (c.rv2 a l).toNat % 2 ^ 48 := by
  unfold Ctx.rv2
  by_cases ha : a.toNat ≤ 111
  · rw [if_pos ha, BitVec.toNat_append, ← Nat.shiftLeft_add_eq_or_of_lt (c.rv a l).isLt, Nat.shiftLeft_eq]
    have := (c.rv a l).isLt
    omega
  · have ha' : a = 112 := by
      have h : (a == 112 || decide (a.toNat % 2 = 0 ∧ a.toNat + 2 ≤ 112)) = true := hsrc
      rw [Bool.or_eq_true, decide_eq_true_eq] at h
      exact eq_of_beq (h.resolve_right (by omega))
    rw [if_neg ha, ha', rv_vz]
    rfl

theorem accwrCell_eq {c : Ctx} {a : VReg} {x : BitVec 4} {int : Bool} {l : Nat} (hsrc : x = 2 → srcOk a 2 = true) :
    accwrCell c a x int l = if x = 2 then (c.rv2 a l).toNat % 2 ^ 48 else if int then (BitVec.ofInt 48 (c.rv a l).toInt).toNat else toAcc f32 (c.rv a l).toNat := by
  unfold accwrCell
  simp only [sgn_word, wrapTo_eq, toA48_eq f32_sound]
  by_cases h : x = 2
  · rw [if_pos h, if_pos h, pair_low48 (hsrc h)]
  · rw [if_neg h, if_neg h]

theorem accwrCell_lt (c : Ctx) (a : VReg) (x : BitVec 4) (int : Bool) (l : Nat) : accwrCell c a x int l < 2 ^ 48 := by
  unfold accwrCell
  dsimp only
  split
  · have := (c.rv a l).isLt
    omega
  · split
    · exact wrapTo_lt ..
    · exact toA48_lt f32_sound _

theorem writeTile_becomes {c : Ctx} {a : VReg} {col : BitVec 6} {x : BitVec 4} {X : AccTile} (hX : TileLegal X) (hsrc : x = 2 → srcOk a 2 = true) {n : Nat} {tag : Option Bool} :
    Becomes (writeTile c a col x X) ⟨n, tag, X.int,
      fun r j => if c.act.getLsbD r ∧ j = col.toNat then
          (if x = 2 then (c.rv2 a r).toNat % 2 ^ 48 else if X.int then (BitVec.ofInt 48 (c.rv a r).toInt).toNat else toAcc f32 (c.rv a r).toNat)
        else cellOf X r j,
      fun r => X.pmask.getLsbD r || (c.act.getLsbD r && c.psn a (if x = 2 then 2 else 1) r)⟩ := by
  refine becomes_of_rows hX (g := fun l j v => if j = col.toNat then accwrCell c a x X.int l else v) (b := fun l y => y || c.psn a (if x = 2 then 2 else 1) l)
    (fun t l ht hi => ?_) rfl (fun r j _ => ?_) (fun r => ?_)
  · simp only [hi]
    exact (AccTile.rowChanged_set ht l col.isLt (accwrCell_lt ..)).orPsn _
  · dsimp only
    rw [accwrCell_eq hsrc]
    by_cases hr : c.act.getLsbD r = true <;> simp only [hr, true_and, false_and, if_true, if_false, Bool.false_eq_true]
  · by_cases hr : c.act.getLsbD r = true <;> simp [hr]

theorem accTag_eq (x : BitVec 4) : accTag x.toNat = if x = 0 then some false else if x = 1 then some true else none := by
  have h0 : x.toNat = 0 ↔ x = 0 := ⟨fun h => BitVec.eq_of_toNat_eq h, fun h => by rw [h]; rfl⟩
  have h1 : x.toNat = 1 ↔ x = 1 := ⟨fun h => BitVec.eq_of_toNat_eq h, fun h => by rw [h]; rfl⟩
  simp only [accTag, h0, h1]

theorem exec_accwr (a : VReg) (acc col : BitVec 6) (x : BitVec 4) (s : State) :
    exec (.accwr a acc col x) s = accOp (.accwr a acc col x) acc.toNat (accTag x.toNat) (fun c t => accPut c acc.toNat (writeTile c a col x t)) s := rfl

theorem accwr_settled {a : VReg} {acc col : BitVec 6} {x : BitVec 4} (hwf : (Instr.accwr a acc col x).wf = true) (h : Issues (.accwr a acc col x) s u p) (hl : s.legal = true)
    (hw : accWant (ctxOf (.accwr a acc col x) s u p) (theAcc s u.core) (.accwr a acc col x) = some w) : AccSettled (.accwr a acc col x) s u p w := by
  obtain rfl := Option.some.inj hw
  have hsrc : x = 2 → srcOk a 2 = true := by
    rintro rfl
    obtain ⟨hfields, -⟩ := Bool.and_eq_true_iff.1 hwf
    exact (Bool.and_eq_true_iff.1 hfields).2
  have hex := exec_accwr a acc col x s
  rw [accTag_eq] at hex
  exact accSettled h (f := fun c t => writeTile c a col x t) hex fun _ => writeTile_becomes (Legal.theAcc hl ..) hsrc

end

end Sys2Proof.Machine
end

section
namespace Sys2Proof.Machine
open Sys2Proof Sys2Proof.Claims

set_option Elab.async false

/-! ## ROWMAX and ROWSUM (R277) -/

theorem rowOf_eq_row (X : AccTile) (l : Nat) : rowOf X l = X.row l := rfl

theorem AccTile.row_eq_cons (X : AccTile) (l : Nat) : ∃ r, X.row l = cellOf X l 0 :: r := ⟨_, rfl⟩

theorem AccTile.row_lt (X : AccTile) (l : Nat) : ∀ x ∈ X.row l, x < 2 ^ 48 := by
  intro x hx
  obtain ⟨j, -, rfl⟩ := List.mem_map.1 hx
  exact X.cell_lt l j

theorem rowMax_row (X : AccTile) (l : Nat) :
    rowMax X.int (X.row l) = if X.int then clamp32 ((rowOf X l).map (intOf 48) |>.foldl max (intOf 48 (cellOf X l 0))) else maxRow (rowOf X l) := by
  obtain ⟨r, hr⟩ := X.row_eq_cons l
  have hlt := X.row_lt l
  rw [rowOf_eq_row, hr] at *
  cases X.int
  · exact rowMax_float hlt
  · exact rowMax_int ..

theorem rowSum_row (X : AccTile) (l : Nat) : rowSum X.int (X.row l) = if X.int then clamp32 (((rowOf X l).map (intOf 48)).sum) else sumRow (rowOf X l) := by
  obtain ⟨r, hr⟩ := X.row_eq_cons l
  rw [rowOf_eq_row, hr]
  cases X.int
  · exact rowSum_float ..
  · exact rowSum_int _

/-- A unit that writes one register of each lane that executes. -/
theorem unit_writeLanes {i : Instr} {s : State} {u : Cur} {p : Pack} (h : Issues i s u p) {body : Ctx → Res} (hex : exec i s = runUnit i (instrUses i) body s) {d kind : Nat} {m : Word}
    {v : Nat → VCell} (hb : body (ctxOf i s u p) = { s := s.updPack u.core u.slot (fun p => (lanesOf m).foldl (fun p l => p.writeV u.depth d l (v l)) p), kind := kind }) :
    ∃ t q, exec i s = .next t ∧ RegUnit (ctxOf i s u p) s t u p q u.ig ∧ CellsAre p q u.depth d 1 (fun l _ => if m.getLsbD l then some (v l) else none) ∧ OtherFrames p q u.depth ∧
      q.s = p.s ∧ q.m = p.m ∧ q.fpc = p.fpc ∧ q.pending = withTraps p.pending s u (ctxOf i s u p).tagged := by
  have hfo : FrameOnly u.depth p ((lanesOf m).foldl (fun p l => p.writeV u.depth d l (v l)) p) := FrameOnly.foldl (fun p l => FrameOnly.writeV ..) _ _
  have hcell : ∀ r l, l < 32 → (((lanesOf m).foldl (fun p l => p.writeV u.depth d l (v l)) p).frameAt u.depth).cell r l =
      if l ∈ lanesOf m then (if r = d then v l else (p.frameAt u.depth).cell r l) else (p.frameAt u.depth).cell r l := by
    intro r l hl
    refine cell_foldl_lanes (fun p l => p.writeV u.depth d l (v l)) (fun l r old => if r = d then v l else old) (fun p r l hl => ?_) (fun p r l j hl hj hne => ?_) _ (nodup_lanesOf m)
      (fun l hl => ?_) p hl
    · rw [Pack.cell_writeV p u.depth _ hl hl]
      simp
    · rw [Pack.cell_writeV p u.depth _ hl hj]
      simp [hne]
    · rw [lanesOf, List.mem_filter] at hl
      exact List.mem_range.1 hl.1
  obtain ⟨heq, -, -, hoth⟩ := hfo
  obtain ⟨t, q, he, hreg, h1, h2, h3, h4, hpend, hc, hrec⟩ := unit_reg h body hb rfl rfl rfl (by rw [heq])
  have hall : u.ig &&& ~~~(0 : Word) = u.ig := BitVec.and_allOnes
  dsimp only at h1 h2 h3 h4 hc hrec hpend
  generalize (lanesOf m).foldl (fun p l => p.writeV u.depth d l (v l)) p = g at heq hcell hoth h1 h2 h3 h4 hc hrec
  refine ⟨t, q, hex.trans he, hall ▸ hreg, fun l hl r => ?_, ⟨fun e => ⟨(hoth.1 e).1.trans (hrec e).1, fun r l hl hx => ?_⟩, fun hh => ?_⟩, ?_, ?_, ?_, ?_⟩
  · rw [hc, hcell r l hl]
    have hd : (d ≤ r ∧ r < d + 1) ↔ r = d := by omega
    simp only [hd, mem_lanesOf]
    by_cases hm : m.getLsbD l = true <;> by_cases hr : r = d <;> simp [hm, hr]
  · rw [(hrec e).2, (hoth.1 e).2 r l hl hx]
  · rw [h4, hoth.2 hh]
  · rw [h1, heq]
  · rw [h2, heq]
  · rw [h3, heq]
  · rw [hpend, List.append_nil]

/-- What O33 says of one instruction that reads rows into a register. -/
theorem rowRead_settled {i : Instr} {s : State} {u : Cur} {p : Pack} (h : Issues i s u p) {d : VReg} {a : Nat} {f : Bool → List Nat → Nat} {v : Nat → VCell}
    (hex : exec i s = accOp i a none (fun c t => rowRead c d t f) s)
    (hv : ∀ l, v l = { val := BitVec.ofNat 32 (f (theAcc s u.core a).int ((theAcc s u.core a).row l)), psn := (theAcc s u.core a).pmask.getLsbD l }) :
    (¬AccFree s u.core a false → Stalls i s u p 6) ∧
    (AccFree s u.core a false → ∃ t q, exec i s = .next t ∧ RegUnit (ctxOf i s u p) s t u p q u.ig ∧
      CellsAre p q u.depth d.toNat 1 (fun l _ => if (ctxOf i s u p).act.getLsbD l then some (v l) else none) ∧ OtherFrames p q u.depth ∧
      q.s = p.s ∧ q.m = p.m ∧ q.fpc = p.fpc ∧ q.pending = withTraps p.pending s u (ctxOf i s u p).tagged) := by
  obtain ⟨body, hrun, hbody⟩ := accOp_body (i := i) (a := a) (tag := none) (eff := fun c t => rowRead c d t f) (s := s)
  obtain ⟨hstall, -, hgo⟩ := hbody (ctxOf i s u p)
  refine ⟨fun hb => unit_stalls h (hex.trans hrun) (hstall hb), fun hf => ?_⟩
  obtain rfl : v = _ := funext hv
  exact unit_writeLanes h (hex.trans hrun) (hgo hf (.inl rfl))

/-- Settles O33: each instruction that computes its tile by its rows, changed lane by lane; ROWMAX and ROWSUM by what they read. -/
theorem accumulatorRowsAreComputed : Obligations.AccumulatorRowsAreComputed := by
  unfold Obligations.AccumulatorRowsAreComputed
  intro i s u p hwf hl h
  refine ⟨fun w hw => ?_, fun d a f hf => ?_⟩
  · show AccSettled i s u p w
    unfold accWant at hw
    split at hw
    · exact accz_settled h hw
    · exact accwr_settled hwf h hl hw
    · exact accopScale_settled h hl hw
    · exact accopAddrow_settled h hl hw
    · exact accopExps_settled h hl hw
    · exact accopMaskc_settled h hl hw
    · cases hw
  · unfold rowWant at hf
    split at hf
    · cases hf
      exact rowRead_settled h rfl fun l => by rw [rowMax_row]
    · cases hf
      exact rowRead_settled h rfl fun l => by rw [rowSum_row]
    · cases hf

end Sys2Proof.Machine
end

section
namespace Sys2Proof.Machine
open Sys2Proof Sys2Proof.Claims

set_option Elab.async false

/-! ## Bytes of numbers and of tables -/

@[simp] theorem length_leBytes (n v : Nat) : (leBytes n v).length = n := by simp [leBytes]

theorem getD_leBytes {n k : Nat} (v : Nat) (h : k < n) : (leBytes n v).getD k 0 = BitVec.ofNat 8 (v / 256 ^ k) := by
  simp [leBytes, List.getD_eq_getElem?_getD, h]

theorem leNat_lt (bs : List Byte) : leNat bs < 256 ^ bs.length := by
  induction bs with
  | nil => exact Nat.one_pos
  | cons b r ih =>
    have hb := b.isLt
    rw [leNat, List.length_cons, pow_succ]
    omega

/-- Bit i of a little-endian number is bit i mod 8 of its byte i / 8. -/
theorem testBit_leNat (bs : List Byte) (i : Nat) : (leNat bs).testBit i = (bs.getD (i / 8) 0).getLsbD (i % 8) := by
  induction bs generalizing i with
  | nil => simp [leNat]
  | cons b r ih =>
    have hb : b.toNat < 2 ^ 8 := b.isLt
    rw [leNat, Nat.add_comm, show (256 : Nat) = 2 ^ 8 from rfl, Nat.testBit_two_pow_mul_add _ hb]
    split
    · rename_i h
      rw [Nat.div_eq_of_lt h, Nat.mod_eq_of_lt h]
      rfl
    · rename_i h
      rw [ih, show i / 8 = (i - 8) / 8 + 1 by omega, List.getD_cons_succ, show (i - 8) % 8 = i % 8 by omega]

/-- The table of a function by rows of one length. -/
theorem length_flatMap_rows {α : Type} (n : Nat) {m : Nat} {f : Nat → List α} (hf : ∀ i, (f i).length = m) : ((List.range n).flatMap f).length = n * m := by
  simp [List.length_flatMap, hf]

theorem getD_flatMap_rows {α : Type} {n m o : Nat} {f : Nat → List α} (hf : ∀ i, (f i).length = m) (ho : o < n * m) (d : α) :
    ((List.range n).flatMap f).getD o d = (f (o / m)).getD (o % m) d := by
  induction n with
  | zero => omega
  | succ n ih =>
    have hlen := length_flatMap_rows n hf
    rw [List.range_succ, List.flatMap_append]
    by_cases h : o < n * m
    · rw [List.getD_append _ _ _ _ (by rw [hlen]; exact h), ih h]
    · have hm : 0 < m := Nat.pos_of_ne_zero fun h0 => by simp [h0] at ho
      have hdiv : o / m = n := by
        rw [Nat.div_eq_iff hm]
        rw [Nat.succ_mul] at ho
        omega
      have hmod : o - n * m = o % m := by
        have := Nat.div_add_mod' o m
        rw [hdiv] at this
        omega
      rw [List.getD_append_right _ _ _ _ (by omega), hlen, hmod, hdiv]
      simp

/-! ## Bytes of a core's scratchpad -/

/-- Bytes stored one after the other. -/
theorem foldl_setCanon_read (base : Nat) (bs : List Byte) (k : Nat) {m : FMap Byte} (h : Memory.wf m = true) (o : Nat) :
    (((bs.zipIdx k).foldl (fun m x => setCanon m (base + x.2) x.1) m).find o).getD 0 =
      if base + k ≤ o ∧ o < base + k + bs.length then bs.getD (o - (base + k)) 0 else (m.find o).getD 0 := by
  induction bs generalizing k m with
  | nil => simp
  | cons b r ih =>
    rw [List.zipIdx_cons, List.foldl_cons, ih (k + 1) (setCanon_wf _ _ _ h), setCanon_read _ _ _ _ h, List.length_cons]
    by_cases ho : o = base + k
    · subst ho
      simp
    · by_cases hin : base + (k + 1) ≤ o ∧ o < base + (k + 1) + r.length
      · rw [if_pos hin, if_pos (by omega), show o - (base + k) = o - (base + (k + 1)) + 1 by omega, List.getD_cons_succ]
      · rw [if_neg hin, if_neg ho, if_neg (by omega)]

theorem State.updCore_updCore (s : State) (c : Nat) (f g : Core → Core) : (s.updCore c f).updCore c g = s.updCore c (fun k => g (f k)) := by
  simp only [State.updCore, FMap.upd_upd]

theorem State.spadTouch_clean {s : State} {c off : Nat} (h : s.latent.has (spadLatent c off) = false) : s.spadTouch c off = s := by
  unfold State.spadTouch
  simp [h]

/-- Bytes stored where no block hides an error (log 20): the scratchpad alone changes. -/
theorem foldl_setSpad (c base : Nat) (bs : List Byte) (k : Nat) {s : State} (h : ∀ j, k ≤ j → j < k + bs.length → s.latent.has (spadLatent c (base + j)) = false) :
    (bs.zipIdx k).foldl (fun s x => (s.spadTouch c (base + x.2)).setSpad c (base + x.2) x.1 false) s =
      s.updCore c (fun q => { q with spad := (bs.zipIdx k).foldl (fun m x => setCanon m (base + x.2) x.1) q.spad }) := by
  induction bs generalizing k s with
  | nil =>
    have hid : ∀ m : FMap Core, m.upd c (fun q => q) = m := by
      intro m
      induction m with
      | nil => rfl
      | cons x r ih =>
        obtain ⟨n, v⟩ := x
        simp only [FMap.upd, ih, ite_self]
    show s = { s with cores := s.cores.upd c (fun q => q) }
    rw [hid]
  | cons b r ih =>
    simp only [List.zipIdx_cons, List.foldl_cons]
    rw [State.spadTouch_clean (h k le_rfl (by simp)),
      ih (k + 1) (s := s.setSpad c (base + k) b false) (fun j h1 h2 => h j (by omega) (by rw [List.length_cons]; omega)), State.setSpad, State.updCore_updCore]
    rfl

/-- From s to t core c's scratchpad bytes from `base` on have become those of a list, and nothing else has changed. -/
structure SpadPut (s t : State) (c base : Nat) (bs : List Byte) : Prop where
  rest : t = { s with cores := t.cores }
  core : ∀ j, t.core j = { s.core j with spad := (t.core j).spad }
  byte : ∀ j o, t.spadByte j o = if j = c ∧ base ≤ o ∧ o < base + bs.length then bs.getD (o - base) 0 else s.spadByte j o

theorem tilePut_spec {c : Ctx} {base : Nat} {bs : List Byte} (hl : c.s.legal = true) (hc : (c.s.cores.find c.u.core).isSome = true)
    (h : ∀ k, k < bs.length → c.s.latent.has (spadLatent c.u.core (base + k)) = false) : SpadPut c.s (tilePut c base bs) c.u.core base bs := by
  have he : tilePut c base bs = _ := foldl_setSpad c.u.core base bs 0 (fun j _ hj => h j (by omega))
  have hself : (tilePut c base bs).core c.u.core = _ := he ▸ State.core_updCore_self c.s _ _ hc
  have hne : ∀ j, j ≠ c.u.core → (tilePut c base bs).core j = c.s.core j := fun j hj => he ▸ State.core_updCore_ne c.s _ hj
  refine ⟨by rw [he]; rfl, fun j => ?_, fun j o => ?_⟩
  · by_cases hj : j = c.u.core
    · rw [hj, hself]
    · rw [hne j hj]
  · unfold State.spadByte
    by_cases hj : j = c.u.core
    · rw [hj, hself]
      have hread := foldl_setCanon_read base bs 0 (((legal_iff c.s).1 hl).core c.u.core).spad o
      simpa using hread
    · rw [hne j hj, if_neg (fun h => hj h.1)]

theorem tileTouch_clean {s : State} {c base n : Nat} (h : ∀ k, k < n → s.latent.has (spadLatent c (base + k)) = false) : tileTouch s c base n = s := by
  unfold tileTouch
  have hk : ∀ k ∈ List.range ((n + 63) / 64), 64 * k < n := by
    intro k hk
    rw [List.mem_range] at hk
    omega
  generalize List.range ((n + 63) / 64) = ks at hk
  induction ks with
  | nil => rfl
  | cons k r ih =>
    rw [List.foldl_cons, State.spadTouch_clean (h _ (hk k List.mem_cons_self))]
    exact ih fun x hx => hk x (List.mem_cons_of_mem _ hx)

end Sys2Proof.Machine
end

section
namespace Sys2Proof.Machine
open Sys2Proof Sys2Proof.Claims

set_option Elab.async false

/-! ## The bytes that ACCMV writes (R279, R280) -/

theorem mvSize_eq (et : BitVec 3) : mvSize et.toNat = if et = 0 then 4 else if et.toNat ≤ 2 then 2 else 1 := by
  revert et
  decide

theorem fpCode_eq_etFmt {et : Nat} (h : et ≤ 4) : fpCode et = etFmt et := by
  interval_cases et <;> rfl

theorem etFmt_sound (et : Nat) : (etFmt et).Sound := by
  unfold etFmt
  split
  · exact f32_sound
  · split
    · exact f16_sound
    · split
      · exact bf16_sound
      · split
        · exact e4m3_sound
        · exact e5m2_sound

/-- The cells of a tile row by row, each as z bytes of what conv makes of it. -/
def cellBytes (X : AccTile) (z : Nat) (conv : Nat → Nat) : List Byte := (List.range 32).flatMap (fun i => (X.row i).flatMap (fun v => leBytes z (conv v)))

theorem rowBytes_length (X : AccTile) (z : Nat) (conv : Nat → Nat) (i : Nat) : ((X.row i).flatMap (fun v => leBytes z (conv v))).length = 64 * z := by
  rw [AccTile.row, List.flatMap_map]
  exact length_flatMap_rows 64 fun _ => length_leBytes ..

theorem cellBytes_length (X : AccTile) (z : Nat) (conv : Nat → Nat) : (cellBytes X z conv).length = 2048 * z := by
  rw [cellBytes, length_flatMap_rows 32 (rowBytes_length X z conv)]
  omega

theorem cellBytes_getD (X : AccTile) {z : Nat} (conv : Nat → Nat) {n : Nat} (h : n < 2048 * z) :
    (cellBytes X z conv).getD n 0 = BitVec.ofNat 8 (conv (cellOf X (n / z / 64) (n / z % 64)) / 256 ^ (n % z)) := by
  have hz : 0 < z := Nat.pos_of_ne_zero fun h0 => by simp [h0] at h
  have hrow : n % (64 * z) < 64 * z := Nat.mod_lt _ (by omega)
  rw [cellBytes, getD_flatMap_rows (rowBytes_length X z conv) (by omega), AccTile.row, List.flatMap_map,
    getD_flatMap_rows (fun j => length_leBytes z (conv (X.cell (n / (64 * z)) j))) hrow, getD_leBytes _ (Nat.mod_lt _ hz), Nat.mul_comm 64 z,
    Nat.mod_mul_right_div_self, Nat.mod_mul_right_mod, ← Nat.div_div_eq_div_mul]
  rfl

/-! ## The tile that ACCMV reads -/

theorem wordAt_sum (s : State) (core base off z : Nat) :
    leNat (tileGet s core base off z).1 = ((List.range z).map (fun k => (s.spadByte core (base + (off + k))).toNat * 256 ^ k)).sum := by
  rw [leNat_eq_sum]
  simp only [tileGet, List.length_map, List.length_range]
  congr 1
  refine List.map_congr_left fun k hk => ?_
  rw [List.mem_range] at hk
  simp [List.getD_eq_getElem?_getD, hk, Nat.add_assoc]

/-- A tile read by rows, each by the tag of the tile, which no row changes. -/
theorem foldl_readRows {X : AccTile} (hX : TileLegal X) {g : Bool → Nat → Nat → Nat} (hg : ∀ b i j, g b i j < 2 ^ 48) (b : Nat → Bool) :
    let Y := (List.range 32).foldl (fun x i => (x.mapRow i (fun j _ => g x.int i j)).setPsn i (b i)) X
    Y.int = X.int ∧ ∀ r, r < 32 → Y.pmask.getLsbD r = b r ∧ ∀ j, j < 64 → cellOf Y r j = g X.int r j := by
  obtain ⟨-, hi, hc, hp⟩ := foldl_rowChanged (List.nodup_range (n := 32)) (step := fun x i => (x.mapRow i (fun j _ => g x.int i j)).setPsn i (b i)) (g := fun i j _ => g X.int i j) (b := fun i _ => b i)
    (fun t l ht hint => by
      rw [hint]
      exact (AccTile.rowChanged_mapRow ht l fun j _ _ => hg X.int l j).setPsn (b l)) hX rfl
  refine ⟨hi, fun r hr => ⟨?_, fun j hj => ?_⟩⟩
  · rw [hp r hr, if_pos (List.mem_range.2 hr)]
  · rw [cellOf_eq_cell, hc r j hj, if_pos (List.mem_range.2 hr)]

/-- What FROMTILE makes of a tile's bytes (R279). -/
def fromTile (s : State) (core base et : Nat) (X : AccTile) : AccTile :=
  (List.range 32).foldl (fun x i =>
    let x := x.mapRow i (fun j _ =>
      let v := leNat (tileGet s core base ((64 * i + j) * mvSize et) (mvSize et)).1
      if x.int then wrapTo 48 (sgn 32 v) else toA48 (fpCode et) v)
    x.setPsn i (tileGet s core base (64 * i * mvSize et) (64 * mvSize et)).2) X

/-- The tag, the cells and the poisoned rows of Y are those of a rule. -/
def Reads (Y : AccTile) (r : Bool × (Nat → Nat → Nat) × (Nat → Bool)) : Prop :=
  Y.int = r.1 ∧ ∀ y, y < 32 → Y.pmask.getLsbD y = r.2.2 y ∧ ∀ j, j < 64 → cellOf Y y j = r.2.1 y j

theorem accIn_fromtile (X : AccTile) (b : Nat → Byte) (ps : Nat → Bool) (tl : BitVec 8) (acc : BitVec 6) (et : BitVec 3) :
    accIn X b ps (.accmvFromtile tl acc et) =
      (X.int, fun r j =>
        let v := ((List.range (mvSize et.toNat)).map (fun k => (b ((64 * r + j) * mvSize et.toNat + k)).toNat * 256 ^ k)).sum
        if X.int then (BitVec.ofInt 48 (intOf 32 v)).toNat else toAcc (etFmt et.toNat) v,
      fun r => (List.range (64 * mvSize et.toNat)).any (fun k => ps (64 * mvSize et.toNat * r + k))) := by
  simp only [accIn, mvSize_eq]

theorem fromTile_reads {s : State} {core base : Nat} {tl : BitVec 8} {acc : BitVec 6} {et : BitVec 3} {X : AccTile} (hX : TileLegal X) (het : et.toNat ≤ 4) :
    Reads (fromTile s core base et.toNat X) (accIn X (fun k => s.spadByte core (base + k)) (fun k => s.spadPoisoned core (base + k)) (.accmvFromtile tl acc et)) := by
  have hf := fpCode_eq_etFmt het
  obtain ⟨hi, hr⟩ := foldl_readRows hX
    (g := fun b i j => if b then wrapTo 48 (sgn 32 (leNat (tileGet s core base ((64 * i + j) * mvSize et.toNat) (mvSize et.toNat)).1))
      else toA48 (fpCode et.toNat) (leNat (tileGet s core base ((64 * i + j) * mvSize et.toNat) (mvSize et.toNat)).1))
    (fun b i j => by
      split
      · exact wrapTo_lt ..
      · rw [hf]
        exact toA48_lt (etFmt_sound _) _)
    (fun i => (tileGet s core base (64 * i * mvSize et.toNat) (64 * mvSize et.toNat)).2)
  rw [accIn_fromtile]
  refine ⟨hi, fun y hy => ⟨(hr y hy).1.trans ?_, fun j hj => ((hr y hy).2 j hj).trans ?_⟩⟩
  · have hoff : ∀ k, base + 64 * y * mvSize et.toNat + k = base + (64 * mvSize et.toNat * y + k) := fun k => by ring
    simp only [tileGet, hoff]
  · simp only [wordAt_sum, hf, toA48_eq (etFmt_sound _), wrapTo_eq, sgn_eq_intOf (w := 32) (by decide)]

/-! ### LOAD -/

theorem take_drop_table {α : Type} (f : Nat → α) {n a m : Nat} (h : a + m ≤ n) : (((List.range n).map f).drop a).take m = (List.range m).map (fun k => f (a + k)) := by
  refine List.ext_getElem (by simp; omega) fun k h1 h2 => ?_
  simp

theorem drop_table {α : Type} (f : Nat → α) {n a : Nat} : ((List.range n).map f).drop a = (List.range (n - a)).map (fun k => f (a + k)) := by
  refine List.ext_getElem (by simp) fun k h1 h2 => ?_
  simp

theorem leNat_table (b : Nat → Byte) (m : Nat) : leNat ((List.range m).map b) = ((List.range m).map (fun k => (b k).toNat * 256 ^ k)).sum := by
  rw [leNat_eq_sum, List.length_map, List.length_range]
  congr 1
  refine List.map_congr_left fun k hk => ?_
  rw [List.mem_range] at hk
  simp [List.getD_eq_getElem?_getD, hk]

/-- A bit of a table of bytes. -/
theorem testBit_leNat_table (b : Nat → Byte) {m i : Nat} (h : i < 8 * m) : (leNat ((List.range m).map b)).testBit i = (b (i / 8)).getLsbD (i % 8) := by
  have hi : i / 8 < m := by omega
  rw [testBit_leNat]
  simp [List.getD_eq_getElem?_getD, hi]

theorem accLoad_reads (X : AccTile) (b : Nat → Byte) (ps : Nat → Bool) (tl : BitVec 8) (acc : BitVec 6) :
    Reads (accLoad ((List.range 12352).map b) ((List.range 12352).map ps)) (accIn X b ps (.accmvLoad tl acc)) := by
  have htab : ∀ i j, i < 32 → j < 64 → ((((List.range 12352).map b).drop (384 * i + 6 * j)).take 6) = (List.range 6).map (fun k => b (384 * i + 6 * j + k)) :=
    fun i j hi hj => take_drop_table b (by omega)
  have hlt : ∀ i j, leNat ((((List.range 12352).map b).drop (384 * i + 6 * j)).take 6) < 2 ^ 48 := by
    intro i j
    refine (leNat_lt _).trans_le ?_
    calc 256 ^ _ ≤ 256 ^ 6 := Nat.pow_le_pow_right (by decide) (List.length_take_le ..)
      _ = 2 ^ 48 := by norm_num
  obtain ⟨hi, hr⟩ := foldl_readRows (TileLegal.empty (b := bit (leNat ((((List.range 12352).map b).drop 12292).take 1)) 0))
    (g := fun _ i j => leNat ((((List.range 12352).map b).drop (384 * i + 6 * j)).take 6)) (fun _ => hlt)
    (fun i => Word.lane (BitVec.ofNat 32 (leNat ((((List.range 12352).map b).drop 12288).take 4))) i || ((((List.range 12352).map ps).drop (384 * i)).take 384).any id ||
      (((List.range 12352).map ps).drop 12288).any id)
  refine ⟨hi.trans ?_, fun y hy => ⟨(hr y hy).1.trans ?_, fun j hj => ((hr y hy).2 j hj).trans ?_⟩⟩
  · have hbit : ∀ v, bit v 0 = v.testBit 0 := fun v => by rw [Nat.testBit_eq_decide_div_mod_eq]; rfl
    rw [take_drop_table b (by decide), hbit, testBit_leNat_table _ (by decide)]
    rfl
  · rw [take_drop_table b (by decide), take_drop_table ps (by omega), drop_table]
    simp only [lane_eq_getLsbD, BitVec.getLsbD_ofNat, hy, decide_true, Bool.true_and, List.any_map]
    rw [testBit_leNat_table _ (by omega)]
    rfl
  · rw [htab y j hy hj, leNat_table]
    rfl

end Sys2Proof.Machine
end

section
namespace Sys2Proof.Machine
open Sys2Proof Sys2Proof.Claims

set_option Elab.async false

/-! ## ACCMV's forms -/

/-- An ACCMV: its operands, and what it does to the tile's bytes when nothing holds it back. -/
structure Moves (i : Instr) (tl a n : Nat) (wr : Bool) (tag : Option Bool) (eff : Ctx → AccTile → Nat → State) : Prop where
  exec : ∀ s, exec i s = accmv i tl a n wr tag eff s
  token : (usesOf i).la.isSome = true
  writes : wr = true → ∀ c X base, ∃ bs, eff c X base = tilePut c base bs ∧ bs.length = n ∧ ∀ k, k < n → bs.getD k 0 = accOut X i k
  reads : wr = false → ∀ c X base, TileLegal X → (∀ k, k < n → c.s.latent.has (spadLatent c.u.core (base + k)) = false) →
    ∃ Y, eff c X base = c.s.setAcc c.u.core a Y ∧ Reads Y (accIn X (fun k => c.s.spadByte c.u.core (base + k)) (fun k => c.s.spadPoisoned c.u.core (base + k)) i)

/-- A cell as an element of a format (R279). -/
def elemOf (et : Nat) (int : Bool) (v : Nat) : Nat := if int then clampI32 (sgn 48 v) else a48To (fpCode et) (decide (3 ≤ et)) v

theorem moves_totile {t : BitVec 8} {acc : BitVec 6} {et : BitVec 3} (het : et.toNat ≤ 4) :
    Moves (.accmvTotile t acc et) t.toNat acc.toNat (2048 * mvSize et.toNat) true (if et = 0 then none else some false)
      (fun c x base => tilePut c base (cellBytes x (mvSize et.toNat) (elemOf et.toNat x.int))) := by
  refine ⟨fun s => rfl, rfl, fun _ c X base => ⟨_, rfl, cellBytes_length .., fun k hk => ?_⟩, nofun⟩
  rw [cellBytes_getD X _ hk]
  simp only [accOut, ← mvSize_eq, elemOf, clampI32_eq, sgn_eq_intOf (w := 48) (by decide), fpCode_eq_etFmt het, a48To_eq (etFmt_sound _)]

/-- The save layout behind the cells (R280): no poison, the tag, zeros. -/
def saveTrailer (int : Bool) : List Byte := leBytes 4 0 ++ ([BitVec.ofNat 8 (b2n int)] ++ List.replicate 59 0)

theorem saveTrailer_getD : ∀ int : Bool, ∀ m, m < 64 → (saveTrailer int).getD m 0 = if m = 4 ∧ int = true then 1 else 0 := by decide

theorem saveBytes_eq (X : AccTile) : X.saveBytes 0 = cellBytes X 6 id ++ saveTrailer X.int := by
  rw [saveTrailer, ← List.append_assoc, ← List.append_assoc]
  rfl

theorem saveBytes_length (X : AccTile) : (X.saveBytes 0).length = 12352 := by
  rw [saveBytes_eq, List.length_append, cellBytes_length]
  rfl

theorem saveBytes_getD (X : AccTile) {t : BitVec 8} {acc : BitVec 6} {k : Nat} (hk : k < 12352) : (X.saveBytes 0).getD k 0 = accOut X (.accmvSave t acc) k := by
  have hlen : (cellBytes X 6 id).length = 12288 := cellBytes_length ..
  rw [saveBytes_eq]
  show _ = if k < 12288 then BitVec.ofNat 8 (cellOf X (k / 384) (k % 384 / 6) / 256 ^ (k % 6)) else if k = 12292 ∧ X.int then 1 else 0
  split
  · rename_i h
    rw [List.getD_append _ _ _ _ (by omega), cellBytes_getD X id h, show k / 6 / 64 = k / 384 by omega, show k / 6 % 64 = k % 384 / 6 by omega, id]
  · rw [List.getD_append_right _ _ _ _ (by omega), hlen, saveTrailer_getD _ _ (by omega)]
    exact if_congr (and_congr_left' (by omega)) rfl rfl

theorem moves_save {t : BitVec 8} {acc : BitVec 6} : Moves (.accmvSave t acc) t.toNat acc.toNat 12352 true none (fun c x base => tilePut c base (x.saveBytes 0)) :=
  ⟨fun _ => rfl, rfl, fun _ _ X _ => ⟨_, rfl, saveBytes_length X, fun _ hk => saveBytes_getD X hk⟩, nofun⟩

theorem moves_fromtile {t : BitVec 8} {acc : BitVec 6} {et : BitVec 3} (het : et.toNat ≤ 4) :
    Moves (.accmvFromtile t acc et) t.toNat acc.toNat (2048 * mvSize et.toNat) false (if et = 0 then none else some false)
      (fun c x base => let s := tileTouch c.s c.u.core base (2048 * mvSize et.toNat); s.setAcc c.u.core acc.toNat (fromTile s c.u.core base et.toNat x)) := by
  refine ⟨fun s => rfl, rfl, nofun, fun _ c X base hX hlat => ⟨fromTile c.s c.u.core base et.toNat X, ?_, fromTile_reads hX het⟩⟩
  dsimp only
  rw [tileTouch_clean hlat]

theorem moves_load {t : BitVec 8} {acc : BitVec 6} :
    Moves (.accmvLoad t acc) t.toNat acc.toNat 12352 false none (fun c _ base =>
      let s := tileTouch c.s c.u.core base 12352
      s.setAcc c.u.core acc.toNat (accLoad ((List.range 12352).map (fun i => s.spadByte c.u.core (base + i))) ((List.range 12352).map (fun i => s.spadPoisoned c.u.core (base + i))))) := by
  refine ⟨fun s => rfl, rfl, nofun, fun _ c X base hX hlat => ⟨_, ?_, accLoad_reads X (fun k => c.s.spadByte c.u.core (base + k)) (fun k => c.s.spadPoisoned c.u.core (base + k)) t acc⟩⟩
  dsimp only
  rw [tileTouch_clean hlat]

/-- Every ACCMV is one of these. -/
theorem moves_of_parts {i : Instr} {tl a n : Nat} {wr : Bool} {tag : Option Bool} (h : accmvParts i = some (tl, a, n, wr, tag)) (hwf : i.wf = true) : ∃ eff, Moves i tl a n wr tag eff := by
  have het : ∀ {acc : BitVec 6} {et : BitVec 3} {c : Bool}, ((decide (acc.toNat ≤ 47) && decide (et.toNat ≤ 4)) && c) = true → et.toNat ≤ 4 := by
    intro acc et c h
    simp only [Bool.and_eq_true, decide_eq_true_eq] at h
    exact h.1.2
  unfold accmvParts at h
  split at h
  · simp only [← mvSize_eq] at h
    cases h
    exact ⟨_, moves_totile (het hwf)⟩
  · simp only [← mvSize_eq] at h
    cases h
    exact ⟨_, moves_fromtile (het hwf)⟩
  · cases h
    exact ⟨_, moves_save⟩
  · cases h
    exact ⟨_, moves_load⟩
  · cases h

end Sys2Proof.Machine
end

section
namespace Sys2Proof.Machine
open Sys2Proof Sys2Proof.Claims

set_option Elab.async false

/-! ## The tests of ACCMV in their order (R279) -/

/-- The rows of a pair's lanes hold the same (R419). -/
def PairsAlike (c : Ctx) (X : AccTile) : Prop := c.q.paired = true → ∀ r j, r < 16 → j < 64 → cellOf X r j = cellOf X (r + 16) j

/-- May the tile be written, or read, now (R168)? -/
def gateOpen (wr : Bool) (x : Tile) : Bool := if wr then x.st == .empty else readerOk x

theorem rowsDiffer_nil {c : Ctx} {X : AccTile} (h : PairsAlike c X) : (lanesOf (c.ig &&& 0xFFFF)).filterMap (fun l => rowsDiffer c X l (List.range 64)) = [] := by
  rw [List.filterMap_eq_nil_iff]
  intro l hl
  have hl16 : l < 16 := by
    rw [mem_lanesOf, show (0xFFFF : Word) = BitVec.ofNat 32 (2 ^ 16 - 1) from rfl, BitVec.getLsbD_and, BitVec.getLsbD_ofNat, Nat.testBit_two_pow_sub_one] at hl
    simp only [Bool.and_eq_true, decide_eq_true_eq] at hl
    exact hl.2.2
  unfold rowsDiffer
  split
  · rename_i hp
    rw [Option.map_eq_none_iff, List.find?_eq_none]
    intro j hj
    have := h hp l j hl16 (List.mem_range.1 hj)
    rw [cellOf_eq_cell, cellOf_eq_cell] at this
    simp [this]
  · rfl

/-- The tile an ACCMV names has its tag (R269). -/
abbrev TagOk (tag : Option Bool) (X : AccTile) : Prop := tag = none ∨ tag = some X.int

/-- Has the tile another tag than the one asked for? -/
def tagFails (tag : Option Bool) (X : AccTile) : Bool :=
  match tag with
  | some b => X.int != b
  | none => false

theorem tagFails_iff {tag : Option Bool} {X : AccTile} : tagFails tag X = true ↔ ¬TagOk tag X := by
  cases tag with
  | none => exact iff_of_false Bool.false_ne_true (not_not.2 (.inl rfl))
  | some b => rw [tagFails, bne_iff_ne, TagOk, or_iff_right (Option.some_ne_none b), Option.some.injEq, Ne, eq_comm]

/-- What ACCMV does beside the frame of every unit: its tests in their order, then its effect. -/
theorem accmv_body {i : Instr} {tl a n : Nat} {wr : Bool} {tag : Option Bool} {eff : Ctx → AccTile → Nat → State} {s : State} :
    ∃ body, accmv i tl a n wr tag eff s = runUnit i (instrUses i) body s ∧ ∀ c : Ctx,
      (¬AccFree c.s c.u.core a false → body c = { s := c.s, stall := some 1 }) ∧
      (AccFree c.s c.u.core a false → c.q.ntiles ≤ tl → body c = tileTrap c 1 tl 0) ∧
      ∀ X x, theAcc c.s c.u.core a = X → c.s.tile (c.s.wg c.p.wg) tl = x → AccFree c.s c.u.core a false → tl < c.q.ntiles →
        (¬TagOk tag X → body c = { s := c.s, traps := groupTrap c tILLOP 1 }) ∧
        (TagOk tag X → x.size * 256 < n → body c = tileTrap c 3 tl 0) ∧
        (TagOk tag X → n ≤ x.size * 256 → wr = true → X.pmask ≠ 0 → body c = { s := c.s, traps := groupTrap c tPOISON X.pmask.toNat }) ∧
        (TagOk tag X → n ≤ x.size * 256 → (wr = true → X.pmask = 0) → PairsAlike c X →
          (gateOpen wr x = false → body c = { s := c.s, stall := some 1 }) ∧
          (gateOpen wr x = true → body c =
            { s := (eff c X ((c.s.wg c.p.wg).tileByte x)).updTile (c.s.wg c.p.wg) tl (fun x => if wr then { x with st := .filling, err := 0, psn := false } else { x with readers := x.readers + 1 }),
              kind := 3, tile := some (tl, wr) })) := by
  refine ⟨_, rfl, fun c => ⟨fun hb => ?_, fun hf hn => ?_, ?_⟩⟩
  · rw [← accBusy_eq_false, Bool.not_eq_false] at hb
    rw [if_pos hb]
  · rw [← accBusy_eq_false] at hf
    rw [hf, if_neg Bool.false_ne_true, if_pos hn]
  · rintro X x rfl rfl hf hn
    rw [← accBusy_eq_false] at hf
    rw [hf, if_neg Bool.false_ne_true, if_neg (by omega)]
    dsimp only
    have hok : TagOk tag (theAcc c.s c.u.core a) → ¬tagFails tag (theAcc c.s c.u.core a) = true := fun ht h => tagFails_iff.1 h ht
    refine ⟨fun ht => if_pos (tagFails_iff.2 ht), fun ht hs => (if_neg (hok ht)).trans (if_pos hs), fun ht hs hw hp => (if_neg (hok ht)).trans ?_, fun ht hs hp hpair => ?_⟩
    · exact (if_neg (by omega)).trans (if_pos (by rw [hw]; exact bne_iff_ne.2 hp))
    · have hdf := rowsDiffer_nil hpair
      have hpm : ¬(wr && (theAcc c.s c.u.core a).pmask != 0) = true := by
        rw [Bool.and_eq_true, bne_iff_ne]
        exact fun h => h.2 (hp h.1)
      have hgate : (if wr then (c.s.tile (c.s.wg c.p.wg) tl).st != .empty else !readerOk (c.s.tile (c.s.wg c.p.wg) tl)) = !gateOpen wr (c.s.tile (c.s.wg c.p.wg) tl) := by
        cases wr <;> rfl
      have hdown : ∀ {r e : Res}, (if (wr && !((lanesOf (c.ig &&& 0xFFFF)).filterMap (fun l => rowsDiffer c (theAcc c.s c.u.core a) l (List.range 64))).isEmpty) = true then r else e) = e := by
        intro r e
        rw [hdf]
        exact if_neg (by simp)
      refine ⟨fun hg => (if_neg (hok ht)).trans ((if_neg (by omega)).trans ((if_neg hpm).trans (hdown.trans (if_pos ?_)))),
        fun hg => (if_neg (hok ht)).trans ((if_neg (by omega)).trans ((if_neg hpm).trans (hdown.trans (if_neg ?_))))⟩
      · rw [hgate, hg]
        rfl
      · rw [hgate, hg]
        exact Bool.false_ne_true

end Sys2Proof.Machine
end

section
namespace Sys2Proof.Machine
open Sys2Proof Sys2Proof.Claims

set_option Elab.async false

/-! ## ACCMV's unit -/

/-- From s to t, of the cores only accumulator tile a and the scratchpad of core c may have changed. -/
structure AccSpadOnly (s t : State) (c a : Nat) : Prop where
  rest : t = { s with cores := t.cores }
  core : ∀ j, t.core j = { s.core j with acc := (t.core j).acc, spad := (t.core j).spad }
  acc : ∀ j b, j ≠ c ∨ b ≠ a → (t.core j).acc.find b = (s.core j).acc.find b

theorem SpadPut.only {s t : State} {c base a : Nat} {bs : List Byte} (h : SpadPut s t c base bs) : AccSpadOnly s t c a := by
  refine ⟨h.rest, fun j => ?_, fun j b _ => ?_⟩
  · rw [h.core j]
  · rw [h.core j]

theorem AccSpadOnly.setAcc {s : State} {c : Nat} (h : (s.cores.find c).isSome = true) (a : Nat) (Y : AccTile) : AccSpadOnly s (s.setAcc c a Y) c a := by
  refine ⟨rfl, fun j => ?_, fun j b hjb => ?_⟩
  · rw [State.setAcc_core h]
  · rw [State.setAcc_core h]
    split
    · rename_i hj
      exact FMap.find_ins_ne _ _ (hjb.resolve_left (fun hn => hn hj))
    · rfl

/-- A unit that moves a tile: its effect, the tile's entry and its token. -/
theorem unit_moves {i : Instr} {s : State} {u : Cur} {p : Pack} (h : Issues i s u p) {body : Ctx → Res} (hex : exec i s = runUnit i (instrUses i) body s) (hla : (usesOf i).la.isSome = true)
    {s1 : State} {w : Wg} {tl a : Nat} {wr : Bool} {f : Tile → Tile} {x : Tile} (hb : body (ctxOf i s u p) = { s := s1.updTile w tl f, kind := 3, tile := some (tl, wr) })
    (h1 : AccSpadOnly s s1 u.core a) (hx : (s.core w.core).tiles.find (w.tileIx tl) = some x) :
    AccUnit i s u p a (fun t q => q.pending = withTraps p.pending s u (ctxOf i s u p).tagged ∧ TileIs s t w tl (f x) ∧ (∃ k ∈ q.toks, k.tile = some (tl, wr)) ∧
      SameRest s t ∧ ∀ j, (t.core j).acc = (s1.core j).acc ∧ (t.core j).spad = (s1.core j).spad) := by
  have htiles : ∀ j, (s1.core j).tiles = (s.core j).tiles := fun j => by rw [h1.core j]
  obtain ⟨hu, hself, hother⟩ := State.updTile_spec f (by rw [htiles]; exact hx)
  obtain ⟨t, q, he, ho, hr, hot, hpb, hl, hsr, e1, e2, e3, hpend, htok⟩ := unit_cores h hex hb rfl rfl rfl
    (congrArg (fun z : State => { z with cores := (s1.updTile w tl f).cores }) h1.rest)
  have hcore : ∀ j, t.core j = { s1.core j with tiles := ((s1.updTile w tl f).core j).tiles, evcnt := (t.core j).evcnt, trq := (t.core j).trq } := fun j => by rw [ho.2.2.1 j, hu j]
  refine ⟨t, q, he, ho.1, hr, hot, hpb, hl, fun j => ?_, fun j b hjb => ?_, hsr, e1, e2, e3, ?_, ⟨?_, fun c k hck => ?_⟩, htok hla, hr, fun j => ?_⟩
  · rw [hcore j, h1.core j]
  · rw [hcore j]
    exact h1.acc j b hjb
  · rw [hpend]
    exact congrArg _ (List.append_nil _)
  · rw [← hself, State.tile, State.tile, hcore w.core]
  · rw [hcore c, ← htiles]
    exact hother c k hck
  · rw [hcore j]
    exact ⟨rfl, rfl⟩

end Sys2Proof.Machine
end

section
namespace Sys2Proof.Machine
open Sys2Proof Sys2Proof.Claims

set_option Elab.async false

/-! ## ACCMV (R279, R280) -/

section
variable {i : Instr} {s : State} {u : Cur} {p : Pack} {tl a n : Nat} {wr : Bool} {tag : Option Bool} {eff : Ctx → AccTile → Nat → State} {x : Tile}

theorem State.tile_of_find {w : Wg} (h : (s.core w.core).tiles.find (w.tileIx tl) = some x) : s.tile w tl = x := by
  rw [State.tile, h]
  rfl

/-- TOTILE and SAVE store the tile's bytes and make it FILLING. -/
theorem accmv_writes (hm : Moves i tl a n true tag eff) (hl : s.legal = true) (h : Issues i s u p) {body : Ctx → Res} (hex : exec i s = runUnit i (instrUses i) body s)
    {w : Wg} {base : Nat} {X : AccTile} {f : Tile → Tile} (hb : body (ctxOf i s u p) = { s := (eff (ctxOf i s u p) X base).updTile w tl f, kind := 3, tile := some (tl, true) })
    (hx : (s.core w.core).tiles.find (w.tileIx tl) = some x) (hlat : ∀ k, k < n → s.latent.has (spadLatent u.core (base + k)) = false) :
    AccUnit i s u p a (fun t q => q.pending = withTraps p.pending s u (ctxOf i s u p).tagged ∧ t.core u.core = { t.core u.core with acc := (s.core u.core).acc } ∧
      TileIs s t w tl (f x) ∧ (∃ k ∈ q.toks, k.tile = some (tl, true)) ∧
      ∀ pl : Place, t.placeByte pl = match pl with
        | .spad k o => if k = u.core ∧ base ≤ o ∧ o < base + n then accOut X i (o - base) else s.spadByte k o
        | pl => s.placeByte pl) := by
  obtain ⟨bs, heff, rfl, hbs⟩ := hm.writes rfl (ctxOf i s u p) X base
  have hput : SpadPut s (tilePut (ctxOf i s u p) base bs) u.core base bs := tilePut_spec (c := ctxOf i s u p) hl h.2.2.2.1 hlat
  rw [heff] at hb
  obtain ⟨t, q, he, hq, hr, ho, hpb, hla, hcore, hacc, hsr, e1, e2, e3, hpend, htile, htok, hrest, hsame⟩ := unit_moves h hex hm.token hb hput.only hx
  refine ⟨t, q, he, hq, hr, ho, hpb, hla, hcore, hacc, hsr, e1, e2, e3, hpend, ?_, htile, htok, fun pl => ?_⟩
  · have hacc0 : (t.core u.core).acc = (s.core u.core).acc := by rw [(hsame u.core).1, hput.core]
    rw [← hacc0]
  · cases pl with
    | mem b pa =>
      rw [hrest]
      rfl
    | chip o =>
      rw [hrest]
      rfl
    | spad k o =>
      show ((t.core k).spad.find o).getD 0 = _
      rw [(hsame k).2]
      refine (hput.byte k o).trans ?_
      split
      · rename_i hin
        exact (hbs _ (by omega)).trans (if_pos hin).symm
      · rename_i hout
        exact (if_neg hout).symm

/-- FROMTILE and LOAD read the tile's bytes into the accumulator, as one reader more. -/
theorem accmv_reads (hm : Moves i tl a n false tag eff) (hl : s.legal = true) (h : Issues i s u p) {body : Ctx → Res} (hex : exec i s = runUnit i (instrUses i) body s)
    {w : Wg} {base : Nat} {f : Tile → Tile} (hb : body (ctxOf i s u p) = { s := (eff (ctxOf i s u p) (theAcc s u.core a) base).updTile w tl f, kind := 3, tile := some (tl, false) })
    (hx : (s.core w.core).tiles.find (w.tileIx tl) = some x) (hlat : ∀ k, k < n → s.latent.has (spadLatent u.core (base + k)) = false) :
    AccUnit i s u p a (fun t q => q.pending = withTraps p.pending s u (ctxOf i s u p).tagged ∧ SameBytes s t ∧ TileIs s t w tl (f x) ∧
      (∃ k ∈ q.toks, k.tile = some (tl, false)) ∧ Reads (theAcc t u.core a) (accIn (theAcc s u.core a) (fun k => s.spadByte u.core (base + k)) (fun k => s.spadPoisoned u.core (base + k)) i)) := by
  have hc := h.2.2.2.1
  obtain ⟨Y, heff, hY⟩ := hm.reads rfl (ctxOf i s u p) (theAcc s u.core a) base (Legal.theAcc hl ..) hlat
  have hset : ∀ j, (s.setAcc u.core a Y).core j = _ := State.setAcc_core hc a Y
  rw [heff, ctxOf_s, ctxOf_u] at hb
  obtain ⟨t, q, he, hq, hr, ho, hpb, hla, hcore, hacc, hsr, e1, e2, e3, hpend, htile, htok, hrest, hsame⟩ := unit_moves h hex hm.token hb (AccSpadOnly.setAcc hc a Y) hx
  refine ⟨t, q, he, hq, hr, ho, hpb, hla, hcore, hacc, hsr, e1, e2, e3, hpend, hrest.bytes fun j => ?_, htile, htok, ?_⟩
  · rw [(hsame j).2, hset j]
  · have hnew : theAcc t u.core a = Y := by
      rw [theAcc, (hsame u.core).1, hset u.core, if_pos rfl]
      simp
    rw [hnew]
    exact hY

end

/-- Settles O35: the tests of ACCMV in their order, then the bytes that its form stores or reads, with the tile's entry and its token. -/
theorem accumulatorTilesMove : Obligations.AccumulatorTilesMove := by
  unfold Obligations.AccumulatorTilesMove
  intro i tl a n wr tag s u p hparts hwf hl h
  obtain ⟨eff, hm⟩ := moves_of_parts hparts hwf
  obtain ⟨body, hrun, hbody⟩ := accmv_body (i := i) (tl := tl) (a := a) (n := n) (wr := wr) (tag := tag) (eff := eff) (s := s)
  have hex := (hm.exec s).trans hrun
  obtain ⟨hbusy, hrange, hgo⟩ := hbody (ctxOf i s u p)
  refine ⟨fun hb => unit_stalls h hex (hbusy hb), fun hf hn => unit_onlyTraps h hex (hrange hf hn), fun x hf hon => ?_⟩
  obtain ⟨-, -, hn, hx, -, hwc⟩ := hon
  obtain ⟨htag, hbounds, hpsn, hmove⟩ := hgo _ x rfl (State.tile_of_find hx) hf hn
  refine ⟨fun ht => unit_onlyTraps h hex (htag ht), fun ht hs => unit_onlyTraps h hex (hbounds ht hs), fun ht hs hw hp => unit_onlyTraps h hex (hpsn ht hs hw hp), fun ht hs hpair =>
    ⟨fun hw hp hst => ?_, fun hw hst => ?_, fun hlat => ⟨fun hw hp hst => ?_, fun hw hst hrd => ?_⟩⟩⟩
  · obtain ⟨hshut, -⟩ := hmove ht hs (fun _ => hp) hpair
    refine unit_stalls h hex (hshut ?_)
    rw [hw]
    exact beq_eq_false_iff_ne.2 hst
  · obtain ⟨hshut, -⟩ := hmove ht hs (fun hw' => absurd (hw.symm.trans hw') (by decide)) hpair
    refine unit_stalls h hex (hshut ?_)
    rw [hw]
    show (x.st == .ready && decide (x.readers < 63)) = false
    rcases hst with hst | hst
    · rw [beq_eq_false_iff_ne.2 hst, Bool.false_and]
    · rw [decide_eq_false (by omega), Bool.and_false]
  · subst hw
    obtain ⟨-, hopen⟩ := hmove ht hs (fun _ => hp) hpair
    exact accmv_writes hm hl h hex (hopen (beq_iff_eq.2 hst)) hx hlat
  · subst hw
    obtain ⟨-, hopen⟩ := hmove ht hs (fun hw' => absurd hw' (by decide)) hpair
    refine accmv_reads hm hl h hex (hopen ?_) hx hlat
    show (x.st == .ready && decide (x.readers < 63)) = true
    rw [beq_iff_eq.2 hst, decide_eq_true hrd]
    rfl

end Sys2Proof.Machine
end

section
namespace Sys2Proof.Machine
open Sys2Proof Sys2Proof.Claims

set_option Elab.async false

/-! ## ACCRD beside an instruction in flight that has trapped (R39, R41) -/

/-- A pack with a load in flight that holds a trap for its completion. Its identity is the next one the state gives out, which no legality condition excludes. -/
def trapInFlight : Pack := { Tests.p0 with toks := [{ id := 1, left := 5, trap := some {} }] }

/-- That pack, with a clean float accumulator tile 3. -/
def beforeAccrd : State := Tests.sAcc trapInFlight {} (Tests.tile .empty)

theorem accrd_issues : (Instr.accrd 10 3 63 0).wf = true ∧ Issues (.accrd 10 3 63 0) beforeAccrd Tests.un trapInFlight ∧ AccFree beforeAccrd 0 3 false ∧
    (theAcc beforeAccrd 0 3).int = false ∧ (theAcc beforeAccrd 0 3).pmask = 0 ∧ (ctxOf (.accrd 10 3 63 0) beforeAccrd Tests.un trapInFlight).q.paired = false := by decide +kernel

/-- The ACCRD issues as one more instruction, so the window of the load in flight shrinks to four (R39): its token is no longer the one it was, and still holds the trap. -/
theorem accrd_ages_trap : (match exec (.accrd 10 3 63 0) beforeAccrd with
    | .next t => (t.pack 0 0).toks.contains { id := 1, left := 4, trap := some {} }
    | _ => false) = true := by decide +kernel

/-- Refutes O34: its last clause takes every token that the pack did not hold before for the ACCRD's own. A token in flight changes when an instruction issues, because its
window shrinks; in this state that of a load with a trap bears the number `nextId`, and the clause denies it. -/
theorem not_mmaQueuesAndAccrdReads : ¬ Obligations.MmaQueuesAndAccrdReads := by
  unfold Obligations.MmaQueuesAndAccrdReads
  rintro ⟨-, hread⟩
  obtain ⟨hwf, hiss, hfree, hint, hpm, hpair⟩ := accrd_issues
  obtain ⟨-, -, hdone⟩ := hread 10 3 63 0 beforeAccrd Tests.un trapInFlight hwf hiss
  obtain ⟨t, q, hex, ⟨hq, -⟩, -, -, -, -, -, -, -, hclean⟩ := hdone hfree (fun _ => hint) (fun h => absurd h (by decide)) (fun h => absurd (hpair.symm.trans h) (by decide))
  have htok := accrd_ages_trap
  rw [hex] at htok
  have hmem : ({ id := 1, left := 4, trap := some {} } : Tok) ∈ q.toks := by
    rw [← State.pack_of_pack? hq]
    exact List.contains_iff_mem.1 htok
  refine hclean (List.filter_eq_nil_iff.2 fun l _ => ?_) _ hmem (by decide) rfl rfl
  have hclear : (theAcc beforeAccrd Tests.un.core (3 : BitVec 6).toNat).pmask = 0 := hpm
  rw [hclear, hpair]
  simp

end Sys2Proof.Machine
end

section
namespace Sys2Proof.Machine
open Sys2Proof Sys2Proof.Claims

set_option Elab.async false

/-! ## The walk of a tensor address of package 1 (R95, R104, R110) -/

/-- Offset 0x3000 in the tensor space of package 1: VA[54:44] is the package index (R95), and bit 44 lies among the bits 47 to 39 that index level 0 (R104). -/
def package1Va : Nat := 0x4000100000003000

/-- The page of table k, in the home of package 1. -/
def package1Table (k : Nat) : Nat := 8 * 2 ^ 36 + 2 ^ 22 + k

/-- The entry of table k that VA[47:0] names, which takes in the low bits of the package index. -/
def package1Entry (k : Nat) : Nat := 4096 * package1Table k + 8 * (package1Va % 2 ^ 48 / 2 ^ (39 - 9 * k) % 512)

/-- Package 1 with a tensor root of context 0: three of those entries are pointers to the next table, the last is a leaf of 4 KiB. Nothing else is written. -/
def beforeTensorWalk : State :=
  { cores := Tests.all160 {}, pkgId := 1, regs := [(0x600010, BitVec.ofNat 64 (4096 * package1Table 0))],
    mem := (List.range 3).flatMap (fun k => Tests.le8 (1 + 4096 * package1Table (k + 1)) (package1Entry k)) ++ Tests.le8 (pteOf false false 0 false false false 5 0) (package1Entry 3) }

theorem beforeTensorWalk_legal : beforeTensorWalk.legal = true := by decide +kernel

theorem beforeTensorWalk_regs : beforeTensorWalk.funcOf 0 = 0 ∧ package1Table 0 = beforeTensorWalk.reg 0x600010 / 4096 % 2 ^ 40 ∧ beforeTensorWalk.reg 0x710000 % 2 = 1 := by
  decide +kernel

theorem package1Tables_sound : ∀ k, k < 4 → 8 * 2 ^ 36 ≤ package1Table k ∧ package1Table k < 8 * 2 ^ 36 + 2 ^ 33 ∧ beforeTensorWalk.homeLost (4096 * package1Table k) = false ∧
    beforeTensorWalk.latent.has (package1Entry k / 64) = false ∧ beforeTensorWalk.l1.all (fun x => x.1 % 2 ^ 46 != package1Entry k / 64 || !x.2.psn) = true := by
  decide +kernel

theorem package1Entries_point : ∀ k, k < 3 → beforeTensorWalk.readNat {} (package1Entry k) 8 = 1 + 4096 * package1Table (k + 1) := by decide +kernel

theorem package1Entry_leaf : beforeTensorWalk.readNat {} (package1Entry 3) 8 = pteOf false false 0 false false false 5 0 := by decide +kernel

/-- The walk translates VA[43:0] alone (R95): it reads entry 0 of the first table, where the state has its pointer in entry 32, and NOTVALID ends it. -/
theorem walkComplete_package1_noEntry : ∃ t, exec (.walkComplete 0 1 package1Va 0) beforeTensorWalk = .next t ∧ t.tlb = [] :=
  ⟨_, rfl, by decide +kernel⟩

/-- Refutes O43: its clause on walks indexes the tables with VA[47:0] under both roots. Under the tensor root R95 translates VA[43:0], zero-extended, so for an address of
package 1 the entries that the clause describes are not those that the walk reads, and no translation is entered. -/
theorem not_translationAndPageRequestEvents : ¬ Obligations.TranslationAndPageRequestEvents := by
  unfold Obligations.TranslationAndPageRequestEvents
  intro h
  obtain ⟨hwalk, -⟩ := h beforeTensorWalk 0 beforeTensorWalk_legal
  obtain ⟨hfunc, hroot, hkey⟩ := beforeTensorWalk_regs
  have hnone : ∀ e ∈ beforeTensorWalk.tlb, e.where_ ≠ 10 := fun _ he => nomatch he
  obtain ⟨t, e, hex, -, hentry, -⟩ := hwalk 0 1 package1Va 0 5 0 0 false false false false false package1Table (by decide) (by decide) (by decide) hfunc hnone hroot
    package1Tables_sound package1Entries_point package1Entry_leaf (by decide) (by decide) (by decide) (fun _ => rfl)
    (fun hwrite => absurd hwrite (by decide)) (fun hfetch => absurd hfetch (by decide)) (by decide) (fun _ => hkey)
  obtain ⟨t', hex', hempty⟩ := walkComplete_package1_noEntry
  have hsame : t = t' := Host.Outcome.next.inj (hex.symm.trans hex')
  rw [hsame, hempty] at hentry
  exact Option.some_ne_none e hentry.symm

end Sys2Proof.Machine
end

section
namespace Sys2Proof.Machine
open Sys2Proof Sys2Proof.Claims

set_option Elab.async false

/-! ## An access that takes the only way of an L1 set (R135, R138)

`l1Key c line` is `c * 2 ^ 46 + line`, so a place of core 0 whose line number reaches `2 ^ 46` is looked up among core 1's lines. The statements on loads and stores
quantify over every place, and their condition on the place (`placeWhole`, `placeSound`) compares 46 bits of the line number: it holds of such a place. When an access
of core 1 evicts the line behind it, that line's poison is gone from what the place shows. -/

/-- A pack whose s3 and whose lane 0 address VA 0x10000. -/
def fullSetPack : Pack := { Tests.p0 with s := [0, 0, 0, 0x10000] }

/-- One lane of it issues on core 1. -/
def fullSetUnit : Cur := { Tests.un with core := 1, ig := 1 }

/-- Core 1's L1 has one way (19 of 20 are its scratchpad's), and a poisoned line holds it in the set of the line at 2 ^ 51. -/
def fullSet : State :=
  { Tests.st fullSetPack with
    cores := (List.range 160).map (fun c => (c, if c = 1 then { split := 19 } else {})), packs := [(packKey 1 0, fullSetPack)],
    wgs := [(2, { uid := 1, core := 1, slots := [0], ways := 1 })], cur := some fullSetUnit,
    l1 := [(l1Key 1 (2 ^ 45 + 256), { way := 19, psn := true })] }

/-- How core 1's pack reaches memory. -/
def fullSetAcc : Acc := { core := some 1, node := 1 }

/-- The word at 2 ^ 51, where VA 0x10000 leads. -/
def wordPlaces : List Place := (List.range 4).map (fun j => .mem fullSetAcc (2 ^ 51 + j))

/-- The accessed line has taken the way of the poisoned one. -/
def fullSetAfter : State := { fullSet with l1 := [(l1Key 1 (2 ^ 45), { way := 19 })], ownDraws := 1 }

/-- The place of core 0 that shows the evicted line of core 1. -/
def echoPlace : Place := .mem { core := some 0 } (64 * (2 ^ 46 + 2 ^ 45 + 256))

theorem fullSet_facts : fullSet.legal = true ∧ placeWhole fullSet echoPlace = true ∧ placeSound fullSet echoPlace = true ∧ fullSet.placePsn echoPlace = true := by decide +kernel

theorem wordPlaces_sound : ∀ x ∈ wordPlaces, placeSound fullSet x = true ∧ placeCalm fullSet x = true := by decide +kernel

/-- Where a core's L1 has one way, the drawn victim does not matter: a new line takes it from the line that holds it. -/
theorem allocLine_lone_way {s : State} {c line : Nat} (hnew : (s.l1Line c line).isSome = false) (hsplit : (s.core c).split = 19)
    (hfull : (s.l1.filter (fun x => x.1 / 2 ^ 46 == c && x.1 % 256 == line % 256)).any (fun x => x.2.way == 19) = true) :
    s.allocLine c line = (((s.l1.filter (fun x => x.1 / 2 ^ 46 == c && x.1 % 256 == line % 256)).filter (fun x => x.2.way == 19)).foldl
      (fun s x => s.flushLine c (x.1 % 2 ^ 46)) s.draw.2).setL1 c line { way := 19 } := by
  unfold State.allocLine
  dsimp only
  rw [if_neg (by simp [hnew]), hsplit]
  simp only [Nat.reduceSub, List.range_one, List.find?_cons, Nat.add_zero, hfull, Bool.not_true, List.find?_nil, Nat.mod_one]

theorem touch_fullSet {n : Nat} (hn : linesOf (2 ^ 51) n = [2 ^ 45]) : fullSet.touch fullSetAcc (2 ^ 51) n = fullSetAfter := by
  have hread : fullSet.readLine fullSetAcc (2 ^ 45) = fullSet.allocLine 1 (2 ^ 45) := rfl
  have halloc : fullSet.allocLine 1 (2 ^ 45) = fullSetAfter := by
    rw [allocLine_lone_way (by decide +kernel) (by decide +kernel) (by decide +kernel)]
    decide +kernel
  have hlatent : fullSetAfter.latent.has (2 ^ 45) = false := rfl
  unfold State.touch
  rw [hn, List.foldl_cons, List.foldl_nil, hread, halloc, if_neg (by rw [hlatent]; exact Bool.false_ne_true)]

theorem wordPlaces_touched : wordPlaces.foldl State.placeTouch fullSet = fullSetAfter := by
  have hsplit : wordPlaces = .mem fullSetAcc (2 ^ 51) :: wordPlaces.tail := rfl
  have hrest : wordPlaces.tail.foldl State.placeTouch fullSetAfter = fullSetAfter := by decide +kernel
  rw [hsplit, List.foldl_cons, State.placeTouch, touch_fullSet (by decide +kernel), hrest]

/-- A read of one lane. -/
theorem readLanes_one_lane {core slot l : Nat} {ps : List Place} {s : State} : readLanes core slot [(l, ps)] s =
    (let t := ps.foldl State.placeTouch s
     let m := mirroredPlaces ps
     let r := packMirror t core slot (laneMask (if m then [l] else [])) (if m then ps.map t.placeByte else [])
     (r.1, [(l, if m then r.2.take ps.length else ps.map t.placeByte, ps.map t.placePsn)])) := by
  unfold readLanes
  cases h : mirroredPlaces ps <;> simp [h]

theorem readLanes_fullSet : readLanes 1 0 [(0, wordPlaces)] fullSet = (fullSetAfter, [(0, List.replicate 4 0, List.replicate 4 false)]) := by
  rw [readLanes_one_lane, wordPlaces_touched]
  decide +kernel

/-- The context of an instruction that issues there. -/
abbrev fullSetCtx (i : Instr) : Ctx := ctxOf i fullSet fullSetUnit fullSetPack

/-- The unit's end keeps the pack, does not stall, and the poison has gone from the place. -/
abbrev Evicts (r : Res) : Prop := r.stall = none ∧ (r.s.pack? 1 0).isSome = true ∧ r.s.placePsn echoPlace = false

/-- `finish` touches no L1: what the unit has evicted stays evicted. -/
theorem exec_evicts {i : Instr} {body : Ctx → Res} (h : Issues i fullSet fullSetUnit fullSetPack) (hex : exec i fullSet = runUnit i (instrUses i) body fullSet)
    (hr : Evicts (body (fullSetCtx i))) {t : State} (ht : exec i fullSet = .next t) : t.placePsn echoPlace = false := by
  obtain ⟨hstall, hpack, hpsn⟩ := hr
  obtain ⟨q, hq⟩ := Option.isSome_iff_exists.1 hpack
  rw [hex, runUnit_issues body h] at ht
  obtain ⟨ts, hend, -⟩ := finish_spec (fullSetCtx i) (usesOf i)
    { body (fullSetCtx i) with traps := (fullSetCtx i).tagged ++ (body (fullSetCtx i)).traps } hstall hq
  rw [Host.Outcome.next.inj ht] at hend
  rw [hend.2.1]
  exact hpsn

/-- So it does not keep the poison of every whole place. -/
theorem exec_changes_echo {i : Instr} {body : Ctx → Res} (h : Issues i fullSet fullSetUnit fullSetPack) (hex : exec i fullSet = runUnit i (instrUses i) body fullSet)
    (hr : Evicts (body (fullSetCtx i))) {t : State} (ht : exec i fullSet = .next t) : ¬ ∀ x, placeWhole fullSet x = true → t.placePsn x = fullSet.placePsn x := by
  obtain ⟨-, hwhole, -, hbefore⟩ := fullSet_facts
  intro hkept
  have hpsn := (exec_evicts h hex hr ht).symm.trans (hkept _ hwhole)
  exact absurd (hpsn.trans hbefore) (by decide)

/-! ## Loads (R143) -/

/-- A load of one word. -/
def ldW : Instr := .ld none 10 8 4 ⟨none, 0⟩ 0

/-- Its unit. -/
def ldWBody (c : Ctx) : Res := loadBody c 10 8 2 4 (addrVa c 8 0)

theorem exec_ldW (s : State) : exec ldW s = runUnit ldW (instrUses ldW) ldWBody s := rfl

theorem ldW_issues : ldW.wf = true ∧ Issues ldW fullSet fullSetUnit fullSetPack := by decide +kernel

/-- The end of a load that one lane makes, from what its access and its read give. -/
theorem loadBody_one_lane {c : Ctx} {d a : VReg} {na w l : Nat} {addr : Nat → LAddr} {s t : State} {ps : List Place} {bs : List Byte} {psn : List Bool}
    (hg : gather { c with s := zeroMasked c d.toNat (loadRegs w []).length c.s } (addrPre c a na 0 addr)
      (fun l => laneAccess c (c.via 0 needR) l (addr l) 0 (wBytes w) (wBytes w) (wAlign w) true false) = (s, [(l, .go ps)]))
    (hr : readLanes c.u.core c.u.slot [(l, ps)] s = (t, [(l, bs, psn)])) :
    loadBody c d a na w addr = { s := writeLane c d.toNat l (loadCells w bs psn) t, kind := 0 } := by
  have hplaces : gotPlaces [(l, .go ps)] = [(l, ps)] := rfl
  unfold loadBody
  dsimp only
  rw [hg, memEnd, hplaces]
  dsimp only
  rw [hr]
  rfl

theorem ldWBody_evicts : Evicts (ldWBody (fullSetCtx ldW)) := by
  have hg : gather { fullSetCtx ldW with s := zeroMasked (fullSetCtx ldW) 10 1 fullSet } (addrPre (fullSetCtx ldW) 8 2 0 (addrVa (fullSetCtx ldW) 8 0))
      (fun l => laneAccess (fullSetCtx ldW) ((fullSetCtx ldW).via 0 needR) l (addrVa (fullSetCtx ldW) 8 0 l) 0 4 4 1 true false)
      = (fullSet, [(0, .go wordPlaces)]) := by decide +kernel
  have hr : readLanes (fullSetCtx ldW).u.core (fullSetCtx ldW).u.slot [(0, wordPlaces)] fullSet = (fullSetAfter, [(0, List.replicate 4 0, List.replicate 4 false)]) := readLanes_fullSet
  rw [ldWBody, @loadBody_one_lane (fullSetCtx ldW) 10 8 2 4 0 (addrVa (fullSetCtx ldW) 8 0) fullSet fullSetAfter wordPlaces _ _ hg hr]
  decide +kernel

/-- Refutes O20: LD keeps, by the statement, the poison of every place; in this state it evicts the line that `echoPlace` shows. -/
theorem not_loadsGiveLanesTheirBytes : ¬ Obligations.LoadsGiveLanesTheirBytes := by
  unfold Obligations.LoadsGiveLanesTheirBytes
  intro h
  obtain ⟨hwf, hiss⟩ := ldW_issues
  have hwant : loadWant (fullSetCtx ldW) ldW = some ⟨10, 8, 2, addrOf (fullSetCtx ldW) 0 8 ⟨none, 0⟩ 4, 4⟩ := rfl
  obtain ⟨t, q, hex, ⟨-, -, -, hpsn, -⟩, -⟩ := h ldW fullSet fullSetUnit fullSetPack _ (fun _ => wordPlaces) hwf hiss hwant
    (by decide +kernel) (by decide +kernel) (by decide +kernel) (fun _ _ x hx => (wordPlaces_sound x hx).1)
  exact exec_changes_echo hiss (exec_ldW _) ldWBody_evicts hex hpsn

/-! ## Multi-register and pack-scalar loads (R144, R246) -/

/-- The end of an LDM of one lane that MZ zeroes no register for, from what its words and its read give. -/
theorem ldm_one_lane (d a : VReg) (w : BitVec 3) (im : Imm 4) (la : BitVec 4) : ∃ body,
    (∀ s, exec (.ldm none d a w im la) s = runUnit (.ldm none d a w im la) (instrUses (.ldm none d a w im la)) body s) ∧
    ∀ {c : Ctx} {x : LdmLane} {s t : State} {bs : List Byte} {psn : List Bool}, zeroMasked c d.toNat (w.toNat + 1) c.s = c.s →
      gatherM c (addrPre c a 2 0 (addrVa c a (immM im 4))) (c.via 0 needR) (addrVa c a (immM im 4)) (w.toNat + 1) true = (s, [x]) →
      readLanes c.u.core c.u.slot [(x.l, x.words.flatMap Prod.snd)] s = (t, [(x.l, bs, psn)]) →
      body c = ldmEnd c [x] (x.words.zipIdx.foldl (fun s y => writeLane c (d.toNat + y.1.1) x.l (loadCells 4 ((bs.drop (4 * y.2)).take 4) ((psn.drop (4 * y.2)).take 4)) s) t) := by
  refine ⟨_, fun _ => rfl, fun {c x s t bs psn} hzero hg hr => ?_⟩
  have hlanes : [x].map (fun x => (x.l, x.words.flatMap Prod.snd)) = [(x.l, x.words.flatMap Prod.snd)] := rfl
  dsimp only
  rw [hzero, hg]
  dsimp only
  rw [hlanes, hr]
  rfl

/-- The end of an SLD whose access is let go and whose bytes are not poisoned. -/
theorem sld_reads (d a : BitVec 7) (w : BitVec 3) (im : Imm 4) (la : BitVec 4) : ∃ body,
    (∀ s, exec (.sld d a w im la) s = runUnit (.sld d a w im la) (instrUses (.sld d a w im la)) body s) ∧
    ∀ {c : Ctx} {l : Nat} {ps : List Place} {s t : State} {bs : List Byte} {psn : List Bool} {va : DWord},
      va = c.p.sreg a.toNat + BitVec.ofInt 64 (immM im (wBytes w.toNat)) →
      bits va.toNat 63 56 ≠ 0xF1 → l = (lanesOf c.ig).headD 0 →
      laneAccess c (c.via 0 needR) l (.va va) 0 (wBytes w.toNat) (wBytes w.toNat) (wAlign w.toNat) true (!true) c.s = (s, .go ps) →
      readLanes c.u.core c.u.slot [(l, ps)] s = (t, [(l, bs, psn)]) → psn.any id = false →
      body c = { s := t.updPack c.u.core c.u.slot (fun p => p.setS d.toNat (scalarVal w.toNat bs)), kind := 0 } := by
  refine ⟨_, fun _ => rfl, fun {c l ps s t bs psn va} hva hwin hl hacc hr hpsn => ?_⟩
  subst hl hva
  unfold scalarAccess
  dsimp only
  rw [if_neg hwin, hacc]
  dsimp only
  rw [hr]
  dsimp only
  rw [hpsn, if_neg Bool.false_ne_true]

/-- A transfer of one word into a register. -/
def ldmW : Instr := .ldm none 10 8 0 ⟨none, 0⟩ 0

theorem ldmW_issues : ldmW.wf = true ∧ Issues ldmW fullSet fullSetUnit fullSetPack := by decide +kernel

/-- Lane 0 moves that word and nothing stops it. -/
def oneWord : LdmLane := { l := 0, words := [(0, wordPlaces)], stop := none }

theorem zeroMasked_ldmW : zeroMasked (fullSetCtx ldmW) 10 1 fullSet = fullSet := by decide +kernel

theorem gatherM_ldmW : gatherM (fullSetCtx ldmW) (addrPre (fullSetCtx ldmW) 8 2 0 (addrVa (fullSetCtx ldmW) 8 0)) ((fullSetCtx ldmW).via 0 needR)
    (addrVa (fullSetCtx ldmW) 8 0) 1 true = (fullSet, [oneWord]) := by decide +kernel

/-- Refutes O22: an LDM of one word evicts the line that `echoPlace` shows, as the load of O20 does. -/
theorem not_multipleTransfersMoveTheirWords : ¬ Obligations.MultipleTransfersMoveTheirWords := by
  unfold Obligations.MultipleTransfersMoveTheirWords
  intro h
  obtain ⟨hwf, hiss⟩ := ldmW_issues
  obtain ⟨t, q, hex, ⟨-, -, -, hpsn, -⟩, -⟩ := (h none 10 8 0 ⟨none, 0⟩ 0 fullSet fullSetUnit fullSetPack (fun _ _ => wordPlaces)).1 hwf hiss rfl
    (by decide +kernel) (by decide +kernel)
  obtain ⟨body, hrun, hbody⟩ := ldm_one_lane 10 8 0 ⟨none, 0⟩ 0
  have hend := hbody (c := fullSetCtx ldmW) (x := oneWord) zeroMasked_ldmW gatherM_ldmW readLanes_fullSet
  exact exec_changes_echo hiss (hrun _) (hend ▸ by decide +kernel) hex hpsn

/-- A load of one word into s0. -/
def sldW : Instr := .sld 0 3 4 ⟨none, 0⟩ 0

theorem sldW_issues : sldW.wf = true ∧ Issues sldW fullSet fullSetUnit fullSetPack := by decide +kernel

theorem laneAccess_sldW : laneAccess (fullSetCtx sldW) ((fullSetCtx sldW).via 0 needR) 0 (.va 0x10000) 0 4 4 1 true false fullSet = (fullSet, .go wordPlaces) := by decide +kernel

/-- Refutes O23: SLD evicts the line that `echoPlace` shows, as the load of O20 does. -/
theorem not_scalarLoadsAndStores : ¬ Obligations.ScalarLoadsAndStores := by
  unfold Obligations.ScalarLoadsAndStores
  intro h
  obtain ⟨hwf, hiss⟩ := sldW_issues
  obtain ⟨t, q, hex, ⟨-, -, -, hpsn, -⟩, -⟩ := (h 0 3 4 ⟨none, 0⟩ 0 fullSet fullSetUnit fullSetPack wordPlaces).1 hwf hiss rfl
    (by decide +kernel) rfl (fun x hx => (wordPlaces_sound x hx).1) laneAccess_sldW
  obtain ⟨body, hrun, hbody⟩ := sld_reads 0 3 4 ⟨none, 0⟩ 0
  have hend := hbody (c := fullSetCtx sldW) (va := 0x10000) (l := 0) (by decide +kernel) (by decide +kernel) (by decide +kernel) laneAccess_sldW readLanes_fullSet rfl
  exact exec_changes_echo hiss (hrun _) (hend ▸ by decide +kernel) hex hpsn

/-! ## Stores and CCTL zero (R142, R143, R146) -/

/-- What a write of a run of bytes does once its line has been met. -/
def writeMet (s : State) (a : Acc) (pa : Nat) (bs : List Byte) (psn : Bool) : State :=
  (((((s.beforeWrite a pa).rekey a pa (bs.length == 64)).ownLine a (pa / 64)).breakResv (pa / 64)).putBytes a pa bs).endWrite a pa bs.length psn

theorem writeRun_eq_writeMet {s : State} {a : Acc} {pa : Nat} {bs : List Byte} {psn : Bool} (hbs : bs ≠ []) :
    s.writeRun a pa bs psn = writeMet (s.touch a pa bs.length) a pa bs psn := by
  cases bs with
  | nil => exact absurd rfl hbs
  | cons b bs => rfl

theorem writeRun_fullSet {bs : List Byte} {psn : Bool} (hbs : bs ≠ []) (hline : linesOf (2 ^ 51) bs.length = [2 ^ 45]) :
    fullSet.writeRun fullSetAcc (2 ^ 51) bs psn = writeMet fullSetAfter fullSetAcc (2 ^ 51) bs psn := by
  rw [writeRun_eq_writeMet hbs, touch_fullSet hline]

/-- The word that the store writes. -/
def zeroWord : List Byte := List.replicate 4 0

theorem writeLanes_fullSet : writeLanes 1 [(0, wordPlaces, zeroWord, false)] fullSet = writeMet fullSetAfter fullSetAcc (2 ^ 51) zeroWord false := by
  have hkeep : (wordPlaces.zip zeroWord).filter (fun z => !(([] : List (Nat × List Place × List Byte × Bool)).flatMap (fun y => y.2.1)).contains z.1) = wordPlaces.zip zeroWord := by
    decide +kernel
  have hplaces : (wordPlaces.zip zeroWord).map Prod.fst = .mem fullSetAcc (2 ^ 51) :: wordPlaces.tail := by decide +kernel
  have hbytes : (wordPlaces.zip zeroWord).map Prod.snd = zeroWord := by decide +kernel
  have hrun : ((wordPlaces.tail.zipIdx.all (fun x => x.1 == .mem fullSetAcc (2 ^ 51 + 1 + x.2))) &&
      decide (2 ^ 51 % 64 + (Place.mem fullSetAcc (2 ^ 51) :: wordPlaces.tail).length ≤ 64)) = true := by decide +kernel
  unfold writeLanes
  dsimp only
  rw [hkeep, hplaces, hbytes, writeLanes, State.writePlaces, if_pos hrun]
  exact writeRun_fullSet (bs := zeroWord) (by decide) (by decide +kernel)

/-- The end of a store that one lane makes, from what its access gives. -/
theorem storeBody_one_lane {c : Ctx} {d a : VReg} {na w l : Nat} {addr : Nat → LAddr} {s : State} {ps : List Place}
    (hg : gather c (fun l => (addrPre c a na 0 addr l).or (dataPre c d (loadRegs w []).length (wBytes w) l))
      (fun l => laneAccess c (c.via 1 needW) l (addr l) 0 (wBytes w) (wBytes w) (wAlign w) false true) = (s, [(l, .go ps)])) :
    storeBody c d a na w addr = { s := writeLanes (c.via 1 needW).node (c.dataParts d (loadRegs w []).length (wBytes w) l ps) s, kind := 0 } := by
  have hplaces : gotPlaces [(l, .go ps)] = [(l, ps)] := rfl
  unfold storeBody
  dsimp only
  rw [hg, memEnd, hplaces]
  dsimp only
  rw [List.flatMap_cons, List.flatMap_nil, List.append_nil]
  rfl

/-- A store of one word. -/
def stW : Instr := .st none 10 8 4 ⟨none, 0⟩ 0

/-- Its unit. -/
def stWBody (c : Ctx) : Res := storeBody c 10 8 2 4 (addrVa c 8 0)

theorem exec_stW (s : State) : exec stW s = runUnit stW (instrUses stW) stWBody s := rfl

theorem stW_issues : stW.wf = true ∧ Issues stW fullSet fullSetUnit fullSetPack ∧ PlainRun (fullSetCtx stW) := by decide +kernel

theorem stWBody_evicts : Evicts (stWBody (fullSetCtx stW)) := by
  have hg : gather (fullSetCtx stW) (fun l => (addrPre (fullSetCtx stW) 8 2 0 (addrVa (fullSetCtx stW) 8 0) l).or (dataPre (fullSetCtx stW) 10 1 4 l))
      (fun l => laneAccess (fullSetCtx stW) ((fullSetCtx stW).via 1 needW) l (addrVa (fullSetCtx stW) 8 0 l) 0 4 4 1 false true) = (fullSet, [(0, .go wordPlaces)]) := by
    decide +kernel
  have hparts : (fullSetCtx stW).dataParts 10 (loadRegs 4 []).length (wBytes 4) 0 wordPlaces = [(0, wordPlaces, zeroWord, false)] := by decide +kernel
  have hnode : ((fullSetCtx stW).via 1 needW).node = 1 := by decide +kernel
  rw [stWBody, @storeBody_one_lane (fullSetCtx stW) 10 8 2 4 0 (addrVa (fullSetCtx stW) 8 0) fullSet wordPlaces hg, hparts, hnode, writeLanes_fullSet]
  decide +kernel

/-- Refutes O21: a store of an unpoisoned word changes, by the statement, the poison of no place; in this state the line that it brings into the L1 evicts the one that
`echoPlace` shows. -/
theorem not_storesWriteTheirBytes : ¬ Obligations.StoresWriteTheirBytes := by
  unfold Obligations.StoresWriteTheirBytes
  intro h
  obtain ⟨hwf, hiss, hplain⟩ := stW_issues
  obtain ⟨hlegal, hwhole, -, hbefore⟩ := fullSet_facts
  have hwant : storeWant (fullSetCtx stW) stW = some ⟨10, 8, 2, addrOf (fullSetCtx stW) 0 8 ⟨none, 0⟩ 4, 4⟩ := rfl
  obtain ⟨t, q, hex, -, ⟨-, hpsn⟩, -⟩ := h stW fullSet fullSetUnit fullSetPack _ (fun _ => wordPlaces) hwf hlegal hiss hwant hplain (by decide +kernel)
    (fun hpair => absurd hpair (by decide +kernel)) (by decide +kernel) (fun _ _ => wordPlaces_sound)
  have hafter := exec_evicts hiss (exec_stW _) stWBody_evicts hex
  rw [hpsn (by decide +kernel) _ hwhole, hbefore, Bool.true_or] at hafter
  exact absurd hafter (by decide)

theorem cctlLine_fullSet {core node : Nat} : cctlLine core 5 node fullSet (.mem fullSetAcc (2 ^ 51)) =
    (let s := (writeMet fullSetAfter fullSetAcc (2 ^ 51) (List.replicate 64 0) false).setLinePsn (2 ^ 51) false
     { s with l1 := s.l1.upd (l1Key 1 (2 ^ 45)) (fun x => { x with psn := false }) }) := by
  have hrun := writeRun_fullSet (bs := List.replicate 64 0) (psn := false) (by decide) (by decide +kernel)
  have hline : cctlLine core 5 node fullSet (.mem fullSetAcc (2 ^ 51)) = fullSet.writeLine fullSetAcc (2 ^ 51) (List.replicate 64 0) false := rfl
  rw [hline, State.writeLine, hrun]
  rfl

/-- The access of a lane of CCTL zero: the block of its scratchpad offset, elsewhere a byte. -/
def zeroAccess (c : Ctx) (la : LAddr) (l : Nat) (s : State) : State × LaneGot :=
  match la.decode s.pkgId with
  | .ok (.spad f) => (fun x => (x.1, LaneGot.atVa la.vaOf x.2)) <| laneAccess c (c.via 6 needW) l (.off (f / 64 * 64 : Nat)) 0 64 64 1 false true s
  | _ => laneAccess c (c.via 6 needW) l la 0 1 1 1 false true s

/-- The end of a CCTL zero that one lane makes, from what its access gives. -/
theorem cctl_zero_one_line (a : VReg) (im : Imm 4) (la : BitVec 4) : ∃ body,
    (∀ s, exec (.cctl a 5 im la) s = runUnit (.cctl a 5 im la) (instrUses (.cctl a 5 im la)) body s) ∧
    ∀ {c : Ctx} {l : Nat} {x : Place} {xs : List Place} {s : State},
      gather c (addrPre c a 2 0 (addrVa c a (immM im 64))) (fun l => zeroAccess c (addrVa c a (immM im 64) l) l) = (s, [(l, .go (x :: xs))]) →
      body c = { s := cctlLine c.u.core 5 (c.via 6 needW).node s x.line, kind := 0 } := by
  refine ⟨_, fun _ => rfl, fun {c l x xs s} hg => ?_⟩
  have hplaces : gotPlaces [(l, .go (x :: xs))] = [(l, x :: xs)] := rfl
  have hpref : ((5 : BitVec 3).toNat = 3 ∨ (5 : BitVec 3).toNat = 4) = False := by decide
  have hzero : ((5 : BitVec 3).toNat = 5) = True := by decide
  simp only [hpref, hzero, if_true, if_false]
  refine (congrArg (memEnd · _) hg).trans ?_
  rw [memEnd, hplaces]
  rfl

/-- CCTL zero of the line at 2 ^ 51. -/
def cctlZero : Instr := .cctl 8 5 ⟨none, 0⟩ 0

theorem cctlZero_issues : cctlZero.wf = true ∧ Issues cctlZero fullSet fullSetUnit fullSetPack ∧ PlainRun (fullSetCtx cctlZero) := by decide +kernel

/-- Where that line begins. -/
def firstByte : Place := .mem fullSetAcc (2 ^ 51)

/-- Refutes O24: CCTL zero clears, by the statement, the poison of the lines it names alone; the line that it brings into the L1 evicts the one that `echoPlace` shows,
which it does not name. -/
theorem not_cacheControlActsOnLines : ¬ Obligations.CacheControlActsOnLines := by
  unfold Obligations.CacheControlActsOnLines
  intro h
  obtain ⟨hwf, hiss, hplain⟩ := cctlZero_issues
  obtain ⟨hlegal, -, hsound, hbefore⟩ := fullSet_facts
  obtain ⟨t, q, hex, -, -, -, -, -, -, hzero, -⟩ := h 8 5 ⟨none, 0⟩ 0 fullSet fullSetUnit fullSetPack (fun _ => firstByte) (fun _ => []) hwf hlegal hiss hplain
    (by decide +kernel) (by decide +kernel)
  obtain ⟨body, hrun, hbody⟩ := cctl_zero_one_line 8 ⟨none, 0⟩ 0
  have hg : gather (fullSetCtx cctlZero) (addrPre (fullSetCtx cctlZero) 8 2 0 (addrVa (fullSetCtx cctlZero) 8 0))
      (fun l => zeroAccess (fullSetCtx cctlZero) (addrVa (fullSetCtx cctlZero) 8 0 l) l) = (fullSet, [(0, .go [firstByte])]) := by decide +kernel
  have hend := hbody (c := fullSetCtx cctlZero) hg
  have hline : firstByte.line = .mem fullSetAcc (2 ^ 51) := by decide
  rw [hline, cctlLine_fullSet] at hend
  have hafter := exec_evicts hiss (hrun _) (hend ▸ by decide +kernel) hex
  have hother : (fullSetCtx cctlZero).accessors.any (fun _ => Claims.sameLine firstByte echoPlace) = false := by decide +kernel
  have hkeeps : t.placePsn echoPlace = (fullSet.placePsn echoPlace && !(fullSetCtx cctlZero).accessors.any (fun _ => Claims.sameLine firstByte echoPlace)) :=
    (hzero rfl echoPlace hsound).2
  rw [hkeeps, hbefore, hother] at hafter
  exact absurd hafter (by decide)

end Sys2Proof.Machine
end

section
namespace Sys2Proof.Machine
open Sys2Proof Sys2Proof.Claims

set_option Elab.async false

/-! ## A placement whose argument copy commits the launch (R108, R145, R421, R422) -/

/-- The launch of the tests as a replayable node with an argument block of 8 bytes at VA 0. -/
def replayLaunch : Launch := { Tests.aLaunch with r := { Tests.aLaunch.r with replay := true, argsize := 8 } }

/-- The leaf entry of VA 0, second in the walk of the control root. -/
def argLeaf : Nat := 2 ^ 51 + 0x2000

/-- That launch waits to be placed. No TLB entry translates its argument block, the leaf has its A bit clear, and the launch holds a provisional byte of the leaf's line. -/
def beforePlace : State :=
  { Tests.sPlace with
    launches := [(1, replayLaunch)], regs := Tests.sPlace.regs ++ [(0x600008, BitVec.ofNat 64 (2 ^ 51 + 0x1000))],
    mem := Tests.sPlace.mem ++ Tests.le8 (argLeaf + 1) (2 ^ 51 + 0x1000) ++ Tests.le8 (2 ^ 51 + 3) argLeaf, prov := [(argLeaf + 8, { uid := 1 })] }

/-- Where its workgroup goes. -/
def replayFit : Fit := { way := 0, split := 2, tile0 := 0, arg0 := 0, slots := [0] }

theorem beforePlace_legal : beforePlace.legal = true ∧ FMap.sorted beforePlace.launches = true ∧ FMap.sorted beforePlace.wgs = true ∧ FMap.sorted beforePlace.packs = true := by
  decide +kernel

theorem beforePlace_nextPlace : beforePlace.nextPlace = some (replayLaunch, 0, replayFit) := by decide +kernel

/-- The walk of the first argument byte sets A in the leaf. That write belongs to no node, so it commits the launch whose provisional line it meets (R422). -/
theorem place_commits_launch : (match exec .workgroupPlace beforePlace with
    | .next t => (t.launches.find 1).map Launch.rstate
    | _ => none) = some 1 := by decide +kernel

/-- Refutes O49: a placement leaves, by the statement, its launch as `Launch.placed` makes it of the launch before, so a replayable node stays replayable. The copy of
the argument block may walk the page tables, and where the walk writes a line that the launch holds provisionally, the launch is COMMITTED. -/
theorem not_workgroupsAndLaunchesRunToTheirEnd : ¬ Obligations.WorkgroupsAndLaunchesRunToTheirEnd := by
  unfold Obligations.WorkgroupsAndLaunchesRunToTheirEnd
  intro h
  obtain ⟨hlegal, hlaunches, hwgs, hpacks⟩ := beforePlace_legal
  obtain ⟨-, hplace, -⟩ := h beforePlace hlegal hlaunches hwgs hpacks
  obtain ⟨t, hex, -, -, hfind, -⟩ := hplace replayLaunch 0 replayFit beforePlace_nextPlace rfl rfl (by decide) (by decide) (by decide +kernel) (by decide)
  have hstate := place_commits_launch
  rw [hex] at hstate
  have hkept : (t.launches.find 1).map Launch.rstate = some 0 := congrArg (Option.map Launch.rstate) hfind
  exact absurd (hkept.symm.trans hstate) (by decide)

end Sys2Proof.Machine
end

section
namespace Sys2Proof.Machine
open Sys2Proof Sys2Proof.Claims

set_option Elab.async false

/-! ## What stores leave at a place of memory -/

/-- A place of memory that is read under the key its line was written under, after stores: the last byte stored there, else what it held. -/
theorem Stored.placeByte_mem {s t : State} {ws : List (Place × Byte × Bool)} (h : Stored s t ws) {a : Acc} {pa : Nat} (hk : s.lineTag pa = s.keyTag a pa) :
    t.placeByte (.mem a pa) = ((ws.reverse.find? (fun y => Claims.samePlace y.1 (.mem a pa))).map (fun y => y.2.1)).getD (s.placeByte (.mem a pa)) := by
  rw [h.1 (.mem a pa) (by simp [hk])]
  split <;> simp [*]

/-! ## A chunk that arrives for a collective of a replayable launch (R340, R421) -/

/-- A chunk that passes the checks of its ingress and that the collective of its group takes. -/
theorem exec_collChunk_taken {s s1 : State} {pkg ctx n : Nat} {tk : DWord} {ch : Chunk} {c : Coll} {v : Nat × Nat} (hlost : s.isLost pkg = false)
    (hnew : s.performed.find (answerKey 3 pkg n) = none) (hheld : s.collHeld.any (fun h => h.pkg == pkg && h.seq == n && !h.acked) = false) (hc : s.collOf ch.group = some c)
    (hin : ingressCheck s pkg ctx tk 3 (some (c.q.stage % 2 ^ 44)) (9 * 2 ^ 20) = (s1, .ok v)) (htaken : (collJudge (s1.respond 3 pkg n .ack) c ch).2 = .taken) :
    exec (.collChunk pkg ctx n tk ch) s = .next (collPump (collJudge (s1.respond 3 pkg n .ack) c ch).1 ch.group) := by
  change execCollChunk pkg ctx n tk ch s = _
  unfold execCollChunk
  simp only [hlost, hnew, hheld, hc, Option.map_some, hin, if_false, Bool.false_eq_true]
  generalize collJudge (s1.respond 3 pkg n .ack) c ch = r at htaken ⊢
  obtain ⟨t, x⟩ := r
  subst htaken
  rfl

/-- The collective of the tests, whose launch is a replayable node. -/
def replayColl : State := { Tests.sCl Tests.cRoot with launches := [(1, { uid := 1, r := { replay := true } })] }

/-- The chunk that rank 1 sends to the root, for slot 0 of its STAGE. -/
def replayChunk : Chunk := { src := 1, group := 9, seq := 1, crc := Tests.cRoot.crc, idx := 0, phase := 0, plane := 0, bytes := List.replicate 16 3, psn := false, missing := [] }

/-- The token that package 5 sends with it. -/
def replayToken : DWord := Tests.tokenOf replayColl 5 0 1 15 1

/-- Where STAGE begins, and another launch that reads there. -/
def stagePa : Nat := 8 * 2 ^ 48 + 2 ^ 20 + 0x10000
def stageReader : Acc := { node := 5 }

/-- Package 0 once the chunk is acknowledged. -/
def replayAcked : State := { replayColl with performed := replayColl.performed.ins ((2048 * 3 + 5) * 2 ^ 64 + 3) .ack, outbox := replayColl.outbox ++ [.response 5 3 .ack] }

theorem respond_replayColl : replayColl.respond 3 5 3 .ack = replayAcked := rfl

/-- The places of slot 0 of STAGE. -/
def replayPlaces : List Place := (List.range 16).map (fun i => .mem { node := 1 } (stagePa + i))

/-- The package once the chunk is taken. -/
def replayTaken : State := collPump (collJudge replayAcked Tests.cRoot replayChunk).1 replayChunk.group

theorem replayColl_legal : replayColl.legal = true ∧ replayColl.prov = [] ∧ FMap.sorted replayColl.colls = true := by decide +kernel

theorem replayColl_admits : ∃ v, ingressCheck replayColl 5 0 replayToken 3 (some (Tests.cRoot.q.stage % 2 ^ 44)) (9 * 2 ^ 20) = (replayColl, .ok v) :=
  Tests.ingressGranted replayColl 5 0 (1 + 15 * 2 ^ 16 + 1 * 2 ^ 20) _ (0x1F + 0xFFFF * 2 ^ 64) _ _ (Tests.tokenOf_toNat replayColl 5 0 1 15 1 (by decide)) (by simp [tokenMac]) (by decide +kernel)
    (by decide +kernel) (by decide) (by decide) (by decide) (by decide +kernel) (by decide +kernel)

theorem replayColl_coll : replayColl.collOf 9 = some Tests.cRoot ∧ replayColl.colls.find 4 = some Tests.cRoot := by decide +kernel

theorem replayStage_places : collPlaces replayAcked Tests.cRoot (Tests.cRoot.q.stage + 65536 * (4 * replayChunk.plane + 0)) replayChunk.bytes.length true = (replayAcked, .ok replayPlaces) ∧
    ∀ pl ∈ replayPlaces, placeSound replayAcked pl = true := by decide +kernel

/-- The chunk is taken, and what it writes is provisional: another launch still reads the byte that was committed. -/
theorem replayTaken_provisional : (collJudge replayAcked Tests.cRoot replayChunk).2 = .taken ∧ replayTaken.placeByte (.mem stageReader stagePa) = 1 := by decide +kernel

theorem stagePa_key : replayAcked.lineTag stagePa = replayAcked.keyTag stageReader stagePa := by decide +kernel

/-- The chunk's byte there. -/
theorem stagePa_written : ((replayPlaces.zipIdx.map (fun z => (z.1, replayChunk.bytes.getD z.2 0, replayChunk.psn))).reverse.find?
    (fun y => Claims.samePlace y.1 (.mem stageReader stagePa))).map (fun y => y.2.1) = some 3 := by decide +kernel

/-- Refutes O47: by the statement the bytes of a chunk that is taken stand at STAGE for every reader. Its clause on chunks leaves open whether the launch of the collective's
workgroup is replayable; of such a launch the bytes are provisional (R421), and another launch still reads what was committed before. -/
theorem not_collectivesAreAcceptedAndRun : ¬ Obligations.CollectivesAreAcceptedAndRun := by
  unfold Obligations.CollectivesAreAcceptedAndRun
  rintro ⟨-, h⟩
  obtain ⟨hlegal, hprov, hcolls⟩ := replayColl_legal
  obtain ⟨v, hin⟩ := replayColl_admits
  obtain ⟨hof, hfind⟩ := replayColl_coll
  obtain ⟨hplaces, hsound⟩ := replayStage_places
  obtain ⟨htaken, hafter⟩ := replayTaken_provisional
  have hlost : replayColl.isLost 5 = false := by decide
  have hnew : replayColl.performed.find (answerKey 3 5 3) = none := rfl
  have hheld : replayColl.collHeld.any (fun h => h.pkg == 5 && h.seq == 3 && !h.acked) = false := rfl
  have hex := exec_collChunk_taken (ch := replayChunk) hlost hnew hheld hof hin (respond_replayColl ▸ htaken)
  rw [respond_replayColl] at hex
  obtain ⟨-, -, -, hchunk, -⟩ := h replayColl hlegal hprov hcolls
  obtain ⟨-, -, -, hnext⟩ := hchunk 5 0 3 replayToken replayChunk
  obtain ⟨-, hok⟩ := hnext hlost hnew hheld
  have hin' : ingressCheck replayColl 5 0 replayToken 3 ((replayColl.collOf replayChunk.group).map (fun c => c.q.stage % 2 ^ 44)) (9 * 2 ^ 20) = (replayColl, .ok v) := by
    rw [show replayColl.collOf replayChunk.group = some Tests.cRoot from hof]; exact hin
  obtain ⟨-, -, -, htake⟩ := hok replayColl v hin' rfl rfl
  obtain ⟨t, hext, ⟨hbytes, hpsn⟩, -⟩ := htake Tests.cRoot 0 replayPlaces replayAcked hof hfind rfl rfl rfl rfl rfl (by decide +kernel) (by decide +kernel) (by decide +kernel)
    (by decide +kernel) (by decide +kernel) (by decide +kernel) (by decide +kernel) (by decide +kernel) (by decide) (by decide +kernel) (fun m hm => absurd hm (by omega))
    hplaces (by decide +kernel) rfl hsound rfl rfl rfl
  have ht : t = replayTaken := Host.Outcome.next.inj (hext.symm.trans hex)
  have hnow := Stored.placeByte_mem ⟨hbytes, hpsn⟩ stagePa_key
  rw [ht, hafter, stagePa_written] at hnow
  exact absurd hnow (by decide)

end Sys2Proof.Machine
end

section
namespace Sys2Proof.Machine
open Sys2Proof Sys2Proof.Claims

set_option Elab.async false

/-! ## What stores leave at a place of memory -/

/-! ## A copy whose page walk leaves a provisional byte beside its destination (R108, R421, R422) -/

/-- A tile and its launch: one element of 4 bytes goes to VA 0x2010, in the line of the leaf entry that maps it. -/
def leafTile : Tile := { st := .ready, readers := 1, size := 1 }
def leafCopy : Copy := Tests.cp (Tests.imgOf 0 0x2010 1 1) 0 1

/-- The copy runs while a launch that a walk writes for, number 0, is replayable; no TLB entry translates its destination, and the leaf has its A and D bits clear. -/
def leafRun : State :=
  { Tests.sRun (Tests.imgOf 0 0x2010 1 1) leafTile 0 1 with
    launches := [(0, { r := { replay := true } }), (1, { uid := 1, r := { ntiles := 4 } })], tlb := [], regs := [(0x600008, BitVec.ofNat 64 (2 ^ 51 + 0x1000))],
    mem := Tests.le8 (2 ^ 51 + 0x2001) (2 ^ 51 + 0x1000) ++ Tests.le8 (2 ^ 51 + 7) (2 ^ 51 + 0x2000) }

/-- Its workgroup. -/
def leafWg : Wg := { uid := 1, core := 0, slots := [0], ways := 1 }

/-- The copy's shape. -/
abbrev leafShape : Shape := shapeOf leafCopy.img leafCopy.q.base

/-- The package once the destination is translated. -/
def leafWalked : State := (engPlaces leafRun leafCopy (leafShape.dstAt leafCopy.at_) leafShape.esz true).1

/-- The places of the element in the tile. -/
abbrev leafSource : List Place := tilePlaces leafWg leafTile (leafShape.srcAt leafCopy.at_ (fun _ => 0)) leafShape.esz

/-- The places of the element in memory. -/
def leafPlaces : List Place := (List.range 4).map (fun i => .mem { node := 1 } (2 ^ 51 + 0x2010 + i))

/-- The byte of the leaf with its A and D bits, and another launch that reads there. -/
def leafByte : Nat := 2 ^ 51 + 0x2001
def leafReader : Acc := { node := 5 }

theorem leafRun_legal : leafRun.legal = true ∧ FMap.sorted leafRun.copies = true ∧ leafRun.prov = [] ∧ leafRun.isReplayable leafWg.uid = false := by decide +kernel

theorem leafRun_runs : RunsOn leafRun 4 leafCopy leafWg leafTile := by decide +kernel

theorem leafRun_places : engPlaces leafRun leafCopy (leafShape.dstAt leafCopy.at_) leafShape.esz true = (leafWalked, .ok leafPlaces) := by decide +kernel

theorem leafPlaces_sound : ∀ pl ∈ leafPlaces ++ leafSource, placeSound leafRun pl = true ∧ placeSound leafWalked pl = true ∧ placeCalm leafWalked pl = true := by decide +kernel

theorem leafByte_key : leafWalked.lineTag leafByte = leafWalked.keyTag leafReader leafByte := by decide +kernel

/-- The byte of the leaf that another launch reads before and after the element is delivered. -/
theorem leafByte_before : leafWalked.placeByte (.mem leafReader leafByte) = 0 := by decide +kernel

theorem leafByte_after : (match exec (.barrierEngineArrival 4) leafRun with | .next t => t.placeByte (.mem leafReader leafByte) | _ => 0) = 3 := by decide +kernel

/-- No byte of the element goes to the leaf. -/
theorem leafByte_unwritten : (leafPlaces.zipIdx.map (fun y => (y.1, (leafSource.map leafRun.placeByte).getD y.2 0, leafSource.any leafRun.placePsn))).reverse.find?
    (fun y => Claims.samePlace y.1 (.mem leafReader leafByte)) = none := by decide +kernel

/-- Refutes O46: by the statement an element that a copy writes to memory changes no byte but its own. Here the walk that translates its destination sets A and D of the leaf for the
replayable launch 0, which leaves that byte provisional; the element's store to the same line commits it, and another launch then reads 3 where it read 0. -/
theorem not_copiesAreAcceptedRunAndEnd : ¬ Obligations.CopiesAreAcceptedRunAndEnd := by
  unfold Obligations.CopiesAreAcceptedRunAndEnd
  intro h
  obtain ⟨hlegal, hcopies, hprov, hrep⟩ := leafRun_legal
  obtain ⟨-, -, -, -, hrun, -⟩ := h leafRun hlegal hcopies
  obtain ⟨-, -, hstore, -⟩ := hrun 4 leafCopy leafWg leafTile leafRun_runs hprov hrep (by decide +kernel)
  obtain ⟨t, hext, -, hstored⟩ := hstore leafWalked leafPlaces (by decide +kernel) (by decide +kernel) (by decide +kernel) (by decide +kernel) leafRun_places (by decide +kernel) (by decide +kernel) leafPlaces_sound
  have hnow := Stored.placeByte_mem hstored leafByte_key
  have hafter := leafByte_after
  rw [hext] at hafter
  replace hafter : t.placeByte (.mem leafReader leafByte) = 3 := hafter
  rw [hafter, leafByte_unwritten, Option.map_none, Option.getD_none, leafByte_before] at hnow
  exact absurd hnow (by decide)

end Sys2Proof.Machine
end

section
namespace Sys2Proof.Machine
open Sys2Proof Sys2Proof.Claims

set_option Elab.async false

/-! ## A flush of a pack in slot 48, which no core has (R175, R5) -/

/-- The unit of a pack in slot 48 of core 0. -/
def outerUnit : Cur := { Tests.un with slot := 48 }

/-- No stream holds a position and no MMA is queued. The key of the pack is that of slot 0 of core 1, so a flush that settles core 0 does not meet it. -/
def outerFlush : State := { Tests.sTile (Tests.tile .ready) Tests.p0 with packs := [(48, Tests.p0)], cur := some outerUnit }

theorem outerFlush_issues : Issues .strmFlush outerFlush outerUnit Tests.p0 ∧ (∀ r ∈ outerFlush.packs, r.2.flushes = []) ∧
    (outerFlush.core 0).mmaQ.any (fun e => e.popped.isNone && decide (e.ownAt < outerFlush.ownSteps)) = false := by decide +kernel

/-- The pack still holds its flush after the unit, and so waits. -/
theorem outerFlush_waits : (match exec .strmFlush outerFlush with | .next t => ((t.pack 0 48).flushes.map Flush.done, (t.pack 0 48).ownStall) | _ => ([], none)) = ([false], some 1) := by decide +kernel

/-- Refutes O31: by the statement a flush takes effect at once where no queued MMA has still to pop. It leaves the slot of its pack open, and for a slot above 47 the flush is not found
when its core's flushes are settled; the unit then waits. -/
theorem not_streamsAndRecordCache : ¬ Obligations.StreamsAndRecordCache := by
  unfold Obligations.StreamsAndRecordCache
  intro h
  obtain ⟨hissues, hnone, hleft⟩ := outerFlush_issues
  obtain ⟨-, -, -, hflush, -⟩ := h outerFlush outerUnit Tests.p0 {} 0 0 0 0
  obtain ⟨-, hdone⟩ := hflush hissues hnone
  obtain ⟨t, q, hext, hq, -, -, -, ⟨hpack, -⟩, -⟩ := hdone hleft (by decide +kernel) (by decide +kernel)
  have hwaits := outerFlush_waits
  rw [hext] at hwaits
  replace hwaits : ((t.pack 0 48).flushes.map Flush.done, (t.pack 0 48).ownStall) = ([false], some 1) := hwaits
  rw [show t.pack 0 48 = q from State.pack_of_pack? hq] at hwaits
  have hkept : q.flushes = [] := by rw [hpack]; rfl
  rw [hkept] at hwaits
  exact absurd hwaits (by simp)

end Sys2Proof.Machine
end

section
namespace Sys2Proof.Machine
open Sys2Proof Sys2Proof.Claims

set_option Elab.async false

/-! ## Tile instructions (R166 to R171) -/

/-- An instruction that reads no vector register traps no tag. -/
theorem ctxOf_tagged_of_noRead {i : Instr} (h : (instrUses i).rd = []) (s : State) (u : Cur) (p : Pack) : (ctxOf i s u p).tagged = [] := by
  have hus : (usesOf i).rd = [] := h
  simp [ctxOf, mkCtx, tagTrap, hus]

/-- The body of an instruction that names a tile: the RANGE trap, or its effect on the tile's entry. -/
theorem tileOp_body {i : Instr} {n sh : Nat} {eff : Ctx → Tile → Res} {s : State} : ∃ body, tileOp i n sh eff s = runUnit i (instrUses i) body s ∧
    ∀ c : Ctx, (c.q.ntiles ≤ n → body c = tileTrap c 1 n sh) ∧ (n < c.q.ntiles → body c = eff c (c.s.tile (c.s.wg c.p.wg) n)) :=
  ⟨_, rfl, fun _ => ⟨fun hn => if_pos hn, fun hn => if_neg (Nat.not_le.2 hn)⟩⟩

/-- A tile within the allocation: the unit has the effect that its instruction has on the tile's entry. -/
theorem onTile_unit {i : Instr} {s : State} {u : Cur} {p : Pack} {n sh : Nat} {x : Tile} {eff : Ctx → Tile → Res} (h : OnTile i s u p n x) (hex : exec i s = tileOp i n sh eff s) :
    ∃ body, exec i s = runUnit i (instrUses i) body s ∧ body (ctxOf i s u p) = eff (ctxOf i s u p) x := by
  obtain ⟨-, -, hn, hx, -, -⟩ := h
  obtain ⟨body, hbody, hcase⟩ := tileOp_body (i := i) (n := n) (sh := sh) (eff := eff) (s := s)
  refine ⟨body, hex.trans hbody, ((hcase _).2 hn).trans ?_⟩
  rw [show (ctxOf i s u p).s.tile ((ctxOf i s u p).s.wg (ctxOf i s u p).p.wg) n = x from State.tile_of_find hx]

/-- What a unit's own effect may change where it acts on tiles and streams: from s to v, and its pack to p1. -/
structure TileEffect (s v : State) (u : Cur) (p p1 : Pack) : Prop where
  pack : v.pack? u.core u.slot = some p1
  event : p1 = { p with evpend := p1.evpend }
  rest : v = { s with packs := v.packs, cores := v.cores, copies := v.copies, recCache := v.recCache, memPsn := v.memPsn }
  core : ∀ j, v.core j = { s.core j with tiles := (v.core j).tiles, strA := (v.core j).strA, strB := (v.core j).strB, lastFed := (v.core j).lastFed }
  others : ∀ k r, k ≠ packKey u.core u.slot → s.packs.find k = some r → v.packs.find k = some r ∨ ∃ cls, r.wg = p.wg ∧ v.packs.find k = some (r.post cls)

/-- No byte of memory depends on tile tables and streams. -/
theorem TileEffect.bytes {s v : State} {u : Cur} {p p1 : Pack} (h : TileEffect s v u p p1) : SameBytes s v := by
  intro pl
  cases pl with
  | mem a pa => rw [h.rest]; rfl
  | spad c off =>
    show ((v.core c).spad.find off).getD 0 = ((s.core c).spad.find off).getD 0
    rw [h.core c]
  | chip off => rw [h.rest]; rfl

theorem TileEffect.rest_trans {s v t : State} {u : Cur} {p p1 : Pack} (h : TileEffect s v u p p1) (ht : SameRest v t) :
    t = { s with packs := t.packs, cores := t.cores, nextId := t.nextId, outbox := t.outbox, copies := t.copies, recCache := t.recCache, memPsn := t.memPsn } := by
  unfold SameRest at ht
  rw [ht, h.rest]

/-- A UNIT WHOSE EFFECT IS ON TILES AND STREAMS: what it leaves beside that effect. -/
theorem unit_tiles {i : Instr} {s : State} {u : Cur} {p p1 : Pack} (h : Issues i s u p) {body : Ctx → Res} (hex : exec i s = runUnit i (instrUses i) body s) {v : State}
    (hb : body (ctxOf i s u p) = { s := v }) (ht : (ctxOf i s u p).tagged = []) (he : TileEffect s v u p p1) :
    TileUnit i s u p (fun t q => q.s = p.s ∧ q.pending = p.pending ∧ SameBytes s t ∧ OnlyPack v t u q) := by
  have hp := he.pack
  have hp1 := he.event
  let r : Res := { s := v, traps := (ctxOf i s u p).tagged ++ [] }
  have htr : r.traps = [] := by simp [r, ht]
  obtain ⟨ts, ho, -⟩ := finish_spec (ctxOf i s u p) (usesOf i) r rfl hp
  obtain ⟨hend, hdel, hpos, hfr⟩ := endPack_spec (ctxOf i s u p) (usesOf i) r p1 rfl
  have hcell := endPack_cell (ctxOf i s u p) (usesOf i) r p1 rfl
  have hmk : exec i s = .next (finish (ctxOf i s u p) (usesOf i) r) := by rw [hex, runUnit_issues body h, hb]
  rw [show withTraps _ r.s (ctxOf i s u p).u r.traps = (endPack (ctxOf i s u p) (usesOf i) r p1).pending by rw [htr]; rfl] at ho
  generalize endPack (ctxOf i s u p) (usesOf i) r p1 = e at hend hdel hpos hfr hcell ho
  have hlane : ∀ l, p1.lane l = p.lane l := fun l => Pack.lane_congr (by rw [hp1]) l
  have hframe : ∀ d, p1.frameAt d = p.frameAt d := fun d => by rw [hp1]; rfl
  have hframes : p1.frames = p.frames := by rw [hp1]
  have hall : u.ig &&& ~~~(0 : Word) = u.ig := BitVec.and_allOnes
  rw [show (ctxOf i s u p).ig &&& ~~~r.stay = u.ig from hall] at hpos
  refine ⟨_, _, hmk, ho.1, he.rest_trans ho.2.1, fun j => ?_, fun k x hk hx => ?_, ⟨?_, ?_⟩, fun l => ?_, ⟨fun r' l _ => ?_, fun d => ?_, fun _ => ?_⟩, ?_, ?_, ?_, ?_, fun pl => ?_, ho⟩
  · rw [ho.2.2.1 j, show r.s.core j = _ from he.core j]
  · rw [ho.2.2.2 k hk]
    exact he.others k x hk hx
  · show { e with toks := ts, pending := e.pending } = _
    rw [hend, hp1]
  · obtain ⟨el, hel⟩ := hdel
    exact ⟨el, hel.trans (by rw [hp1])⟩
  · have := hpos l
    rwa [hlane] at this
  · exact (hcell u.depth r' l).trans (by rw [hframe])
  · have := hfr d
    rw [hframes] at this
    exact ⟨this.1, fun r' l _ _ => this.2 r' l⟩
  · show e.trapFrame = _
    rw [hend, hp1]
  · show e.m = _
    rw [hend, hp1]
  · show e.fpc = _
    rw [hend, hp1]
  · show e.s = _
    rw [hend, hp1]
  · show e.pending = _
    rw [hend, hp1]
  · exact (ho.bytes pl).trans (he.bytes pl)

/-! ### What stands in the tile table and the streams -/

theorem SameRest.copies {s t : State} (h : SameRest s t) : t.copies = s.copies := by rw [h]

theorem SameRest.recCache {s t : State} (h : SameRest s t) : t.recCache = s.recCache := by rw [h]

theorem SameRest.memPsn {s t : State} (h : SameRest s t) : t.memPsn = s.memPsn := by rw [h]

theorem TileEffect.refl {s : State} {u : Cur} {p : Pack} (hp : s.pack? u.core u.slot = some p) : TileEffect s s u p p :=
  ⟨hp, rfl, rfl, fun _ => rfl, fun _ _ _ hr => .inl hr⟩

/-- An entry of the tile table is written. -/
theorem TileEffect.updTile {s v : State} {u : Cur} {p : Pack} (h : TileEffect s v u p p) {w : Wg} {n : Nat} {x : Tile} (hx : (v.core w.core).tiles.find (w.tileIx n) = some x) (f : Tile → Tile) :
    TileEffect s (v.updTile w n f) u p p := by
  refine ⟨h.pack, rfl, ?_, fun j => ?_, h.others⟩
  · rw [State.updTile, h.rest]
    rfl
  · rw [(State.updTile_spec f hx).1 j, h.core j]

/-- An event of a workgroup, at any slot. -/
theorem State.postWg_find (s : State) (wg cls k : Nat) : (s.postWg wg cls).packs.find k = (s.packs.find k).map (fun p => if p.wg == wg then p.post cls else p) := by
  refine Eq.trans ?_ (FMap.find_map_values s.packs (fun p => if p.wg == wg then p.post cls else p) k)
  exact congrArg (fun m => FMap.find m k) (List.map_congr_left (fun x _ => by split <;> rfl))

/-- The workgroup's packs are told of an event. -/
theorem TileEffect.postWg {s v : State} {u : Cur} {p : Pack} (h : TileEffect s v u p p) (hpacks : v.packs = s.packs) (hw : p.waitev = []) (cls : Nat) :
    TileEffect s (v.postWg p.wg cls) u p (p.post cls) := by
  refine ⟨?_, Pack.post_of_no_wait cls hw, ?_, h.core, fun k r _ hr => ?_⟩
  · rw [State.postWg_pack?, h.pack]
    simp
  · rw [State.postWg, h.rest]
  · rw [State.postWg_find, hpacks, hr, Option.map_some]
    by_cases hwg : r.wg = p.wg
    · exact .inr ⟨cls, hwg, by rw [if_pos (beq_iff_eq.2 hwg)]⟩
    · exact .inl (by rw [if_neg (fun e => hwg (beq_iff_eq.1 e))])

/-- The end of a unit leaves the tile table. -/
theorem TileIs.of_sameCores {s v t : State} {w : Wg} {n : Nat} {x : Tile} (h : TileIs s v w n x) (ht : SameCores v t) : TileIs s t w n x := by
  have htiles : ∀ c, (t.core c).tiles = (v.core c).tiles := fun c => by rw [ht c]
  refine ⟨?_, fun c k hck => ?_⟩
  · rw [State.tile, htiles]
    exact h.1
  · rw [htiles]
    exact h.2 c k hck

/-- An event of a workgroup leaves the tile table. -/
theorem TileIs.postWg {s v : State} {w : Wg} {n : Nat} {x : Tile} (wg cls : Nat) (h : TileIs s v w n x) : TileIs s (v.postWg wg cls) w n x := h

/-- The end of a unit leaves the streams. -/
theorem SameStreams.of_sameCores {s v t : State} (h : SameStreams s v) (ht : SameCores v t) : SameStreams s t := by
  intro j
  rw [ht j]
  exact h j

theorem State.updTile_streams {s : State} {w : Wg} {n : Nat} {x : Tile} (f : Tile → Tile) (hx : (s.core w.core).tiles.find (w.tileIx n) = some x) : SameStreams s (s.updTile w n f) := by
  intro j
  rw [(State.updTile_spec f hx).1 j]
  exact ⟨rfl, rfl, rfl⟩

/-- A unit that writes one entry of the tile table and nothing else but events. -/
theorem unit_writesTile {i : Instr} {s : State} {u : Cur} {p p1 : Pack} (h : Issues i s u p) {body : Ctx → Res} (hex : exec i s = runUnit i (instrUses i) body s) {v : State}
    (hb : body (ctxOf i s u p) = { s := v }) (ht : (ctxOf i s u p).tagged = []) (he : TileEffect s v u p p1) {w : Wg} {n : Nat} {x : Tile} (hstr : SameStreams s v)
    (hsame : v.copies = s.copies ∧ v.recCache = s.recCache ∧ v.memPsn = s.memPsn) (hx : TileIs s v w n x) :
    TileUnit i s u p (fun t q => q.s = p.s ∧ q.pending = p.pending ∧ SameBytes s t ∧ SameStreams s t ∧ t.copies = s.copies ∧ t.recCache = s.recCache ∧ t.memPsn = s.memPsn ∧ TileIs s t w n x) := by
  obtain ⟨t, q, hex', hq, hrest, hcore, hothers, hbut, hlanes, hregs, hm, hfpc, hs, hpend, hbytes, ho⟩ := unit_tiles h hex hb ht he
  exact ⟨t, q, hex', hq, hrest, hcore, hothers, hbut, hlanes, hregs, hm, hfpc, hs, hpend, hbytes, SameStreams.of_sameCores hstr ho.2.2.1,
    (SameRest.copies ho.2.1).trans hsame.1, (SameRest.recCache ho.2.1).trans hsame.2.1, (SameRest.memPsn ho.2.1).trans hsame.2.2, TileIs.of_sameCores hx ho.2.2.1⟩

/-! ### The instructions -/

/-- The copies that TRESUME starts again. -/
def Copy.resume (wg n : Nat) (c : Copy) : Copy :=
  { c with status := if c.wg = wg ∧ c.q.tile = n ∧ c.status = 2 ∧ c.cause = 2 then 0 else c.status }

/-- The bodies of the tile instructions. -/
theorem exec_tstat (n : BitVec 8) (d : BitVec 7) (s : State) : exec (.tstat d n) s = tileOp (.tstat d n) n.toNat 0 (fun c x => sop c d.toNat (BitVec.ofNat 64 x.stat)) s := rfl

theorem exec_trel (n : BitVec 8) (s : State) : exec (.trel n) s = tileOp (.trel n) n.toNat 0 (fun c x =>
    match x.st with
    | .filling => { s := c.s, stall := some 1 }
    | .ready =>
      if x.readers = 0 then { s := (c.s.updTile (c.s.wg c.p.wg) n.toNat (fun x => { x with st := .empty })).postWg c.p.wg 1 }
      else { s := c.s.updTile (c.s.wg c.p.wg) n.toNat (fun x => { x with st := .draining }) }
    | _ => { s := c.s }) s := rfl

theorem Copy.resume_eq (wg n : Nat) (x : Nat × Copy) :
    (if x.2.wg == wg && x.2.q.tile == n && x.2.status == 2 && x.2.cause == 2 then (x.1, { x.2 with status := 0 }) else x) = (x.1, x.2.resume wg n) := by
  unfold Copy.resume
  simp only [Bool.and_eq_true, beq_iff_eq, and_assoc]
  split <;> rfl

theorem exec_tresume (n : BitVec 8) (s : State) : exec (.tresume n) s = tileOp (.tresume n) n.toNat 0 (fun c _ =>
    { s := State.notePaused { c.s with copies := c.s.copies.map (fun x => (x.1, x.2.resume c.p.wg n.toNat)) } c.p.wg n.toNat }) s := by
  change execTresume n s = _
  unfold execTresume
  simp only [Copy.resume_eq]

/-- TREL releases a READY tile, which is DRAINING while it has readers, and leaves an EMPTY or DRAINING one (R167, R170). -/
theorem trel_releases {s : State} {u : Cur} {p : Pack} {x : Tile} {n : BitVec 8} (h : OnTile (.trel n) s u p n.toNat x) (hst : x.st ≠ .filling) (hw : p.waitev = []) :
    TileUnit (.trel n) s u p (fun t q => q.s = p.s ∧ q.pending = p.pending ∧ SameBytes s t ∧ SameStreams s t ∧ t.copies = s.copies ∧ t.recCache = s.recCache ∧ t.memPsn = s.memPsn ∧
      TileIs s t (s.wg p.wg) n.toNat { x with st := if x.st = .ready then (if x.readers = 0 then .empty else .draining) else x.st }) := by
  obtain ⟨body, hex, hb⟩ := onTile_unit h (exec_trel n s)
  obtain ⟨-, hi, -, hx, -⟩ := h
  have ht := ctxOf_tagged_of_noRead (i := .trel n) rfl s u p
  have h0 := TileEffect.refl hi.2.2.1
  have hkeeps : x.st ≠ .ready → body (ctxOf (.trel n) s u p) = { s := s } := by
    intro hne
    rw [hb]
    cases hc : x.st <;> simp_all
  by_cases hr : x.st = .ready
  · by_cases h0r : x.readers = 0
    · refine unit_writesTile hi hex (hb.trans ?_) ht ((h0.updTile hx (fun x => { x with st := .empty })).postWg rfl hw 1) (State.updTile_streams _ hx) ⟨rfl, rfl, rfl⟩ ?_
      · simp [hr, h0r]
      · rw [if_pos hr, if_pos h0r]
        exact TileIs.postWg p.wg 1 (State.updTile_spec _ hx).2
    · refine unit_writesTile hi hex (hb.trans ?_) ht (h0.updTile hx (fun x => { x with st := .draining })) (State.updTile_streams _ hx) ⟨rfl, rfl, rfl⟩ ?_
      · simp [hr, h0r]
      · rw [if_pos hr, if_neg h0r]
        exact (State.updTile_spec _ hx).2
  · refine unit_writesTile hi hex (hkeeps hr) ht h0 (fun _ => ⟨rfl, rfl, rfl⟩) ⟨rfl, rfl, rfl⟩ ?_
    rw [if_neg hr]
    exact ⟨State.tile_of_find hx, fun _ _ _ => rfl⟩

/-- TRESUME starts the tile's copies that pre-emption saved, and PAUSED shows what is left (R169, R179). -/
theorem tresume_resumes {s : State} {u : Cur} {p : Pack} {x : Tile} {n : BitVec 8} (h : OnTile (.tresume n) s u p n.toNat x) :
    TileUnit (.tresume n) s u p (fun t q => q.s = p.s ∧ q.pending = p.pending ∧ SameBytes s t ∧ SameStreams s t ∧
      TileIs s t (s.wg p.wg) n.toNat { x with paused := t.copies.any (fun c => c.2.wg == p.wg && c.2.q.tile == n.toNat && c.2.status == 2) } ∧
      t.recCache = s.recCache ∧ t.memPsn = s.memPsn ∧ t.copies = s.copies.map (fun c => (c.1, c.2.resume p.wg n.toNat))) := by
  obtain ⟨body, hex, hb⟩ := onTile_unit h (exec_tresume n s)
  obtain ⟨-, hi, -, hx, -⟩ := h
  have h0 := TileEffect.refl hi.2.2.1
  let s1 : State := { s with copies := s.copies.map (fun c => (c.1, c.2.resume p.wg n.toNat)) }
  have he : TileEffect s s1 u p p := ⟨h0.pack, rfl, rfl, h0.core, h0.others⟩
  have hx1 : (s1.core (s.wg p.wg).core).tiles.find ((s.wg p.wg).tileIx n.toNat) = some x := hx
  obtain ⟨t, q, hex', hq, hrest, hcore, hothers, hbut, hlanes, hregs, hm, hfpc, hs, hpend, hbytes, ho⟩ :=
    unit_tiles hi hex hb (ctxOf_tagged_of_noRead (i := .tresume n) rfl s u p) (he.updTile hx1 _)
  have hcopies : t.copies = s1.copies := SameRest.copies ho.2.1
  refine ⟨t, q, hex', hq, hrest, hcore, hothers, hbut, hlanes, hregs, hm, hfpc, hs, hpend, hbytes, SameStreams.of_sameCores (State.updTile_streams (s := s1) _ hx1) ho.2.2.1, ?_,
    (SameRest.recCache ho.2.1).trans rfl, (SameRest.memPsn ho.2.1).trans rfl, hcopies⟩
  rw [hcopies]
  exact TileIs.of_sameCores (s := s) (State.updTile_spec (s := s1) _ hx1).2 ho.2.2.1

/-- The TSTAT image in numbers (R169). -/
theorem Tile.stat_eq (x : Tile) : x.stat = (match x.st with | .empty => 0 | .filling => 1 | .ready => 2 | .draining => 3) + x.readers * 4 + x.err * 256 + (if x.paused then 4096 else 0) +
    (if x.psn then 8192 else 0) + x.size * 65536 + x.off * 4294967296 := by
  unfold Tile.stat b2n
  cases x.paused <;> cases x.psn <;> rfl

/-- A unit that writes one s register. -/
theorem unit_sop {i : Instr} {s : State} {u : Cur} {p : Pack} (h : Issues i s u p) {body : Ctx → Res} (hex : exec i s = runUnit i (instrUses i) body s) {d : Nat} {v : DWord}
    (hb : body (ctxOf i s u p) = sop (ctxOf i s u p) d v) (ht : (ctxOf i s u p).tagged = []) : ScalarDone i s u p d v := by
  obtain ⟨t, q, he, hreg, hs, hm, hf, htf, hpend, hcell, hrec⟩ := unit_reg (g := fun p => p.setS d v) h body hb rfl rfl rfl rfl
  have hall : u.ig &&& ~~~(0 : Word) = u.ig := BitVec.and_allOnes
  rw [ht] at hpend
  refine ⟨t, q, hex.trans he, hall ▸ hreg, ⟨fun r l _ => hcell u.depth r l, fun e => ⟨(hrec e).1, fun r l _ _ => (hrec e).2 r l⟩, fun _ => htf⟩, fun j => ?_, hm, hf, hpend⟩
  exact (congrArg (·.getD j 0) hs).trans (Pack.sreg_setS p d j v)

/-- The request that TCOPY leaves (R157). -/
def tcopyReq (c : Ctx) (n : BitVec 8) (base bar : BitVec 5) (acq rel dig : BitVec 1) (shape : BitVec 12) (scope : BitVec 3) (rop : BitVec 4) : TcopyReq :=
  { tok := c.s.nextId, lanes := c.ig, pc := c.u.pc, k := c.u.k, words := c.u.words, ownAt := c.u.ownAt, tile := n.toNat, shape := shape.toNat, scope := scope.toNat, rop := rop.toNat,
    acq := acq == 1, rel := rel == 1, dig := dig == 1, base := if base = 0 then none else some (c.p.sreg base.toNat),
    bar := if bar = 0 then none else some ((c.p.sreg bar.toNat).toNat % 2 ^ 32) }

theorem exec_tcopy (n : BitVec 8) (base bar : BitVec 5) (acq rel dig : BitVec 1) (la rop : BitVec 4) (shape : BitVec 12) (scope : BitVec 3) (s : State) :
    exec (.tcopy n base bar acq rel dig la shape scope rop) s = tileOp (.tcopy n base bar acq rel dig la shape scope rop) n.toNat shape.toNat (fun c _ =>
      if bar ≠ 0 ∧ !barOk c.s c.p ((c.p.sreg bar.toNat).toNat % 2 ^ 32) then tileTrap c 4 n.toNat shape.toNat
      else { s := c.s.updPack c.u.core c.u.slot (fun p => { p with tcq := p.tcq ++ [tcopyReq c n base bar acq rel dig shape scope rop] }), kind := 4 }) s := rfl

theorem exec_feeds {i : Instr} {n : BitVec 8} {b : Bool} (h : i = .strmFeeda n ∧ b = false ∨ i = .strmFeedb n ∧ b = true) (s : State) : ∃ eff, exec i s = tileOp i n.toNat 0 eff s := by
  have hex : exec i s = feedOp i n.toNat b s := by
    rcases h with ⟨rfl, rfl⟩ | ⟨rfl, rfl⟩ <;> rfl
  rw [hex]
  unfold feedOp
  exact ⟨_, rfl⟩

/-- The instructions that name a tile, with the shape index that their RANGE trap shows. -/
theorem exec_namesTile {i cp : Instr} {n : BitVec 8} {d : BitVec 7} {base bar : BitVec 5} {acq rel dig : BitVec 1} {la rop : BitVec 4} {shape : BitVec 12} {scope : BitVec 3} {sh : Nat}
    (hcp : cp = .tcopy n base bar acq rel dig la shape scope rop)
    (h : (i = .tstat d n ∨ i = .trel n ∨ i = .tresume n ∨ i = .strmFeeda n ∨ i = .strmFeedb n) ∧ sh = 0 ∨ i = cp ∧ sh = shape.toNat) (s : State) :
    ∃ eff, exec i s = tileOp i n.toNat sh eff s := by
  subst hcp
  rcases h with ⟨rfl | rfl | rfl | rfl | rfl, rfl⟩ | ⟨rfl, rfl⟩
  · exact ⟨_, exec_tstat n d s⟩
  · exact ⟨_, exec_trel n s⟩
  · exact ⟨_, exec_tresume n s⟩
  · exact exec_feeds (.inl ⟨rfl, rfl⟩) s
  · exact exec_feeds (.inr ⟨rfl, rfl⟩) s
  · exact ⟨_, exec_tcopy n base bar acq rel dig la rop shape scope s⟩

/-- A tile outside the allocation (R166). -/
theorem unit_outsideTiles {i : Instr} {s : State} {u : Cur} {p : Pack} {n sh : Nat} {eff : Ctx → Tile → Res} (h : Issues i s u p) (hex : exec i s = tileOp i n sh eff s)
    (hn : (ctxOf i s u p).q.ntiles ≤ n) : OnlyTraps i s u p (groupTrap (ctxOf i s u p) tTILE 1 0 (leBytes 4 (n + sh * 2 ^ 16))) := by
  obtain ⟨body, hbody, hcase⟩ := tileOp_body (i := i) (n := n) (sh := sh) (eff := eff) (s := s)
  exact unit_onlyTraps h (hex.trans hbody) ((hcase _).1 hn)

/-- Settles O30: each instruction's effect is read off its body; the RANGE trap comes first, and the end of the unit leaves tiles and copies alone. -/
theorem tileInstructions : Obligations.TileInstructions := by
  unfold Obligations.TileInstructions
  intro s u p x n d base bar acq rel dig la rop shape scope
  refine ⟨fun i sh hi _ hiss hn => ?_, fun h => ?_, fun h hst => ?_, fun h hst hw => trel_releases h hst hw, fun h => ?_, fun h => ⟨fun hbar => ?_, fun hbar => ?_⟩⟩
  · obtain ⟨eff, hex⟩ := exec_namesTile rfl hi s
    exact unit_outsideTiles hiss hex hn
  · obtain ⟨body, hex, hb⟩ := onTile_unit h (exec_tstat n d s)
    have hdone := unit_sop h.2.1 hex hb (ctxOf_tagged_of_noRead (i := .tstat d n) rfl s u p)
    rw [Tile.stat_eq] at hdone
    exact hdone
  · obtain ⟨body, hex, hb⟩ := onTile_unit h (exec_trel n s)
    exact unit_stalls h.2.1 hex (hb.trans (by rw [hst]; rfl))
  · obtain ⟨t, q, hex, hq, hrest, hcore, hothers, hbut, hlanes, hregs, hm, hfpc, hs, hpend, hbytes, hstr, htile, hrec, hpsn, hcopies⟩ := tresume_resumes h
    refine ⟨t, q, hex, hq, hrest, hcore, hothers, hbut, hlanes, hregs, hm, hfpc, hs, hpend, hbytes, hstr, htile, hrec, hpsn, ?_, fun k c hk => ?_⟩
    · rw [hcopies]
      simp [FMap.keys, Function.comp_def]
    · rw [hcopies, FMap.find_map_values, hk]
      rfl
  · obtain ⟨body, hex, hb⟩ := onTile_unit h (exec_tcopy n base bar acq rel dig la rop shape scope s)
    exact unit_onlyTraps h.2.1 hex (hb.trans (if_pos (by simpa using hbar)))
  · obtain ⟨body, hex, hb⟩ := onTile_unit h (exec_tcopy n base bar acq rel dig la rop shape scope s)
    refine ⟨tcopyReq (ctxOf (.tcopy n base bar acq rel dig la shape scope rop) s u p) n base bar acq rel dig shape scope rop, rfl, rfl, rfl, rfl, rfl, rfl, rfl, rfl, rfl, rfl, ?_⟩
    obtain ⟨t, q, he, hq, hrest, hcore, hothers, hbytes, hends, hpend⟩ := unit_done h.2.1 hex (hb.trans (if_neg (by rcases hbar with hbar | hbar <;> simp_all))) rfl rfl rfl rfl
    have hall : u.ig &&& ~~~(0 : Word) = u.ig := BitVec.and_allOnes
    rw [ctxOf_tagged_of_noRead (i := .tcopy n base bar acq rel dig la shape scope rop) rfl s u p] at hpend
    exact ⟨t, q, he, hq, hrest, hcore, hothers, hbytes, hall ▸ hends, hpend⟩

end Sys2Proof.Machine
end

section
namespace Sys2Proof.Machine
open Sys2Proof Sys2Proof.Claims

set_option Elab.async false

/-! ## The exact sum of a block's products (R91, R92) -/

theorem SumIs.add_inf {acc : Option Fv} {pos neg : Bool} {y : ℚ} (rm : Nat) (h : SumIs acc pos neg y) (s : Bool) (z : ℚ) :
    SumIs (sumStep rm acc (some (.inf s))) (pos || !s) (neg || s) z := by
  cases pos <;> cases neg
  · obtain ⟨v, _, rfl, s', m, e, rfl, -, -⟩ := h
    cases s <;> rfl
  all_goals
    rw [show acc = _ from h]
    cases s <;> rfl

theorem SumIs.add_fin {acc : Option Fv} {pos neg : Bool} {y : ℚ} (rm : Nat) (h : SumIs acc pos neg y) (s : Bool) (m : Nat) (e : Int) :
    SumIs (sumStep rm acc (some (.fin s m e))) pos neg (y + finVal s m e) := by
  cases pos <;> cases neg
  · obtain ⟨v, _, rfl, s', m', e', rfl, rfl, -⟩ := h
    exact ⟨_, _, rfl, addFin_isNum ..⟩
  all_goals rw [show acc = _ from h]; rfl

/-- The product of two codes' numbers. -/
theorem finVal_codes (f : Fmt) (a b : Nat) : finVal (fSign f a != fSign f b) (fMant f a * fMant f b) (fScale f a + fScale f b) = fVal f a * fVal f b := by
  obtain ⟨_, _, _, he, hv, -⟩ := mulFin_isNum (fSign f a) (fMant f a) (fScale f a) (fSign f b) (fMant f b) (fScale f b)
  obtain ⟨rfl, rfl, rfl⟩ := Fv.fin.inj he
  rw [fVal_eq_finVal, fVal_eq_finVal, hv]

/-- Is a product infinite, and is it negative? -/
def infPair (f : Fmt) (x : Nat × Nat) : Bool := fInf f x.1 || fInf f x.2
def negPair (f : Fmt) (x : Nat × Nat) : Bool := fSign f x.1 != fSign f x.2

/-- Has a product no value? -/
def badPair (f : Fmt) (x : Nat × Nat) : Bool := fNan f x.1 || fNan f x.2 || badMul f x.1 x.2

def mulPair (f : Fmt) (x : Nat × Nat) : Option Fv := mulVal (f.dec x.1) (f.dec x.2)

section
variable {f : Fmt} {x : Nat × Nat}

/-- A product of codes that are no NaN. -/
theorem Fmt.Sound.mulPair_eq (hf : f.Sound) (ha : fNan f x.1 = false) (hb : fNan f x.2 = false) :
    mulPair f x = if badMul f x.1 x.2 then none else if infPair f x then some (.inf (negPair f x))
      else some (.fin (negPair f x) (fMant f x.1 * fMant f x.2) (fScale f x.1 + fScale f x.2)) := by
  unfold mulPair infPair negPair badMul
  cases hia : fInf f x.1 <;> cases hib : fInf f x.2
  · rw [hf.dec_fin ha hia, hf.dec_fin hb hib]
    simp [mulVal]
  · rw [hf.dec_fin ha hia, hf.dec_inf hib]
    simp [mulVal, fVal_eq_zero_iff, ha, hb]
  · rw [hf.dec_inf hia, hf.dec_fin hb hib]
    simp [mulVal, fVal_eq_zero_iff, ha, hb]
  · rw [hf.dec_inf hia, hf.dec_inf hib]
    simp [mulVal]

theorem Fmt.Sound.sumIs_pair (hf : f.Sound) (hx : badPair f x = false) {acc : Option Fv} {pos neg : Bool} {y : ℚ} (h : SumIs acc pos neg y) :
    SumIs (sumStep 0 acc (mulPair f x)) (pos || (infPair f x && !negPair f x)) (neg || (infPair f x && negPair f x)) (y + fVal f x.1 * fVal f x.2) := by
  obtain ⟨⟨ha, hb⟩, hbad⟩ : (fNan f x.1 = false ∧ fNan f x.2 = false) ∧ badMul f x.1 x.2 = false := by simpa [badPair] using hx
  rw [hf.mulPair_eq ha hb, hbad, if_neg Bool.false_ne_true]
  cases infPair f x
  · have hval : finVal (negPair f x) (fMant f x.1 * fMant f x.2) (fScale f x.1 + fScale f x.2) = fVal f x.1 * fVal f x.2 := by
      obtain ⟨_, _, _, he, hv, -⟩ := mulFin_isNum (fSign f x.1) (fMant f x.1) (fScale f x.1) (fSign f x.2) (fMant f x.2) (fScale f x.2)
      obtain ⟨rfl, rfl, rfl⟩ := Fv.fin.inj he
      rw [fVal_eq_finVal, fVal_eq_finVal, ← hv]
      rfl
    rw [← hval]
    simpa using h.add_fin 0 _ _ _
  · simpa using h.add_inf 0 (negPair f x) _

theorem Fmt.Sound.sumIs_pairs (hf : f.Sound) (ps : List (Nat × Nat)) (hp : ps.any (badPair f) = false) {acc : Option Fv} {pos neg : Bool} {y : ℚ} (h : SumIs acc pos neg y) :
    SumIs ((ps.map (mulPair f)).foldl (sumStep 0) acc) (pos || ps.any (fun x => infPair f x && !negPair f x)) (neg || ps.any (fun x => infPair f x && negPair f x))
      (y + (ps.map (fun x => fVal f x.1 * fVal f x.2)).sum) := by
  induction ps generalizing acc pos neg y with
  | nil => simpa using h
  | cons x r ih =>
    obtain ⟨hx, hr⟩ : badPair f x = false ∧ r.any (badPair f) = false := by simpa using hp
    have := ih hr (hf.sumIs_pair hx h)
    simpa [Bool.or_assoc, add_assoc] using this

/-- A sum with a term that has no value has none. -/
theorem foldl_sumStep_none {vs : List (Option Fv)} {acc : Option Fv} (h : acc = none ∨ none ∈ vs) : vs.foldl (sumStep 0) acc = none := by
  induction vs generalizing acc with
  | nil => simpa using h
  | cons v r ih =>
    refine ih ?_
    rcases h with h | h
    · exact .inl (by rw [h]; rfl)
    · rcases List.mem_cons.1 h with h | h
      · exact .inl (by rw [← h]; cases acc <;> rfl)
      · exact .inr h

/-- A zero sum is +0. -/
def plainZero : Option Fv → Option Fv
  | some (.fin s m e) => if m = 0 then some (.fin false 0 0) else some (.fin s m e)
  | r => r

theorem blockSum_eq (hf : f.Sound) (as bs : List Nat) : blockSum f as bs =
    if (as.zip bs).any (fun x => fNan f x.1 || fNan f x.2) then none else plainZero (((as.zip bs).map (mulPair f)).foldl (sumStep 0) (some (.fin false 0 0))) := by
  have hany : ((as.zip bs).map (fun x => (f.dec x.1, f.dec x.2))).any (fun x => x.1.isNan || x.2.isNan) = (as.zip bs).any (fun x => fNan f x.1 || fNan f x.2) := by
    rw [List.any_map]
    congr 1
    funext x
    simp [hf.dec_isNan]
  unfold blockSum
  dsimp only
  rw [hany, List.map_map, sumVal_cons]
  exact if_congr Iff.rfl rfl rfl

/-- The signs of the infinite products. -/
def infSigns (f : Fmt) (ps : List (Nat × Nat)) : List Bool := (ps.filter (infPair f)).map (negPair f)

/-- Is there no sum: a product without value, or infinities of both signs? -/
def noSum (f : Fmt) (ps : List (Nat × Nat)) : Bool := ps.any (badPair f) || ((infSigns f ps).contains true && (infSigns f ps).contains false)

theorem mem_infSigns {ps : List (Nat × Nat)} {s : Bool} : s ∈ infSigns f ps ↔ ∃ x ∈ ps, infPair f x = true ∧ negPair f x = s := by
  simp [infSigns, and_assoc]

theorem any_pos_eq (ps : List (Nat × Nat)) : ps.any (fun x => infPair f x && !negPair f x) = (infSigns f ps).contains false := by
  rw [Bool.eq_iff_iff, List.contains_iff_mem, mem_infSigns]
  simp

theorem any_neg_eq (ps : List (Nat × Nat)) : ps.any (fun x => infPair f x && negPair f x) = (infSigns f ps).contains true := by
  rw [Bool.eq_iff_iff, List.contains_iff_mem, mem_infSigns]
  simp

theorem blockSum_none (hf : f.Sound) {as bs : List Nat} (h : noSum f (as.zip bs) = true) : blockSum f as bs = none := by
  rw [blockSum_eq hf]
  cases hn : (as.zip bs).any (fun x => fNan f x.1 || fNan f x.2)
  · have hnan : ∀ x ∈ as.zip bs, fNan f x.1 = false ∧ fNan f x.2 = false := fun x hx => by simpa using List.any_eq_false.1 hn x hx
    rw [if_neg Bool.false_ne_true]
    cases hb : (as.zip bs).any (badPair f)
    · have hs := hf.sumIs_pairs _ hb (acc := some (.fin false 0 0)) (pos := false) (neg := false) (y := 0) ⟨_, false, rfl, _, _, _, rfl, by simp [finVal], fun _ => rfl⟩
      rw [any_pos_eq, any_neg_eq] at hs
      obtain ⟨ht, hfa⟩ : (infSigns f (as.zip bs)).contains true = true ∧ (infSigns f (as.zip bs)).contains false = true := by simpa [noSum, hb] using h
      rw [ht, hfa] at hs
      rw [show List.foldl (sumStep 0) _ _ = none from hs]
      rfl
    · obtain ⟨x, hx, hbad⟩ := List.any_eq_true.1 hb
      obtain ⟨h1, h2⟩ := hnan x hx
      have hnone : mulPair f x = none := by
        rw [hf.mulPair_eq h1 h2, if_pos (by simpa [badPair, h1, h2] using hbad)]
      rw [foldl_sumStep_none (.inr (List.mem_map.2 ⟨x, hx, hnone⟩))]
      rfl
  · rw [if_pos rfl]

/-- A block whose sum is there: an infinity of the sign of its infinite products, or the number, where zero is +0. -/
theorem blockSum_some (hf : f.Sound) {as bs : List Nat} (h : noSum f (as.zip bs) = false) :
    match infSigns f (as.zip bs) with
    | s :: _ => blockSum f as bs = some (.inf s)
    | [] => ∃ s m e, blockSum f as bs = some (.fin s m e) ∧ finVal s m e = ((as.zip bs).map (fun x => fVal f x.1 * fVal f x.2)).sum ∧ (m = 0 → s = false) := by
  obtain ⟨hb, hsigns⟩ : (as.zip bs).any (badPair f) = false ∧ ((infSigns f (as.zip bs)).contains true && (infSigns f (as.zip bs)).contains false) = false := by
    simpa only [noSum, Bool.or_eq_false_iff] using h
  have hn : (as.zip bs).any (fun x => fNan f x.1 || fNan f x.2) = false := by
    refine List.any_eq_false.2 fun x hx => ?_
    have := List.any_eq_false.1 hb x hx
    simp_all [badPair]
  rw [blockSum_eq hf, hn, if_neg Bool.false_ne_true]
  have hs := hf.sumIs_pairs _ hb (acc := some (.fin false 0 0)) (pos := false) (neg := false) (y := 0) ⟨_, false, rfl, _, _, _, rfl, by simp [finVal], fun _ => rfl⟩
  rw [any_pos_eq, any_neg_eq, Bool.false_or, Bool.false_or, zero_add] at hs
  cases hi : infSigns f (as.zip bs) with
  | nil =>
    rw [hi] at hs
    obtain ⟨v, z, hv, s, m, e, rfl, hval, -⟩ := hs
    dsimp only
    rw [hv]
    by_cases hm : m = 0
    · refine ⟨false, 0, 0, by simp [plainZero, hm], ?_, fun _ => rfl⟩
      rw [← hval, (finVal_eq_zero s m e).2 hm, (finVal_eq_zero false 0 0).2 rfl]
    · exact ⟨s, m, e, by simp [plainZero, hm], hval, fun h0 => absurd h0 hm⟩
  | cons s r =>
    rw [hi] at hs hsigns
    dsimp only
    have hcase : SumIs (((as.zip bs).map (mulPair f)).foldl (sumStep 0) (some (.fin false 0 0))) (!s) s ((as.zip bs).map (fun x => fVal f x.1 * fVal f x.2)).sum := by
      have h1 : (s :: r).contains s = true := by simp
      cases s <;> simp_all
    have hinf : ((as.zip bs).map (mulPair f)).foldl (sumStep 0) (some (.fin false 0 0)) = some (.inf s) := by cases s <;> exact hcase
    rw [hinf]
    rfl

end

/-! ## The promotion of a block (R91, R92) -/

theorem bf16_arith : bf16.Arith := ⟨bf16_sound, rfl, by decide⟩

theorem blockC_eq (ty sa sb : Nat) (as bs : List Nat) : blockC ty sa sb as bs =
    let ps := as.zip bs
    let f := Claims.typeFmt ty
    let sg := fSign bf16 sa != fSign bf16 sb
    let x := (ps.map (fun x => fVal f x.1 * fVal f x.2)).sum
    if sa % 32768 = 0 ∨ sb % 32768 = 0 then 0
    else if noSum f ps || fNan bf16 sa || fNan bf16 sb then a48.canon
    else match infSigns f ps with
      | s :: _ => fZero a48 (s != sg) + a48.infCode
      | [] => if fInf bf16 sa ∨ fInf bf16 sb then (if x = 0 then a48.canon else fZero a48 (decide (x < 0) != sg) + a48.infCode)
        else (roundNum a48 0 false (fVal bf16 sa * fVal bf16 sb * x) sg).1 := by
  unfold blockC noSum infSigns badPair infPair negPair
  rfl

theorem scale_eq_zero_iff (x : Nat) : fMant bf16 x = 0 ↔ x % 32768 = 0 := fMant_eq_zero_iff bf16 x

/-- The product of two scales that are neither zeros nor NaNs. -/
theorem scales_mul {sa sb : Nat} (ha : fNan bf16 sa = false) (hb : fNan bf16 sb = false) (h0 : ¬(sa % 32768 = 0 ∨ sb % 32768 = 0)) :
    mulVal (bf16.dec sa) (bf16.dec sb) = if fInf bf16 sa = true ∨ fInf bf16 sb = true then some (.inf (fSign bf16 sa != fSign bf16 sb))
      else some (.fin (fSign bf16 sa != fSign bf16 sb) (fMant bf16 sa * fMant bf16 sb) (fScale bf16 sa + fScale bf16 sb)) := by
  rw [mulVal_dec bf16_arith bf16_arith ha hb, if_neg]
  · simp only [Bool.or_eq_true]
  · rw [fVal_eq_zero_iff, fVal_eq_zero_iff, scale_eq_zero_iff, scale_eq_zero_iff]
    tauto

/-- A value in A48 (R91), the canonical NaN for none. -/
def roundOr : Option Fv → Nat
  | none => a48.canon
  | some w => (roundFmt a48 0 false w).1

theorem roundOr_inf (s : Bool) : roundOr (some (.inf s)) = fZero a48 s + a48.infCode := by
  rw [fZero_eq_sign]
  exact congrArg Prod.fst (a48_arith.infTo_eq s)

section
variable {sa sb : Half}

theorem promote_zero (h : sa.toNat % 32768 = 0 ∨ sb.toNat % 32768 = 0) (v : Option Fv) : promote sa sb v = 0 :=
  if_pos (by simpa [scaleZero] using h)

variable (h0 : ¬(sa.toNat % 32768 = 0 ∨ sb.toNat % 32768 = 0))
include h0

/-- A nonzero scale on each side: the scales' product times the sum, rounded. -/
theorem promote_nonzero (v : Option Fv) : promote sa sb v =
    match v with
    | none => a48.canon
    | some v => if fNan bf16 sa.toNat || fNan bf16 sb.toNat then a48.canon
      else match mulVal (bf16.dec sa.toNat) (bf16.dec sb.toNat) with
        | none => a48.canon
        | some z => roundOr (mulVal z v) := by
  unfold promote
  rw [if_neg (by simpa [scaleZero] using h0)]
  simp only [bf16_sound.dec_isNan]
  rfl

theorem promote_nan (h : fNan bf16 sa.toNat = true ∨ fNan bf16 sb.toNat = true) (v : Option Fv) : promote sa sb v = a48.canon := by
  rw [promote_nonzero h0]
  cases v with
  | none => rfl
  | some v => exact if_pos (by simpa using h)

variable (hna : fNan bf16 sa.toNat = false) (hnb : fNan bf16 sb.toNat = false)
include hna hnb

theorem promote_some (v : Fv) : promote sa sb (some v) =
    roundOr (if fInf bf16 sa.toNat = true ∨ fInf bf16 sb.toNat = true then mulVal (.inf (fSign bf16 sa.toNat != fSign bf16 sb.toNat)) v
      else mulVal (.fin (fSign bf16 sa.toNat != fSign bf16 sb.toNat) (fMant bf16 sa.toNat * fMant bf16 sb.toNat) (fScale bf16 sa.toNat + fScale bf16 sb.toNat)) v) := by
  rw [promote_nonzero h0]
  dsimp only
  rw [hna, hnb, Bool.or_self, if_neg Bool.false_ne_true, scales_mul hna hnb h0]
  split_ifs <;> rfl

omit hna hnb in
theorem scaleMant_ne_zero : fMant bf16 sa.toNat * fMant bf16 sb.toNat ≠ 0 := by
  rw [Nat.mul_ne_zero_iff, Ne, Ne, scale_eq_zero_iff, scale_eq_zero_iff]
  tauto

/-- An infinite sum. -/
theorem promote_inf (s : Bool) : promote sa sb (some (.inf s)) = fZero a48 (s != (fSign bf16 sa.toNat != fSign bf16 sb.toNat)) + a48.infCode := by
  have hm := scaleMant_ne_zero h0
  rw [promote_some h0 hna hnb, bne_comm (a := s), ← roundOr_inf]
  simp only [mulVal, if_neg hm, ite_self]

/-- A sum that is a number. -/
theorem promote_fin {s : Bool} {m : Nat} {e : Int} (hz : m = 0 → s = false) : promote sa sb (some (.fin s m e)) =
    if fInf bf16 sa.toNat = true ∨ fInf bf16 sb.toNat = true then
      (if finVal s m e = 0 then a48.canon else fZero a48 (decide (finVal s m e < 0) != (fSign bf16 sa.toNat != fSign bf16 sb.toNat)) + a48.infCode)
    else (roundNum a48 0 false (fVal bf16 sa.toNat * fVal bf16 sb.toNat * finVal s m e) (fSign bf16 sa.toNat != fSign bf16 sb.toNat)).1 := by
  rw [promote_some h0 hna hnb]
  split
  · simp only [mulVal, finVal_eq_zero]
    by_cases hm : m = 0
    · rw [if_pos hm, if_pos hm]
      rfl
    · rw [if_neg hm, if_neg hm, show decide (finVal s m e < 0) = s by simp [finVal_lt_zero hm], bne_comm (a := s), ← roundOr_inf]
  · simp only [mulVal]
    have hv := mulFin_isNum (fSign bf16 sa.toNat != fSign bf16 sb.toNat) (fMant bf16 sa.toNat * fMant bf16 sb.toNat) (fScale bf16 sa.toNat + fScale bf16 sb.toNat) s m e
    rw [finVal_codes] at hv
    rw [show roundOr (some _) = _ from congrArg Prod.fst (a48_sound.roundFmt_isNum 0 false hv)]
    by_cases hm : m = 0
    · rw [hz hm, Bool.bne_false]
    · refine congrArg Prod.fst (roundNum_sign_irrel ?_ _ _)
      rw [← finVal_codes, mul_ne_zero_iff, Ne, Ne, finVal_eq_zero, finVal_eq_zero]
      exact ⟨scaleMant_ne_zero h0, hm⟩
end

/-- THE PROMOTION OF A SCALED BLOCK. -/
theorem promote_blockSum {ty : Nat} (hf : (Claims.typeFmt ty).Sound) (sa sb : Half) (as bs : List Nat) :
    promote sa sb (blockSum (Claims.typeFmt ty) as bs) = blockC ty sa.toNat sb.toNat as bs := by
  rw [blockC_eq]
  dsimp only
  by_cases h0 : sa.toNat % 32768 = 0 ∨ sb.toNat % 32768 = 0
  · rw [if_pos h0, promote_zero h0]
  rw [if_neg h0]
  cases hno : noSum (Claims.typeFmt ty) (as.zip bs)
  · have hsome := blockSum_some hf hno
    by_cases hn : fNan bf16 sa.toNat = true ∨ fNan bf16 sb.toNat = true
    · rw [promote_nan h0 hn, if_pos (by simpa using hn)]
    obtain ⟨hna, hnb⟩ : fNan bf16 sa.toNat = false ∧ fNan bf16 sb.toNat = false := by simpa using hn
    rw [hna, hnb, if_neg (by simp)]
    cases hi : infSigns (Claims.typeFmt ty) (as.zip bs) with
    | cons s r =>
      rw [hi] at hsome
      rw [show blockSum _ _ _ = some (.inf s) from hsome]
      exact promote_inf h0 hna hnb s
    | nil =>
      rw [hi] at hsome
      obtain ⟨s, m, e, hsum, hval, hzero⟩ := hsome
      rw [hsum, ← hval]
      exact promote_fin h0 hna hnb hzero
  · rw [blockSum_none hf hno, promote_nonzero h0]
    rfl

/-! ## A block of an entry (R91, R94) -/

theorem fVal_one : fVal bf16 0x3F80 = 1 := by
  rw [fVal_eq_finVal, show fSign bf16 0x3F80 = false by decide, show fMant bf16 0x3F80 = 128 by decide, show fScale bf16 0x3F80 = -7 by decide]
  norm_num [finVal, sgnFac]

/-- A block of an unscaled type: its scales are 1. -/
theorem roundOr_blockSum {ty : Nat} (hf : (Claims.typeFmt ty).Sound) (as bs : List Nat) : roundOr (blockSum (Claims.typeFmt ty) as bs) = blockC ty 0x3F80 0x3F80 as bs := by
  have hn : fNan bf16 0x3F80 = false := by decide
  have hi : fInf bf16 0x3F80 = false := by decide
  rw [blockC_eq]
  dsimp only
  rw [if_neg (by decide), hn, hi, fVal_one, bne_self_eq_false, Bool.or_false, Bool.or_false]
  cases hno : noSum (Claims.typeFmt ty) (as.zip bs)
  · have hsome := blockSum_some hf hno
    cases hi : infSigns (Claims.typeFmt ty) (as.zip bs) with
    | cons s r =>
      rw [hi] at hsome
      rw [show blockSum _ _ _ = some (.inf s) from hsome, roundOr_inf]
      simp
    | nil =>
      rw [hi] at hsome
      obtain ⟨s, m, e, hsum, hval, hzero⟩ := hsome
      rw [hsum, ← hval]
      rw [one_mul, one_mul]
      exact congrArg Prod.fst (a48_sound.roundFmt_isNum 0 false ⟨s, m, e, rfl, rfl, hzero⟩)
  · rw [blockSum_none hf hno]
    rfl

theorem blockSum_fits {f : Fmt} (hf : f.Sound) {as bs : List Nat} {v : Fv} (h : blockSum f as bs = some v) : v.Fits := by
  cases hno : noSum f (as.zip bs)
  · have hsome := blockSum_some hf hno
    split at hsome
    · obtain rfl := Option.some.inj (h.symm.trans hsome)
      trivial
    · obtain ⟨s, m, e, hsum, -⟩ := hsome
      obtain rfl := Option.some.inj (h.symm.trans hsum)
      trivial
  · rw [blockSum_none hf hno] at h
    cases h

theorem roundOr_lt {v : Option Fv} (h : ∀ w, v = some w → w.Fits) : roundOr v < 2 ^ 48 := by
  cases v with
  | none => exact a48_arith.canon_lt
  | some w => exact a48_arith.roundFmt_lt 0 false (h w rfl)

theorem promote_lt (sa sb : Half) (v : Option Fv) : promote sa sb v < 2 ^ 48 := by
  by_cases h0 : sa.toNat % 32768 = 0 ∨ sb.toNat % 32768 = 0
  · rw [promote_zero h0]
    decide
  by_cases hn : fNan bf16 sa.toNat = true ∨ fNan bf16 sb.toNat = true
  · rw [promote_nan h0 hn]
    exact a48_arith.canon_lt
  obtain ⟨hna, hnb⟩ : fNan bf16 sa.toNat = false ∧ fNan bf16 sb.toNat = false := by simpa using hn
  cases v with
  | none =>
    rw [promote_nonzero h0]
    exact a48_arith.canon_lt
  | some v =>
    rw [promote_some h0 hna hnb]
    refine roundOr_lt fun w hw => ?_
    split at hw <;> exact mulVal_fits hw

/-- The types whose cells are floats, as chunks hold them: an e2m1 entry runs on e4m3 chunks (R275). -/
def floatType (ty : Nat) : Prop := ty = 0 ∨ ty = 1 ∨ ty = 3 ∨ ty = 4

theorem typeFmt_sound {ty : Nat} (h : floatType ty) : (Claims.typeFmt ty).Sound := by
  rcases h with rfl | rfl | rfl | rfl
  · exact e4m3_sound
  · exact e5m2_sound
  · exact bf16_sound
  · exact f16_sound

theorem mmaFmt_eq {ty : Nat} (h : floatType ty) : mmaFmt ty = Claims.typeFmt ty := by
  rcases h with rfl | rfl | rfl | rfl <;> rfl

/-- A block's contribution to a float cell. -/
def blockTerm (ty sa sb : Nat) (as bs : List Nat) : Nat := if ty ≤ 1 then blockC ty sa sb as bs else blockC ty 0x3F80 0x3F80 as bs

/-- What a block does to its cell (R91, R94). -/
def cellStep (ty sa sb : Nat) (as bs : List Nat) (v : Nat) : Nat :=
  if ty = 5 then (BitVec.ofInt 48 (intOf 48 v + ((as.zip bs).map (fun x => intOf 8 x.1 * intOf 8 x.2)).sum)).toNat
  else (addF a48 0 v (blockTerm ty sa sb as bs)).1

theorem blockStep_float {ty : Nat} (h : floatType ty) (sa sb : Half) (as bs : List Nat) {v : Nat} (hv : v < 2 ^ 48) : blockStep ty sa sb as bs v = cellStep ty sa.toNat sb.toNat as bs v := by
  have hf := typeFmt_sound h
  have h5 : ty ≠ 5 := by rcases h with rfl | rfl | rfl | rfl <;> decide
  have hterm : (if ty ≤ 2 then promote sa sb (blockSum (Claims.typeFmt ty) as bs) else roundOr (blockSum (Claims.typeFmt ty) as bs)) = blockTerm ty sa.toNat sb.toNat as bs := by
    rw [promote_blockSum hf, roundOr_blockSum hf, blockTerm]
    rcases h with rfl | rfl | rfl | rfl <;> rfl
  have hlt : blockTerm ty sa.toNat sb.toNat as bs < 2 ^ 48 := by
    rw [← hterm]
    split
    · exact promote_lt ..
    · exact roundOr_lt fun w hw => blockSum_fits hf hw
  rw [cellStep, if_neg h5, ← a48_arith.fpAdd_eq 0 hv hlt, ← hterm]
  unfold blockStep
  rw [if_neg h5, mmaFmt_eq h]
  rfl

theorem blockStep_int (sa sb : Half) (as bs : List Nat) (v : Nat) : blockStep 5 sa sb as bs v = cellStep 5 sa.toNat sb.toNat as bs v := by
  unfold blockStep cellStep
  rw [if_pos rfl, if_pos rfl, wrapTo_eq]
  simp only [sgn_eq_intOf (show 0 < 48 by decide), sgn_eq_intOf (show 0 < 8 by decide)]

theorem blockStep_lt (ty : Nat) (sa sb : Half) (as bs : List Nat) (v : Nat) : blockStep ty sa sb as bs v < 2 ^ 48 := by
  unfold blockStep
  split
  · exact wrapTo_lt ..
  · exact a48_arith.fpAdd_lt ..

end Sys2Proof.Machine
end

section
namespace Sys2Proof.Machine
open Sys2Proof Sys2Proof.Claims

set_option Elab.async false

/-! ## The blocks of an entry (R90) -/

/-- The types of the chunks that an entry runs on. -/
def chunkType (ty : Nat) : Prop := floatType ty ∨ ty = 5

/-- Blocks in 256 bytes, and the elements of one of them. -/
def blocksIn (ty : Nat) : Nat := if ty ≤ 1 then 2 else 1
def blockOf (ty : Nat) (bs : List Byte) (k : Nat) : List Nat := elemsOf ty ((bs.drop (k * 128)).take (256 / blocksIn ty))

theorem chunkBlocks_eq {ty : Nat} (h : chunkType ty) : chunkBlocks ty = blocksIn ty := by
  rcases h with (rfl | rfl | rfl | rfl) | rfl <;> rfl

theorem chunkElems_of_le_one {ty : Nat} (h : ty ≤ 1) (bs : List Byte) : chunkElems ty bs = bs.map BitVec.toNat := by
  unfold chunkElems
  rw [if_neg (by omega), if_neg (by omega)]

theorem elemsOf_of_le_one {ty : Nat} (h : ty ≤ 1) (bs : List Byte) : elemsOf ty bs = bs.map BitVec.toNat := by
  unfold elemsOf
  rw [if_neg (by omega)]

theorem chunkElems_half {ty : Nat} (h : ty = 3 ∨ ty = 4) {bs : List Byte} (hb : bs.length = 256) : chunkElems ty bs = elemsOf ty bs := by
  unfold chunkElems elemsOf
  rw [if_neg (by omega), if_pos h, if_pos h, hb]
  refine List.map_congr_left fun k hk => ?_
  have hk : k < 128 := List.mem_range.1 hk
  obtain ⟨x, y, r, hxy⟩ : ∃ x y r, bs.drop (2 * k) = x :: y :: r := by
    have hl : 2 ≤ (bs.drop (2 * k)).length := by rw [List.length_drop]; omega
    match hd : bs.drop (2 * k), hl with
    | x :: y :: r, _ => exact ⟨x, y, r, rfl⟩
  have hx : bs.getD (2 * k) 0 = x := by
    have := congrArg (·[0]?) hxy
    simp at this
    simp [List.getD_eq_getElem?_getD, this]
  have hy : bs.getD (2 * k + 1) 0 = y := by
    have := congrArg (·[1]?) hxy
    simp at this
    simp [List.getD_eq_getElem?_getD, this]
  rw [hxy, hx, hy]
  simp [leNat]

/-- The blocks of a chunk of 256 bytes. -/
theorem chunkElems_block {ty : Nat} (h : chunkType ty) {bs : List Byte} (hb : bs.length = 256) :
    (chunkElems ty bs).length = blockLen ty * blocksIn ty ∧ ∀ k, k < blocksIn ty → ((chunkElems ty bs).drop (blockLen ty * k)).take (blockLen ty) = blockOf ty bs k := by
  by_cases h1 : ty ≤ 1
  · have hlen : blockLen ty = 128 := by unfold blockLen; rw [if_neg (by omega)]
    have hn : blocksIn ty = 2 := if_pos h1
    rw [chunkElems_of_le_one h1, hlen, hn]
    refine ⟨by rw [List.length_map, hb], fun k _ => ?_⟩
    rw [blockOf, hn, elemsOf_of_le_one h1, List.map_take, List.map_drop, mul_comm]
  · have hn : blocksIn ty = 1 := if_neg h1
    have hall : blockOf ty bs 0 = chunkElems ty bs ∧ (chunkElems ty bs).length = blockLen ty := by
      rw [blockOf, hn, Nat.zero_mul, List.drop_zero, List.take_of_length_le (by omega)]
      rcases h with (rfl | rfl | rfl | rfl) | rfl
      · exact absurd (by decide) h1
      · exact absurd (by decide) h1
      · exact ⟨(chunkElems_half (.inl rfl) hb).symm, by simp [chunkElems, blockLen]⟩
      · exact ⟨(chunkElems_half (.inr rfl) hb).symm, by simp [chunkElems, blockLen]⟩
      · exact ⟨rfl, by simp [chunkElems, blockLen, hb]⟩
    obtain ⟨hblock, hlen⟩ := hall
    refine ⟨by rw [hn, mul_one, hlen], fun k hk => ?_⟩
    obtain rfl : k = 0 := by omega
    rw [Nat.mul_zero, List.drop_zero, ← hlen, List.take_length, hblock]

theorem chunkStep_eq {ty : Nat} (h : chunkType ty) {a b : List Byte} (ha : a.length = 256) (hb : b.length = 256) (sa sb : List Half) (b0 v : Nat) :
    chunkStep ty sa sb b0 a b v =
      (List.range (blocksIn ty)).foldl (fun v k => blockStep ty (sa.getD (b0 + k) 0) (sb.getD (b0 + k) 0) (blockOf ty a k) (blockOf ty b k) v) v := by
  obtain ⟨hla, hba⟩ := chunkElems_block h ha
  obtain ⟨-, hbb⟩ := chunkElems_block h hb
  have hpos : 0 < blockLen ty := by unfold blockLen; omega
  unfold chunkStep
  dsimp only
  rw [hla, Nat.mul_div_cancel_left _ hpos]
  refine List.foldl_ext _ _ _ fun v k hk => ?_
  rw [hba k (List.mem_range.1 hk), hbb k (List.mem_range.1 hk)]

/-- Folds over pairs of a position and what stands there, over positions. -/
theorem foldl_zipIdx {α β : Type} (g : β → Nat → α → β) (d : α) (l : List α) (v : β) :
    l.zipIdx.foldl (fun v x => g v x.2 x.1) v = (List.range l.length).foldl (fun v i => g v i (l.getD i d)) v := by
  have hl : l.zipIdx = (List.range l.length).map (fun i => (l.getD i d, i)) := by
    refine List.ext_getElem (by simp) fun i h1 h2 => ?_
    have hi : i < l.length := by simpa using h1
    simp [List.getD_eq_getElem?_getD, hi]
  rw [hl, List.foldl_map]

theorem foldl_range_mul {β : Type} (n m : Nat) (g : β → Nat → β) (v : β) :
    (List.range (n * m)).foldl g v = (List.range m).foldl (fun v i => (List.range n).foldl (fun v k => g v (n * i + k)) v) v := by
  induction m with
  | zero => rfl
  | succ m ih => rw [Nat.mul_succ, List.range_add, List.foldl_append, ih, List.range_succ, List.foldl_append, List.foldl_map, List.foldl_cons, List.foldl_nil]

/-- Two folds that agree where an invariant holds that the second keeps. -/
theorem foldl_congr_inv {α β : Type} {P : β → Prop} {f g : β → α → β} {l : List α} (h : ∀ v, P v → ∀ x ∈ l, f v x = g v x ∧ P (g v x)) {v : β} (hv : P v) :
    l.foldl f v = l.foldl g v ∧ P (l.foldl g v) := by
  induction l generalizing v with
  | nil => exact ⟨rfl, hv⟩
  | cons x r ih =>
    obtain ⟨he, hp⟩ := h v hv x List.mem_cons_self
    rw [List.foldl_cons, List.foldl_cons, he]
    exact ih (fun w hw y hy => h w hw y (List.mem_cons_of_mem _ hy)) hp

theorem cellAfter_eq (ty : Nat) (sa sb : Nat → Nat) (as bs : List (List Byte)) (v0 : Nat) : cellAfter ty sa sb as bs v0 =
    (List.range (blocksIn ty * as.length)).foldl (fun v b =>
      cellStep ty (sa b) (sb b) (blockOf ty (as.getD (b / blocksIn ty) []) (b % blocksIn ty)) (blockOf ty (bs.getD (b / blocksIn ty) []) (b % blocksIn ty)) v) v0 := rfl

theorem blockStep_eq {ty : Nat} (h : chunkType ty) (sa sb : Half) (as bs : List Nat) {v : Nat} (hv : v < 2 ^ 48) : blockStep ty sa sb as bs v = cellStep ty sa.toNat sb.toNat as bs v := by
  rcases h with h | rfl
  · exact blockStep_float h sa sb as bs hv
  · exact blockStep_int sa sb as bs v

/-- A CELL AFTER THE CHUNKS OF ITS ROW AND COLUMN (R91, R94). -/
theorem chunks_cellAfter {ty : Nat} (h : chunkType ty) {as bs : List (List Byte)} (hl : as.length = bs.length) (ha : ∀ x ∈ as, x.length = 256) (hb : ∀ x ∈ bs, x.length = 256)
    (sa sb : List Half) {v : Nat} (hv : v < 2 ^ 48) :
    ((as.zip bs).zipIdx).foldl (fun v x => chunkStep ty sa sb (chunkBlocks ty * x.2) x.1.1 x.1.2 v) v =
        cellAfter ty (fun b => (sa.getD b 0).toNat) (fun b => (sb.getD b 0).toNat) as bs v ∧
      cellAfter ty (fun b => (sa.getD b 0).toNat) (fun b => (sb.getD b 0).toNat) as bs v < 2 ^ 48 := by
  have hn : 0 < blocksIn ty := by unfold blocksIn; split <;> decide
  rw [foldl_zipIdx (fun v i x => chunkStep ty sa sb (chunkBlocks ty * i) x.1 x.2 v) ([], []), cellAfter_eq, foldl_range_mul, List.length_zip, ← hl, min_self, chunkBlocks_eq h]
  refine foldl_congr_inv (P := (· < 2 ^ 48)) (fun v hv i hi => ?_) hv
  have hi : i < as.length := List.mem_range.1 hi
  have hib : i < bs.length := hl ▸ hi
  have hpair : (as.zip bs).getD i ([], []) = (as.getD i [], bs.getD i []) := by
    simp [List.getD_eq_getElem?_getD, hi, hib]
  have hga : (as.getD i []).length = 256 := ha _ (by simp [List.getD_eq_getElem?_getD, hi])
  have hgb : (bs.getD i []).length = 256 := hb _ (by simp [List.getD_eq_getElem?_getD, hib])
  rw [hpair, chunkStep_eq h hga hgb]
  refine foldl_congr_inv (P := (· < 2 ^ 48)) (fun v hv k hk => ?_) hv
  have hk : k < blocksIn ty := List.mem_range.1 hk
  rw [Nat.mul_add_div hn, Nat.div_eq_of_lt hk, add_zero, Nat.mul_add_mod, Nat.mod_eq_of_lt hk, ← blockStep_eq h _ _ _ _ hv]
  exact ⟨rfl, blockStep_lt ..⟩

/-! ## The rows of an entry (R273) -/

theorem chunkStep_lt (ty : Nat) (sa sb : List Half) (b0 : Nat) (a b : List Byte) {v : Nat} (hv : v < 2 ^ 48) : chunkStep ty sa sb b0 a b v < 2 ^ 48 := by
  unfold chunkStep
  dsimp only
  exact (foldl_congr_inv (P := (· < 2 ^ 48)) (f := fun v k => blockStep ty (sa.getD (b0 + k) 0) (sb.getD (b0 + k) 0) _ _ v) (fun v _ k _ => ⟨rfl, blockStep_lt ..⟩) hv).2

theorem RowChanged.trans {t t' t'' : AccTile} {l : Nat} {g g' : Nat → Nat → Nat} {b b' : Bool → Bool} (h : RowChanged t t' l g b) (h' : RowChanged t' t'' l g' b') :
    RowChanged t t'' l (fun j v => g' j (g j v)) (fun y => b' (b y)) := by
  refine ⟨h'.legal, h'.int.trans h.int, fun r j hj => ?_, fun r hr => ?_⟩
  · rw [h'.cell r j hj, h.cell r j hj]
    split <;> rfl
  · rw [h'.psn r hr, h.psn r hr]
    split <;> rfl

/-- The chunks of a row and a column added to a cell. -/
def addChunks (e : MmaEntry) (ty : Nat) (da db : List (List Byte)) (r j v : Nat) : Nat :=
  ((da.zip db).zipIdx).foldl (fun v x => chunkStep ty (e.sa.getD r []) e.sb (chunkBlocks ty * x.2) (rowBytes (if e.paired then r % 16 else r) x.1.1) (rowBytes j x.1.2) v) v

theorem addChunks_lt (e : MmaEntry) (ty : Nat) (da db : List (List Byte)) (r j : Nat) {v : Nat} (hv : v < 2 ^ 48) : addChunks e ty da db r j v < 2 ^ 48 := by
  unfold addChunks
  exact (foldl_congr_inv (P := (· < 2 ^ 48)) (f := fun v (x : (List Byte × List Byte) × Nat) => chunkStep ty (e.sa.getD r []) e.sb (chunkBlocks ty * x.2) _ _ v) (fun v hv x _ => ⟨rfl, chunkStep_lt _ _ _ _ _ _ hv⟩) hv).2

/-- Does row r of the entry meet poison (R176, R273, R420)? -/
def rowMet (e : MmaEntry) (poA poB : List (List Bool)) (t : AccTile) (r : Nat) : Bool :=
  poA.any (rowPoisoned (if e.paired then r % 16 else r)) || poB.any (fun p => p.any id) || e.sp.lane r || (e.paired && e.sp.lane ((r + 16) % 32)) || (e.paired && t.psn ((r + 16) % 32))

/-- The row an entry starts from (R272). -/
def clearedRow (e : MmaEntry) (t : AccTile) (r : Nat) : AccTile := if e.zf then (t.mapRow r (fun _ _ => 0)).setPsn r false else t

theorem mmaRow_eq (e : MmaEntry) (ty : Nat) (da db : List (List Byte)) (poA poB : List (List Bool)) (t : AccTile) (r : Nat) : mmaRow e ty da db poA poB t r =
    let t := (clearedRow e t r).mapRow r (addChunks e ty da db r)
    if rowMet e poA poB t r then t.setPsn r true else t := rfl

theorem clearedRow_changed {t : AccTile} (h : TileLegal t) (e : MmaEntry) (r : Nat) : RowChanged t (clearedRow e t r) r (fun _ v => if e.zf then 0 else v) (fun y => y && !e.zf) := by
  unfold clearedRow
  cases e.zf
  · exact ⟨h, rfl, fun _ _ _ => by simp, fun _ _ => by simp⟩
  · simpa using (AccTile.rowChanged_mapRow h r (f := fun _ _ => 0) (fun _ _ _ => by decide)).setPsn false

/-- ONE ROW OF AN ENTRY: its cells take the sums; its mark is kept, or cleared, and set when the row meets poison. -/
theorem mmaRow_changed {t : AccTile} (h : TileLegal t) (e : MmaEntry) (ty : Nat) (da db : List (List Byte)) (poA poB : List (List Bool)) (r : Nat) :
    RowChanged t (mmaRow e ty da db poA poB t r) r (fun j v => addChunks e ty da db r j (if e.zf then 0 else v))
      (fun y => (y && !e.zf) || rowMet e poA poB ((clearedRow e t r).mapRow r (addChunks e ty da db r)) r) := by
  have h1 := clearedRow_changed h e r
  exact h1.trans ((AccTile.rowChanged_mapRow h1.legal r fun j v hv => addChunks_lt e ty da db r j hv).orPsn _)

/-- Cells changed row by row, whatever becomes of the marks. -/
theorem foldl_rowCells {ls : List Nat} (hd : ls.Nodup) {step : AccTile → Nat → AccTile} {g : Nat → Nat → Nat → Nat}
    (hstep : ∀ t l, TileLegal t → ∃ b, RowChanged t (step t l) l (g l) b) {t : AccTile} (ht : TileLegal t) :
    (ls.foldl step t).int = t.int ∧ ∀ r j, j < 64 → (ls.foldl step t).cell r j = if r ∈ ls then g r j (t.cell r j) else t.cell r j := by
  induction ls generalizing t with
  | nil => exact ⟨rfl, fun _ _ _ => by simp⟩
  | cons l ls ih =>
    obtain ⟨hnot, hd'⟩ := List.nodup_cons.1 hd
    obtain ⟨b, h1⟩ := hstep t l ht
    obtain ⟨hint, hc⟩ := ih hd' h1.legal
    refine ⟨hint.trans h1.int, fun r j hj => ?_⟩
    rw [List.foldl_cons, hc r j hj, h1.cell r j hj]
    by_cases hrl : r = l
    · subst hrl; simp [hnot]
    · simp [hrl]

theorem mmaRows_cells {t : AccTile} (h : TileLegal t) (e : MmaEntry) (ty : Nat) (da db : List (List Byte)) (poA poB : List (List Bool)) :
    (mmaRows e ty da db poA poB t).int = t.int ∧ ∀ r j, j < 64 → (mmaRows e ty da db poA poB t).cell r j =
      if e.u.getLsbD r then addChunks e ty da db r j (if e.zf then 0 else t.cell r j) else t.cell r j := by
  obtain ⟨hint, hc⟩ := foldl_rowCells (nodup_lanesOf e.u) (fun t l ht => ⟨_, mmaRow_changed ht e ty da db poA poB l⟩) h
  refine ⟨hint, fun r j hj => (hc r j hj).trans ?_⟩
  simp only [mem_lanesOf]

/-- The marks of the rows of an entry that is not paired. -/
theorem mmaRows_marks {t : AccTile} (h : TileLegal t) {e : MmaEntry} (hp : e.paired = false) (ty : Nat) (da db : List (List Byte)) (poA poB : List (List Bool)) {r : Nat} (hr : r < 32) :
    (mmaRows e ty da db poA poB t).pmask.getLsbD r = if e.u.getLsbD r then (t.pmask.getLsbD r && !e.zf) || (poA.any (rowPoisoned r) || poB.any (fun p => p.any id) || e.sp.getLsbD r)
      else t.pmask.getLsbD r := by
  have hstep : ∀ t l, TileLegal t → RowChanged t (mmaRow e ty da db poA poB t l) l (fun j v => addChunks e ty da db l j (if e.zf then 0 else v))
      (fun y => (y && !e.zf) || (poA.any (rowPoisoned l) || poB.any (fun p => p.any id) || e.sp.getLsbD l)) := by
    intro t l ht
    have h1 := mmaRow_changed ht e ty da db poA poB l
    simpa only [rowMet, hp, Bool.false_and, Bool.or_false, lane_eq_getLsbD, if_neg Bool.false_ne_true] using h1
  obtain ⟨-, -, -, hm⟩ := foldl_rowChanged (nodup_lanesOf e.u) (int := t.int) (fun t' l ht _ => hstep t' l ht) h rfl
  rw [mmaRows, hm r hr]
  simp only [mem_lanesOf]

/-! ### The bytes of an entry's rows and columns -/

theorem addChunks_cellAfter {e : MmaEntry} {ty : Nat} (h : chunkType ty) {da db : List (List Byte)} (hl : da.length = db.length) (ha : ∀ x ∈ da, x.length = 8192)
    (hb : ∀ x ∈ db, x.length = 16384) {r j v : Nat} (hr : r < 32) (hj : j < 64) (hv : v < 2 ^ 48) : addChunks e ty da db r j v =
      cellAfter ty (fun b => ((e.sa.getD r []).getD b 0).toNat) (fun b => (e.sb.getD b 0).toNat) (da.map (fun y => (y.drop (256 * (if e.paired then r % 16 else r))).take 256))
        (db.map (fun y => (y.drop (256 * j)).take 256)) v := by
  have hra : (if e.paired then r % 16 else r) < 32 := by split <;> omega
  generalize hrr : (if e.paired then r % 16 else r) = ra at hra
  have hrow : ∀ x ∈ da.map (rowBytes ra), x.length = 256 := by
    intro x hx
    obtain ⟨y, hy, rfl⟩ := List.mem_map.1 hx
    rw [rowBytes, List.length_take, List.length_drop, ha y hy]
    omega
  have hcol : ∀ x ∈ db.map (rowBytes j), x.length = 256 := by
    intro x hx
    obtain ⟨y, hy, rfl⟩ := List.mem_map.1 hx
    rw [rowBytes, List.length_take, List.length_drop, hb y hy]
    omega
  have hsum := (chunks_cellAfter h (by simpa using hl) hrow hcol (e.sa.getD r []) e.sb hv).1
  rw [List.zip_map, List.zipIdx_map, List.foldl_map] at hsum
  unfold addChunks
  rw [hrr]
  exact hsum

/-- Words one after the other, byte by byte. -/
theorem flatMap_leBytes (g : Nat → Nat) (n : Nat) : (List.range n).flatMap (fun w => leBytes 8 (g w)) = (List.range (8 * n)).map (fun o => BitVec.ofNat 8 (g (o / 8) / 256 ^ (o % 8))) := by
  induction n with
  | zero => rfl
  | succ n ih =>
    rw [List.range_succ, List.flatMap_append, ih, Nat.mul_succ, List.range_add, List.map_append, List.map_map]
    congr 1
    simp only [List.flatMap_cons, List.flatMap_nil, List.append_nil, leBytes]
    refine List.map_congr_left fun o ho => ?_
    have ho : o < 8 := List.mem_range.1 ho
    simp only [Function.comp_apply]
    rw [show (8 * n + o) / 8 = n by omega, show (8 * n + o) % 8 = o by omega]

/-- A staged position, byte by byte (R405). -/
theorem stagedPos_eq (k : Core) (b : Bool) (pos : Nat) : stagedPos k b pos =
    (List.range (posSize b)).map (fun o => BitVec.ofNat 8 (((k.emStage.find ((b2n b * 16 + pos) * 2048 + o / 8)).getD 0).toNat / 256 ^ (o % 8))) := by
  unfold stagedPos
  rw [flatMap_leBytes (fun w => ((k.emStage.find ((b2n b * 16 + pos) * 2048 + w)).getD 0).toNat), show 8 * (posSize b / 8) = posSize b by cases b <;> rfl]

end Sys2Proof.Machine
end

section
namespace Sys2Proof.Machine
open Sys2Proof Sys2Proof.Claims

set_option Elab.async false

/-! ## MMA_ENTRY_COMPLETE (R273, R275) -/

theorem FMap.find_isSome_of_mem_keys {α : Type} {m : FMap α} (h : FMap.sorted m = true) {n : Nat} (hn : n ∈ FMap.keys m) : (FMap.find m n).isSome = true := by
  induction m with
  | nil => cases hn
  | cons x r ih =>
    obtain ⟨k, v⟩ := x
    obtain ⟨hs, hb⟩ := (FMap.sorted_cons k v r).1 h
    rcases List.mem_cons.1 hn with rfl | hn
    · simp [FMap.find]
    · obtain ⟨y, hy, rfl⟩ := List.mem_map.1 hn
      have hlt := hb y hy
      simp only [FMap.find]
      rw [if_neg (by omega), if_pos (by omega)]
      exact ih hs hn

/-- Every core of a legal package is there. -/
theorem Legal.core_isSome {s : State} (h : s.legal = true) {c : Nat} (hc : c < 160) : (s.cores.find c).isSome = true := by
  have hkeys := ((legal_iff s).1 h).keys
  refine FMap.find_isSome_of_mem_keys ((FMap.sorted_iff_keys _).2 ?_) ?_
  · rw [hkeys]
    exact List.pairwise_lt_range
  · rw [hkeys]
    exact List.mem_range.2 hc

section
variable {s : State} {c : Nat} {e : MmaEntry} {es : List MmaEntry} {pa pb : List (List Byte × List Bool)}

/-- The type and the chunks that a started entry runs on: an emulated one takes the staged positions (R275, R405). -/
def runType (e : MmaEntry) : Nat := if e.ty = 2 then 0 else e.ty
def runChunks (k : Core) (e : MmaEntry) (b : Bool) (ps : List (List Byte × List Bool)) : List (List Byte) :=
  if e.ty = 2 then (List.range (2 * e.kch)).map (stagedPos k b) else ps.map Prod.fst

/-- The tile of an entry once it is complete. -/
def entryTile (s : State) (c : Nat) (e : MmaEntry) (pa pb : List (List Byte × List Bool)) : AccTile :=
  mmaRows e (runType e) (runChunks (s.core c) e false pa) (runChunks (s.core c) e true pb) (pa.map Prod.snd) (pb.map Prod.snd) (theAcc s c e.acc)

theorem exec_mmaEntryComplete (hq : (s.core c).mmaQ = e :: es) (hp : e.popped = some (pa, pb)) (hem : e.ty = 2 → e.emul = true) : exec (.mmaEntryComplete c) s =
    .next (((s.setAcc c e.acc (entryTile s c e pa pb)).updCore c (fun k => { k with mmaQ := es, mxUsed := s.cycle })).count c 4 (s.wg e.wg).ctx e.kch) := by
  change execMmaEntryComplete c s = _
  have hgo : (mmaEmul e.ty && !e.emul) = false := by
    unfold mmaEmul
    by_cases h : e.ty = 2 <;> simp [h, hem]
  unfold execMmaEntryComplete
  dsimp only
  rw [hq]
  dsimp only
  rw [hp]
  dsimp only
  rw [hgo, if_neg Bool.false_ne_true]
  simp only [entryTile, runType, runChunks, mmaEmul, beq_iff_eq, theAcc_eq_accT]
  rfl
end

theorem State.count_core_ne (s : State) {c j : Nat} (h : j ≠ c) (ev ctx n : Nat) : (s.count c ev ctx n).core j = s.core j := by
  unfold State.count
  dsimp only
  split
  · split <;> exact State.core_updCore_ne s _ h
  · rfl

section
variable {s : State} {c : Nat} {e : MmaEntry} {es : List MmaEntry} {pa pb : List (List Byte × List Bool)}

theorem runChunks_length {k : Core} {b : Bool} {ps : List (List Byte × List Bool)} {n : Nat} (hn : posSize b = n) (h : ∀ y ∈ ps, y.1.length = n) : ∀ x ∈ runChunks k e b ps, x.length = n := by
  unfold runChunks
  split
  · intro x hx
    obtain ⟨pos, -, rfl⟩ := List.mem_map.1 hx
    rw [stagedPos_eq, List.length_map, List.length_range, hn]
  · intro x hx
    obtain ⟨y, hy, rfl⟩ := List.mem_map.1 hx
    exact h y hy

theorem runChunks_eq (k : Core) (e : MmaEntry) (b : Bool) (ps : List (List Byte × List Bool)) : runChunks k e b ps =
    if e.ty = 2 then (List.range (2 * e.kch)).map (fun pos =>
      (List.range (posSize b)).map (fun o => BitVec.ofNat 8 (((k.emStage.find ((b2n b * 16 + pos) * 2048 + o / 8)).getD 0).toNat / 256 ^ (o % 8))))
    else ps.map Prod.fst := by
  unfold runChunks
  rw [show stagedPos k b = _ from funext (stagedPos_eq k b)]

theorem runType_chunkType (h : e.ty ≤ 5) : chunkType (runType e) := by
  unfold runType chunkType floatType
  split <;> omega

theorem entryTile_cell (hl : s.legal = true) (hty : e.ty ≤ 5) (hla : pa.length = e.kch) (hlb : pb.length = e.kch) (ha : ∀ y ∈ pa, y.1.length = 8192 ∧ y.2.length = 128)
    (hb : ∀ y ∈ pb, y.1.length = 16384 ∧ y.2.length = 256) {r j : Nat} (hr : r < 32) (hj : j < 64) : cellOf (entryTile s c e pa pb) r j =
      if e.u.getLsbD r then cellAfter (runType e) (fun b => ((e.sa.getD r []).getD b 0).toNat) (fun b => (e.sb.getD b 0).toNat)
        ((runChunks (s.core c) e false pa).map (fun y => (y.drop (256 * (if e.paired then r % 16 else r))).take 256)) ((runChunks (s.core c) e true pb).map (fun y => (y.drop (256 * j)).take 256))
        (if e.zf then 0 else cellOf (theAcc s c e.acc) r j)
      else cellOf (theAcc s c e.acc) r j := by
  have hcells := (mmaRows_cells (Legal.theAcc hl c e.acc) e (runType e) (runChunks (s.core c) e false pa) (runChunks (s.core c) e true pb) (pa.map Prod.snd) (pb.map Prod.snd)).2 r j hj
  have hlen : (runChunks (s.core c) e false pa).length = (runChunks (s.core c) e true pb).length := by
    unfold runChunks
    split <;> simp [hla, hlb]
  rw [cellOf_eq_cell, cellOf_eq_cell, entryTile, hcells]
  refine if_congr Iff.rfl (addChunks_cellAfter (runType_chunkType hty) hlen (runChunks_length rfl fun y hy => (ha y hy).1) (runChunks_length rfl fun y hy => (hb y hy).1) hr hj ?_) rfl
  split
  · decide
  · exact AccTile.cell_lt ..

theorem entryTile_mark (hl : s.legal = true) (hp : e.paired = false) {r : Nat} (hr : r < 32) : (entryTile s c e pa pb).pmask.getLsbD r =
    if e.u.getLsbD r then ((theAcc s c e.acc).pmask.getLsbD r && !e.zf) || e.sp.getLsbD r || pa.any (fun y => ((y.2.drop (4 * r)).take 4).any id) || pb.any (fun y => y.2.any id)
    else (theAcc s c e.acc).pmask.getLsbD r := by
  rw [entryTile, mmaRows_marks (Legal.theAcc hl c e.acc) hp _ _ _ _ _ hr]
  refine if_congr Iff.rfl ?_ rfl
  rw [List.any_map, List.any_map]
  simp only [Function.comp_def, rowPoisoned]
  ac_rfl

/-- MMA_ENTRY_COMPLETE: the entry's tile stands, the entry is gone, and the unit is used now. -/
theorem mmaEntryComplete_spec (hl : s.legal = true) (hc : c < 160) (hq : (s.core c).mmaQ = e :: es) (hp : e.popped = some (pa, pb)) (hem : e.ty = 2 → e.emul = true) :
    ∃ t, exec (.mmaEntryComplete c) s = .next t ∧ t = { s with cores := t.cores, outbox := t.outbox } ∧ (∀ j, j ≠ c → t.core j = s.core j) ∧
      t.core c = { s.core c with mmaQ := es, acc := (s.core c).acc.ins e.acc (entryTile s c e pa pb), mxUsed := s.cycle, evcnt := (t.core c).evcnt } := by
  have hcore := Legal.core_isSome hl hc
  let s1 := (s.setAcc c e.acc (entryTile s c e pa pb)).updCore c (fun k => { k with mmaQ := es, mxUsed := s.cycle })
  have hs1 : s1 = s.updCore c (fun k => { k with acc := k.acc.ins e.acc (entryTile s c e pa pb), mmaQ := es, mxUsed := s.cycle }) := State.updCore_updCore ..
  refine ⟨_, exec_mmaEntryComplete hq hp hem, ?_, fun j hj => ?_, ?_⟩
  · exact State.count_eq s1 ..
  · refine (State.count_core_ne s1 hj ..).trans ?_
    rw [hs1, State.core_updCore_ne s _ hj]
  · have hs1c : s1.core c = { s.core c with acc := (s.core c).acc.ins e.acc (entryTile s c e pa pb), mmaQ := es, mxUsed := s.cycle } := by
      rw [hs1, State.core_updCore_self s c _ hcore]
    exact (State.count_core s1 ..).trans (by rw [hs1c])
end

end Sys2Proof.Machine
end

section
namespace Sys2Proof.Machine
open Sys2Proof Sys2Proof.Claims

set_option Elab.async false

/-! ## STREAM_FILL (R172, R176) -/

section
variable {s : State} {c : Nat} {b : Bool}

/-- The bytes of a position, where no flip is latent. -/
theorem fetchPos_eq {x : Pos} {base : Nat} (hb : (s.wg ((s.core c).mxOwner.getD 0)).tileByte (s.tile (s.wg ((s.core c).mxOwner.getD 0)) x.tile) + x.p * posSize b = base)
    (hlat : ∀ o, o < posSize b → s.latent.has (spadLatent c (base + o)) = false) : fetchPos s c b x =
      (s, (List.range (posSize b)).map (fun o => s.spadByte c (base + o)), (List.range (posSize b / 64)).map (fun o => s.spadPoisoned c (base + 64 * o))) := by
  have htouch : (List.range (posSize b / 64)).foldl (fun s j => s.spadTouch c (base + 64 * j)) s = s := by
    refine Eq.trans ?_ (tileTouch_clean hlat)
    cases b <;> rfl
  unfold fetchPos
  dsimp only
  rw [hb, htouch]

theorem streamFillable_of_full (h : bufCap b ≤ ((((s.core c).strm b).q).filter (fun x => x.data.isSome)).length) : streamFillable s c b = none :=
  if_neg (by omega)

theorem exec_streamFill_full (h : bufCap b ≤ ((((s.core c).strm b).q).filter (fun x => x.data.isSome)).length) : exec (.streamFill c b) s = .next s := by
  change execStreamFill c b s = _
  unfold execStreamFill
  rw [streamFillable_of_full h]

theorem streamFillable_eq {j : Nat} {x : Pos} (hx : ((s.core c).strm b).q[j]? = some x) (hd : x.data = none) (hbefore : ∀ y ∈ (((s.core c).strm b).q).take j, y.data.isSome = true)
    (h : ((((s.core c).strm b).q).filter (fun x => x.data.isSome)).length < bufCap b) : streamFillable s c b = some j := by
  refine (if_pos h).trans ?_
  generalize ((s.core c).strm b).q = q at hx hbefore
  obtain ⟨hj, rfl⟩ := List.getElem?_eq_some_iff.1 hx
  refine List.findIdx?_eq_some_iff_getElem.2 ⟨hj, by simp [hd], fun i hi => ?_⟩
  have := hbefore q[i] (List.mem_take_iff_getElem.2 ⟨i, by omega, rfl⟩)
  rw [Option.isNone_iff_eq_none, ← Option.not_isSome_iff_eq_none, this]
  decide

/-- The bytes and the poison that a position takes. -/
def fetchData (s : State) (c : Nat) (b : Bool) (base : Nat) : List Byte × List Bool :=
  ((List.range (posSize b)).map (fun o => s.spadByte c (base + o)), (List.range (posSize b / 64)).map (fun o => s.spadPoisoned c (base + 64 * o)))

/-- STREAM_FILL of the position that is next. -/
theorem exec_streamFill {j : Nat} {x : Pos} {base : Nat} (hx : ((s.core c).strm b).q[j]? = some x) (hd : x.data = none)
    (hbefore : ∀ y ∈ (((s.core c).strm b).q).take j, y.data.isSome = true) (h : ((((s.core c).strm b).q).filter (fun x => x.data.isSome)).length < bufCap b)
    (hb : (s.wg ((s.core c).mxOwner.getD 0)).tileByte (s.tile (s.wg ((s.core c).mxOwner.getD 0)) x.tile) + x.p * posSize b = base)
    (hlat : ∀ o, o < posSize b → s.latent.has (spadLatent c (base + o)) = false) :
    exec (.streamFill c b) s = .next (s.updCore c (fun k => k.setStrm b { q := (k.strm b).q.modify j (fun x => { x with data := some (fetchData s c b base) }) })) := by
  have hget : ((s.core c).strm b).q.getD j {} = x := by rw [List.getD_eq_getElem?_getD, hx]; rfl
  change execStreamFill c b s = _
  unfold execStreamFill
  rw [streamFillable_eq hx hd hbefore h]
  dsimp only
  rw [hget, fetchPos_eq hb hlat]
  rfl

theorem Core.setStrm_eq (k : Core) (b : Bool) (x : Strm) : k.setStrm b x = { k with strA := (k.setStrm b x).strA, strB := (k.setStrm b x).strB } := by
  cases b <;> rfl

theorem Core.strm_setStrm (k : Core) (b : Bool) (x : Strm) : (k.setStrm b x).strm b = x ∧ (k.setStrm b x).strm (!b) = k.strm (!b) := by
  cases b <;> exact ⟨rfl, rfl⟩

/-- The position that stands at j takes its bytes: of the package only its stream has changed. -/
theorem streamFill_spec {j : Nat} {x : Pos} {base : Nat} (hc : (s.cores.find c).isSome = true) (hx : ((s.core c).strm b).q[j]? = some x) (hd : x.data = none)
    (hbefore : ∀ y ∈ (((s.core c).strm b).q).take j, y.data.isSome = true) (h : ((((s.core c).strm b).q).filter (fun x => x.data.isSome)).length < bufCap b)
    (hb : (s.wg ((s.core c).mxOwner.getD 0)).tileByte (s.tile (s.wg ((s.core c).mxOwner.getD 0)) x.tile) + x.p * posSize b = base)
    (hlat : ∀ o, o < posSize b → s.latent.has (spadLatent c (base + o)) = false) :
    ∃ t, exec (.streamFill c b) s = .next t ∧ t = { s with cores := t.cores } ∧ (∀ e, t.core e = { s.core e with strA := (t.core e).strA, strB := (t.core e).strB }) ∧
      (∀ e, e ≠ c → t.core e = s.core e) ∧ (t.core c).strm (!b) = (s.core c).strm (!b) ∧
      ((t.core c).strm b).q = ((s.core c).strm b).q.take j ++ { x with data := some (fetchData s c b base) } :: ((s.core c).strm b).q.drop (j + 1) := by
  refine ⟨_, exec_streamFill hx hd hbefore h hb hlat, rfl, fun e => ?_, fun e he => State.core_updCore_ne s _ he, ?_, ?_⟩
  · by_cases he : e = c
    · rw [he, State.core_updCore_self s c _ hc]
      exact Core.setStrm_eq ..
    · rw [State.core_updCore_ne s _ he]
  · rw [State.core_updCore_self s c _ hc]
    exact (Core.strm_setStrm ..).2
  · rw [State.core_updCore_self s c _ hc, (Core.strm_setStrm ..).1]
    obtain ⟨hj, rfl⟩ := List.getElem?_eq_some_iff.1 hx
    exact List.modify_eq_take_cons_drop hj
end

end Sys2Proof.Machine
end

section
namespace Sys2Proof.Machine
open Sys2Proof Sys2Proof.Claims

set_option Elab.async false

/-! ## MMA_ENTRY_START (R273, R275, R282) -/

theorem Pack.endWait_flushes (p : Pack) (m : Word) (d : Nat) (v : DWord) : (p.endWait m d v).flushes = p.flushes := by
  unfold Pack.endWait Pack.wakeLanes
  dsimp only [Pack.setS]
  rw [Pack.updLanes_eq]

theorem Pack.serveWaits_flushes (ws : List (Word × Nat × Byte × Option Nat)) (p : Pack) : (p.serveWaits ws).flushes = p.flushes := by
  induction ws generalizing p with
  | nil => rfl
  | cons w ws ih =>
    simp only [Pack.serveWaits]
    split
    · exact ih p
    · exact (ih _).trans (Pack.endWait_flushes p w.1 w.2.1 ((p.evpend &&& w.2.2.1).setWidth 64))

theorem Pack.post_flushes (p : Pack) (cls : Nat) : (p.post cls).flushes = p.flushes := Pack.serveWaits_flushes ..

/-- What readers of own's tiles that are done change: from s to t, each tile n has k n readers less, the core is K but for its tiles. -/
structure Drains (s t : State) (c own : Nat) (k : Nat → Nat) (K : Core) : Prop where
  rest : t = { s with cores := t.cores, packs := t.packs }
  there : (s.cores.find c).isSome = true → (t.cores.find c).isSome = true
  other : ∀ j, j ≠ c → t.core j = s.core j
  core : t.core c = { K with tiles := (t.core c).tiles }
  packs : ∀ j r, s.packs.find j = some r → r.wg ≠ own → t.packs.find j = some r
  flushes : (∀ r ∈ s.packs, r.2.flushes = []) → ∀ r ∈ t.packs, r.2.flushes = []
  readers : ∀ n, (t.tile (s.wg own) n).readers = (s.tile (s.wg own) n).readers - k n

theorem Drains.refl (s : State) (c own : Nat) : Drains s s c own (fun _ => 0) (s.core c) :=
  ⟨rfl, fun h => h, fun _ _ => rfl, rfl, fun _ _ h _ => h, fun h => h, fun _ => rfl⟩

theorem Drains.wg {s t : State} {c own : Nat} {k : Nat → Nat} {K : Core} (h : Drains s t c own k K) (w : Nat) : t.wg w = s.wg w := by rw [h.rest]; rfl

theorem Drains.trans {s t v : State} {c own : Nat} {k k' : Nat → Nat} {K K' : Core} (h : Drains s t c own k K) (h' : Drains t v c own k' K') : Drains s v c own (fun n => k n + k' n) K' := by
  refine ⟨?_, fun hc => h'.there (h.there hc), fun j hj => (h'.other j hj).trans (h.other j hj), h'.core, fun j r hr hw => h'.packs j r (h.packs j r hr hw) hw, fun hf => h'.flushes (h.flushes hf), fun n => ?_⟩
  · rw [h'.rest, h.rest]
  · have h1 := h'.readers n
    rw [h.wg, h.readers n] at h1
    omega

/-- The readers of a tile, after its entry or another is written. -/
theorem State.readers_updTile {s : State} {w : Wg} (hc : (s.cores.find w.core).isSome = true) (n m : Nat) (f : Tile → Tile) (r : Nat → Nat) (hf : ∀ x, s.tile w n = x → (f x).readers = r x.readers)
    (h0 : r 0 = 0) : ((s.updTile w n f).tile w m).readers = if m = n then r (s.tile w n).readers else (s.tile w m).readers := by
  have hkey : w.tileIx m = w.tileIx n ↔ m = n := by unfold Wg.tileIx; omega
  have htiles : ((s.updTile w n f).core w.core).tiles = (s.core w.core).tiles.upd (w.tileIx n) f := by
    rw [State.updTile, State.core_updCore_self s _ _ hc]
  unfold State.tile at hf ⊢
  rw [htiles, FMap.find_upd]
  simp only [hkey]
  split
  · cases hx : (s.core w.core).tiles.find (w.tileIx n) with
    | none => simpa using h0.symm
    | some x => exact hf x (by rw [hx]; rfl)
  · rfl

/-- One reader that is done. -/
theorem readerDone_drains {s : State} {c own : Nat} (hw : (s.wg own).core = c) (hc : (s.cores.find c).isSome = true) (n : Nat) :
    Drains s (s.readerDone own n) c own (fun m => if m = n then 1 else 0) (s.core c) := by
  subst hw
  obtain ⟨f, hf, he⟩ := State.readerDone_eq (s := s) (wg := own) (n := n) rfl
  have hreaders : ∀ m, ((s.updTile (s.wg own) n f).tile (s.wg own) m).readers = (s.tile (s.wg own) m).readers - (if m = n then 1 else 0) := by
    intro m
    rw [State.readers_updTile hc n m f (· - 1) (fun x hx => by rw [← hx, hf]) rfl]
    split
    · rename_i h
      rw [h]
    · rfl
  have h1 : Drains s (s.updTile (s.wg own) n f) (s.wg own).core own (fun m => if m = n then 1 else 0) (s.core (s.wg own).core) := by
    refine ⟨rfl, fun h => by simpa [State.updTile] using h, fun j hj => State.core_updCore_ne s _ hj, ?_, fun _ _ h _ => h, fun h => h, hreaders⟩
    rw [State.updTile, State.core_updCore_self s _ _ hc]
  rcases he with he | he
  · rw [he]
    exact h1
  · rw [he]
    refine ⟨rfl, h1.there, h1.other, h1.core, fun j r hr hwg => ?_, fun h x hx => ?_, hreaders⟩
    · rw [State.postWg_find, h1.packs j r hr hwg, Option.map_some, if_neg (by simpa using hwg)]
    · obtain ⟨y, hy, rfl⟩ := List.mem_map.1 hx
      split
      · exact (Pack.post_flushes ..).trans (h y hy)
      · exact h y hy

/-- The pops that end a reader of tile n. -/
def endsReader (ps : List Pos) (n : Nat) : Nat := (ps.filter (fun y => y.last && y.tile == n)).length

theorem Core.setStrm_tiles (k : Core) (b : Bool) (x : Strm) : (k.setStrm b x).tiles = k.tiles := by cases b <;> rfl

theorem Core.setStrm_mxOwner (k : Core) (b : Bool) (x : Strm) : (k.setStrm b x).mxOwner = k.mxOwner := by cases b <;> rfl

/-- A stream is written. -/
theorem drains_setStrm {s : State} {c : Nat} (hc : (s.cores.find c).isSome = true) (own : Nat) (b : Bool) (x : Strm) :
    Drains s (s.updCore c (fun k => k.setStrm b x)) c own (fun _ => 0) ((s.core c).setStrm b x) := by
  have hself := State.core_updCore_self s c (fun k => k.setStrm b x) hc
  refine ⟨rfl, fun h => by simpa [State.updTile] using h, fun j hj => State.core_updCore_ne s _ hj, by rw [hself], fun _ _ h _ => h, fun h => h, fun n => ?_⟩
  have htiles : ∀ j, ((s.updCore c (fun k => k.setStrm b x)).core j).tiles = (s.core j).tiles := by
    intro j
    by_cases hj : j = c
    · rw [hj, hself, Core.setStrm_tiles]
    · rw [State.core_updCore_ne s _ hj]
  rw [State.tile, htiles]
  rfl

/-- A position in no replay group is popped. -/
theorem popPos_spec {s : State} {c : Nat} {b : Bool} {x : Pos} {r : List Pos} (hc : (s.cores.find c).isSome = true) (hw : (s.wg ((s.core c).mxOwner.getD 0)).core = c)
    (hq : ((s.core c).strm b).q = x :: r) (hg : x.gid = 0) {d : List Byte × List Bool} (hd : x.data = some d) :
    ∃ t, popPos s c b = (t, d) ∧ Drains s t c ((s.core c).mxOwner.getD 0) (endsReader [x]) ((s.core c).setStrm b { q := r }) := by
  have h1 := drains_setStrm hc ((s.core c).mxOwner.getD 0) b { q := r }
  have hc1 : ((s.updCore c (fun k => k.setStrm b { q := r })).cores.find c).isSome = true := by simpa using hc
  have hself := State.core_updCore_self s c (fun k => k.setStrm b { q := r }) hc
  have hpop : popPos s c b = (if x.last then (s.updCore c (fun k => k.setStrm b { q := r })).readerDone ((s.core c).mxOwner.getD 0) x.tile else s.updCore c (fun k => k.setStrm b { q := r }), d) := by
    unfold popPos
    rw [hq]
    dsimp only
    rw [hd]
    dsimp only
    rw [if_neg (by simp [hg]), hself, Core.setStrm_mxOwner]
  refine ⟨_, hpop, ?_⟩
  cases hl : x.last
  · have hk : endsReader [x] = fun _ => 0 := funext fun n => by simp [endsReader, hl]
    rw [hk, if_neg Bool.false_ne_true]
    exact h1
  · have hk : endsReader [x] = fun n => 0 + (if n = x.tile then 1 else 0) := funext fun n => by
      by_cases hn : n = x.tile
      · simp [endsReader, hl, hn]
      · simp [endsReader, hl, hn, Ne.symm hn]
    have h2 := readerDone_drains (s := s.updCore c (fun k => k.setStrm b { q := r })) hw hc1 x.tile
    rw [hself] at h2
    rw [hk, if_pos rfl]
    exact h1.trans h2

theorem Drains.of_core {s t : State} {c own : Nat} {k : Nat → Nat} {K K' : Core} (h : Drains s t c own k K) (hK : ∀ ts, { K with tiles := ts } = { K' with tiles := ts }) : Drains s t c own k K' :=
  ⟨h.rest, h.there, h.other, h.core.trans (hK _), h.packs, h.flushes, h.readers⟩

theorem Core.tiles_setStrm (k : Core) (b : Bool) (x : Strm) (ts : FMap Tile) : ({ k with tiles := ts } : Core).setStrm b x = { k.setStrm b x with tiles := ts } := by cases b <;> rfl

theorem Core.setStrm_setStrm (k : Core) (b : Bool) (x y : Strm) : (k.setStrm b x).setStrm b y = k.setStrm b y := by cases b <;> rfl

theorem Core.setStrm_self (k : Core) (b : Bool) {q : List Pos} (h : (k.strm b).q = q) : k.setStrm b { q := q } = k := by
  subst h
  cases b <;> rfl

/-- Positions in no replay group are popped, one after the other. -/
theorem popN_spec {c : Nat} {b : Bool} (ps : List Pos) {s : State} {r : List Pos} (hc : (s.cores.find c).isSome = true) (hw : (s.wg ((s.core c).mxOwner.getD 0)).core = c)
    (hq : ((s.core c).strm b).q = ps ++ r) (hp : ∀ y ∈ ps, y.gid = 0 ∧ y.data.isSome = true) :
    ∃ t, popN c b ps.length s = (t, ps.filterMap Pos.data) ∧ Drains s t c ((s.core c).mxOwner.getD 0) (endsReader ps) ((s.core c).setStrm b { q := r }) := by
  induction ps generalizing s with
  | nil =>
    refine ⟨s, rfl, ?_⟩
    rw [Core.setStrm_self _ _ (q := r) hq]
    exact Drains.refl ..
  | cons x ps ih =>
    obtain ⟨hg, hsome⟩ := hp x List.mem_cons_self
    obtain ⟨d, hd⟩ := Option.isSome_iff_exists.1 hsome
    obtain ⟨t, hpop, h1⟩ := popPos_spec hc hw hq hg hd
    have hown : (t.core c).mxOwner = (s.core c).mxOwner := by rw [h1.core]; exact Core.setStrm_mxOwner ..
    have hstr : ((t.core c).strm b).q = ps ++ r := by
      rw [h1.core]
      cases b <;> rfl
    obtain ⟨v, hpops, h2⟩ := ih (h1.there hc) (by rw [hown, h1.wg]; exact hw) hstr (fun y hy => hp y (List.mem_cons_of_mem _ hy))
    rw [hown] at h2
    refine ⟨v, ?_, ?_⟩
    · rw [List.length_cons, popN, hpop]
      dsimp only
      rw [hpops, List.filterMap_cons_some hd]
    · have hk : endsReader (x :: ps) = fun n => endsReader [x] n + endsReader ps n := funext fun n => by
        simp only [endsReader]
        rw [← List.length_append, ← List.filter_append]
        rfl
      rw [hk]
      refine (h1.trans h2).of_core fun ts => ?_
      rw [h1.core, Core.tiles_setStrm, Core.setStrm_setStrm]

theorem Strm.length_le_avail (x : Strm) : x.q.length ≤ x.avail := by
  unfold Strm.avail
  induction x.q with
  | nil => exact le_rfl
  | cons y q ih =>
    rw [List.length_cons, List.map_cons, List.sum_cons]
    omega

/-- Where no pack has a flush, none settles. -/
theorem flushSettle_none {s : State} (c : Nat) (h : ∀ r ∈ s.packs, r.2.flushes = []) : flushSettle s c = s := by
  have hpack : ∀ sl, (s.pack c sl).flushes = [] := by
    intro sl
    unfold State.pack State.pack?
    cases hf : s.packs.find (packKey c sl) with
    | none => rfl
    | some p => exact h _ (FMap.mem_of_find _ _ _ hf)
  unfold flushSettle
  induction s.slotsOf c with
  | nil => rfl
  | cons sl sls ih => rw [List.foldl_cons, hpack sl, List.foldl_nil, ih]

section
variable {s : State} {c : Nat} {e : MmaEntry} {es : List MmaEntry}

/-- The head of the queue whose positions are fetched may start (R273). -/
theorem mmaCanStart_eq (hq : (s.core c).mmaQ = e :: es) (hn : e.popped = none) (ha : e.kch ≤ (s.core c).strA.q.length) (hb : e.kch ≤ (s.core c).strB.q.length) (hk : 0 < e.kch)
    (hp : ∀ y ∈ (s.core c).strA.q.take e.kch ++ (s.core c).strB.q.take e.kch, y.gid = 0 ∧ y.data.isSome = true) : mmaCanStart s c = some e := by
  have hhead : ∀ q : List Pos, e.kch ≤ q.length → (∀ y ∈ q.take e.kch, y.data.isSome = true) → (match q with | p :: _ => p.data.isSome | [] => false) = true := by
    intro q hl hs
    obtain ⟨n, hn⟩ := Nat.exists_eq_succ_of_ne_zero hk.ne'
    cases q with
    | nil => simp only [List.length_nil] at hl; omega
    | cons p q => exact hs p (by rw [hn, List.take_succ_cons]; exact List.mem_cons_self)
  have h1 := hhead _ ha fun y hy => (hp y (List.mem_append_left _ hy)).2
  have h2 := hhead _ hb fun y hy => (hp y (List.mem_append_right _ hy)).2
  have h3 := ha.trans (Strm.length_le_avail _)
  have h4 := hb.trans (Strm.length_le_avail _)
  unfold mmaCanStart
  dsimp only
  rw [hq]
  dsimp only
  refine if_pos ?_
  simp only [hn, h3, h4, Option.isNone_none, decide_true, Bool.true_and, Bool.and_eq_true]
  exact ⟨h1, h2⟩

/-- The head of the queue once it has popped, in its core. -/
def startEntry (s : State) (e : MmaEntry) (d : List (List Byte × List Bool) × List (List Byte × List Bool)) (k : Core) : Core :=
  { k with mmaQ := k.mmaQ.modify 0 (fun e => { e with popped := some d }), mxGated := false, mxUsed := s.cycle,
           trq := if e.ty = 2 then k.trq ++ [{ slot := e.slot, code := 0x0D, ctx := (s.wg e.wg).ctx }] else k.trq }

/-- MMA_ENTRY_START pops the entry's positions and marks it started. -/
theorem exec_mmaEntryStart (hc : (s.cores.find c).isSome = true) (hw : (s.wg ((s.core c).mxOwner.getD 0)).core = c) (hq : (s.core c).mmaQ = e :: es) (hn : e.popped = none)
    (hfl : ∀ r ∈ s.packs, r.2.flushes = []) (ha : e.kch ≤ (s.core c).strA.q.length) (hb : e.kch ≤ (s.core c).strB.q.length) (hk : 0 < e.kch)
    (hp : ∀ y ∈ (s.core c).strA.q.take e.kch ++ (s.core c).strB.q.take e.kch, y.gid = 0 ∧ y.data.isSome = true) :
    ∃ v, exec (.mmaEntryStart c) s = .next (v.updCore c (startEntry s e (((s.core c).strA.q.take e.kch).filterMap Pos.data, ((s.core c).strB.q.take e.kch).filterMap Pos.data))) ∧
      Drains s v c ((s.core c).mxOwner.getD 0) (endsReader ((s.core c).strA.q.take e.kch ++ (s.core c).strB.q.take e.kch))
        { s.core c with strA := { q := (s.core c).strA.q.drop e.kch }, strB := { q := (s.core c).strB.q.drop e.kch } } := by
  obtain ⟨t, hpopa, h1⟩ := popN_spec (b := false) ((s.core c).strA.q.take e.kch) (r := (s.core c).strA.q.drop e.kch) hc hw (List.take_append_drop ..).symm
    (fun y hy => hp y (List.mem_append_left _ hy))
  have hown : (t.core c).mxOwner = (s.core c).mxOwner := by rw [h1.core]; rfl
  have hstr : ((t.core c).strm true).q = (s.core c).strB.q := by rw [h1.core]; rfl
  obtain ⟨v, hpopb, h2⟩ := popN_spec (b := true) ((s.core c).strB.q.take e.kch) (r := (s.core c).strB.q.drop e.kch) (h1.there hc) (by rw [hown, h1.wg]; exact hw)
    (hstr.trans (List.take_append_drop ..).symm) (fun y hy => hp y (List.mem_append_right _ hy))
  rw [List.length_take, min_eq_left ha] at hpopa
  rw [List.length_take, min_eq_left hb] at hpopb
  rw [hown] at h2
  have h12 := h1.trans h2
  refine ⟨v, ?_, ?_⟩
  · have hflv : ∀ f, flushSettle (v.updCore c f) c = v.updCore c f := fun f => flushSettle_none c (h12.flushes hfl)
    have hcycle : v.cycle = s.cycle := by rw [h12.rest]
    have hwg : ∀ f, (v.updCore c f).wg e.wg = s.wg e.wg := fun f => h12.wg e.wg
    change execMmaEntryStart c s = _
    unfold execMmaEntryStart
    rw [mmaCanStart_eq hq hn ha hb hk hp]
    dsimp only
    rw [hpopa]
    dsimp only
    rw [hpopb]
    dsimp only
    rw [hflv, hcycle, hwg]
    unfold startEntry mmaEmul
    by_cases hty : e.ty = 2
    · rw [if_pos (beq_iff_eq.2 hty), State.updCore_updCore]
      simp only [if_pos hty]
    · rw [if_neg (fun h => hty (beq_iff_eq.1 h))]
      simp only [if_neg hty]
  · have hk : endsReader ((s.core c).strA.q.take e.kch ++ (s.core c).strB.q.take e.kch) = fun n => endsReader ((s.core c).strA.q.take e.kch) n + endsReader ((s.core c).strB.q.take e.kch) n :=
      funext fun n => by simp [endsReader]
    rw [hk]
    refine h12.of_core fun ts => ?_
    rw [h1.core]
    rfl

/-- What an entry that has started leaves: its streams are shorter, its tiles have fewer readers, the core is marked. -/
theorem mmaEntryStart_spec (hc : (s.cores.find c).isSome = true) (hw : (s.wg ((s.core c).mxOwner.getD 0)).core = c) (hq : (s.core c).mmaQ = e :: es) (hn : e.popped = none)
    (hfl : ∀ r ∈ s.packs, r.2.flushes = []) (ha : e.kch ≤ (s.core c).strA.q.length) (hb : e.kch ≤ (s.core c).strB.q.length) (hk : 0 < e.kch)
    (hp : ∀ y ∈ (s.core c).strA.q.take e.kch ++ (s.core c).strB.q.take e.kch, y.gid = 0 ∧ y.data.isSome = true) :
    ∃ t, exec (.mmaEntryStart c) s = .next t ∧ t = { s with cores := t.cores, packs := t.packs } ∧ (∀ j, j ≠ c → t.core j = s.core j) ∧
      (∀ j r, s.packs.find j = some r → r.wg ≠ (s.core c).mxOwner.getD 0 → t.packs.find j = some r) ∧
      t.core c = { s.core c with
        tiles := (t.core c).tiles, strA := { q := (s.core c).strA.q.drop e.kch }, strB := { q := (s.core c).strB.q.drop e.kch }, mxGated := false, mxUsed := s.cycle,
        mmaQ := { e with popped := some (((s.core c).strA.q.take e.kch).filterMap Pos.data, ((s.core c).strB.q.take e.kch).filterMap Pos.data) } :: es,
        trq := if e.ty = 2 then (s.core c).trq ++ [{ slot := e.slot, code := 0x0D, ctx := (s.wg e.wg).ctx }] else (s.core c).trq } ∧
      ∀ n, (t.tile (s.wg ((s.core c).mxOwner.getD 0)) n).readers =
        (s.tile (s.wg ((s.core c).mxOwner.getD 0)) n).readers - endsReader ((s.core c).strA.q.take e.kch ++ (s.core c).strB.q.take e.kch) n := by
  obtain ⟨v, hex, h⟩ := exec_mmaEntryStart hc hw hq hn hfl ha hb hk hp
  have hself := State.core_updCore_self v c (startEntry s e (((s.core c).strA.q.take e.kch).filterMap Pos.data, ((s.core c).strB.q.take e.kch).filterMap Pos.data)) (h.there hc)
  refine ⟨_, hex, ?_, fun j hj => (State.core_updCore_ne v _ hj).trans (h.other j hj), h.packs, ?_, fun n => ?_⟩
  · rw [State.updCore, h.rest]
  · rw [hself, h.core]
    simp only [startEntry, hq]
    rfl
  · rw [← h.readers n, State.tile, State.tile, hw, hself]
    rfl
end

end Sys2Proof.Machine
end

section
namespace Sys2Proof.Machine
open Sys2Proof Sys2Proof.Claims

set_option Elab.async false

/-! ## MX_GATE (R282) -/

section
variable {s : State} {c : Nat}

/-- Does the unit work on an entry? -/
def mxBusy (s : State) (c : Nat) : Prop := ∃ e es, (s.core c).mmaQ = e :: es ∧ e.popped.isSome = true

theorem exec_mxGate [Decidable (mxBusy s c)] : exec (.mxGate c) s =
    if (s.core c).mxIdle = 0 ∨ (s.core c).mxGated = true ∨ mxBusy s c ∨ s.cycle < (s.core c).mxUsed + (s.core c).mxIdle.toNat then .next s
    else .next (s.updCore c (fun k => { k with mxGated := true })) := by
  change execMxGate c s = _
  unfold execMxGate
  refine if_congr ?_ rfl rfl
  unfold mxBusy
  cases (s.core c).mmaQ <;> simp [or_assoc]
end

/-- Settles O36: the position that is next is fetched as it stands; the head of the queue pops position by position; its rows take their blocks one after the other, each rounded as R91 and R92 ask;
and the gate closes on a unit that is idle. -/
theorem matrixEntriesRun : Obligations.MatrixEntriesRun := by
  unfold Obligations.MatrixEntriesRun
  intro s c hl hc
  have hcore := Legal.core_isSome hl hc
  refine ⟨fun b j x hx hd hbefore => ⟨fun hroom hlat => ?_, fun hfull => ?_⟩, fun e es hq => ⟨fun hn hfl ha hb hk hp hw => ?_, fun pa pb hpop hty hem hla hlb ha hb => ?_⟩, fun h => ?_, fun h0 hg hb ht => ?_⟩
  · cases b
    · exact streamFill_spec (b := false) hcore hx hd hbefore hroom rfl hlat
    · exact streamFill_spec (b := true) hcore hx hd hbefore hroom rfl hlat
  · cases b
    · exact exec_streamFill_full (b := false) hfull
    · exact exec_streamFill_full (b := true) hfull
  · obtain ⟨t, hex, hrest, hother, hpacks, hcoret, hreaders⟩ := mmaEntryStart_spec hcore hw hq hn hfl ha hb hk hp
    refine ⟨t, hex, hrest, hother, hpacks, hcoret, fun n => ?_⟩
    have := hreaders n
    unfold endsReader at this
    omega
  · obtain ⟨t, hex, hrest, hother, hcoret⟩ := mmaEntryComplete_spec hl hc hq hpop hem
    have hacc : (t.core c).acc = (s.core c).acc.ins e.acc (entryTile s c e pa pb) := by rw [hcoret]
    have htile : theAcc t c e.acc = entryTile s c e pa pb := by
      unfold theAcc
      rw [hacc, FMap.find_ins_self]
      rfl
    refine ⟨t, hex, hrest, hother, ?_, fun a hne => ?_, ?_, fun r j hr hj => ?_, fun hpair r hr => ?_⟩
    · rw [hacc]
      exact hcoret
    · rw [hacc, FMap.find_ins_ne _ _ hne]
    · rw [htile]
      exact (mmaRows_cells (Legal.theAcc hl c e.acc) ..).1
    · rw [htile, entryTile_cell hl hty hla hlb ha hb hr hj, runChunks_eq, runChunks_eq]
      rfl
    · rw [htile]
      exact entryTile_mark hl hpair hr
  · classical exact exec_mxGate.trans (if_pos h)
  · have hself := State.core_updCore_self s c (fun k => { k with mxGated := true }) hcore
    have hopen : ¬((s.core c).mxIdle = 0 ∨ (s.core c).mxGated = true ∨ mxBusy s c ∨ s.cycle < (s.core c).mxUsed + (s.core c).mxIdle.toNat) := by
      rintro (h | h | h | h)
      · exact h0 h
      · exact Bool.false_ne_true (hg.symm.trans h)
      · exact hb h
      · omega
    exact ⟨_, by classical exact exec_mxGate.trans (if_neg hopen), rfl, fun j hj => State.core_updCore_ne s _ hj, hself⟩

end Sys2Proof.Machine
end

section
namespace Sys2Proof.Machine
open Sys2Proof Sys2Proof.Claims

set_option Elab.async false

/-! ## The traps of the frame instructions (R191 to R195, R197) -/

theorem exists_lane_of_ne_zero {m : Word} (h : m ≠ 0) : ∃ l, m.getLsbD l = true := by
  by_contra hno
  exact h (BitVec.eq_of_getLsbD_eq fun l _ => (Bool.eq_false_iff.2 fun hl => hno ⟨l, hl⟩).trans BitVec.getLsbD_zero.symm)

/-- An instruction that takes no helper lanes has a lane to trap. -/
theorem groupTrap_ne_nil {i : Instr} {s : State} {u : Cur} {p : Pack} (h : Issues i s u p) (hi : (instrUses i).helper = false) (code detail : Nat) :
    groupTrap (ctxOf i s u p) code detail ≠ [] := by
  obtain ⟨-, -, -, -, hig, hhelp, -⟩ := h
  obtain ⟨l, hl⟩ := exists_lane_of_ne_zero hig
  have hnone : u.ig &&& p.lanesWhere (fun x => x.st == .helper) = 0 := hhelp.resolve_left (by rw [hi]; exact Bool.false_ne_true)
  have hlane : (p.lane l).st ≠ .helper := by
    intro he
    have hbit : (u.ig &&& p.lanesWhere (fun x => x.st == .helper)).getLsbD l = true := by
      simp [hl, Pack.lanesWhere, lanes32, he, BitVec.lt_of_getLsbD hl]
    rw [hnone] at hbit
    exact Bool.false_ne_true (BitVec.getLsbD_zero.symm.trans hbit)
  unfold groupTrap
  refine List.ne_nil_of_mem (List.mem_map.2 ⟨l, List.mem_filter.2 ⟨(mem_lanesOf _ l).2 hl, ?_⟩, rfl⟩)
  simpa [Ctx.isHelper] using hlane

theorem backing_eq (p : Pack) (d n : Nat) : backing p d n = backBelow p d + 32 * (n + 1) := Nat.mul_add _ _ _

/-- What a call traps; `tgt` is none where CALLX's target is no multiple of 4. -/
def callTraps (c : Ctx) (dem : Nat) (tgt : Option (DWord × Option Nat)) : List LTrap :=
  if c.p.handler.isSome then groupTrap c tFRAME 4
  else if c.u.depth = 255 then groupTrap c tFRAME 2
  else if tgt.isNone then groupTrap c tMISALIGN 0
  else if c.q.fbsize < backing c.p (c.u.depth + 1) dem then groupTrap c tFRAME 3 else []

/-- The target of a CALLX. -/
def callxTarget (c : Ctx) (r : BitVec 5) : Option (DWord × Option Nat) :=
  if (c.p.sreg r.toNat).toNat % 4 = 0 then some (c.p.sreg r.toNat, none) else none

theorem frameTraps_call (c : Ctx) (dem argc retc : BitVec 4) (ab : VReg) (off : BitVec 32) :
    frameTraps c (.call dem argc retc ab off) = callTraps c dem.toNat (some (c.target off.toInt)) := rfl

theorem frameTraps_callx (c : Ctx) (dem argc retc : BitVec 4) (ab : VReg) (r : BitVec 5) :
    frameTraps c (.callx dem argc retc ab r) = callTraps c dem.toNat (callxTarget c r) := by
  show (if c.p.handler.isSome then groupTrap c tFRAME 4
    else if c.u.depth = 255 then groupTrap c tFRAME 2
    else if (c.p.sreg r.toNat).toNat % 4 ≠ 0 then groupTrap c tMISALIGN 0
    else if c.q.fbsize < backing c.p (c.u.depth + 1) dem.toNat then groupTrap c tFRAME 3 else []) = _
  unfold callTraps callxTarget
  by_cases h : (c.p.sreg r.toNat).toNat % 4 = 0
  · rw [if_neg (not_not_intro h), if_pos h]
    rfl
  · rw [if_pos h, if_neg h]
    rfl

theorem frameTraps_ret (c : Ctx) : frameTraps c .ret =
    if c.p.handler.isSome then []
    else if c.u.depth = 0 then groupTrap c tFRAME 2
    else if 8 * (c.p.frames.getD c.u.depth {}).size < (c.p.frames.getD c.u.depth {}).retc then groupTrap c tFRAME 1 else [] := rfl

theorem frameTraps_unwind (c : Ctx) (n : BitVec 8) : frameTraps c (.unwind n) =
    if c.p.handler.isSome then groupTrap c tFRAME 4 else if c.u.depth < n.toNat then groupTrap c tFRAME 2 else [] := rfl

/-- RESIZE traps where the deepest frame would grow beyond its backing (R191). -/
theorem frameTraps_resize (c : Ctx) (n : BitVec 4) : frameTraps c (.resize n) =
    if c.p.handler.isNone ∧ c.p.frames.length ≤ c.u.depth + 1 ∧ (c.p.frameAt c.u.depth).size < n.toNat ∧
      c.q.fbsize < backBelow c.p c.u.depth + 32 * (n.toNat + 1)
    then groupTrap c tFRAME 3 else [] := by
  rw [← backing_eq]
  rfl

theorem exec_call (dem argc retc : BitVec 4) (ab : VReg) (off : BitVec 32) (s : State) :
    exec (.call dem argc retc ab off) s = runUnit (.call dem argc retc ab off) (instrUses (.call dem argc retc ab off))
      (fun c => callBody c dem.toNat argc.toNat retc.toNat ab.toNat (some (c.target off.toInt)) (c.ipc + 8)) s := rfl

theorem exec_callx (dem argc retc : BitVec 4) (ab : VReg) (r : BitVec 5) (s : State) :
    exec (.callx dem argc retc ab r) s = runUnit (.callx dem argc retc ab r) (instrUses (.callx dem argc retc ab r))
      (fun c => callBody c dem.toNat argc.toNat retc.toNat ab.toNat (callxTarget c r) (c.ipc + 4)) s := rfl

/-- A call that traps does nothing else. -/
theorem callBody_of_traps {c : Ctx} {dem argc retc ab : Nat} {tgt : Option (DWord × Option Nat)} {rpc : DWord} (h : callTraps c dem tgt ≠ []) :
    callBody c dem argc retc ab tgt rpc = { s := c.s, traps := callTraps c dem tgt } := by
  unfold callTraps at h ⊢
  unfold callBody
  rw [backing_eq] at h ⊢
  dsimp only
  by_cases hh : c.p.handler.isSome = true
  · rw [if_pos hh, if_pos hh]
  rw [if_neg hh, if_neg hh]
  by_cases hd : c.u.depth = 255
  · rw [if_pos hd, if_pos hd]
  rw [if_neg hd, if_neg hd]
  cases tgt with
  | none => rfl
  | some t =>
    by_cases hb : c.q.fbsize < backBelow c.p (c.u.depth + 1) + 32 * (dem + 1)
    · simp only [Option.isNone_some, Bool.false_eq_true, if_false, if_pos hb]
    · simp [hh, hd, hb] at h

/-- What RET does beside the frame of every unit, where it traps. -/
theorem exec_ret_traps (s : State) : ∃ body, exec .ret s = runUnit .ret (instrUses .ret) body s ∧
    ∀ c : Ctx, frameTraps c .ret ≠ [] → body c = { s := c.s, traps := frameTraps c .ret } := by
  refine ⟨_, rfl, fun c h => ?_⟩
  rw [frameTraps_ret] at h ⊢
  by_cases hh : c.p.handler.isSome = true
  · exact absurd (if_pos hh) h
  rw [if_neg hh] at h ⊢
  by_cases hd : c.u.depth = 0
  · simp only [if_neg hh, if_pos hd]
  rw [if_neg hd] at h ⊢
  by_cases hr : 8 * (c.p.frames.getD c.u.depth {}).size < (c.p.frames.getD c.u.depth {}).retc
  · simp only [if_neg hh, if_neg hd, if_pos hr]
  · exact absurd (if_neg hr) h

/-- The frames UNWIND returns over. -/
def unwindCount (c : Ctx) (n : BitVec 8) : Nat := if n = 0 then c.u.depth else n.toNat

theorem unwindCount_gt_iff (c : Ctx) (n : BitVec 8) : unwindCount c n > c.u.depth ↔ c.u.depth < n.toNat := by
  unfold unwindCount
  split <;> simp_all

theorem exec_unwind_traps (n : BitVec 8) (s : State) : ∃ body, exec (.unwind n) s = runUnit (.unwind n) (instrUses (.unwind n)) body s ∧
    ∀ c : Ctx, frameTraps c (.unwind n) ≠ [] → body c = { s := c.s, traps := frameTraps c (.unwind n) } := by
  refine ⟨_, rfl, fun c h => ?_⟩
  rw [frameTraps_unwind] at h ⊢
  by_cases hh : c.p.handler.isSome = true
  · simp only [if_pos hh]
  rw [if_neg hh] at h ⊢
  by_cases hd : c.u.depth < n.toNat
  · have hk := (unwindCount_gt_iff c n).2 hd
    unfold unwindCount at hk
    simp only [if_neg hh, if_pos hd, if_pos hk]
  · exact absurd (if_neg hd) h

theorem exec_resize_traps (n : BitVec 4) (s : State) : ∃ body, exec (.resize n) s = runUnit (.resize n) (instrUses (.resize n)) body s ∧
    ∀ c : Ctx, frameTraps c (.resize n) ≠ [] → body c = { s := c.s, traps := frameTraps c (.resize n) } := by
  refine ⟨_, rfl, fun c h => ?_⟩
  rw [frameTraps_resize] at h ⊢
  by_cases hall : c.p.handler.isNone ∧ c.p.frames.length ≤ c.u.depth + 1 ∧ (c.p.frameAt c.u.depth).size < n.toNat ∧
      c.q.fbsize < backBelow c.p c.u.depth + 32 * (n.toNat + 1)
  · obtain ⟨hh, hl, hz, hb⟩ := hall
    have hdeepest : ¬ c.u.depth + 1 < c.p.frames.length := by omega
    have hgrows : ¬ n.toNat ≤ (c.p.frameAt c.u.depth).size := by omega
    simp [hh, hl, hz, hb, hdeepest, hgrows]
  · exact absurd (if_neg hall) h

/-- Settles O11: each frame instruction makes its tests before its effect, and an instruction that traps there changes nothing. -/
theorem frameInstructionsTrapBeforeAnyChange : Obligations.FrameInstructionsTrapBeforeAnyChange := by
  unfold Obligations.FrameInstructionsTrapBeforeAnyChange
  intro i s u p hwf hi hts
  clear hwf
  cases i
  case call dem argc retc ab off => exact unit_onlyTraps hi (exec_call ..) (callBody_of_traps hts)
  case callx dem argc retc ab r =>
    rw [frameTraps_callx] at hts ⊢
    exact unit_onlyTraps hi (exec_callx ..) (callBody_of_traps hts)
  case ret =>
    obtain ⟨body, hex, hbody⟩ := exec_ret_traps s
    exact unit_onlyTraps hi hex (hbody _ hts)
  case unwind n =>
    obtain ⟨body, hex, hbody⟩ := exec_unwind_traps n s
    exact unit_onlyTraps hi hex (hbody _ hts)
  case resize n =>
    obtain ⟨body, hex, hbody⟩ := exec_resize_traps n s
    exact unit_onlyTraps hi hex (hbody _ hts)
  all_goals exact absurd rfl hts

end Sys2Proof.Machine
end

section
namespace Sys2Proof.Machine
open Sys2Proof Sys2Proof.Claims

set_option Elab.async false

/-! ## Registers of a frame, row by row -/

/-- Register r of some lanes takes new cells. -/
def Frame.putRow (f : Frame) (ls : List Nat) (r : Nat) (v : Nat → VCell) : Frame := ls.foldl (fun f l => f.setCell r l (v l)) f

/-- Of a frame only its register cells have changed. -/
def CellsOnly (f g : Frame) : Prop := g = { f with cells := g.cells }

theorem CellsOnly.refl (f : Frame) : CellsOnly f f := rfl

theorem CellsOnly.trans {f g h : Frame} (a : CellsOnly f g) (b : CellsOnly g h) : CellsOnly f h := by
  unfold CellsOnly at *
  rw [b]; rw [a]

theorem CellsOnly.sameRec {f g : Frame} (h : CellsOnly f g) : SameRec f g := by
  unfold CellsOnly at h
  unfold SameRec
  rw [h]

theorem CellsOnly.size {f g : Frame} (h : CellsOnly f g) : g.size = f.size := by rw [h]

theorem CellsOnly.foldl {α : Type} {k : Frame → α → Frame} (hk : ∀ f x, CellsOnly f (k f x)) (xs : List α) (f : Frame) : CellsOnly f (xs.foldl k f) := by
  induction xs generalizing f with
  | nil => exact .refl f
  | cons x r ih => exact (hk f x).trans (ih _)

theorem CellsOnly.setCell (f : Frame) (r l : Nat) (v : VCell) : CellsOnly f (f.setCell r l v) := rfl

theorem CellsOnly.putRow (f : Frame) (ls : List Nat) (r : Nat) (v : Nat → VCell) : CellsOnly f (f.putRow ls r v) := .foldl (fun _ _ => .setCell ..) ls f

theorem Frame.cell_putRow (f : Frame) {ls : List Nat} (hls : ∀ l ∈ ls, l < 32) (r : Nat) (v : Nat → VCell) {i j : Nat} (hj : j < 32) :
    (f.putRow ls r v).cell i j = if i = r ∧ j ∈ ls then v j else f.cell i j := by
  unfold Frame.putRow
  induction ls generalizing f with
  | nil => simp
  | cons x xs ih =>
    have hx : x < 32 := hls x (List.mem_cons_self ..)
    rw [List.foldl_cons, ih _ (fun l hl => hls l (List.mem_cons_of_mem _ hl)), Frame.cell_setCell f (v x) hx hj]
    by_cases hmem : j ∈ xs
    · by_cases hi : i = r <;> simp [hmem, hi]
    · by_cases he : j = x
      · subst he; simp [hmem]
      · simp [hmem, he]

/-- Registers lo to lo + n - 1 of some lanes take new cells, those that lie below register `bound`. -/
def Frame.putRows (f : Frame) (ls : List Nat) (lo n bound : Nat) (v : Nat → Nat → VCell) : Frame :=
  (List.range n).foldl (fun f i => if lo + i < bound then f.putRow ls (lo + i) (v i) else f) f

theorem CellsOnly.putRows (f : Frame) (ls : List Nat) (lo n bound : Nat) (v : Nat → Nat → VCell) : CellsOnly f (f.putRows ls lo n bound v) :=
  .foldl (fun f i => by split <;> [exact .putRow ..; exact .refl f]) _ f

theorem Frame.cell_putRows (f : Frame) {ls : List Nat} (hls : ∀ l ∈ ls, l < 32) (lo n bound : Nat) (v : Nat → Nat → VCell) {i j : Nat} (hj : j < 32) :
    (f.putRows ls lo n bound v).cell i j = if lo ≤ i ∧ i < lo + n ∧ i < bound ∧ j ∈ ls then v (i - lo) j else f.cell i j := by
  unfold Frame.putRows
  induction n with
  | zero => rw [if_neg (by omega)]; rfl
  | succ n ih =>
    rw [List.range_succ, List.foldl_append, List.foldl_cons, List.foldl_nil]
    by_cases hb : lo + n < bound
    · rw [if_pos hb, Frame.cell_putRow _ hls _ _ hj, ih]
      by_cases hi : i = lo + n
      · subst hi
        by_cases hm : j ∈ ls <;> simp [hm, hb]
      · rw [if_neg (fun h => hi h.1)]
        exact if_congr (by grind) rfl rfl
    · rw [if_neg hb, ih]
      exact if_congr (by grind) rfl rfl

theorem mem_lanes32 {l : Nat} : l ∈ lanes32 ↔ l < 32 := List.mem_range

theorem lt_of_mem_lanesOf {m : Word} {l : Nat} (h : l ∈ lanesOf m) : l < 32 := BitVec.lt_of_getLsbD ((mem_lanesOf m l).1 h)

/-- With the initialisation flag a frame's new registers hold their tagged cells. -/
theorem Frame.cell_fillRegs (f : Frame) (lo hi : Nat) {r l : Nat} (hl : l < 32) :
    (f.fillRegs true lo hi).cell r l = if lo ≤ r ∧ r < hi then initCell true r else f.cell r l := by
  have hrows : f.fillRegs true lo hi = f.putRows lanes32 lo (hi - lo) hi (fun i _ => initCell true (lo + i)) := by
    unfold Frame.fillRegs Frame.putRows
    rw [if_pos rfl]
    refine List.foldl_ext _ _ _ (fun f i hi => ?_)
    have hlt : lo + i < _ := Nat.add_lt_of_lt_sub' (List.mem_range.1 hi)
    rw [if_pos hlt]
    rfl
  rw [hrows, Frame.cell_putRows f (fun _ h => mem_lanes32.1 h) _ _ _ _ hl]
  by_cases h : lo ≤ r ∧ r < hi
  · have hr : lo + (r - lo) = r := by omega
    rw [if_pos h, if_pos ⟨h.1, by omega, h.2, mem_lanes32.2 hl⟩, hr]
  · rw [if_neg h, if_neg (by omega)]

theorem CellsOnly.fillRegs (f : Frame) (sninit : Bool) (lo hi : Nat) : CellsOnly f (f.fillRegs sninit lo hi) := by
  unfold Frame.fillRegs
  split
  · exact .foldl (fun f _ => .foldl (fun _ _ => .setCell ..) _ f) _ f
  · rfl

/-! ## Granules that are granted at once (R184, R199) -/

theorem State.allocRun_of_findRun {s : State} {c n b : Nat} (h : findRun (s.poolRuns c) n = some b) : s.allocRun c n = (s, b) := by
  unfold State.allocRun
  rw [h]

theorem State.askFrames_granted {s : State} {u : Cur} {p : Pack} {cls n : Nat} (hp : s.pack? u.core u.slot = some p) (h : Granted s u p cls n) (d : Nat) :
    s.askFrames u.core u.slot cls n d = (s, true) := by
  obtain ⟨hreq, hfree, hahead⟩ := h
  unfold State.askFrames
  rw [State.pack_of_pack? hp, hreq]
  exact if_pos ⟨hfree, by rw [hahead]; rfl⟩

/-! ## A call's new frame (R187, R192) -/

/-- The frame a call enters: its record at run `base`, its registers filled, then the arguments of the issuing lanes. -/
def calleeFrame (c : Ctx) (dem argc retc ab base : Nat) (rpc : DWord) : Frame :=
  let f0 : Frame := { rpc := rpc, cmask := c.ig, base := base, size := dem, ab := ab, retc := retc, touched := c.s.ownSteps }
  let f1 := if c.q.sninit then f0.fillRegs true argc (8 * dem) else f0
  (List.range argc).foldl (fun f i => (lanesOf c.all).foldl (fun f l => f.setCell i l (c.cell (ab + i) l)) f) f1

/-- The pack with the callees in the new frame, at the target. -/
def Pack.entered (c : Ctx) (n : Frame) (t : DWord × Option Nat) (p : Pack) : Pack :=
  { p with frames := p.frames ++ [n] }.updLanes c.ig (fun x => { (x.goto t) with depth := c.u.depth + 1 })

theorem calleeFrame_rec (c : Ctx) (dem argc retc ab base : Nat) (rpc : DWord) :
    CellsOnly { rpc := rpc, cmask := c.ig, base := base, size := dem, ab := ab, retc := retc, touched := c.s.ownSteps } (calleeFrame c dem argc retc ab base rpc) := by
  refine CellsOnly.trans ?_ (.foldl (fun f _ => .foldl (fun _ _ => .setCell ..) _ f) _ _)
  split
  · exact .fillRegs ..
  · exact .refl _

theorem calleeFrame_cell (c : Ctx) (dem argc retc ab base : Nat) (rpc : DWord) {r l : Nat} (hl : l < 32) :
    (calleeFrame c dem argc retc ab base rpc).cell r l =
      if r < argc ∧ c.all.getLsbD l = true then c.cell (ab + r) l
      else if argc ≤ r ∧ r < 8 * dem then initCell c.q.sninit r else {} := by
  have hrows : ∀ f : Frame, (List.range argc).foldl (fun f i => (lanesOf c.all).foldl (fun f l => f.setCell i l (c.cell (ab + i) l)) f) f =
      f.putRows (lanesOf c.all) 0 argc argc (fun i l => c.cell (ab + i) l) := by
    intro f
    refine List.foldl_ext _ _ _ (fun f i hi => ?_)
    rw [Nat.zero_add, if_pos (List.mem_range.1 hi)]
    rfl
  unfold calleeFrame
  rw [hrows, Frame.cell_putRows _ (fun _ h => lt_of_mem_lanesOf h) _ _ _ _ hl]
  simp only [Nat.zero_le, Nat.zero_add, true_and, ← and_assoc, and_self, Nat.sub_zero, mem_lanesOf]
  by_cases h : r < argc ∧ c.all.getLsbD l = true
  · rw [if_pos h, if_pos h]
  rw [if_neg h, if_neg h]
  cases c.q.sninit with
  | true => exact Frame.cell_fillRegs _ _ _ hl
  | false => exact (ite_self _).symm

theorem calleeFrame_callee {c : Ctx} {dem argc retc : BitVec 4} {ab : VReg} {base : Nat} {rpc : DWord} (hig : c.u.ig = c.ig) :
    Callee c (calleeFrame c dem.toNat argc.toNat retc.toNat ab.toNat base rpc) dem argc retc ab rpc := by
  have hrec := calleeFrame_rec c dem.toNat argc.toNat retc.toNat ab.toNat base rpc
  have hcell := @calleeFrame_cell c dem.toNat argc.toNat retc.toNat ab.toNat base rpc
  generalize calleeFrame c dem.toNat argc.toNat retc.toNat ab.toNat base rpc = n at hrec hcell
  unfold CellsOnly at hrec
  refine ⟨?_, ?_, ?_, ?_, ?_, ?_, ?_, fun r l hl hr hall => ?_, fun r l hl hlo hhi => ?_⟩
  · rw [hrec]
  · rw [hrec, hig]
  · rw [hrec]
  · rw [hrec]
  · rw [hrec]
  · rw [hrec]
  · rw [hrec]
  · rw [hcell hl, if_pos ⟨hr, hall⟩]
  · rw [hcell hl, if_neg (fun h => Nat.not_lt.2 hlo h.1), if_pos ⟨hlo, hhi⟩]

end Sys2Proof.Machine
end

section
namespace Sys2Proof.Machine
open Sys2Proof

set_option Elab.async false

/-! ## Packs that memory and translation leave alone -/

theorem foldl_packs {α : Type} {f : State → α → State} (hf : ∀ t x, (f t x).packs = t.packs) (xs : List α) (s : State) : (xs.foldl f s).packs = s.packs := by
  induction xs generalizing s with
  | nil => rfl
  | cons x r ih => exact (ih _).trans (hf s x)

/-- The state of a pair, when the pair is known. -/
theorem packs_of_fst {α : Type} {s t : State} {a : α} {r : State × α} (e : r = (t, a)) (h : r.1.packs = s.packs) : t.packs = s.packs := by
  rw [e] at h
  exact h

theorem ite_packs {c : Prop} [Decidable c] {s a b : State} (ha : a.packs = s.packs) (hb : b.packs = s.packs) : (if c then a else b).packs = s.packs := by
  split <;> assumption

theorem ite_fst_packs {α : Type} {c : Prop} [Decidable c] {s : State} {a b : State × α} (ha : a.1.packs = s.packs) (hb : b.1.packs = s.packs) :
    (if c then a else b).1.packs = s.packs := by
  split <;> assumption

/-! ### A write of one line -/

@[simp] theorem State.useDie_packs (s : State) (line : Nat) : (s.useDie line).packs = s.packs := ite_packs rfl rfl

@[simp] theorem State.setRaw_packs (s : State) (pa : Nat) (b : Byte) : (s.setRaw pa b).packs = s.packs := by
  unfold State.setRaw
  extract_lets t
  have ht : t.packs = s.packs := ite_packs rfl rfl
  exact ite_packs ht ht

@[simp] theorem State.reachHome_packs (s : State) (line : Nat) (offs : List Nat) : (s.reachHome line offs).packs = s.packs := by
  refine ite_packs (foldl_packs ?_ _ s) rfl
  exact fun _ _ => rfl

@[simp] theorem State.wbLine_packs (s : State) (c line : Nat) : (s.wbLine c line).packs = s.packs := by
  unfold State.wbLine
  split
  · rfl
  · refine ite_packs rfl ((State.reachHome_packs ..).trans ?_)
    exact (State.useDie_packs _ line).trans (ite_packs rfl rfl)

@[simp] theorem State.flushLine_packs (s : State) (c line : Nat) : (s.flushLine c line).packs = s.packs := s.wbLine_packs c line

@[simp] theorem State.shareLine_packs (s : State) (c line : Nat) : (s.shareLine c line).packs = s.packs := s.wbLine_packs c line

@[simp] theorem State.allocLine_packs (s : State) (c line : Nat) : (s.allocLine c line).packs = s.packs := by
  unfold State.allocLine
  refine ite_packs rfl ?_
  dsimp only
  split
  · rfl
  · exact foldl_packs (fun t _ => t.flushLine_packs c _) _ s.draw.2

@[simp] theorem State.countUE_packs (s : State) (v pa ctx : Nat) : (s.countUE v pa ctx).packs = s.packs := by
  unfold State.countUE
  extract_lets a c
  rw [State.send_packs, State.setReg_packs, State.setReg_packs]

@[simp] theorem State.noteReader_packs (s : State) (a : Acc) (line : Nat) : (s.noteReader a line).packs = s.packs := by
  unfold State.noteReader
  split <;> rfl

@[simp] theorem State.readLine_packs (s : State) (a : Acc) (line : Nat) : (s.readLine a line).packs = s.packs := by
  unfold State.readLine
  extract_lets +onlyGivenNames t1
  have h1 : t1.packs = s.packs := foldl_packs (fun t c => ite_packs rfl (t.shareLine_packs c line)) _ s
  clear_value t1
  extract_lets +onlyGivenNames t2
  have h2 : t2.packs = s.packs := (t1.noteReader_packs a line).trans h1
  clear_value t2
  have hdie : (t2.useDie line).packs = s.packs := (t2.useDie_packs line).trans h2
  split
  · exact ite_packs h2 ((State.allocLine_packs ..).trans hdie)
  · exact hdie

@[simp] theorem State.touch_packs (s : State) (a : Acc) (pa n : Nat) : (s.touch a pa n).packs = s.packs := by
  refine foldl_packs (fun t line => ?_) _ s
  have hread := t.readLine_packs a line
  dsimp only
  generalize t.readLine a line = r at hread ⊢
  have hue : ((r.setLinePsn (line * 64) true).countUE 0 (line * 64) a.ctx).packs = t.packs := (State.countUE_packs ..).trans hread
  generalize (r.setLinePsn (line * 64) true).countUE 0 (line * 64) a.ctx = e at hue ⊢
  exact ite_packs hue hread

@[simp] theorem State.commitNode_packs (s : State) (uid : Nat) : (s.commitNode uid).packs = s.packs := ite_packs rfl rfl

@[simp] theorem State.beforeWrite_packs (s : State) (a : Acc) (pa : Nat) : (s.beforeWrite a pa).packs = s.packs := by
  unfold State.beforeWrite
  extract_lets others t
  clear_value others
  have ht : t.packs = s.packs := by
    unfold t
    split
    · rfl
    · exact State.commitNode_packs ..
  exact ite_packs (ite_packs ((State.commitNode_packs ..).trans ht) ht) ht

@[simp] theorem State.rekey_packs (s : State) (a : Acc) (pa : Nat) (whole : Bool) : (s.rekey a pa whole).packs = s.packs := by
  have hflush : ((s.holders (pa / 64)).foldl (fun s c => s.flushLine c (pa / 64)) s).packs = s.packs := foldl_packs (fun t c => t.flushLine_packs c _) _ s
  exact ite_packs rfl (ite_packs hflush ((foldl_packs (fun t i => t.setRaw_packs _ _) _ _).trans hflush))

@[simp] theorem State.askOwner_packs (s : State) (a : Acc) (line : Nat) : (s.askOwner a line).packs = s.packs := by
  unfold State.askOwner
  split
  · exact ite_packs rfl rfl
  · rfl

@[simp] theorem State.ownLine_packs (s : State) (a : Acc) (line : Nat) : (s.ownLine a line).packs = s.packs := by
  have hflush := foldl_packs (f := fun t c => if a.l1 = some c then t else t.flushLine c line) (fun t c => ite_packs rfl (t.flushLine_packs c line))
    (((s.useDie line).askOwner a line).holders line) ((s.useDie line).askOwner a line)
  rw [State.askOwner_packs, State.useDie_packs] at hflush
  unfold State.ownLine
  refine ite_packs rfl ?_
  dsimp only
  split
  · exact (State.allocLine_packs ..).trans hflush
  · exact hflush

@[simp] theorem State.prepWrite_packs (s : State) (a : Acc) (pa n : Nat) : (s.prepWrite a pa n).packs = s.packs := by
  show ((((s.touch a pa n).beforeWrite a pa).rekey a pa (n == 64)).ownLine a (pa / 64)).packs = s.packs
  simp

@[simp] theorem State.putByte_packs (s : State) (a : Acc) (pa : Nat) (b : Byte) : (s.putByte a pa b).packs = s.packs :=
  (State.setRaw_packs ..).trans (ite_packs rfl rfl)

@[simp] theorem State.putBytes_packs (s : State) (a : Acc) (pa : Nat) (bs : List Byte) : (s.putBytes a pa bs).packs = s.packs :=
  foldl_packs (fun t _ => t.putByte_packs a _ _) _ s

@[simp] theorem State.endWrite_packs (s : State) (a : Acc) (pa n : Nat) (psn : Bool) : (s.endWrite a pa n psn).packs = s.packs := by
  have hpsn : (if psn then s.setLinePsn pa true else s).packs = s.packs := ite_packs rfl rfl
  exact ite_packs hpsn ((State.reachHome_packs ..).trans hpsn)

@[simp] theorem State.writeRun_packs (s : State) (a : Acc) (pa : Nat) (bs : List Byte) (psn : Bool) : (s.writeRun a pa bs psn).packs = s.packs := by
  unfold State.writeRun
  split
  · rfl
  · simp

/-! ### Walks -/

@[simp] theorem State.readPte_packs (s : State) (ctx pa : Nat) : (s.readPte ctx pa).1.packs = s.packs := s.touch_packs ..

@[simp] theorem State.setAD_packs (s : State) (ctx pa e : Nat) (w : Bool) : (s.setAD ctx pa e w).1.packs = s.packs :=
  ite_fst_packs rfl (s.writeRun_packs ..)

@[simp] theorem groupEntry_packs (s : State) (t va : Nat) : (groupEntry s t va).1.packs = s.packs := ite_fst_packs rfl rfl

@[simp] theorem s2Walk_packs (ctx gpa : Nat) (tensor : Bool) (need : Need) (w : Bool) (n t : Nat) (s : State) :
    (s2Walk ctx gpa tensor need w n t s).1.packs = s.packs := by
  induction n generalizing t s with
  | zero => rfl
  | succ n ih =>
    unfold s2Walk
    refine ite_fst_packs rfl (ite_fst_packs rfl ?_)
    extract_lets
    split
    rename_i e
    have h1 := packs_of_fst e (State.readPte_packs ..)
    split
    rename_i e
    have h2 := packs_of_fst e (ite_fst_packs ((groupEntry_packs ..).trans h1) h1)
    split
    rename_i e
    have h3 := (packs_of_fst e (State.readPte_packs ..)).trans h2
    split
    · exact h3
    · exact (ih ..).trans h3
    · split
      rename_i e
      exact (packs_of_fst e (State.setAD_packs ..)).trans h3

@[simp] theorem s2Translate_packs (ctx func gpa : Nat) (tensor : Bool) (need : Need) (w : Bool) (s : State) :
    (s2Translate ctx func gpa tensor need w s).1.packs = s.packs :=
  ite_fst_packs rfl (ite_fst_packs rfl (s2Walk_packs ..))

@[simp] theorem tableAddr_packs (ctx func t lvl : Nat) (s : State) : (tableAddr ctx func t lvl s).1.packs = s.packs := by
  unfold tableAddr
  refine ite_fst_packs (ite_fst_packs rfl (ite_fst_packs rfl rfl)) ?_
  split <;> rename_i e <;> have h := packs_of_fst e (s2Translate_packs ..)
  · exact h
  · exact ite_fst_packs h (ite_fst_packs h h)

@[simp] theorem s1Walk_packs (ctx func va : Nat) (tensor : Bool) (need : Need) (w : Bool) (n t : Nat) (s : State) :
    (s1Walk ctx func va tensor need w n t s).1.packs = s.packs := by
  induction n generalizing t s with
  | zero => rfl
  | succ n ih =>
    unfold s1Walk
    extract_lets
    split <;> rename_i e <;> have h := packs_of_fst e (tableAddr_packs ..)
    · exact h
    · extract_lets
      split
      rename_i e
      have h1 := (packs_of_fst e (State.readPte_packs ..)).trans h
      split
      rename_i e
      have h2 := packs_of_fst e (ite_fst_packs ((groupEntry_packs ..).trans h1) h1)
      split
      rename_i e
      have h3 := (packs_of_fst e (State.readPte_packs ..)).trans h2
      split
      · exact h3
      · exact (ih ..).trans h3
      · split
        rename_i e
        exact (packs_of_fst e (State.setAD_packs ..)).trans h3

@[simp] theorem walk_packs (s : State) (ctx root va : Nat) (need : Need) (w : Bool) : (walk s ctx root va need w).1.packs = s.packs := by
  unfold walk
  dsimp only
  split <;> rename_i e <;> have h := packs_of_fst e (s1Walk_packs ..)
  · exact h
  · refine ite_fst_packs (ite_fst_packs h (ite_fst_packs h h)) ?_
    split <;> rename_i e2 <;> have h2 := (packs_of_fst e2 (s2Translate_packs ..)).trans h
    · exact h2
    · exact ite_fst_packs h2 (ite_fst_packs h2 h2)

@[simp] theorem xlate_packs (s : State) (wh ctx root va : Nat) (need : Need) : (xlate s wh ctx root va need).1.packs = s.packs := by
  unfold xlate
  dsimp only
  split
  · rfl
  · split <;> rename_i e <;> have h := packs_of_fst e (walk_packs ..) <;> exact h

/-! ### Control accesses -/

@[simp] theorem ctlAddr_packs (s : State) (wh ctx va : Nat) (need : Need) (pin : Bool) : (ctlAddr s wh ctx va need pin).1.packs = s.packs := by
  unfold ctlAddr
  refine ite_fst_packs rfl ?_
  split <;> rename_i e <;> have h := packs_of_fst e (xlate_packs ..)
  · exact ite_fst_packs h h
  · exact h

@[simp] theorem ctlWriteN_packs (wh ctx : Nat) (pin psn : Bool) (n va : Nat) (bs : List Byte) (s : State) : (ctlWriteN wh ctx pin psn n va bs s).1.packs = s.packs := by
  induction n generalizing va bs s with
  | zero => rfl
  | succ n ih =>
    unfold ctlWriteN
    split
    · rfl
    · dsimp only
      split <;> rename_i e <;> have h := packs_of_fst e (ctlAddr_packs ..)
      · exact h
      · exact (ih ..).trans ((State.writeRun_packs ..).trans h)

/-- A write to a pinned area leaves every pack as it is. -/
@[simp] theorem State.pinWrite_packs (s : State) (core ctx va : Nat) (bs : List Byte) : (s.pinWrite core ctx va bs).1.packs = s.packs := ctlWriteN_packs ..

end Sys2Proof.Machine
end

section
namespace Sys2Proof.Machine
open Sys2Proof Sys2Proof.Claims

set_option Elab.async false

/-! ## CALL and CALLX (R187, R192) -/

/-- Where a call that traps nothing goes. -/
theorem callTraps_eq_nil {i : Instr} {s : State} {u : Cur} {p : Pack} (hi : Issues i s u p) (hhelp : (instrUses i).helper = false) {dem : Nat}
    {tgt : Option (DWord × Option Nat)} (h : callTraps (ctxOf i s u p) dem tgt = []) :
    p.handler = none ∧ u.depth ≠ 255 ∧ tgt.isSome = true ∧ ¬ backBelow p (u.depth + 1) + 32 * (dem + 1) > (ctxOf i s u p).q.fbsize := by
  have hne := groupTrap_ne_nil hi hhelp
  unfold callTraps at h
  split at h
  · exact absurd h (hne _ _)
  split at h
  · exact absurd h (hne _ _)
  split at h
  · exact absurd h (hne _ _)
  split at h
  · exact absurd h (hne _ _)
  rename_i hh hd ht hb
  rw [backing_eq] at hb
  exact ⟨by simpa using hh, hd, by simpa [Option.isSome_iff_ne_none] using ht, hb⟩

/-- The pack once the record of the frame seven above has left the chip (R188). -/
def Pack.recordOut (k : Nat) (p : Pack) : Pack := { p with frames := p.frames.modify k (fun f => { f with onChip := false }) }

/-- A call traps nothing, nothing holds it back, and its granules are granted at run b. -/
structure CallGranted (c : Ctx) (dem b : Nat) : Prop where
  below : c.p.handler = none
  shallow : c.u.depth ≠ 255
  backed : ¬ backBelow c.p (c.u.depth + 1) + 32 * (dem + 1) > c.q.fbsize
  deepest : c.p.frames.length = c.u.depth + 1
  asked : c.s.askFrames c.u.core c.u.slot 3 dem (c.u.depth + 1) = (c.s, true)
  run : c.s.allocRun c.u.core dem = (c.s, b)

/-- The effect of such a call. -/
theorem callBody_granted {c : Ctx} {dem argc retc ab b : Nat} {t : DWord × Option Nat} {rpc : DWord} (h : CallGranted c dem b) :
    callBody c dem argc retc ab (some t) rpc =
      let s := c.s.updPack c.u.core c.u.slot (Pack.entered c (calleeFrame c dem argc retc ab b rpc) t)
      if c.u.depth + 1 < 8 then { s := s, stay := c.ig }
      else match s.pinWrite c.u.core c.p.ctx (s.crBase c.p + 32 * (c.u.depth - 7)) (((s.pack c.u.core c.u.slot).frames.getD (c.u.depth - 7) {}).record) with
        | (s, true) => { s := s.updPack c.u.core c.u.slot (Pack.recordOut (c.u.depth - 7)), stay := c.ig }
        | (s, false) => { s := s, stay := c.ig, traps := groupTrap c tDOUBLE 1 } := by
  have hdeepest : ¬ c.u.depth + 1 < c.p.frames.length := by rw [h.deepest]; exact Nat.lt_irrefl _
  unfold callBody
  simp only [h.below, h.asked, h.run, Option.isSome_none]
  rw [if_neg Bool.false_ne_true, if_neg h.shallow, if_neg h.backed, if_neg hdeepest]
  rfl

/-- At a depth below 7 every record is on chip. -/
theorem callBody_shallow {c : Ctx} {dem argc retc ab b : Nat} {t : DWord × Option Nat} {rpc : DWord} (h : CallGranted c dem b) (hshallow : c.u.depth + 1 < 8) :
    callBody c dem argc retc ab (some t) rpc =
      { s := c.s.updPack c.u.core c.u.slot (Pack.entered c (calleeFrame c dem argc retc ab b rpc) t), stay := c.ig } :=
  (callBody_granted h).trans (if_pos hshallow)

/-- Where the record of an earlier frame leaves the chip, the call goes on, or traps DOUBLE; the callees are in the new frame all the same. -/
theorem callBody_deep {c : Ctx} {dem argc retc ab b : Nat} {t : DWord × Option Nat} {rpc : DWord} (h : CallGranted c dem b) (hdeep : 8 ≤ c.u.depth + 1)
    (hp : c.s.pack? c.u.core c.u.slot = some c.p) :
    ∃ r, callBody c dem argc retc ab (some t) rpc = r ∧ r.stall = none ∧ r.faults = [] ∧ r.stay = c.ig ∧
      ∃ q, r.s.pack? c.u.core c.u.slot = some q ∧ (q = Pack.entered c (calleeFrame c dem argc retc ab b rpc) t c.p ∨
        q = (Pack.entered c (calleeFrame c dem argc retc ab b rpc) t c.p).recordOut (c.u.depth - 7)) := by
  refine ⟨_, rfl, ?_⟩
  rw [callBody_granted h]
  dsimp only
  rw [if_neg (Nat.not_lt.2 hdeep)]
  split <;> rename_i e <;> have hpacks := packs_of_fst e (State.pinWrite_packs ..) <;>
    have hq := (congrArg (FMap.find · (packKey c.u.core c.u.slot)) hpacks).trans (State.pack?_updPack_self c.s c.u.core c.u.slot _) <;> rw [hp] at hq
  · exact ⟨rfl, rfl, rfl, _, (State.pack?_updPack_self ..).trans (congrArg _ hq), .inr rfl⟩
  · exact ⟨rfl, rfl, rfl, _, hq, .inl rfl⟩

/-- The frames of a pack whose lanes have moved stay put, and the other way round. -/
theorem Pack.entered_eq (c : Ctx) (n : Frame) (t : DWord × Option Nat) (p : Pack) :
    Pack.entered c n t p = { p.updLanes c.ig (fun x => { x.goto t with depth := c.u.depth + 1 }) with frames := p.frames ++ [n] } := by
  have hlanes : ∀ (fs : List Frame) (ls : List Nat) (g : Lane → Lane) (q : Pack),
      ls.foldl (fun q l => q.updLane l g) { q with frames := fs } = { ls.foldl (fun q l => q.updLane l g) q with frames := fs } := by
    intro fs ls g
    induction ls with
    | nil => intro q; rfl
    | cons l ls ih => intro q; exact ih (q.updLane l g)
  exact hlanes ..

theorem Pack.entered_handler (c : Ctx) (n : Frame) (t : DWord × Option Nat) (p : Pack) : (Pack.entered c n t p).handler = p.handler := by
  rw [Pack.entered_eq, Pack.updLanes_handler]

/-- A UNIT WHOSE EFFECT LEAVES ITS PACK AT e, whatever else it has done: its end. -/
theorem unit_ends {i : Instr} {s : State} {u : Cur} {p : Pack} (h : Issues i s u p) {body : Ctx → Res} (hex : exec i s = runUnit i (instrUses i) body s) {r : Res}
    (hb : body (ctxOf i s u p) = r) (hstall : r.stall = none) (hf : r.faults = []) {e : Pack} (he : r.s.pack? u.core u.slot = some e) :
    ∃ t q, exec i s = .next t ∧ OnlyPack r.s t u q ∧ Ends (ctxOf i s u p) e q (u.ig &&& ~~~r.stay) ∧
      q.pending = withTraps e.pending r.s u ((ctxOf i s u p).tagged ++ r.traps) := by
  let r' : Res := { r with traps := (ctxOf i s u p).tagged ++ r.traps }
  obtain ⟨ts, ho, -⟩ := finish_spec (ctxOf i s u p) (usesOf i) r' hstall he
  obtain ⟨heq, hdel, hpos, hfr⟩ := endPack_spec (ctxOf i s u p) (usesOf i) r' e hf
  have hlen := endPack_frames_length (ctxOf i s u p) (usesOf i) r' e hf
  have hmk : exec i s = .next (finish (ctxOf i s u p) (usesOf i) r') := by rw [hex, runUnit_issues body h, hb]
  generalize endPack (ctxOf i s u p) (usesOf i) r' e = f at ho heq hdel hpos hfr hlen
  refine ⟨_, _, hmk, ho, ⟨⟨?_, hdel⟩, hpos, ?_, ?_, ?_, ?_, hlen, hfr⟩, ?_⟩
  · show { f with toks := ts, pending := _ } = _
    rw [heq]
  · show f.s = _
    rw [heq]
  · show f.m = _
    rw [heq]
  · show f.fpc = _
    rw [heq]
  · show f.trapFrame = _
    rw [heq]
  · have hpend : f.pending = e.pending := by rw [heq]
    exact congrArg (withTraps · _ _ _) hpend

/-- A branch offset counts from the instruction's own word (R26). -/
theorem target_eq_dest (i : Instr) (s : State) (u : Cur) (p : Pack) (off : Int) : (ctxOf i s u p).target off = dest (ctxOf i s u p) off := by
  unfold Ctx.target dest
  cases h : (ctxOf i s u p).u.k with
  | some k => rfl
  | none =>
    refine Prod.ext ?_ rfl
    show u.pc + BitVec.ofNat 64 (4 * prefixWords u.words) + BitVec.ofInt 64 (4 * off) = u.pc + BitVec.ofInt 64 (4 * (prefixWords u.words + off))
    rw [mul_add, BitVec.ofInt_add, BitVec.add_assoc, ← BitVec.ofInt_natCast, Nat.cast_mul, Nat.cast_ofNat]

theorem Pack.entered_frame (c : Ctx) (n : Frame) (t : DWord × Option Nat) (p : Pack) (hlen : p.frames.length = c.u.depth + 1) :
    (Pack.entered c n t p).frames.length = c.u.depth + 2 ∧ (Pack.entered c n t p).frames.getD (c.u.depth + 1) {} = n := by
  rw [Pack.entered_eq]
  refine ⟨by simp [hlen], ?_⟩
  show (p.frames ++ [n]).getD (c.u.depth + 1) {} = n
  rw [← hlen, List.getD_append_right _ _ _ _ (Nat.le_refl _), Nat.sub_self]
  rfl

theorem Pack.recordOut_frames (p : Pack) {k j : Nat} (h : j ≠ k) :
    (p.recordOut k).frames.length = p.frames.length ∧ (p.recordOut k).frames.getD j {} = p.frames.getD j {} :=
  ⟨List.length_modify .., (getD_modify ..).trans (if_neg fun e => h e.1)⟩

/-- A call whose target is known, with its granules granted: R192's effect, with the end of the unit. -/
theorem call_enters {i : Instr} {s : State} {u : Cur} {p : Pack} (hi : Issues i s u p) (hhelp : (instrUses i).helper = false) {body : Ctx → Res}
    (hex : exec i s = runUnit i (instrUses i) body s) {dem argc retc : BitVec 4} {ab : VReg} {tgt : DWord × Option Nat} {rpc : DWord} {b : Nat}
    (hbody : body (ctxOf i s u p) = callBody (ctxOf i s u p) dem.toNat argc.toNat retc.toNat ab.toNat (some tgt) rpc)
    (hno : callTraps (ctxOf i s u p) dem.toNat (some tgt) = []) (hlen : p.frames.length = u.depth + 1) (hgr : Granted s u p 3 dem.toNat)
    (hrun : findRun (s.poolRuns u.core) dem.toNat = some b) :
    ∃ n : Frame, Callee (ctxOf i s u p) n dem argc retc ab rpc ∧ n.base = b ∧
      (u.depth + 1 < 8 → UnitDone i s u p
        { p.updLanes u.ig (fun x => { x.goto tgt with depth := u.depth + 1 }) with frames := p.frames ++ [n] } 0 []) ∧
      (8 ≤ u.depth + 1 → ∃ t q, exec i s = .next t ∧ t.pack? u.core u.slot = some q ∧ q.frames.length = u.depth + 2 ∧
        SameRec n (q.frames.getD (u.depth + 1) {}) ∧ (∀ r l, (q.frames.getD (u.depth + 1) {}).cell r l = n.cell r l) ∧
        (∀ l, u.ig.getLsbD l = true → (q.lane l).depth = u.depth + 1 ∧ (q.lane l).pc = tgt.1 ∧ (q.lane l).k = tgt.2) ∧ q.s = p.s ∧ q.m = p.m ∧ q.fpc = p.fpc) := by
  have hp := hi.2.2.1
  obtain ⟨hh, hd, -, hb⟩ := callTraps_eq_nil hi hhelp hno
  have hcall : CallGranted (ctxOf i s u p) dem.toNat b := ⟨hh, hd, hb, hlen, State.askFrames_granted hp hgr (u.depth + 1), State.allocRun_of_findRun hrun⟩
  refine ⟨calleeFrame (ctxOf i s u p) dem.toNat argc.toNat retc.toNat ab.toNat b rpc, calleeFrame_callee rfl, ?_, fun hshallow => ?_, fun hdeep => ?_⟩
  · have hrec := calleeFrame_rec (ctxOf i s u p) dem.toNat argc.toNat retc.toNat ab.toNat b rpc
    unfold CellsOnly at hrec
    rw [hrec]
  · have hdone := unit_done hi hex (hbody.trans (callBody_shallow hcall hshallow)) rfl rfl rfl (Pack.entered_handler ..)
    rw [ctxOf_ig, BitVec.and_not_self, Pack.entered_eq] at hdone
    exact hdone
  · obtain ⟨r, hr, hstall, hf, hstay, q0, hq0, hcases⟩ := callBody_deep hcall hdeep hp
    obtain ⟨t, q, hnext, ho, ⟨hbut, hlanes, hs, hm, hfpc, -, hlength, hfr⟩, -⟩ := unit_ends hi hex (hbody.trans hr) hstall hf hq0
    generalize hn : calleeFrame (ctxOf i s u p) dem.toNat argc.toNat retc.toNat ab.toNat b rpc = n at hcases ⊢
    have hent := Pack.entered_frame (ctxOf i s u p) n tgt p hlen
    have hframes : q0.frames.length = u.depth + 2 ∧ q0.frames.getD (u.depth + 1) {} = n := by
      rcases hcases with rfl | rfl
      · exact hent
      · have hout := (Pack.entered (ctxOf i s u p) n tgt p).recordOut_frames (k := u.depth - 7) (j := u.depth + 1) (by omega)
        exact ⟨hout.1.trans hent.1, hout.2.trans hent.2⟩
    have hrest : (∀ l, q0.lane l = (Pack.entered (ctxOf i s u p) n tgt p).lane l) ∧ q0.s = p.s ∧ q0.m = p.m ∧ q0.fpc = p.fpc := by
      rcases hcases with rfl | rfl <;> exact ⟨fun _ => rfl, Pack.updLanes_s .., Pack.updLanes_m .., Pack.updLanes_fpc ..⟩
    obtain ⟨hlane0, hs0, hm0, hfpc0⟩ := hrest
    refine ⟨t, q, hnext, ho.1, hlength.trans hframes.1, hframes.2 ▸ (hfr (u.depth + 1)).1, fun r l => ?_, fun l hl => ?_, hs.trans hs0, hm.trans hm0, hfpc.trans hfpc0⟩
    · rw [(hfr (u.depth + 1)).2 r l, hframes.2]
    · obtain ⟨⟨hsame, -⟩, hpc, hk⟩ := hlanes l
      have hl0 : q0.lane l = { (p.lane l).goto tgt with depth := u.depth + 1 } := by
        rw [hlane0]
        unfold Pack.entered
        rw [Pack.lane_updLanes, ctxOf_ig, if_pos hl]
        rfl
      have hmoved : ¬ ((u.ig &&& ~~~r.stay).getLsbD l = true ∧ (q0.lane l).stands = false) := by
        rw [hstay, ctxOf_ig, BitVec.and_not_self]
        exact fun h => Bool.false_ne_true (BitVec.getLsbD_zero.symm.trans h.1)
      rw [if_neg hmoved] at hpc hk
      refine ⟨?_, by rw [hpc, hl0]; rfl, by rw [hk, hl0]; rfl⟩
      rw [hsame, hl0]

/-- Settles O12: a call whose granules are granted enters the frame that `calleeFrame` builds, at a depth below 7 with no other effect. -/
theorem callsEnterANewFrame : Obligations.CallsEnterANewFrame := by
  unfold Obligations.CallsEnterANewFrame
  intro i s u p dem argc retc ab tgt rpc b hwf hi hparts hno _ hlen hgr hrun
  clear hwf
  cases i
  case call dem' argc' retc' ab' off =>
    simp only [callParts, Option.some.injEq, Prod.mk.injEq] at hparts
    obtain ⟨rfl, rfl, rfl, rfl, rfl, rfl⟩ := hparts
    rw [frameTraps_call] at hno
    exact call_enters hi rfl (exec_call ..) (by rw [← target_eq_dest]) (by rwa [← target_eq_dest]) hlen hgr hrun
  case callx dem' argc' retc' ab' r =>
    simp only [callParts, Option.some.injEq, Prod.mk.injEq] at hparts
    obtain ⟨rfl, rfl, rfl, rfl, rfl, rfl⟩ := hparts
    rw [frameTraps_callx] at hno
    obtain ⟨-, -, hsome, -⟩ := callTraps_eq_nil hi rfl hno
    have htgt : callxTarget (ctxOf (.callx dem' argc' retc' ab' r) s u p) r = some (p.sreg r.toNat, none) := by
      unfold callxTarget at hsome ⊢
      split at hsome
      · exact if_pos ‹_›
      · exact absurd hsome Bool.false_ne_true
    rw [htgt] at hno
    exact call_enters hi rfl (exec_callx ..) (by rw [htgt]; rfl) hno hlen hgr hrun
  all_goals exact absurd hparts.symm (Option.some_ne_none _)

end Sys2Proof.Machine
end

section
namespace Sys2Proof.Machine
open Sys2Proof Sys2Proof.Claims

set_option Elab.async false

/-! ## Frames that end leave the delivery alone (R186, R196) -/

theorem Pack.reapN_handler (n : Nat) (p : Pack) : (Pack.reapN n p).handler = p.handler := by
  induction n generalizing p with
  | zero => rfl
  | succ n ih =>
    unfold Pack.reapN
    split
    · exact ih p.popFrame
    · rfl

@[simp] theorem Pack.helpersOut_handler (p : Pack) : p.helpersOut.handler = p.handler := by
  unfold Pack.helpersOut
  split
  · exact Pack.updLanes_handler ..
  · rfl

@[simp] theorem Pack.reap_handler (p : Pack) : p.reap.handler = p.handler := (Pack.reapN_handler ..).trans p.helpersOut_handler

/-- With no delivery in progress an exit begins none. -/
theorem Pack.exitLanes_handler {p : Pack} (h : p.handler = none) (m : Word) : (p.exitLanes m).handler = none := by
  unfold Pack.exitLanes Pack.psyncSettle
  rw [Pack.reap_handler]
  dsimp only
  rw [Pack.updLanes_handler, h]
  rfl

/-! ## RET (R193) -/

/-- The results of frame f, row by row, in the registers of the frame at depth k that it has. -/
def Pack.copyResults (f : Frame) (ls : List Nat) (k : Nat) (p : Pack) : Pack :=
  (List.range f.retc).foldl (fun p i =>
    if f.ab + i < 8 * (p.frames.getD k {}).size then
      { p with frames := p.frames.modify k (fun g => ls.foldl (fun g l => g.setCell (f.ab + i) l (f.cell i l)) g) }
    else p) p

/-- The frame at a depth and its caller's are touched at step t (R202). -/
def Pack.touchFrames (d t : Nat) (p : Pack) : Pack :=
  { p with frames := (p.frames.modify d (fun g => { g with touched := t })).modify (d - 1) (fun g => { g with touched := t }) }

/-- The results of a RET in the caller's registers; both frames are touched where there are some. -/
def Pack.resultsCopied (c : Ctx) (p : Pack) : Pack :=
  let f := c.p.frames.getD c.u.depth {}
  if f.retc = 0 then p.copyResults f (lanesOf c.all) (c.u.depth - 1)
  else (p.copyResults f (lanesOf c.all) (c.u.depth - 1)).touchFrames c.u.depth c.s.ownSteps

theorem exec_ret_returns (s : State) : ∃ body, exec .ret s = runUnit .ret (instrUses .ret) body s ∧
    ∀ c : Ctx, c.p.handler = none → c.u.depth ≠ 0 → ¬ (c.p.frames.getD c.u.depth {}).retc > 8 * (c.p.frames.getD c.u.depth {}).size →
      (c.p.frames.getD c.u.depth {}).onChip = true → c.s.needFrame c.u.core c.u.slot (c.u.depth - 1) = (c.s, true) →
      body c = { s := c.s.updPack c.u.core c.u.slot (fun p =>
        ((Pack.resultsCopied c p).updLanes c.ig (Lane.ret (c.u.depth - 1) (c.p.frames.getD c.u.depth {}).rpc)).reap), stay := c.ig } := by
  refine ⟨_, rfl, fun c hh hd hr ho hn => ?_⟩
  simp only [hh, hn, Option.isSome_none, ho]
  rw [if_neg Bool.false_ne_true, if_neg hd, if_neg hr, if_neg (by decide)]
  rfl

theorem modify_of_getElem? {α : Type} {xs : List α} {k : Nat} {a : α} (h : xs[k]? = some a) (f : α → α) : xs.modify k f = xs.set k (f a) := by
  rw [List.modify_eq_set_getElem?, h]
  rfl

/-- The caller's frame takes the results; no other frame changes. -/
theorem Pack.copyResults_eq (f : Frame) (ls : List Nat) {k : Nat} {p : Pack} {g : Frame} (hg : p.frames[k]? = some g) :
    p.copyResults f ls k = { p with frames := p.frames.set k (g.putRows ls f.ab f.retc (8 * g.size) f.cell) } := by
  obtain ⟨hk, hgk⟩ := List.getElem?_eq_some_iff.1 hg
  unfold Pack.copyResults
  induction f.retc with
  | zero =>
    have hself : p.frames.set k g = p.frames := hgk ▸ List.set_getElem_self hk
    show p = { p with frames := p.frames.set k g }
    rw [hself]
  | succ n ih =>
    have hrow : (p.frames.set k (g.putRows ls f.ab n (8 * g.size) f.cell))[k]? = some (g.putRows ls f.ab n (8 * g.size) f.cell) := List.getElem?_set_self hk
    have hsize : ((p.frames.set k (g.putRows ls f.ab n (8 * g.size) f.cell)).getD k {}).size = g.size := by
      rw [List.getD_eq_getElem?_getD, hrow]
      exact (CellsOnly.putRows ..).size
    have hnext : g.putRows ls f.ab (n + 1) (8 * g.size) f.cell =
        if f.ab + n < 8 * g.size then (g.putRows ls f.ab n (8 * g.size) f.cell).putRow ls (f.ab + n) (f.cell n) else g.putRows ls f.ab n (8 * g.size) f.cell := by
      unfold Frame.putRows
      rw [List.range_succ, List.foldl_append]
      rfl
    rw [List.range_succ, List.foldl_append, ih, List.foldl_cons, List.foldl_nil, hnext]
    dsimp only
    rw [hsize]
    split
    · rw [modify_of_getElem? hrow, List.set_set]
      rfl
    · rfl

/-- A touched frame keeps its record and its registers. -/
theorem Pack.touchFrames_spec (p : Pack) (d t : Nat) : (p.touchFrames d t).frames.length = p.frames.length ∧
    ∀ e, SameRec (p.frames.getD e {}) ((p.touchFrames d t).frames.getD e {}) ∧ ∀ r l, ((p.touchFrames d t).frames.getD e {}).cell r l = (p.frames.getD e {}).cell r l := by
  unfold Pack.touchFrames
  refine ⟨by simp only [List.length_modify], fun e => ?_⟩
  simp only [getD_modify]
  split <;> split <;> exact ⟨rfl, fun _ _ => rfl⟩

/-- Of the pack RET's copying changes the frames, and beside the copied registers only when they were touched. -/
theorem Pack.resultsCopied_eq {c : Ctx} {p : Pack} : Pack.resultsCopied c p = { p.copyResults (c.p.frames.getD c.u.depth {}) (lanesOf c.all) (c.u.depth - 1) with frames := (Pack.resultsCopied c p).frames } ∧
    (Pack.resultsCopied c p).frames.length = (p.copyResults (c.p.frames.getD c.u.depth {}) (lanesOf c.all) (c.u.depth - 1)).frames.length ∧
    ∀ e, SameRec ((p.copyResults (c.p.frames.getD c.u.depth {}) (lanesOf c.all) (c.u.depth - 1)).frames.getD e {}) ((Pack.resultsCopied c p).frames.getD e {}) ∧
      ∀ r l, ((Pack.resultsCopied c p).frames.getD e {}).cell r l =
        ((p.copyResults (c.p.frames.getD c.u.depth {}) (lanesOf c.all) (c.u.depth - 1)).frames.getD e {}).cell r l := by
  unfold Pack.resultsCopied
  dsimp only
  generalize p.copyResults (c.p.frames.getD c.u.depth {}) (lanesOf c.all) (c.u.depth - 1) = q
  split
  · exact ⟨rfl, rfl, fun _ => ⟨rfl, fun _ _ => rfl⟩⟩
  · exact ⟨rfl, q.touchFrames_spec ..⟩

/-- What RET copies (R193): the results, value, mark and tag, to the caller's registers that its frame has, in the returning lanes. -/
theorem resultsCopied_spec {c : Ctx} {g : Frame} (hg : c.p.frames[c.u.depth - 1]? = some g) :
    Pack.resultsCopied c c.p = { c.p with frames := (Pack.resultsCopied c c.p).frames } ∧ (Pack.resultsCopied c c.p).frames.length = c.p.frames.length ∧
      (∀ e, SameRec (c.p.frames.getD e {}) ((Pack.resultsCopied c c.p).frames.getD e {})) ∧
      (∀ e r l, e ≠ c.u.depth - 1 → ((Pack.resultsCopied c c.p).frames.getD e {}).cell r l = (c.p.frames.getD e {}).cell r l) ∧
      (∀ r l, l < 32 → ((Pack.resultsCopied c c.p).frames.getD (c.u.depth - 1) {}).cell r l =
        let f := c.p.frames.getD c.u.depth {}
        if f.ab ≤ r ∧ r < f.ab + f.retc ∧ r < 8 * g.size ∧ c.all.getLsbD l = true then f.cell (r - f.ab) l else g.cell r l) := by
  obtain ⟨hk, -⟩ := List.getElem?_eq_some_iff.1 hg
  have hgd : c.p.frames.getD (c.u.depth - 1) {} = g := by rw [List.getD_eq_getElem?_getD, hg]; rfl
  obtain ⟨heq, hlen, hsame⟩ := Pack.resultsCopied_eq (c := c) (p := c.p)
  generalize Pack.resultsCopied c c.p = p1 at heq hlen hsame ⊢
  generalize c.p.frames.getD c.u.depth {} = f at heq hlen hsame ⊢
  rw [Pack.copyResults_eq f (lanesOf c.all) hg] at heq hlen hsame
  generalize hrows : g.putRows (lanesOf c.all) f.ab f.retc (8 * g.size) f.cell = h at heq hlen hsame
  have hcell : ∀ r l, l < 32 → h.cell r l = if f.ab ≤ r ∧ r < f.ab + f.retc ∧ r < 8 * g.size ∧ c.all.getLsbD l = true then f.cell (r - f.ab) l else g.cell r l := by
    intro r l hl
    rw [← hrows, Frame.cell_putRows g (fun _ h => lt_of_mem_lanesOf h) _ _ _ _ hl]
    simp only [mem_lanesOf]
  have hrec : SameRec g h := hrows ▸ (CellsOnly.putRows ..).sameRec
  have hset : ∀ e, (c.p.frames.set (c.u.depth - 1) h).getD e {} = if e = c.u.depth - 1 then h else c.p.frames.getD e {} := by
    intro e
    rw [List.getD_eq_getElem?_getD, List.getElem?_set, if_pos hk, List.getD_eq_getElem?_getD]
    by_cases he : e = c.u.depth - 1
    · rw [if_pos he.symm, if_pos he]; rfl
    · rw [if_neg (Ne.symm he), if_neg he]
  simp only [hset] at hsame
  refine ⟨heq, hlen.trans (List.length_set ..), fun e => ?_, fun e r l he => ?_, fun r l hl => ?_⟩
  · refine SameRec.trans ?_ (hsame e).1
    split
    · rw [‹e = _›, hgd]; exact hrec
    · rfl
  · rw [(hsame e).2 r l, if_neg he]
  · rw [(hsame _).2 r l, if_pos rfl]
    exact hcell r l hl

theorem State.needFrame_of_resident {s : State} {c sl d : Nat} {p : Pack} {g : Frame} (hp : s.pack? c sl = some p) (hg : p.frames[d]? = some g) (hres : g.st = .resident) :
    s.needFrame c sl d = (s, true) := by
  unfold State.needFrame
  simp only [State.pack_of_pack? hp, hg, hres]

/-- RET copies its results, makes its lanes returned, and frees what is finished. -/
theorem retCopiesResultsAndReturns : Claims.RetCopiesResultsAndReturns := by
  intro s u p g hi hno hh hchip hg hres
  have hne := groupTrap_ne_nil hi rfl
  rw [frameTraps_ret, if_neg (by rw [ctxOf_p, hh]; exact Bool.false_ne_true)] at hno
  obtain ⟨hd, hr⟩ : u.depth ≠ 0 ∧ ¬ (p.frames.getD u.depth {}).retc > 8 * (p.frames.getD u.depth {}).size := by
    refine ⟨fun hd => hne _ _ ((if_pos hd).symm.trans hno), fun hr => ?_⟩
    split at hno
    · exact hne _ _ hno
    · exact hne _ _ ((if_pos hr).symm.trans hno)
  obtain ⟨body, hex, hbody⟩ := exec_ret_returns s
  have hb := hbody (ctxOf .ret s u p) hh hd hr hchip (State.needFrame_of_resident hi.2.2.1 hg hres)
  obtain ⟨heq, hlen, hrec, hother, hcells⟩ := resultsCopied_spec (c := ctxOf .ret s u p) hg
  refine ⟨Pack.resultsCopied (ctxOf .ret s u p) p, heq, hlen, hrec, hother, hcells, ?_⟩
  have hdone := unit_done hi hex hb rfl rfl rfl (by rw [Pack.reap_handler, Pack.updLanes_handler]; exact (congrArg Pack.handler heq).trans rfl)
  rwa [ctxOf_ig, BitVec.and_not_self] at hdone

/-! ## UNWIND (R195) -/

theorem exec_unwind_returns (n : BitVec 8) (s : State) : ∃ body, exec (.unwind n) s = runUnit (.unwind n) (instrUses (.unwind n)) body s ∧
    ∀ c : Ctx, c.p.handler = none → ¬ unwindCount c n > c.u.depth →
      (unwindCount c n = 0 → body c = { s := c.s }) ∧
      (∀ rpc, unwindCount c n ≠ 0 → c.s.recordRpc c.u.core c.u.slot (c.u.depth + 1 - unwindCount c n) = (c.s, .ok rpc) →
        body c = { s := c.s.updPack c.u.core c.u.slot (fun p => (p.updLanes c.ig (Lane.ret (c.u.depth - unwindCount c n) rpc)).reap), stay := c.ig }) := by
  unfold unwindCount
  refine ⟨_, rfl, fun c hh hk => ⟨fun h0 => ?_, fun rpc h0 hrec => ?_⟩⟩
  · simp only [hh, Option.isSome_none, Bool.false_eq_true, if_neg hk, if_pos h0, if_false]
  · simp only [hh, Option.isSome_none, Bool.false_eq_true, if_neg hk, if_neg h0, if_false, hrec]

theorem State.recordRpc_onChip {s : State} {c sl d : Nat} {p : Pack} (hp : s.pack? c sl = some p) (h : (p.frames.getD d {}).onChip = true) :
    s.recordRpc c sl d = (s, .ok (p.frames.getD d {}).rpc) := by
  unfold State.recordRpc
  rw [State.pack_of_pack? hp]
  exact if_pos h

/-- UNWIND makes its lanes returned over the frames it names, and frees what is finished. -/
theorem unwindReturnsAcrossFrames : Claims.UnwindReturnsAcrossFrames := by
  intro s u p n hi hno
  have hne := groupTrap_ne_nil hi rfl
  rw [frameTraps_unwind] at hno
  obtain ⟨hh, hle⟩ : p.handler = none ∧ ¬ unwindCount (ctxOf (.unwind n) s u p) n > u.depth := by
    split at hno
    · exact absurd hno (hne _ _)
    rename_i hh
    refine ⟨by simpa using hh, fun hk => hne tFRAME 2 ?_⟩
    rwa [if_pos ((unwindCount_gt_iff _ n).1 hk)] at hno
  obtain ⟨body, hex, hbody⟩ := exec_unwind_returns n s
  obtain ⟨hstay, hreturn⟩ := hbody (ctxOf (.unwind n) s u p) hh hle
  refine ⟨fun h0 => ?_, fun h0 hchip => ?_⟩
  · have hall : u.ig &&& ~~~(0 : Word) = u.ig := BitVec.and_allOnes
    exact hall ▸ unit_done hi hex (hstay h0) rfl rfl (State.updPack_same hi.2.2.1).symm rfl
  · generalize hk : (if n = 0 then u.depth else n.toNat) = k at h0 hchip ⊢
    rw [show unwindCount (ctxOf (.unwind n) s u p) n = k from hk] at hle hreturn
    have hrec : s.recordRpc u.core u.slot (u.depth + 1 - k) = (s, .ok (p.frames.getD (u.depth - k + 1) {}).rpc) := by
      rw [Nat.sub_add_comm (Nat.not_lt.1 hle)]
      exact State.recordRpc_onChip hi.2.2.1 hchip
    have hdone := unit_done hi hex (hreturn _ h0 hrec) rfl rfl rfl (by rw [Pack.reap_handler, Pack.updLanes_handler])
    rwa [ctxOf_ig, BitVec.and_not_self] at hdone

/-- Settles O13: RET and UNWIND, each read off its body where it traps nothing and its records are on chip. -/
theorem retAndUnwindReturnLanes : Obligations.RetAndUnwindReturnLanes := ⟨retCopiesResultsAndReturns, unwindReturnsAcrossFrames⟩

/-! ## EXIT, and the end of a delivery (R196, R223, R390) -/

theorem exec_exit (s : State) : ∃ body, exec .exit s = runUnit .exit (instrUses .exit) body s ∧
    ∀ c : Ctx, (c.p.handler = none → body c = { s := c.s.updPack c.u.core c.u.slot (fun p => p.exitLanes c.ig), stay := c.ig }) ∧
      (c.p.handler.isSome = true → body c = { s := endHandler c.s c.u.core c.u.slot true, stay := c.ig }) := by
  refine ⟨_, rfl, fun c => ⟨fun h => ?_, fun h => ?_⟩⟩
  · rw [h]; rfl
  · rw [if_pos h]

theorem exec_ret_endsDelivery (s : State) : ∃ body, exec .ret s = runUnit .ret (instrUses .ret) body s ∧
    ∀ c : Ctx, c.p.handler.isSome = true → body c = { s := endHandler c.s c.u.core c.u.slot false, stay := c.ig } :=
  ⟨_, rfl, fun _ h => if_pos h⟩

/-- A unit that reads no vector register meets no tag. -/
theorem tagged_eq_nil {i : Instr} (hi : (instrUses i).rd = []) (s : State) (u : Cur) (p : Pack) : (ctxOf i s u p).tagged = [] := by
  have hrd : (usesOf i).rd = [] := hi
  unfold ctxOf mkCtx
  refine List.filterMap_eq_nil_iff.2 fun l _ => ?_
  split
  · rfl
  · unfold tagTrap
    rw [hrd]
    rfl

/-- The end of a delivery is the unit's whole effect. -/
theorem endHandler_ends {i : Instr} {s : State} {u : Cur} {p e : Pack} (hi : Issues i s u p) (hrd : (instrUses i).rd = []) {body : Ctx → Res} {x : Bool}
    (hex : exec i s = runUnit i (instrUses i) body s) (hb : body (ctxOf i s u p) = { s := endHandler s u.core u.slot x, stay := u.ig })
    (he : (endHandler s u.core u.slot x).pack? u.core u.slot = some e) :
    ∃ t q, exec i s = .next t ∧ t.pack? u.core u.slot = some q ∧ SameRest (endHandler s u.core u.slot x) t ∧
      SameCores (endHandler s u.core u.slot x) t ∧ Ends (ctxOf i s u p) e q 0 ∧ q.pending = e.pending := by
  obtain ⟨t, q, hnext, ho, hends, hpend⟩ := unit_ends hi hex hb rfl rfl he
  rw [BitVec.and_not_self] at hends
  rw [tagged_eq_nil hrd] at hpend
  exact ⟨t, q, hnext, ho.1, ho.2.1, ho.2.2.1, hends, hpend⟩

/-- Settles O15: EXIT's effect below handler level is exitLanes; at handler level that of RET and EXIT is endHandler. -/
theorem exitAndHandlerReturnEndLanes : Obligations.ExitAndHandlerReturnEndLanes := by
  refine ⟨fun s u p hi hh => ?_, fun i s u p e hor hi hh he => ?_⟩
  · obtain ⟨body, hex, hbody⟩ := exec_exit s
    have hdone := unit_done hi hex ((hbody (ctxOf .exit s u p)).1 hh) rfl rfl rfl (by rw [ctxOf_ig, Pack.exitLanes_handler hh, hh])
    rwa [ctxOf_ig, BitVec.and_not_self] at hdone
  · rcases hor with rfl | rfl
    · obtain ⟨body, hex, hbody⟩ := exec_ret_endsDelivery s
      exact endHandler_ends hi rfl hex (hbody _ hh) he
    · obtain ⟨body, hex, hbody⟩ := exec_exit s
      exact endHandler_ends hi rfl hex ((hbody _).2 hh) he

end Sys2Proof.Machine
end

section
namespace Sys2Proof.Machine
open Sys2Proof Sys2Proof.Claims

set_option Elab.async false

/-! ## RESIZE of a frame whose unlisted registers are not zero (R187) -/

/-- A frame of one granule in which every register that is not listed holds 1. -/
def onesFrame : Frame := { size := 1, fill := { val := 1 } }

/-- A pack whose only frame it is. -/
def onesPack : Pack := { Tests.p0 with frames := [onesFrame] }

/-- A launch without SNINIT, with backing for two granules. -/
def beforeResize : State := { Tests.st onesPack with cores := Tests.all160 {}, launches := [(1, { uid := 1, r := { fbsize := 96 } })] }

theorem beforeResize_legal : beforeResize.legal = true := by decide +kernel

theorem resize_issues : (Instr.resize 2).wf = true ∧ Issues (.resize 2) beforeResize Tests.un onesPack ∧
    frameTraps (ctxOf (.resize 2) beforeResize Tests.un onesPack) (.resize 2) = [] := by decide +kernel

theorem resize_granted : Granted beforeResize Tests.un onesPack 3 1 ∧ onesFrame.base + 2 ≤ 480 ∧
    ∀ r ∈ beforeResize.poolRuns 0, r.1 = onesFrame.base ∨ r.1 + r.2 ≤ onesFrame.base ∨ onesFrame.base + 2 ≤ r.1 := by decide +kernel

/-- Register 8, which the RESIZE adds, holds 1 in lane 0: growth lists no cells, and what is not listed reads as the frame's filling. -/
theorem resize_addsOnes : ∃ t, exec (.resize 2) beforeResize = .next t ∧ ((t.pack 0 0).frames.getD 0 {}).cell 8 0 = { val := 1 } :=
  ⟨_, rfl, by decide +kernel⟩

/-- Refutes O14: by the statement a register that RESIZE adds without SNINIT holds zero, whatever the frame's unlisted registers hold. Growth drops the cells above the
old size, so they read as the frame's own filling, which nothing in the statement (or in `State.legal`) says is zero; here it is 1. -/
theorem not_framesResizeAndAreFreed : ¬ Obligations.FramesResizeAndAreFreed := by
  unfold Obligations.FramesResizeAndAreFreed
  rintro ⟨hresize, -⟩
  obtain ⟨hwf, hi, hno⟩ := resize_issues
  obtain ⟨hgranted, hbase, hfits⟩ := resize_granted
  obtain ⟨f, -, -, -, -, -, hcells, t, q, hex, hq, -, -, -, -, ⟨-, -, -, -, -, -, -, hframes⟩, -⟩ :=
    hresize beforeResize Tests.un onesPack 2 0 hwf hi hno (.inr ⟨rfl, rfl⟩) (fun _ => ⟨hgranted, .inr ⟨rfl, hbase, hfits⟩⟩)
  have hzero : f.cell 8 0 = {} := hcells 8 0 (by decide) (by decide)
  have hq8 : (q.frames.getD 0 {}).cell 8 0 = f.cell 8 0 := (hframes 0).2 8 0
  obtain ⟨t', hex', hone⟩ := resize_addsOnes
  obtain rfl : t = t' := Host.Outcome.next.inj (hex.symm.trans hex')
  have hpack : t.pack 0 0 = q := State.pack_of_pack? hq
  rw [hpack, hq8, hzero] at hone
  exact absurd hone (by decide)

end Sys2Proof.Machine
end
